-- ==== Sys2Proof/Word.lean ====
section
/-! DEFINITION. The word types of the J9 (R3, R4, R62) and their plainest arithmetic. -/

namespace Sys2Proof

/-- A 32-bit register word. -/
abbrev Word := BitVec 32
/-- A 64-bit value: a register pair, an address, a counter (R4, R32). -/
abbrev DWord := BitVec 64
/-- One byte of memory. -/
abbrev Byte := BitVec 8
/-- A set of lanes, lane i in bit i (R103: sys.elanes). Waves have at most 64 lanes (R129). -/
abbrev Lanes := BitVec 64
/-- A 7-bit register field of word 0 or word 1 (R30, R36). -/
abbrev Fld := BitVec 7

/-- A 32-bit value with its poison bit (R169). -/
structure Val where
  bits   : Word
  poison : Bool
  deriving DecidableEq, Repr

/-- A 64-bit value with the OR of its words' poison bits (R169). -/
structure Val64 where
  bits   : DWord
  poison : Bool
  deriving DecidableEq, Repr

/-- The value an unmapped name, or `zero`, reads (R138, R146). -/
def Val.zero : Val := ⟨0#32, false⟩

end Sys2Proof
end

