-- ==== Sys2Proof/Syntax.lean ====
section
/-! DEFINITION. The instructions and events of the J9: one constructor of `Instr` per row of the spec's table of
operations and events. A Daosh instruction carries the fields of its word-1 layout (R30, R36, R40, R42, R44), an event
carries what the agent that raises it supplies. -/

namespace Sys2Proof

/-- LEN, bits [1:0] of word 0 (R28). -/
inductive Len where
  | w32 | w64 | lit | perm
  deriving DecidableEq, Repr

/-- The permute pattern of PB, PA and PC (R38). -/
inductive Pat where
  | none | rotUp | butterfly | broadcast | mirror | rotDown
  deriving DecidableEq, Repr

/-- One source permute: pattern and parameter (R38). -/
structure Permute where
  pat : Pat
  k   : BitVec 6
  deriving DecidableEq, Repr

/-- RND (R39). -/
inductive Rnd where
  | mode | rne | rtz | rna
  deriving DecidableEq, Repr

/-- GRD: bit 3 negates, bits [2:0] name the predicate (R37). -/
structure Guard where
  neg  : Bool
  pred : BitVec 3
  deriving DecidableEq, Repr

/-- SIZE (R40). -/
inductive Size where
  | b8 | b16 | b32 | b64 | b128 | b256
  deriving DecidableEq, Repr

/-- SCOPE (R40, R285). -/
inductive Scope where
  | wave | block | gang | device | node | pod | job
  deriving DecidableEq, Repr

/-- ORDER (R40). -/
inductive Order where
  | relaxed | acquire | release | seqCst
  deriving DecidableEq, Repr

/-- CACHE (R40, R232). -/
inductive Cache where
  | dflt | stream | bypass | hold
  deriving DecidableEq, Repr

/-- The fields of an instruction of the general layout (R30, R36, R43, R44). `lit` is word 2 of the literal form and
`pa`, `pc` are the permutes of word 2 of the permute form. (DEDUCED: log 19.) -/
structure Gen where
  len  : Len
  lb   : Bool
  la   : Bool
  b    : Fld
  a    : Fld
  d    : Fld
  pb   : Permute
  rnd  : Rnd
  sub  : BitVec 5
  look : BitVec 4
  lc   : Bool
  c    : Fld
  grd  : Guard
  lit  : Word
  pa   : Permute
  pc   : Permute
  deriving DecidableEq, Repr

/-- The fields of an instruction of the memory layout (R40, R41, R43). `off` is word 2 of the literal form. -/
structure Mem where
  len   : Len
  lb    : Bool
  la    : Bool
  b     : Fld
  a     : Fld
  d     : Fld
  sub   : BitVec 5
  cache : Cache
  order : Order
  scope : Scope
  size  : Size
  look  : BitVec 4
  lc    : Bool
  c     : Fld
  grd   : Guard
  off   : Word
  deriving DecidableEq, Repr

/-- The fields of an instruction of the matrix layout (R42). -/
structure Mat where
  len  : Len
  lb   : Bool
  la   : Bool
  b    : Fld
  a    : Fld
  d    : Fld
  lc   : Bool
  sub  : BitVec 5
  look : BitVec 4
  keep : Bool
  c    : Fld
  grd  : Guard
  deriving DecidableEq, Repr

/-- The fields of the PC-relative forms of BRA and CALL: the offset in words, signed (R35). -/
structure Bra where
  len : Len
  off : BitVec 32
  grd : Guard
  deriving DecidableEq, Repr

/-- The kind of a remote request (R381). -/
inductive ReqKind where
  | load | write | atomic | cas | keyed | putfData | putfFlag | mailbox | slotRelease | carryForward | interrupt
  | retirement
  deriving DecidableEq, Repr

/-- The key of a lane's remote operation at its owner (R382). -/
structure Key where
  rank   : Nat
  incarn : Nat
  serial : DWord
  lane   : Nat
  deriving DecidableEq, Repr

/-- A remote request packet, one lane's operation or one packet of it (R381). `data` is the payload: operand bytes,
low byte first; for CAS compare then new, for a keyed reduction key then value, for PUTF flag the flag bytes, for a
mailbox SENDER, SLOTS, SLOTSIZE and the payload, for an interrupt the payload, for a COLL packet by lane 8 bytes of region
and offset and the operand. `tctx` and `vec` are used by interrupts; `mask` has the lanes of a COLL packet, and is zero in
every other request. -/
structure RemoteReq where
  kind     : ReqKind
  key      : Key
  target   : Nat
  tIncarn  : Nat
  packet   : Nat
  packets  : Nat
  region   : Nat
  offset   : Nat
  sub      : BitVec 5
  size     : Nat
  order    : Order
  scope    : Scope
  data     : List Byte
  flagReg  : Nat
  flagOff  : Nat
  tctx     : Nat
  vec      : Nat
  mask     : Lanes
  deriving DecidableEq, Repr

/-- A reply to a remote request (R386). `ack` carries the returned bytes, their poison, and the mailbox slot. -/
inductive Reply where
  | ack (value : List Byte) (poison : Bool)
  | duplicate (value : List Byte) (poison : Bool)
  | nack (packets : List Nat)
  | parked
  | busy
  | stale
  | denied (einfo : Nat)
  deriving DecidableEq, Repr

/-- How a host interrupt send arrives (R409). -/
inductive HostVia where
  | cxl | pcie
  deriving DecidableEq, Repr

/-- What a CXL.cache snoop of the host asks of a host-memory half-line (R249). -/
inductive SnoopKind where
  | read | invalidate
  deriving DecidableEq, Repr

/-- The state of a port (R380). -/
inductive PortState where
  | disabled | training | up | degraded | down
  deriving DecidableEq, Repr

/-- One constructor per row of the table of operations and events. The constructor of a wave instruction carries its
encoded fields; `sysQctl` is the row COMM_PARTITION, whose operation only sys.qctl (SYS SUB 10) performs: its B names
that operation or a context or queue command (R314). The host's forms of the context and queue commands are the rows
CREATE to RETRY. -/
inductive Instr where
  -- bring-up, control space, management
  | powerUp
  | bootTrainingComplete
  | reset (v : DWord)
  | hotReset
  | functionLevelReset
  | attcmd (v : DWord)
  | quoteComplete
  | powercap (v : DWord)
  | powercapTakesEffect
  | bridgefence
  | registerWrite (off : Nat) (v : DWord)
  -- context and queue commands of the host
  | create (ctx : Nat)
  | suspend (ctx : Nat)
  | resume (ctx : Nat)
  | destroy (ctx : Nat)
  | wresume (ctx : Nat) (tag : Nat) (grid : Nat)
  | stop (ctx : Nat)
  | start (ctx : Nat)
  | skip (ctx : Nat)
  | retry (ctx : Nat)
  | sysQctl (g : Gen)
  | hostInterruptSend (ctx : Nat) (vec : Nat) (payload : DWord) (via : HostVia) (whole : Bool) (poisoned : Bool)
  -- scheduling
  | sliceEnd (ctx : Nat)
  | waitBudgetExceeded (ctx : Nat)
  | waveSaveComplete (wave : Nat)
  | restoreWave (wave : Nat) (core : Nat) (quad : Nat)
  | reportedTrapDue (wave : Nat)
  | serviceEventDispatch (die : Nat)
  | launchExamine (ctx : Nat) (queue : Nat)
  | distributorTakeGang (die : Nat)
  | placeGang (core : Nat)
  | steal (core : Nat)
  | gangHeadTimeout (core : Nat)
  | splitRaise (wave : Nat) (slot : Nat)
  | yieldExpiry (wave : Nat) (slot : Nat)
  | checkpoint (wave : Nat)
  | checkpointDiscard (wave : Nat) (ck : Nat)
  | registerReturn (wave : Nat) (phys : Nat)
  | spill (quad : Nat)
  | spillRefill (wave : Nat) (win : Nat)
  | waveEnd (wave : Nat)
  | permitGrant (die : Nat)
  | permitIdleReturn (quad : Nat)
  | arrayStart (quad : Nat)
  | mmaComplete (quad : Nat)
  -- lines, homes and the host
  | l1AgeLimit (core : Nat) (frame : Nat)
  | drainOrder (msg : Nat)
  | drainAck (msg : Nat)
  | holderProbe (msg : Nat)
  | probeResponse (msg : Nat)
  | homeWriteback (msg : Nat)
  | hostRead (addr : Nat) (size : Nat) (cacheable : Bool)
  | hostWrite (addr : Nat) (data : List Byte) (poisoned : Bool)
  | backInvalidationComplete (msg : Nat) (dirty : Option (List Byte))
  | hostSnoop (addr : Nat) (kind : SnoopKind)
  | corePowerGate (core : Nat)
  | outboundHoldEnd (wave : Nat)
  | homeRead (msg : Nat)
  | homeWrite (msg : Nat)
  | homeAtomic (msg : Nat)
  | memoryReply (msg : Nat)
  | redkContribution (msg : Nat)
  | redkResend (msg : Nat)
  -- pages and queues
  | pageRecheck (ctx : Nat)
  | headerWriteSeen (ctx : Nat) (engine : Bool) (queue : Nat)
  | entryTake (ctx : Nat) (queue : Nat)
  | engineBind (engine : Nat)
  | engineSteal (engine : Nat)
  | chunkComplete (engine : Nat)
  -- groups, barriers, carries, bias
  | groupRequest (msg : Nat)
  | gredResend (msg : Nat)
  | gredResult (msg : Nat)
  | barrierCellRequest (msg : Nat)
  | carryPost (msg : Nat)
  | carryForward (msg : Nat)
  | biasFlipComplete (granule : Nat)
  -- the link
  | remoteRequest (req : RemoteReq)
  | remoteReply (key : Key) (r : Reply)
  | retransmitTimeout (key : Key)
  | busyResend (key : Key)
  | retirementNotice (rank : Nat) (incarn : Nat) (ctx : Nat) (tag : Nat) (gridLo : Nat) (gridHi : Nat)
  | retirementAck (ctx : Nat) (tag : Nat)
  | portStateChange (port : Nat) (st : PortState) (lanes : Nat)
  | injectorTrigger (lane : Nat)
  | injectorDelayEnd (lane : Nat)
  | slotReleaseNotice (descriptor : DWord) (released : DWord)
  | interruptSend (msg : Nat)
  | interruptDelivery (ctx : Nat)
  | strikeReport (quad : Nat)
  -- control instructions
  | nop (g : Gen)
  | bra (g : Bra)
  | brx (g : Gen)
  | call (g : Bra)
  | callx (g : Gen)
  | ret (g : Gen)
  | enter (g : Gen)
  | exit (g : Gen)
  | region (g : Gen)
  | mode (g : Gen)
  | modeSet (g : Gen)
  | modeClr (g : Gen)
  | moderd (g : Gen)
  | yield (g : Gen)
  | trap (g : Gen)
  | brk (g : Gen)
  | waitc (g : Gen)
  -- SYS
  | sysSret (g : Gen)
  | sysSmovr (g : Gen)
  | sysSmovw (g : Gen)
  | sysTlbinv (g : Gen)
  | sysTlbsync (g : Gen)
  | sysEvict (g : Gen)
  | sysRankw (g : Gen)
  | sysClaimd (g : Gen)
  | sysClaimf (g : Gen)
  | sysInj (g : Gen)
  | sysGkill (g : Gen)
  | sysGrelaunch (g : Gen)
  | sysBiasset (g : Gen)
  | sysWake (g : Gen)
  -- integer, moves, conversions
  | iadd (g : Gen)
  | isub (g : Gen)
  | imul (g : Gen)
  | imulh (g : Gen)
  | imad (g : Gen)
  | imin (g : Gen)
  | imax (g : Gen)
  | and (g : Gen)
  | or (g : Gen)
  | xor (g : Gen)
  | shl (g : Gen)
  | shr (g : Gen)
  | sar (g : Gen)
  | bits (g : Gen)
  | iset (g : Gen)
  | sel (g : Gen)
  | mov (g : Gen)
  | movl (g : Gen)
  | lea (g : Gen)
  | cvt (g : Gen)
  | pack (g : Gen)
  | unpk (g : Gen)
  | plog (g : Gen)
  | pmov (g : Gen)
  | rdlane (g : Gen)
  | wrlane (g : Gen)
  -- floating point
  | fadd (g : Gen)
  | fsub (g : Gen)
  | fmul (g : Gen)
  | ffma (g : Gen)
  | fmin (g : Gen)
  | fmax (g : Gen)
  | fset (g : Gen)
  | frnd (g : Gen)
  | fdiv (g : Gen)
  | sfu (g : Gen)
  | pkfma (g : Gen)
  | pkadd (g : Gen)
  | pkmul (g : Gen)
  | fdot (g : Gen)
  | fclass (g : Gen)
  | fscl (g : Gen)
  -- cross-lane
  | perm (g : Gen)
  | ballot (g : Gen)
  | vote (g : Gen)
  | matchl (g : Gen)
  | scanl (g : Gen)
  | redl (g : Gen)
  | topk (g : Gen)
  | compress (g : Gen)
  | expand (g : Gen)
  | lda (g : Gen)
  | sta (g : Gen)
  -- memory
  | ld (m : Mem)
  | st (m : Mem)
  | atom (m : Mem)
  | red (m : Mem)
  | cas (m : Mem)
  | redk (m : Mem)
  | fence (m : Mem)
  | pref (m : Mem)
  | cstore (m : Mem)
  | cwait (m : Mem)
  | wback (m : Mem)
  | invl (m : Mem)
  -- tiles and accumulators
  | tld (m : Mem)
  | ttag (g : Gen)
  | mma (x : Mat)
  | mmas (x : Mat)
  | gathr (m : Mem)
  | accz (g : Gen)
  | accld (m : Mem)
  | accst (m : Mem)
  | accrd (g : Gen)
  | accwr (g : Gen)
  | permit (g : Gen)
  | permitRel (g : Gen)
  -- queues, link, barriers, interrupts, groups
  | qpush (m : Mem)
  | qwait (m : Mem)
  | putf (m : Mem)
  | putm (m : Mem)
  | putmRel (m : Mem)
  | coll (m : Mem)
  | cpost (m : Mem)
  | cpeek (m : Mem)
  | cpeekOut (m : Mem)
  | uint (g : Gen)
  | uiret (g : Gen)
  | uictlMask (g : Gen)
  | uictlUnmask (g : Gen)
  | uictlAck (g : Gen)
  | uictlQuery (g : Gen)
  | gjoin (g : Gen)
  | gleave (g : Gen)
  | gred (g : Gen)
  | bsync (g : Gen)
  | barInit (m : Mem)
  | barArrive (m : Mem)
  | barExpect (m : Mem)
  | barWait (m : Mem)
  | barTest (m : Mem)
  -- the remaining events
  | powerRemoved
  | reservedOpcode (w : Word)
  | sfuComplete (quad : Nat)
  | hostCopyReturn (line : Nat) (half : Nat)
  | exclusiveOwnershipGrant (msg : Nat)
  deriving DecidableEq, Repr

end Sys2Proof
end

