-- ==== Sys2Proof/Config.lean ====
section
/-! DEFINITION. What the spec fixes without giving, and the free values: constants with no body, so that nothing can be
proved of their values. A claim about a free value holds for every value of it. -/

namespace Sys2Proof

/-- A memory error that befalls the device: a single-bit error or an uncorrectable one, in an HBM4 sector, a directory
entry, a release record, a lane's register, a lane-array word, a tile's sector, an accumulator's row, a sector of an L1
frame, of the shared cache or of a scratch (R254 to R256, R429). -/
inductive ErrorSite where
  | hbm (sector : Nat) (single : Bool)
  | directory (line : Nat) (single : Bool)
  | record (line : Nat) (single : Bool)
  | corrected (core : Nat)
  | register (wave phys lane : Nat)
  | laneWord (wave word lane : Nat)
  | tile (wave tile : Nat) (side : Bool) (sector : Nat)
  | acc (wave acc row : Nat)
  | l1 (core frame sector : Nat)
  | shared (sector : Nat)
  | scratch (block sector : Nat)
  deriving DecidableEq, Repr

/-- The memory errors that befall the device, clock by clock. (DESIGN CHOICE: log 10.) -/
opaque Config.errorAt : Nat → Option ErrorSite
/-- A 64-bit free value for each number drawn: telemetry and every other value the spec leaves open (R82).
(DESIGN CHOICE: log 7.) -/
opaque Config.freeWord : Nat → DWord
/-- A free choice among n alternatives is `freeNat k % n`: replacement victims, which of two racing values lands (R82,
R317), when a TLB drops an entry under R361. (DESIGN CHOICE: log 7.) -/
opaque Config.freeNat : Nat → Nat
/-- The SFU functions other than sqrt for operands the spec gives no exact result for (R189): function index, operand
bits. The model keeps the bounds R189 gives for rcp and rsq. (DESIGN CHOICE: log 8.) -/
opaque Config.sfu : Nat → Word → Word
/-- What the device keeps in a save area in a form the spec does not give (R86): the number of the writing, the address.
(DESIGN CHOICE: log 108.) -/
opaque Config.saveByte : Nat → Nat → Byte
/-- The fixed hash of lines (R18), as exchanges of line numbers one after another: a permutation of the lines.
(DESIGN CHOICE: log 9.) -/
opaque Config.lineSwaps : List (Nat × Nat)
/-- The lines of device memory: 384 GiB of 128 bytes (R19). -/
def Config.deviceLines : Nat := 0xC0000000
/-- One exchange, of two lines of device memory or of two others. -/
def Config.swapLine (x : Nat) (p : Nat × Nat) : Nat :=
  if (p.1 < Config.deviceLines) = (p.2 < Config.deviceLines) then (if x = p.1 then p.2 else if x = p.2 then p.1 else x) else x
/-- The slice of a line number: every 64th of the permuted lines, so that each slice is the home of a sixty-fourth
(R18). -/
def Config.sliceOfLine (x : Nat) : Nat := Config.lineSwaps.foldl Config.swapLine x % 64
/-- The home slice of the line of device memory that an address lies in (R18). (DESIGN CHOICE: log 9.) -/
def Config.homeSlice (a : Nat) : Nat := Config.sliceOfLine (a / 128)
/-- The home slice of the 64-byte line of host memory that an address lies in (R367). -/
def Config.hostSlice (a : Nat) : Nat := Config.sliceOfLine (Config.deviceLines + a / 64)
/-- The host physical address that the host assigns to device memory: it names local physical address 0 (R367).
(DESIGN CHOICE: log 160.) -/
opaque Config.hostBase : Nat
/-- The HBM stack of a line, a fixed interleave (R19). (DESIGN CHOICE: log 9.) -/
opaque Config.stack : Nat → Nat
/-- The L1 set of a line; the spec gives the number of sets only (R234). (DESIGN CHOICE: log 9.) -/
opaque Config.l1Set : Nat → Nat
/-- The set of a slice's shared cache a line falls in; the spec gives no number of sets (R232). (DESIGN CHOICE: log 9.) -/
opaque Config.sharedSet : Nat → Nat
/-- The set of the holder directory a line falls in (R250). -/
opaque Config.dirSet : Nat → Nat
/-- The station of a pod request, a fixed hash of owner rank, line address and the set of usable stations (R381). -/
opaque Config.station : Nat → Nat → Nat → Nat
/-- The number an error report gives a port's state (R432). (DESIGN CHOICE: log 38.) -/
opaque Config.portCode : PortState → Byte
/-- The SHAKE256 digest of some bytes (R443, R446). (DESIGN CHOICE: log 11.) -/
opaque Config.shake256 : List Byte → List Byte
/-- The digest of the vendor key that the boot ROM holds (R443). (DESIGN CHOICE: log 11.) -/
opaque Config.vendorDigest : List Byte
/-- Whether a Falcon-1024 public key accepts a signature over a digest: the key, the signature, the digest (R443).
(DESIGN CHOICE: log 11.) -/
opaque Config.falconAccepts : List Byte → List Byte → List Byte → Bool
/-- Whether the identity can be derived from the SRAM array and the helper data (R445). (DESIGN CHOICE: log 11.) -/
opaque Config.identityOk : Bool
/-- The public identity key, 1,793 bytes (R445, R447). (DESIGN CHOICE: log 11.) -/
opaque Config.idKey : Nat → Byte
/-- The identity key's Falcon-1024 signature over a digest, per quote (R446). (DESIGN CHOICE: log 11.) -/
opaque Config.quoteSignature : Nat → List Byte → List Byte

end Sys2Proof
end

