-- ==== Sys2Proof/WellFormed.lean ====
section
/-! DEFINITION. Which encodings are instructions: every ILLEGAL condition of R50 that does not depend on the state
(R28 to R49 and the encoding tables of each chapter). The width limit of a permute (R38), the window and
declared-count checks (OPERAND) and the values of SYS operands depend on the state and are made at issue. -/

namespace Sys2Proof

/-- Why an encoding is not an instruction (R50); each is the precise ILLEGAL trap of the issuing split. -/
inductive Illegal where
  | opcode        -- reserved opcode
  | sub           -- reserved SUB
  | pattern       -- reserved PB, PA or PC
  | size          -- reserved or excluded SIZE
  | scope         -- reserved or excluded SCOPE
  | order         -- excluded ORDER
  | cache         -- excluded CACHE
  | guardField    -- GRD = 0b1000
  | reservedBit   -- nonzero reserved bit
  | unusedField   -- nonzero unused field
  | look          -- nonzero LOOK where R45 forbids it
  | rnd           -- RND where R39 forbids it
  | literal       -- nonzero B, LB, PB or PBK in a literal form
  | destination   -- zero, a special or p0 as destination
  | register      -- wrong register kind, odd or misaligned register
  | lastRead      -- last-read mark on a field not eligible for it
  | permute       -- permute on a field not eligible for it, or a parameter out of its limit
  | length        -- length excluded by R29, R34 or the entry
  | truncated     -- fewer bytes than LEN asks for
  deriving DecidableEq, Repr

/-- The opcode space of an instruction that has words (R46, R47): the layout with its primary opcode and fields. -/
inductive Enc where
  | gen (op : BitVec 7) (g : Gen)
  | mem (op : BitVec 7) (m : Mem)
  | mat (op : BitVec 7) (x : Mat)
  | bra (op : BitVec 7) (b : Bra)
  | reserved (w : Word)
  deriving DecidableEq, Repr

/-- What a register field of word 0 or C holds (R32, R164, R192, R216, R263). -/
inductive Kind where
  | none                  -- the field must be zero
  | src                   -- any 32-bit register of R31
  | srcPair               -- 64-bit operand: even v, even s, or zero (R32)
  | srcValue              -- a value register, any index
  | srcGroup (n : Nat)    -- a value register whose index is a multiple of n
  | rowA                  -- MMA's A: v0 to v64 (R42)
  | pred                  -- predicate index p0 to p7
  | selector              -- SEL's C: predicate in [2:0], [3] negates (R174)
  | tile                  -- tile index t0 to t15
  | acc                   -- accumulator index a0 to a7
  | dst                   -- 32-bit destination: v, s or b (R166)
  | dstPair               -- 64-bit destination: even v or even s
  | dstPairV              -- 64-bit destination, value register only (TOPK)
  | dstGroup (n : Nat)    -- value register destination, index a multiple of n
  | dstPred               -- p1 to p7
  deriving DecidableEq, Repr

/-- Whether a field value fits its kind. -/
def Kind.fits (k : Kind) (f : Fld) : Bool :=
  let n := f.toNat
  match k with
  | .none => n == 0
  | .src => true
  | .srcPair | .dstPair => (n < 112 && n % 2 == 0) || (n == 112 && k == .srcPair)
  | .srcValue => n < 96
  | .srcGroup m | .dstGroup m => n < 96 && n % m == 0
  | .rowA => n ≤ 64
  | .pred => n < 8
  | .selector => n < 16
  | .tile => n < 16
  | .acc => n < 8
  | .dst => n < 112 || 120 ≤ n
  | .dstPairV => n < 96 && n % 2 == 0
  | .dstPred => 1 ≤ n && n < 8

/-- Whether the field is a source read as value data: those may carry a permute (R38, R44, R166). -/
def Kind.isValueSource : Kind → Bool
  | .src | .srcPair | .srcValue | .srcGroup _ | .rowA => true
  | _ => false

/-- The reason a field of this kind is refused for: a destination is named by R32's destination rule, an unused field
by its unused-field rule. -/
def Kind.reason : Kind → Illegal
  | .none => .unusedField
  | .dst | .dstPair | .dstPairV | .dstGroup _ | .dstPred => .destination
  | _ => .register

/-- The identity permute. -/
def Permute.id : Permute := ⟨.none, 0#6⟩

/-- The limits on a permute parameter that hold whatever the width (R38): 0 for none and mirror, below 6 for a
butterfly of at most 64 lanes. -/
def Permute.ok (p : Permute) : Bool :=
  match p.pat with
  | .none | .mirror => p.k == 0#6
  | .butterfly => p.k.toNat < 6
  | .rotUp | .rotDown | .broadcast => true

/-- The guard that names p0 and does not negate: every lane (R37). -/
def Guard.all : Guard := ⟨false, 0#3⟩

/-- What the entry of a general-layout instruction says of its fields, for one value of SUB. -/
structure GenShape where
  d    : Kind
  a    : Kind
  b    : Kind
  c    : Kind
  lens : List Len
  rnd  : Bool
  look : Bool
  permA : Bool
  permB : Bool
  deriving DecidableEq, Repr

/-- A shape with the usual permissions: permutes on A and B, no rounding, no lookahead. -/
def GenShape.of (d a b c : Kind) (lens : List Len) : GenShape := ⟨d, a, b, c, lens, false, false, true, true⟩

def lens2 : List Len := [.w32, .w64]
def lensP : List Len := [.w32, .w64, .perm]
def lensL : List Len := [.w32, .w64, .lit]
def lensLP : List Len := [.w32, .w64, .lit, .perm]
def lensC : List Len := [.w64, .lit, .perm]

/-- A value operand, source or destination, at the width W selects (R164). -/
def valS (w : Bool) : Kind := if w then .srcPair else .src
def valD (w : Bool) : Kind := if w then .dstPair else .dst

/-- The operand kinds of CVT's conversion SUB: destination, source and whether it rounds (R73). -/
def cvtShape (n : Nat) : Option GenShape :=
  let mk (dp sp r : Bool) : Option GenShape :=
    some { GenShape.of (valD dp) (valS sp) .none .none lensP with rnd := r }
  match n with
  | 0 | 1 | 6 | 7 | 8 | 23 | 24 | 25 | 26 | 27 | 28 | 29 | 30 => mk false false false
  | 2 | 3 | 9 | 10 | 11 | 12 | 13 | 14 | 15 => mk false false true
  | 4 | 20 => mk true false false
  | 5 | 21 => mk false true true
  | 16 | 17 | 18 | 19 => mk true true true
  | 22 => mk true false true
  | _ => none

/-- BITS's operand kinds per variant (R173). Every variant has the literal form (R164); where B is unused nothing reads the
literal. -/
def bitsShape (n : Nat) : Option GenShape :=
  let w := 16 ≤ n
  let v := n % 16
  if v ≤ 2 then some (GenShape.of .dst (valS w) .none .none lensLP)
  else if v = 3 ∨ 13 ≤ v then some (GenShape.of (valD w) (valS w) .none .none lensLP)
  else if v = 6 ∨ v = 9 ∨ v = 10 then some (GenShape.of (valD w) (valS w) .src (valS w) lensC)
  else if v = 11 ∨ v = 12 then some (GenShape.of (valD w) (valS w) (valS w) .none lensLP)
  else some (GenShape.of (valD w) (valS w) .src .none lensLP)

/-- SYS's operand kinds per SUB (R107). Only SUB 0 has the 32-bit form; a literal needs an operation that uses B. -/
def sysShape (n : Nat) : Option GenShape :=
  let l2 : List Len := [.w64, .perm]
  let l3 : List Len := [.w64, .lit, .perm]
  match n with
  | 0 => some (GenShape.of .none .none .none .none lensP)
  | 1 => some (GenShape.of .dstPair .none .src .none l3)
  | 2 | 3 | 6 | 9 | 10 | 13 => some (GenShape.of .none .srcPair .src .none l3)
  | 4 => some (GenShape.of .none .none .none .none l2)
  | 7 | 8 => some (GenShape.of .none .srcPair .none .none l2)
  | 5 | 11 | 12 | 14 => some (GenShape.of .none .none .src .none l3)
  | _ => none

/-- The shape of a general-layout opcode for a value of SUB (R48, R153, R164, R165, R192, R216, R334, R341, R405,
R413, R415); none where the SUB is not listed. -/
def genShape (op : BitVec 7) (sub : BitVec 5) : Option GenShape :=
  let n := sub.toNat
  let w := n % 2 == 1
  let only0 (g : GenShape) : Option GenShape := if n = 0 then some g else none
  let upto (m : Nat) (g : GenShape) : Option GenShape := if n ≤ m then some g else none
  let fl (g : GenShape) : GenShape := { g with rnd := true }
  match op.toNat with
  | 0x00 | 0x05 | 0x07 | 0x08 | 0x0B | 0x78 | 0x7D => only0 (GenShape.of .none .none .none .none lens2)
  | 0x02 | 0x04 => only0 (GenShape.of .none .srcPair .none .none lensP)
  | 0x06 => if 2 ≤ n ∧ n ≤ 12 then some (GenShape.of .none .none .none .none [.w64]) else none
  | 0x09 =>
    if n = 0 then some { GenShape.of .none .src .src .none lensLP with permB := false }
    else upto 2 { GenShape.of .none .none .src .none [.w64, .lit, .perm] with permB := false }
  | 0x0A => only0 (GenShape.of .dst .none .none .none lens2)
  | 0x0C | 0x0D => only0 { GenShape.of .none .none .src .none lensL with permB := false }
  | 0x0E => upto 7 { GenShape.of .none .none .src .none lensL with permB := false }
  | 0x0F => sysShape n
  | 0x10 | 0x11 => upto 7 (GenShape.of (valD w) (valS w) (valS w) .none lensLP)
  | 0x12 =>
    if n = 8 ∨ n = 10 then some (GenShape.of .dstPair .src .src .none lensLP)
    else upto 3 (GenShape.of (valD w) (valS w) (valS w) .none lensLP)
  | 0x13 | 0x15 | 0x16 => upto 3 (GenShape.of (valD w) (valS w) (valS w) .none lensLP)
  | 0x14 =>
    if n = 8 ∨ n = 10 then some (GenShape.of .dstPair .src .src .srcPair lensC)
    else upto 3 (GenShape.of (valD w) (valS w) (valS w) (valS w) lensC)
  | 0x17 | 0x18 | 0x19 => upto 1 (GenShape.of (valD w) (valS w) (valS w) .none lensLP)
  | 0x1A | 0x1B | 0x1C => upto 1 (GenShape.of (valD w) (valS w) .src .none lensLP)
  | 0x1D => bitsShape n
  | 0x1E =>
    if n % 8 ≤ 5 then some (GenShape.of .dstPred (valS (16 ≤ n)) (valS (16 ≤ n)) .none lensLP) else none
  | 0x1F => upto 1 (GenShape.of (valD w) (valS w) (valS w) .selector lensC)
  | 0x20 =>
    if n ≤ 1 ∨ n = 3 ∨ n = 5 then some (GenShape.of (valD w) .none (valS w) .none lensL) else none
  | 0x21 => only0 (GenShape.of .dstPair .src .src .none [.lit])
  | 0x22 => upto 15 (GenShape.of .dstPair .srcPair .src .none lensLP)
  | 0x23 => cvtShape n
  | 0x24 =>
    if 3 ≤ n ∧ n ≤ 6 then some { GenShape.of .dst .src .src .src lensC with rnd := n ≤ 5 }
    else upto 2 { GenShape.of .dst .src .src .none lensLP with rnd := 1 ≤ n }
  | 0x25 => upto 8 (GenShape.of .dst .src .src .none lensLP)
  | 0x26 => upto 15 (GenShape.of .dstPred .pred .pred .none lens2)
  | 0x27 =>
    match n with
    | 0 => some (GenShape.of .dstPair .pred .none .none lens2)
    | 1 => some (GenShape.of .dstPred .srcPair .none .none lens2)
    | 2 => some (GenShape.of .dstPred .src .none .none lens2)
    | 3 => some (GenShape.of .dst .pred .none .none lens2)
    | _ => none
  | 0x28 | 0x29 => upto 1 (GenShape.of (valD w) (valS w) .src .none lensLP)
  | 0x30 | 0x31 | 0x32 => upto 1 (fl (GenShape.of (valD w) (valS w) (valS w) .none lensLP))
  | 0x33 => upto 1 (fl (GenShape.of (valD w) (valS w) (valS w) (valS w) lensC))
  | 0x34 | 0x35 => upto 1 (GenShape.of (valD w) (valS w) (valS w) .none lensLP)
  | 0x36 =>
    if n % 8 < 6 ∨ (n / 8) % 2 = 0 then
      some (GenShape.of .dstPred (valS (16 ≤ n)) (valS (16 ≤ n)) .none lensLP)
    else none
  | 0x37 => upto 1 (fl (GenShape.of (valD w) (valS w) .none .none lensP))
  | 0x38 => upto 1 { fl (GenShape.of (valD w) (valS w) (valS w) .none lensLP) with look := true }
  | 0x39 => upto 9 { GenShape.of .dst .src .none .none lensP with rnd := n = 2, look := true }
  | 0x3A => upto 3 (fl (GenShape.of .dst .src .src .src lensC))
  | 0x3B | 0x3C => upto 3 (fl (GenShape.of .dst .src .src .none lensLP))
  | 0x3D => upto 5 { GenShape.of .dst .src .src .src lensC with rnd := n ≠ 4 }
  | 0x3E => upto 1 (GenShape.of .dst (valS w) .none .none lensP)
  | 0x3F => upto 1 (fl (GenShape.of (valD w) (valS w) .src .none lensLP))
  | 0x40 => upto 3 (GenShape.of (valD w) (valS w) .src .none lensLP)
  | 0x41 => upto 1 (GenShape.of (if w then .dst else .dstPair) .pred .none .none lens2)
  | 0x42 => upto 3 (GenShape.of .dstPred .pred .none .none lens2)
  | 0x43 => upto 3 (GenShape.of (if 2 ≤ n then .dstPred else .dstPair) (valS w) .none .none lensP)
  | 0x44 =>
    if n % 16 ≤ 11 then
      some (GenShape.of (valD (n % 16 = 11)) (valS (n % 16 = 11)) .none .none lensP) else none
  | 0x45 => upto 11 (GenShape.of (valD (n = 11)) (valS (n = 11)) .none .none lensP)
  | 0x46 => upto 3 (GenShape.of .dstPairV .srcPair .src .none lensLP)
  | 0x47 | 0x48 => upto 1 (GenShape.of (valD w) (valS w) .pred .none lensP)
  | 0x49 => upto 1 (GenShape.of (valD w) .src .src .none lensLP)
  | 0x4A => upto 1 (GenShape.of .none .src .src (valS w) lensC)
  | 0x61 =>
    if n % 16 ≤ 5 ∧ (16 ≤ n → n % 16 ≤ 2) then some (GenShape.of .tile .none .none .none lens2) else none
  | 0x65 => upto 1 (GenShape.of .acc .none .none .none lens2)
  | 0x68 =>
    upto 3 { GenShape.of (.dstGroup (2 ^ n)) .acc .src .none lensL with look := true, permB := false }
  | 0x69 => upto 3 { GenShape.of .acc (.srcGroup (2 ^ n)) .src .none lensL with permB := false }
  | 0x6A => upto 1 (GenShape.of .none .none .none .none lens2)
  | 0x77 => only0 (GenShape.of .none .srcPair .src .none lensLP)
  | 0x79 =>
    upto 3 (GenShape.of (if 2 ≤ n then .dstGroup 4 else .none) .none .src .none lensL)
  | 0x7A | 0x7B => only0 (GenShape.of .none .srcPair .none .none lens2)
  | 0x7C =>
    if n = 11 then some (GenShape.of .dstPair .srcPair .srcPair .none [.w64])
    else upto 10 (GenShape.of .dst .srcPair .src .none lensL)
  | _ => none

/-- A last-read mark is legal only on a source field that names a value register or pair (R33). -/
def markOk (mark : Bool) (k : Kind) (f : Fld) : Bool := !mark || (k.isValueSource && f.toNat < 96)

/-- A permute is legal only on a source the instruction reads as value data (R38, R44, R166). -/
def permuteOk (p : Permute) (k : Kind) (allowed : Bool) : Bool :=
  p == Permute.id || (allowed && k.isValueSource && p.ok)

/-- The first reason in this order for which the fields are refused, or none. -/
def firstFailing : List (Bool × Illegal) → Option Illegal
  | [] => none
  | (ok, r) :: rest => if ok then firstFailing rest else some r

/-- Every state-independent ILLEGAL condition of a general-layout encoding (R29, R32 to R34, R36 to R39, R43 to R45,
R49, R50). -/
def Gen.check (op : BitVec 7) (g : Gen) : Option Illegal :=
  match genShape op g.sub with
  | none => some .sub
  | some s =>
    firstFailing [
      (g.grd != ⟨true, 0#3⟩, .guardField),
      (s.lens.contains g.len, .length),
      (g.len != .w32 || (g.sub == 0#5 && g.pb == Permute.id && g.rnd == .mode && g.look == 0#4 && !g.lc &&
        g.c == 0#7 && g.grd == Guard.all), .length),
      (g.len == .lit || g.lit == 0#32, .literal),
      (g.len == .perm || (g.pa == Permute.id && g.pc == Permute.id), .permute),
      (g.len != .lit || (g.b == 0#7 && !g.lb && g.pb == Permute.id), .literal),
      (g.rnd == .mode || s.rnd, .rnd),
      (g.look == 0#4 || s.look, .look),
      (s.d.fits g.d, s.d.reason),
      (s.a.fits g.a, s.a.reason),
      (g.len == .lit || s.b.fits g.b, s.b.reason),
      (s.c.fits g.c, s.c.reason),
      (markOk g.la s.a g.a, .lastRead),
      (markOk g.lb s.b g.b, .lastRead),
      (markOk g.lc s.c g.c, .lastRead),
      (permuteOk g.pa s.a s.permA, .permute),
      (permuteOk g.pb s.b s.permB, .permute),
      (permuteOk g.pc s.c true, .permute)]

/-- What the entry of a memory-layout instruction says of its fields, for one value of SUB and SIZE. -/
structure MemShape where
  d      : Kind
  a      : Kind
  b      : Kind
  c      : Kind
  lens   : List Len
  orders : List Order
  scopes : List Scope
  cache0 : Bool
  look   : Bool
  deriving DecidableEq, Repr

def allScopes : List Scope := [.wave, .block, .gang, .device, .node, .pod, .job]
def allOrders : List Order := [.relaxed, .acquire, .release, .seqCst]
def lensM : List Len := [.w64, .lit]

/-- The data operand of a load, store or atomic at a size: source and destination (R264). -/
def sizeS : Size → Kind
  | .b8 | .b16 | .b32 => .src
  | .b64 => .srcPair
  | .b128 => .srcGroup 4
  | .b256 => .srcGroup 8
def sizeD : Size → Kind
  | .b8 | .b16 | .b32 => .dst
  | .b64 => .dstPair
  | .b128 => .dstGroup 4
  | .b256 => .dstGroup 8

/-- The sizes each ATOM and RED variant takes (R270). -/
def atomSize (v : Nat) (z : Size) : Bool :=
  match v with
  | 1 | 2 | 3 | 14 | 15 => z == .b32
  | _ => z == .b32 || z == .b64

/-- A shape of the memory layout with an address in A and B. -/
def MemShape.of (d c : Kind) (lens : List Len) (orders : List Order) : MemShape :=
  ⟨d, .srcPair, .src, c, lens, orders, allScopes, false, false⟩

/-- The shape of a memory-layout opcode for SUB and SIZE (R48, R216, R226, R263, R270, R274, R326, R339, R345, R353,
R390, R394): SUB illegal, SIZE illegal, or the shape. -/
def memShape (op : BitVec 7) (sub : BitVec 5) (z : Size) : Except Illegal MemShape :=
  let n := sub.toNat
  let need (okSub okSize : Bool) (s : MemShape) : Except Illegal MemShape :=
    if !okSub then .error .sub else if !okSize then .error .size else .ok s
  let word := z == .b32 || z == .b64
  match op.toNat with
  | 0x50 => need (n ≤ 1) (n == 0 || z == .b8 || z == .b16)
      { MemShape.of (sizeD z) .none lensL [.relaxed, .acquire, .seqCst] with look := true }
  | 0x51 => need (n == 0) true (MemShape.of .none (sizeS z) lensM [.relaxed, .release, .seqCst])
  | 0x52 => need (n ≤ 15) (atomSize n z) { MemShape.of (sizeD z) (sizeS z) lensM allOrders with look := true }
  | 0x53 => need (n ≤ 15) (atomSize n z) (MemShape.of .none (sizeS z) lensM allOrders)
  | 0x54 => need (n == 0) word
      { MemShape.of (sizeD z) (.srcGroup (if z == .b32 then 2 else 4)) lensM allOrders with look := true }
  | 0x55 => need (n ≤ 5) word
      (MemShape.of .none (.srcGroup (if z == .b32 then 2 else 4)) lensM [.relaxed, .release])
  | 0x56 => need (n == 0) (z == .b32)
      { MemShape.of .none .none [.w64] [.acquire, .release, .seqCst] with a := .none, b := .none, cache0 := true }
  | 0x57 => need (n == 0) (z == .b32) (MemShape.of .none .none lensL [.relaxed])
  | 0x58 => need (n ≤ 1) (z != .b128 && z != .b256)
      (MemShape.of (if n = 1 then .dst else .none) (sizeS z) lensM [.relaxed, .release, .seqCst])
  | 0x59 => need (n == 0) word { MemShape.of .none (sizeS z) lensM [.relaxed, .acquire] with cache0 := true }
  | 0x5A | 0x5B => need (n ≤ 1) (z == .b32)
      (if n = 1 then { MemShape.of .none .none lensL [.relaxed] with a := .none, b := .none }
       else MemShape.of .none .none lensL [.relaxed])
  | 0x60 => need (n ≤ 1) (z == .b128) { MemShape.of .tile .src lensM [.relaxed, .acquire] with look := true }
  | 0x64 => need (n ≤ 1) (z == .b128) { MemShape.of .tile .src lensM [.relaxed, .acquire] with look := true }
  | 0x66 => need (n < 16 && (n / 4) % 2 == 0 && (z != .b256 || n % 4 < 2)) (z == .b128 || z == .b256)
      { MemShape.of .acc .none lensM [.relaxed, .acquire] with look := true }
  | 0x67 => need (n < 4 && (z != .b256 || n < 2)) (z == .b128 || z == .b256)
      (MemShape.of .acc .none lensM [.relaxed, .release])
  | 0x70 => need (n ≤ 1) (z == .b32)
      { MemShape.of (if n = 1 then .dstPair else .none) .src lensM [.relaxed] with
        scopes := [.device], cache0 := true }
  | 0x71 => need (n == 0) (z == .b64)
      { MemShape.of .none .srcPair lensM [.relaxed, .acquire] with scopes := [.device], cache0 := true }
  | 0x72 => need (n ≤ 1) word { MemShape.of .none (.srcGroup 8) lensM [.relaxed, .release] with cache0 := true }
  | 0x73 => need (n ≤ 1) (z == .b32)
      { MemShape.of .none (if n = 1 then .src else .srcGroup 4) lensM
          [if n = 1 then .release else .relaxed] with cache0 := true }
  | 0x74 => need (n % 16 ≤ 13) (atomSize (n % 16) z)
      { MemShape.of (if 16 ≤ n then sizeD z else .none) (sizeS z) lensM
          (if 16 ≤ n then allOrders else [.relaxed, .release]) with
        scopes := [.device, .node, .pod, .job], cache0 := true, look := 16 ≤ n }
  | 0x75 => need (n ≤ 11) (z == (if n = 11 then .b64 else .b32))
      { MemShape.of .none (if n = 11 then .srcPair else .src) lensM [.relaxed, .release] with cache0 := true }
  | 0x76 => need (n ≤ 1) word
      { MemShape.of (sizeD z) .none lensL [.relaxed, .acquire] with cache0 := true, look := true }
  | 0x7E =>
    let bar (d c : Kind) (os : List Order) : MemShape := { MemShape.of d c lensM os with cache0 := true }
    match n with
    | 0 => need true (z == .b32) (bar .none .src [.relaxed])
    | 1 => need true (z == .b32) (bar .dst .none [.relaxed, .release])
    | 2 => need true (z == .b32) (bar .none .src [.relaxed])
    | 3 => need true (z == .b32) (bar .none .src [.relaxed, .acquire])
    | 4 => need true (z == .b32) (bar .dst .src [.relaxed, .acquire])
    | _ => .error .sub
  | _ => .error .opcode

/-- Every state-independent ILLEGAL condition of a memory-layout encoding (R29, R32 to R34, R40, R41, R43, R50). -/
def Mem.check (op : BitVec 7) (m : Mem) : Option Illegal :=
  match memShape op m.sub m.size with
  | .error e => some e
  | .ok s =>
    firstFailing [
      (m.grd != ⟨true, 0#3⟩, .guardField),
      (s.lens.contains m.len, .length),
      (m.len != .w32 || (m.sub == 0#5 && m.cache == .dflt && m.order == .relaxed && m.scope == .device &&
        m.size == .b32 && m.look == 0#4 && !m.lc && m.c == 0#7 && m.grd == Guard.all), .length),
      (m.len == .lit || m.off == 0#32, .literal),
      (s.orders.contains m.order, .order),
      (s.scopes.contains m.scope, .scope),
      (!s.cache0 || m.cache == .dflt, .cache),
      (m.look == 0#4 || s.look, .look),
      (s.d.fits m.d, s.d.reason),
      (s.a.fits m.a, s.a.reason),
      (s.b.fits m.b, s.b.reason),
      (s.c.fits m.c, s.c.reason),
      (markOk m.la s.a m.a, .lastRead),
      (markOk m.lb s.b m.b, .lastRead),
      (markOk m.lc s.c m.c, .lastRead)]

/-- Every state-independent ILLEGAL condition of MMA and MMAS (R42, R216, R217). -/
def Mat.check (x : Mat) : Option Illegal :=
  let n := x.sub.toNat
  let scaled := 16 ≤ n
  firstFailing [
    (n % 16 ≤ 5, .sub),
    (x.grd != ⟨true, 0#3⟩, .guardField),
    (x.len == .w32 || x.len == .w64, .length),
    (x.len != .w32 || (x.sub == 0#5 && x.look == 0#4 && !x.keep && !x.lc && x.c == 0#7 && x.grd == Guard.all), .length),
    (Kind.acc.fits x.d, .register),
    (Kind.tile.fits x.b, .register),
    (Kind.rowA.fits x.a, .register),
    (if scaled then Kind.srcValue.fits x.c else x.c == 0#7, if scaled then .register else .unusedField),
    (!x.lb, .lastRead),
    (!x.lc || scaled, .lastRead)]

/-- Every ILLEGAL condition of BRA and CALL (R35): no permute form, and the offset fits its form. -/
def Bra.check (b : Bra) : Option Illegal :=
  firstFailing [
    (b.grd != ⟨true, 0#3⟩, .guardField),
    (b.len != .perm, .length),
    (b.len != .w32 || b.grd == Guard.all, .length),
    (b.len == .lit || (b.off.truncate 23).signExtend 32 == b.off, .literal)]

/-- The reserved primary opcodes (R46, R50). -/
def reservedOp (op : BitVec 7) : Bool :=
  let n := op.toNat
  (0x2A ≤ n && n ≤ 0x2F) || (0x4B ≤ n && n ≤ 0x4F) || (0x5C ≤ n && n ≤ 0x5F) || (0x6B ≤ n && n ≤ 0x6F) || n == 0x7F

/-- OP, bits [8:2] of word 0 (R30). -/
def opOf (w0 : Word) : BitVec 7 := w0.extractLsb' 2 7

/-- Every state-independent ILLEGAL condition of an encoding. -/
def Enc.check : Enc → Option Illegal
  | .gen op g => g.check op
  | .mem op m => m.check op
  | .mat _ x => x.check
  | .bra _ b => b.check
  | .reserved w => if reservedOp (opOf w) then none else some .opcode

/-- The encoding an instruction has, none for an event (R46, R47). -/
def Instr.enc : Instr → Option Enc
  | .nop g => some (.gen 0x00#7 g)
  | .bra b => some (.bra 0x01#7 b)
  | .brx g => some (.gen 0x02#7 g)
  | .call b => some (.bra 0x03#7 b)
  | .callx g => some (.gen 0x04#7 g)
  | .ret g => some (.gen 0x05#7 g)
  | .enter g => some (.gen 0x06#7 g)
  | .exit g => some (.gen 0x07#7 g)
  | .region g => some (.gen 0x08#7 g)
  | .mode g | .modeSet g | .modeClr g => some (.gen 0x09#7 g)
  | .moderd g => some (.gen 0x0A#7 g)
  | .yield g => some (.gen 0x0B#7 g)
  | .trap g => some (.gen 0x0C#7 g)
  | .brk g => some (.gen 0x0D#7 g)
  | .waitc g => some (.gen 0x0E#7 g)
  | .sysSret g | .sysSmovr g | .sysSmovw g | .sysTlbinv g | .sysTlbsync g | .sysEvict g | .sysRankw g | .sysClaimd g
  | .sysClaimf g | .sysInj g | .sysQctl g | .sysGkill g | .sysGrelaunch g | .sysBiasset g | .sysWake g =>
    some (.gen 0x0F#7 g)
  | .iadd g => some (.gen 0x10#7 g)
  | .isub g => some (.gen 0x11#7 g)
  | .imul g => some (.gen 0x12#7 g)
  | .imulh g => some (.gen 0x13#7 g)
  | .imad g => some (.gen 0x14#7 g)
  | .imin g => some (.gen 0x15#7 g)
  | .imax g => some (.gen 0x16#7 g)
  | .and g => some (.gen 0x17#7 g)
  | .or g => some (.gen 0x18#7 g)
  | .xor g => some (.gen 0x19#7 g)
  | .shl g => some (.gen 0x1A#7 g)
  | .shr g => some (.gen 0x1B#7 g)
  | .sar g => some (.gen 0x1C#7 g)
  | .bits g => some (.gen 0x1D#7 g)
  | .iset g => some (.gen 0x1E#7 g)
  | .sel g => some (.gen 0x1F#7 g)
  | .mov g => some (.gen 0x20#7 g)
  | .movl g => some (.gen 0x21#7 g)
  | .lea g => some (.gen 0x22#7 g)
  | .cvt g => some (.gen 0x23#7 g)
  | .pack g => some (.gen 0x24#7 g)
  | .unpk g => some (.gen 0x25#7 g)
  | .plog g => some (.gen 0x26#7 g)
  | .pmov g => some (.gen 0x27#7 g)
  | .rdlane g => some (.gen 0x28#7 g)
  | .wrlane g => some (.gen 0x29#7 g)
  | .fadd g => some (.gen 0x30#7 g)
  | .fsub g => some (.gen 0x31#7 g)
  | .fmul g => some (.gen 0x32#7 g)
  | .ffma g => some (.gen 0x33#7 g)
  | .fmin g => some (.gen 0x34#7 g)
  | .fmax g => some (.gen 0x35#7 g)
  | .fset g => some (.gen 0x36#7 g)
  | .frnd g => some (.gen 0x37#7 g)
  | .fdiv g => some (.gen 0x38#7 g)
  | .sfu g => some (.gen 0x39#7 g)
  | .pkfma g => some (.gen 0x3A#7 g)
  | .pkadd g => some (.gen 0x3B#7 g)
  | .pkmul g => some (.gen 0x3C#7 g)
  | .fdot g => some (.gen 0x3D#7 g)
  | .fclass g => some (.gen 0x3E#7 g)
  | .fscl g => some (.gen 0x3F#7 g)
  | .perm g => some (.gen 0x40#7 g)
  | .ballot g => some (.gen 0x41#7 g)
  | .vote g => some (.gen 0x42#7 g)
  | .matchl g => some (.gen 0x43#7 g)
  | .scanl g => some (.gen 0x44#7 g)
  | .redl g => some (.gen 0x45#7 g)
  | .topk g => some (.gen 0x46#7 g)
  | .compress g => some (.gen 0x47#7 g)
  | .expand g => some (.gen 0x48#7 g)
  | .lda g => some (.gen 0x49#7 g)
  | .sta g => some (.gen 0x4A#7 g)
  | .ld m => some (.mem 0x50#7 m)
  | .st m => some (.mem 0x51#7 m)
  | .atom m => some (.mem 0x52#7 m)
  | .red m => some (.mem 0x53#7 m)
  | .cas m => some (.mem 0x54#7 m)
  | .redk m => some (.mem 0x55#7 m)
  | .fence m => some (.mem 0x56#7 m)
  | .pref m => some (.mem 0x57#7 m)
  | .cstore m => some (.mem 0x58#7 m)
  | .cwait m => some (.mem 0x59#7 m)
  | .wback m => some (.mem 0x5A#7 m)
  | .invl m => some (.mem 0x5B#7 m)
  | .tld m => some (.mem 0x60#7 m)
  | .ttag g => some (.gen 0x61#7 g)
  | .mma x => some (.mat 0x62#7 x)
  | .mmas x => some (.mat 0x63#7 x)
  | .gathr m => some (.mem 0x64#7 m)
  | .accz g => some (.gen 0x65#7 g)
  | .accld m => some (.mem 0x66#7 m)
  | .accst m => some (.mem 0x67#7 m)
  | .accrd g => some (.gen 0x68#7 g)
  | .accwr g => some (.gen 0x69#7 g)
  | .permit g | .permitRel g => some (.gen 0x6A#7 g)
  | .qpush m => some (.mem 0x70#7 m)
  | .qwait m => some (.mem 0x71#7 m)
  | .putf m => some (.mem 0x72#7 m)
  | .putm m | .putmRel m => some (.mem 0x73#7 m)
  | .coll m => some (.mem 0x74#7 m)
  | .cpost m => some (.mem 0x75#7 m)
  | .cpeek m | .cpeekOut m => some (.mem 0x76#7 m)
  | .uint g => some (.gen 0x77#7 g)
  | .uiret g => some (.gen 0x78#7 g)
  | .uictlMask g | .uictlUnmask g | .uictlAck g | .uictlQuery g => some (.gen 0x79#7 g)
  | .gjoin g => some (.gen 0x7A#7 g)
  | .gleave g => some (.gen 0x7B#7 g)
  | .gred g => some (.gen 0x7C#7 g)
  | .bsync g => some (.gen 0x7D#7 g)
  | .barInit m | .barArrive m | .barExpect m | .barWait m | .barTest m => some (.mem 0x7E#7 m)
  | .reservedOpcode w => some (.reserved w)
  | _ => none

/-- The constructor of SYS for a SUB (R48, R107). -/
def sysInstr (g : Gen) : Option Instr :=
  match g.sub.toNat with
  | 0 => some (.sysSret g)
  | 1 => some (.sysSmovr g)
  | 2 => some (.sysSmovw g)
  | 3 => some (.sysTlbinv g)
  | 4 => some (.sysTlbsync g)
  | 5 => some (.sysEvict g)
  | 6 => some (.sysRankw g)
  | 7 => some (.sysClaimd g)
  | 8 => some (.sysClaimf g)
  | 9 => some (.sysInj g)
  | 10 => some (.sysQctl g)
  | 11 => some (.sysGkill g)
  | 12 => some (.sysGrelaunch g)
  | 13 => some (.sysBiasset g)
  | 14 => some (.sysWake g)
  | _ => none

/-- The instruction a general-layout opcode is (R46). -/
def genInstr (op : BitVec 7) (g : Gen) : Option Instr :=
  match op.toNat with
  | 0x00 => some (.nop g)
  | 0x02 => some (.brx g)
  | 0x04 => some (.callx g)
  | 0x05 => some (.ret g)
  | 0x06 => some (.enter g)
  | 0x07 => some (.exit g)
  | 0x08 => some (.region g)
  | 0x09 => if g.sub = 0#5 then some (.mode g) else if g.sub = 1#5 then some (.modeSet g) else some (.modeClr g)
  | 0x0A => some (.moderd g)
  | 0x0B => some (.yield g)
  | 0x0C => some (.trap g)
  | 0x0D => some (.brk g)
  | 0x0E => some (.waitc g)
  | 0x0F => sysInstr g
  | 0x10 => some (.iadd g)
  | 0x11 => some (.isub g)
  | 0x12 => some (.imul g)
  | 0x13 => some (.imulh g)
  | 0x14 => some (.imad g)
  | 0x15 => some (.imin g)
  | 0x16 => some (.imax g)
  | 0x17 => some (.and g)
  | 0x18 => some (.or g)
  | 0x19 => some (.xor g)
  | 0x1A => some (.shl g)
  | 0x1B => some (.shr g)
  | 0x1C => some (.sar g)
  | 0x1D => some (.bits g)
  | 0x1E => some (.iset g)
  | 0x1F => some (.sel g)
  | 0x20 => some (.mov g)
  | 0x21 => some (.movl g)
  | 0x22 => some (.lea g)
  | 0x23 => some (.cvt g)
  | 0x24 => some (.pack g)
  | 0x25 => some (.unpk g)
  | 0x26 => some (.plog g)
  | 0x27 => some (.pmov g)
  | 0x28 => some (.rdlane g)
  | 0x29 => some (.wrlane g)
  | 0x30 => some (.fadd g)
  | 0x31 => some (.fsub g)
  | 0x32 => some (.fmul g)
  | 0x33 => some (.ffma g)
  | 0x34 => some (.fmin g)
  | 0x35 => some (.fmax g)
  | 0x36 => some (.fset g)
  | 0x37 => some (.frnd g)
  | 0x38 => some (.fdiv g)
  | 0x39 => some (.sfu g)
  | 0x3A => some (.pkfma g)
  | 0x3B => some (.pkadd g)
  | 0x3C => some (.pkmul g)
  | 0x3D => some (.fdot g)
  | 0x3E => some (.fclass g)
  | 0x3F => some (.fscl g)
  | 0x40 => some (.perm g)
  | 0x41 => some (.ballot g)
  | 0x42 => some (.vote g)
  | 0x43 => some (.matchl g)
  | 0x44 => some (.scanl g)
  | 0x45 => some (.redl g)
  | 0x46 => some (.topk g)
  | 0x47 => some (.compress g)
  | 0x48 => some (.expand g)
  | 0x49 => some (.lda g)
  | 0x4A => some (.sta g)
  | 0x61 => some (.ttag g)
  | 0x65 => some (.accz g)
  | 0x68 => some (.accrd g)
  | 0x69 => some (.accwr g)
  | 0x6A => if g.sub = 0#5 then some (.permit g) else some (.permitRel g)
  | 0x77 => some (.uint g)
  | 0x78 => some (.uiret g)
  | 0x79 =>
    match g.sub.toNat with
    | 0 => some (.uictlMask g)
    | 1 => some (.uictlUnmask g)
    | 2 => some (.uictlAck g)
    | 3 => some (.uictlQuery g)
    | _ => none
  | 0x7A => some (.gjoin g)
  | 0x7B => some (.gleave g)
  | 0x7C => some (.gred g)
  | 0x7D => some (.bsync g)
  | _ => none

/-- The instruction a memory-layout opcode is (R46, R47). -/
def memInstr (op : BitVec 7) (m : Mem) : Option Instr :=
  match op.toNat with
  | 0x50 => some (.ld m)
  | 0x51 => some (.st m)
  | 0x52 => some (.atom m)
  | 0x53 => some (.red m)
  | 0x54 => some (.cas m)
  | 0x55 => some (.redk m)
  | 0x56 => some (.fence m)
  | 0x57 => some (.pref m)
  | 0x58 => some (.cstore m)
  | 0x59 => some (.cwait m)
  | 0x5A => some (.wback m)
  | 0x5B => some (.invl m)
  | 0x60 => some (.tld m)
  | 0x64 => some (.gathr m)
  | 0x66 => some (.accld m)
  | 0x67 => some (.accst m)
  | 0x70 => some (.qpush m)
  | 0x71 => some (.qwait m)
  | 0x72 => some (.putf m)
  | 0x73 => if m.sub = 0#5 then some (.putm m) else some (.putmRel m)
  | 0x74 => some (.coll m)
  | 0x75 => some (.cpost m)
  | 0x76 => if m.sub = 0#5 then some (.cpeek m) else some (.cpeekOut m)
  | 0x7E =>
    match m.sub.toNat with
    | 0 => some (.barInit m)
    | 1 => some (.barArrive m)
    | 2 => some (.barExpect m)
    | 3 => some (.barWait m)
    | 4 => some (.barTest m)
    | _ => none
  | _ => none

/-- The instruction an encoding is, before its checks. -/
def Enc.instr : Enc → Option Instr
  | .gen op g => genInstr op g
  | .mem op m => memInstr op m
  | .mat op x => if op = 0x62#7 then some (.mma x) else if op = 0x63#7 then some (.mmas x) else none
  | .bra op b => if op = 0x01#7 then some (.bra b) else if op = 0x03#7 then some (.call b) else none
  | .reserved w => some (.reservedOpcode w)

/-- An instruction is well formed when its encoding passes every check and is the encoding of that constructor (a
variant constructor such as `modeSet` fixes its SUB). An event, which has no words, is always well formed.
(DEDUCED: log 19.) -/
def Instr.wf (i : Instr) : Bool :=
  match i.enc with
  | none => true
  | some e => e.check == none && e.instr == some i

end Sys2Proof
end

