-- ==== Sys2Proof/Decode.lean ====
section
/-! DEFINITION. From bytes to instructions and back (R28 to R47, R50): a total decoder that names why it refuses, the
encoder written from the same tables, and the numbering of the opcode table's words. -/

namespace Sys2Proof

/-- LEN of word 0 (R28). -/
def lenOf (w0 : Word) : Len :=
  match (w0.extractLsb' 0 2).toNat with
  | 0 => .w32
  | 1 => .w64
  | 2 => .lit
  | _ => .perm

/-- How many words an instruction of this length has (R28). -/
def Len.words : Len → Nat
  | .w32 => 1
  | .w64 => 2
  | .lit | .perm => 3

/-- The instruction's length in bytes, which the next PC adds (R28). -/
def Len.bytes (l : Len) : Nat := 4 * l.words

/-- The length field's bits (R28). -/
def Len.code : Len → BitVec 2
  | .w32 => 0#2
  | .w64 => 1#2
  | .lit => 2#2
  | .perm => 3#2

/-- The permute pattern of a field value; 6 and 7 are illegal (R38). -/
def Pat.ofCode (c : BitVec 3) : Except Illegal Pat :=
  match c.toNat with
  | 0 => .ok .none
  | 1 => .ok .rotUp
  | 2 => .ok .butterfly
  | 3 => .ok .broadcast
  | 4 => .ok .mirror
  | 5 => .ok .rotDown
  | _ => .error .pattern

def Pat.code : Pat → BitVec 3
  | .none => 0#3
  | .rotUp => 1#3
  | .butterfly => 2#3
  | .broadcast => 3#3
  | .mirror => 4#3
  | .rotDown => 5#3

/-- RND (R39). -/
def Rnd.ofCode (c : BitVec 2) : Rnd :=
  match c.toNat with
  | 0 => .mode
  | 1 => .rne
  | 2 => .rtz
  | _ => .rna

def Rnd.code : Rnd → BitVec 2
  | .mode => 0#2
  | .rne => 1#2
  | .rtz => 2#2
  | .rna => 3#2

/-- SIZE; 6 and 7 are illegal (R40). -/
def Size.ofCode (c : BitVec 3) : Except Illegal Size :=
  match c.toNat with
  | 0 => .ok .b8
  | 1 => .ok .b16
  | 2 => .ok .b32
  | 3 => .ok .b64
  | 4 => .ok .b128
  | 5 => .ok .b256
  | _ => .error .size

def Size.code : Size → BitVec 3
  | .b8 => 0#3
  | .b16 => 1#3
  | .b32 => 2#3
  | .b64 => 3#3
  | .b128 => 4#3
  | .b256 => 5#3

/-- SCOPE; 7 is illegal (R40). -/
def Scope.ofCode (c : BitVec 3) : Except Illegal Scope :=
  match c.toNat with
  | 0 => .ok .wave
  | 1 => .ok .block
  | 2 => .ok .gang
  | 3 => .ok .device
  | 4 => .ok .node
  | 5 => .ok .pod
  | 6 => .ok .job
  | _ => .error .scope

def Scope.code : Scope → BitVec 3
  | .wave => 0#3
  | .block => 1#3
  | .gang => 2#3
  | .device => 3#3
  | .node => 4#3
  | .pod => 5#3
  | .job => 6#3

/-- ORDER (R40). -/
def Order.ofCode (c : BitVec 2) : Order :=
  match c.toNat with
  | 0 => .relaxed
  | 1 => .acquire
  | 2 => .release
  | _ => .seqCst

def Order.code : Order → BitVec 2
  | .relaxed => 0#2
  | .acquire => 1#2
  | .release => 2#2
  | .seqCst => 3#2

/-- CACHE (R40). -/
def Cache.ofCode (c : BitVec 2) : Cache :=
  match c.toNat with
  | 0 => .dflt
  | 1 => .stream
  | 2 => .bypass
  | _ => .hold

def Cache.code : Cache → BitVec 2
  | .dflt => 0#2
  | .stream => 1#2
  | .bypass => 2#2
  | .hold => 3#2

/-- GRD (R37). -/
def Guard.ofCode (c : BitVec 4) : Guard := ⟨c.getLsbD 3, c.extractLsb' 0 3⟩

def Guard.code (g : Guard) : BitVec 4 := BitVec.ofBool g.neg ++ g.pred

/-- The word-1 layout of an opcode (R47). -/
inductive Layout where
  | general | memory | matrix | branch | reserved
  deriving DecidableEq, Repr

def layoutOf (op : BitVec 7) : Layout :=
  let n := op.toNat
  if reservedOp op then .reserved
  else if n = 0x01 ∨ n = 0x03 then .branch
  else if n = 0x62 ∨ n = 0x63 then .matrix
  else if (0x50 ≤ n ∧ n ≤ 0x5B) ∨ n = 0x60 ∨ n = 0x64 ∨ n = 0x66 ∨ n = 0x67 ∨ (0x70 ≤ n ∧ n ≤ 0x76) ∨ n = 0x7E then
    .memory
  else .general

/-- The word 1 that a 32-bit form implies (R34). -/
def impliedWord1 : Layout → Word
  | .memory => 0x001A0000#32
  | _ => 0#32

/-- The general layout's record of the three words (R30, R36, R43, R44). -/
def genOf (w0 w1 w2 : Word) : Except Illegal Gen := do
  let pb ← Pat.ofCode (w1.extractLsb' 23 3)
  let len := lenOf w0
  let perms : Permute × Permute ←
    match len with
    | .perm => do
      let pa ← Pat.ofCode (w2.extractLsb' 0 3)
      let pc ← Pat.ofCode (w2.extractLsb' 9 3)
      if w2.extractLsb' 18 14 = 0#14 then
        pure (⟨pa, w2.extractLsb' 3 6⟩, ⟨pc, w2.extractLsb' 12 6⟩)
      else .error .reservedBit
    | _ => pure (Permute.id, Permute.id)
  pure {
    len, lb := w0.getLsbD 31, la := w0.getLsbD 30, b := w0.extractLsb' 23 7, a := w0.extractLsb' 16 7,
    d := w0.extractLsb' 9 7, pb := ⟨pb, w1.extractLsb' 26 6⟩, rnd := Rnd.ofCode (w1.extractLsb' 21 2),
    sub := w1.extractLsb' 16 5, look := w1.extractLsb' 12 4, lc := w1.getLsbD 11, c := w1.extractLsb' 4 7,
    grd := Guard.ofCode (w1.extractLsb' 0 4), lit := if len = .lit then w2 else 0#32, pa := perms.1, pc := perms.2 }

/-- The memory layout's record (R30, R40, R43). -/
def memOf (w0 w1 w2 : Word) : Except Illegal Mem := do
  let size ← Size.ofCode (w1.extractLsb' 16 3)
  let scope ← Scope.ofCode (w1.extractLsb' 19 3)
  if w1.getLsbD 31 then .error .reservedBit
  else
    let len := lenOf w0
    pure {
      len, lb := w0.getLsbD 31, la := w0.getLsbD 30, b := w0.extractLsb' 23 7, a := w0.extractLsb' 16 7,
      d := w0.extractLsb' 9 7, sub := w1.extractLsb' 26 5, cache := Cache.ofCode (w1.extractLsb' 24 2),
      order := Order.ofCode (w1.extractLsb' 22 2), scope, size, look := w1.extractLsb' 12 4, lc := w1.getLsbD 11,
      c := w1.extractLsb' 4 7, grd := Guard.ofCode (w1.extractLsb' 0 4), off := if len = .lit then w2 else 0#32 }

/-- The matrix layout's record (R30, R42). -/
def matOf (w0 w1 : Word) : Except Illegal Mat :=
  if w1.extractLsb' 22 10 = 0#10 then
    .ok {
      len := lenOf w0, lb := w0.getLsbD 31, la := w0.getLsbD 30, b := w0.extractLsb' 23 7, a := w0.extractLsb' 16 7,
      d := w0.extractLsb' 9 7, lc := w1.getLsbD 21, sub := w1.extractLsb' 16 5, look := w1.extractLsb' 12 4,
      keep := w1.getLsbD 11, c := w1.extractLsb' 4 7, grd := Guard.ofCode (w1.extractLsb' 0 4) }
  else .error .reservedBit

/-- The record of BRA and CALL (R35): the offset stands in word 0, or in word 2 of the literal form. -/
def braOf (w0 w1 w2 : Word) : Except Illegal Bra :=
  if w1.extractLsb' 4 28 ≠ 0#28 then .error .unusedField
  else
    let grd := Guard.ofCode (w1.extractLsb' 0 4)
    match lenOf w0 with
    | .lit => if w0.extractLsb' 9 23 = 0#23 then .ok ⟨.lit, w2, grd⟩ else .error .literal
    | l => .ok ⟨l, (w0.extractLsb' 9 23).signExtend 32, grd⟩

/-- The encoding that three words hold; words beyond LEN are not looked at. -/
def encOf (w0 w1 w2 : Word) : Except Illegal Enc :=
  let op := opOf w0
  let lay := layoutOf op
  let w1 := if lenOf w0 = .w32 then impliedWord1 lay else w1
  match lay with
  | .reserved => .ok (.reserved w0)
  | .branch => (braOf w0 w1 w2).map (.bra op)
  | .matrix => (matOf w0 w1).map (.mat op)
  | .memory => (memOf w0 w1 w2).map (.mem op)
  | .general => (genOf w0 w1 w2).map (.gen op)

/-- The instruction of an encoding, after every state-independent check of R50. -/
def Enc.decode (e : Enc) : Except Illegal Instr :=
  match e.check with
  | some r => .error r
  | none =>
    match e.instr with
    | some i => .ok i
    | none => .error .opcode

/-- The decoder over words. (DEDUCED: log 19.) -/
def decodeWords (w0 w1 w2 : Word) : Except Illegal Instr :=
  match encOf w0 w1 w2 with
  | .error r => .error r
  | .ok e => e.decode

/-- A little-endian word (R4, R28). -/
def wordOfBytes (b0 b1 b2 b3 : Byte) : Word := b3 ++ b2 ++ b1 ++ b0

/-- A word and the bytes after it. -/
def takeWord : List Byte → Option (Word × List Byte)
  | b0 :: b1 :: b2 :: b3 :: rest => some (wordOfBytes b0 b1 b2 b3, rest)
  | _ => none

/-- The decoder over bytes: the instruction at the head of the list and the bytes after it. -/
def decodeBytes (bs : List Byte) : Except Illegal (Instr × List Byte) :=
  match takeWord bs with
  | none => .error .truncated
  | some (w0, r0) =>
    match lenOf w0 with
    | .w32 => (decodeWords w0 0#32 0#32).map (·, r0)
    | .w64 =>
      match takeWord r0 with
      | none => .error .truncated
      | some (w1, r1) => (decodeWords w0 w1 0#32).map (·, r1)
    | _ =>
      match takeWord r0 with
      | none => .error .truncated
      | some (w1, r1) =>
        match takeWord r1 with
        | none => .error .truncated
        | some (w2, r2) => (decodeWords w0 w1 w2).map (·, r2)

/-- n bytes of a number, low byte first. -/
def bytesOfNat : Nat → Nat → List Byte
  | 0, _ => []
  | n + 1, w => BitVec.ofNat 8 w :: bytesOfNat n (w / 256)

/-- The bytes of a row of the opcode table: its words as stored (R28), every bit above `nbits` zero, up to the longest
instruction. -/
def tableBytes (nbits w : Nat) : List Byte := bytesOfNat 12 (w % 2 ^ nbits)

/-- What the decoder reads from a row's bits, numbered as the opcode table numbers them. (DESIGN CHOICE: log 13.) -/
def decodeTableWord (nbits w : Nat) : Option Instr :=
  match decodeBytes (tableBytes nbits w) with
  | .ok (i, _) => some i
  | .error _ => none

/-! The encoder. -/

/-- Word 0 (R30). -/
def word0 (lb la : Bool) (b a d : Fld) (op : BitVec 7) (len : Len) : Word :=
  (BitVec.ofBool lb ++ BitVec.ofBool la ++ b ++ a ++ d ++ op ++ len.code).cast (by decide)

/-- Word 1 of the general layout (R36). -/
def Gen.word1 (g : Gen) : Word :=
  (g.pb.k ++ g.pb.pat.code ++ g.rnd.code ++ g.sub ++ g.look ++ BitVec.ofBool g.lc ++ g.c ++ g.grd.code).cast (by decide)

/-- Word 1 of the memory layout (R40). -/
def Mem.word1 (m : Mem) : Word :=
  (0#1 ++ m.sub ++ m.cache.code ++ m.order.code ++ m.scope.code ++ m.size.code ++ m.look ++ BitVec.ofBool m.lc ++ m.c ++
    m.grd.code).cast (by decide)

/-- Word 1 of the matrix layout (R42). -/
def Mat.word1 (x : Mat) : Word :=
  (0#10 ++ BitVec.ofBool x.lc ++ x.sub ++ x.look ++ BitVec.ofBool x.keep ++ x.c ++ x.grd.code).cast (by decide)

/-- Word 2 of the extended-permute form (R44). -/
def permWord (pa pc : Permute) : Word := (0#14 ++ pc.k ++ pc.pat.code ++ pa.k ++ pa.pat.code).cast (by decide)

/-- The words an encoding has (R28). -/
def Enc.words : Enc → List Word
  | .gen op g =>
    let w0 := word0 g.lb g.la g.b g.a g.d op g.len
    match g.len with
    | .w32 => [w0]
    | .w64 => [w0, g.word1]
    | .lit => [w0, g.word1, g.lit]
    | .perm => [w0, g.word1, permWord g.pa g.pc]
  | .mem op m =>
    let w0 := word0 m.lb m.la m.b m.a m.d op m.len
    match m.len with
    | .w32 => [w0]
    | .w64 => [w0, m.word1]
    | .lit | .perm => [w0, m.word1, m.off]
  | .mat op x =>
    let w0 := word0 x.lb x.la x.b x.a x.d op x.len
    match x.len with
    | .w32 => [w0]
    | _ => [w0, x.word1]
  | .bra op b =>
    let w0 (o : BitVec 23) : Word := (o ++ op ++ b.len.code).cast (by decide)
    let w1 : Word := b.grd.code.zeroExtend 32
    match b.len with
    | .w32 => [w0 (b.off.truncate 23)]
    | .w64 => [w0 (b.off.truncate 23), w1]
    | .lit | .perm => [w0 0#23, w1, b.off]
  | .reserved w => [w]

/-- The words of an instruction; an event has none. -/
def encode (i : Instr) : List Word :=
  match i.enc with
  | some e => e.words
  | none => []

/-- The bytes of words as memory holds them (R4, R28). -/
def bytesOfWords : List Word → List Byte
  | [] => []
  | w :: ws => w.extractLsb' 0 8 :: w.extractLsb' 8 8 :: w.extractLsb' 16 8 :: w.extractLsb' 24 8 :: bytesOfWords ws

/-- How many bytes an instruction occupies; an event occupies none, a reserved opcode what its LEN says (R28). -/
def Instr.bytes (i : Instr) : Nat :=
  match i.enc with
  | none => 0
  | some (.gen _ g) => g.len.bytes
  | some (.mem _ m) => m.len.bytes
  | some (.mat _ x) => x.len.bytes
  | some (.bra _ b) => b.len.bytes
  | some (.reserved w) => (lenOf w).bytes

end Sys2Proof
end

