-- ==== Sys2Proof/Machine/State.lean ====
section
/-! DEFINITION. The state of the J9: plain data, one structure per object of the spec. -/

namespace Sys2Proof.Machine

/-! Memory. -/

/-- A byte-addressed memory: the cells that differ from what an unlisted address reads as, addresses strictly rising,
and the poisoned 32-byte sectors by number, rising (R256, R257). `biasLo` and `biasHi` bound the bias table that
bring-up writes (R443 step 6): an unlisted byte there reads as the entry 0x0004, every other unlisted byte as 0.
`veils` are the ranges that the device has written as a whole, newest first: an unlisted byte of one that is in a form
of the device's own, which has a number, reads as a free value, of another as 0 (R6, R86). -/
structure Memory where
  cells  : List Host.Cell
  poison : List Nat
  biasLo : Nat
  biasHi : Nat
  veils  : List (Nat × Nat × Option Nat)
  deriving DecidableEq, Repr

/-- What an unlisted address reads as (R368; RAM after power-on is a design choice). (DESIGN CHOICE: log 4.) -/
def Memory.unlisted (m : Memory) (a : Nat) : Byte :=
  match m.veils.find? fun v => v.1 ≤ a && a < v.2.1 with
  | some v => v.2.2.elim 0#8 (Config.saveByte · a)
  | none => if m.biasLo ≤ a ∧ a < m.biasHi ∧ (a - m.biasLo) % 2 = 0 then 4#8 else 0#8

/-- A memory with nothing listed. -/
def Memory.empty : Memory := ⟨[], [], 0, 0, []⟩

/-- Where a byte is: local physical memory, host memory, or the scratch of a block (R233, R355). -/
inductive Space where
  | dev
  | host
  | scratch (block : Nat)
  deriving DecidableEq, Repr

/-- A byte address in a space. -/
structure Loc where
  sp   : Space
  addr : Nat
  deriving DecidableEq, Repr

/-- A byte of data with the poison of the sector it came from. -/
structure PByte where
  byte   : Byte
  poison : Bool
  deriving DecidableEq, Repr

/-! Traps. -/

/-- The trap causes (R98). -/
inductive Cause where
  | illegal | privilege | operand | align | address | fetchPage | dataPage | protection | matrixFormat | arith | poison
  | remoteIndeterminate | streamExhausted | countOverflow | software | brk | window | group | remoteDenied | waitBudget
  deriving DecidableEq, Repr

/-- How a trap is delivered (R97). -/
inductive Delivery where
  | issue | reported | region
  deriving DecidableEq, Repr

/-- What a body raises: cause, delivery, lanes, fault address and cause detail (R97, R103). An empty lane set with an
encoding trap names every lane of the split (R51). -/
structure Trap where
  cause    : Cause
  delivery : Delivery
  lanes    : Lanes
  faddr    : DWord
  einfo    : DWord
  deriving DecidableEq, Repr

/-- A trap with the place it was raised: resume PC, PC of the instruction, issue number (R97, R99). -/
structure Raised where
  trap : Trap
  epc  : DWord
  ipc  : DWord
  no   : Nat
  clk  : Nat
  deriving DecidableEq, Repr

/-- The system registers of R103 that a trap writes and solo code reads. -/
structure SysRegs where
  epc    : DWord
  ipc    : DWord
  ecause : DWord
  elanes : DWord
  faddr  : DWord
  einfo  : DWord
  solo   : DWord
  pend   : DWord
  tlane  : DWord
  event  : DWord
  deriving DecidableEq, Repr

/-- The fields of an event record before its overwrite count (R105). -/
structure EvRec where
  cause  : Nat
  cls    : Nat
  flags  : Nat
  wave   : Nat
  ipc    : Nat
  faddr  : Nat
  elanes : Nat
  deriving DecidableEq, Repr

/-! The wave (chapter "The wave"). -/

/-- A lookahead window (R151): the long-latency instruction, the slot of its split, how many instructions of that
split are still in it, and what those read for its destinations: by destination register the version mapped before, by
scalar (block scalars from 16 on) the value before. -/
structure Ahead where
  uid  : Nat
  slot : Nat
  left : Nat
  regs : List (Nat × Option Nat)
  scal : List (Nat × Val)
  deriving DecidableEq, Repr

/-- A window's kind (R142). -/
inductive WinKind where
  | initial | call | solo | handler
  deriving DecidableEq, Repr

/-- What a split inside a waiting instruction waits for (R92): a path counter, an unsigned threshold on a counter in
memory or on one in a region of the device whose page is absent, a queue HEAD, a barrier cell's phase, the block barrier's
phase, a carry cell, a tlbsync, the flip of a granule, or the saving of a context. `acq` is the scope
of an acquire, `loc` the bytes watched, `va` the address of the snapshot record (R94), `marks` the last-read names with
their registers, freed when the wait ends (R33, R139). -/
inductive WaitKind where
  | path (p t : Nat)
  | counter (size t : Nat)
  | farCounter (size t region off : Nat)
  | queue (t : Nat)
  | cell (phase : Nat)
  | bsync (phase : Nat)
  | carry (out : Bool) (size : Nat)
  | tlb (clk : Nat)
  | bias (granule : Nat)
  | evict (ctx : Nat)
  | suspend (ctx : Nat)
  | fence (acq rel : Bool) (far : Bool)
  deriving DecidableEq, Repr

structure Wait where
  kind  : WaitKind
  loc   : Loc
  va    : Nat
  acq   : Option Scope
  lanes : Lanes
  op    : Nat
  sub   : Nat
  len   : Nat
  uid   : Nat
  marks : List (Nat × Nat)
  deriving DecidableEq, Repr

/-- A split (R133): slot, PC, mask, current window, and the bookkeeping of R130 to R132 and R161: what it waits in,
since when it has been ready, its place among raised splits, when it yielded, and whether it was last found stalled. -/
structure Split where
  slot   : Nat
  pc     : DWord
  mask   : Lanes
  win    : Nat
  wait   : Option Wait
  ready  : Option Nat
  raised : Option Nat
  yield  : Option Nat
  notBefore : Nat
  stalled : Bool
  deriving DecidableEq, Repr

/-- Parked lanes: PC, lanes, window (R133). -/
structure Parked where
  pc   : DWord
  mask : Lanes
  win  : Nat
  deriving DecidableEq, Repr

/-- What R412 saves with a handler window. -/
structure Saved where
  splits : List Split
  parked : List Parked
  sregs  : List Val
  preds  : List Lanes
  modes  : List Word
  vec    : Nat
  ahead  : List Ahead
  deriving DecidableEq, Repr

/-- A window record (R142, R143): its size, caller, return PC, the private mapping name to physical register, whether
ENTER has resized it, and whether the spill engine holds it (R145). -/
structure Window where
  id      : Nat
  kind    : WinKind
  size    : Nat
  caller  : Nat
  retPc   : DWord
  map     : List (Nat × Nat)
  entered : Bool
  spilled : Bool
  saved   : Option Saved
  deriving DecidableEq, Repr

/-- A physical register (R138, R140): one value per lane, the in-flight instruction that will still write it (0 for
none), and when it was freed; `deferred` marks a free that waits for the region to end. -/
structure PhysReg where
  id       : Nat
  lanes    : List Val
  writer   : Nat
  freed    : Option Nat
  deferred : Bool
  undo     : Bool
  spilled  : Bool
  deriving DecidableEq, Repr

/-- A destination of an in-flight instruction: a renamed register of a name, a wave scalar, or a block scalar. -/
inductive Dest where
  | reg (name phys : Nat)
  | scalar (i : Nat)
  | block (i : Nat)
  deriving DecidableEq, Repr

/-- What an in-flight instruction does with its replies. -/
inductive OpKind where
  | load (size : Size) (signed : Bool)
  | value                                   -- SFU, FDIV, ATOM, CAS, GRED, ...: values arrive whole
  | store
  | tile (t : Nat) (scale : Bool)
  | gather (t : Nat)
  | acc (a : Nat) (i32 : Bool)
  | accst (a off len : Nat)                 -- an ACCST that has yet to read its accumulator: `len` bytes of a row from `off` on
  | matrix
  | cpeek (out : Bool) (ctx va : Nat)
  deriving DecidableEq, Repr

/-- One lane's part of an in-flight memory instruction: lane, place, size, and the issue numbers of the wave's own earlier
stores to the sector that were held at issue, which it reads over what its home answers (R235, R268). `row` is the
destination row or word of a tile or accumulator. -/
structure Piece where
  lane : Nat
  loc  : Loc
  size : Nat
  row  : Nat
  fwd  : List Nat
  done : Bool
  deriving DecidableEq, Repr

/-- An instruction in flight (R138, R151, R152): uid, issue number and clock, the slot and PC that issued it, the
lookahead left, its destinations, the pieces and messages still to come, its path, the acquire it ends with, whether
it is sequentially consistent, the destination rows of requests to ranks by key number, the lanes refused so far:
lane, cause code, address, detail (R386), and in `olds` the versions that the destinations of an SFU or FDIV had
(R168). For GATHR `result` is the K list to write: entry and K index (R221). -/
structure Op where
  uid    : Nat
  no     : Nat
  clk    : Nat
  slot   : Nat
  pc     : DWord
  left   : Nat
  kind   : OpKind
  dests  : List Dest
  lanes  : Lanes
  pieces : List Piece
  waits  : Nat
  path   : Option Nat
  acq    : Option Scope
  sc     : Bool
  cache  : Cache
  global : Bool
  region : Nat
  reqs   : Nat
  flags  : List (Nat × BitVec 5)
  result : List (Nat × Val64)
  rows   : List (Nat × Nat)
  olds   : List (Nat × Option Nat)
  refused : List (Nat × Nat × DWord × DWord)
  done   : Bool
  deriving DecidableEq, Repr

/-- A tile register (R207 to R209). -/
structure Tile where
  data     : Memory
  side     : Memory
  format   : Option Nat
  scaled   : Bool
  gathered : Bool
  count    : Nat
  lastK    : Nat
  deriving DecidableEq, Repr

/-- An accumulator tile (R210): word (row, column) at 512 × row + 4 × column; a row is poisoned when its first sector
is. -/
structure Acc where
  data : Memory
  i32  : Bool
  deriving DecidableEq, Repr

/-- The tag part of a tile, which checkpoints hold (R209). -/
structure TileTag where
  format   : Option Nat
  scaled   : Bool
  gathered : Bool
  count    : Nat
  lastK    : Nat
  deriving DecidableEq, Repr

/-- A word of a lane's array before its first STA after a checkpoint (R148), and the undo register that has it. -/
structure LaneUndo where
  reg   : Nat
  word  : Nat
  lane  : Nat
  val   : Val
  deriving DecidableEq, Repr

/-- An accumulator row before its first write after a checkpoint (R212). -/
structure AccUndo where
  acc    : Nat
  row    : Nat
  words  : List Word
  poison : Bool
  i32    : Bool
  deriving DecidableEq, Repr

/-- An accumulator row as a completed array operation left it: its issue number, the newest checkpoint at its completion,
and the row (R422). (DEDUCED: log 41.) -/
structure AccRedo where
  no     : Nat
  ck     : Nat
  acc    : Nat
  row    : Nat
  words  : List Word
  poison : Bool
  i32    : Bool
  deriving DecidableEq, Repr

/-- A trap that a wave has taken (R424): the next checkpoint's number then, whether a record of it was made, and the
trap. -/
structure Taken where
  ck   : Nat
  said : Bool
  trap : Raised
  deriving DecidableEq, Repr

/-- The splits, parked lanes, modes and lookahead windows of a trapped wave, frozen as they stand (R100). -/
structure Frozen where
  splits : List Split
  parked : List Parked
  modes  : List Word
  slot   : Nat
  win    : Nat
  no     : Nat
  inSolo : Bool
  ahead  : List Ahead
  deriving DecidableEq, Repr

/-- A checkpoint (R141), with the undo registers and pre-images taken for it. `region` is the number of its region,
`opens` says that it was taken as the region's entry, `entry` that this region is still the current one. `spend` are
the scalars still to be written then. -/
structure Checkpoint where
  id      : Nat
  clk     : Nat
  no      : Nat
  entry   : Bool
  opens   : Bool
  region  : Nat
  spend   : List (Nat × Nat)
  splits  : List Split
  parked  : List Parked
  live    : Lanes
  windows : List Window
  sregs   : List Val
  preds   : List Lanes
  modes   : List Word
  seq     : Nat
  took    : List (Nat × DWord)
  tags    : List TileTag
  laneUndo : List LaneUndo
  accUndo  : List AccUndo
  frozen  : Option Frozen
  sys     : SysRegs
  solo    : Bool
  fence   : Option Nat
  ahead   : List Ahead
  bphase  : Nat
  deriving DecidableEq, Repr

/-- The operation a home arithmetic unit performs for a lane. -/
inductive HomeOp where
  | store
  | atom (variant : Nat)
  | cas
  | redk (variant : Nat)
  deriving DecidableEq, Repr

/-- One lane's operation at a home: place, size, operand bytes (for CAS compare then new, for REDK key then value). -/
structure LaneOp where
  lane : Nat
  loc  : Loc
  size : Nat
  data : List PByte
  ctx  : Nat
  deriving DecidableEq, Repr

/-- What the home of a barrier cell is asked (R346). -/
inductive BarReq where
  | init (n : Nat)
  | arrive
  | expect (n : Nat)
  deriving DecidableEq, Repr

/-- What the home of a group area is asked (R333, R336). `vals` holds one value per lane, none for ε. -/
inductive GroupReq where
  | join
  | leave
  | gred (sub : Nat) (vals : List (Option DWord))
  deriving DecidableEq, Repr

/-- A carry cell (R350): where it is, and the context and virtual address it was named by. -/
structure CarryAt where
  loc : Loc
  ctx : Nat
  va  : Nat
  deriving DecidableEq, Repr

/-- One lane of a mailbox send (R394, R395): its descriptor, the global address of the descriptor, its own address, the
payload's length and where it lies, and its key. -/
structure MailSend where
  lane   : Nat
  desc   : Loc
  sender : DWord
  addr   : DWord
  n      : Nat
  src    : List (Loc × Nat)
  key    : Key
  deriving DecidableEq, Repr

/-- A held outbound effect (R419). `got` are the source bytes of a put that have been read, by their place in it
(R391). `expected` is no outbound effect: it is what a rollback that discards a BAR expect takes back (R347). -/
inductive Effect where
  | stores (ops : List LaneOp) (home : Bool) (release : Option Scope)
  | homeOps (kind : HomeOp) (ops : List LaneOp) (fetch : Bool) (release : Option Scope)
  | remote (reqs : List RemoteReq)
  | coll (reqs : List RemoteReq)
  | push (ctx engine queue : Nat) (image : List PByte) (lane : Nat)
  | interrupt (ctx vec : Nat) (payload : DWord) (lane : Nat) (ipc : DWord)
  | interruptTo (req : RemoteReq) (ipc : DWord)
  | bsync
  | expected (loc : Loc) (n : Nat)
  | bar (r : BarReq) (loc : Loc) (release : Option Scope)
  | groupReq (r : GroupReq) (loc : Loc) (va : Nat)
  | uictl (sub : Nat) (loc : Loc)
  | post (cell : CarryAt) (opc : Nat) (total : DWord) (serial : DWord) (release : Option Scope)
  | mailSend (sends : List MailSend) (got : List (Nat × PByte))
  | mailRel (hdr : Loc) (k : Nat) (key : Key) (scope : Scope) (addr : DWord)
  | putf (reqs : List RemoteReq) (srcs : List (List (Loc × Nat))) (got : List (Nat × PByte))
  | bscalar (i : Nat) (v : Val)
  | record (bytes : List Byte) (claimHost : Bool) (mode : Nat)
  deriving DecidableEq, Repr

/-- An effect in the hold-back buffer (R419), with the release epoch it is recorded with where one is closed (R240). -/
structure Held where
  no     : Nat
  clk    : Nat
  uid    : Nat
  effect : Effect
  epoch  : Option Nat
  deriving DecidableEq, Repr

/-- The wave states (R136). -/
inductive WaveState where
  | resident | solo | held | saved | reserved | exited | ended
  deriving DecidableEq, Repr

/-- What a launch declared for each wave (R108). -/
structure Decl where
  regfloor  : Nat
  lanearray : Nat
  tiles     : Nat
  accs      : Nat
  scratch   : Nat
  gang      : Nat
  comm      : Bool
  deriving DecidableEq, Repr

/-- A pending tlbinv of a wave (R361): context, address (0 for every entry), whether the TLBs have dropped the
entries, the clock of that, and the chunks engines were on then: engine, context, queue, chunk. -/
structure Inv where
  ctx : Nat
  va  : Nat
  dropped : Bool
  clk : Nat
  chunks : List (Nat × Nat × Nat × Nat)
  deriving DecidableEq, Repr

structure Wave where
  id      : Nat
  ctx     : Nat
  tag     : Nat
  grid    : Nat
  wid     : Nat
  block   : Nat
  gang    : Nat
  width   : Nat
  decl    : Decl
  st      : WaveState
  onCore  : Bool
  core    : Nat
  quad    : Nat
  age     : Nat
  placed  : Nat
  splits  : List Split
  parked  : List Parked
  live    : Lanes
  windows : List Window
  nextWin : Nat
  regs    : List PhysReg
  nextReg : Nat
  ops     : List Op
  ahead   : List Ahead
  nextUid : Nat
  issueNo : Nat
  lastIssue : Nat
  sregs   : List Val
  spend   : List (Nat × Nat)
  preds   : List Lanes
  modes   : List Word
  lanearr : List (Nat × List Val)
  tiles   : List Tile
  accs    : List Acc
  groups  : List (Option Nat)
  seq     : Nat
  took    : List (Nat × DWord)    -- window and PC of each CWAIT that has taken its sequence value and still waits (R282)
  held    : List Held
  due     : List Raised
  pended  : List Raised           -- the due traps that sys.pend stands for (R99)
  taken   : List Taken            -- the traps it has taken that a rollback may still discard (R424)
  told    : List Nat              -- the issue numbers of those a rollback has made due again whose records are out (R424)
  sys     : SysRegs
  frozen  : Option Frozen
  ckpts   : List Checkpoint
  nextCk  : Nat
  sinceCk : Nat
  regionNo : Nat
  replays : Nat
  replayRegion : Nat
  fence   : Option Nat
  invs    : List Inv
  yielded : Bool
  stopping : Bool                 -- stopped for a save (R95)
  reserve : Bool                  -- the save under way keeps the floor (R145)
  refill  : Bool                  -- a checkpoint that names spilled registers was restored (R145)
  service : Bool
  redo    : List AccRedo
  atLine  : List (Nat × Nat)      -- TLD or GATHR, clock before which it writes nothing (R215)
  tileRead : List (Nat × Nat)     -- tile index, issue number of its last reader (R215)
  bphase  : Nat                   -- phases of the block barrier its BSYNCs have passed (R342)
  killed  : Bool
  deriving DecidableEq, Repr

/-! Blocks, launches, contexts, queues. -/

/-- A resident or saved block: its block scalars with the values retired and when, the block barrier, its scratch
(R111, R112, R123, R147, R341). -/
structure Block where
  id      : Nat
  ctx     : Nat
  tag     : Nat
  index   : Nat
  gang    : Nat
  member  : Nat
  core    : Nat
  bx      : Nat
  byy     : Nat
  bz      : Nat
  waves   : Nat
  bsc     : List (List (Nat × Nat × Val))
  phase   : Nat
  arrived : List Nat
  lastArrive : Nat
  scratch : Memory
  scratchSize : Nat
  live    : Bool
  emptied : Bool                  -- its waves have all ended
  deriving DecidableEq, Repr

/-- A gang's states (R125): Pending is `unplaced` in the sequence of R122 and `pending` in a core's list; R125 names
none for a killed gang that awaits no relaunch, because it was at RELIMIT or its launch is Killed. (DESIGN CHOICE: log
152.) -/
inductive GangState where
  | unplaced | pending | placed | done | awaiting | killed
  deriving DecidableEq, Repr

/-- A gang: its state, its relaunch count, the core that held its member 0, the ranks whose acknowledgement of its
retirement notices is awaited, and whether its streams are retired (R125, R387). -/
structure Gang where
  st        : GangState
  relaunch  : Nat
  firstCore : Nat
  acks      : List Nat
  retired   : Bool
  deriving DecidableEq, Repr

/-- A launch's states once admitted (R114). Queued, Held and Discarded belong to the queue that holds the packet. -/
inductive LaunchState where
  | admitted | running | relaunching | complete | killed
  deriving DecidableEq, Repr

/-- The launch record (R117). `ord` is the admission order, `reached` the ranks its streams have reached through the
Col of each die (R387), `completing` marks a completion that waits for its counter's page (R128). -/
structure Launch where
  ctx      : Nat
  tag      : Nat
  addr     : Nat                  -- the packet's address, which its notices name
  packet   : List Byte
  st       : LaunchState
  gangs    : List Gang
  children : Nat
  ord      : Nat
  reached  : List (List Nat)
  completing : Bool
  notices  : List Nat
  deriving DecidableEq, Repr

/-- Queue states (R312). -/
inductive QState where
  | empty | running | waiting | blocked | stopped | faulted
  deriving DecidableEq, Repr

/-- A taken engine entry (R310, R315): its image, its sequence, whether started, the record in use, the chunks claimed
by engines, and whether only the completion write is left (R322); in `olds`, where source and destination overlap,
what the destination bytes written so far held before the entry (R317); whether STATUS and PROGRESS are still to be
read back, after Blocked, Stopped or Faulted (R310); and of chunks that an engine had to leave, the bytes it had
moved, by chunk (R298). -/
structure Entry where
  seq     : Nat
  image   : List Byte
  started : Bool
  shape   : List Byte
  claims  : List (Nat × Nat)
  prog    : List Nat
  finish  : Bool
  olds    : List (Loc × PByte)
  resume  : Bool
  parts   : List (Nat × List (Nat × Bool))
  deriving DecidableEq, Repr

/-- A push waiting at a queue's home (R327, R328). -/
structure Push where
  wave  : Nat
  uid   : Nat
  lane  : Nat
  image : List PByte
  deriving DecidableEq, Repr

/-- A queue: the fields latched at CREATE or START, its state, the entry at its head, its record cache, the pushes
that wait, and the sequences whose slots a QPUSH wrote (R308 to R313, R319, R328, R110). `loading` says that its
header is still to be read, for a CREATE (true) or a START; `writes` has the fields of its header still to be written,
by offset, size and value; `left` the entries that a SKIP abandoned while chunks of them were in progress. -/
structure Queue where
  ring    : Nat
  log2    : Nat
  die     : Nat
  isOpen  : Bool
  rcache  : Nat
  st      : QState
  prev    : QState
  valid   : Bool
  entry   : Option Entry
  engine  : Option Nat
  cache   : List (Nat × List Byte)
  pushes  : List Push
  pushed  : List (Nat × Nat)      -- by sequence, the PARENT written
  gone    : List Nat              -- sequences whose packets are Discarded before they come to the head (R119)
  notices : List Nat
  stopping : Bool                 -- STOP waits for the chunks in progress (R313)
  loading : Option Bool
  writes  : List (Nat × Nat × Nat)
  left    : List Entry
  deriving DecidableEq, Repr

/-- Context states (R87). -/
inductive CtxState where
  | free | created | ready | resident | partialSt | suspended | stalled | faulted | draining | destroyed
  deriving DecidableEq, Repr

/-- Why a context's waves leave the cores: SUSPEND, slice end, sys.evict, the waiting budget. -/
inductive Saving where
  | suspend | slice | evict | stall
  deriving DecidableEq, Repr

/-- A context: the fields of its entry as latched at CREATE or RESUME (R83, R84) and what the device keeps for it. `claim`
is the claim word in force and `claimNext` what has been written to CLAIM since, with the clock it was seen at. -/
structure Context where
  st       : CtxState
  saving   : Option Saving
  scratch  : Nat
  slice    : Nat
  budget   : Nat
  ptroot   : Nat
  savebase : Nat
  savesize : Nat
  lqbase   : Nat
  eqbase   : Nat
  msix     : Nat
  uipage   : Nat
  evbase   : Nat
  evcount  : Nat
  lqs      : List Queue
  eqs      : List Queue
  waitclk  : Nat
  evhead   : Nat
  overwrites : Nat
  placedAt : Nat
  sendNo   : Nat
  active   : Option Nat
  wakeNoticed : List Nat
  lqNext   : Nat
  acks     : List Nat
  claim    : Nat
  claimNext : List (Nat × Nat)
  deriving DecidableEq, Repr

/-! Cores, quadrants, engines. -/

/-- An L1 frame (R234): physical line, space, context, per-sector bits, per-byte written bits, data, epoch, when first
dirtied or filled, the half restriction (R247), and the retention that its last store asks of the shared cache (R232). -/
structure Frame where
  id     : Nat
  loc    : Loc
  ctx    : Nat
  valid  : BitVec 4
  dirty  : BitVec 4
  poison : BitVec 4
  wr     : BitVec 128
  data   : List Byte
  epoch  : Nat
  since  : Nat
  restrict : BitVec 2
  ret    : Nat
  deriving DecidableEq, Repr

/-- A TLB entry: context, page base and size, leaf, and the address of the leaf (R360). -/
structure TlbEntry where
  ctx  : Nat
  va   : Nat
  size : Nat
  leaf : DWord
  leafAt : Nat
  deriving DecidableEq, Repr

/-- A pending-list entry: one gang (R122), by context, launch tag and gang index; `wait` is when it came to the head. -/
structure PendEntry where
  ctx  : Nat
  tag  : Nat
  gang : Nat
  run  : Nat
  wait : Option Nat
  blocking : Bool
  deriving DecidableEq, Repr

structure Core where
  frames  : List Frame
  nextFrame : Nat
  epoch   : Nat
  tlb     : List TlbEntry
  pending : List PendEntry
  gated   : Bool
  idleAt  : Nat
  lastSteal : Option Nat
  deriving DecidableEq, Repr

/-- What waits in a quadrant's array queue (R214). `vals` are the operands taken at issue (R218): for MMA the 32
registers of A and the scale registers by lane, for ACCWR the words by lane. `fmt`, `gathered` and `count` are the tile's
tag at issue. -/
structure ArrayOp where
  wave : Nat
  uid  : Nat
  no   : Nat
  op   : Nat
  sub  : Nat
  acc  : Nat
  tile : Nat
  fmt  : Nat
  gathered : Bool
  count : Nat
  lanes : Lanes
  cols : List (Nat × Nat)
  vals : List (Nat × List Val)
  started : Option Nat
  deriving DecidableEq, Repr

/-- The reuse latch (R220): wave, A, C, SUB, lanes, physical registers and their values. -/
structure Latch where
  wave : Nat
  a    : Nat
  c    : Nat
  sub  : Nat
  lanes : Lanes
  phys : List (Option Nat)
  vals : List (Nat × List Val)
  deriving DecidableEq, Repr

/-- A draw permit (R228). -/
inductive Permit where
  | none
  | requested (clk : Nat) (limited : Bool)   -- `limited`: a limit has held back the grant (R228)
  | held (idleSince : Nat)
  deriving DecidableEq, Repr

structure Quad where
  busyUntil : Nat
  unitUntil : Nat                 -- the special-function unit is free from this clock on (R170)
  unit    : List (Nat × Nat)      -- the SFU and FDIV instructions still to complete: wave, instruction
  array   : List ArrayOp
  latch   : Option Latch
  permit  : Permit
  release : Bool
  deriving DecidableEq, Repr

/-- A copy engine (R323): the queue and chunk it works on, if any, and the bytes of the chunk already moved, each with its
poison (R298, R306). -/
structure Engine where
  work  : Option (Nat × Nat × Nat)
  moved : List (Nat × Bool)
  deriving DecidableEq, Repr

/-! Homes. -/

/-- A release record (R238): line, recorded cores with bits [15:0] of the epoch, and its place in the order of setting. -/
structure Record where
  line  : Loc
  cores : List (Nat × Nat)
  ord   : Nat
  deriving DecidableEq, Repr

/-- A holder-directory entry (R250). `line` is the key of its line: the address of a line of device memory, and 2^63 more
than the address of a line of host memory, which the directory of the CXL port's die keeps (R249). -/
structure DirEntry where
  line   : Nat
  groups : BitVec 16
  host   : BitVec 2
  bad    : Bool
  deriving DecidableEq, Repr

/-- A contribution a slice holds for a keyed cell (R273), with the completion counter it is still to increase and the
counter's mode (R389). (DEDUCED: log 56.) -/
structure HeldKey where
  loc  : Loc
  size : Nat
  variant : Nat
  key  : Nat
  val  : DWord
  count : Option (Loc × Nat)
  deriving DecidableEq, Repr

/-- A granule's state (R369): what the homes keep for granules that are not in device bias. -/
inductive BiasState where
  | toHost | host | toDevice
  deriving DecidableEq, Repr

/-- A granule that is not in device bias. A flip in progress is at line `line` of the 32, whose probes or snoops are
out once `sent` (R370). -/
structure Flip where
  granule : Nat
  st      : BiasState
  line    : Nat
  sent    : Bool
  waves   : List (Nat × Nat × Nat)    -- wave, slot and wanted bias of the biassets that wait
  deriving DecidableEq, Repr

/-- A line in the shared-cache part of its home slice (R231, R232): the sectors present, those newer than HBM, and the
retention its CACHE gave it, 0 lowest to 2 highest. -/
structure SharedLine where
  line    : Nat
  sectors : BitVec 4
  dirty   : BitVec 4
  ret     : Nat
  deriving DecidableEq, Repr

/-- A host request that waits at a home (R248, R369): kind 0 read, 1 cacheable read, 2 write. Kinds 3 and 4 are the
home's own: the rebuilding of a directory entry (R254) and the probing out of one that is replaced (R250), `addr` its
key. `held`: a flip of its granule has held it (R369). -/
structure HostReq where
  id     : Nat
  kind   : Nat
  addr   : Nat
  data   : List Byte
  size   : Nat
  poisoned : Bool
  waits  : Nat
  probed : Bool
  held   : Bool
  deriving DecidableEq, Repr

/-- What a group's home keeps beside the area (R333, R336): where the area lies, its first `split` bytes at `loc` and
the rest at `rest`; joins and leaves held; contributions held, with wave and instruction; those folded into the open
round; the running fold, none for ε; and whether a SUB differed. -/
structure GroupHold where
  loc    : Loc
  split  : Nat
  rest   : Loc
  queue  : List (Nat × GroupReq)
  contrib : List (Nat × Nat × Nat × List (Option DWord))
  folded : List (Nat × Nat)
  fold   : List (Option DWord)
  bad    : Bool
  deriving DecidableEq, Repr

/-- A reader that waits for drains at a home (R241, R243): a message, an engine, a host request, a request at a Col. -/
inductive Reader where
  | msg (id : Nat)
  | engine (n : Nat)
  | host (id : Nat)
  | col (key : Key)
  deriving DecidableEq, Repr

/-- The home side: release records, directory, held keyed contributions, granules not in device bias, host requests,
reads waiting for drains, groups, the host lines the homes own exclusively (R367), the lines whose record every core
is drained for (R255), the shared cache (R232), the fields the device has yet to write into halves that the host holds
(address, bytes, value), and the bias-table entries that the gates' probes use: by granule the owner, none where it is
shared (R361, R368). -/
structure Homes where
  records : List Record
  nextOrd : Nat
  dir     : List DirEntry
  keys    : List HeldKey
  flips   : List Flip
  hostReqs : List HostReq
  hostReplies : List (Nat × List Byte × Bool)
  waiting : List (Loc × Reader)
  groups  : List GroupHold
  owned   : List Nat
  cells   : List Loc
  posts   : List (Loc × DWord)         -- the serial of the CPOST that posted a cell's TOTAL (R352)
  dieTlb  : List (List TlbEntry)
  rebuilds : List Nat
  shared  : List SharedLine
  posted  : List (Nat × Nat × Nat)
  marks   : List (Nat × Option Nat)
  deriving DecidableEq, Repr

/-- A message in transit. `wave`, `uid` name the instruction it belongs to; a message a wave did not send has uid 0.
`ret` of a read, a write-back and an answer to a probe is the retention its CACHE asks of the shared cache (R232).
`owner` of a probe is that of its granule, none where gates do not filter it (R251). -/
inductive MsgKind where
  | read (loc : Loc) (core : Nat) (alloc : Bool) (ret : Nat)
  | write (op : LaneOp) (core : Nat) (release : Option (Nat × Bool))
  | atomic (kind : HomeOp) (op : LaneOp) (core : Nat) (fetch : Bool) (release : Option (Nat × Bool))
  | redk (variant : Nat) (op : LaneOp) (core : Nat) (resendAt : Option Nat)
  | reply (loc : Loc) (data : List PByte) (alloc : Bool) (core : Nat)
  | values (vals : List (Nat × Val64))
  | ack
  | drain (core : Nat) (upto : Nat) (all : Bool) (line : Loc) (ordered : Bool)
  | probe (core : Nat) (line : Nat) (half : Option Nat) (req : Nat) (owner : Option Nat)
  | probeResponse (core : Nat) (line : Nat) (half : Option Nat) (req : Nat)
      (dirty : List (Nat × Byte)) (poison : List Nat) (ret : Nat)
  | writeback (core : Nat) (loc : Loc) (bytes : List (Nat × PByte)) (whole : BitVec 4) (epoch : Nat) (uidTo : Nat) (ret : Nat)
  | backInv (line : Nat) (half : Nat) (req : Nat)
  | ownership (line : Nat)
  | groupReq (r : GroupReq) (loc : Loc) (core : Nat) (release : Option Nat) (resendAt : Option Nat)
  | groupResult (loc : Loc) (vals : List (Option DWord)) (poison : Lanes) (sub : Nat)
  | barReq (r : BarReq) (loc : Loc) (core : Nat) (release : Option (Nat × Bool))
  | post (cell : CarryAt) (opc : Nat) (total : DWord) (serial : DWord)
  | forward (src : CarryAt) (dst : Nat) (val : DWord) (poison : Bool) (serial : DWord)
  | interrupt (ctx vec : Nat) (payload : DWord) (fromCtx : Nat) (lane : Nat) (ipc : DWord)
  | uictl (sub : Nat) (loc : Loc)
  deriving DecidableEq, Repr

structure Msg where
  id   : Nat
  wave : Nat
  uid  : Nat
  no   : Nat
  ctx  : Nat
  kind : MsgKind
  deriving DecidableEq, Repr

/-! The link. -/

/-- The mapping a request is sent under (R372 to R374, R378): whether its run is of the pod, the run's INCARN, the
endpoint (in the pod a UALink accelerator identifier, else an IPv6 address; 0 for the own rank), and the paths of the
run's path set, each with its port and its entropy. -/
structure Route where
  pod      : Bool
  incarn   : Nat
  endpoint : Nat
  paths    : List (Nat × Nat)
  deriving DecidableEq, Repr

/-- What waits for a reply at the requester's Col (R383), that of a die: the request, its transmissions, when the last
was sent, whether timing has stopped (PARKED), the lane's global address and its address (R383, R386), the packets it
has beside its own, its route, and the path each packet took last, by packet number, none where it has never been sent
(R378, R381). -/
structure Outstanding where
  req    : RemoteReq
  wave   : Nat
  uid    : Nat
  tries  : Nat
  sentAt : Nat
  parked : Bool
  busyAt : Option Nat
  faddr  : DWord
  addr   : DWord
  cell   : Option CarryAt
  desc   : Option Loc
  parts  : List RemoteReq
  no     : Nat
  ipc    : DWord
  die    : Nat
  route  : Route
  ways   : List (Nat × Nat × Nat)
  deriving DecidableEq, Repr

/-- A mailbox send at its descriptor's home, still to take a slot (R395): its payload, in the order of arrival. -/
structure MailWait where
  wave  : Nat
  uid   : Nat
  send  : MailSend
  data  : List Byte
  deriving DecidableEq, Repr

/-- An entry of an owner's result cache or duplicate filter (R384), in the Col of a die: where the request acted, the
value returned and the packets placed. -/
structure CacheEntry where
  key    : Key
  kind   : ReqKind
  value  : List Byte
  poison : Bool
  placed : List Nat
  packets : Nat
  isDone : Bool
  flag   : Option RemoteReq
  bytes  : Nat
  col    : Nat
  at_    : Nat × Nat
  deriving DecidableEq, Repr

/-- What the flit that brought an injector's counter to zero belongs to (R398): a packet of a key on a path, by its
number, a reply sent, or something received, which the link or its sender brings again. -/
inductive Flit where
  | packet (key : Key) (no : Nat) (way : Nat × Nat)
  | reply (key : Key) (r : Reply)
  | received
  deriving DecidableEq, Repr

/-- An injector (R397, R398): its descriptor, its counter, the flit to act on, and the flits it holds back. -/
structure Injector where
  mode   : Nat
  repeats : Bool
  dir    : Nat
  kinds  : Nat
  delay  : Nat
  n      : Nat
  peer   : Nat
  mask   : DWord
  count  : Nat
  hit    : Option Flit
  late   : List Flit
  deriving DecidableEq, Repr

/-- The link: the slots of R372 that are not zero, the ports, outstanding keys, the owner's caches, parked requests,
the local interrupt messages whose wait for a page has been noticed and the contexts whose counter's wait has, the
injectors, the replies sent, the mailbox sends that wait for a slot, and the interrupt requests queued per wave. A
parked request stands with the clock and the Col that parks it (R385); `landing` has the requests that are performed
in pieces, with the pieces done so far and what each read (R288); `turned` those answered BUSY that have not come back
(R301); `standing` those of other ranks that wait for their home; `kept` the routes that held requests keep where a
slot has been written since (R372). -/
structure Link where
  slots    : List (Nat × List Byte)
  ports    : List (PortState × Nat)
  out      : List Outstanding
  cache    : List CacheEntry
  newest   : List (Nat × Nat)
  parked   : List (RemoteReq × Nat × Nat)
  landing  : List (RemoteReq × List (Nat × List PByte))
  turned   : List RemoteReq
  standing : List RemoteReq
  kept     : List (Key × Route)
  parkNoted : List Nat
  cntNoted : List Nat
  injectors : List Injector
  replies  : List (Key × Reply)
  sendWait : List MailWait
  intWait : List (Nat × Nat × DWord × RemoteReq)   -- wave, issue number, PC: interrupts to a rank behind another (R408)
  deriving DecidableEq, Repr

/-! The device. -/

/-- Device states (R442). -/
inductive DevState where
  | booting | refused | ready
  deriving DecidableEq, Repr

/-- A quote (R446): its number, the nonce, the image's digest, VERSION, the clock count. -/
structure Quote where
  no      : Nat
  nonce   : List Byte
  digest  : List Byte
  version : Nat
  clk     : Nat
  deriving DecidableEq, Repr

/-- A command the host has written and that waits (R447): to CTXCMD or to QCMD, its fields, and QADDR as it was. -/
structure HostCmd where
  queue : Bool
  code  : Nat
  ctx   : Nat
  tag   : Nat
  grid  : Nat
  qaddr : Nat
  deriving DecidableEq, Repr

/-- The device outside its cores: bring-up, the control space, what the image gave, the power cap, the counters, the
event queues of the two dies (record and context), and which launch a wave's record belongs to (R431). `cmdOn` is the
context whose SUSPEND a host command is still performing (R447). `evWait` are the events that wait to be recorded,
oldest first: context, die, record; `rechecks` the contexts whose waits are rechecked at this clock (R450). -/
structure Device where
  on       : Bool
  st       : DevState
  reason   : Nat
  clk      : Nat
  flash    : List Byte
  rollback : Nat
  kbase    : Nat
  ctxtab   : Nat
  linktab  : Nat
  rctab    : Nat
  biastab  : Nat
  netprefix : Nat
  porten   : Nat
  features : Nat
  trained  : Bool
  nonce    : List Byte
  attcmd   : Bool
  quote    : Option Quote
  version  : Nat
  cap      : Nat
  capNext  : List (Nat × Nat)
  qaddr    : Nat
  bridged  : Nat
  errcnt   : List (List Nat)
  msix     : List Nat
  grants   : List (List Nat)
  hbmErrors : List (Nat × Bool)
  recErrors : List Nat
  eventQ   : List (List (Nat × Nat))
  recTags  : List (Nat × Nat × Nat)
  cmdOn    : Option Nat
  cmds     : List HostCmd         -- commands that wait for it, oldest first
  evWait   : List (Nat × Nat × EvRec)
  rechecks : List Nat
  deriving DecidableEq, Repr

/-- Launch scheduling (R116, R120 to R127). -/
structure Sched where
  launches : List Launch
  nextOrd  : Nat
  unplaced : List (Nat × Nat × Nat)
  partition : List Nat
  lastCtx  : List Nat
  nextWave : Nat
  nextBlock : Nat
  lastQueue : List (Nat × Nat)
  deriving DecidableEq, Repr

/-- One move of the machine: a clock passes, a quadrant issues, or an event happens. -/
inductive Move where
  | tick
  | issue (quad : Nat)
  | ev (e : Instr)
  deriving DecidableEq, Repr, Inhabited

/-- The next move where the agenda is empty: a free value for each number drawn. (DESIGN CHOICE: log 1.) -/
opaque nextMove : Nat → Move

/-- The instruction being issued: wave, split slot, PC, length in bytes, and the bytes fetched. -/
structure Cur where
  wave : Nat
  slot : Nat
  pc   : DWord
  len  : Nat
  deriving DecidableEq, Repr

/-- The whole machine. `agenda` holds moves already decided; where it is empty the next move is a free value. `free`
counts the free values drawn. -/
structure State where
  agenda  : List Move
  cur     : Option Cur
  free    : Nat
  dev     : Device
  mem     : Memory
  host    : Memory
  sched   : Sched
  ctxs    : List Context
  waves   : List Wave
  blocks  : List Block
  cores   : List Core
  quads   : List Quad
  engines : List Engine
  homes   : Homes
  msgs    : List Msg
  nextMsg : Nat
  link    : Link
  deriving DecidableEq, Repr

/-- Why the machine stops. -/
inductive Fault where
  /-- Raised by the meaning of an instruction of a wave when no wave is issuing, which no step does. Safe. -/
  | noIssuer
  deriving DecidableEq, Repr

/-- Why an instruction has no meaning. -/
inductive Refusal where
  /-- Raised by `exec` for an instruction whose meaning is not modelled. Safe. -/
  | notModelled (mnemonic : String)
  deriving DecidableEq, Repr

/-! Reset. -/

def SysRegs.zero : SysRegs := ⟨0, 0, 0, 0, 0, 0, 0, 0, 0, 0⟩

def Queue.fresh : Queue :=
  { ring := 0, log2 := 1, die := 0, isOpen := false, rcache := 0, st := .empty, prev := .empty, valid := true,
    entry := none, engine := none, cache := [], pushes := [], pushed := [], gone := [], notices := [], stopping := false, loading := none, writes := [], left := [] }

def Context.free : Context :=
  { st := .free, saving := none, scratch := 0, slice := 0, budget := 0, ptroot := 0, savebase := 0, savesize := 0, lqbase := 0,
    eqbase := 0, msix := 0, uipage := 0, evbase := 0, evcount := 0, lqs := [], eqs := [], waitclk := 0, evhead := 0,
    overwrites := 0, placedAt := 0, sendNo := 0, active := none, wakeNoticed := [], lqNext := 0, acks := [],
    claim := 0, claimNext := [] }

def Core.fresh : Core :=
  { frames := [], nextFrame := 0, epoch := 0, tlb := [], pending := [], gated := false, idleAt := 0,
    lastSteal := none }

def Quad.fresh : Quad :=
  { busyUntil := 0, unitUntil := 0, unit := [], array := [], latch := none, permit := .none, release := false }

/-- An engine that works on nothing. -/
def Engine.idle : Engine := ⟨none, []⟩

def Injector.off : Injector :=
  { mode := 0, repeats := false, dir := 0, kinds := 0, delay := 0, n := 0, peer := 0, mask := 0, count := 0,
    hit := none, late := [] }

def Homes.fresh : Homes :=
  { records := [], nextOrd := 0, dir := [], keys := [], flips := [], hostReqs := [], hostReplies := [], waiting := [],
    groups := [], owned := [], cells := [], posts := [], dieTlb := [[], []], rebuilds := [], shared := [], posted := [],
    marks := [] }

def Link.fresh : Link :=
  { slots := [], ports := List.replicate 24 (.disabled, 0), out := [], cache := [], newest := [], parked := [], landing := [], turned := [], standing := [], kept := [],
    parkNoted := [], cntNoted := [], injectors := List.replicate 96 .off, replies := [], sendWait := [], intWait := [] }

/-- The device right after power-up or RESET (R26, R442, R448): Booting, every counter zero, every cache empty, the cap
at 2,400 W. The board's flash is outside the device and is kept by a reset. (DESIGN CHOICE: log 5.) -/
def Device.boot (flash : List Byte) (rollback : Nat) : Device :=
  { on := true, st := .booting, reason := 0, clk := 0, flash, rollback, kbase := 0, ctxtab := 0, linktab := 0,
    rctab := 0, biastab := 0, netprefix := 0, porten := 0, features := 0, trained := false, nonce := List.replicate 32 0#8,
    attcmd := false, quote := none, version := 0, cap := 2400, capNext := [], qaddr := 0, bridged := 0,
    errcnt := [List.replicate 12 0, List.replicate 12 0], msix := [], grants := [[], []], hbmErrors := [],
    recErrors := [], eventQ := [[], []], recTags := [], cmdOn := none, cmds := [], evWait := [], rechecks := [] }

def Sched.fresh : Sched :=
  { launches := [], nextOrd := 0, unplaced := [], partition := [0, 0], lastCtx := [0, 0], nextWave := 1,
    nextBlock := 1, lastQueue := [(0, 0), (0, 0)] }

/-- The machine at power-up with a given board flash (R26). (DESIGN CHOICE: log 4, 5.) -/
def State.powered (flash : List Byte) (rollback : Nat) : State :=
  { agenda := [], cur := none, free := 0, dev := Device.boot flash rollback, mem := .empty, host := .empty,
    sched := .fresh, ctxs := List.replicate 64 .free, waves := [], blocks := [],
    cores := List.replicate 64 .fresh, quads := List.replicate 256 .fresh, engines := List.replicate 128 .idle,
    homes := .fresh, msgs := [], nextMsg := 1, link := .fresh }

/-- The machine right after reset (R442): Booting, with no image yet in the board's flash. (DESIGN CHOICE: log 3.) -/
def State.reset : State := State.powered [] 0

end Sys2Proof.Machine
end

