-- ==== Sys2Proof/Machine/Ops.lean ====
section
/-! DEFINITION. The named operations over memory, registers, waves, translation and messages, and the taking of a trap
and the return from one, which every meaning shares. -/

namespace Sys2Proof.Machine

/-! Lists. -/

/-- The list with entry i replaced. -/
def updAt {α : Type} (i : Nat) (f : α → α) : List α → List α
  | [] => []
  | x :: xs => match i with
    | 0 => f x :: xs
    | i + 1 => x :: updAt i f xs

/-- Insert or replace a pair in a list of pairs sorted by key. -/
def insertKey {β : Type} (k : Nat) (v : β) : List (Nat × β) → List (Nat × β)
  | [] => [(k, v)]
  | (j, u) :: r => if k < j then (k, v) :: (j, u) :: r else if k = j then (k, v) :: r else (j, u) :: insertKey k v r

/-- Remove a key from a list of pairs. -/
def eraseKey {β : Type} (k : Nat) : List (Nat × β) → List (Nat × β)
  | [] => []
  | (j, u) :: r => if k = j then eraseKey k r else (j, u) :: eraseKey k r

/-- The value at a key. -/
def lookupKey {β : Type} (k : Nat) : List (Nat × β) → Option β
  | [] => none
  | (j, u) :: r => if k = j then some u else lookupKey k r

/-- Insert a number in a rising list without repeats. -/
def insertNat (k : Nat) : List Nat → List Nat
  | [] => [k]
  | j :: r => if k < j then k :: j :: r else if k = j then j :: r else j :: insertNat k r

/-- The least element, or a default. -/
def minNat (d : Nat) : List Nat → Nat
  | [] => d
  | x :: xs => xs.foldl Nat.min x

/-- The greatest element, or 0. -/
def maxNat (l : List Nat) : Nat := l.foldl Nat.max 0

/-- The numbers lo to lo + n - 1. -/
def natsFrom (lo n : Nat) : List Nat := (List.range n).map (lo + ·)

/-- The list without repeats, first occurrences kept. -/
def dedup {α : Type} [BEq α] : List α → List α
  | [] => []
  | x :: xs => x :: (dedup xs).filter (fun y => !(y == x))

/-! Lanes. -/

/-- The lanes below W (R129). -/
def allLanes (w : Nat) : Lanes := BitVec.ofNat 64 (2 ^ w - 1)

/-- Lane i is in the set. -/
def hasLane (m : Lanes) (i : Nat) : Bool := m.getLsbD i

/-- The set's lanes, ascending. -/
def lanesOf (m : Lanes) : List Nat := (List.range 64).filter (hasLane m)

/-- The set of a list of lanes. -/
def laneSet (l : List Nat) : Lanes := l.foldl (fun m i => m ||| (1#64 <<< i)) 0#64

/-- The lowest lane of a set, 0 when it is empty. -/
def lowest (m : Lanes) : Nat := (lanesOf m).headD 0

/-! Bytes and words (R4). -/

/-- A number from bytes, low byte first. -/
def leNat : List Byte → Nat
  | [] => 0
  | b :: bs => b.toNat + 256 * leNat bs

/-- n bytes of a number, low byte first. -/
def leBytes : Nat → Nat → List Byte
  | 0, _ => []
  | n + 1, v => BitVec.ofNat 8 v :: leBytes n (v / 256)

/-- The bytes of a list carrying one poison bit. -/
def pbytes (p : Bool) (bs : List Byte) : List PByte := bs.map (⟨·, p⟩)

def pvalue (bs : List PByte) : Nat := leNat (bs.map (·.byte))

def anyPoison (bs : List PByte) : Bool := bs.any (·.poison)

/-- A 64-bit field of a register value. -/
def bitsOf (v : Nat) (hi lo : Nat) : Nat := (v / 2 ^ lo) % 2 ^ (hi - lo + 1)

end Sys2Proof.Machine

namespace Sys2Proof

/-- A word from a number, with a poison bit. -/
def Val.ofNat (v : Nat) (p : Bool) : Val := ⟨BitVec.ofNat 32 v, p⟩

/-- The low word of a 64-bit value and its high word, each with the value's poison (R4, R169). -/
def Val64.lo (v : Val64) : Val := ⟨v.bits.truncate 32, v.poison⟩
def Val64.hi (v : Val64) : Val := ⟨v.bits.extractLsb' 32 32, v.poison⟩
def Val.wide (v : Val) : Val64 := ⟨v.bits.zeroExtend 64, v.poison⟩
def Val.join (lo hi : Val) : Val64 := ⟨hi.bits ++ lo.bits, lo.poison || hi.poison⟩

/-! Scopes (R285). -/

/-- Gang scope or wider. -/
def Scope.gangUp : Scope → Bool
  | .wave | .block => false
  | _ => true
/-- Node scope or wider. -/
def Scope.nodeUp : Scope → Bool
  | .node | .pod | .job => true
  | _ => false

end Sys2Proof

namespace Sys2Proof.Machine

/-! Memory. -/

/-- The cell list with a byte listed. -/
def cellInsert (a : Nat) (b : Byte) : List Host.Cell → List Host.Cell := insertKey a b

/-- One byte (R289 for its coherence; this is the byte at the home). (DESIGN CHOICE: log 4.) -/
def Memory.get (m : Memory) (a : Nat) : Byte :=
  match lookupKey a m.cells with
  | some b => b
  | none => m.unlisted a

/-- Write one byte, keeping the canonical form. -/
def Memory.set (m : Memory) (a : Nat) (b : Byte) : Memory :=
  if b = m.unlisted a then { m with cells := eraseKey a m.cells } else { m with cells := insertKey a b m.cells }

/-- Keys strictly rising, all at or above a bound. -/
def risingFrom (lo : Nat) : List Nat → Bool
  | [] => true
  | k :: r => lo ≤ k && risingFrom (k + 1) r

/-- The canonical form: addresses strictly rising, no cell equal to what its address reads as unlisted, poisoned sectors
strictly rising. -/
def Memory.wf (m : Memory) : Bool :=
  risingFrom 0 (m.cells.map (·.1)) && m.cells.all (fun c => c.2 != m.unlisted c.1) && risingFrom 0 m.poison

/-- The sector's poison bit (R256). -/
def Memory.sectorPoison (m : Memory) (a : Nat) : Bool := m.poison.contains (a / 32)

/-- Set or clear a sector's poison bit. -/
def Memory.setPoison (m : Memory) (sector : Nat) (p : Bool) : Memory :=
  if p then { m with poison := insertNat sector m.poison } else { m with poison := m.poison.filter (· != sector) }

def Memory.bytes (m : Memory) (a n : Nat) : List PByte :=
  (List.range n).map (fun k => ⟨m.get (a + k), m.sectorPoison (a + k)⟩)

/-- An unsigned little-endian field (R4). -/
def Memory.nat (m : Memory) (a n : Nat) : Nat := leNat ((List.range n).map (fun k => m.get (a + k)))

/-- Write bytes, poison untouched. -/
def Memory.setBytes (m : Memory) (a : Nat) : List Byte → Memory
  | [] => m
  | b :: bs => (m.set a b).setBytes (a + 1) bs

/-- The poison of the sectors a write touches: set where poisoned data lands, cleared where unpoisoned data covers all
32 bytes, left otherwise (R257). -/
def Memory.markSectors (m : Memory) (a : Nat) (bs : List PByte) : Memory :=
  let first := a / 32
  let last := (a + bs.length - 1) / 32
  (natsFrom first (last + 1 - first)).foldl (fun m k =>
    let lo := 32 * k - a
    let hi := 32 * (k + 1) - a
    let part := (bs.take hi).drop lo
    if anyPoison part then m.setPoison k true
    else if part.length = 32 then m.setPoison k false
    else m) m

/-- A store of data with its poison (R257). -/
def Memory.store (m : Memory) (a : Nat) (bs : List PByte) : Memory :=
  if bs.isEmpty then m else (m.setBytes a (bs.map (·.byte))).markSectors a bs

/-- A write that leaves the poison of the sectors it touches as it is (device-written fields). -/
def Memory.setNat (m : Memory) (a n v : Nat) : Memory := m.setBytes a (leBytes n v)

/-- The device writes the range from `lo` up to `hi` as a whole, with no poison: in a form of its own, whose bytes are
free values, or with zeros (R6, R86). (DESIGN CHOICE: log 108.) -/
def Memory.veil (m : Memory) (lo hi : Nat) (n : Option Nat) : Memory :=
  { m with
    cells := m.cells.filter fun c => c.1 < lo || hi ≤ c.1
    poison := m.poison.filter fun k => 32 * k < lo || hi ≤ 32 * k
    veils := (lo, hi, n) :: m.veils.filter fun v => v.1 != lo || v.2.1 != hi }

/-! The state's parts. -/

namespace State

def wave? (s : State) (id : Nat) : Option Wave := s.waves.find? (·.id == id)
def putWave (s : State) (w : Wave) : State := { s with waves := s.waves.map (fun v => if v.id == w.id then w else v) }
def modWave (s : State) (id : Nat) (f : Wave → Wave) : State :=
  { s with waves := s.waves.map (fun v => if v.id == id then f v else v) }
/-- A context. Context 0 is never created (R89), so the fields of its entry that it uses are those that stand in memory.
(DEDUCED: log 36.) -/
def ctx (s : State) (n : Nat) : Context :=
  let x := s.ctxs.getD n .free
  if n = 0 then
    let f (off k : Nat) : Nat := s.mem.nat (s.dev.ctxtab + off) k
    { x with ptroot := f 0x10 8, msix := f 0x44 4, evbase := f 0x50 8, evcount := f 0x58 4 }
  else x
def modCtx (s : State) (n : Nat) (f : Context → Context) : State := { s with ctxs := updAt n f s.ctxs }
def core (s : State) (n : Nat) : Core := s.cores.getD n .fresh
def modCore (s : State) (n : Nat) (f : Core → Core) : State := { s with cores := updAt n f s.cores }
def quad (s : State) (n : Nat) : Quad := s.quads.getD n .fresh
def modQuad (s : State) (n : Nat) (f : Quad → Quad) : State := { s with quads := updAt n f s.quads }
def block? (s : State) (id : Nat) : Option Block := s.blocks.find? (·.id == id)
def modBlock (s : State) (id : Nat) (f : Block → Block) : State :=
  { s with blocks := s.blocks.map (fun b => if b.id == id then f b else b) }
def launch? (s : State) (c t : Nat) : Option Launch :=
  s.sched.launches.find? (fun l => l.ctx == c && l.tag == t)
def modLaunch (s : State) (c t : Nat) (f : Launch → Launch) : State :=
  { s with sched := { s.sched with
      launches := s.sched.launches.map (fun l => if l.ctx == c && l.tag == t then f l else l) } }
def clk (s : State) : Nat := s.dev.clk
def dieOf (core : Nat) : Nat := if core < 32 then 0 else 1
def modHomes (s : State) (f : Homes → Homes) : State := { s with homes := f s.homes }
def modLink (s : State) (f : Link → Link) : State := { s with link := f s.link }
def modDev (s : State) (f : Device → Device) : State := { s with dev := f s.dev }
def modSched (s : State) (f : Sched → Sched) : State := { s with sched := f s.sched }

/-- A free value, and the state with one more drawn. (DESIGN CHOICE: log 7, 39, 46; DEDUCED: log 74.) -/
def draw (s : State) : DWord × State := (Config.freeWord s.free, { s with free := s.free + 1 })
/-- A free choice below n. (DESIGN CHOICE: log 33.) -/
def choose (s : State) (n : Nat) : Nat × State := (Config.freeNat s.free % n, { s with free := s.free + 1 })

/-- A free choice of some of the numbers below n. (DESIGN CHOICE: log 143.) -/
def chooseSome (s : State) (n : Nat) : List Nat × State :=
  ((List.range n).filter fun i => (Config.freeWord (s.free + i / 64)).getLsbD (i % 64), { s with free := s.free + (n + 63) / 64 })

/-- Put a message in transit. -/
def send (s : State) (wave uid no ctx : Nat) (k : MsgKind) : State :=
  { s with msgs := s.msgs ++ [⟨s.nextMsg, wave, uid, no, ctx, k⟩], nextMsg := s.nextMsg + 1 }
def msg? (s : State) (id : Nat) : Option Msg := s.msgs.find? (·.id == id)
def dropMsg (s : State) (id : Nat) : State := { s with msgs := s.msgs.filter (·.id != id) }
def modMsg (s : State) (id : Nat) (f : MsgKind → MsgKind) : State :=
  { s with msgs := s.msgs.map (fun m => if m.id == id then { m with kind := f m.kind } else m) }

/-- Count an error event on a die, saturating (R433). -/
def count (s : State) (die i : Nat) : State :=
  s.modDev fun d => { d with errcnt := updAt die (updAt i (fun n => if n + 1 < 2 ^ 64 then n + 1 else n)) d.errcnt }

/-! Memory by space. -/

def memOf (s : State) : Space → Memory
  | .dev => s.mem
  | .host => s.host
  | .scratch b => match s.block? b with
    | some k => k.scratch
    | none => .empty

def setMem (s : State) (sp : Space) (m : Memory) : State :=
  match sp with
  | .dev => { s with mem := m }
  | .host => { s with host := m }
  | .scratch b => s.modBlock b (fun k => { k with scratch := m })

/-- Bytes at their home, with poison. -/
def bytesAt (s : State) (l : Loc) (n : Nat) : List PByte := (s.memOf l.sp).bytes l.addr n
/-- An unsigned field at its home. -/
def natAt (s : State) (l : Loc) (n : Nat) : Nat := (s.memOf l.sp).nat l.addr n
/-- A field of local physical memory. -/
def pnat (s : State) (a n : Nat) : Nat := s.mem.nat a n
/-- Store data at its home, with its poison. -/
def storeAt (s : State) (l : Loc) (bs : List PByte) : State := s.setMem l.sp ((s.memOf l.sp).store l.addr bs)
/-- A device write of a field at its home. -/
def setNatAt (s : State) (l : Loc) (n v : Nat) : State := s.setMem l.sp ((s.memOf l.sp).setNat l.addr n v)

end State

/-- The line a location lies in (R231); host lines are kept as the 128-byte frame they sit in (R249).
(DEDUCED: log 131.) -/
def Loc.line (l : Loc) : Loc := ⟨l.sp, l.addr / 128 * 128⟩
def Loc.sector (l : Loc) : Loc := ⟨l.sp, l.addr / 32 * 32⟩
def Loc.plus (l : Loc) (n : Nat) : Loc := ⟨l.sp, l.addr + n⟩

/-- Two byte ranges of one space overlap. -/
def overlaps (a : Loc) (n : Nat) (b : Loc) (m : Nat) : Bool :=
  a.sp == b.sp && a.addr < b.addr + m && b.addr < a.addr + n

/-! Release records and drains (R238 to R243). -/

/-- Cores other than the requester that a line's release record names, with the recorded epochs. -/
def State.recorded (s : State) (line : Loc) (except : Option Nat) : List (Nat × Nat) :=
  match s.homes.records.find? (·.line == line) with
  | some r => r.cores.filter (fun c => some c.1 != except)
  | none => []

/-- Whether a read of the line must first drain a core (R241). -/
def State.mustDrain (s : State) (l : Loc) (except : Option Nat) : Bool := !(s.recorded l.line except).isEmpty

/-- The full epoch a recorded 16-bit epoch stands for on a core: the newest epoch at or below the current one with
those low bits (R238). -/
def fullEpoch (cur low : Nat) : Nat :=
  let d := (cur + 65536 - low % 65536) % 65536
  cur - d

/-- A bad release record makes every core drain every dirty frame (R255): the record names them all until they have. -/
def State.rebuildRecord (s : State) (line : Nat) : State :=
  let l : Loc := ⟨.dev, line⟩
  let s := s.modDev fun d => { d with recErrors := d.recErrors.filter (· != line) }
  let s := s.modHomes fun h => { h with
    records := h.records.filter (·.line != l) ++ [⟨l, (List.range 64).map (·, 0), h.nextOrd⟩], nextOrd := h.nextOrd + 1
    rebuilds := insertNat line h.rebuilds }
  (List.range 64).foldl (fun s c => s.send 0 0 0 0 (.drain c 0 true l false)) s

/-- Order the recorded cores to drain, one order per core and line (R241 step 1). A record with an uncorrectable error
orders every core to drain every frame (R255). -/
def State.requestDrain (s : State) (l : Loc) (except : Option Nat) : State :=
  let line := l.line
  if line.sp == .dev && s.dev.recErrors.contains line.addr then s.rebuildRecord line.addr
  else (s.recorded line except).foldl (fun s (c, e) =>
    let there := s.msgs.any (fun m => match m.kind with
      | .drain core _ _ ln _ => core == c && ln == line
      | _ => false)
    if there then s
    else
      let cur := (s.core c).epoch
      let upto := fullEpoch cur e
      s.send 0 0 0 0 (.drain c upto (decide (cur - upto ≥ 2 ^ 15)) line false)) s

/-- Clear a core's bit in a line's record; an empty record is freed (R241 step 4). (DEDUCED: log 43.) -/
def State.clearRecorded (s : State) (line : Loc) (core : Nat) : State :=
  s.modHomes fun h => { h with
    records := (h.records.map (fun r => if r.line == line then { r with cores := eraseKey core r.cores } else r)).filter
      (fun r => !r.cores.isEmpty) }

/-- Set a core's bit with the epoch it closed (R239 step 3). -/
def State.setRecorded (s : State) (line : Loc) (core epoch : Nat) : State :=
  s.modHomes fun h =>
    let e := epoch % 65536
    if h.records.any (·.line == line) then
      { h with records := h.records.map (fun r => if r.line == line then
          { r with cores := insertKey core e r.cores, ord := h.nextOrd } else r), nextOrd := h.nextOrd + 1 }
    else
      { h with records := h.records ++ [⟨line, [(core, e)], h.nextOrd⟩], nextOrd := h.nextOrd + 1 }

/-- A release to a line finds no free record in the slice: the state with the least recently set one being drained. None
where the line has a record or one is free (R238). -/
def State.recordFull (s : State) (line : Loc) : Option State :=
  if s.homes.records.length < 2048 || s.homes.records.any (·.line == line) then none
  else
    let slice := Config.homeSlice line.addr
    let same := s.homes.records.filter (fun r => Config.homeSlice r.line.addr == slice)
    if same.length < 2048 then none
    else
      let old := same.foldl (fun b r => if r.ord < b.ord then r else b) (same.headD ⟨line, [], 0⟩)
      some (s.requestDrain old.line none)

/-! L1 frames (R234 to R237). -/

def State.frame? (s : State) (core : Nat) (line : Loc) : Option Frame :=
  (s.core core).frames.find? (fun f => f.loc == line)
def Frame.isDirty (f : Frame) : Bool := f.dirty != 0#4
def Frame.isValid (f : Frame) : Bool := f.valid != 0#4 || f.dirty != 0#4
def Frame.sectorOf (a : Nat) : Nat := (a % 128) / 32

def State.modFrame (s : State) (core id : Nat) (f : Frame → Frame) : State :=
  s.modCore core fun c => { c with frames := (c.frames.map (fun x => if x.id == id then f x else x)).filter (·.isValid) }

/-- The bytes a write-back of a frame sends: whole sectors where valid, the written bytes elsewhere (R236).
(DEDUCED: log 44.) -/
def Frame.writebackBytes (f : Frame) (half : Option Nat) : List (Nat × PByte) :=
  (List.range 128).filterMap (fun k =>
    let sec := k / 32
    let inHalf := match half with
      | none => true
      | some h => k / 64 == h
    if inHalf && f.dirty.getLsbD sec && (f.valid.getLsbD sec || f.wr.getLsbD k) then
      some (k, ⟨f.data.getD k 0#8, f.poison.getLsbD sec⟩)
    else none)

/-- The frame after its write-back: only valid sectors stay, none dirty (R236). -/
def Frame.cleaned (f : Frame) : Frame := { f with dirty := 0#4, wr := 0#128, poison := f.poison &&& f.valid }

/-- The line a frame holds: 128 bytes of device memory, 64 of host memory (R249). -/
def Loc.frameLine (l : Loc) : Loc := match l.sp with
  | .host => ⟨.host, l.addr / 64 * 64⟩
  | _ => l.line

/-- Data on its way to a core that was read before an invalidation fills no frame. (DEDUCED: log 45.) -/
def State.noFill (s : State) (core : Nat) (p : Loc → Bool) : State :=
  { s with msgs := s.msgs.map (fun m => match m.kind with
      | .reply l d _ c => if c == core && p l then { m with kind := .reply l d false c } else m
      | _ => m) }

/-- Send one frame's dirty sectors to the home; what was read there before fills no frame of the line.
(DEDUCED: log 44.) -/
def State.sendWriteback (s : State) (core : Nat) (f : Frame) (uidTo : Nat × Nat) : State :=
  if f.isDirty then
    ((s.noFill core (·.frameLine == f.loc)).send uidTo.1 uidTo.2 0 f.ctx
      (.writeback core f.loc (f.writebackBytes none) (f.valid &&& f.dirty) f.epoch uidTo.2 f.ret)).modFrame core f.id
      Frame.cleaned
  else s

/-- The dirty frames of a core that satisfy a test, oldest epoch first (R237). -/
def State.dirtyFrames (s : State) (core : Nat) (p : Frame → Bool) : List Frame :=
  let fs := (s.core core).frames.filter (fun f => f.isDirty && p f)
  let eps := fs.foldl (fun l f => insertNat f.epoch l) []
  eps.flatMap (fun e => fs.filter (·.epoch == e))

/-- Write back frames in epoch order: those asked for, and before them every dirty frame of an older epoch (R237). -/
def State.writebackWhere (s : State) (core : Nat) (p : Frame → Bool) (uidTo : Nat × Nat) : State :=
  let fs := s.dirtyFrames core p
  let top := maxNat (fs.map (·.epoch))
  let older := s.dirtyFrames core (fun f => f.epoch < top && !p f)
  (s.dirtyFrames core (fun f => p f || older.any (·.id == f.id))).foldl
    (fun s f => s.sendWriteback core f (if p f then uidTo else (0, 0))) s

/-- Drop frames (they must be clean, or their data already sent). -/
def State.dropFrames (s : State) (core : Nat) (p : Frame → Bool) : State :=
  s.modCore core fun c => { c with frames := c.frames.filter (fun f => !p f) }

/-- Invalidate every Clean frame of a context (R242). -/
def State.acquireInval (s : State) (core ctx : Nat) : State :=
  (s.dropFrames core (fun f => !f.isDirty && f.ctx == ctx)).noFill core (fun _ => true)

/-- Close the core's release epoch and give the epoch closed (R238). A core with dirty host-memory halves writes them
back first (R249). -/
def State.closeEpoch (s : State) (core : Nat) : Nat × State :=
  let s := s.writebackWhere core (fun f => f.loc.sp == .host) (0, 0)
  let e := (s.core core).epoch
  (e, s.modCore core fun c => { c with epoch := e + 1 })

/-- Write back every Dirty frame of an epoch up to e. -/
def State.flushEpoch (s : State) (core e : Nat) : State := s.writebackWhere core (fun f => f.epoch ≤ e) (0, 0)

/-- The core's own copy of a line written back if dirty and then invalidated (R239 step 2, R269, R280). -/
def State.surrenderLine (s : State) (core : Nat) (line : Loc) (uidTo : Nat × Nat) : State :=
  ((s.writebackWhere core (fun f => f.loc == line) uidTo).dropFrames core (fun f => f.loc == line)).noFill core
    (fun l => l.frameLine == line)

/-- Whether a write-back of the core is still on its way to this line, or, for order, of an older epoch. -/
def State.writebackPending (s : State) (core : Nat) (p : Loc → Nat → Bool) : Bool :=
  s.msgs.any fun m => match m.kind with
    | .writeback c loc _ _ e _ _ => c == core && p loc e
    | _ => false

/-- A frame for a line, allocated if the core has none (R234); where the set is full a free choice of its frames is
written back and replaced. The new frame has no valid sector. -/
def State.needFrame (s : State) (core : Nat) (line : Loc) (ctx : Nat) (restrict : BitVec 2) : State :=
  match s.frame? core line with
  | some _ => s
  | none =>
    let cs := s.core core
    let set := Config.l1Set line.addr % 512
    let same := if cs.frames.length < 16 then [] else
      cs.frames.filter (fun f => Config.l1Set f.loc.addr % 512 == set)
    let s := if same.length < 16 then s
      else
        let (k, s) := s.choose 16
        match same[k]? with
        | some v => (s.writebackWhere core (fun f => f.id == v.id) (0, 0)).dropFrames core (fun f => f.id == v.id)
        | none => s
    s.modCore core fun c => { c with
      frames := c.frames ++ [{
        id := c.nextFrame, loc := line, ctx, valid := 0#4, dirty := 0#4, poison := 0#4, wr := 0#128,
        data := List.replicate 128 0#8, epoch := c.epoch, since := s.clk, restrict, ret := 1 }],
      nextFrame := c.nextFrame + 1 }

/-- Which groups of the holder directory a core belongs to (R250). -/
def groupOf (core : Nat) : Nat := core / 4

/-- The key of a line in the holder directory, and the line a key stands for (R249). -/
def Loc.dirKey (l : Loc) : Nat := match l.sp with
  | .host => 2 ^ 63 + l.addr / 64 * 64
  | _ => l.addr / 128 * 128
def dirLine (k : Nat) : Loc := if 2 ^ 63 ≤ k then ⟨.host, k - 2 ^ 63⟩ else ⟨.dev, k⟩
/-- The die whose directory covers a key: the home's, and for host memory that of the CXL port (R14, R250). -/
def dirDie (k : Nat) : Nat := if 2 ^ 63 ≤ k then 1 else Config.homeSlice k / 32

/-- Every core group is probed, with no gate filtering, and both halves of a device line are recalled because a
directory entry is bad (R254): a request of kind 3 counts the answers, and the entry stays until they are in. -/
def State.rebuildDir (s : State) (key : Nat) : State :=
  if s.homes.hostReqs.any (fun r => r.kind == 3 && r.addr == key) then s
  else
    let id := s.nextMsg
    let hs := if 2 ^ 63 ≤ key then [] else [0, 1]
    let s := (List.range 64).foldl (fun s c => s.send 0 0 0 0 (.probe c key none id none)) s
    let s := hs.foldl (fun s h => s.send 0 0 0 0 (.backInv key h id)) s
    s.modHomes fun h => { h with hostReqs := h.hostReqs ++ [{
      id, kind := 3, addr := key, data := [], size := 0, poisoned := false, waits := 64 + hs.length, probed := true
      held := false }] }

/-- What a probe of a line carries (R251): the owner of its granule, none where the granule is shared or the line is
of host memory. The homes keep the bias-table entries they have read until a tlbinv drops them (R361, R368). (DESIGN
CHOICE: log 158.) (DESIGN CHOICE: log 158.) -/
def State.probeOwner (s : State) (key : Nat) : Option Nat × State :=
  if 2 ^ 63 ≤ key then (none, s)
  else match lookupKey (key / 4096) s.homes.marks with
    | some o => (o, s)
    | none =>
      let e := s.pnat (s.dev.biastab + 2 * (key / 4096)) 2
      let o := if e.testBit 2 then none else some (bitsOf e 8 3)
      (o, s.modHomes fun h => { h with marks := insertKey (key / 4096) o h.marks })

/-- A fill of a line finds no entry it can use: the state with an entry of its full set being probed out. None where the
line has one, or its set, 16 entries of the 65,536 sets of its die, has room (R250). -/
def State.dirFull (s : State) (key : Nat) : Option State :=
  let going (k : Nat) : Bool := s.homes.hostReqs.any fun r => (r.kind == 3 || r.kind == 4) && r.addr == k
  if s.homes.dir.any (·.line == key) then
    if going key then some s else if s.homes.dir.any (fun d => d.line == key && d.bad) then some (s.rebuildDir key) else none
  else if s.homes.dir.length < 16 then none
  else
    let same := s.homes.dir.filter fun d =>
      dirDie d.line == dirDie key && Config.dirSet d.line % 65536 == Config.dirSet key % 65536
    if same.length < 16 then none
    else if same.any (going ·.line) then some s
    else
      let (k, s) := s.choose same.length
      match same[k]? with
      | none => some s
      | some v =>
        if v.bad then some (s.rebuildDir v.line) else
        let (owner, s) := s.probeOwner v.line
        let id := s.nextMsg
        let cs := (List.range 64).filter fun c => v.groups.getLsbD (groupOf c)
        let hs := (List.range 2).filter fun h => v.host.getLsbD h
        let s := cs.foldl (fun s c => s.send 0 0 0 0 (.probe c v.line none id owner)) s
        let s := hs.foldl (fun s h => s.send 0 0 0 0 (.backInv v.line h id)) s
        if cs.isEmpty && hs.isEmpty then
          some (s.modHomes fun h => { h with dir := h.dir.filter (·.line != v.line) })
        else
          some (s.modHomes fun h => { h with hostReqs := h.hostReqs ++ [{
            id, kind := 4, addr := v.line, data := [], size := 0, poisoned := false, waits := cs.length + hs.length, probed := true
            held := false }] })

/-- An entry of the directory for a key. -/
def State.dirHave (s : State) (key : Nat) : State :=
  if s.homes.dir.any (·.line == key) then s
  else s.modHomes fun h => { h with dir := h.dir ++ [⟨key, 0#16, 0#2, false⟩] }

/-- Set the directory's bit for a core that takes a copy of a line (R250). -/
def State.dirFill (s : State) (core : Nat) (key : Nat) : State :=
  (s.dirHave key).modHomes fun h => { h with
    dir := h.dir.map (fun d => if d.line == key then { d with groups := d.groups ||| (1#16 <<< groupOf core) } else d) }

/-! The halves of a line that the host holds (R246, R247). -/

/-- The host holds the half of device memory an address lies in (R246). -/
def State.hostHolds (s : State) (l : Loc) : Bool :=
  l.sp == .dev && s.homes.dir.any (fun d => d.line == l.addr / 128 * 128 && d.host.getLsbD (l.addr % 128 / 64))

/-- Send the back-invalidation snoop of a half, once (R247). -/
def State.recallHalf (s : State) (l : Loc) : State :=
  let line := l.addr / 128 * 128
  let half := l.addr % 128 / 64
  if s.msgs.any (fun m => match m.kind with
      | .backInv ln h _ => ln == line && h == half
      | _ => false) then s
  else s.send 0 0 0 0 (.backInv line half 0)

/-- What an access at a home must have done first: drains of recorded cores for a read (R241), the recall of halves the
host holds (R247), the rebuilding of a bad directory entry or record. None when nothing is left to wait for; otherwise
the state with what is needed asked for. -/
def State.homeNeeds (s : State) (l : Loc) (n : Nat) (except : Option Nat) (read : Bool) : Option State :=
  let first := l.addr / 64
  let hs := natsFrom first ((l.addr + n - 1) / 64 + 1 - first)
  let lines := dedup (hs.map (fun h => h / 2 * 128))
  let held := hs.filter (fun h => s.hostHolds ⟨l.sp, 64 * h⟩)
  let badDir := lines.filter (fun a => l.sp == .dev && s.homes.dir.any (fun d => d.line == a && d.bad))
  let badRec := lines.filter (fun a => read && l.sp == .dev && s.dev.recErrors.contains a)
  let drains := lines.filter (fun a => read && s.mustDrain ⟨l.sp, a⟩ except)
  let busy := lines.any (fun a => l.sp == .dev && (s.homes.hostReqs.any (fun r => r.probed && r.addr / 128 * 128 == a) ||
    (read && s.homes.rebuilds.contains a)))
  if held.isEmpty && badDir.isEmpty && badRec.isEmpty && drains.isEmpty && !busy then none
  else
    let s := badDir.foldl State.rebuildDir s
    let s := badRec.foldl State.rebuildRecord s
    let s := held.foldl (fun s h => s.recallHalf ⟨l.sp, 64 * h⟩) s
    some ((drains.filter (fun a => !badRec.contains a)).foldl (fun s a => s.requestDrain ⟨l.sp, a⟩ except) s)

/-- A reader that waits for drains is still there. -/
def State.reads (s : State) : Reader → Bool
  | .msg id => s.msgs.any (·.id == id)
  | .engine n => (s.engines.getD n .idle).work.isSome
  | .host id => s.homes.hostReqs.any (·.id == id)
  | .col k => s.link.out.any (·.req.key == k) || s.link.parked.any (·.1.key == k) || s.link.standing.any (·.key == k)

/-- A reader of a range waits for the drains of its lines, if it must: a release there goes after it (R243). -/
def State.awaits (s : State) (r : Reader) (l : Loc) (n : Nat) (except : Option Nat) : State :=
  let lines := (natsFrom (l.addr / 128) ((l.addr + n - 1) / 128 + 1 - l.addr / 128)).map fun k => (⟨l.sp, 128 * k⟩ : Loc)
  let new := lines.filter fun k => s.mustDrain k except && !(s.homes.waiting.contains (k, r))
  if new.isEmpty then s
  else s.modHomes fun h => { h with waiting := h.waiting.filter (s.reads ·.2) ++ new.map (·, r) }

/-- The reader waits no more. (DEDUCED: log 156.) -/
def State.hasRead (s : State) (r : Reader) : State := s.modHomes fun h => { h with waiting := h.waiting.filter (·.2 != r) }

/-! Memory errors (R14, R19, R256). -/

/-- The owner of a granule as its bias-table entry gives it (R368). -/
def State.ownerOf (s : State) (addr : Nat) : Nat := bitsOf (s.pnat (s.dev.biastab + 2 * (addr / 4096)) 2) 8 3

/-- The record of an error report of class 9 (R432): source, die, unit; address; detail. (PRESUMED: log 37; DEDUCED:
log 129.) -/
def errorRec (source die unit addr detail : Nat) : EvRec :=
  ⟨0, 9, 2, 0xFFFFFFFF, source + 256 * die + 65536 * unit, addr, detail⟩

/-- The sector is in the shared cache. -/
def State.sharedHas (s : State) (sector : Nat) : Bool :=
  s.homes.shared.any fun x => x.line == sector / 4 * 128 && x.sectors.getLsbD (sector % 4)

/-- The memory errors a read of device memory meets (R256): a single-bit error is corrected and counted, an
uncorrectable one poisons its sector and is reported, by the die that has the line's stack (R14, R19): its record
waits to be written. A sector in the shared cache is not read in HBM4. -/
def State.meetErrors (s : State) (l : Loc) (n : Nat) : State :=
  if l.sp != .dev then s
  else
    let hit := s.dev.hbmErrors.filter (fun e => l.addr / 32 ≤ e.1 && e.1 ≤ (l.addr + n - 1) / 32 && !s.sharedHas e.1)
    hit.foldl (fun s e =>
      let s := s.modDev fun d => { d with hbmErrors := d.hbmErrors.filter (· != e) }
      let stack := Config.stack (32 * e.1 / 128 * 128) % 8
      let die := stack / 4
      if e.2 then s.count die 2
      else
        let s : State := { s with mem := s.mem.setPoison e.1 true }
        (s.count die 3).modDev fun d => { d with
          evWait := d.evWait ++ [(s.ownerOf (32 * e.1), die, errorRec 0x01 die stack (32 * e.1) 0)] }) s

/-- Sectors are written whole in HBM4: an error in one of them is gone unmet (R256). -/
def State.coverErrors (s : State) (p : Nat → Bool) : State :=
  if s.dev.hbmErrors.isEmpty then s else s.modDev fun d => { d with hbmErrors := d.hbmErrors.filter fun e => !p e.1 }

/-- What a write of n bytes does to the errors of its sectors: one written in part is read to be merged, one written whole
is not (R256). (DEDUCED: log 48.) -/
def State.mergeErrors (s : State) (l : Loc) (n : Nat) : State :=
  if l.sp != .dev || s.dev.hbmErrors.isEmpty || n = 0 then s
  else
    let first := l.addr / 32
    (natsFrom first ((l.addr + n - 1) / 32 + 1 - first)).foldl (fun s k =>
      if l.addr ≤ 32 * k && 32 * (k + 1) ≤ l.addr + n then s.coverErrors (· == k) else s.meetErrors ⟨.dev, 32 * k⟩ 32) s

/-! The device's own fields in memory (R83, R86, R105, R368). -/

/-- A field is written at its home, merged with its sector. -/
def State.landNat (s : State) (a n v : Nat) : State :=
  let s := s.mergeErrors ⟨.dev, a⟩ n
  { s with mem := s.mem.setNat a n v }

/-- A device write of a field in local physical memory: where the host holds the half, the half is recalled and the
write waits for that (R247); the fields of one half are written in order. (DEDUCED: log 159.) -/
def State.setPnat (s : State) (a n v : Nat) : State :=
  if s.hostHolds ⟨.dev, a⟩ || s.homes.posted.any (fun p => p.1 / 64 == a / 64) then
    (s.recallHalf ⟨.dev, a⟩).modHomes fun h => { h with posted := h.posted ++ [(a, n, v)] }
  else s.landNat a n v

/-- The fields that wait for a half that the host has given up are written. (DEDUCED: log 159.) -/
def State.landPosted (s : State) : State :=
  let free (s : State) (p : Nat × Nat × Nat) : Bool := !(s.hostHolds ⟨.dev, p.1⟩)
  let now := s.homes.posted.filter (free s)
  if now.isEmpty then s
  else
    let t := s.modHomes fun h => { h with posted := h.posted.filter (!free s ·) }
    now.foldl (fun s p => s.landNat p.1 p.2.1 p.2.2) t

def CtxState.code : CtxState → Nat
  | .free => 0
  | .created => 1
  | .ready => 2
  | .resident => 3
  | .partialSt => 4
  | .suspended => 5
  | .stalled => 6
  | .faulted => 7
  | .draining => 8
  | .destroyed => 9

/-- Whether the context exists and is not being destroyed. -/
def CtxState.alive : CtxState → Bool
  | .free | .draining | .destroyed => false
  | _ => true

/-! The contexts table (R83). -/

def State.entryAddr (s : State) (c : Nat) : Nat := s.dev.ctxtab + 256 * c
/-- A field of a context's entry as it stands in memory. (DEDUCED: log 36.) -/
def State.entry (s : State) (c off n : Nat) : Nat := s.pnat (s.entryAddr c + off) n
def State.setEntry (s : State) (c off n v : Nat) : State := s.setPnat (s.entryAddr c + off) n v
/-- WAITCLK starts again from 0, as its entry shows (R83, R93). -/
def State.resetWait (s : State) (c : Nat) : State :=
  if (s.ctx c).waitclk = 0 then s else (s.modCtx c fun k => { k with waitclk := 0 }).setEntry c 0x60 8 0
/-- The device writes the header and the wave records of a context's save area, in a form of its own, and zeros in what is
reserved between them (R6, R86). (DESIGN CHOICE: log 108.) -/
def State.writeSave (s : State) (c : Nat) : State :=
  let k := s.ctx c
  let top := max (k.savebase + 0x90000) (k.savebase + k.savesize)
  let whole (n : Nat) : Bool :=
    let a := 32 * n
    decide (k.savebase ≤ a ∧ a < k.savebase + 0x10000 ∨ k.savebase + 0x90000 ≤ a ∧ a < top)
  let s := s.coverErrors whole
  { s with
    mem := ((s.mem.veil k.savebase (k.savebase + 0x1000) (some s.free)).veil (k.savebase + 0x1000) (k.savebase + 0x10000) none).veil
      (k.savebase + 0x90000) top (some (s.free + 1))
    free := s.free + 2 }
/-- A scheduling decision reads PRIO in the entries of the contexts it is about (R84): whether it can be made, or
waits for drains or a recall (R241, R247); an error of the memory is met (R256). -/
def State.tableRead (s : State) (cs : List Nat) : Bool × State :=
  let cs := cs.filter fun c => (s.ctxs.getD c .free).st.alive
  match cs.findSome? fun c => s.homeNeeds ⟨.dev, s.entryAddr c⟩ 8 none true with
  | some s => (false, s)
  | none => (true, cs.foldl (fun s c => s.meetErrors ⟨.dev, s.entryAddr c⟩ 8) s)

/-- A scheduling decision over every context. -/
def State.deciding (s : State) (k : State → State) : State :=
  match s.tableRead (List.range 64) with
  | (true, s) => k s
  | (false, s) => s
/-- PRIO, read at each scheduling decision (R84), modulo 8. (DESIGN CHOICE: log 168.) -/
def State.prio (s : State) (c : Nat) : Nat := s.entry c 0x04 1 % 8

/-- Move a context to a state, which its entry shows (R83, R87). -/
def State.setCtxState (s : State) (c : Nat) (st : CtxState) : State :=
  (s.modCtx c (fun x => { x with st })).setEntry c 0x00 4 st.code

/-! Traps: claim classes and codes (R98). -/

def Cause.code : Cause → Nat
  | .illegal => 0x01
  | .privilege => 0x02
  | .operand => 0x03
  | .align => 0x04
  | .address => 0x05
  | .fetchPage => 0x06
  | .dataPage => 0x07
  | .protection => 0x08
  | .matrixFormat => 0x09
  | .arith => 0x0A
  | .poison => 0x0B
  | .remoteIndeterminate => 0x0C
  | .streamExhausted => 0x0D
  | .countOverflow => 0x0E
  | .software => 0x0F
  | .brk => 0x10
  | .window => 0x11
  | .group => 0x12
  | .remoteDenied => 0x13
  | .waitBudget => 0x14

/-- The cause of a code. A code that solo code has written to sys.pend and that is none of a cause is taken as ILLEGAL.
(DESIGN CHOICE: log 149.) -/
def Cause.ofCode (n : Nat) : Cause :=
  ([.illegal, .privilege, .operand, .align, .address, .fetchPage, .dataPage, .protection, .matrixFormat, .arith, .poison,
    .remoteIndeterminate, .streamExhausted, .countOverflow, .software, .brk, .window, .group, .remoteDenied,
    .waitBudget].find? (fun c => c.code == n)).getD .illegal

def Cause.claimClass : Cause → Nat
  | .illegal | .privilege | .operand | .window => 0
  | .align | .address | .protection => 1
  | .fetchPage | .dataPage => 2
  | .matrixFormat | .arith | .countOverflow | .group => 3
  | .poison => 4
  | .remoteIndeterminate | .streamExhausted | .remoteDenied => 5
  | .software | .brk => 6
  | .waitBudget => 7

/-! Event records (R104, R105). -/

/-- The claim bits of a class in the claim word in force: device, host (R84, R104). (DEDUCED: log 20, 132.) -/
def State.claims (s : State) (ctx cls : Nat) : Bool × Bool :=
  let c := (s.ctx ctx).claim
  (c.testBit (2 * cls), c.testBit (2 * cls + 1))

/-- Send an MSI-X vector (R105, R128). -/
def State.sendMsix (s : State) (ctx : Nat) : State :=
  s.modDev fun d => { d with msix := d.msix ++ [(s.ctx ctx).msix] }

/-- Write one record to a ring (R105): EVTAIL is read, an overwrite counted, EVHEAD advanced. Gives the address.
(DEDUCED: log 35, 36.) -/
def State.writeRecord (s : State) (ring : Nat) (r : EvRec) : Nat × State :=
  let c := s.ctx ring
  let s := s.meetErrors ⟨.dev, s.entryAddr ring + 0x70⟩ 8
  let tail := min (s.entry ring 0x70 8) c.evhead
  let lost := if c.evcount ≠ 0 ∧ c.evhead - tail ≥ c.evcount then c.overwrites + 1 else 0
  let a := c.evbase + 32 * (c.evhead % c.evcount)
  let bytes := leBytes 1 r.cause ++ leBytes 1 r.cls ++ leBytes 1 r.flags ++ leBytes 1 (min lost 255) ++
    leBytes 4 r.wave ++ leBytes 8 r.ipc ++ leBytes 8 r.faddr ++ leBytes 8 r.elanes
  let s := s.mergeErrors ⟨.dev, a⟩ 32
  let s : State := { s with mem := s.mem.store a (pbytes false bytes) }
  let s := s.modCtx ring fun c => { c with evhead := c.evhead + 1, overwrites := lost }
  let s := s.modDev fun d => { d with recTags := eraseKey a d.recTags }
  (a, s.setEntry ring 0x68 8 (c.evhead + 1))

/-- A record for a context: written to its ring, or redirected to context 0's when the context is Free (R105); in
Draining and Destroyed the forwarded bit is set and nothing else changes (R88). Every record of context 0's ring goes
to the service wave of the die that raised it and raises context 0's MSI-X (R102). Answers the address and the ring. -/
def State.record (s : State) (ctx die : Nat) (r : EvRec) : Nat × State :=
  let st := (s.ctx ctx).st
  if ctx = 0 ∨ st = .free then
    let r := if ctx = 0 then r else { r with flags := r.flags ||| 8, wave := ctx }
    if (s.ctx 0).evcount = 0 then (0, s.sendMsix 0)
    else
    let (a, s) := s.writeRecord 0 r
    (a, (s.modDev fun d => { d with eventQ := updAt die (· ++ [(a, ctx)]) d.eventQ }).sendMsix 0)
  else if st = .draining ∨ st = .destroyed then
    let (a, s) := s.writeRecord ctx { r with flags := r.flags ||| 1 }
    (a, s)
  else s.writeRecord ctx r

/-- The context enters Faulted, from a state of R88's row; context 0 never does (R102). (DEDUCED: log 106.) -/
def State.ctxFault (s : State) (ctx : Nat) : State :=
  if ctx = 0 then s
  else match (s.ctx ctx).st with
  | .created | .ready | .resident | .partialSt | .suspended | .stalled => s.setCtxState ctx .faulted
  | _ => s

/-- An event with no wave: record, then its claim (R104). A device claim sends it to the die's service wave. -/
def State.eventAt (s : State) (ctx die : Nat) (r : EvRec) : Nat × State :=
  let direct := ctx ≠ 0 ∧ (s.ctx ctx).st.alive
  let (a, s) := s.record ctx die r
  (a, if direct then
    match s.claims ctx r.cls with
    | (true, _) => s.modDev fun d => { d with eventQ := updAt die (· ++ [(a, ctx)]) d.eventQ }
    | (false, true) => s.sendMsix ctx
    | (false, false) => s.ctxFault ctx
  else s)
/-- What the recording of an event of a context must wait for: EVTAIL is read at its home, and the record and EVHEAD
are written there (R105, R241, R247). -/
def State.evNeeds (s : State) (c : Nat) : Option State :=
  let ring := if c = 0 ∨ (s.ctx c).st = .free then 0 else c
  let k := s.ctx ring
  match s.homeNeeds ⟨.dev, s.entryAddr ring⟩ 128 none true with
  | some s => some s
  | none => if k.evcount = 0 then none else s.homeNeeds ⟨.dev, k.evbase + 32 * (k.evhead % k.evcount)⟩ 32 none false

/-- Record the events that wait, in their order, as far as they go. -/
def State.flushEvents (s : State) : Nat → State
  | 0 => s
  | fuel + 1 =>
    match s.dev.evWait with
    | [] => s
    | (c, die, r) :: rest => match s.evNeeds c with
      | some s => s
      | none => ((s.modDev fun d => { d with evWait := rest }).eventAt c die r).2.flushEvents fuel

/-- An event with no wave: recorded now, or behind those that wait. (DESIGN CHOICE: log 146; DEDUCED: log 159.) -/
def State.event (s : State) (ctx die : Nat) (r : EvRec) : State :=
  (s.modDev fun d => { d with evWait := d.evWait ++ [(ctx, die, r)] }).flushEvents (s.dev.evWait.length + 1)

/-- A service notice of class 8 (R117): reason in [7:0] of +16, the detail above, the address at +8. It belongs to no
wave: die 0 records it, and its service quadrant dispatches it. (DESIGN CHOICE: log 146.) -/
def State.notice (s : State) (ctx reason addr detail : Nat) : State :=
  s.event ctx 0 ⟨0, 8, 2, 0xFFFFFFFF, addr, reason + 256 * detail, 0⟩

/-- An error report of class 9 (R432): its ring is that of the granule's OWNER, or context 0's.
(PRESUMED: log 37; DEDUCED: log 129.) -/
def State.report (s : State) (source die unit addr detail : Nat) (byOwner : Bool) : State :=
  s.event (if byOwner then s.ownerOf addr else 0) die (errorRec source die unit addr detail)

/-! The shared cache (R18, R232). -/

/-- The slice that is a place's home: the hashed one of a line, the named member's for scratch (R18, R233, R367). -/
def State.sliceOf (s : State) (l : Loc) : Nat := match l.sp with
  | .dev => Config.homeSlice l.addr
  | .host => Config.hostSlice l.addr
  | .scratch b => (s.block? b).elim 0 (·.core)

/-- The lines a slice's shared cache holds: 6 MiB less the SCRATCH of the context that holds scratch on it (R18, R123).
(DESIGN CHOICE: log 134.) -/
def State.sharedRoom (s : State) (slice : Nat) : Nat :=
  let mib := match s.blocks.find? fun b => b.live && !b.emptied && b.core == slice && b.scratchSize != 0 with
    | some b => (s.ctx b.ctx).scratch
    | none => 0
  (6 - mib) * 8192

/-- A line leaves the shared cache: its dirty sectors are written to HBM4. -/
def State.sharedDrop (s : State) (line : Nat) : State :=
  let d := (s.homes.shared.find? (·.line == line)).elim 0#4 (·.dirty)
  (s.coverErrors fun k => k / 4 * 128 == line && d.getLsbD (k % 4)).modHomes fun h =>
    { h with shared := h.shared.filter (·.line != line) }

/-- One of some lines leaves the shared cache, a free choice of those of the lowest retention (R232).
(DESIGN CHOICE: log 134.) -/
def State.sharedEvict (s : State) (among : List SharedLine) : State :=
  let low := among.filter fun x => among.all fun y => decide (x.ret ≤ y.ret)
  if low.isEmpty then s
  else
    let (k, s) := s.choose low.length
    (low[k]?).elim s fun v => s.sharedDrop v.line

/-- A sector is allocated in the shared cache of its home slice (R232). Whether its set is full is a free choice, but
where the slice is. The line takes the retention of the access. (DESIGN CHOICE: log 134.) -/
def State.sharedTake (s : State) (l : Loc) (ret : Nat) (write : Bool) : State :=
  if l.sp != .dev then s
  else
    let line := l.addr / 128 * 128
    let bit : BitVec 4 := 1#4 <<< (l.addr % 128 / 32)
    let mark (x : SharedLine) : SharedLine :=
      { x with sectors := x.sectors ||| bit, dirty := if write then x.dirty ||| bit else x.dirty, ret }
    if s.homes.shared.any (·.line == line) then
      s.modHomes fun h => { h with shared := h.shared.map fun x => if x.line == line then mark x else x }
    else
      let slice := s.sliceOf l
      let here := s.homes.shared.filter fun x => s.sliceOf ⟨.dev, x.line⟩ == slice
      let set := here.filter fun x => Config.sharedSet x.line == Config.sharedSet line
      let full := decide (s.sharedRoom slice ≤ here.length)
      let s := if here.isEmpty then s
        else if full then s.sharedEvict (if set.isEmpty then here else set)
        else if set.isEmpty then s
        else match s.choose 2 with
          | (0, s) => s
          | (_, s) => s.sharedEvict set
      s.modHomes fun h => { h with shared := h.shared ++ [mark ⟨line, 0#4, 0#4, ret⟩] }

/-- A context comes to hold scratch on a slice: the lines that its SCRATCH no longer leaves room for are written back and
dropped, a free choice of them (R233). -/
def State.sharedShrink (s : State) (slice : Nat) : State :=
  let here (s : State) : List SharedLine := s.homes.shared.filter fun x => s.sliceOf ⟨.dev, x.line⟩ == slice
  (List.range ((here s).length - s.sharedRoom slice)).foldl (fun s _ => s.sharedEvict (here s)) s

/-! Translation (chapter "The page"). -/

/-- Why a translation failed: level 0 to 5, malformed, migrating, no permission (R364). -/
structure PageFault where
  cause : Cause
  level : Nat
  malformed : Bool
  migrating : Bool
  deriving DecidableEq, Repr

inductive Trans where
  | ok (l : Loc) (s : State)
  | fault (f : PageFault) (s : State)
  | stall (s : State)

/-- Field tests on an entry (R357). -/
def bitAt (e n : Nat) : Bool := e.testBit n

/-- Whether a leaf at a level is malformed: reserved bits, LEAF wrong, WR without RD, frame range and alignment
(R357). Levels: 1 for 64 KiB, 2 for 2 MiB, 3 for 1 GiB. -/
def leafMalformed (e level : Nat) : Bool :=
  let frame := bitsOf e 51 12 * 4096
  bitsOf e 63 62 != 0 || bitsOf e 11 10 != 0 || bitAt e 6 || (bitAt e 2 && !bitAt e 1) ||
    (!bitAt e 5 && frame ≥ 0x6000000000) ||
    (match level with
      | 1 => frame % 0x10000 != 0
      | 2 => frame % 0x200000 != 0
      | 3 => frame % 0x40000000 != 0
      | _ => true)

/-- Whether a non-leaf entry at a level is malformed (R357): a reserved bit, HOST, WR without RD, or a node beyond device
memory. (DEDUCED: log 157.) -/
def nodeMalformed (e level : Nat) : Bool :=
  let base := if level = 2 then bitsOf e 51 8 * 256 else bitsOf e 51 12 * 4096
  bitsOf e 63 62 != 0 || bitAt e 6 || (level != 2 && bitsOf e 11 10 != 0) || bitAt e 5 || (bitAt e 2 && !bitAt e 1) ||
    base ≥ 0x6000000000

/-- The index a level takes from the address (R356). -/
def walkIndex (va level : Nat) : Nat :=
  match level with
  | 5 => bitsOf va 56 48
  | 4 => bitsOf va 47 39
  | 3 => bitsOf va 38 30
  | 2 => bitsOf va 29 21
  | _ => bitsOf va 20 16

inductive WalkResult where
  | leaf (at_ e level : Nat)
  | absent (level : Nat)
  | malformed (level : Nat)
  | drain (a : Nat)
  deriving DecidableEq, Repr

/-- The walk from a node (R356, R358). `fuel` is the levels left. -/
def walkFrom (s : State) (va node : Nat) : Nat → WalkResult
  | 0 => .absent 1
  | level + 1 =>
    let a := node + 8 * walkIndex va (level + 1)
    if (s.homeNeeds ⟨.dev, a⟩ 8 none true).isSome then .drain a
    else
      let e := s.pnat a 8
      if !bitAt e 0 then .absent (level + 1)
      else if level + 1 ≥ 4 then
        if bitAt e 4 || nodeMalformed e (level + 1) then .malformed (level + 1)
        else walkFrom s va (bitsOf e 51 12 * 4096) level
      else if bitAt e 4 then
        if leafMalformed e (level + 1) then .malformed (level + 1) else .leaf a e (level + 1)
      else if level = 0 then .malformed 1
      else if nodeMalformed e (level + 1) then .malformed (level + 1)
      else walkFrom s va (if level + 1 = 2 then bitsOf e 51 8 * 256 else bitsOf e 51 12 * 4096) level

/-- The entries a walk reads. -/
def walkReads (s : State) (va node : Nat) : Nat → List Nat
  | 0 => []
  | level + 1 =>
    let a := node + 8 * walkIndex va (level + 1)
    let e := s.pnat a 8
    if !bitAt e 0 || bitAt e 4 || level = 0 || nodeMalformed e (level + 1) then [a]
    else a :: walkReads s va (if level + 1 = 2 then bitsOf e 51 8 * 256 else bitsOf e 51 12 * 4096) level

/-- The page size of a level's leaf. -/
def pageSize (level : Nat) : Nat :=
  match level with
  | 1 => 0x10000
  | 2 => 0x200000
  | _ => 0x40000000

def tlbLookup (l : List TlbEntry) (ctx va : Nat) : Option TlbEntry :=
  l.find? (fun e => e.ctx == ctx && e.va ≤ va && va < e.va + e.size)

/-- Insert in a TLB of a capacity; where it is full a free choice is replaced. -/
def tlbInsert (s : State) (cap : Nat) (l : List TlbEntry) (e : TlbEntry) : List TlbEntry × State :=
  if l.length < cap then (l ++ [e], s)
  else
    let (k, s) := s.choose cap
    (updAt k (fun _ => e) l, s)

/-- An atomic OR of a flag into a leaf at its home (R359). (DEDUCED: log 51.) -/
def State.orLeaf (s : State) (at_ bit : Nat) : State :=
  let b := s.mem.get (at_ + bit / 8)
  { s with mem := s.mem.set (at_ + bit / 8) (b ||| BitVec.ofNat 8 (2 ^ (bit % 8))) }

/-- What an access needs of a page (R358). -/
structure Need where
  rd : Bool
  wr : Bool
  ex : Bool
  deriving DecidableEq, Repr

def Need.read : Need := ⟨true, false, false⟩
def Need.write : Need := ⟨false, true, false⟩
def Need.both : Need := ⟨true, true, false⟩
def Need.exec : Need := ⟨false, false, true⟩

/-- The permission checks of a leaf, then Migrating (R362, R364). -/
def leafCheck (e : Nat) (n : Need) : Option PageFault :=
  if (n.rd && !bitAt e 1) || (n.wr && !bitAt e 2) || (n.ex && !bitAt e 3) then
    some ⟨if n.ex then .protection else .protection, 0, false, false⟩
  else if n.wr && bitAt e 9 then some ⟨.dataPage, 0, false, true⟩
  else none

/-- Translate a local virtual address of a context for a core, or for a die's engines and Col (R356 to R362).
(DEDUCED: log 51.) -/
def State.translate (s : State) (core : Option Nat) (die ctx va : Nat) (n : Need) : Trans :=
  let use (s : State) (e : TlbEntry) : Trans :=
    match leafCheck e.leaf.toNat n with
    | some f => .fault f s
    | none =>
      let dirty := n.wr && !bitAt e.leaf.toNat 8
      match (if dirty then s.homeNeeds ⟨.dev, e.leafAt⟩ 8 none true else none) with
      | some s => .stall s
      | none =>
      let (s, e) := if dirty then
          let e' := { e with leaf := e.leaf ||| 0x100#64 }
          let s := (s.meetErrors ⟨.dev, e.leafAt⟩ 8).orLeaf e.leafAt 8
          let fix (l : List TlbEntry) := l.map (fun x => if x == e then e' else x)
          let s := s.modHomes fun h => { h with dieTlb := h.dieTlb.map fix }
          (match core with
            | some c => s.modCore c fun k => { k with tlb := fix k.tlb }
            | none => s, e')
        else (s, e)
      let frame := bitsOf e.leaf.toNat 51 12 * 4096
      .ok ⟨if bitAt e.leaf.toNat 5 then .host else .dev, frame + (va - e.va)⟩ s
  let own := match core with
    | some c => tlbLookup (s.core c).tlb ctx va
    | none => none
  match own with
  | some e => use s e
  | none =>
    let fill (s : State) (e : TlbEntry) : State :=
      match core with
      | some c =>
        let (l, s) := tlbInsert s 256 (s.core c).tlb e
        s.modCore c fun k => { k with tlb := l }
      | none => s
    match tlbLookup (s.homes.dieTlb.getD die []) ctx va with
    | some e => use (fill s e) e
    | none =>
      let met (s : State) : State :=
        if s.dev.hbmErrors.isEmpty then s
        else (walkReads s va (s.ctx ctx).ptroot 5).foldl (fun s a => s.meetErrors ⟨.dev, a⟩ 8) s
      match walkFrom s va (s.ctx ctx).ptroot 5 with
      | .drain a => .stall ((s.homeNeeds ⟨.dev, a⟩ 8 none true).getD s)
      | .absent lv => .fault ⟨if n.ex then .fetchPage else .dataPage, lv, false, false⟩ (met s)
      | .malformed lv => .fault ⟨.protection, lv, true, false⟩ (met s)
      | .leaf at_ e lv =>
        let s := met s
        let s := if bitAt e 7 then s else s.orLeaf at_ 7
        let sz := pageSize lv
        let t : TlbEntry := ⟨ctx, va / sz * sz, sz, BitVec.ofNat 64 (e ||| 0x80), at_⟩
        let (l, s) := tlbInsert s 262144 (s.homes.dieTlb.getD die []) t
        let s := s.modHomes fun h => { h with dieTlb := updAt die (fun _ => l) h.dieTlb }
        use (fill s t) t

/-- sys.einfo of a page fault (R364): level, write, malformed, migrating, replays. (DESIGN CHOICE: log 39.) -/
def PageFault.einfo (f : PageFault) (write : Bool) (replays : Nat) : DWord :=
  BitVec.ofNat 64 (f.level + (if write then 8 else 0) + (if f.malformed then 16 else 0) +
    (if f.migrating then 32 else 0) + 256 * min replays 255)

/-! Windows and registers (R138 to R143). -/

namespace Wave

def window? (w : Wave) (id : Nat) : Option Window := w.windows.find? (·.id == id)
def modWindow (w : Wave) (id : Nat) (f : Window → Window) : Wave :=
  { w with windows := w.windows.map (fun x => if x.id == id then f x else x) }
def reg? (w : Wave) (id : Nat) : Option PhysReg := w.regs.find? (·.id == id)
def modReg (w : Wave) (id : Nat) (f : PhysReg → PhysReg) : Wave :=
  { w with regs := w.regs.map (fun x => if x.id == id then f x else x) }
def split? (w : Wave) (slot : Nat) : Option Split := w.splits.find? (·.slot == slot)
def modSplit (w : Wave) (slot : Nat) (f : Split → Split) : Wave :=
  { w with splits := w.splits.map (fun x => if x.slot == slot then f x else x) }
def op? (w : Wave) (uid : Nat) : Option Op := w.ops.find? (·.uid == uid)
def modOp (w : Wave) (uid : Nat) (f : Op → Op) : Wave :=
  { w with ops := w.ops.map (fun x => if x.uid == uid then f x else x) }

/-- The window that holds a name: v0 to v15 are the caller's in call windows (R142). -/
def ownerOf (w : Wave) (name : Nat) : Nat → Nat → Nat
  | 0, win => win
  | fuel + 1, win =>
    match w.window? win with
    | some x => if x.kind == .call && name < 16 then ownerOf w name fuel x.caller else win
    | none => win

/-- The physical register a name is mapped to. -/
def phys? (w : Wave) (win name : Nat) : Option Nat :=
  match w.window? (w.ownerOf name 64 win) with
  | some x => lookupKey name x.map
  | none => none

/-- The version an instruction of a slot reads of a mapped register (R151): inside a lookahead window of that slot whose
instruction has it as destination, the version mapped before, whether or not the instruction is complete; otherwise the
register. -/
def version (w : Wave) (slot : Nat) : Nat → Option Nat → Option Nat
  | 0, p => p
  | _, none => none
  | fuel + 1, some r =>
    match w.ahead.findSome? (fun a => if a.slot == slot then lookupKey r a.regs else none) with
    | some old => version w slot fuel old
    | none => some r

/-- The register an instruction of a split reads for a name. -/
def source (w : Wave) (sp : Split) (name : Nat) : Option Nat := w.version sp.slot 16 (w.phys? sp.win name)

/-- The value of a scalar, or block scalar as 16 + its number, that an instruction of a slot reads in place of the current
one: inside a lookahead window, the value before its instruction (R151). -/
def scalarBefore (w : Wave) (slot i : Nat) : Option Val :=
  w.ahead.findSome? fun a => if a.slot == slot then lookupKey i a.scal else none

/-- The lookahead windows a wave keeps: the current ones and those set aside with a trap or an interrupt.
(DESIGN CHOICE: log 23.) -/
def aheads (w : Wave) : List Ahead :=
  w.ahead ++ w.frozen.elim [] (·.ahead) ++ w.windows.flatMap fun v => v.saved.elim [] (·.ahead)

/-- A lane of a register; an unmapped name reads 0 (R138). -/
def laneVal (w : Wave) (p : Option Nat) (lane : Nat) : Val :=
  match p with
  | none => .zero
  | some r =>
    match w.reg? r with
    | some x => x.lanes.getD lane .zero
    | none => .zero

/-- Whether a name's version is still to be written (R151). -/
def isPending (w : Wave) (sp : Split) (name : Nat) : Bool :=
  match w.source sp name with
  | none => false
  | some r => match w.reg? r with
    | some x => x.writer != 0
    | none => false

/-- Free a physical register: deferred until the region ends, then cooling (R140). -/
def freePhys (w : Wave) (p : Option Nat) (clk : Nat) : Wave :=
  match p with
  | none => w
  | some r => w.modReg r fun x => { x with freed := some clk, deferred := true }

/-- Unmap a name, freeing its register (R139). -/
def freeName (w : Wave) (win name clk : Nat) : Wave :=
  let o := w.ownerOf name 64 win
  (w.freePhys (w.phys? win name) clk).modWindow o fun x => { x with map := eraseKey name x.map }

/-- Write a name: a new physical register is allocated and mapped, lanes not written keep the version `old` (R138), and
the register mapped before is freed. A nonzero `writer` leaves the written lanes to an in-flight instruction. -/
def writeName (w : Wave) (sp : Split) (name clk : Nat) (old : Option Nat) (writer : Nat) (f : Nat → Option Val) :
    Nat × Wave :=
  let id := w.nextReg
  let lanes := (List.range w.width).map (fun i => match f i with
    | some v => v
    | none => w.laneVal old i)
  let o := w.ownerOf name 64 sp.win
  let prev := w.phys? sp.win name
  let w := w.freePhys prev clk
  let w : Wave := { w with
    regs := w.regs ++ [⟨id, lanes, writer, none, false, false, false⟩], nextReg := id + 1 }
  (id, w.modWindow o fun x => { x with map := insertKey name id x.map })

/-- The in-flight count of a path (R152): operations of the path not yet decremented. -/
def counter (w : Wave) (p : Nat) : Nat := (w.ops.filter (fun o => o.path == some p)).length

/-- Retire what is done: a counted operation leaves when every earlier one of its path has (R152); the others leave at
once. -/
def retire (w : Wave) : Wave :=
  { w with ops := w.ops.filter (fun o =>
      !(o.done && match o.path with
        | none => true
        | some p => !(w.ops.any (fun q => q.path == some p && q.no < o.no && !q.done)))) }

end Wave

/-! Splits (R133). -/

/-- A split that begins at a clock. -/
def Split.fresh (slot : Nat) (pc : DWord) (mask : Lanes) (win clk : Nat) : Split :=
  { slot, pc, mask, win, wait := none, ready := none, raised := none, yield := none, notBefore := clk, stalled := false }

/-- A split that goes on at a clock: when it was ready before counts no more (R131). -/
def Split.renew (p : Split) (clk : Nat) : Split := { p with ready := none, raised := none, stalled := false, notBefore := clk }

/-! Checkpoints and regions (R141, R159). -/

def Tile.tag (t : Tile) : TileTag := ⟨t.format, t.scaled, t.gathered, t.count, t.lastK⟩
def Tile.setTag (t : Tile) (g : TileTag) : Tile :=
  { t with format := g.format, scaled := g.scaled, gathered := g.gathered, count := g.count, lastK := g.lastK }

/-- The words of an accumulator row (R210). -/
def Acc.words (a : Acc) (row : Nat) : List Word :=
  (List.range 128).map (fun j => BitVec.ofNat 32 (a.data.nat (512 * row + 4 * j) 4))

/-- An accumulator row's poison bit: that of its first sector (R211). -/
def Acc.rowPoison (a : Acc) (row : Nat) : Bool := a.data.poison.contains (16 * row)

/-- Set a whole accumulator row, its poison bit and the accumulator's kind. -/
def Acc.setRow (a : Acc) (row : Nat) (words : List Word) (poison i32 : Bool) : Acc :=
  let m := (words.zipIdx).foldl (fun m (x, j) => m.setNat (512 * row + 4 * j) 4 x.toNat) a.data
  { data := m.setPoison (16 * row) poison, i32 }

/-- A lookahead window reads the register as the version before. -/
def Ahead.names (a : Ahead) (r : Nat) : Bool := a.regs.any (·.2 == some r)

/-- The checkpoint names a physical register: in a rename map or in a lookahead window. (DESIGN CHOICE: log 23.) -/
def Checkpoint.names (c : Checkpoint) (r : Nat) : Bool :=
  c.windows.any (fun v => v.map.any (·.2 == r) || v.saved.any (fun k => k.ahead.any (·.names r))) ||
    c.ahead.any (·.names r) || c.frozen.any (fun f => f.ahead.any (·.names r))

namespace Wave

/-- Take a checkpoint (R141). -/
def checkpoint (w : Wave) (clk : Nat) (entry : Bool) : Wave :=
  { w with
    ckpts := w.ckpts ++ [{
      id := w.nextCk, clk, no := w.issueNo, entry, opens := entry, region := w.regionNo, spend := w.spend, splits := w.splits, parked := w.parked, live := w.live,
      windows := w.windows, sregs := w.sregs, preds := w.preds, modes := w.modes, seq := w.seq, took := w.took,
      tags := w.tiles.map Tile.tag, laneUndo := [], accUndo := [], frozen := w.frozen, sys := w.sys,
      solo := w.st == .solo, fence := w.fence, ahead := w.ahead, bphase := w.bphase }]
    nextCk := w.nextCk + 1, sinceCk := if entry then w.sinceCk else w.sinceCk - 64 }

/-- End the current region and begin a new one: deferred frees start cooling, but of registers still to be written,
and the entry checkpoint is taken; that of the region that ends is an ordinary one from now on (R140, R141, R159). -/
def newRegion (w : Wave) (clk : Nat) : Wave :=
  let w : Wave := { w with
    regs := w.regs.map (fun r => if r.deferred && r.writer == 0 then { r with deferred := false, freed := some clk } else r)
    ckpts := w.ckpts.map (fun c => { c with entry := false })
    regionNo := w.regionNo + 1 }
  w.checkpoint clk true

/-- The entry checkpoint of the current region. -/
def regionEntry (w : Wave) : Option Checkpoint := w.ckpts.find? (·.entry)

/-- The pre-image of an accumulator row in the newest checkpoint, before the first write after it (R212). -/
def preImage (w : Wave) (a row : Nat) : Wave :=
  match w.ckpts.getLast?, w.accs[a]? with
  | some k, some x =>
    if k.accUndo.any (fun u => u.acc == a && u.row == row) then w
    else { w with ckpts := w.ckpts.dropLast ++
      [{ k with accUndo := k.accUndo ++ [⟨a, row, x.words row, x.rowPoison row, x.i32⟩] }] }
  | _, _ => w

/-- Write an accumulator row, its pre-image taken (R212), and keep what was written for a rollback (R422). -/
def writeAccRow (w : Wave) (no a row : Nat) (words : List Word) (poison i32 : Bool) : Wave :=
  let w := w.preImage a row
  let ck := w.ckpts.getLast?.elim 0 (·.id)
  { w with
    accs := updAt a (fun x => x.setRow row words poison i32) w.accs, redo := w.redo ++ [⟨no, ck, a, row, words, poison, i32⟩] }

/-- Undo lane-array and accumulator writes made after checkpoint k: the undo entries of every checkpoint from the newest
down to k, the latest pre-image first (R148, R212). -/
def undoFrom (w : Wave) (k : Checkpoint) : Wave :=
  (w.ckpts.filter (fun c => k.no ≤ c.no && k.id ≤ c.id)).reverse.foldl (fun w c =>
    let w := c.laneUndo.foldl (fun w u =>
      let old := (lookupKey u.word w.lanearr).getD (List.replicate w.width .zero)
      { w with lanearr := insertKey u.word (updAt u.lane (fun _ => u.val) old) w.lanearr }) w
    c.accUndo.reverse.foldl (fun w u =>
      { w with accs := updAt u.acc (fun a => a.setRow u.row u.words u.poison u.i32) w.accs }) w) w

/-- The writes of array operations issued before checkpoint k and completed after it are performed again, in issue order
(R422): each gives the row it gave. (DEDUCED: log 41.) -/
def redoFrom (w : Wave) (k : Checkpoint) : Wave :=
  let again := w.redo.filter (fun r => r.no ≤ k.no && k.id ≤ r.ck)
  again.foldl (fun w r => w.writeAccRow r.no r.acc r.row r.words r.poison r.i32)
    { w with redo := w.redo.filter (fun r => r.ck < k.id) }

/-- Restore a checkpoint's registers: splits, windows, scalars, predicates, modes, sequence, tile tags, lane arrays,
accumulators (R141). Later checkpoints are dropped; registers allocated after it return at once unless an earlier
instruction will still write them (R420 step 3). Its region is the current one again: where the entry of that is
discarded, the checkpoint is taken as the entry. Registers it names that are spilled are to be refilled first (R145).
(DEDUCED: log 40.) -/
def restore (w : Wave) (k : Checkpoint) (clk : Nat) : Wave :=
  let w := w.undoFrom k
  let named (r : Nat) : Bool := k.names r || w.ckpts.any (fun c => c.id ≤ k.id && c.names r)
  let kept := w.ckpts.filter (fun c => c.id ≤ k.id)
  let first := ((kept.filter fun c => c.opens && c.region == k.region).getLast?).elim k.id (·.id)
  let undo (r : PhysReg) : Bool := r.undo && kept.any fun c => c.id != k.id && c.laneUndo.any (·.reg == r.id)
  let w : Wave := { w with
    regionNo := k.region,
    spend := k.spend.filter (fun p => w.ops.any fun o => o.uid == p.2 && !o.done && decide (o.no ≤ k.no)),
    splits := k.splits.map (·.renew clk), parked := k.parked, live := k.live,
    refill := k.windows.any (fun x => x.map.any (fun p => w.regs.any (fun r => r.id == p.2 && r.spilled))),
    windows := k.windows.map (fun x => { x with
      spilled := x.map.any (fun p => w.regs.any (fun r => r.id == p.2 && r.spilled)) }), sregs := k.sregs,
    preds := k.preds, modes := k.modes, seq := k.seq, took := k.took, tiles := (w.tiles.zip k.tags).map (fun (t, g) => t.setTag g),
    ckpts := (kept.map (fun c => { c with entry := c.id == first })).map (fun c =>
      if c.id = k.id then { c with laneUndo := [], accUndo := [] } else c)
    frozen := k.frozen, sys := { k.sys with event := w.sys.event }, st := if k.solo then .solo else .resident,
    fence := k.fence, ahead := k.ahead, bphase := k.bphase,
    regs := (w.regs.filter (fun r => named r.id || undo r || r.writer != 0 || r.freed.isSome)).map (fun r =>
      if undo r then r
      else if named r.id && k.windows.any (fun x => x.map.any (·.2 == r.id)) then { r with freed := none, deferred := false }
      else if named r.id then r else { r with freed := some (clk - 128), deferred := false }) }
  w.redoFrom k

/-- Discard what was issued after an issue number: held effects, but those whose hold has ended by a clock (R421),
in-flight instructions, array work (R365, R420). -/
def discardAfter (w : Wave) (no out : Nat) : Wave :=
  let unread (uid : Nat) : Bool := w.ops.any fun o => o.uid == uid && !o.done && (match o.kind with
    | .accst _ _ _ => true
    | _ => false)
  ({ w with
    held := w.held.filter (fun h => h.no ≤ no || (h.clk + 128 ≤ out && !unread h.uid))
    due := w.due.filter (fun d => d.no ≤ no)
    pended := w.pended.filter (fun d => d.no ≤ no)
    ops := w.ops.map (fun o => if o.no ≤ no then o else { o with done := true })
    regs := w.regs.map (fun r =>
      if w.ops.any (fun o => o.uid == r.writer && no < o.no) then { r with writer := 0 } else r)
    spend := w.spend.filter (fun p => w.ops.any (fun o => o.uid == p.2 && o.no ≤ no)) } : Wave).retire

end Wave

/-- A permit.rel takes effect at the first clock at which the array is idle and the queue empty (R229). -/
def Quad.tryRelease (q : Quad) : Quad := if q.release && q.array.isEmpty then { q with permit := .none, release := false } else q

/-- Give up a wave's array work issued after a number. Where the array had started some of it, its clocks of idleness
begin now; what a permit.rel waits for may have come (R228, R229). -/
def Quad.giveUp (q : Quad) (wave no clk : Nat) : Quad :=
  let gone (a : ArrayOp) : Bool := a.wave == wave && decide (no < a.no)
  let permit := match q.permit with
    | .held c => .held (if q.array.any fun a => gone a && a.started.isSome then clk else c)
    | p => p
  ({ q with array := q.array.filter (!gone ·), permit } : Quad).tryRelease

/-- Drop the loads of a wave's instructions issued after a number and its array work: a released effect is not
recalled (R365, R419, R420). -/
def State.discardMsgs (s : State) (w : Wave) (no : Nat) : State :=
  let loads (m : Msg) : Bool := match m.kind with
    | .read _ _ _ _ | .reply _ _ _ _ => true
    | _ => false
  let s : State := { s with msgs := s.msgs.filter (fun m => !(m.wave == w.id && m.uid != 0 && no < m.no && loads m)) }
  let s := s.modHomes fun h => { h with waiting := h.waiting.filter (s.reads ·.2) }
  let gone := s.link.out.filter (fun o => o.wave == w.id && o.req.kind == .load && w.ops.any fun p => p.uid == o.uid && decide (no < p.no))
  let s := s.modLink fun l => { l with
    out := l.out.filter (fun o => !(gone.contains o))
    replies := l.replies.filter (fun r => !(gone.any (fun o => o.req.key == r.1)))
    landing := l.landing.filter (fun r => !(gone.any (fun o => o.req.key == r.1.key))) }
  s.modQuad (4 * w.core + w.quad) fun q => { q.giveUp w.id no s.clk with
    unit := q.unit.filter fun e => !(e.1 == w.id && (w.op? e.2).all fun o => decide (no < o.no))
    latch := match q.latch with
      | some l => if l.wave == w.id then none else q.latch
      | none => none }

/-! Launch packets (R108). -/

def Launch.field (l : Launch) (off n : Nat) : Nat := leNat ((l.packet.drop off).take n)
def Launch.comm (l : Launch) : Bool := (l.field 0 4).testBit 0
def Launch.width (l : Launch) : Nat := 16 * 2 ^ (bitsOf (l.field 0 4) 5 4)
def Launch.blockCount (l : Launch) : Nat := l.field 0x10 4 * l.field 0x14 2 * l.field 0x16 2
def Launch.waves (l : Launch) : Nat := l.field 0x18 1
def Launch.gang (l : Launch) : Nat := l.field 0x19 1
def Launch.relimit (l : Launch) : Nat := l.field 0x1A 1
def Launch.handler (l : Launch) : Nat := l.field 0x04 4
def Launch.decl (l : Launch) : Decl :=
  { regfloor := l.field 0x1C 2, lanearray := l.field 0x1E 2, tiles := l.field 0x1B 1, accs := l.field 0x24 1,
    scratch := l.field 0x20 4, gang := l.gang, comm := l.comm }
def Launch.final (l : Launch) : Bool := l.st == .complete || l.st == .killed

/-! Where a context stands (R87, R88). -/

/-- A block of the context is resident on the core: one of its waves is there, or holds effects that are still to leave
there (R245, R251). -/
def State.residentOn (s : State) (c core : Nat) : Bool :=
  s.waves.any fun w => w.ctx == c && w.core == core && ((w.onCore && w.st != .ended) || !w.held.isEmpty)

/-- Where a context's last block has left a core, its frames there are written back and invalidated (R236, R245). -/
def State.leaveCores (s : State) (c : Nat) : State :=
  (List.range 64).foldl (fun s k =>
    if (s.core k).frames.any (·.ctx == c) && !s.residentOn c k then
      (s.writebackWhere k (·.ctx == c) (0, 0)).dropFrames k (·.ctx == c)
    else s) s

/-- The live waves of a context. -/
def State.liveWaves (s : State) (c : Nat) : List Wave := s.waves.filter fun w => w.ctx == c && w.st != .ended && !w.service

/-- The scheduler places a context, or restores a wave of it: Ready becomes Resident where every live wave is on a
core and else Partial; Partial becomes Resident with its last saved wave (R88). (DEDUCED: log 140.) -/
def State.ctxPlaced (s : State) (c : Nat) : State :=
  let all := (s.liveWaves c).all fun w => w.onCore && w.st != .reserved
  match (s.ctx c).st with
  | .ready => s.setCtxState c (if all then .resident else .partialSt)
  | .partialSt => if all then s.setCtxState c .resident else s
  | _ => s

/-- A wave of the context has been evicted alone: Resident becomes Partial (R88). -/
def State.ctxEvicted (s : State) (c : Nat) : State := if (s.ctx c).st = .resident then s.setCtxState c .partialSt else s

/-- Launches of the context are admitted, or queued. -/
def State.launchesLeft (s : State) (c : Nat) : Bool :=
  s.sched.launches.any (fun l => l.ctx == c && !(l.st == .complete || l.st == .killed)) ||
    (s.ctx c).lqs.any fun q => q.st == .running || q.st == .waiting || q.st == .blocked

/-- The last wave has exited and no launch is admitted or queued: Resident or Partial becomes Created (R88).
(DEDUCED: log 111.) -/
def State.ctxOver (s : State) (c : Nat) : State :=
  match (s.ctx c).st with
  | .resident | .partialSt => if (s.liveWaves c).isEmpty && !s.launchesLeft c then s.setCtxState c .created else s
  | _ => s

/-! Ending and killing waves and gangs (R90, R125). -/

/-- Release the registers, pool floor and array work of a wave that goes away; its held effects stay until their hold
ends (R125 step 2), and a vector it was handling is Pending again (R417). (DEDUCED: log 102.) -/
def State.killWave (s : State) (id : Nat) : State :=
  match s.wave? id with
  | none => s
  | some w =>
    let s := (s.discardMsgs w w.issueNo).modCore w.core fun c => { c with idleAt := s.clk }
    let s := if w.windows.any (·.kind == .handler) then s.modCtx w.ctx fun c => { c with active := none } else s
    s.putWave { w with
      st := .ended, onCore := false, stopping := false, killed := true, splits := [], parked := [], ops := [], due := [], pended := [], ckpts := [], regs := [], ahead := [], frozen := none,
      spend := [] }

/-- What a gang that a launch does not have reads as. -/
def Gang.gone : Gang := ⟨.done, 0, 0, [], true⟩
def Launch.gangAt (l : Launch) (g : Nat) : Gang := l.gangs.getD g .gone
def State.modGang (s : State) (c t g : Nat) (f : Gang → Gang) : State :=
  s.modLaunch c t fun l => { l with gangs := updAt g f l.gangs }

/-- The gang's waves. -/
def State.gangWaves (s : State) (ctx tag gang : Nat) : List Wave :=
  s.waves.filter (fun w => w.ctx == ctx && w.tag == tag && w.gang == gang && !w.service)

/-- Every rank of every run (R373, R374). -/
def State.everyRank (s : State) : List Nat :=
  let f (b : List Byte) (off n : Nat) : Nat := leNat ((b.drop off).take n)
  let config := (lookupKey 0x10100 s.link.slots).getD []
  dedup ((s.link.slots.filter fun e => decide (e.1 < f config 8 4)).flatMap fun e =>
    if f e.2 21 1 = 1 ∨ f e.2 21 1 = 2 then
      (natsFrom (f e.2 0 4 % 2 ^ 17) (f e.2 4 4)).filter (fun x => decide (x < f config 4 4))
    else [])

/-- The launch's streams are retired (R387). -/
def Launch.retired (l : Launch) : Bool := l.gangs.all (·.retired)

/-- Retirement notices for a gang's streams (R387), once: to every rank that the launch has reached, beyond 1,024 of
them at one Col to every rank of every run, or at once where none was. (DEDUCED: log 82.) -/
def State.noticeGang (s : State) (ctx tag g : Nat) : State :=
  match s.launch? ctx tag with
  | none => s
  | some l =>
    let reached := dedup l.reached.flatten
    let to_ := if l.reached.any (1024 < ·.length) then dedup (s.everyRank ++ reached) else reached
    if (l.gangAt g).retired || !(l.gangAt g).acks.isEmpty then s
    else s.modGang ctx tag g fun x => { x with acks := to_, retired := to_.isEmpty }

/-- Retirement notices for every stream of a launch not yet retired (R387). -/
def State.retireLaunch (s : State) (ctx tag : Nat) : State :=
  match s.launch? ctx tag with
  | none => s
  | some l => (List.range l.gangs.length).foldl (fun s g => s.noticeGang ctx tag g) s

/-- The gang whose streams a serial belongs to, and its first and last grid wave index (R382, R387). -/
def Launch.gangOf (l : Launch) (serial : DWord) : Nat × Nat × Nat :=
  let n := max 1 (l.gang * l.waves)
  let g := bitsOf serial.toNat 45 24 / n
  (g, g * n, g * n + n - 1)

/-- A rank has acknowledged a gang's retirement notice, or will not (R387). (DEDUCED: log 82.) -/
def State.gangAck (s : State) (serial : DWord) (rank : Nat) : State :=
  let v := serial.toNat
  let one (g : Gang) : Gang :=
    let acks := g.acks.filter (· != rank)
    if g.acks.contains rank then { g with acks, retired := acks.isEmpty } else g
  s.modLaunch (bitsOf v 63 58) (bitsOf v 57 46) fun l => { l with gangs := updAt (l.gangOf serial).1 one l.gangs }

/-- The PARENT of a child of a gang at a relaunch count (R109). -/
def parentWord (ctx relaunch gang tag : Nat) : Nat :=
  2 ^ 63 + ctx * 2 ^ 56 + relaunch * 2 ^ 52 + gang * 2 ^ 30 + tag

/-- The address of the slot of sequence n (R310). -/
def Queue.slotVa (q : Queue) (n : Nat) : Nat := q.ring + 128 * (n % 2 ^ q.log2)

/-- The parent a packet names: context, relaunch count, gang, tag (R109). -/
def parentOf (w : Nat) : Nat × Nat × Nat × Nat := (bitsOf w 61 56, bitsOf w 55 52, bitsOf w 51 30, bitsOf w 11 0)

/-- The parent launch, or the parent gang at its count, has been killed (R119). (DEDUCED: log 78.) -/
def State.parentLost (s : State) (w : Nat) : Bool :=
  let (c, n, g, t) := parentOf w
  w.testBit 63 && (match s.launch? c t with
    | none => true
    | some l => l.st == .killed || n < (l.gangAt g).relaunch)

/-- A child of its parent is settled (R117). -/
def State.settleChild (s : State) (w : Nat) : State :=
  let (c, _, _, t) := parentOf w
  if w.testBit 63 then s.modLaunch c t fun l => { l with children := l.children - 1 } else s

/-- The children whose parent launch or gang has been killed are Discarded where they stand in their queues, with a
notice each; their slots are skipped when they come to the head (R115, R119). (DEDUCED: log 78.) -/
def State.loseChildren (s : State) : State :=
  s.ctxs.zipIdx.foldl (fun s (x, c) => x.lqs.zipIdx.foldl (fun s (q, k) =>
    let lost := q.pushed.filter fun p => s.parentLost p.2 && !(q.gone.contains p.1)
    lost.foldl (fun s p =>
      let s := (s.notice c 0x04 (q.slotVa p.1) 0).settleChild p.2
      s.modCtx c fun x => { x with lqs := updAt k (fun q => { q with
        gone := q.gone ++ [p.1], pushed := q.pushed.filter (· != p) }) x.lqs }) s) s) s

/-- The gang is killed, which is counted: its waves end, its scratch is freed, its children are discarded, its
relaunch count rises, and it awaits relaunch where `again` (R125, R433). -/
def State.killGangOnly (s : State) (ctx tag gang : Nat) (again : Bool) : State :=
  let s := s.count ((s.gangWaves ctx tag gang).head?.elim 0 fun w => State.dieOf w.core) 9
  let s := (s.gangWaves ctx tag gang).foldl (fun s w => if w.st == .ended then s else s.killWave w.id) s
  let s : State := { s with blocks := s.blocks.map (fun b => if b.ctx == ctx && b.tag == tag && b.gang == gang then
      { b with live := false, scratch := .empty, scratchSize := 0 } else b) }
  let s : State := { s with cores := s.cores.map (fun c => { c with
      pending := c.pending.filter (fun e => !(e.ctx == ctx && e.tag == tag && e.gang == gang)) }) }
  let s := s.modSched fun k => { k with unplaced := k.unplaced.filter (· != (ctx, tag, gang)) }
  ((s.leaveCores ctx).modLaunch ctx tag fun l =>
    { l with gangs := updAt gang (fun g => { g with
      relaunch := g.relaunch + 1, st := if again then .awaiting else .killed }) l.gangs }).loseChildren

/-- The launch becomes Killed, with its gangs that are neither Done nor killed already (R115, R125). -/
def State.killLaunch (s : State) (ctx tag : Nat) : State :=
  match s.launch? ctx tag with
  | none => s
  | some l =>
    let s := (List.range l.gangs.length).foldl (fun s g =>
      match (l.gangAt g).st with
      | .placed | .pending | .unplaced => s.killGangOnly ctx tag g false
      | .awaiting => s.modGang ctx tag g fun x => { x with st := .killed }
      | .done | .killed => s) s
    let s : State := { s with cores := s.cores.map (fun c => { c with
      pending := c.pending.filter (fun e => !(e.ctx == ctx && e.tag == tag)) }) }
    let s := s.modSched fun k => { k with unplaced := k.unplaced.filter (fun e => !(e.1 == ctx && e.2.1 == tag)) }
    let s := s.modLaunch ctx tag fun l => { l with st := .killed }
    ((s.retireLaunch ctx tag).leaveCores ctx).loseChildren

/-- A gang is killed (R125, R126): below RELIMIT it awaits relaunch, at RELIMIT its launch is Killed, one that is
still Admitted as well; nothing befalls a gang of a launch that is final (R115).
(DEDUCED: log 119; DESIGN CHOICE: log 152.) -/
def State.killGang (s : State) (ctx tag gang : Nat) : State :=
  match s.launch? ctx tag with
  | none => s
  | some l =>
    let before := (l.gangAt gang).relaunch
    let st := (l.gangAt gang).st
    if l.final || st == .done || st == .awaiting || st == .killed then s
    else
      let s := s.killGangOnly ctx tag gang (before < l.relimit)
      if before < l.relimit then s.modLaunch ctx tag fun l => { l with st := if l.st = .admitted then .admitted else .relaunching }
      else (s.killLaunch ctx tag).notice ctx 0x03 l.addr 0

/-! Taking a trap and returning from one (R97 to R101, R137). -/

/-- Push a window (R142, R143). -/
def Wave.pushWindow (w : Wave) (kind : WinKind) (caller : Nat) (retPc : DWord) (size : Nat) (saved : Option Saved) :
    Nat × Wave :=
  (w.nextWin, { w with
    windows := w.windows ++ [{
      id := w.nextWin, kind, size, caller, retPc, map := [], entered := false, spilled := false, saved }]
    nextWin := w.nextWin + 1 })

/-- Free a window's own registers. -/
def Wave.freeWindow (w : Wave) (x : Window) (clk : Nat) : Wave := x.map.foldl (fun w p => w.freePhys (some p.2) clk) w

/-- Pop a solo or handler window with everything above it. -/
def Wave.popWindow (w : Wave) (id clk : Nat) : Wave :=
  let w := (w.windows.filter (fun x => id ≤ x.id)).foldl (fun w x => w.freeWindow x clk) w
  { w with windows := w.windows.filter (fun x => x.id < id) }

/-- Pop the call windows on top of the stack that no split and no parked lane holds (R143). A window below the top that
none holds stays until it is on top. -/
def Wave.trimWindows (w : Wave) (clk : Nat) : Nat → Wave
  | 0 => w
  | fuel + 1 =>
    match w.windows.getLast? with
    | none => w
    | some x =>
      if x.kind == .call && !(w.splits.any (·.win == x.id)) && !(w.parked.any (·.win == x.id)) then
        Wave.trimWindows { w.freeWindow x clk with windows := w.windows.dropLast } clk fuel
      else w

/-- The claim-word handling of a wave's own trap (R104), and what a record of it says. -/
def trapRecord (w : Wave) (r : Raised) (flags : Nat) : EvRec :=
  ⟨r.trap.cause.code, r.trap.cause.claimClass, flags, w.grid, r.ipc.toNat, r.trap.faddr.toNat, r.trap.lanes.toNat⟩

/-- The bytes a held record effect carries: cause, class, flags, wave, PC, address, lanes. (DEDUCED: log 129.) -/
def EvRec.pack (r : EvRec) : List Byte :=
  leBytes 1 r.cause ++ leBytes 1 r.cls ++ leBytes 2 r.flags ++ leBytes 4 r.wave ++ leBytes 8 r.ipc ++ leBytes 8 r.faddr ++
    leBytes 8 r.elanes

def EvRec.unpack (b : List Byte) : EvRec :=
  let f (o n : Nat) : Nat := leNat ((b.drop o).take n)
  ⟨f 0 1, f 1 1, f 2 2, f 4 4, f 8 8, f 16 8, f 24 8⟩

/-- sys.* as a trap writes them (R97, R103). -/
def Raised.sysRegs (r : Raised) (w : Wave) (solo pend : Nat) : SysRegs :=
  { w.sys with
    epc := r.epc, ipc := r.ipc, ecause := BitVec.ofNat 64 r.trap.cause.code, elanes := r.trap.lanes,
    faddr := r.trap.faddr, einfo := r.trap.einfo, solo := BitVec.ofNat 64 solo, pend := BitVec.ofNat 64 pend }

/-- The pending-cause word of sys.pend (R103). -/
def pendWord (r : Raised) : Nat := r.trap.cause.code + 256 * (r.ipc.toNat / 4 % 2 ^ 56)

/-- The mode word at wave start and in solo mode (R149). -/
def modeReset : Word := 0x10#32

/-- Note a trap that the wave takes, for as long as a rollback may discard it (R424). -/
def Wave.take (w : Wave) (r : Raised) (said : Bool) : Wave :=
  let old := w.ckpts.head?.elim w.nextCk (·.id)
  { w with taken := w.taken.filter (fun t => decide (old < t.ck)) ++ [⟨w.nextCk, said, r⟩] }

/-- Take a trap of a wave: R101 in solo mode or a service wave; otherwise the claim word sends it to Kreoth in solo
mode, holds the wave, or faults the context (R100, R104); POISON kills the gang first (R430). The record, the MSI-X
and the Faulted context are held until the trapping instruction is 128 clocks old (R424): the record effect's mode 0
writes the record only, 1 also faults the context, 2 dispatches it to a service wave. A trap that a rollback has made
due again has no second record. (DEDUCED: log 16.) -/
def State.takeTrap (s : State) (id slot : Nat) (r : Raised) : State :=
  match s.wave? id with
  | none => s
  | some w =>
    let die := State.dieOf w.core
    let s := if r.trap.cause = .poison then s.count die 8 else s
    let hold (w : Wave) (flags : Nat) (host : Bool) (mode : Nat) : Wave :=
      if w.told.contains r.no then w.take r true
      else { w.take r true with held := w.held ++ [⟨r.no, r.clk, 0, .record (trapRecord w r flags).pack host mode, none⟩] }
    let frozen (win : Nat) (inSolo : Bool) : Frozen := ⟨w.splits, w.parked, w.modes, slot, win, w.issueNo, inSolo, w.ahead⟩
    if w.service ∨ w.st = .solo then
      s.putWave { (hold w 4 false (if w.service then 0 else 1)) with st := .held }
    else if r.trap.cause = .poison then
      let (dev, host) := s.claims w.ctx 4
      let s := s.putWave (hold w 0 (host && !dev) (if dev then 2 else if host then 0 else 1))
      s.killGang w.ctx w.tag w.gang
    else
      match s.claims w.ctx r.trap.cause.claimClass with
      | (true, _) =>
        let lane := if r.trap.lanes = allLanes w.width then
            lowest ((w.split? slot).elim r.trap.lanes (·.mask))
          else lowest r.trap.lanes
        let w : Wave := { w.take r false with frozen := some (frozen w.nextWin true), ahead := [], sys := r.sysRegs w lane 0 }
        let (win, w) := w.pushWindow .solo 0 0#64 32 none
        let pc := BitVec.ofNat 64 (s.dev.kbase + 64 * r.trap.cause.code)
        s.putWave { w with
          st := .solo, splits := [Split.fresh 0 pc (1#64 <<< lane) win s.clk], parked := [],
          modes := w.modes.map (fun _ => modeReset) }
      | (false, host) =>
        let w : Wave := { w with frozen := some (frozen 0 false), ahead := [], sys := r.sysRegs w (lowest r.trap.lanes) 0 }
        let w := hold w 0 host (if host then 0 else 1)
        s.putWave { w with st := .held }

/-- A wait that is kept where the others issue their instruction again: the block barrier's, which has arrived (R342).
(DEDUCED: log 109.) -/
def Wait.keeps (t : Wait) : Bool := match t.kind with
  | .bsync _ => true
  | _ => false

/-- Resume the frozen splits with the trapping split at sys.epc (R107, R106). -/
def Wave.thaw (w : Wave) (clk : Nat) : Wave :=
  match w.frozen with
  | none => { w with st := .resident }
  | some f =>
    let w := if f.inSolo then w.popWindow f.win clk else w
    { w with
      st := .resident, frozen := none, parked := f.parked, modes := f.modes, ahead := f.ahead,
      splits := f.splits.map (fun sp => { sp.renew clk with
        pc := if sp.slot == f.slot then w.sys.epc else sp.pc
        wait := if sp.slot == f.slot && !(sp.pc == w.sys.epc && sp.wait.any (·.keeps)) then none else sp.wait }) }

/-- The wave must leave its core as soon as it can be saved: its context is being saved (R89, R91, R93, R107), or the
partition has taken its core and its block holds no scratch there (R127). (DEDUCED: log 107.) -/
def State.mustLeave (s : State) (w : Wave) : Bool :=
  !w.service && ((match (s.ctx w.ctx).saving with
    | some .slice => !w.decl.comm
    | some _ => true
    | none => false) ||
    (!w.decl.comm && w.decl.scratch = 0 && decide (32 - s.sched.partition.getD (State.dieOf w.core) 0 ≤ w.core % 32)))

/-- The return from a trap: resume the wave, or take the trap of sys.pend (R99, R107). The recorded trap's lanes and
detail are those of the due trap it stands for; a cause only solo code wrote has every lane of the split.
(DESIGN CHOICE: log 149.) -/
def State.returnFromTrap (s : State) (id : Nat) : State :=
  match s.wave? id with
  | none => s
  | some w =>
    let pend := w.sys.pend
    let slot := w.frozen.elim 0 (·.slot)
    let w : Wave := { w.thaw s.clk with stopping := s.mustLeave w }
    if pend = 0#64 then s.putWave w
    else
      let pc : DWord := (pend >>> 8) <<< 2
      let cause := Cause.ofCode (pend.toNat % 256)
      let hit := w.pended.find? (fun d => d.trap.cause == cause && d.ipc == pc)
      let lanes := (w.split? slot).elim w.live (·.mask)
      let r : Raised := hit.getD ⟨⟨cause, .reported, lanes, 0, 0⟩, (w.split? slot).elim pc (·.pc), pc, w.issueNo, s.clk⟩
      let w : Wave := { w with pended := [], sys := { w.sys with pend := 0 } }
      (s.putWave w).takeTrap id slot { r with epc := (w.split? slot).elim pc (·.pc) }

/-- The work on accumulators that an issue number precedes is given up: the accumulators are those of the checkpoint
restored (R212), and the instructions run again (R365). -/
def Op.onAcc (o : Op) : Bool := match o.kind with
  | .matrix | .acc _ _ => true
  | _ => false

/-- An ACCST before an issue number is still to read its accumulator: a fault of Region delivery waits for it, since
its stores are never cancelled (R365). (DEDUCED: log 42.) -/
def Wave.accstLeft (w : Wave) (no : Nat) : Bool := w.ops.any fun o => decide (o.no < no) && !o.done && (match o.kind with
  | .accst _ _ _ => true
  | _ => false)

def Wave.dropMatrix (w : Wave) (no : Nat) : Wave :=
  ({ w with
    ops := w.ops.map (fun o => if no < o.no && o.onAcc then { o with done := true } else o)
    regs := w.regs.map (fun r =>
      if w.ops.any (fun o => o.uid == r.writer && no < o.no && o.onAcc) then { r with writer := 0 } else r) } : Wave).retire

def State.cancelMatrix (s : State) (w : Wave) (no : Nat) : State :=
  let gone (uid : Nat) : Bool := w.ops.any (fun o => o.uid == uid && no < o.no && o.onAcc)
  let s : State := { s with msgs := s.msgs.filter (fun m => !(m.wave == w.id && m.uid != 0 && gone m.uid)) }
  s.modQuad (4 * w.core + w.quad) fun q => q.giveUp w.id no s.clk

/-- The Active vector of a wave's context after its windows changed: that of its handler window, if it has one (R412,
R413). (DEDUCED: log 101.) -/
def State.settleActive (s : State) (before after : Wave) : State :=
  let vec (w : Wave) : Option Nat := ((w.windows.find? (·.kind == .handler)).bind (·.saved)).map (·.vec)
  if vec before = vec after then s else s.modCtx after.ctx fun c => { c with active := vec after }

/-- Region delivery (R365): discard from the faulting instruction on, restore the region's entry checkpoint, and send
the fault to its claimants. `kept` effects of the faulting instruction survive (R276). (DEDUCED: log 42.) -/
def State.regionReplay (s : State) (id slot no : Nat) (ipc : DWord) (t : Trap) (kept : List Held) : State :=
  match s.wave? id with
  | none => s
  | some w =>
    let s := s.count (State.dieOf w.core) 11
    let s := s.discardMsgs w (no - 1)
    let w := w.discardAfter (no - 1) 0
    let w : Wave := { w with
      replays := if w.replayRegion = w.regionNo then w.replays + 1 else 1, replayRegion := w.regionNo }
    match w.regionEntry with
    | none => s.putWave w
    | some k =>
      let entryPc := ((k.splits.find? (·.slot == slot)).orElse (fun _ => k.splits.head?)).elim ipc (·.pc)
      let slot' := ((k.splits.find? (·.slot == slot)).orElse (fun _ => k.splits.head?)).elim slot (·.slot)
      let s := s.cancelMatrix w k.no
      let w := (w.dropMatrix k.no).restore k s.clk
      let w : Wave := { w with held := w.held ++ kept }
      let s := (s.wave? id).elim s fun v => s.settleActive v w
      (s.putWave w).takeTrap id slot' ⟨t, entryPc, ipc, no, s.clk⟩

/-- How many times the current region entry has faulted already (R364). -/
def Wave.replayCount (w : Wave) : Nat := if w.replayRegion = w.regionNo then w.replays else 0

end Sys2Proof.Machine
end

