-- ==== Sys2Proof/Machine/Errors.lean ====
section
/-! DEFINITION. Memory errors as they befall the device (R254 to R256, R429, R432, R433): which one, and when, is a free
value of each clock. -/

namespace Sys2Proof.Machine

/-- An uncorrectable error of a wave's storage is counted and reported (R429, R432). -/
def State.waveError (s : State) (id : Nat) (f : Wave → Wave) : State :=
  match s.wave? id with
  | none => s
  | some w =>
    if !w.onCore then s
    else
      let die := State.dieOf w.core
      (((s.modWave id f).count die 5).report 0x03 die (4 * w.core + w.quad) 0 w.grid false)

/-- A lane's value poisoned. (DEDUCED: log 58.) -/
def poisonLane (lane : Nat) (vs : List Val) : List Val := updAt lane (fun v => { v with poison := true }) vs

/-- An uncorrectable error in a sector of an L1 frame: a clean copy is given up, a dirty one poisoned (R256).
(PRESUMED: log 37.) -/
def State.l1Error (s : State) (core frame sector : Nat) : State :=
  match (s.core core).frames.find? (·.id == frame) with
  | none => s
  | some f =>
    let bit : BitVec 4 := 1#4 <<< (sector % 4)
    let dirty := (f.dirty &&& bit) != 0#4
    let die := State.dieOf core
    let one (f : Frame) : Frame := if dirty then { f with poison := f.poison ||| bit } else { f with valid := f.valid &&& ~~~bit }
    ((s.modFrame core frame one).count die 5).report 0x02 die core (if f.loc.sp == .dev then f.loc.addr + 32 * (sector % 4) else 0) 0
      (f.loc.sp == .dev)

/-- An uncorrectable error in a sector of the shared cache: a clean copy is given up, a dirty one poisoned (R256). -/
def State.sharedError (s : State) (sector : Nat) : State :=
  if !(s.sharedHas sector) then s
  else
    let line := sector / 4 * 128
    let bit : BitVec 4 := 1#4 <<< (sector % 4)
    let core := s.sliceOf ⟨.dev, line⟩
    let dirty := s.homes.shared.any fun x => x.line == line && (x.dirty &&& bit) != 0#4
    let s : State := if dirty then { s with mem := s.mem.setPoison sector true }
      else s.modHomes fun h => { h with shared := h.shared.map fun x =>
        if x.line == line then { x with sectors := x.sectors &&& ~~~bit } else x }
    (s.count (core / 32) 5).report 0x02 (core / 32) core (32 * sector) 0 true

/-- One memory error. -/
def State.errorAt (s : State) (e : ErrorSite) : State :=
  let die (line : Nat) : Nat := dirDie line
  match e with
  | .hbm sector single => s.modDev fun d => { d with hbmErrors := d.hbmErrors ++ [(sector, single)] }
  | .directory line single =>
    if !(s.homes.dir.any (·.line == line)) then s
    else if single then s.count (die line) 6
    else s.modHomes fun h => { h with dir := h.dir.map fun d => if d.line == line then { d with bad := true } else d }
  | .record line single =>
    if !(s.homes.records.any (·.line == ⟨.dev, line⟩)) then s
    else if single then s.count (die line) 6
    else s.modDev fun d => { d with recErrors := insertNat line d.recErrors }
  | .corrected core => s.count (State.dieOf core) 4
  | .register w r lane => s.waveError w fun w => w.modReg r fun x => { x with lanes := poisonLane lane x.lanes }
  | .laneWord w k lane => s.waveError w fun w =>
      match lookupKey k w.lanearr with
      | some vs => { w with lanearr := insertKey k (poisonLane lane vs) w.lanearr }
      | none => { w with lanearr := insertKey k (poisonLane lane (List.replicate w.width .zero)) w.lanearr }
  | .tile w t side sector => s.waveError w fun w => { w with tiles := updAt t (fun x =>
      if side then { x with side := x.side.setPoison sector true } else { x with data := x.data.setPoison sector true }) w.tiles }
  | .acc w a row => s.waveError w fun w => { w with accs := updAt a (fun x => { x with data := x.data.setPoison (16 * row) true }) w.accs }
  | .l1 core frame sector => s.l1Error core frame sector
  | .shared sector => s.sharedError sector
  | .scratch b sector =>
    match s.block? b with
    | none => s
    | some k =>
      let die := State.dieOf k.core
      ((s.modBlock b fun k => { k with scratch := k.scratch.setPoison sector true }).count die 5).report 0x02 die k.core 0 0 false

/-- The error of this clock, if there is one, while the device is Ready. (DESIGN CHOICE: log 10.) -/
def State.errors (s : State) : State :=
  if s.dev.st != .ready then s
  else match Config.errorAt s.free with
    | some e => { s with free := s.free + 1 }.errorAt e
    | none => { s with free := s.free + 1 }

end Sys2Proof.Machine
end

