-- ==== Sys2Proof/Machine/Flags.lean ====
section
/-! DEFINITION. Number formats, exact arithmetic, rounding and the exception flags (chapter "Number formats and exact
arithmetic"). Values are exact dyadic numbers; one function rounds. -/

namespace Sys2Proof.Machine

/-- The floating-point formats (R60). -/
inductive Fmt where
  | f64 | f32 | f16 | bf16 | e5m2 | e4m3 | e2m1
  deriving DecidableEq, Repr

def Fmt.ebits : Fmt → Nat
  | .f64 => 11
  | .f32 | .bf16 => 8
  | .f16 | .e5m2 => 5
  | .e4m3 => 4
  | .e2m1 => 2

def Fmt.fbits : Fmt → Nat
  | .f64 => 52
  | .f32 => 23
  | .f16 => 10
  | .bf16 => 7
  | .e5m2 => 2
  | .e4m3 => 3
  | .e2m1 => 1

def Fmt.bias : Fmt → Nat
  | .f64 => 1023
  | .f32 | .bf16 => 127
  | .f16 | .e5m2 => 15
  | .e4m3 => 7
  | .e2m1 => 1

/-- Formats with infinities (R60). -/
def Fmt.hasInf : Fmt → Bool
  | .e4m3 | .e2m1 => false
  | _ => true

/-- Formats that flush controls act on (R67, R68). -/
def Fmt.flushes : Fmt → Bool
  | .f64 | .f32 | .f16 | .bf16 => true
  | _ => false

def Fmt.width (f : Fmt) : Nat := 1 + f.ebits + f.fbits

/-- The canonical NaN (R61); E2M1 has none and a NaN becomes +0 there. -/
def Fmt.nan : Fmt → Nat
  | .f64 => 0x7FF8000000000000
  | .f32 => 0x7FC00000
  | .f16 => 0x7E00
  | .bf16 => 0x7FC0
  | .e5m2 => 0x7E
  | .e4m3 => 0x7F
  | .e2m1 => 0

/-- The largest finite magnitude as mantissa and exponent (R60). -/
def Fmt.maxFinite (f : Fmt) : Nat × Int :=
  match f with
  | .e4m3 => (14, 5)
  | .e2m1 => (3, 1)
  | f => (2 ^ (f.fbits + 1) - 1, (2 ^ f.ebits - 2 - f.bias - f.fbits : Int))

/-- The exponent of the smallest normal number. -/
def Fmt.emin (f : Fmt) : Int := 1 - f.bias

/-- The rounding directions (R65). -/
inductive Dir where
  | rne | rna | rtz | rdn | rup
  deriving DecidableEq, Repr

/-- The exception flags, NX UF OF DZ NV in bits 0 to 4, the order of mode word bits [9:5] (R149). -/
abbrev Flags := BitVec 5
def fNX : Flags := 1#5
def fUF : Flags := 2#5
def fOF : Flags := 4#5
def fDZ : Flags := 8#5
def fNV : Flags := 16#5

/-- An exact number: a NaN that raises NV or not, an infinity, or (-1)^neg × m × 2^e. -/
inductive Num where
  | nan (nv : Bool)
  | inf (neg : Bool)
  | fin (neg : Bool) (m : Nat) (e : Int)
  deriving DecidableEq, Repr

/-- The number a bit pattern encodes (R60, R61). -/
def Fmt.decode (f : Fmt) (bits : Nat) : Num :=
  let b := bits % 2 ^ f.width
  let neg := b.testBit (f.width - 1)
  let e := (b / 2 ^ f.fbits) % 2 ^ f.ebits
  let fr := b % 2 ^ f.fbits
  if f = .e4m3 ∧ e = 15 ∧ fr = 7 then .nan false
  else if f.hasInf ∧ e = 2 ^ f.ebits - 1 then
    if fr = 0 then .inf neg
    else .nan (decide (f ≠ .e5m2) && !(fr.testBit (f.fbits - 1)))
  else if e = 0 then .fin neg fr (f.emin - f.fbits)
  else .fin neg (2 ^ f.fbits + fr) ((e : Int) - f.bias - f.fbits)

/-- Whether a bit pattern is subnormal: a zero exponent field with a nonzero fraction. -/
def Fmt.isSubnormal (f : Fmt) (bits : Nat) : Bool :=
  (bits / 2 ^ f.fbits) % 2 ^ f.ebits == 0 && bits % 2 ^ f.fbits != 0

/-- A source, flushed to a zero of its sign under flush-in (R68). -/
def Fmt.source (f : Fmt) (fin : Bool) (bits : Nat) : Num :=
  if fin && f.flushes && f.isSubnormal bits then .fin (bits.testBit (f.width - 1)) 0 0 else f.decode bits

/-- The zero of a sign. -/
def Fmt.zero (f : Fmt) (neg : Bool) : Nat := if neg then 2 ^ (f.width - 1) else 0

/-- The infinity of a sign. -/
def Fmt.infinity (f : Fmt) (neg : Bool) : Nat := f.zero neg + (2 ^ f.ebits - 1) * 2 ^ f.fbits

/-- The bits of ± m × 2^e where the value is representable, m below 2^(fbits + 1) and e at least the subnormal
exponent. -/
def Fmt.pack (f : Fmt) (neg : Bool) (m : Nat) (e : Int) : Nat :=
  f.zero neg + (if m < 2 ^ f.fbits then m else (e + f.bias + f.fbits).toNat * 2 ^ f.fbits + (m - 2 ^ f.fbits))

/-- ± largest finite (R66). -/
def Fmt.largest (f : Fmt) (neg : Bool) : Nat :=
  match f with
  | .e4m3 => f.zero neg + 0x7E
  | .e2m1 => f.zero neg + 7
  | f => f.pack neg f.maxFinite.1 f.maxFinite.2

/-- Round N / D to an integer in a direction: the integer and whether it is exact. -/
def roundInt (dir : Dir) (neg : Bool) (n d : Nat) : Nat × Bool :=
  let q := n / d
  let r := n % d
  if r = 0 then (q, true)
  else
    let up := match dir with
      | .rne => decide (2 * r > d) || (decide (2 * r = d) && q % 2 == 1)
      | .rna => decide (2 * r ≥ d)
      | .rtz => false
      | .rdn => neg
      | .rup => !neg
    (if up then q + 1 else q, false)

/-- N × 2^e / D as a quotient of naturals. -/
def scaleQ (n d : Nat) (e : Int) : Nat × Nat := if 0 ≤ e then (n * 2 ^ e.toNat, d) else (n, d * 2 ^ (-e).toNat)

/-- floor(log2 (N / D × 2^e)) for N > 0. -/
def expOf (n d : Nat) (e : Int) : Int :=
  let g : Int := (Nat.log2 n : Int) - Nat.log2 d
  let (a, b) := scaleQ n d (-g)
  (if a < b then g - 1 else g) + e

/-- Whether m × 2^e exceeds the largest finite magnitude. -/
def Fmt.exceeds (f : Fmt) (m : Nat) (e : Int) : Bool :=
  let (mm, me) := f.maxFinite
  let d := e - me
  if 0 ≤ d then m * 2 ^ d.toNat > mm else m > mm * 2 ^ (-d).toNat

/-- What overflow gives (R66). -/
def Fmt.overflow (f : Fmt) (dir : Dir) (neg : Bool) : Nat :=
  if !f.hasInf then f.largest neg
  else
    match dir with
    | .rne | .rna => f.infinity neg
    | .rtz => f.largest neg
    | .rdn => if neg then f.infinity neg else f.largest neg
    | .rup => if neg then f.largest neg else f.infinity neg

/-- Round ± N / D × 2^e, N > 0, once (R65 to R67). -/
def Fmt.round (f : Fmt) (dir : Dir) (fout : Bool) (neg : Bool) (n d : Nat) (e : Int) : Nat × Flags :=
  let ex := expOf n d e
  let q := ex - f.fbits
  let (a, b) := scaleQ n d (e - q)
  let (m, exact) := roundInt dir neg a b
  if f.exceeds m q then (f.overflow dir neg, fOF ||| fNX)
  else
    let carried := m = 2 ^ (f.fbits + 1)
    let top := if carried then ex + 1 else ex
    if top < f.emin then
      if fout && f.flushes then (f.zero neg, fUF ||| fNX)
      else
        let q := f.emin - f.fbits
        let (a, b) := scaleQ n d (e - q)
        let (m, exact) := roundInt dir neg a b
        (f.pack neg m q, if exact then 0#5 else fUF ||| fNX)
    else
      (if carried then f.pack neg (2 ^ f.fbits) (q + 1) else f.pack neg m q, if exact then 0#5 else fNX)

/-- A float result: the bits and the flags raised. -/
abbrev FRes := Nat × Flags

def nvIf (b : Bool) : Flags := if b then fNV else 0#5

/-- The exact product; 0 × ∞ is an invalid NaN (R184). -/
def Num.mul : Num → Num → Num
  | .nan a, .nan b => .nan (a || b)
  | .nan a, _ => .nan a
  | _, .nan b => .nan b
  | .inf a, .inf b => .inf (a != b)
  | .inf a, .fin b m _ => if m = 0 then .nan true else .inf (a != b)
  | .fin b m _, .inf a => if m = 0 then .nan true else .inf (a != b)
  | .fin a m e, .fin b n g => .fin (a != b) (m * n) (e + g)

def Num.neg : Num → Num
  | .nan v => .nan v
  | .inf a => .inf (!a)
  | .fin a m e => .fin (!a) m e

/-- The exact value of a finite term as an integer at exponent e0, at or below its own. -/
def alignInt (neg : Bool) (m : Nat) (e e0 : Int) : Int :=
  let v : Int := (m * 2 ^ (e - e0).toNat : Nat)
  if neg then -v else v

/-- The exact sum of terms (R9, R75): NaN, infinity, a zero whose terms have one sign, or an exact number. A zero sum
of other kinds is marked by `none`. -/
inductive Sum where
  | nan (nv : Bool)
  | inf (neg : Bool)
  | zero (sign : Option Bool)
  | fin (neg : Bool) (m : Nat) (e : Int)
  deriving DecidableEq, Repr

def Num.isNan : Num → Bool
  | .nan _ => true
  | _ => false

def Num.isInf (neg : Bool) : Num → Bool
  | .inf b => b == neg
  | _ => false

def Num.raisesNV : Num → Bool
  | .nan v => v
  | _ => false

/-- The exponents of the finite terms. -/
def minExp : List Num → Int
  | [] => 0
  | .fin _ _ e :: r => if r.isEmpty then e else min e (minExp r)
  | _ :: r => minExp r

def exactSum (ts : List Num) : Sum :=
  let opposed := ts.any (Num.isInf true) && ts.any (Num.isInf false)
  if ts.any Num.isNan || opposed then .nan (ts.any Num.raisesNV || opposed)
  else if ts.any (Num.isInf true) then .inf true
  else if ts.any (Num.isInf false) then .inf false
  else
    let e0 := minExp ts
    let total : Int := ts.foldl (fun t x => match x with
      | .fin s m e => t + alignInt s m e e0
      | _ => t) 0
    if total = 0 then
      let zeros := ts.all (fun x => match x with
        | .fin _ m _ => m == 0
        | _ => false)
      let signs := ts.map (fun x => match x with
        | .fin s _ _ => s
        | _ => false)
      if zeros && signs.all (· == true) then .zero (some true)
      else if zeros && signs.all (· == false) then .zero (some false)
      else .zero none
    else .fin (decide (total < 0)) total.natAbs e0

/-- The controls a lane's mode word and RND give an instruction: direction, flush-in, flush-out (R65 to R68). -/
structure Ctl where
  dir  : Dir
  fin  : Bool
  fout : Bool
  deriving DecidableEq, Repr

/-- Home arithmetic: RNE, no flush (R80, R270). -/
def Ctl.home : Ctl := ⟨.rne, false, false⟩

/-- Round an exact sum, with the sign of a zero of R69. -/
def Fmt.roundSum (f : Fmt) (c : Ctl) : Sum → FRes
  | .nan nv => (f.nan, nvIf nv)
  | .inf neg => (f.infinity neg, 0#5)
  | .zero (some s) => (f.zero s, 0#5)
  | .zero none => (f.zero (c.dir == .rdn), 0#5)
  | .fin neg m e => f.round c.dir c.fout neg m 1 e

/-- Round one exact number; a format without infinities saturates (R74). -/
def Fmt.roundNum (f : Fmt) (c : Ctl) : Num → FRes
  | .nan nv => (f.nan, nvIf nv)
  | .inf neg => if f.hasInf then (f.infinity neg, 0#5) else (f.largest neg, fOF ||| fNX)
  | .fin neg m e => if m = 0 then (f.zero neg, 0#5) else f.round c.dir c.fout neg m 1 e

/-- FADD, FSUB, FMUL, FFMA (R184). -/
def fAdd (f : Fmt) (c : Ctl) (a b : Nat) : FRes := f.roundSum c (exactSum [f.source c.fin a, f.source c.fin b])
def fSub (f : Fmt) (c : Ctl) (a b : Nat) : FRes := f.roundSum c (exactSum [f.source c.fin a, (f.source c.fin b).neg])
def fMul (f : Fmt) (c : Ctl) (a b : Nat) : FRes := f.roundNum c ((f.source c.fin a).mul (f.source c.fin b))
def fFma (f : Fmt) (c : Ctl) (a b x : Nat) : FRes :=
  f.roundSum c (exactSum [(f.source c.fin a).mul (f.source c.fin b), f.source c.fin x])

/-- FDIV, correctly rounded (R184). -/
def fDiv (f : Fmt) (c : Ctl) (a b : Nat) : FRes :=
  match f.source c.fin a, f.source c.fin b with
  | .nan x, .nan y => (f.nan, nvIf (x || y))
  | .nan x, _ => (f.nan, nvIf x)
  | _, .nan y => (f.nan, nvIf y)
  | .inf _, .inf _ => (f.nan, fNV)
  | .inf s, .fin t _ _ => (f.infinity (s != t), 0#5)
  | .fin s _ _, .inf t => (f.zero (s != t), 0#5)
  | .fin s m e, .fin t n g =>
    if n = 0 then (if m = 0 then (f.nan, fNV) else (f.infinity (s != t), fDZ))
    else if m = 0 then (f.zero (s != t), 0#5)
    else f.round c.dir c.fout (s != t) m n (e - g)

/-- FSCL: A × 2^signed(B) (R184). Beyond ±4,096 every finite A overflows or falls below every subnormal, as it does there.
(DEDUCED: log 68.) -/
def fScl (f : Fmt) (c : Ctl) (a : Nat) (k : Int) : FRes :=
  match f.source c.fin a with
  | .fin s m e => if m = 0 then (f.zero s, 0#5) else f.round c.dir c.fout s m 1 (e + max (-4096) (min 4096 k))
  | x => f.roundNum c x

/-- Order of two numbers that are not NaN: less, equal in value (R72, R186). -/
def numLt (a b : Num) : Bool :=
  match a, b with
  | .inf s, .inf t => s && !t
  | .inf s, _ => s
  | _, .inf t => !t
  | .fin s m e, .fin t n g =>
    let e0 := min e g
    decide (alignInt s m e e0 < alignInt t n g e0)
  | _, _ => false

/-- The bits a source has after flush-in (R68, R185). -/
def Fmt.flushed (f : Fmt) (fin : Bool) (bits : Nat) : Nat :=
  let b := bits % 2 ^ f.width
  if fin && f.flushes && f.isSubnormal b then f.zero (b.testBit (f.width - 1)) else b

/-- FMIN and FMAX under R72: -0 is below +0, one NaN gives the other operand. -/
def fMinMax (f : Fmt) (fin isMax : Bool) (a b : Nat) : FRes :=
  let x := f.source fin a
  let y := f.source fin b
  let flags := nvIf (x.raisesNV || y.raisesNV)
  let av := f.flushed fin a
  let bv := f.flushed fin b
  if x.isNan && y.isNan then (f.nan, flags)
  else if x.isNan then (bv, flags)
  else if y.isNan then (av, flags)
  else
    let less := numLt x y || (!numLt y x && av.testBit (f.width - 1) && !bv.testBit (f.width - 1))
    (if less != isMax then av else bv, flags)

/-- FSET's comparison (R186): SUB[2:0], the unordered result SUB[3]. -/
def fSet (f : Fmt) (fin : Bool) (rel : Nat) (unord : Bool) (a b : Nat) : Bool × Flags :=
  let x := f.source fin a
  let y := f.source fin b
  let un := x.isNan || y.isNan
  let r := match rel with
    | 0 => if un then unord else !numLt x y && !numLt y x
    | 1 => if un then unord else numLt x y || numLt y x
    | 2 => if un then unord else numLt x y
    | 3 => if un then unord else !numLt y x
    | 4 => if un then unord else numLt y x
    | 5 => if un then unord else !numLt x y
    | 6 => !un
    | _ => un
  (r, nvIf (x.raisesNV || y.raisesNV))

/-- FRND: round to an integral value in the same format (R187). -/
def fRnd (f : Fmt) (c : Ctl) (a : Nat) : FRes :=
  match f.source c.fin a with
  | .fin s m e =>
    if m = 0 then (f.zero s, 0#5)
    else if 0 ≤ e then (f.flushed c.fin a, 0#5)
    else
      let (q, exact) := roundInt c.dir s m (2 ^ (-e).toNat)
      if q = 0 then (f.zero s, fNX)
      else ((f.round .rne false s q 1 0).1, if exact then 0#5 else fNX)
  | x => f.roundNum c x

/-- FCLASS's one-hot class (R188). -/
def fClass (f : Fmt) (fin : Bool) (bits : Nat) : Nat :=
  let neg := (bits % 2 ^ f.width).testBit (f.width - 1)
  match f.source fin bits with
  | .nan sig => if sig then 2 ^ 8 else 2 ^ 9
  | .inf s => if s then 1 else 2 ^ 7
  | .fin _ m _ =>
    if m = 0 then (if neg then 2 ^ 3 else 2 ^ 4)
    else if f.isSubnormal bits then (if neg then 2 ^ 2 else 2 ^ 5)
    else if neg then 2 ^ 1 else 2 ^ 6

/-- The two's complement bits of an integer clamped to a range (R63). -/
def clampInt (v lo hi : Int) : Int := if v < lo then lo else if v > hi then hi else v

def intBits (w : Nat) (v : Int) : Nat := (v % (2 ^ w : Int)).toNat

def signedOf (w n : Nat) : Int := if n % 2 ^ w < 2 ^ (w - 1) then (n % 2 ^ w : Nat) else (n % 2 ^ w : Nat) - (2 ^ w : Int)

/-- A float to an integer of w bits: rounds, then saturates; NaN gives 0; saturation raises NV (R74). -/
def fToInt (f : Fmt) (c : Ctl) (signed : Bool) (w : Nat) (a : Nat) : FRes :=
  let lo : Int := if signed then -(2 ^ (w - 1)) else 0
  let hi : Int := if signed then 2 ^ (w - 1) - 1 else 2 ^ w - 1
  match f.source c.fin a with
  | .nan _ => (0, fNV)
  | .inf s => (intBits w (if s then lo else hi), fNV)
  | .fin s m e =>
    let (n, d) := scaleQ m 1 e
    let (q, exact) := roundInt c.dir s n d
    let v : Int := if s then -(q : Int) else q
    if v < lo ∨ v > hi then (intBits w (clampInt v lo hi), fNV) else (intBits w v, if exact then 0#5 else fNX)

/-- An integer to a float (R73 SUB 12, 13, 16, 17, 20). -/
def intToF (f : Fmt) (c : Ctl) (v : Int) : FRes :=
  if v = 0 then (f.zero false, 0#5) else f.round c.dir c.fout (decide (v < 0)) v.natAbs 1 0

/-- A narrow E2M1 result of a NaN is +0 with NV (R61, R70, R74). -/
def toE2M1 (c : Ctl) (x : Num) : FRes :=
  match x with
  | .nan _ => (0, fNV)
  | x => Fmt.roundNum .e2m1 c x

/-- Float to float (R73, R74); a conversion marked "no" ignores flush-out. -/
def fToF (src dst : Fmt) (c : Ctl) (a : Nat) : FRes :=
  let x := src.source c.fin a
  if dst = .e2m1 then toE2M1 c x else dst.roundNum c x

/-- The value of an S16 scale (R64): NaN for the block NaN. -/
def s16 (v : Nat) : Num :=
  let e := (v / 256) % 256
  let f := v % 256
  if e = 255 then .nan false
  else if e = 0 then .fin false f (-134)
  else .fin false (256 + f) ((e : Int) - 127 - 8)

/-- FDOT (R75, R191) for the float variants: one exact sum, one rounding. -/
def fDot (f : Fmt) (c : Ctl) (as bs : List Nat) (x : Nat) : FRes :=
  let terms := (as.zip bs).map (fun (a, b) => (f.source c.fin a).mul (f.source c.fin b))
  Fmt.roundSum .f32 c (exactSum (terms ++ [Fmt.source .f32 c.fin x]))

def Num.isZero : Num → Bool
  | .fin _ m _ => m == 0
  | _ => false

/-- A sum as a number, for a scaled group (R76); a zero keeps a sign it has, else +. -/
def Sum.toNum : Sum → Num
  | .nan v => .nan v
  | .inf s => .inf s
  | .zero s => .fin (s.getD false) 0 0
  | .fin s m e => .fin s m e

/-- One accumulator update of the matrix engine (R76): the group's exact sum, scaled exactly when scales are given, and
one RNE rounding; the engine never flushes and raises no flag. A zero scale times a finite sum is +0 (R64). -/
def mmaUpdate (f g : Fmt) (pairs : List (Nat × Nat)) (scales : Option (Nat × Nat)) (acc : Nat) : Nat :=
  let products := pairs.map (fun (a, b) => (f.decode a).mul (g.decode b))
  let accNum := Fmt.decode .f32 acc
  let s := match scales with
    | none => exactSum (products ++ [accNum])
    | some (p, q) =>
      let t := (((exactSum products).toNum.mul (s16 p)).mul (s16 q))
      let t := match t with
        | .fin _ 0 _ => if (s16 p).isZero || (s16 q).isZero then .fin false 0 0 else t
        | t => t
      exactSum [t, accNum]
  (Fmt.roundSum .f32 .home s).1

/-- ATOM, RED, COLL and home arithmetic (R270): variant, width in bits, old and operand. -/
def atomOp (variant w old c : Nat) : Nat :=
  let f := if w = 64 then Fmt.f64 else Fmt.f32
  let halves (g : Fmt) : Nat :=
    (fAdd g .home (old % 65536) (c % 65536)).1 + 65536 * (fAdd g .home (old / 65536 % 65536) (c / 65536 % 65536)).1
  match variant with
  | 0 => (old + c) % 2 ^ w
  | 1 => (fAdd .f32 .home old c).1
  | 2 => halves .f16
  | 3 => halves .bf16
  | 4 => if signedOf w c < signedOf w old then c else old
  | 5 => if signedOf w old < signedOf w c then c else old
  | 6 => min old c
  | 7 => max old c
  | 8 => (fMinMax f false false old c).1
  | 9 => (fMinMax f false true old c).1
  | 10 => old &&& c
  | 11 => old ||| c
  | 12 => old ^^^ c
  | 13 => c
  | 14 => if old ≥ c then 0 else old + 1
  | _ => if old = 0 ∨ old > c then c else old - 1

/-- REDK's operators (R274). -/
def redkOp (variant w old x : Nat) : Nat :=
  let f := if w = 64 then Fmt.f64 else Fmt.f32
  match variant with
  | 0 => (old + x) % 2 ^ w
  | 1 => (fAdd f .home old x).1
  | 2 => if signedOf w x < signedOf w old then x else old
  | 3 => if signedOf w old < signedOf w x then x else old
  | 4 => (fMinMax f false false old x).1
  | _ => (fMinMax f false true old x).1

/-- The scan operators of R199 on two values, left operand first; linrec works on the pair (R79). -/
def scanOp (sub : Nat) (c : Ctl) (x y : Nat) : FRes :=
  match sub with
  | 0 => ((x + y) % 2 ^ 32, 0#5)
  | 1 => fAdd .f32 c x y
  | 2 => (if signedOf 32 x < signedOf 32 y then y else x, 0#5)
  | 3 => (max x y, 0#5)
  | 4 => fMinMax .f32 c.fin true x y
  | 5 => (if signedOf 32 y < signedOf 32 x then y else x, 0#5)
  | 6 => (min x y, 0#5)
  | 7 => fMinMax .f32 c.fin false x y
  | 8 => (x &&& y, 0#5)
  | 9 => (x ||| y, 0#5)
  | 10 => (x ^^^ y, 0#5)
  | _ =>
    let a1 := x % 2 ^ 32
    let b1 := x / 2 ^ 32 % 2 ^ 32
    let a2 := y % 2 ^ 32
    let b2 := y / 2 ^ 32 % 2 ^ 32
    let a := fMul .f32 c a1 a2
    let b := fFma .f32 c a2 b1 b2
    (a.1 + 2 ^ 32 * b.1, a.2 ||| b.2)

/-- The value for ε (R199, last column). -/
def scanEps (sub : Nat) : Nat :=
  match sub with
  | 2 => 0x80000000
  | 4 => 0xFF800000
  | 5 => 0x7FFFFFFF
  | 6 | 8 => 0xFFFFFFFF
  | 7 => 0x7F800000
  | 11 => 0x3F800000
  | _ => 0

/-- The mode word's direction (R149). -/
def modeDir (m : Word) : Dir :=
  match (m.extractLsb' 0 2).toNat with
  | 0 => .rne
  | 1 => .rtz
  | 2 => .rdn
  | _ => .rup

/-- The controls of a lane: RND, or the mode word where RND is 0 (R39, R65). -/
def ctlOf (m : Word) (r : Rnd) : Ctl :=
  { dir := match r with
      | .mode => modeDir m
      | .rne => .rne
      | .rtz => .rtz
      | .rna => .rna
    fin := m.getLsbD 2, fout := m.getLsbD 3 }

/-- The flags whose trap is enabled in a mode word (R149). -/
def trapEnables (m : Word) : Flags := m.extractLsb' 10 5

/-- The mode word with flags set (R150). -/
def setFlags (m : Word) (f : Flags) : Word := m ||| ((f.zeroExtend 32) <<< 5)

end Sys2Proof.Machine
end

