-- ==== Sys2Proof/Machine/Operands.lean ====
section
/-! DEFINITION. How an instruction of a wave reads its operands, checks them, writes its results and ends: every operand
form of R31 to R44, the checks of R51, the dependences of R130 and R151, the split adjustments of R134 and R135. -/

namespace Sys2Proof.Machine

/-! What an encoding names. -/

/-- How many registers of its kind a field covers (R32, R40, R42). -/
def regSpan : Kind → Nat
  | .src | .srcValue | .dst => 1
  | .srcPair | .dstPair | .dstPairV => 2
  | .srcGroup n | .dstGroup n => n
  | .rowA => 32
  | _ => 0

/-- One register field of an encoding: the field, its kind, how many registers it covers, its last-read mark, and
whether it is read. -/
structure Use where
  fld  : Fld
  kind : Kind
  span : Nat
  mark : Bool
  src  : Bool
  deriving DecidableEq, Repr

def useOf (fld : Fld) (kind : Kind) (mark src : Bool) : Use := ⟨fld, kind, regSpan kind, mark, src⟩

/-- Instructions that leave some active lanes of their destination as they were, so that they read it: WRLANE, TOPK,
COMPRESS and EXPAND (R183, R202, R204). -/
def keepsLanes (op : BitVec 7) : Bool := op == 0x29#7 || op == 0x46#7 || op == 0x47#7 || op == 0x48#7

/-- The registers of A's block scales (R217). -/
def scaleRegs (format : Nat) : Nat := if format = 2 then 4 else 2

/-- The register fields an encoding uses, destination first. -/
def encUses : Enc → List Use
  | .gen op g =>
    match genShape op g.sub with
    | none => []
    | some s =>
      [useOf g.d s.d false (keepsLanes op), useOf g.a s.a g.la true] ++
        (if g.len = .lit then [] else [useOf g.b s.b g.lb true]) ++ [useOf g.c s.c g.lc true]
  | .mem op m =>
    match memShape op m.sub m.size with
    | .error _ => []
    | .ok s => [useOf m.d s.d false false, useOf m.a s.a m.la true, useOf m.b s.b m.lb true, useOf m.c s.c m.lc true]
  | .mat _ x =>
    [useOf x.d .acc false false, useOf x.a .rowA x.la true, useOf x.b .tile false true] ++
      (if 16 ≤ x.sub.toNat then [⟨x.c, .srcValue, scaleRegs (x.sub.toNat % 16), x.lc, true⟩] else [])
  | .bra _ _ | .reserved _ => []

/-- Whether a kind is a destination register. -/
def isDest : Kind → Bool
  | .dst | .dstPair | .dstPairV | .dstGroup _ => true
  | _ => false

/-- The value register names a use covers. -/
def Use.names (u : Use) : List Nat := if u.fld.toNat < 96 then natsFrom u.fld.toNat u.span else []

/-- The wave scalars a use covers. -/
def Use.scalars (u : Use) : List Nat :=
  if 96 ≤ u.fld.toNat ∧ u.fld.toNat < 112 then natsFrom (u.fld.toNat - 96) u.span
  else if 120 ≤ u.fld.toNat then natsFrom (u.fld.toNat - 120 + 16) (min u.span 1)
  else []

def encOp : Enc → BitVec 7
  | .gen op _ | .mem op _ | .mat op _ | .bra op _ => op
  | .reserved w => opOf w

def encGuard : Enc → Guard
  | .gen _ g => g.grd
  | .mem _ m => m.grd
  | .mat _ x => x.grd
  | .bra _ b => b.grd
  | .reserved _ => Guard.all

/-- LOOK (R45). -/
def encLook : Enc → Nat
  | .gen _ g => g.look.toNat
  | .mem _ m => m.look.toNat
  | .mat _ x => x.look.toNat
  | _ => 0

/-- The permutes of an encoding. -/
def encPermutes : Enc → List Permute
  | .gen _ g => [g.pa, g.pb, g.pc]
  | _ => []

/-- The in-flight path of an opcode (R152). -/
def pathOf (op : BitVec 7) : Option Nat :=
  match op.toNat with
  | 0x50 => some 0
  | 0x51 | 0x58 | 0x5A | 0x5B => some 1
  | 0x60 => some 2
  | 0x52 | 0x53 | 0x54 | 0x55 => some 3
  | 0x70 => some 4
  | 0x72 | 0x73 | 0x74 => some 5
  | 0x64 => some 6
  | 0x75 => some 7
  | _ => none

/-- The instructions that end a region (R425). -/
def endsRegion : Enc → Bool
  | .gen op g =>
    let n := op.toNat
    n = 0x77 || n = 0x7A || n = 0x7B || n = 0x7C || (n = 0x79 && g.sub == 2#5) || n = 0x08
  | .mem op m =>
    let n := op.toNat
    n = 0x52 || n = 0x53 || n = 0x54 || n = 0x55 || n = 0x70 || n = 0x73 || n = 0x75 ||
      (n = 0x7E && m.sub.toNat ≤ 2)
  | _ => false

/-- The waiting instructions (R92): WAITC, CWAIT, QWAIT, CPEEK, BSYNC and BAR wait. -/
def isWaiting : Enc → Bool
  | .gen op _ => op == 0x0E#7 || op == 0x7D#7
  | .mem op m => op == 0x59#7 || op == 0x71#7 || op == 0x76#7 || (op == 0x7E#7 && m.sub == 3#5)
  | _ => false

/-- The clocks a wave16 or wave32 instruction occupies issue for (R170, R194, R230, R283). (DESIGN CHOICE: log 2.) -/
def issueClocks : Enc → Nat
  | .gen op g =>
    let n := op.toNat
    let w := g.sub.getLsbD 0
    if n = 0x44 ∨ n = 0x45 then (if g.sub.toNat % 16 = 11 then 2 else 1)
    else if n = 0x46 then 2
    else if n = 0x12 ∨ n = 0x13 ∨ n = 0x14 then (if w then 4 else 1)
    else if (n = 0x1D ∨ n = 0x1E) then (if g.sub.getLsbD 4 then 2 else 1)
    else if (0x10 ≤ n ∧ n ≤ 0x1C) ∨ n = 0x1F then (if w then 2 else 1)
    else if n = 0x36 then (if g.sub.getLsbD 4 then 4 else 1)
    else if (0x30 ≤ n ∧ n ≤ 0x35) ∨ n = 0x37 ∨ n = 0x3E ∨ n = 0x3F then (if w then 4 else 1)
    else 1
  | _ => 1

/-! The instruction at issue. -/

/-- An instruction at its issue: the state before it, its wave and split, its active lanes (R10, R37), its place and its
encoding. -/
structure Iss where
  s   : State
  w   : Wave
  sp  : Split
  act : Lanes
  pc  : DWord
  len : Nat
  enc : Enc

def Iss.no (x : Iss) : Nat := x.w.issueNo + 1
def Iss.uid (x : Iss) : Nat := x.w.nextUid
def Iss.clk (x : Iss) : Nat := x.s.clk
def Iss.width (x : Iss) : Nat := x.w.width
def Iss.die (x : Iss) : Nat := State.dieOf x.w.core
def Iss.lanes (x : Iss) : List Nat := lanesOf x.act
def Iss.first (x : Iss) : Nat := lowest x.act
/-- The device-wide number of the wave's quadrant (R14). -/
def Wave.quadNo (w : Wave) : Nat := 4 * w.core + w.quad
/-- Whether a wave runs solo code (R100, R102). -/
def Wave.inSolo (w : Wave) : Bool := w.st == .solo || w.service

/-- What a body raises; `einfo` none where the spec gives no value for it. -/
structure Fail where
  cause : Cause
  lanes : Lanes
  faddr : DWord
  einfo : Option DWord
  deriving DecidableEq, Repr

/-- How an instruction ends: done, done with the control already set, done and waiting, not issued, or one of R97's
deliveries. `kept` are the held effects of the instruction that stay although it traps (R276). -/
inductive Res where
  | ok (s : State)
  | jump (s : State)
  | wait (s : State) (t : Wait)
  | stall (s : State)
  | trap (s : State) (f : Fail)
  | due (s : State) (f : Fail)
  | region (s : State) (f : Fail) (kept : List Held)

/-- A predicate's lanes; p0 is true in every lane (R148), those of the wave's width: register 0x160 has no bit above them
(R103). (DESIGN CHOICE: log 150.) -/
def Wave.pred (w : Wave) (p : Nat) : Lanes := if p = 0 then allLanes w.width else w.preds.getD p 0#64

/-- The active lanes of a split under a guard (R10, R37). -/
def guardLanes (w : Wave) (sp : Split) (g : Guard) : Lanes :=
  let p := w.pred g.pred.toNat
  sp.mask &&& (if g.neg then allLanes w.width &&& ~~~p else p)

/-! Reading operands. -/

/-- The lane a permute reads from (R38). -/
def permLane (p : Permute) (w lane : Nat) : Nat :=
  let k := p.k.toNat
  match p.pat with
  | .none => lane
  | .rotUp => (lane + w - k) % w
  | .rotDown => (lane + k) % w
  | .butterfly => lane ^^^ (2 ^ k)
  | .broadcast => k
  | .mirror => w - 1 - lane

/-- A permute's parameter is within the wave's width (R38). -/
def permFits (p : Permute) (w : Nat) : Bool :=
  match p.pat with
  | .none | .mirror => true
  | .butterfly => 2 ^ p.k.toNat < w
  | .rotUp | .rotDown | .broadcast => p.k.toNat < w

/-- A block scalar as a wave sees it (R147): its own latest write, or the latest write retired at least 2 clocks ago. -/
def State.blockScalar (s : State) (w : Wave) (i : Nat) : Val :=
  let own := w.held.foldl (fun r h => match h.effect with
    | .bscalar j v => if j = i then some v else r
    | _ => r) none
  match own with
  | some v => v
  | none =>
    match s.block? w.block with
    | none => .zero
    | some b =>
      ((b.bsc.getD i []).foldl (fun r e => if e.2.1 = w.wid ∨ e.1 + 2 ≤ s.clk then some e.2.2 else r) none).getD .zero

namespace Iss

/-- The specials (R146); field values 112 to 119. -/
def special (x : Iss) (n lane : Nat) : Val :=
  let b := x.s.block? x.w.block
  match n with
  | 113 => .ofNat lane false
  | 114 => .ofNat x.w.wid false
  | 115 => .ofNat (b.elim 0 (·.bx)) false
  | 116 => .ofNat (b.elim 0 (·.byy)) false
  | 117 => .ofNat (b.elim 0 (·.bz)) false
  | 118 => .ofNat x.width false
  | 119 => .ofNat x.clk false
  | _ => .zero

/-- The value of a scalar, or block scalar as 16 + its number, that the instruction reads (R147, R151). -/
def scalarNow (x : Iss) (i : Nat) : Val :=
  (x.w.scalarBefore x.sp.slot i).getD (if i < 16 then x.w.sregs.getD i .zero else x.s.blockScalar x.w (i - 16))

/-- A register of R31 in a lane; `off` counts registers from the field. -/
def reg (x : Iss) (f : Fld) (off lane : Nat) : Val :=
  let n := f.toNat
  if n < 96 then x.w.laneVal (x.w.source x.sp (n + off)) lane
  else if n < 112 then x.scalarNow (n - 96 + off)
  else if n < 120 then x.special n lane
  else x.scalarNow (n - 104)

/-- A register as a source operand, after its permute (R38): a lane outside the split gives 0; a scalar, a block scalar
and zero give their one value whatever the permute. -/
def src (x : Iss) (f : Fld) (off : Nat) (p : Permute) (lane : Nat) : Val :=
  let n := f.toNat
  if p.pat = .none then x.reg f off lane
  else if n < 96 ∨ (112 < n ∧ n < 120) then
    let l := permLane p x.width lane
    if hasLane x.sp.mask l then x.reg f off l else .zero
  else x.reg f off lane

/-- A 64-bit source (R32); zero reads 0. -/
def srcPair (x : Iss) (f : Fld) (p : Permute) (lane : Nat) : Val64 :=
  Val.join (x.src f 0 p lane) (x.src f 1 p lane)

/-- A predicate bit of a lane. -/
def predBit (x : Iss) (f : Fld) (lane : Nat) : Bool := hasLane (x.w.pred (f.toNat % 8)) lane

end Iss

/-- How a 64-bit operand takes a literal (R43, R167). -/
inductive Ext where
  | sign | zero | float
  deriving DecidableEq, Repr

/-- The literal as a 64-bit value. Of a binary32 literal that is a signalling NaN the value is the canonical quiet
NaN, with no flag raised (R43, R70, R167). (DESIGN CHOICE: log 147.) -/
def extend (e : Ext) (w : Word) : DWord :=
  match e with
  | .sign => w.signExtend 64
  | .zero => w.zeroExtend 64
  | .float => BitVec.ofNat 64 (fToF .f32 .f64 .home w.toNat).1

namespace Iss

/-- A, 32 bits. -/
def a32 (x : Iss) (g : Gen) (lane : Nat) : Val := x.src g.a 0 g.pa lane
/-- A, 64 bits. -/
def a64 (x : Iss) (g : Gen) (lane : Nat) : Val64 := x.srcPair g.a g.pa lane
/-- B, 32 bits, or the literal as it stands (R43). -/
def b32 (x : Iss) (g : Gen) (lane : Nat) : Val := if g.len = .lit then ⟨g.lit, false⟩ else x.src g.b 0 g.pb lane
/-- B, 64 bits, or the extended literal. -/
def b64 (x : Iss) (g : Gen) (e : Ext) (lane : Nat) : Val64 :=
  if g.len = .lit then ⟨extend e g.lit, false⟩ else x.srcPair g.b g.pb lane
/-- C, 32 bits and 64 bits. -/
def c32 (x : Iss) (g : Gen) (lane : Nat) : Val := x.src g.c 0 g.pc lane
def c64 (x : Iss) (g : Gen) (lane : Nat) : Val64 := x.srcPair g.c g.pc lane
/-- A operand at the width W selects. -/
def aW (x : Iss) (g : Gen) (wide : Bool) (lane : Nat) : Val64 := if wide then x.a64 g lane else (x.a32 g lane).wide
def bW (x : Iss) (g : Gen) (wide : Bool) (e : Ext) (lane : Nat) : Val64 :=
  if wide then x.b64 g e lane else (x.b32 g lane).wide
def cW (x : Iss) (g : Gen) (wide : Bool) (lane : Nat) : Val64 := if wide then x.c64 g lane else (x.c32 g lane).wide

/-- The address of a memory instruction in a lane (R41), with the poison of its base pair and B register. -/
def addr (x : Iss) (m : Mem) (lane : Nat) : Val64 :=
  let base := if m.a.toNat = 112 then (⟨0#64, false⟩ : Val64) else Val.join (x.reg m.a 0 lane) (x.reg m.a 1 lane)
  let off := x.reg m.b 0 lane
  let v := base.bits + off.bits.signExtend 64 + (if m.len = .lit then m.off.signExtend 64 else 0#64)
  ⟨v, base.poison || off.poison⟩

end Iss

/-! Writing results. -/

/-- Put an effect in the hold-back buffer of a wave (R419). -/
def Wave.hold (w : Wave) (no clk uid : Nat) (e : Effect) : Wave := { w with held := w.held ++ [⟨no, clk, uid, e, none⟩] }

/-- A scalar is written: no lookahead window hides it any more (R151). -/
def Wave.pastScalar (w : Wave) (i : Nat) : Wave :=
  { w with ahead := w.ahead.map fun a => { a with scal := eraseKey i a.scal } }

namespace Iss

/-- Write one register of a destination in the lanes given: a value register is renamed (R138), a scalar takes the lowest
active lane's result if that lane has one (R146), a block scalar is held until it retires (R147). (DEDUCED: log 21.) -/
def put (x : Iss) (w : Wave) (d : Fld) (off : Nat) (lanes : Lanes) (v : Nat → Val) : Wave :=
  let n := d.toNat
  if n < 96 then
    (w.writeName x.sp (n + off) x.clk (x.w.source x.sp (n + off)) 0
      (fun i => if hasLane lanes i then some (v i) else none)).2
  else if !(hasLane lanes x.first) then w
  else if n < 112 then
    { w.pastScalar (n - 96 + off) with
      sregs := updAt (n - 96 + off) (fun _ => v x.first) w.sregs, spend := eraseKey (n - 96 + off) w.spend }
  else
    ({ w.pastScalar (n - 104) with spend := eraseKey (n - 104) w.spend } : Wave).hold x.no x.clk 0 (.bscalar (n - 120) (v x.first))

/-- Write a pair: the low word in the even register (R4). -/
def putPair (x : Iss) (w : Wave) (d : Fld) (lanes : Lanes) (v : Nat → Val64) : Wave :=
  x.put (x.put w d 0 lanes (fun i => (v i).lo)) d 1 lanes (fun i => (v i).hi)

/-- Write a destination of the width W selects. -/
def putW (x : Iss) (w : Wave) (d : Fld) (wide : Bool) (lanes : Lanes) (v : Nat → Val64) : Wave :=
  if wide then x.putPair w d lanes v else x.put w d 0 lanes (fun i => (v i).lo)

/-- Write predicate bits of lanes (R166). -/
def putPred (_ : Iss) (w : Wave) (d : Fld) (lanes bits : Lanes) : Wave :=
  { w with preds := updAt (d.toNat % 8) (fun p => (p &&& ~~~lanes) ||| (bits &&& lanes)) w.preds }

/-- The instruction done with its wave changed. -/
def done (x : Iss) (w : Wave) : Res := .ok (x.s.putWave w)

/-- A trap delivered at issue that changes nothing else. -/
def raise (x : Iss) (f : Fail) : Res := .trap x.s f
/-- A Reported trap: nothing of the instruction takes effect (R97, R428). -/
def report (x : Iss) (f : Fail) : Res := .due x.s f

/-- POISON in the lanes given (R428). -/
def poison (x : Iss) (lanes : Lanes) (faddr : DWord) : Res := x.report ⟨.poison, lanes, faddr, none⟩

/-- The lanes of the active set in which a test holds. -/
def lanesWhere (x : Iss) (f : Nat → Bool) : Lanes := laneSet (x.lanes.filter f)

end Iss

/-! Failures of lanes (R97, R261). -/

/-- What one lane raises. -/
structure LaneFail where
  cause : Cause
  faddr : DWord
  einfo : Option DWord
  deriving DecidableEq, Repr

/-- What an instruction raises when lanes fail: the cause of the lowest failing lane, its address and detail, and every
lane that raises that cause (R97). -/
def Iss.fails (x : Iss) (f : Nat → Option LaneFail) : Option Fail :=
  match (x.lanes.filterMap fun i => (f i).map (i, ·)).head? with
  | none => none
  | some (_, e) => some ⟨e.cause, x.lanesWhere fun i => (f i).any (·.cause == e.cause), e.faddr, e.einfo⟩

/-- A failure with the delivery of its cause (R98): POISON and the remote causes are Reported, data page faults and data
PROTECTION have Region delivery, every other is delivered at issue. -/
def Iss.failWith (_ : Iss) (s : State) (f : Fail) : Res :=
  match f.cause with
  | .poison | .remoteIndeterminate | .remoteDenied => .due s f
  | .dataPage | .protection => .region s f []
  | _ => .trap s f

/-! Checks at issue (R38, R51). -/

namespace Iss

/-- No permute parameter is beyond the wave's width. -/
def permutesFit (x : Iss) : Bool := (encPermutes x.enc).all (permFits · x.width)

/-- The window and declared-count checks of R50. -/
def operandsFit (x : Iss) : Bool :=
  let size := (x.w.window? x.sp.win).elim 0 (·.size)
  (encUses x.enc).all fun u => match u.kind with
    | .tile => u.fld.toNat < x.w.decl.tiles
    | .acc => u.fld.toNat < x.w.decl.accs
    | _ => u.names.all (· < size)

/-- A scalar, or block scalar as 16 + its number, whose in-flight writer is outside its lookahead window (R151). -/
def scalarPending (x : Iss) (i : Nat) : Bool :=
  match lookupKey i x.w.spend with
  | none => false
  | some uid => (x.w.op? uid).isSome && (x.w.scalarBefore x.sp.slot i).isNone

/-- Some register the instruction reads, or keeps lanes of, is still to be written. -/
def operandPending (x : Iss) : Bool :=
  (encUses x.enc).any fun u =>
    let reads := u.src || (isDest u.kind && x.act != allLanes x.width)
    (reads && u.kind.isValueSource || (reads && isDest u.kind)) &&
      (u.names.any (x.w.isPending x.sp ·) || u.scalars.any x.scalarPending)

/-- The index of a lane of an LDA or STA, with its poison (R205). -/
def arrIndex (x : Iss) (g : Gen) (i : Nat) : Nat × Bool :=
  let a := x.a32 g i
  let b := x.b32 g i
  ((a.bits + b.bits).toNat, a.poison || b.poison)

/-- The words of its array a lane names. -/
def arrWords (x : Iss) (g : Gen) (i : Nat) : List Nat := natsFrom (x.arrIndex g i).1 (if g.sub.getLsbD 0 then 2 else 1)

/-- The checks of an LDA or STA: the bound, then a poisoned index (R205, R206). -/
def arrFail (x : Iss) (g : Gen) (i : Nat) : Option LaneFail :=
  if (x.arrWords g i).any (x.w.decl.lanearray ≤ ·) then some ⟨.operand, 0, some 0x10⟩
  else if (x.arrIndex g i).2 then some ⟨.poison, 0, none⟩
  else none

/-- An STA whose undo register is still to be taken: it writes a word that has no pre-image yet (R148, R206). -/
def wantsUndo (x : Iss) : Bool := match x.enc with
  | .gen op g =>
    let known := (x.w.ckpts.getLast?).elim [] (·.laneUndo)
    op == 0x4A#7 && x.lanes.all (fun i => (x.arrFail g i).isNone) &&
      x.lanes.any fun i => (x.arrWords g i).any fun j => !(known.any fun u => u.word == j && u.lane == i)
  | _ => false

/-- How many value registers the instruction allocates. -/
def allocs (x : Iss) : Nat :=
  (encUses x.enc).foldl (fun n u => if isDest u.kind then n + u.names.length else n) (if x.wantsUndo then 1 else 0)

end Iss

/-- The registers of a wave that count against it (R144). -/
def Wave.heldRegs (w : Wave) : Nat := (w.regs.filter (fun r => !r.spilled)).length

/-- The words of a quadrant's pool that no floor reserves and no wave borrows (R144). -/
def State.poolFree (s : State) (core quad : Nat) : Int :=
  s.waves.foldl (fun (n : Int) w =>
    if w.onCore && w.core == core && w.quad == quad && w.st != .ended && w.st != .saved then
      n - ((w.decl.regfloor + w.decl.lanearray + (w.heldRegs - w.decl.regfloor)) * w.width : Nat)
    else n) 65536

/-- Whether a wave's floor and the pool cannot supply n more registers (R144). -/
def State.poolShort (s : State) (w : Wave) (n : Nat) : Bool :=
  let before := w.heldRegs - w.decl.regfloor
  let after := w.heldRegs + n - w.decl.regfloor
  before < after && decide (s.poolFree w.core w.quad < (((after - before) * w.width : Nat) : Int))

/-- The lines a message in transit is a request for (R283). -/
def MsgKind.lines : MsgKind → List Loc
  | .read l _ _ _ | .reply l _ _ _ => [l.line]
  | .write op _ _ | .atomic _ op _ _ _ | .redk _ op _ _ => [op.loc.line]
  | .writeback _ l _ _ _ _ _ => [l.line]
  | _ => []

/-- The requests of an instruction that are still outstanding: of those it took, one for each line with a part held,
on its way or unanswered, and one for each lane at a rank (R17, R283). (DEDUCED: log 137.) -/
def State.opReqs (s : State) (w : Wave) (o : Op) : Nat :=
  if o.done then 0
  else
    let held := w.held.filter (·.uid == o.uid)
    let lines := (o.pieces.filter (!·.done)).map (·.loc.line) ++ held.flatMap (fun h => match h.effect with
        | .stores ops _ _ | .homeOps _ ops _ _ => ops.map (·.loc.line)
        | _ => []) ++
      (s.msgs.filter fun m => m.wave == w.id && m.uid == o.uid).flatMap (·.kind.lines)
    let out := s.link.out.filter fun t => t.wave == w.id && t.uid == o.uid
    let far := held.foldl (fun n h => match h.effect with
      | .remote reqs => n + reqs.length
      | .coll _ | .putf _ _ _ | .mailSend _ _ | .mailRel _ _ _ _ _ => n + o.reqs
      | _ => n) 0 + (out.filter fun t => t.parts.isEmpty || t.req.kind == .putfFlag).length +
        (dedup ((out.filter fun t => !t.parts.isEmpty && t.req.kind != .putfFlag).map (·.parts))).length +
        (s.link.sendWait.filter fun m => m.wave == w.id && m.uid == o.uid).length +
        (if out.any (·.req.kind == .slotRelease) then o.reqs else 0)
    min o.reqs ((dedup lines).length + far)

/-- The lines of a wave's stores that are still to be performed and whose instruction is none of its own any more:
elements that a CSTORE kept, effects of a wave that has been killed (R276, R283). -/
def State.keptLines (s : State) (w : Wave) : List Loc :=
  let gone (uid : Nat) : Bool := uid != 0 && !(w.ops.any fun o => o.uid == uid && !o.done)
  dedup ((w.held.filter fun h => gone h.uid).flatMap (fun h => match h.effect with
      | .stores ops _ _ | .homeOps _ ops _ _ => ops.map (·.loc.line)
      | _ => []) ++
    (s.msgs.filter fun m => m.wave == w.id && gone m.uid).flatMap (·.kind.lines))

/-- The requests a core has outstanding (R17): those of its waves' instructions, the counters they wait on, and the lines
its PREFs fill. (DEDUCED: log 137.) -/
def State.coreReqs (s : State) (core : Nat) : Nat :=
  let own := s.waves.foldl (fun n w =>
    if w.core == core && (w.onCore || !w.held.isEmpty) then
      (s.keptLines w).length + w.ops.foldl (fun n o => n + s.opReqs w o) n + (w.splits.filter fun p => p.wait.any fun t => t.op == 0x59).length
    else n) 0
  own + (dedup (s.msgs.flatMap fun m => match m.kind with
    | .read l c _ _ | .reply l _ _ c => if m.uid == 0 && c == core then [l.line] else []
    | _ => [])).length

namespace Iss

/-- A result that comes later would go to a scalar that another still has to come to. (DESIGN CHOICE: log 139.) -/
def scalarBusy (x : Iss) : Bool :=
  let late := match x.enc with
    | .gen op _ => op == 0x38#7 || op == 0x39#7 || 0x50 ≤ op.toNat
    | _ => true
  late && (encUses x.enc).any fun u => isDest u.kind && u.scalars.any fun i =>
    (lookupKey i x.w.spend).any fun uid => (x.w.op? uid).any (!·.done)

/-- An acquire of the wave, of a FENCE too, is not complete: at gang scope or wider no instruction issues before it is
(R242), else no access (R244). Nor does an access issue while a FENCE of the wave waits (R278), or a sequentially
consistent one before an earlier one is complete (R297). (DEDUCED: log 161.) -/
def ordered (x : Iss) : Bool :=
  let fences := x.w.splits.filterMap fun p => p.wait.bind fun t => match t.kind with
    | .fence _ _ _ => some t
    | _ => none
  x.w.ops.any (fun o => o.acq.any Scope.gangUp && !o.done) || fences.any (fun t => t.acq.any Scope.gangUp) ||
    (match x.enc with
      | .mem _ m => !fences.isEmpty || x.w.ops.any (fun o => o.acq.isSome && !o.done) ||
          (m.order == .seqCst && x.w.ops.any (fun o => o.sc && !o.done))
      | _ => false)

/-- What stalls the instruction before it looks at its effect: pending operands, an earlier access it is ordered
after, and with an active lane a full path counter (R152) and the pool (R144). What a spilled window or a restored
checkpoint names is refilled first (R145). -/
def blocked (x : Iss) : Bool :=
  x.w.refill || (x.w.window? x.sp.win).any (·.spilled) || x.operandPending || x.scalarBusy || x.ordered ||
    (x.act != 0#64 &&
      ((match pathOf (encOp x.enc) with
        | some p => x.w.counter p ≥ 255
        | none => false) ||
        x.s.poolShort x.w x.allocs))

/-- REGION and UIRET act whatever their guard (R52). -/
def ignoresGuard (x : Iss) : Bool := encOp x.enc == 0x08#7 || encOp x.enc == 0x78#7

/-- The checks in the order of R51, then the body. (DEDUCED: log 22.) -/
def run (x : Iss) (body : Iss → Res) : Res :=
  if !x.permutesFit then x.raise ⟨.illegal, x.sp.mask, 0, none⟩
  else if encOp x.enc == 0x0F#7 && !x.w.inSolo then x.raise ⟨.privilege, x.sp.mask, 0, none⟩
  else if !x.operandsFit then x.raise ⟨.operand, x.sp.mask, 0, none⟩
  else if x.blocked then .stall x.s
  else if x.act == 0#64 && !x.ignoresGuard then .ok x.s
  else body x

end Iss

/-! Splits after an issue (R134, R135). -/

/-- Whether two splits merge. (DEDUCED: log 138.) -/
def mergeable (a b : Split) : Bool := a.slot < b.slot && a.pc == b.pc && a.win == b.win

/-- What the merged split waits in: a block barrier that one of the two has arrived at; any other waiting instruction
issues again for all its lanes. (DEDUCED: log 138.) -/
def mergedWait (a b : Split) : Option Wait := (a.wait.filter (·.keeps)).orElse fun _ => b.wait.filter (·.keeps)

/-- The first pair of splits that merges. -/
def mergePair (l : List Split) : Option (Split × Split) :=
  (l.flatMap (fun a => (l.filter (mergeable a)).map (a, ·))).head?

/-- The parked lanes with the lowest PC, of the highest window at it (R135). -/
def lowestParked : List Parked → Option Parked
  | [] => none
  | p :: ps =>
    match lowestParked ps with
    | none => some p
    | some q =>
      if p.pc.toNat < q.pc.toNat ∨ (p.pc = q.pc ∧ q.win < p.win) then some p
      else if p.pc = q.pc ∧ p.win = q.win then some { q with mask := q.mask ||| p.mask }
      else some q

def freeSlots (l : List Split) : List Nat := [0, 1, 2, 3].filter (fun i => !(l.any (·.slot == i)))

namespace Wave

/-- Splits in ascending slot order. -/
def sortSplits (w : Wave) : Wave :=
  { w with splits := [0, 1, 2, 3].flatMap (fun i => w.splits.filter (·.slot == i)) }

def dropParked (w : Wave) (p : Parked) : Wave :=
  { w with parked := w.parked.filter (fun q => !(q.pc == p.pc && q.win == p.win)) }

/-- End the lookahead windows of a slot (R151). -/
def endLook (w : Wave) (slot : Nat) : Wave := { w with ahead := w.ahead.filter (·.slot != slot) }

/-- One adjustment of R135: a merge, else an unpark, else a swap. Of two splits at the highest PC a swap parks the one
in the higher slot. (DESIGN CHOICE: log 169.) -/
def adjustOnce (w : Wave) (clk : Nat) : Option Wave :=
  match mergePair w.splits with
  | some (a, b) =>
    let w := (w.endLook a.slot).endLook b.slot
    some { w with splits := (w.splits.filter (·.slot != b.slot)).map (fun x =>
      if x.slot == a.slot then
        { x.renew (max a.notBefore b.notBefore) with mask := a.mask ||| b.mask, wait := mergedWait a b }
      else x) }
  | none =>
    match lowestParked w.parked with
    | none => none
    | some p =>
      match freeSlots w.splits with
      | i :: _ => some { (w.dropParked p).endLook i with splits := w.splits ++ [Split.fresh i p.pc p.mask p.win clk] }
      | [] =>
        if w.splits.all (fun x => p.pc.toNat < x.pc.toNat) then
          let top := w.splits.foldl (fun (t : Split) x => if t.pc.toNat < x.pc.toNat ∨ (t.pc = x.pc ∧ t.slot < x.slot) then x else t)
            (w.splits.headD (Split.fresh 0 0 0 0 0))
          let w := (w.dropParked p).endLook top.slot
          some { w with
            splits := w.splits.map (fun x => if x.slot == top.slot then Split.fresh top.slot p.pc p.mask p.win clk else x)
            parked := w.parked ++ [⟨top.pc, top.mask, top.win⟩] }
        else none

/-- The adjustments of R135, repeated until none applies. -/
def adjust (w : Wave) (clk : Nat) : Nat → Wave
  | 0 => w
  | fuel + 1 =>
    match w.adjustOnce clk with
    | some w => w.adjust clk fuel
    | none => w

/-- Empty splits are gone and their lookahead with them (R133, R151), the adjustments are made, and windows nothing holds
are popped (R143). -/
def settle (w : Wave) (clk : Nat) : Wave :=
  let splits := w.splits.filter (·.mask != 0#64)
  let w : Wave := { w with
    splits, parked := w.parked.filter (·.mask != 0#64), ahead := w.ahead.filter fun a => splits.any (·.slot == a.slot) }
  ((w.adjust clk 256).sortSplits).trimWindows clk 64

/-- Lanes of one target joined (R134). -/
def joinTargets : List (DWord × Lanes × Nat) → List (DWord × Lanes × Nat)
  | [] => []
  | t :: ts =>
    let r := joinTargets ts
    if r.any (fun u => u.1 == t.1 && u.2.2 == t.2.2) then
      r.map (fun u => if u.1 == t.1 && u.2.2 == t.2.2 then (u.1, u.2.1 ||| t.2.1, u.2.2) else u)
    else t :: r

/-- Insert a target by ascending PC, the higher window first at one PC. -/
def insertTarget (t : DWord × Lanes × Nat) : List (DWord × Lanes × Nat) → List (DWord × Lanes × Nat)
  | [] => [t]
  | u :: us =>
    if t.1.toNat < u.1.toNat ∨ (t.1 = u.1 ∧ u.2.2 < t.2.2) then t :: u :: us else u :: insertTarget t us

/-- Divide a split among its targets (R134): the lowest keeps the slot, the next take free slots, the rest park. -/
def divide (w : Wave) (sp : Split) (targets : List (DWord × Lanes × Nat)) (clk : Nat) : Wave :=
  let ts := ((joinTargets targets).filter (·.2.1 != 0#64)).foldl (fun l t => insertTarget t l) []
  let slots := sp.slot :: freeSlots w.splits
  let placed := ts.zip slots
  let rest := ts.drop slots.length
  { w with
    ahead := w.ahead.filter fun a => a.slot == sp.slot || w.splits.any (·.slot == a.slot)
    splits := w.splits.filter (·.slot != sp.slot) ++ placed.map (fun (t, i) => Split.fresh i t.1 t.2.1 t.2.2 clk)
    parked := w.parked ++ rest.map (fun t => ⟨t.1, t.2.1, t.2.2⟩) }

/-- Free the names a list gives where they still map the register they mapped (R33, R139). (DEDUCED: log 22.) -/
def freeMarks (w : Wave) (win clk : Nat) (l : List (Nat × Nat)) : Wave :=
  l.foldl (fun w p => if w.phys? win p.1 = some p.2 then w.freeName win p.1 clk else w) w

end Wave

/-! The end of an issue. -/

/-- The wait is inside a waiting instruction (R92): a FENCE, a tlbsync and a biasset are none. -/
def WaitKind.counts : WaitKind → Bool
  | .fence _ _ _ | .tlb _ | .bias _ | .evict _ | .suspend _ => false
  | _ => true

namespace Iss

/-- The names the last-read marks free, with their registers: none unless the split holds every lane (R139).
(DESIGN CHOICE: log 158.) -/
def marks (x : Iss) : List (Nat × Nat) :=
  if x.sp.mask != x.w.live || x.act == 0#64 then []
  else (encUses x.enc).flatMap (fun u =>
    if u.mark then u.names.filterMap (fun n => (x.w.phys? x.sp.win n).map (n, ·)) else [])

/-- The lookahead windows after an issue: one fewer instruction in those of the split, and the instruction's own where
it has none for its registers. A window that the instruction restores is as it was (R45, R100, R151, R412). -/
def look (x : Iss) (w : Wave) : List Ahead :=
  let own : List Ahead :=
    if encLook x.enc = 0 || w.ahead.any (·.uid == x.uid) || (w.op? x.uid).isNone then []
    else [⟨x.uid, x.sp.slot, encLook x.enc, [], []⟩]
  ((w.ahead.map fun a => if a.slot == x.sp.slot && x.w.ahead.any (·.uid == a.uid) then { a with left := a.left - 1 } else a).filter
    (·.left != 0)) ++ own

/-- The bookkeeping of an issue: issue number, lookahead of the split's earlier instructions, yields (R151, R161). -/
def count (x : Iss) (w : Wave) : Wave :=
  { w with
    issueNo := x.no, nextUid := x.uid + 1, lastIssue := x.clk, yielded := encOp x.enc == 0x0B#7 && x.act != 0#64,
    sinceCk := w.sinceCk + (if x.width = 64 then 2 else 1) * issueClocks x.enc,
    ahead := x.look w
    splits := w.splits.map (fun p =>
      if p.slot == x.sp.slot then { p with ready := none, raised := none, stalled := false } else { p with yield := none }) }

/-- The quadrant is busy for the instruction's issue clocks (R129, R170). -/
def occupy (x : Iss) (s : State) : State :=
  s.modQuad x.w.quadNo fun q => { q with
    busyUntil := x.clk + (if x.width = 64 then 2 else 1) * issueClocks x.enc }

/-- WAITCLK restarts (R93). -/
def restartWait (x : Iss) (s : State) : State := s.resetWait x.w.ctx

/-- The trap of a failure: a cause detail the spec does not give is a free value. (DESIGN CHOICE: log 39.) -/
def trapOf (f : Fail) (d : Delivery) (s : State) : Trap × State :=
  match f.einfo with
  | some e => (⟨f.cause, d, f.lanes, f.faddr, e⟩, s)
  | none =>
    let (e, s) := s.draw
    (⟨f.cause, d, f.lanes, f.faddr, e⟩, s)

/-- The next PC (R28). -/
def nextPc (x : Iss) : DWord := x.pc + BitVec.ofNat 64 x.len

/-- Finish an instruction that issued: marks freed, PC advanced unless the control is set, splits settled, the region
ended where the instruction ends it. -/
def complete (x : Iss) (s : State) (advance : Bool) : State :=
  let s := s.modWave x.w.id fun w =>
    let w := x.count w
    let w := w.freeMarks x.sp.win x.clk x.marks
    let w := if advance then w.modSplit x.sp.slot fun p => { p with pc := x.nextPc } else w
    let w := w.settle x.clk
    if endsRegion x.enc && (x.act != 0#64 || x.ignoresGuard) then w.newRegion x.clk else w
  { x.occupy (x.restartWait s) with cur := none }

/-- The state after an instruction. Of solo code no region runs again: its page fault freezes the wave (R101). -/
def finish (x : Iss) : Res → State
  | .ok s => x.complete s true
  | .jump s => x.complete s false
  | .wait s t =>
    let s := s.modWave x.w.id fun w =>
      ((x.count w).modSplit x.sp.slot fun p => { p with wait := some { t with marks := x.marks } }).settle x.clk
    { x.occupy (if t.kind.counts then s else x.restartWait s) with cur := none }
  | .stall s => s
  | .trap s f =>
    let (t, s) := trapOf f .issue s
    let s := s.modWave x.w.id fun w => { w with issueNo := x.no, lastIssue := x.clk }
    { x.occupy (s.takeTrap x.w.id x.sp.slot ⟨t, x.pc, x.pc, x.no, x.clk⟩) with cur := none }
  | .due s f =>
    let (t, s) := trapOf f .reported s
    let x' : Iss := { x with act := 0#64 }
    x'.complete (s.modWave x.w.id fun w => { w with due := w.due ++ [⟨t, 0#64, x.pc, x.no, x.clk⟩] }) true
  | .region s f kept =>
    if !x.w.inSolo && x.w.accstLeft x.no then s else
    let (t, s) := trapOf f .region s
    let s := s.modWave x.w.id fun w => { w with issueNo := x.no, lastIssue := x.clk }
    let s := if x.w.inSolo then
        (s.modWave x.w.id fun w => { w with held := w.held ++ kept }).takeTrap x.w.id x.sp.slot ⟨t, x.pc, x.pc, x.no, x.clk⟩
      else s.regionReplay x.w.id x.sp.slot x.no x.pc t kept
    { x.occupy s with cur := none }

end Iss

/-- Leave a waiting instruction: its marks are freed, the PC advances, the splits settle, WAITCLK restarts (R92, R93).
The split issues again no sooner than `soon`. -/
def State.leaveWaitAt (s : State) (id slot soon : Nat) : State :=
  match s.wave? id with
  | none => s
  | some w =>
    match w.split? slot with
    | none => s
    | some sp =>
      match sp.wait with
      | none => s
      | some t =>
        let s := s.modWave id fun w =>
          ((w.freeMarks sp.win s.clk t.marks).modSplit slot fun p =>
            { p.renew soon with wait := none, pc := sp.pc + BitVec.ofNat 64 t.len }).settle s.clk
        let s := s.modWave id fun w => { w with took := w.took.filter (· != (sp.win, sp.pc)) }
        s.resetWait w.ctx

def State.leaveWait (s : State) (id slot : Nat) : State := s.leaveWaitAt id slot s.clk

/-- The instruction the machine issues, with its lanes. -/
def State.issuing (s : State) (i : Instr) : Option Iss :=
  match s.cur with
  | none => none
  | some c =>
    match s.wave? c.wave, i.enc with
    | some w, some e =>
      match w.split? c.slot with
      | some sp => some ⟨s, w, sp, guardLanes w sp (encGuard e), c.pc, c.len, e⟩
      | none => none
    | _, _ => none

/-- The meaning of a wave's instruction: its checks, its body, its end. (DESIGN CHOICE: log 12.) -/
def issueWave (i : Instr) (body : Iss → Res) (s : State) : Host.Outcome State Fault Refusal :=
  match s.issuing i with
  | none => .fault .noIssuer
  | some x => .next (x.finish (x.run body))

end Sys2Proof.Machine
end

