-- ==== Sys2Proof/Machine/Fetch.lean ====
section
/-! DEFINITION. Which split issues (R130 to R132), the fetch of its instruction (R51 to R53), readiness (R130), and the
passing of a clock. -/

namespace Sys2Proof.Machine

/-- The context a local virtual address of a wave translates through, and the address with bit 56 cleared (R100, R102).
None where a service wave uses bit 56 with no record of another context. -/
def State.vaContext (s : State) (w : Wave) (va : Nat) : Option (Nat × Nat) :=
  if !w.inSolo then some (w.ctx, va)
  else if !va.testBit 56 then some (0, va)
  else
    let va := va - 2 ^ 56
    if !w.service then some (w.ctx, va)
    else
      let ev := w.sys.event.toNat
      if ev = 0 then none
      else
        let ring := (List.range 64).find? (fun c =>
          let k := s.ctx c
          (c == 0 || k.st != .free) && k.evbase ≤ ev && ev < k.evbase + 32 * k.evcount)
        match ring with
        | none => none
        | some 0 =>
          if (s.pnat (ev + 2) 1).testBit 3 then
            let c := s.pnat (ev + 4) 4 % 64
            if c = 0 then none else some (c, va)
          else none
        | some c => some (c, va)

/-- What a fetch gives. -/
inductive Fetched where
  | words (bs : List Byte) (s : State)
  | fail (f : Fail) (s : State)
  | stall (s : State)

/-- Fetch one word at a virtual address. `report` is the address a fault names. -/
def State.fetchWord (s : State) (w : Wave) (sp : Split) (va : Nat) : Fetched :=
  let report : DWord := BitVec.ofNat 64 va
  if va / 2 ^ 62 = 3 then .fail ⟨.address, sp.mask, report, some 1⟩ s
  else if va / 2 ^ 62 ≠ 0 then .fail ⟨.address, sp.mask, report, none⟩ s
  else if va / 2 ^ 57 ≠ 0 then .fail ⟨.address, sp.mask, report, some 2⟩ s
  else if va % 4 ≠ 0 then .fail ⟨.align, sp.mask, report, none⟩ s
  else
    match s.vaContext w va with
    | none => .fail ⟨.address, sp.mask, report, some 14⟩ s
    | some (c, va) =>
      match s.translate (some w.core) (State.dieOf w.core) c va Need.exec with
      | .stall s => .stall s
      | .fault f s => .fail ⟨f.cause, sp.mask, report, some (f.einfo false 0)⟩ s
      | .ok l s =>
        match s.homeNeeds l 4 (some w.core) true with
        | some s => .stall s
        | none =>
          let s := s.meetErrors l 4
          .words ((s.bytesAt l 4).map (·.byte)) s

/-- Fetch the words after word 0 as its LEN asks (R28, R53). -/
def State.fetchMore (s : State) (w : Wave) (sp : Split) (va : Nat) (got : List Byte) : Nat → Fetched
  | 0 => .words got s
  | n + 1 =>
    match s.fetchWord w sp va with
    | .words bs s => s.fetchMore w sp (va + 4) (got ++ bs) n
    | r => r

/-- Fetch an instruction's bytes (R53). -/
def State.fetch (s : State) (w : Wave) (sp : Split) : Fetched :=
  match s.fetchWord w sp sp.pc.toNat with
  | .words bs s =>
    let w0 := BitVec.ofNat 32 (leNat bs)
    s.fetchMore w sp (sp.pc.toNat + 4) bs ((lenOf w0).words - 1)
  | r => r

/-- The split may issue: it is not inside an instruction, and its time has come. -/
def Split.open (p : Split) (clk : Nat) : Bool := p.wait.isNone && p.notBefore ≤ clk

/-- What a candidate split offers: an instruction to run, a trap taken by its fetch or its decoding, or nothing. -/
inductive Offer where
  | run (i : Instr) (s : State)
  | trapped (s : State)
  | stall (s : State)

/-- The fetch and the decoding of a split's next instruction (R51): a failing check takes its trap at once. -/
def State.offer (s : State) (id slot : Nat) : Offer :=
  match s.wave? id with
  | none => .stall s
  | some w =>
    match w.split? slot with
    | none => .stall s
    | some sp =>
      if !sp.open s.clk then .stall s else
      let trap (s : State) (f : Fail) : State :=
        let (t, s) := Iss.trapOf f .issue s
        let s := s.modWave id fun w => { w with issueNo := w.issueNo + 1, lastIssue := s.clk }
        s.takeTrap id slot ⟨t, sp.pc, sp.pc, w.issueNo + 1, s.clk⟩
      match s.fetch w sp with
      | .stall s => .stall s
      | .fail f s => .trapped (trap s f)
      | .words bs s =>
        match decodeBytes bs with
        | .error _ => .trapped (trap s ⟨.illegal, sp.mask, 0#64, none⟩)
        | .ok (i, _) => .run i { s with cur := some ⟨id, slot, sp.pc, bs.length⟩ }

/-- A due Reported trap of the wave was raised before its frozen splits were trapped (R99). -/
def Wave.dueOld (w : Wave) (r : Raised) : Bool := w.frozen.any (r.no ≤ ·.no)

/-- What is done with a due trap now (R99, R101, R451): it is taken by a running wave, recorded by a trapped one that has
none recorded, written as an event by an Exited one. -/
def Wave.dueNow (w : Wave) (r : Raised) : Bool := match w.st with
  | .exited => true
  | .resident => !w.stopping && w.onCore
  | .solo => w.service || !w.dueOld r || w.sys.pend == 0#64
  | .held => w.dueOld r && w.sys.pend == 0#64 && w.frozen.any (fun f => !f.inSolo)
  | _ => false

/-- The wave may issue (R130): on its core, Resident or Solo, not stopping for a save or a rollback, and with no trap due,
which would come first (R99). -/
def Wave.issues (w : Wave) : Bool :=
  w.onCore && (w.st == .resident || w.st == .solo) && !w.stopping && !(w.due.any w.dueNow)

/-- The candidate of a wave (R132): the lowest PC among the splits that are not inside a waiting instruction, then the
lower slot; a split that yielded is out for 64 clocks (R161). -/
def Wave.candidate (w : Wave) (clk : Nat) : Option Split :=
  (w.splits.filter (fun p => !(p.wait.any (·.kind.counts)) && (match p.yield with
    | none => true
    | some c => c + 64 ≤ clk))).foldl (fun (b : Option Split) p => match b with
    | none => some p
    | some q => if p.pc.toNat < q.pc.toNat ∨ (p.pc = q.pc ∧ p.slot < q.slot) then some p else some q) none

/-- Sort by a key, stable. -/
def insertBy {α : Type} (k : α → Nat) (a : α) : List α → List α
  | [] => [a]
  | b :: r => if k a < k b then a :: b :: r else b :: insertBy k a r
def sortBy {α : Type} (k : α → Nat) (l : List α) : List α := l.foldl (fun r a => insertBy k a r) []

/-- The splits a quadrant's scheduler tries, in its order: raised splits as raised, then each wave's candidate by PRIO,
waves that yielded last, then by age (R130, R131, R161). (DEDUCED: log 130.) -/
def State.candidates (s : State) (q : Nat) : List (Nat × Nat) :=
  let ws := s.waves.filter (fun w => w.quadNo == q && w.issues)
  let raised := ws.flatMap (fun w => w.splits.filterMap (fun p => match p.raised with
    | some r => if p.open s.clk then some (r, w.age, w.id, p.slot) else none
    | none => none))
  let raised := sortBy (fun x => x.1) (sortBy (fun x => x.2.1) raised)
  let by0 := sortBy (fun w => w.age) ws
  let by1 := sortBy (fun (w : Wave) => if w.yielded then 1 else 0) by0
  let by2 := sortBy (fun (w : Wave) => 7 - s.prio w.ctx) by1
  raised.map (fun x => (x.2.2.1, x.2.2.2)) ++
    by2.filterMap (fun w => (w.candidate s.clk).map (fun p => (w.id, p.slot)))

/-- Whether a split may be ready, its candidacy apart (R130): its instruction can be fetched, nothing it waits for
before its effect stalls it, and the clock did not find it stalled. -/
def State.splitReady (s : State) (w : Wave) (p : Split) : Bool :=
  w.issues && p.open s.clk && !p.stalled &&
    (match s.offer w.id p.slot with
      | .stall _ => false
      | .trapped _ => true
      | .run i s => match s.issuing i with
        | none => false
        | some x => !(x.permutesFit && x.operandsFit && x.blocked))

/-- The CPEEK of which the split would read a destination that is still to be written: a register or a scalar (R353). -/
def State.peekOf (s : State) (w : Wave) (p : Split) : Option Op :=
  let peeks := w.ops.filter (fun o => !o.done && (match o.kind with
    | .cpeek _ _ _ => true
    | _ => false))
  if peeks.isEmpty || p.wait.isSome then none
  else match s.offer w.id p.slot with
    | .run i s => match s.issuing i with
      | some x =>
        let late := (encUses x.enc).flatMap fun u =>
          u.names.filterMap (fun n => ((x.w.source x.sp n).bind x.w.reg?).map (·.writer)) ++
            (u.scalars.filter x.scalarPending).filterMap fun i => lookupKey i x.w.spend
        if x.operandPending then peeks.find? fun o => late.contains o.uid else none
      | none => none
    | _ => none

/-- The split waits inside a CPEEK whose destination it would read (R353). -/
def State.peekBlocked (s : State) (w : Wave) (p : Split) : Bool := (s.peekOf w p).isSome

/-- Every lane of the wave is inside a waiting instruction or has exited (R93). -/
def State.allWaiting (s : State) (w : Wave) : Bool :=
  w.parked.isEmpty && w.splits.all (fun p => p.wait.any (·.kind.counts) || s.peekBlocked w p)

/-- Whether a context's waiting clock runs (R93). -/
def State.waitRuns (s : State) (c : Nat) : Bool :=
  let ws := s.waves.filter (fun w => w.ctx == c && w.st != .ended && !w.service)
  (match (s.ctx c).st with
    | .resident | .partialSt | .ready => true
    | _ => false) &&
    ws.all (fun w => w.st == .exited || (w.st != .held && s.allWaiting w)) && ws.any (fun w => w.st != .exited)

/-- What stands in CLAIM is seen, and takes effect for events raised 2 µs (4,000 clocks) or more later (R84).
(DEDUCED: log 132.) -/
def State.claimTick (s : State) (c : Nat) : State :=
  let k := s.ctx c
  if k.st = .free then s
  else match s.homeNeeds ⟨.dev, s.entryAddr c + 0x34⟩ 4 none true with
  | some s => s
  | none =>
    let s := s.meetErrors ⟨.dev, s.entryAddr c + 0x34⟩ 4
    let v := s.entry c 0x34 4
    let seen := if v = (k.claimNext.getLast?.elim k.claim (·.2)) then k.claimNext else k.claimNext ++ [(s.clk, v)]
    let (due, later) := seen.partition fun e => e.1 + 4000 ≤ s.clk + 1
    if due.isEmpty ∧ seen = k.claimNext then s
    else s.modCtx c fun k => { k with claim := due.getLast?.elim k.claim (·.2), claimNext := later }

end Sys2Proof.Machine
end

