-- ==== Sys2Proof/Machine/Late.lean ====
section
/-! DEFINITION. Instructions in flight: their destinations at issue, the delivery of their results, their completion
(R138, R150 to R152). -/

namespace Sys2Proof.Machine

/-- An instruction in flight, before its destinations are known. -/
def Iss.opOf (x : Iss) (kind : OpKind) : Op :=
  { uid := x.uid, no := x.no, clk := x.clk, slot := x.sp.slot, pc := x.pc, left := encLook x.enc, kind, dests := [],
    lanes := x.act, pieces := [], waits := 0, path := pathOf (encOp x.enc), acq := none, sc := false, cache := .dflt,
    global := false, region := x.w.regionNo, reqs := 0, flags := [], result := [], rows := [], olds := [], refused := [], done := false }

namespace Wave

/-- Give an in-flight instruction its destinations: `n` registers from the field. Each value register is renamed at once
and holds the version before until its lanes are written (R138); a scalar is marked as still to be written. -/
def destsOf (w : Wave) (x : Iss) (o : Op) (d : Fld) : Nat → Wave × Op
  | 0 => (w, o)
  | n + 1 =>
    let (w, o) := destsOf w x o d n
    let f := d.toNat
    if f < 96 then
      let old := x.w.source x.sp (f + n)
      let (p, w) := w.writeName x.sp (f + n) x.clk old o.uid (fun _ => none)
      (w, { o with dests := o.dests ++ [.reg (f + n) p] })
    else if f < 112 then
      ({ w with spend := insertKey (f - 96 + n) o.uid w.spend }, { o with dests := o.dests ++ [.scalar (f - 96 + n)] })
    else ({ w with spend := insertKey (f - 120 + 16) o.uid w.spend }, { o with dests := o.dests ++ [.block (f - 120)] })

/-- The destinations with the lookahead window they open (R151). -/
def addDests (w : Wave) (x : Iss) (o : Op) (d : Fld) (n : Nat) : Wave × Op :=
  let (v, o) := w.destsOf x o d n
  if o.left = 0 then (v, o)
  else
    let reg (t : Dest) : Option (Nat × Option Nat) := match t with
      | .reg name p => some (p, w.source x.sp name)
      | _ => none
    let scal (t : Dest) : Option (Nat × Val) := match t with
      | .scalar i => some (i, x.scalarNow i)
      | .block i => some (16 + i, x.scalarNow (16 + i))
      | _ => none
    ({ v with ahead := v.ahead ++ [⟨o.uid, o.slot, o.left, o.dests.filterMap reg, o.dests.filterMap scal⟩] }, o)

/-- Write one lane of destination register j of an in-flight instruction; a scalar in every checkpoint as well that
was taken after its issue and holds it as still to be written (R420). -/
def deliver (w : Wave) (o : Op) (j lane : Nat) (v : Val) : Wave :=
  match o.dests[j]? with
  | none => w
  | some (.reg _ p) => w.modReg p fun r => { r with lanes := updAt lane (fun _ => v) r.lanes }
  | some (.scalar i) =>
    if lane ≠ lowest o.lanes then w
    else
      let put (spend : List (Nat × Nat)) (l : List Val) : List Val :=
        if lookupKey i spend = some o.uid then updAt i (fun _ => v) l else l
      { w with sregs := put w.spend w.sregs, ckpts := w.ckpts.map fun c => { c with sregs := put c.spend c.sregs } }
  | some (.block i) =>
    if lane = lowest o.lanes ∧ lookupKey (i + 16) w.spend = some o.uid then
      { w with held := w.held.filter (·.no ≤ o.no) ++ [⟨o.no, o.clk, 0, .bscalar i v, none⟩] ++ w.held.filter (o.no < ·.no) }
    else w

/-- Deliver a 64-bit value: its words to destinations 0 and 1. -/
def deliver64 (w : Wave) (o : Op) (lane : Nat) (v : Val64) : Wave := (w.deliver o 0 lane v.lo).deliver o 1 lane v.hi

/-- The instruction is complete: its registers are no longer pending, and one whose name was written again is freed now
(R140); its counter falls in order (R152). -/
def finishOp (w : Wave) (uid clk : Nat) : Wave :=
  ({ w with
    ops := w.ops.map (fun o => if o.uid == uid then { o with done := true, reqs := 0, acq := none } else o)
    regs := w.regs.map (fun r => if r.writer == uid then
        { r with writer := 0, freed := r.freed.map fun _ => clk, deferred := r.freed.isSome } else r)
    atLine := w.atLine.filter (fun e => e.1 != uid)
    spend := w.spend.filter (fun p => p.2 != uid) } : Wave).retire

/-- OR flags into a lane's mode word: that of the trapped splits where the instruction is older than the trap (R150),
and in every checkpoint taken after its issue (R420). -/
def addFlags (w : Wave) (no lane : Nat) (f : Flags) : Wave :=
  let old (z : Option Frozen) : Bool := z.any fun z => decide (no ≤ z.no)
  let into (l : List Word) : List Word := updAt lane (setFlags · f) l
  let froze (z : Option Frozen) : Option Frozen := if old z then z.map fun z => { z with modes := into z.modes } else z
  { w with
    frozen := froze w.frozen, modes := if old w.frozen then w.modes else into w.modes
    ckpts := w.ckpts.map fun c => if c.no < no then c
      else { c with frozen := froze c.frozen, modes := if old c.frozen then c.modes else into c.modes } }

/-- A Reported trap of an in-flight instruction falls due (R97). -/
def addDue (w : Wave) (o : Op) (t : Trap) (clk : Nat) : Wave :=
  { w with due := w.due ++ [⟨t, 0#64, o.pc, o.no, clk⟩] }

end Wave

/-- A Reported trap of an in-flight instruction, its cause detail free where the spec gives none. -/
def State.reportOp (s : State) (id : Nat) (o : Op) (f : Fail) : State :=
  let (t, s) := Iss.trapOf f .reported s
  s.modWave id fun w => w.addDue o t o.clk

end Sys2Proof.Machine
end

