-- ==== Sys2Proof/Machine/Home.lean ====
section
/-! DEFINITION. What a home does: the checks before an access, reads with their memory errors, writes, atomics, keyed
cells and barrier cells (R233, R241, R247, R254 to R257, R269 to R275, R344 to R346). -/

namespace Sys2Proof.Machine

/-! Before an access. -/

/-- The 64-byte half-line an address lies in. -/
def Loc.half (l : Loc) : Loc := ⟨l.sp, l.addr / 64 * 64⟩

/-- The acknowledgements of a bad record are in: it is gone, and the error is reported (R255). (DEDUCED: log 43.) -/
def State.recordRebuilt (s : State) (line : Loc) : State :=
  if line.sp == .dev && s.homes.rebuilds.contains line.addr && !(s.homes.records.any (·.line == line)) then
    let slice := Config.homeSlice line.addr
    let s := s.modHomes fun h => { h with rebuilds := h.rebuilds.filter (· != line.addr) }
    (s.count (slice / 32) 7).report 0x05 (slice / 32) slice line.addr 0 true
  else s

/-! The send slots of the interrupt pages (R409). -/

/-- The die whose Col handles an address of a context: that of the home slice the context's tables give now (R20).
(DEDUCED: log 92.) -/
def State.homeDie (s : State) (c va : Nat) : Nat :=
  match walkFrom s va (s.ctx c).ptroot 5 with
  | .leaf _ e lv => s.sliceOf ⟨if bitAt e 5 then .host else .dev, bitsOf e 51 12 * 4096 + va % pageSize lv⟩ / 32
  | _ => 0

/-- Where a context's interrupt page lies, if its translation stands. -/
def State.uiPage? (s : State) (c : Nat) : Option Loc :=
  let va := (s.ctx c).uipage
  let at_ (leaf base : Nat) : Loc :=
    ⟨if bitAt leaf 5 then .host else .dev, bitsOf leaf 51 12 * 4096 + (va - base)⟩
  if (s.ctx c).st = .free || c = 0 then none
  else match tlbLookup (s.homes.dieTlb.getD (s.homeDie c va) []) c va with
    | some e => some (at_ e.leaf.toNat e.va)
    | none => match walkFrom s va (s.ctx c).ptroot 5 with
      | .leaf _ e lv => some (at_ e (va / pageSize lv * pageSize lv))
      | _ => none

/-- The send slots of every context: context and first byte. -/
def State.slots (s : State) : List (Nat × Loc) :=
  (List.range 64).filterMap fun c => (s.uiPage? c).map fun p => (c, p.plus 0x800)

/-- The access touches a send slot. -/
def State.inSlots (s : State) (l : Loc) (n : Nat) : Bool := s.slots.any fun p => overlaps p.2 512 l n

/-- The bytes of an access with those in send slots replaced. -/
def State.overSlots (s : State) (l : Loc) (bs : List PByte) (f : Nat → PByte) : List PByte :=
  let ps := s.slots.filter fun p => overlaps p.2 512 l bs.length
  if ps.isEmpty then bs
  else bs.zipIdx.map fun b => if ps.any (fun p => overlaps p.2 512 (l.plus b.2) 1) then f b.2 else b.1

/-- The home of a host line owns it exclusively; otherwise it is asked for (R367). -/
def State.ownsLine (s : State) (l : Loc) : Bool := l.sp != .host || s.homes.owned.contains (l.addr / 64 * 64)
def State.askLine (s : State) (l : Loc) : State :=
  let line := l.addr / 64 * 64
  if s.msgs.any (fun m => match m.kind with
      | .ownership ln => ln == line
      | _ => false) then s
  else s.send 0 0 0 0 (.ownership line)


/-- Read bytes at their home. -/
def State.homeRead (s : State) (l : Loc) (n : Nat) : List PByte × State :=
  let s := s.meetErrors l n
  (s.overSlots l (s.bytesAt l n) fun _ => ⟨0#8, false⟩, s)

/-- Write bytes at their home; a write that carries part of a sector merges with the sector, so that it reads it.
(DEDUCED: log 48.) -/
def State.homeStore (s : State) (l : Loc) (bs : List PByte) : State :=
  let s := s.mergeErrors l bs.length
  s.storeAt l (s.overSlots l bs fun k => ⟨(s.memOf l.sp).get (l.addr + k), false⟩)

/-! Atomics (R269 to R271). -/

/-- One lane's operation at the home: the old value with its sector's poison, and the state after. -/
def State.applyAtomic (s : State) (kind : HomeOp) (op : LaneOp) : Val64 × State :=
  let s := s.meetErrors op.loc op.size
  let old := s.natAt op.loc op.size
  let p := (s.memOf op.loc.sp).sectorPoison op.loc.addr
  let v : Val64 := ⟨BitVec.ofNat 64 old, p⟩
  if s.inSlots op.loc op.size then (⟨0, false⟩, s)
  else match kind with
  | .store => (v, s.storeAt op.loc op.data)
  | .atom variant => (v, s.setNatAt op.loc op.size (atomOp variant (8 * op.size) old (pvalue op.data)))
  | .cas =>
    if old = pvalue (op.data.take op.size) then (v, s.setNatAt op.loc op.size (pvalue (op.data.drop op.size)))
    else (v, s)
  | .redk _ => (v, s)

/-! Keyed cells (R272 to R275). -/

/-- NEXT and DROPS of a keyed cell. -/
def State.keyNext (s : State) (cell : Loc) : Nat := s.natAt (cell.plus 8) 4
def State.dropKey (s : State) (cell : Loc) : State :=
  s.setNatAt (cell.plus 12) 4 (min (s.natAt (cell.plus 12) 4 + 1) (2 ^ 32 - 1))

/-- Increase a completion counter (R389): by one in mode 1, else by the data bytes written. -/
def State.countBytes (s : State) (c : Option (Loc × Nat)) (n : Nat) : State :=
  match c with
  | none => s
  | some (l, mode) =>
    let s := s.meetErrors l 8
    s.setNatAt l 8 ((s.natAt l 8 + if mode = 1 then 1 else n) % 2 ^ 64)

/-- Apply held contributions while one has the key NEXT. -/
def State.applyHeldKeys (s : State) (cell : Loc) : Nat → State
  | 0 => s
  | fuel + 1 =>
    match s.homes.keys.find? (fun k => k.loc == cell && k.key == s.keyNext cell) with
    | none => s
    | some k =>
      let s := s.modHomes fun h => { h with keys := h.keys.filter (fun j => !(j.loc == cell && j.key == k.key)) }
      let s := s.setNatAt cell k.size (redkOp k.variant (8 * k.size) (s.natAt cell k.size) k.val.toNat)
      ((s.setNatAt (cell.plus 8) 4 ((s.keyNext cell + 1) % 2 ^ 32)).countBytes k.count k.size).applyHeldKeys cell fuel

/-- Deliver a contribution: applied, held or discarded; none where it is refused (R273). A counter rises once its
bytes are written (R389). -/
def State.deliverKey (s : State) (variant : Nat) (op : LaneOp) (count : Option (Loc × Nat)) : Option State :=
  let s := s.meetErrors op.loc 16
  let key := pvalue (op.data.take 4)
  let val := pvalue (op.data.drop 4)
  let d := (key + 2 ^ 32 - s.keyNext op.loc) % 2 ^ 32
  let hold : HeldKey := ⟨op.loc, op.size, variant, key, BitVec.ofNat 64 val, count⟩
  if 2 ^ 31 ≤ d || s.homes.keys.any (fun k => k.loc == op.loc && k.key == key) then some ((s.dropKey op.loc).countBytes count 0)
  else if d = 0 then
    some ((s.modHomes fun h => { h with keys := h.keys ++ [hold] }).applyHeldKeys op.loc 4097)
  else if d < 1024 && (s.homes.keys.filter (fun k => s.sliceOf k.loc == s.sliceOf op.loc)).length < 4096 then
    some (s.modHomes fun h => { h with keys := h.keys ++ [hold] })
  else none

/-- Re-evaluate the held contributions of the cells on a line after a write there (R275). -/
def State.recheckKeys (s : State) (line : Loc) : State :=
  let cells := dedup ((s.homes.keys.filter (fun k => k.loc.line == line)).map (·.loc))
  cells.foldl (fun s cell =>
    let next := s.keyNext cell
    let old := s.homes.keys.filter (fun k => k.loc == cell && decide (2 ^ 31 ≤ (k.key + 2 ^ 32 - next) % 2 ^ 32))
    let s := old.foldl (fun s k => (s.dropKey cell).countBytes k.count 0) s
    let s := s.modHomes fun h => { h with keys := h.keys.filter (fun k => !old.contains k) }
    s.applyHeldKeys cell 4097) s

/-! Barrier cells (R344 to R348). -/

/-- Complete the phases of a cell that are due (R346). Where ordinary stores have left EXPECTED at 0 the phases never
stop rising: PHASE is then a free value. (DEDUCED: log 97.) -/
def State.completeCell (s : State) (cell : Loc) : State :=
  let phase := s.natAt cell 4
  let expected := s.natAt (cell.plus 4) 4
  let arrived := s.natAt (cell.plus 8) 4
  if s.natAt (cell.plus 12) 4 ≠ 0 ∨ arrived < expected then s
  else if expected = 0 then
    let (v, s) := s.draw
    s.setNatAt cell 4 (v.toNat % 2 ^ 32)
  else
    (s.setNatAt cell 4 ((phase + arrived / expected) % 2 ^ 32)).setNatAt (cell.plus 8) 4 (arrived % expected)

/-- The home knows a cell that a BAR or a feed has named. (DEDUCED: log 97.) -/
def State.knowCell (s : State) (cell : Loc) : State :=
  if s.homes.cells.contains cell then s else s.modHomes fun h => { h with cells := h.cells ++ [cell] }

/-- The home meets a cell that only ordinary stores have set up: it evaluates its completion (R344).
(DEDUCED: log 97.) -/
def State.meetCell (s : State) (cell : Loc) : State :=
  if s.homes.cells.contains cell then s else (s.knowCell cell).completeCell cell

/-- Evaluate completion of the known cells on a line (R344). -/
def State.recheckCells (s : State) (line : Loc) : State :=
  (s.homes.cells.filter (fun c => c.line == line)).foldl State.completeCell s

/-- Feed n bytes to a cell's pending-byte counter (R346); none where it would leave its range (R348). -/
def State.feedCell (s : State) (cell : Loc) (n : Nat) : Option State :=
  let s := s.meetCell cell
  let p := s.natAt (cell.plus 12) 4
  if p < n then none else some ((s.setNatAt (cell.plus 12) 4 (p - n)).completeCell cell)

/-- What a write on a line makes its home re-evaluate in memory: keyed cells and barrier cells. -/
def State.afterWrite (s : State) (l : Loc) : State := (s.recheckKeys l.line).recheckCells l.line

/-- The same for every line of a range: those that hold no such cell have nothing to re-evaluate. -/
def State.afterWrites (s : State) (l : Loc) (n : Nat) : State :=
  let lines := (s.homes.keys.map (·.loc) ++ s.homes.cells).filterMap fun c =>
    if overlaps c.line 128 l n then some c.line else none
  (dedup lines).foldl (fun s c => s.afterWrite c) s

/-! Accesses of the device itself: engines, queues, schedulers, the Col (R231, R325, R360). -/

/-- The result of reaching a device access's home. -/
inductive DevAcc where
  | ok (l : Loc) (s : State)
  | fault (f : PageFault) (s : State)
  | stall (s : State)

/-- Translate an address of a context through a die's TLB and make the home ready. -/
def State.reach (s : State) (die ctx va n : Nat) (need : Need) : DevAcc :=
  match s.translate none die ctx va need with
  | .stall s => .stall s
  | .fault f s => .fault f s
  | .ok l s =>
    match s.homeNeeds l n none (need.rd || need.wr) with
    | some s => .stall s
    | none => .ok l s

/-- Split a range at 64 KiB page boundaries. -/
def pageSplit (va n : Nat) : List (Nat × Nat) :=
  let first := va / 65536
  (natsFrom first ((va + n - 1) / 65536 + 1 - first)).map fun p =>
    let a := max va (65536 * p)
    (a, min (va + n) (65536 * (p + 1)) - a)

/-- Reach every page of a range; each with its length. -/
inductive Reached where
  | ok (ls : List (Loc × Nat)) (s : State)
  | fault (f : PageFault) (s : State)
  | stall (s : State)

def State.reachAll (s : State) (die c va n : Nat) (need : Need) : Reached :=
  (pageSplit va n).foldl (fun r p =>
    match r with
    | .ok ls s => (match s.reach die c p.1 p.2 need with
      | .ok l s => .ok (ls ++ [(l, p.2)]) s
      | .fault f s => .fault f s
      | .stall s => .stall s)
    | r => r) (.ok [] s)

/-- Byte addresses of a list of places. -/
def spread (ls : List (Loc × Nat)) : List Loc := ls.flatMap fun p => (List.range p.2).map p.1.plus

/-- The bytes of a source, each read at its home. -/
def State.readSpread (s : State) (ls : List (Loc × Nat)) : List PByte × State :=
  ls.foldl (fun (r : List PByte × State) p =>
    let (bs, s) := r.2.homeRead p.1 p.2
    (r.1 ++ bs, s)) ([], s)

/-- Write bytes over a list of places. -/
def State.writeSpread (s : State) : List (Loc × Nat) → List PByte → State
  | [], _ => s
  | p :: rest, bs => ((s.homeStore p.1 (bs.take p.2)).afterWrites p.1 p.2).writeSpread rest (bs.drop p.2)

/-- Perform an atomic of the device at an address (launch completion, completion counters, flags). -/
def State.bump (s : State) (l : Loc) (size v : Nat) : State :=
  let s := s.meetErrors l size
  (s.setNatAt l size ((s.natAt l size + v) % 2 ^ (8 * size))).afterWrite l

end Sys2Proof.Machine
end

