-- ==== Sys2Proof/Machine/Launch.lean ====
section
/-! DEFINITION. Queues as the device keeps them (R307 to R313), launch packets, their admission and the completion of a
launch (R108 to R119, R128). -/

namespace Sys2Proof.Machine

/-! Queues. -/

namespace State

def queue (s : State) (c : Nat) (eng : Bool) (q : Nat) : Queue :=
  (if eng then (s.ctx c).eqs else (s.ctx c).lqs).getD q .fresh
def modQueue (s : State) (c : Nat) (eng : Bool) (q : Nat) (f : Queue → Queue) : State :=
  s.modCtx c fun x => if eng then { x with eqs := updAt q f x.eqs } else { x with lqs := updAt q f x.lqs }
/-- The local virtual address of a queue's header (R307). -/
def headerVa (s : State) (c : Nat) (eng : Bool) (q : Nat) : Nat :=
  (if eng then (s.ctx c).eqbase else (s.ctx c).lqbase) + 128 * q

end State

def QState.code : QState → Nat
  | .empty => 0
  | .running => 1
  | .waiting => 2
  | .blocked => 3
  | .stopped => 4
  | .faulted => 5

/-- A device write of a field of a slot or of HEAD, whose page has been found usable. -/
def State.poke (s : State) (die c va n v : Nat) : State :=
  match s.translate none die c va Need.write with
  | .ok l s => (s.setNatAt l n v).afterWrite l
  | .stall s => s
  | .fault _ s => s

/-- An event with no wave and an entry's or header's address (R325). -/
def State.queueEvent (s : State) (c die : Nat) (cause : Cause) (addr : Nat) : State :=
  s.event c die ⟨cause.code, cause.claimClass, 2, 0xFFFFFFFF, addr, 0, 0⟩

/-- The state of a queue, with STATE of its header to be written. -/
def Queue.to (x : Queue) (st : QState) : Queue :=
  { x with st, writes := x.writes.filter (·.1 != 0x1C) ++ [(0x1C, 4, st.code)] }

/-- What an access to a queue's header, ring or entry that cannot start does to the queue (R309, R313, R325): Blocked,
with the state it left kept and a notice, or Faulted, with an event. -/
def State.halt (s : State) (c : Nat) (eng : Bool) (q : Nat) (addr : Nat) (f : PageFault) : State :=
  let x := s.queue c eng q
  let runs := x.st == .empty || x.st == .running || x.st == .waiting
  if f.cause = .protection then
    if runs || x.st == .blocked then
      (s.queueEvent c x.die .protection addr).modQueue c eng q fun x => { x.to .faulted with engine := none }
    else s
  else if runs then
    (s.notice c 0x10 addr 0).modQueue c eng q fun x => { x.to .blocked with prev := x.st, engine := none }
  else s

/-- Write the fields of a queue's header that are still to be written (R308, R312, R314); where its page is not usable
they wait, and the queue is Blocked or Faulted (R325). -/
def State.writeHeader (s : State) (c : Nat) (eng : Bool) (q : Nat) : State :=
  let x := s.queue c eng q
  if x.writes.isEmpty then s
  else match s.reach x.die c (s.headerVa c eng q) 0x30 Need.both with
    | .ok l s =>
      ((x.writes.foldl (fun s e => s.setNatAt (l.plus e.1) e.2.1 e.2.2) s).modQueue c eng q fun x => { x with writes := [] }).afterWrite l
    | .stall s => s
    | .fault f s => s.halt c eng q (s.headerVa c eng q) f

/-- Move a queue to a state, which its header shows (R312). -/
def State.setQState (s : State) (c : Nat) (eng : Bool) (q : Nat) (st : QState) : State :=
  (s.modQueue c eng q fun x => x.to st).writeHeader c eng q

/-- The result of a queue command in its header (R314). -/
def State.setCmdStat (s : State) (c : Nat) (eng : Bool) (q v : Nat) : State :=
  (s.modQueue c eng q fun x => { x with writes := x.writes.filter (·.1 != 0x28) ++ [(0x28, 4, v)] }).writeHeader c eng q

/-- A queue enters Faulted. -/
def State.faultQueue (s : State) (c : Nat) (eng : Bool) (q : Nat) : State :=
  let s := s.modQueue c eng q fun x => { x with engine := none }
  s.setQState c eng q .faulted

/-- What a queue's header or ring access that cannot start does, STATUS of an entry being performed too (R309, R325). -/
def State.queuePageFault (s : State) (c : Nat) (eng : Bool) (q : Nat) (addr : Nat) (f : PageFault) : State :=
  let x := s.queue c eng q
  let s := match x.entry with
    | some e => if eng && x.st == QState.running && e.started then
        s.poke x.die c (x.slotVa e.seq + 4) 4 (if f.cause = Cause.protection then 5 else 2)
      else s
    | none => s
  (s.halt c eng q addr f).writeHeader c eng q

/-- Whether the header and the ring of a queue can be used. -/
inductive Ready where
  | yes (s : State)
  | wait (s : State)
  | no (s : State)

/-- The header and a slot of the queue can be read and written at their homes; where they cannot for want of a page
the queue is Blocked or Faulted with the header's address (R325). -/
def State.ringReady (s : State) (c : Nat) (eng : Bool) (q : Nat) (seq : Option Nat) : Ready :=
  let x := s.queue c eng q
  let va := s.headerVa c eng q
  match s.reach x.die c va 0x30 Need.both with
  | .stall s => .wait s
  | .fault f s => .no (s.queuePageFault c eng q va f)
  | .ok _ s => match seq with
    | none => .yes s
    | some n => match s.reach x.die c (x.ring + 128 * (n % 2 ^ x.log2)) 128 Need.both with
      | .stall s => .wait s
      | .fault f s => .no (s.queuePageFault c eng q va f)
      | .ok _ s => .yes s

/-- STATUS of the entry in a queue's slot (R315). -/
def State.setStatus (s : State) (c q : Nat) (e : Entry) (v : Nat) : State :=
  s.poke (s.queue c true q).die c ((s.queue c true q).slotVa e.seq + 4) 4 v

/-- What an engine access of an entry that cannot start does (R325): an entry that has not started, because its own
trigger, join or record is what cannot be reached, is none "being performed", and its STATUS stays. (DESIGN CHOICE:
log 164.) (DESIGN CHOICE: log 164.) -/
def State.entryPageFault (s : State) (c q : Nat) (e : Entry) (f : PageFault) : State :=
  let va := (s.queue c true q).slotVa e.seq
  let run (v : Nat) (s : State) : State := if e.started then s.setStatus c q e v else s
  (run (if f.cause = .protection then 5 else 2) s).queuePageFault c true q va f

/-- TAIL and HEAD, read at the header's home. -/
inductive HeaderRead where
  | ok (tail head : Nat) (s : State)
  | no (s : State)

def State.readHeader (s : State) (c : Nat) (eng : Bool) (q : Nat) : HeaderRead :=
  let va := s.headerVa c eng q
  match s.reach (s.queue c eng q).die c va 32 Need.both with
  | .stall s => .no s
  | .fault f s => .no (s.queuePageFault c eng q va f)
  | .ok l s =>
    let s := s.meetErrors l 32
    .ok (s.natAt l 8) (s.natAt (l.plus 8) 8) s

/-- Empty or Running, as HEAD and TAIL stand; Faulted on an overrun (R310, R313). -/
def State.settleQueue (s : State) (c : Nat) (eng : Bool) (q : Nat) : State :=
  match s.readHeader c eng q with
  | .no s => s
  | .ok tail head s =>
    if tail ≤ head then s.setQState c eng q .empty
    else if 2 ^ (s.queue c eng q).log2 < tail - head then (s.notice c 0x12 (s.headerVa c eng q) 0).faultQueue c eng q
    else s.setQState c eng q .running

/-- HEAD advances past the head entry, which leaves the queue (R308). -/
def State.advanceHead (s : State) (c : Nat) (eng : Bool) (q : Nat) (seq : Nat) : State :=
  let s := s.poke (s.queue c eng q).die c (s.headerVa c eng q + 8) 8 (seq + 1)
  let s := s.modQueue c eng q fun x => { x with
    entry := none, engine := none, pushed := eraseKey seq x.pushed
    gone := x.gone.filter (· != seq) }
  s.settleQueue c eng q

/-! Launch packets (R108 to R110). -/

/-- A field of a packet. -/
def pfield (p : List Byte) (off n : Nat) : Nat := leNat ((p.drop off).take n)

/-- The cores of a die eligible for a launch (R110, R120). -/
def State.eligible (s : State) (die : Nat) (comm : Bool) : Nat :=
  let p := s.sched.partition.getD die 0
  if comm then p else 32 - p
def State.isEligible (s : State) (core : Nat) (comm : Bool) : Bool :=
  let p := s.sched.partition.getD (State.dieOf core) 0
  comm == decide (32 - p ≤ core % 32)

/-- The usable quadrants of a core (R120). -/
def usableQuads (core : Nat) : Nat := if core % 32 = 31 then 3 else 4

/-- Waves of a block that a quadrant of a core with m usable quadrants receives at most. -/
def quadLoad (waves m : Nat) : Nat := (waves + m - 1) / m

/-- A block of the packet fits on an empty core with m usable quadrants (R121). (DEDUCED: log 77.) -/
def packetFits (p : List Byte) (m scratchMiB : Nat) : Bool :=
  let width := 16 * 2 ^ bitsOf (pfield p 0 4) 5 4
  let n := quadLoad (pfield p 0x18 1) m
  n ≤ 24 && n * (pfield p 0x1C 2 + pfield p 0x1E 2) * width ≤ 65536 && n * pfield p 0x1B 1 ≤ 16 && n * pfield p 0x24 1 ≤ 8 &&
    pfield p 0x20 4 ≤ scratchMiB * 2 ^ 20

/-- A local virtual address (R259). -/
def isLocalVa (a : Nat) : Bool := a < 2 ^ 57

/-- Read a queue's fields, at CREATE or at START: Empty or Running as HEAD and TAIL stand, Faulted where they are out
of range, Blocked where the header's page is absent; `prev` then says whether CREATE or START asked. At START an entry
that has been taken is resumed where it is still at HEAD (R310). Where the home is not ready they are still to be
read. (DEDUCED: log 71.) -/
def State.loadQueue (s : State) (c : Nat) (eng : Bool) (q : Nat) (create : Bool) : State :=
  let va := s.headerVa c eng q
  let from_ : QState := if create then .empty else .stopped
  let s := s.modQueue c eng q fun x => { x with
    valid := false, st := .empty, entry := if create then none else x.entry, engine := none, stopping := false, loading := some create
    cache := if create then [] else x.cache }
  match s.reach (s.queue c eng q).die c va 0x30 Need.both with
  | .stall s => s
  | .fault f s =>
    (s.queuePageFault c eng q va f).modQueue c eng q fun x => { x with prev := from_, loading := none }
  | .ok l s =>
    let s := s.modQueue c eng q fun x => { x with loading := none }
    let s := s.meetErrors l 0x30
    let f (off n : Nat) : Nat := s.natAt (l.plus off) n
    let fit := isLocalVa (f 0x10 8) && f 0x10 8 % 128 = 0 && 1 ≤ f 0x18 1 && f 0x18 1 ≤ 16 &&
      f 0x19 1 = (if eng then 1 else 0) && f 0x1A 1 ≤ (if eng then 1 else 0) &&
      (if eng then isLocalVa (f 0x20 8) && f 0x20 8 % 1024 = 0 else f 0x20 8 = 0)
    let counts := if create then f 0 8 = 0 && f 8 8 = 0 else f 8 8 ≤ f 0 8 && f 0 8 - f 8 8 ≤ 2 ^ f 0x18 1
    if !fit then (s.notice c 0x13 va 0).faultQueue c eng q
    else
      let s := s.modQueue c eng q fun x => { x with
        ring := f 0x10 8, log2 := f 0x18 1, die := f 0x1A 1, isOpen := f 0x1B 1 % 2 = 1, rcache := f 0x20 8 }
      if !counts then (s.notice c 0x14 va 0).faultQueue c eng q
      else
        let s := s.modQueue c eng q fun x => { x with
          valid := true, entry := x.entry.filter fun e => e.seq == f 8 8 && decide (f 8 8 < f 0 8) }
        s.settleQueue c eng q

/-- What a queue still has to do at its header is tried again. -/
def State.pollHeader (s : State) (c : Nat) (eng : Bool) (q : Nat) : State :=
  let s := match (s.queue c eng q).loading with
    | some create => if (s.queue c eng q).st = QState.empty then s.loadQueue c eng q create else s
    | none => s
  s.writeHeader c eng q

/-- The packet is valid (R108, R110). Bit 3 of FLAGS, which R108 neither lists nor reserves, must be zero.
(DEDUCED: log 77; DESIGN CHOICE: log 151.) -/
def State.packetValid (s : State) (c : Nat) (p : List Byte) (pushed : Bool) : Bool :=
  let f := pfield p
  let flags := f 0 4
  let widthCode := bitsOf flags 5 4
  let width := 16 * 2 ^ widthCode
  let blocks := f 0x10 4 * f 0x14 2 * f 0x16 2
  let gang := f 0x19 1
  let comm := flags.testBit 0
  let dep := flags.testBit 1
  let scratch := (s.ctx c).scratch
  flags / 64 = 0 && !flags.testBit 3 && widthCode != 3 &&
    f 0x10 4 ≠ 0 && f 0x14 2 ≠ 0 && f 0x16 2 ≠ 0 &&
    1 ≤ f 0x18 1 && f 0x18 1 ≤ 32 && 1 ≤ gang && gang ≤ 32 && f 0x1A 1 ≤ 15 && f 0x1B 1 ≤ 16 &&
    f 0x1C 2 % 8 = 0 && 16 ≤ f 0x1C 2 && f 0x1C 2 ≤ 65536 / width && f 0x1E 2 ≤ 1024 &&
    f 0x20 4 % 128 = 0 && f 0x20 4 ≤ 6 * 2 ^ 20 && f 0x24 1 ≤ 8 && f 0x25 1 ≤ 48 && f 0x26 2 = 0 && f 0x48 8 = 0 &&
    (pushed || f 0x40 8 = 0) && (dep || (f 0x28 8 = 0 && f 0x30 8 = 0)) &&
    f 0x28 8 % 8 = 0 && isLocalVa (f 0x28 8) && f 0x38 8 % 8 = 0 && isLocalVa (f 0x38 8) &&
    f 0x08 8 % 4 = 0 && f 0x08 8 < 2 ^ 62 && blocks % gang = 0 && blocks * f 0x18 1 ≤ 2 ^ 22 &&
    (f 0x04 4 = 0xFFFFFFFF || f 0x04 4 < blocks * f 0x18 1) &&
    (List.range 64).any (fun k => s.isEligible k comm && packetFits p (usableQuads k) scratch) &&
    (gang ≤ s.eligible 0 comm || gang ≤ s.eligible 1 comm)

/-! Admission (R115 to R119). -/

/-- The save-area bytes a launch reserves (R86). -/
def saveNeed (p : List Byte) : Nat :=
  let f := pfield p
  let width := 16 * 2 ^ bitsOf (f 0 4) 5 4
  f 0x10 4 * f 0x14 2 * f 0x16 2 * f 0x18 1 *
    (4 * width * (f 0x1C 2 + f 0x1E 2) + 20480 * f 0x1B 1 + 32768 * f 0x24 1 + 4096)

/-- The save area has room beside the context's other admitted launches (R86). -/
def State.saveFits (s : State) (c : Nat) (p : List Byte) : Bool :=
  let held := (s.sched.launches.filter (fun l => l.ctx == c && !l.final)).foldl (fun n l => n + saveNeed l.packet) 0
  held + saveNeed p + 589824 ≤ (s.ctx c).savesize

/-- A push of the launch's is still held, or waits at its queue: the PARENT it will write names the launch (R117,
R118). -/
def State.pushesLeft (s : State) (c t : Nat) : Bool :=
  s.waves.any (fun w => w.ctx == c && w.tag == t && !w.service && w.held.any fun h => match h.effect with
    | .push _ e _ _ _ => e != 1
    | _ => false) ||
    s.ctxs.any fun x => x.lqs.any fun q => q.pushes.any fun p =>
      let v := pfield (p.image.map (·.byte)) 0x40 8
      v.testBit 63 && (parentOf v).1 == c && (parentOf v).2.2.2 == t

/-- The tag is free (R117). -/
def State.tagFree (s : State) (c t : Nat) : Bool :=
  match s.launch? c t with
  | none => true
  | some l => l.final && l.retired && l.children = 0 && !(s.pushesLeft c t)

/-- The child in a slot is settled, where a QPUSH wrote it (R117). -/
def State.settlePushed (s : State) (c q seq : Nat) : State :=
  match lookupKey seq (s.queue c false q).pushed with
  | some parent => (s.settleChild parent).modQueue c false q fun x => { x with pushed := eraseKey seq x.pushed }
  | none => s

def State.parentComplete (s : State) (w : Nat) : Bool :=
  let (c, _, _, t) := parentOf w
  !w.testBit 63 || (match s.launch? c t with
    | none => false
    | some l => l.st == .complete)

/-- The head packet is discarded (R115). -/
def State.discardPacket (s : State) (c q : Nat) (e : Entry) (reason : Nat) : State :=
  let s := s.settlePushed c q e.seq
  let s := s.notice c reason ((s.queue c false q).slotVa e.seq) 0
  s.advanceHead c false q e.seq

/-- A notice of a held packet, raised once (R116). -/
def State.packetNotice (s : State) (c q reason : Nat) (e : Entry) : State :=
  if (s.queue c false q).notices.contains reason then s
  else
    (s.notice c reason ((s.queue c false q).slotVa e.seq) 0).modQueue c false q fun x =>
      { x with notices := insertNat reason x.notices }

/-- The packet is admitted: tag, record, its gangs in the sequence of unplaced gangs, HEAD (R114, R117, R122). The
read of its counter and the completion of its parent are acquired at device scope, on every core its waves may start
on (R116, R119). -/
def State.admitPacket (s : State) (c q t : Nat) (e : Entry) : State :=
  let p := e.image
  let n := pfield p 0x10 4 * pfield p 0x14 2 * pfield p 0x16 2 / pfield p 0x19 1
  let s := s.settlePushed c q e.seq
  let s := s.modSched fun k => { k with
    launches := k.launches.filter (fun l => !(l.ctx == c && l.tag == t)) ++ [{
      ctx := c, tag := t, addr := (s.queue c false q).slotVa e.seq, packet := p, st := .admitted, gangs := List.replicate n ⟨.unplaced, 0, 0, [], false⟩, children := 0,
      ord := k.nextOrd, reached := [[], []], completing := false, notices := [] }]
    nextOrd := k.nextOrd + 1
    unplaced := k.unplaced ++ (List.range n).map (fun g => (c, t, g)) }
  let s := if (s.ctx c).st = .created then s.setCtxState c .ready else s
  let s := if bitAt (pfield p 0 4) 1 || bitAt (pfield p 0x40 8) 63 then
      (List.range 64).foldl (fun s k => s.acquireInval k c) s
    else s
  let s := s.writeSave c
  let s := s.modQueue c false q fun x => { x with notices := [] }
  s.advanceHead c false q e.seq

/-- The conditions of R116 for the head packet of a launch queue, in order. Bytes of a counter or a packet
that are poisoned are used as they stand. (DEDUCED: log 78; DESIGN CHOICE: log 163.) -/
def State.tryAdmit (s : State) (c q : Nat) : State :=
  match (s.queue c false q).entry with
  | none => s
  | some e =>
    let p := e.image
    let parent := pfield p 0x40 8
    let hold (s : State) : State := if (s.queue c false q).st = .waiting then s else s.setQState c false q .waiting
    match s.ringReady c false q none with
    | .wait s | .no s => s
    | .yes s =>
    if (s.queue c false q).gone.contains e.seq then s.advanceHead c false q e.seq
    else if s.parentLost parent then s.discardPacket c q e 0x04
    else
      match (s.ctx c).st with
      | .created | .ready | .resident | .partialSt =>
        if !s.parentComplete parent then hold s
        else
          let rest (s : State) : State :=
            match (List.range 4096).find? (s.tagFree c) with
            | none => hold s
            | some t =>
              if !s.saveFits c p then hold (s.packetNotice c q 0x02 e)
              else if (pfield p 0 4).testBit 0 && s.eligible 0 true = 0 && s.eligible 1 true = 0 then
                hold (s.packetNotice c q 0x06 e)
              else s.admitPacket c q t e
          if (pfield p 0 4).testBit 1 then
            match s.reach 0 c (pfield p 0x28 8) 8 Need.read with
            | .stall s => hold s
            | .fault f s => hold (s.packetNotice c q (if f.cause = .protection then 0x08 else 0x05) e)
            | .ok l s =>
              let s := s.meetErrors l 8
              if s.natAt l 8 < pfield p 0x30 8 then hold s else rest s
          else rest s
      | _ => hold s

/-- Reach the slot of a launch queue for reading: its page must also allow writing (R309). (DEDUCED: log 80.) -/
def State.reachSlot (s : State) (die c va : Nat) : DevAcc :=
  match s.reach die c va 128 Need.both with
  | .fault f t => if f.cause = .protection then .fault f t else s.reach die c va 128 Need.read
  | _ => s.reach die c va 128 Need.read

/-- Examine the head packet of a launch queue (R115, R116): it is read once, when it is taken. -/
def State.examine (s : State) (c q : Nat) : State :=
  let x := s.queue c false q
  if x.st != .running && x.st != .waiting && x.st != .empty then s
  else if x.entry.isSome then s.tryAdmit c q
  else
    match s.readHeader c false q with
    | .no s => s
    | .ok tail head s =>
      if tail ≤ head then (if x.st = .empty then s else s.setQState c false q .empty)
      else if 2 ^ x.log2 < tail - head then (s.notice c 0x12 (s.headerVa c false q) 0).faultQueue c false q
      else
        let va := x.slotVa head
        match s.reachSlot 0 c va with
        | .stall s => s
        | .fault f s => s.queuePageFault c false q (s.headerVa c false q) f
        | .ok l s =>
          let (bs, s) := s.homeRead l 128
          let e : Entry := {
            seq := head, image := bs.map (·.byte), started := false, shape := [], claims := [], prog := [], finish := false,
            olds := [], resume := false, parts := [] }
          let s := s.modQueue c false q fun x => { x with entry := some e }
          let s := s.setQState c false q .running
          if x.gone.contains head then s.advanceHead c false q head
          else if s.packetValid c e.image (x.pushed.any (·.1 == head)) then s.tryAdmit c q else s.discardPacket c q e 0x01

/-- The PARENT a wave's push carries (R118); a service wave belongs to no launch. (DEDUCED: log 76.) -/
def State.parentFor (s : State) (w : Wave) : Nat :=
  if w.service then 0
  else match s.launch? w.ctx w.tag with
    | some l => parentWord w.ctx (l.gangAt w.gang).relaunch w.gang w.tag
    | none => 0

/-- A launch packet with its PARENT written. (DEDUCED: log 76.) -/
def withParent (img : List PByte) (parent : Nat) : List PByte :=
  img.take 0x40 ++ pbytes false (leBytes 8 parent) ++ img.drop 0x48

/-! Completion (R128). -/

/-- Dirty lines of a context, or their write-backs on the way, on some core. (DEDUCED: log 79.) -/
def State.unsettledLines (s : State) (c : Nat) : Bool :=
  s.cores.any (fun k => k.frames.any (fun f => f.isDirty && f.ctx == c)) ||
    s.msgs.any (fun m => match m.kind with
      | .writeback _ _ _ _ _ _ _ => m.ctx == c
      | _ => false)

/-- The last gang of a launch is Done: the grid's stores reach their homes, DONEADDR is increased, MSI-X, retirement
(R128). It waits while the lines are on their way or the page is not usable. (DEDUCED: log 79.) -/
def State.completeLaunch (s : State) (c t : Nat) : State :=
  match s.launch? c t with
  | none => s
  | some l =>
    if l.st != .running || !(l.gangs.all (·.st == .done)) then s
    else
      let s := (List.range 64).foldl (fun s k => s.writebackWhere k (fun f => f.ctx == c) (0, 0)) s
      let s := s.modLaunch c t fun l => { l with completing := true }
      if s.unsettledLines c then s
      else
        let done := l.field 0x38 8
        let finish (s : State) : State :=
          let s := if (l.field 0 4).testBit 2 then s.sendMsix c else s
          ((s.modLaunch c t fun l => { l with st := .complete, completing := false }).retireLaunch c t).ctxOver c
        let wait (s : State) (reason : Nat) : State :=
          if l.notices.contains reason then s
          else (s.notice c reason l.addr 0).modLaunch c t fun l => { l with notices := insertNat reason l.notices }
        if done = 0 then finish s
        else
          match s.reach 0 c done 8 Need.both with
          | .stall s => s
          | .fault f s => wait s (if f.cause = .protection then 0x09 else 0x05)
          | .ok l s => finish (s.bump l 8 1)

end Sys2Proof.Machine
end

