-- ==== Sys2Proof/Machine/GroupHome.lean ====
section
/-! DEFINITION. The home of a group area (R330, R333, R336, R337). -/

namespace Sys2Proof.Machine

/-- Where a byte of the area lies. -/
def GroupHold.at (h : GroupHold) (off : Nat) : Loc := if off < h.split then h.loc.plus off else h.rest.plus (off - h.split)

namespace State

def group? (s : State) (loc : Loc) : Option GroupHold := s.homes.groups.find? (·.loc == loc)
def modGroup (s : State) (loc : Loc) (f : GroupHold → GroupHold) : State :=
  s.modHomes fun h => { h with groups := h.groups.map (fun g => if g.loc == loc then f g else g) }

/-- A field of the area, and a write of one. -/
def areaNat (s : State) (h : GroupHold) (off n : Nat) : Nat := s.natAt (h.at off) n
def setArea (s : State) (h : GroupHold) (off n v : Nat) : State := (s.setNatAt (h.at off) n v).afterWrite (h.at off)

def groupState (s : State) (h : GroupHold) : Nat := s.areaNat h 0 4 % 4
def groupMembers (s : State) (h : GroupHold) : List Nat :=
  (List.range (min 4096 (s.areaNat h 4 4))).map fun k => s.areaNat h (0x280 + 4 * k) 4

/-- The launch that OWNER names is the wave's; its bits above the tag are ignored (R6, R330). -/
def groupOwned (s : State) (h : GroupHold) (w : Wave) : Bool :=
  s.areaNat h 8 4 % 2 ^ 18 == w.ctx % 64 + 64 * (w.tag % 4096)

/-- The member index of a wave (R331). -/
def memberIndex (s : State) (h : GroupHold) (w : Wave) : Option Nat :=
  if s.groupOwned h w then (s.groupMembers h).findIdx? (· == w.grid) else none

/-- Write MEMBERS and COUNT; entries at and beyond COUNT are zero. -/
def setMembers (s : State) (h : GroupHold) (l : List Nat) : State :=
  let old := s.areaNat h 4 4
  let s := (l ++ List.replicate (old - l.length) 0).zipIdx.foldl (fun (s : State) (e : Nat × Nat) => s.setArea h (0x280 + 4 * e.2) 4 e.1) s
  s.setArea h 4 4 l.length

/-- The group becomes Free: every field returns to zero, and no contribution is left for it. -/
def freeGroup (s : State) (h : GroupHold) : State :=
  ((List.range 80).foldl (fun s k => s.setArea h (8 * k) 8 0) (s.setMembers h [])).modGroup h.loc fun g => { g with contrib := [] }

/-- A member leaves a group no round of which is open; where it has ended, so do its contributions to later rounds. -/
def groupLeave (s : State) (h : GroupHold) (w : Wave) : State :=
  match s.memberIndex h w with
  | none => s
  | some _ =>
    let l := (s.groupMembers h).filter (· != w.grid)
    let s := if w.st == .ended then s.modGroup h.loc fun g => { g with contrib := g.contrib.filter (·.1 != w.id) } else s
    if l.isEmpty then s.freeGroup h else s.setMembers h l

/-- A wave joins a group no round of which is open; a wave that has ended leaves it at once. -/
def groupJoin (s : State) (h : GroupHold) (w : Wave) : State :=
  let s := if s.groupState h = 0 then
      (s.setArea h 0 4 1).setArea h 8 4 (w.ctx % 64 + 64 * (w.tag % 4096))
    else s
  let s := s.setMembers h (insertNat w.grid (s.groupMembers h))
  if w.st == .ended then s.groupLeave h w else s

/-- Perform a join or leave, or hold it while a round is open. -/
def groupMember (s : State) (h : GroupHold) (w : Wave) (r : GroupReq) : State :=
  if s.groupState h = 2 then s.modGroup h.loc fun g => { g with queue := g.queue ++ [(w.id, r)] }
  else match r with
    | .join => s.groupJoin h w
    | .leave => s.groupLeave h w
    | .gred _ _ => s

/-- Return a result to a contributor, poisoned in some lanes. -/
def answerGroup (s : State) (h : GroupHold) (c : Nat × Nat) (sub : Nat) (vals : List (Option DWord)) (poison : Lanes) :
    State :=
  match (s.wave? c.1).bind (fun w => (w.op? c.2).map (w, ·)) with
  | some (w, o) => s.send w.id o.uid o.no w.ctx (.groupResult h.loc vals poison sub)
  | none => s

/-- The oldest held contribution of each wave that has not contributed to the open round. -/
def roundContribs (s : State) (g : GroupHold) : List (Nat × Nat × Nat × List (Option DWord)) :=
  g.contrib.filter fun c => !(g.folded.any (·.1 == c.1)) &&
    (g.contrib.find? (·.1 == c.1)).any (·.2.1 == c.2.1) && ((s.wave? c.1).bind (s.memberIndex g)).isSome

/-- The values that a contribution to a Broken group is answered with: the spec gives none. (DESIGN CHOICE: log 165.) -/
def brokenVals (s : State) (n : Nat) : List (Option DWord) × State :=
  (List.range n).foldl (fun (r : List (Option DWord) × State) _ =>
    let (v, s) := r.2.draw
    (r.1 ++ [some v], s)) ([], s)

/-- The round ends (R337): of a broken one the contributions still held for it are answered too. A lane whose FOLD is
in a poisoned sector is poisoned; every lane is where the group has become Broken or a SUB differed (R336). -/
def endRound (s : State) (h : GroupHold) (broken : Bool) : State :=
  match s.group? h.loc with
  | none => s
  | some g =>
    let sub := s.areaNat h 0x14 4
    let hit (i : Nat) : Bool := anyPoison (s.bytesAt (h.at (0x80 + 8 * i)) 8)
    let poison := if broken || g.bad then allLanes 64 else laneSet ((List.range g.fold.length).filter hit)
    let late := if broken then s.roundContribs g else []
    let s := g.folded.foldl (fun s c => s.answerGroup h c sub g.fold poison) s
    let s := late.foldl (fun s c => s.answerGroup h (c.1, c.2.1) (if g.folded.isEmpty then c.2.2.1 else sub) g.fold poison) s
    let s := s.setArea h 0x0C 4 ((s.areaNat h 0x0C 4 + 1) % 2 ^ 32)
    let s := ((s.setArea h 0x10 4 0).setArea h 0x14 4 0xFFFFFFFF).setArea h 0 4 (if broken then 3 else 1)
    let s := s.modGroup h.loc fun g => { g with
      queue := [], folded := [], fold := [], bad := false, contrib := g.contrib.filter fun c => !late.contains c }
    g.queue.foldl (fun s q => match s.wave? q.1 with
      | some w => s.groupMember h w q.2
      | none => s) s

/-- Two values of a lane combined, ε giving the other (R200), with home arithmetic. -/
def foldLane (sub : Nat) (a b : Option DWord) : Option DWord :=
  match a, b with
  | some x, some y => some (BitVec.ofNat 64 (scanOp sub .home x.toNat y.toNat).1)
  | none, y => y
  | x, none => x

/-- Fold a contribution (R336). The bytes FOLD shows for a lane still at ε are free values. -/
def foldContribution (s : State) (h : GroupHold) (c : Nat × Nat × Nat × List (Option DWord)) : State :=
  match s.group? h.loc with
  | none => s
  | some g =>
    let n := s.areaNat h 0x10 4
    let s := if n = 0 then s.setArea h 0x14 4 c.2.2.1 else s
    let sub := s.areaNat h 0x14 4
    let same := sub == c.2.2.1
    let fold := if n = 0 then c.2.2.2
      else if same then (g.fold.zip c.2.2.2).map (fun p => foldLane sub p.1 p.2)
      else g.fold
    let s := fold.zipIdx.foldl (fun (s : State) (v, i) =>
      let put (s : State) (v : DWord) : State :=
        s.setArea h (0x80 + 8 * i) (if sub = 11 then 8 else 4) (if sub = 11 then v.toNat else v.toNat % 2 ^ 32)
      match v with
      | some v => put s v
      | none => let (v, s) := s.draw; put s v) s
    let s := s.setArea h 0x10 4 (n + 1)
    s.modGroup h.loc fun g => { g with
      contrib := g.contrib.filter (fun k => !(k.1 == c.1 && k.2.1 == c.2.1)), folded := g.folded ++ [(c.1, c.2.1)], fold
      bad := (n != 0 && g.bad) || !same }

/-- Fold what can be folded, ending rounds that are complete and opening the next (R336, R337). -/
def advanceGroup (s : State) (loc : Loc) : Nat → State
  | 0 => s
  | fuel + 1 =>
    match s.group? loc with
    | none => s
    | some g =>
      let now := s.roundContribs g
      match s.groupState g with
      | 1 => if now.isEmpty then s else (s.setArea g 0 4 2).advanceGroup loc fuel
      | 2 =>
        let n := s.areaNat g 0x10 4
        (match now.find? (fun c => (s.wave? c.1).bind (s.memberIndex g) == some n) with
          | some c =>
            let s := s.foldContribution g c
            (if s.areaNat g 4 4 ≤ n + 1 then s.endRound g false else s).advanceGroup loc fuel
          | none => s)
      | 3 =>
        let s := g.contrib.foldl (fun s c =>
          let (vs, s) := s.brokenVals c.2.2.2.length
          s.answerGroup g (c.1, c.2.1) c.2.2.1 vs (allLanes 64)) s
        s.modGroup loc fun g => { g with contrib := [] }
      | _ => s

/-- A contribution arrives (R336): none where it is refused. That of a wave whose join is held until the round ends
belongs to a later round. -/
def groupContribute (s : State) (h : GroupHold) (w : Wave) (uid sub : Nat) (vals : List (Option DWord)) :
    Option State :=
  let st := s.groupState h
  let joining := h.queue.any fun q => q.1 == w.id && q.2 == .join
  if st = 0 || (st != 3 && (s.memberIndex h w).isNone && !joining) then some s
  else
    let used := (s.homes.groups.filter (fun g => s.sliceOf g.loc == s.sliceOf h.loc)).foldl (fun n g => n + g.contrib.length) 0
    let again := h.folded.any (·.1 == w.id) || h.contrib.any (·.1 == w.id)
    let now := st = 3 || (!again && s.memberIndex h w == some (if st = 1 then 0 else s.areaNat h 0x10 4))
    if now || used < 64 then
      some ((s.modGroup h.loc fun g => { g with contrib := g.contrib ++ [(w.id, uid, sub, vals)] }).advanceGroup h.loc 8300)
    else none

/-- A member has ended (R333). -/
def groupEnds (s : State) (h : GroupHold) (w : Wave) : State :=
  if (s.memberIndex h w).isNone then s
  else if s.groupState h ≠ 2 then s.groupLeave h w
  else if h.folded.any (·.1 == w.id) || h.contrib.any (·.1 == w.id) then s.groupMember h w .leave
  else
    let s := s.endRound h true
    match s.group? h.loc with
    | none => s
    | some g => (s.groupLeave g w).advanceGroup h.loc 8300

/-- What the home of the area must have done before it acts on the fields in use. -/
def areaNeeds (s : State) (h : GroupHold) (core : Option Nat) : Option State :=
  let n := 0x280 + 4 * (min 4096 (s.areaNat h 4 4) + 1)
  match s.homeNeeds h.loc (min n h.split) core true with
  | some s => some s
  | none => if n ≤ h.split then none else s.homeNeeds h.rest (n - h.split) core true

/-- Waves that have ended leave every group, once the homes of the areas are ready (R333); a wave's own held contribution
does not hold its end back. (DESIGN CHOICE: log 171.) -/
def pollGroups (s : State) : State :=
  s.waves.foldl (fun s w =>
    if w.st == .ended && w.groups.any (·.isSome) then
      let needs := s.homes.groups.foldl (fun (r : Bool × State) g => match r.2.areaNeeds g none with
        | some s => (true, s)
        | none => r) (false, s)
      if needs.1 then needs.2
      else
        let s := s.homes.groups.foldl (fun s g => match s.group? g.loc with
          | some g => s.groupEnds g w
          | none => s) s
        s.modWave w.id fun w => { w with groups := List.replicate 8 none }
    else s) s

end State

end Sys2Proof.Machine
end

