-- ==== Sys2Proof/Machine/Address.lean ====
section
/-! DEFINITION. Generic addresses (R259 to R261), the link tables (R372 to R378), serials and remote requests (R282,
R381, R382). -/

namespace Sys2Proof.Machine

/-! Link tables. -/

/-- Bytes of the link tables, slots 0 to 0x1_02FF (R372). (PRESUMED: log 120.) -/
def linkTableBytes : Nat := 32 * 0x10300

/-- The 32 bytes of a slot; a slot nothing has written reads zero (R376). -/
def State.linkSlot (s : State) (n : Nat) : List Byte := (lookupKey n s.link.slots).getD (List.replicate 32 0#8)
def State.linkConfig (s : State) (off : Nat) : Nat := pfield (s.linkSlot 0x10100) off 4
def State.ownRank (s : State) : Nat := s.linkConfig 0
def State.incarn (s : State) : Nat := s.linkConfig 12

/-- The run of a rank (R374): its slot's bytes. -/
def State.runOf (s : State) (x : Nat) : Option (List Byte) :=
  if s.linkConfig 4 ≤ x then none
  else
    let n := s.linkConfig 8
    let listed := s.link.slots.filter (fun e => e.1 < n)
    let gap := (List.range (min n (listed.length + 1))).find? (fun i => !(listed.any (·.1 == i)))
    let slots := (match gap with
      | some i => [(i, List.replicate 32 0#8)]
      | none => []) ++ listed
    let first (b : List Byte) : Nat := pfield b 0 4 % 2 ^ 17
    let best := slots.foldl (fun (r : Option (Nat × List Byte)) e =>
      if x < first e.2 then r
      else match r with
        | none => some e
        | some o => if first o.2 < first e.2 ∨ (first o.2 = first e.2 ∧ e.1 < o.1) then some e else r) none
    match best with
    | none => none
    | some (_, b) =>
      let kind := pfield b 21 1
      if first b + pfield b 4 4 ≤ x ∨ kind = 0 ∨ 2 < kind then none else some b

/-- A rank can be named: the device's own, or one a run covers (R374, R375). -/
def State.rankOk (s : State) (r : Nat) : Bool := r = s.ownRank || (s.runOf r).isSome
/-- The KIND a rank is reached by: 1 within the pod, 2 otherwise, the own rank's ordering being that of the job. -/
def State.rankKind (s : State) (r : Nat) : Nat :=
  if r = s.ownRank then 2 else (s.runOf r).elim 2 (fun b => pfield b 21 1)
/-- The incarnation a request to a rank carries. -/
def State.rankIncarn (s : State) (r : Nat) : Nat :=
  if r = s.ownRank then s.incarn else (s.runOf r).elim 0 (fun b => pfield b 24 4)

/-! Regions (R377, R385). -/

/-- What a region check gives: the context and address named, or the refusal. -/
inductive RegionAt where
  | ok (ctx va : Nat)
  | denied (e : Nat)
  deriving DecidableEq, Repr

/-- The region check of R385, its page check apart: `perm` is the permission bit the kind needs. -/
def State.regionCheck (s : State) (src region off n perm : Nat) : RegionAt :=
  let d := s.linkSlot (0x10000 + region)
  let size := pfield d 8 8
  let c := pfield d 16 1
  let first := pfield d 20 4
  let count := pfield d 24 4
  if size = 0 || c ≥ 64 || !(s.ctx c).st.alive then .denied 1
  else if size < off + n then .denied 2
  else if !((pfield d 17 1).testBit perm) then .denied 3
  else if count ≠ 0 && (src < first || first + count ≤ src) then .denied 4
  else .ok c (pfield d 0 8 + off)

/-! Places. -/

/-- Where a lane's access is performed: at a local or scratch location, or at a rank (R259). -/
inductive Place where
  | mem (l : Loc)
  | far (rank region off : Nat)
  deriving DecidableEq, Repr

/-- A class check of a generic address (R259): what is left to translate, or the failure. -/
inductive Named where
  | local (ctx va : Nat)
  | placed (p : Place)
  | bad (f : LaneFail)
  deriving DecidableEq, Repr

/-- Check an address against its class. -/
def State.nameOf (s : State) (w : Wave) (a : Nat) : Named :=
  let bad (e : Nat) : Named := .bad ⟨.address, BitVec.ofNat 64 a, some (BitVec.ofNat 64 e)⟩
  match a / 2 ^ 62 % 4 with
  | 0 =>
    if bitsOf a 61 57 ≠ 0 then bad 2
    else match s.vaContext w a with
      | none => bad 14
      | some (c, va) => .local c va
  | 1 => if s.rankOk (bitsOf a 61 45) then .placed (.far (bitsOf a 61 45) (bitsOf a 44 40) (a % 2 ^ 40)) else bad 3
  | 2 =>
    if bitsOf a 61 28 ≠ 0 then bad 2
    else if w.decl.gang ≤ bitsOf a 27 23 then bad 4
    else if w.decl.scratch ≤ a % 2 ^ 23 then bad 5
    else
      match s.blocks.find? (fun b => b.live && b.ctx == w.ctx && b.tag == w.tag && b.gang == w.gang &&
          b.member == bitsOf a 27 23) with
      | some b => .placed (.mem ⟨.scratch b.id, a % 2 ^ 23⟩)
      | none => bad 4
  | _ => bad 1

/-- The places of the lanes of a memory instruction, or why it fails, or that it waits. -/
inductive Located where
  | ok (s : State) (ps : List (Nat × Place))
  | fail (s : State) (f : Fail)
  | stall (s : State)

/-- What a lane's last check finds. -/
inductive LaneLater where
  | ok (s : State)
  | bad (f : LaneFail) (s : State)
  | stall (s : State)

/-- Translate one local address of a lane. -/
inductive LaneAt where
  | ok (l : Loc) (s : State)
  | bad (f : LaneFail) (s : State)
  | stall (s : State)

def State.laneAt (s : State) (w : Wave) (c va a : Nat) (need : Need) : LaneAt :=
  match s.translate (some w.core) (State.dieOf w.core) c va need with
  | .ok l s => .ok l s
  | .stall s => .stall s
  | .fault f s => .bad ⟨f.cause, BitVec.ofNat 64 a, some (f.einfo need.wr w.replayCount)⟩ s

namespace Iss

/-- The checks of R261 for each lane, in its order: poison, class, alignment, then the page of a local address, and
last the data that must not be poisoned there (R262). `extra` are the instruction's own checks of the address class,
made with it, `later` those it makes in a lane after all of these; the lowest failing lane decides (R97). -/
def locate (x : Iss) (lanes : List Nat) (addr : Nat → Val64) (align : Nat) (need : Need)
    (extra : Nat → Named → Option LaneFail) (data : Nat → Place → Bool := fun _ _ => false)
    (later : Nat → Place → State → LaneLater := fun _ _ s => .ok s) : Located :=
  let start : Except State (State × List (Nat × Place) × List (Nat × LaneFail)) := .ok (x.s, [], [])
  let r := lanes.foldl (fun r i =>
    match r with
    | .error s => .error s
    | .ok (s, ps, fs) =>
      let v := addr i
      let a := v.bits.toNat
      let n := s.nameOf x.w a
      let put (s : State) (p : Place) : Except State (State × List (Nat × Place) × List (Nat × LaneFail)) :=
        if data i p then .ok (s, ps, fs ++ [(i, ⟨.poison, v.bits, none⟩)])
        else match later i p s with
          | .ok s => .ok (s, ps ++ [(i, p)], fs)
          | .bad f s => .ok (s, ps, fs ++ [(i, f)])
          | .stall s => .error s
      let early : Option LaneFail :=
        if v.poison then some ⟨.poison, v.bits, none⟩
        else match extra i n, n with
          | some f, _ => some f
          | none, .bad f => some f
          | none, _ => if a % align ≠ 0 then some ⟨.align, v.bits, none⟩ else none
      match early, n with
      | some f, _ => .ok (s, ps, fs ++ [(i, f)])
      | none, .local c va =>
        (match s.laneAt x.w c va a need with
          | .stall s => .error s
          | .bad f s => .ok (s, ps, fs ++ [(i, f)])
          | .ok l s => put s (.mem l))
      | none, .placed p => put s p
      | none, .bad f => .ok (s, ps, fs ++ [(i, f)])) start
  match r with
  | .error s => .stall s
  | .ok (s, ps, fs) =>
    match fs.head? with
    | none => .ok s ps
    | some (_, f) =>
      .fail s ⟨f.cause, laneSet ((fs.filter (fun e => e.2.cause == f.cause)).map (·.1)), f.faddr, f.einfo⟩

end Iss

/-! Serials (R282, R382). -/

/-- The serial of a wave for a sequence value. -/
def Wave.serial (w : Wave) (seq : Nat) : DWord :=
  BitVec.ofNat 64 (w.ctx % 64 * 2 ^ 58 + w.tag % 4096 * 2 ^ 46 + w.grid % 2 ^ 22 * 2 ^ 24 + seq % 2 ^ 24)

/-- A sequence value is left (R282). -/
def Wave.streamLeft (w : Wave) : Bool := w.seq < 2 ^ 24

/-- The trap of an issue that needs a value after the last. -/
def Iss.exhausted (x : Iss) (s : State) : Res := .trap s ⟨.streamExhausted, x.act, 0, none⟩

/-- A request of a lane to a rank. -/
def Iss.request (x : Iss) (s : State) (kind : ReqKind) (lane rank region off size : Nat) (sub : BitVec 5)
    (order : Order) (scope : Scope) (data : List Byte) : RemoteReq :=
  { kind, key := ⟨s.ownRank, s.incarn, x.w.serial x.w.seq, lane⟩, target := rank, tIncarn := s.rankIncarn rank,
    packet := 0, packets := 1, region, offset := off, sub, size, order, scope, data, flagReg := 0, flagOff := 0,
    tctx := 0, vec := 0, mask := 0#64 }

/-- The generic address of a place at a rank. -/
def globalAddr (rank region off : Nat) : DWord := BitVec.ofNat 64 (2 ^ 62 + rank * 2 ^ 45 + region * 2 ^ 40 + off)

end Sys2Proof.Machine

namespace Sys2Proof

/-- The bytes a request's region check covers, its slot or flag apart. -/
def RemoteReq.span (r : RemoteReq) : Nat :=
  match r.kind with
  | .write | .putfData => r.data.length
  | .keyed => 16
  | .mailbox => 128
  | .slotRelease | .carryForward => 64
  | _ => r.size

/-- Where a request acts at its owner: region, offset, bytes; a PUTF's last at its flag. -/
def RemoteReq.area (r : RemoteReq) : Nat × Nat × Nat :=
  if r.kind == .putfFlag then (r.flagReg, r.flagOff, r.size) else (r.region, r.offset, r.span)

/-- Two requests act on common bytes, and one of them at least writes. -/
def RemoteReq.meets (a b : RemoteReq) : Bool :=
  let writes (r : RemoteReq) : Bool := match r.kind with
    | .write | .atomic | .cas | .keyed | .putfData | .putfFlag => true
    | _ => false
  let reads (r : RemoteReq) : Bool := r.kind == .load
  let (x, y) := (a.area, b.area)
  x.1 == y.1 && decide (x.2.1 < y.2.1 + y.2.2 ∧ y.2.1 < x.2.1 + x.2.2) &&
    ((writes a && (writes b || reads b)) || (reads a && writes b))

/-- The requests of the lanes of a COLL packet, in ascending lane order: each is a key of its own (R381).
(DEDUCED: log 85.) -/
def RemoteReq.collLanes (r : RemoteReq) : List RemoteReq :=
  (Machine.lanesOf r.mask).zipIdx.map fun (i, j) =>
    let d := (r.data.drop (j * (8 + r.size))).take (8 + r.size)
    let at_ := Machine.leNat (d.take 8) % 2 ^ 45
    { r with key := { r.key with lane := i }, region := at_ / 2 ^ 40, offset := at_ % 2 ^ 40, data := d.drop 8, mask := 0#64 }

/-- The line of the owner that a packet goes to: that of its flag for a PUTF's last, of its lowest lane for a COLL packet.
(DESIGN CHOICE: log 142.) -/
def RemoteReq.toLine (r : RemoteReq) : Nat :=
  (if r.mask ≠ 0#64 then Machine.leNat (r.data.take 8) % 2 ^ 45 else r.area.1 * 2 ^ 40 + r.area.2.1) / 128 * 128

end Sys2Proof

namespace Sys2Proof.Machine

/-! Paths (R373, R378, R380, R381). -/

/-- The paths of the path set of a run: port and entropy of each; none where the set has no PORTS bit or a KIND other than
the run's. (DESIGN CHOICE: log 142.) -/
def State.pathsOf (s : State) (run : List Byte) : List (Nat × Nat) :=
  let kind := pfield run 21 1
  let set := s.linkSlot (0x10200 + pfield run 20 1)
  let ports := (List.range (if kind = 1 then 16 else 8)).filter fun b => (pfield set 0 2).testBit b
  if pfield set 2 1 ≠ kind || ports.isEmpty then []
  else (List.range (min 64 (pfield set 3 1))).map fun j =>
    ((if kind = 1 then 0 else 16) + ports.getD (j % ports.length) 0, if kind = 1 then 0 else (pfield set 4 4 + j) % 2 ^ 32)

/-- The route to a rank, as its run stands now: BASE + j × STRIDE names the endpoint, which the network prefix
completes outside the pod (R373). The own rank has none (R375). -/
def State.routeOf (s : State) (rank : Nat) : Route :=
  match (if rank = s.ownRank then none else s.runOf rank) with
  | none => ⟨false, s.rankIncarn rank, 0, []⟩
  | some run =>
    let pod := pfield run 21 1 = 1
    let at_ := (pfield run 8 8 + (rank - pfield run 0 4 % 2 ^ 17) * pfield run 16 4) % 2 ^ 64
    ⟨pod, pfield run 24 4, if pod then at_ % 1024 else s.dev.netprefix * 2 ^ 64 + at_, s.pathsOf run⟩

/-- A port carries traffic: it is Up or Degraded (R380). -/
def State.portUsable (s : State) (p : Nat) : Bool := match s.link.ports[p]? with
  | some (.up, _) | some (.degraded, _) => true
  | _ => false

/-- The path of a packet, none where no port of the route carries traffic. In the pod it is the station that the fixed
hash gives over the usable ones, of the job the next in a rotation weighted by congestion, which is a free choice
(R381). (DESIGN CHOICE: log 142.) -/
def State.choosePath (s : State) (r : Route) (target line : Nat) : Option (Nat × Nat) × State :=
  match r.paths.filter (fun p => s.portUsable p.1) with
  | [] => (none, s)
  | p :: ps =>
    if r.pod then
      let st := dedup ((p :: ps).map (·.1))
      let k := Config.station target line (st.foldl (fun n b => n + 2 ^ b) 0) % st.length
      (some (st.getD k p.1, 0), s)
    else
      let (k, s) := s.choose (p :: ps).length
      (some ((p :: ps).getD k p), s)

/-! Injectors (R398). -/

/-- The lane's injector counts a packet: of its direction, a kind and a peer of its descriptor (R397). -/
def Injector.counts (j : Injector) (sent : Bool) (kind rank : Nat) : Bool :=
  j.mode != 0 && (j.dir == 1) == sent && (j.kinds == 0 || j.kinds.testBit kind) &&
    (!(j.peer.testBit 31) || j.peer % 2 ^ 17 == rank)

def State.setInjector (s : State) (lane : Nat) (j : Injector) : State :=
  s.modLink fun l => { l with injectors := updAt lane (fun _ => j) l.injectors }

/-- What waited for its flit goes on: a packet is on its path, a reply is sent. -/
def State.passFlit (s : State) : Flit → State
  | .packet key no way => s.modLink fun l => { l with out := l.out.map fun o =>
      if o.req.key == key then { o with ways := o.ways.filter (·.1 != no) ++ [(no, way.1, way.2)] } else o }
  | .reply key r => s.modLink fun l => { l with replies := l.replies ++ [(key, r)] }
  | .received => s

/-- The flit that brought a lane's counter to zero is acted on, and the counter reloads or the injector turns off: a
delayed flit is held, a UALink station recovers a bad or missing one by link-level retry, an Ethernet packet is lost
until it is sent again (R383). (DESIGN CHOICE: log 91.) -/
def State.triggerFlit (s : State) (lane : Nat) : State :=
  match s.link.injectors[lane]? with
  | none => s
  | some j => match j.hit with
    | none => s
    | some f =>
      let k : Injector := { j with
        hit := none, count := if j.repeats then j.n else 0, mode := if j.repeats then j.mode else 0
        late := if j.mode = 3 then j.late ++ [f] else j.late }
      let s := s.setInjector lane k
      if j.mode ≠ 3 ∧ lane < 64 then s.passFlit f else s

/-- A packet crosses a port: each lane's injector that counts it comes down by the packet's flits on the lane, a free
number. True where none reaches zero. (DESIGN CHOICE: log 91.) -/
def State.crosses (s : State) (port : Nat) (sent : Bool) (kind rank : Nat) (f : Flit) : Bool × State :=
  (natsFrom (4 * port) 4).foldl (fun (r : Bool × State) lane =>
    match r.2.link.injectors[lane]? with
    | none => r
    | some j =>
      if !(j.counts sent kind rank) then r
      else
        let s := r.2.triggerFlit lane
        match s.link.injectors[lane]? with
        | none => (r.1, s)
        | some j =>
          if !(j.counts sent kind rank) then (r.1, s)
          else
            let (n, s) := s.choose (2 ^ 32)
            if n < j.count then (r.1, s.setInjector lane { j with count := j.count - n })
            else (false, s.setInjector lane { j with count := 0, hit := some f })) (true, s)

/-- A packet of another rank comes in over a port that carries traffic (R380), a free choice; false where there is
none, or where an injector takes it. Kinds: 0 requests, 1 replies, 2 NACKs, 3 notices. -/
def State.comesIn (s : State) (kind rank : Nat) : Bool × State :=
  match (List.range 24).filter s.portUsable with
  | [] => (false, s)
  | ps =>
    let (k, s) := s.choose ps.length
    s.crosses (ps.getD k 0) false kind rank .received

/-! Sending (R378, R381, R383). -/

/-- The packets of a key, numbered: the data of a PUTF and then its flag, the packet of a COLL, or the request. -/
def Outstanding.packets (o : Outstanding) : List (Nat × RemoteReq) :=
  if o.req.kind == .putfFlag then o.parts.map (fun r => (r.packet, r)) ++ [(o.req.packets, o.req)]
  else if o.parts.isEmpty then [(0, o.req)] else o.parts.map (0, ·)

/-- The key's COLL packet is the other's too (R381). -/
def Outstanding.shares (o q : Outstanding) : Bool := o.req.kind == .atomic && !o.parts.isEmpty && o.parts == q.parts

/-- A COLL packet must wait for another of its instruction: that has a lower lane on common bytes (R340). -/
def State.collWaits (s : State) (o : Outstanding) : Bool :=
  o.req.kind == .atomic && (o.parts.flatMap (·.collLanes)).any fun r => s.link.out.any fun q =>
    q.req.key.serial == r.key.serial && q.req.target == r.target && q.parts != o.parts &&
      decide (q.req.key.lane < r.key.lane) && q.req.meets r

/-- The paths of some of a key's packets, the others' kept: a packet with no path is not sent and keeps its last. -/
def State.sendPackets (s : State) (o : Outstanding) (which : Nat → Bool) : List (Nat × Nat × Nat) × State :=
  if s.collWaits o then (o.ways, s)
  else
    let kind := match o.req.kind with
      | .retirement | .slotRelease => 3
      | _ => 0
    (o.packets.filter fun p => which p.1).foldl (fun (r : List (Nat × Nat × Nat) × State) p =>
      match r.2.choosePath o.route o.req.target p.2.toLine with
      | (none, s) => (r.1, s)
      | (some w, s) => match s.crosses w.1 true kind o.req.target (.packet o.req.key p.1 w) with
        | (true, s) => (r.1.filter (·.1 != p.1) ++ [(p.1, w.1, w.2)], s)
        | (false, s) => (r.1.filter (·.1 != p.1), s)) (o.ways, s)

/-- Send some of a key's packets again, each on a path of its own (R381, R383). (DESIGN CHOICE: log 142.) -/
def State.transmit (s : State) (key : Key) (which : Nat → Bool) (f : Outstanding → Outstanding) : State :=
  match s.link.out.find? (·.req.key == key) with
  | none => s
  | some o =>
    let (ways, s) := s.sendPackets o which
    s.modLink fun l => { l with out := l.out.map fun q =>
      if q.req.key == key then { f q with ways } else if o.shares q then { q with ways } else q }

/-- The die of a wave's core. -/
def State.waveDie (s : State) (wave : Nat) : Nat := (s.wave? wave).elim 0 fun w => State.dieOf w.core

/-- Send requests through the Col of a die: each is outstanding there until its final reply (R383), under the route
that its run has, or that a held one has kept (R372). One that a rollback or a replay issues again carries its former
serial: it is the request that is outstanding (R290, R365, R421). `parts` are a request's packets beside its own. The
launch has reached the rank (R387). (DEDUCED: log 83.) -/
def State.sendFrom (s : State) (die wave uid ctx tag : Nat) (reqs : List RemoteReq) (parts : RemoteReq → List RemoteReq)
    (cell : Option CarryAt) (desc : Option Loc) : State :=
  let s := reqs.foldl (fun s r =>
    let route := ((s.link.kept.find? (·.1 == r.key)).map (·.2)).getD (s.routeOf r.target)
    let at_ := globalAddr r.target r.region r.offset
    let o : Outstanding := {
      req := r, wave, uid, tries := 1, sentAt := s.clk, parked := false, busyAt := none, faddr := at_, addr := at_, cell, desc
      parts := parts r, no := 0, ipc := 0, die, route, ways := [] }
    match s.link.out.find? (·.req.key == r.key) with
    | some q => (s.modWave q.wave fun w => w.finishOp q.uid s.clk).modLink fun l => { l with
        out := l.out.map (fun q => if q.req.key == r.key then { q with uid } else q), kept := l.kept.filter (·.1 != r.key) }
    | none =>
    let (ways, s) := match s.link.out.find? o.shares with
      | some q => (q.ways, s)
      | none => s.sendPackets o fun _ => true
    s.modLink fun l => { l with out := l.out ++ [{ o with ways }], kept := l.kept.filter (·.1 != r.key) }) s
  s.modLaunch ctx tag fun l => { l with
    reached := updAt die (fun l => reqs.foldl (fun l r => insertNat r.target l) l) l.reached }

def State.sendRemote (s : State) (w : Wave) (uid : Nat) (reqs : List RemoteReq) (parts : RemoteReq → List RemoteReq)
    (desc : Option Loc) : State := s.sendFrom (State.dieOf w.core) w.id uid w.ctx w.tag reqs parts none desc

/-- The requests of a held effect. -/
def Effect.requests : Effect → List RemoteReq
  | .remote rs | .coll rs | .putf rs _ _ => rs
  | .interruptTo r _ => [r]
  | _ => []

/-- The places of other ranks that a held effect acts on: rank, region, offset, bytes. -/
def Effect.areas : Effect → List (Nat × Nat × Nat × Nat)
  | .putf rs srcs _ => (rs.zip srcs).flatMap fun (r, ls) =>
      [(r.target, r.region, r.offset, ls.foldl (fun n p => n + p.2) 0), (r.target, r.area)]
  | e => e.requests.map fun r => (r.target, r.region, r.offset, max r.size r.data.length)

/-- A slot is about to change: the requests that are held or wait their turn keep the mapping they were issued under
(R372). -/
def State.keepRoutes (s : State) : State :=
  let rs := (s.waves.flatMap fun w => w.held.flatMap fun h => h.effect.requests) ++ s.link.intWait.map (·.2.2.2)
  let new := rs.filter fun r => !(s.link.kept.any (·.1 == r.key))
  s.modLink fun l => { l with kept := l.kept ++ new.map fun r => (r.key, s.routeOf r.target) }

/-- Earlier operations of the wave on the same bytes of a pod peer are still held (R268, R301). -/
def Wave.heldAt (w : Wave) (rank region off n : Nat) : Bool :=
  w.held.any fun h => h.effect.areas.any fun a => a.1 == rank && a.2.1 == region &&
    decide (a.2.2.1 < off + n ∧ off < a.2.2.1 + a.2.2.2)

end Sys2Proof.Machine
end

