-- ==== Sys2Proof/Machine/Vector.lean ====
section
/-! DEFINITION. The interrupt page at its home: records, permissions, sends (R399 to R404, R407, R410, R411, R414). -/

namespace Sys2Proof.Machine

/-! The page (R399 to R402). -/

/-- A vector record: its fields as they stand. -/
structure Vector where
  count   : Nat
  ctl     : Nat
  stamp   : Nat
  payload : Nat
  deriving DecidableEq, Repr

def Vector.enabled (v : Vector) : Bool := v.ctl.testBit 0
def Vector.masked (v : Vector) : Bool := v.ctl.testBit 1
def Vector.wakes (v : Vector) : Bool := v.ctl.testBit 2
/-- Pending, or Active (R403). -/
def Vector.pending (v : Vector) : Bool := v.enabled && !v.masked && v.count != 0

def State.vectorAt (s : State) (l : Loc) : Vector :=
  ⟨s.natAt l 2, s.natAt (l.plus 2) 1, s.natAt (l.plus 4) 4, s.natAt (l.plus 8) 8⟩

/-- Reach the records, permissions and runs of a context's page. -/
def State.reachPage (s : State) (ctx : Nat) : DevAcc := s.reach (s.homeDie ctx (s.ctx ctx).uipage) ctx (s.ctx ctx).uipage 0x1800 Need.both

/-- Who sends: a wave of a context, a rank, or the host. -/
inductive Sender where
  | wave (ctx : Nat)
  | rank (x : Nat)
  | host
  deriving DecidableEq, Repr

/-- The permission record allows the sender (R402). -/
def State.senderAllowed (s : State) (page : Loc) (vec : Nat) (who : Sender) : Bool :=
  let p := page.plus (0x400 + 16 * vec)
  match who with
  | .wave c => (s.natAt p 8).testBit c
  | .host => (s.natAt (p.plus 11) 1).testBit 0
  | .rank x =>
    let first := s.natAt (p.plus 8) 2
    (List.range (s.natAt (p.plus 10) 1)).any fun k =>
      let e := page.plus (0x1000 + 8 * (first + k))
      let f := s.natAt e 4 % 2 ^ 17
      decide (first + k < 256 ∧ f ≤ x ∧ x < f + s.natAt (e.plus 4) 4)

/-! The handler wave (R410, R411). -/

/-- The handler launch's handler wave. -/
def State.handlerWave (s : State) (ctx : Nat) : Option Wave :=
  let ls := s.sched.launches.filter fun l =>
    l.ctx == ctx && (l.st == .running || l.st == .relaunching) && l.handler != 0xFFFFFFFF
  match (sortBy (fun l => l.ord) ls).head? with
  | none => none
  | some l => s.waves.find? fun w => w.ctx == ctx && w.tag == l.tag && w.grid == l.handler && w.st != .ended && !w.service

/-- The wave can be diverted (R411). -/
def Wave.deliverable (w : Wave) : Bool :=
  w.onCore && w.st == .resident && !w.stopping && !(w.windows.any (·.kind == .handler))

/-- A vector that has become Pending with WAKE raises its notice once where no delivery can be made (R414).
(DEDUCED: log 102.) -/
def State.wakeCheck (s : State) (ctx vec : Nat) (l : Loc) : State :=
  let v := s.vectorAt l
  if v.pending && v.wakes && (s.ctx ctx).active != some vec && !((s.handlerWave ctx).any Wave.deliverable) &&
      !((s.ctx ctx).wakeNoticed.contains vec) then
    (s.notice ctx 0x40 (s.ctx ctx).uipage vec).modCtx ctx fun c => { c with wakeNoticed := insertNat vec c.wakeNoticed }
  else s

/-- An atomic has been performed on a vector record: a vector that it made Pending raises its notice (R401, R404,
R414). -/
def State.enabledAt (s before : State) (l : Loc) : State :=
  let hit := (List.range 64).filterMap fun c => match s.uiPage? c with
    | some p => if overlaps p 0x400 l 1 then some (c, (l.addr - p.addr) / 16, p) else none
    | none => none
  hit.foldl (fun s e =>
    let r := e.2.2.plus (16 * e.2.1)
    if (before.vectorAt r).pending then s else s.wakeCheck e.1 e.2.1 r) s

/-! Sends (R404, R407). -/

/-- What a send at the home comes to. -/
inductive Sent where
  | done (s : State)
  | refused (e : Nat) (s : State)
  | absent (s : State)
  | wait (s : State)

/-- Perform a send at the home of a context's page. -/
def State.sendVector (s : State) (ctx vec : Nat) (payload : DWord) (who : Sender) : Sent :=
  if 64 ≤ ctx || !(s.ctx ctx).st.alive then .refused 1 s
  else match s.reachPage ctx with
    | .stall s => .wait s
    | .fault f s => if f.cause = .protection then .refused 6 s else .absent s
    | .ok page s =>
      let s := s.meetErrors page 0x1800
      if !(s.senderAllowed page vec who) then .refused 7 s
      else
        let l := page.plus (16 * vec)
        let v := s.vectorAt l
        if !v.enabled then .done s
        else
          let no := (s.ctx ctx).sendNo
          let s := s.modCtx ctx fun c => { c with sendNo := (c.sendNo + 1) % 2 ^ 32 }
          let s := (s.setNatAt l 2 (min (v.count + 1) 0xFFFF)).setNatAt (l.plus 8) 8 payload.toNat
          let s := if v.count = 0 then (s.setNatAt (l.plus 4) 4 no).wakeCheck ctx vec l else s
          .done (s.afterWrite l)

/-- The notice of a send that waits for the page, raised once for it (R385, R407). (DEDUCED: log 92.) -/
def State.parkNotice (s : State) (msg ctx addr : Nat) : State :=
  if s.link.parkNoted.contains msg then s
  else (s.notice ctx 0x30 addr 0).modLink fun l => { l with parkNoted := insertNat msg l.parkNoted }

end Sys2Proof.Machine
end

