-- ==== Sys2Proof/Machine/HostServe.lean ====
section
/-! DEFINITION. A host request at the home of its line (R248, R258, R369, R409), and the flips of a granule's bias. -/

namespace Sys2Proof.Machine

/-- The half of the line a host request is for. -/
def HostReq.half (r : HostReq) : Nat := r.addr % 128 / 64
def HostReq.line (r : HostReq) : Nat := r.addr / 128 * 128

/-- The granule is in host bias, or on its way between the two (R369). -/
def State.biasOf (s : State) (a : Nat) : Option BiasState := (s.homes.flips.find? (·.granule == a / 4096)).map (·.st)

/-- Change a host request. -/
def State.modReq (s : State) (id : Nat) (f : HostReq → HostReq) : State :=
  s.modHomes fun h => { h with hostReqs := h.hostReqs.map fun r => if r.id == id then f r else r }

/-- Cores that must be probed for a line: those of the groups the directory names (R248). -/
def State.probeCores (s : State) (line : Nat) : List Nat :=
  match s.homes.dir.find? (·.line == line) with
  | some d => (List.range 64).filter fun c => d.groups.getLsbD (groupOf c)
  | none => []

/-- The core's gate answers for a probe that carries an owner (R251): it has no block there.
(DESIGN CHOICE: log 158.) -/
def State.gateFilters (s : State) (core owner : Nat) : Bool := !(s.residentOn owner core)

/-- A core that the probe reaches holds part of the half. -/
def State.halfHeld (s : State) (line half : Nat) : Bool :=
  let bits : BitVec 4 := if half = 0 then 3#4 else 12#4
  (List.range 64).any fun c => match s.frame? c ⟨.dev, line⟩ with
    | some f => ((f.valid ||| f.dirty) &&& bits) != 0#4 && !((s.probeOwner line).1.any (s.gateFilters c))
    | none => false

/-- Grant the host a cacheable copy of a half (R246, R247, R369). -/
def State.grantHalf (s : State) (line half : Nat) : State :=
  let s := (s.dirHave line).modHomes fun h => { h with
    dir := h.dir.map fun d => if d.line == line then { d with host := d.host ||| (1#2 <<< half) } else d }
  let one (f : Frame) : Frame := if f.loc == ⟨.dev, line⟩ then { f with restrict := f.restrict ||| (1#2 <<< half) } else f
  { s with cores := s.cores.map fun c => { c with frames := c.frames.map one } }

/-- The host's send to a vector (R409), in the order it makes them (R305): at once, or behind those that wait for a page.
(DEDUCED: log 49.) -/
def State.hostSend (s : State) (ctx vec : Nat) (payload : DWord) : State :=
  let queue (s : State) : State := s.send 0 0 0 ctx (.interrupt ctx vec payload 64 0 0)
  if s.msgs.any (fun m => m.wave == 0 && (match m.kind with
    | .interrupt _ _ _ _ _ _ => true
    | _ => false)) then queue s
  else match s.sendVector ctx vec payload .host with
    | .done s => s
    | .refused _ s => s.event ctx 0 ⟨0x13, 5, 2, 0xFFFFFFFF, 0, 0, 0⟩
    | .wait s => queue s
    | .absent s =>
      let t := queue s
      t.parkNotice s.nextMsg ctx (s.ctx ctx).uipage

/-- The sends a host write makes: one for each send slot it covers whole; a poisoned write reports each slot it touches
(R409). (DEDUCED: log 49.) -/
def State.slotSends (s : State) (r : HostReq) : State :=
  let n := r.data.length
  s.slots.foldl (fun s p => (List.range 64).foldl (fun s v =>
    let l := p.2.plus (8 * v)
    if !(overlaps l 8 ⟨.dev, r.addr⟩ n) then s
    else if r.poisoned then
      let die := Config.homeSlice r.line / 32
      s.report 0x09 die die 0 (p.1 + 256 * v) false
    else if l.sp == .dev && r.addr ≤ l.addr && l.addr + 8 ≤ r.addr + n then
      s.hostSend p.1 v (BitVec.ofNat 64 (leNat ((r.data.drop (l.addr - r.addr)).take 8)))
    else s) s) s

/-- Perform a host request. (DEDUCED: log 48, 49.) -/
def State.performHost (s : State) (r : HostReq) : State :=
  let s := s.modHomes fun h => { h with hostReqs := h.hostReqs.filter (·.id != r.id) }
  let l : Loc := ⟨.dev, r.addr⟩
  if r.kind = 2 then
    let s := (s.homeStore l (pbytes r.poisoned r.data)).slotSends r
    let s := s.afterWrite l
    s.modHomes fun h => { h with hostReplies := h.hostReplies ++ [(r.id, [], false)] }
  else
    let (bs, s) := s.homeRead l r.size
    let die := Config.homeSlice r.line / 32
    let first := r.addr / 32
    let s := (natsFrom first ((r.addr + r.size - 1) / 32 + 1 - first)).foldl (fun s k =>
      if s.mem.poison.contains k then s.report 0x06 die die (32 * k) 0 true else s) s
    let s := if r.kind = 1 && s.biasOf r.addr == some .host then s.grantHalf r.line r.half else s
    s.modHomes fun h => { h with hostReplies := h.hostReplies ++ [(r.id, bs.map (·.byte), anyPoison bs)] }

/-- Perform a host request, a grant once the directory has an entry for it (R250). -/
def State.finishHost (s : State) (r : HostReq) : State :=
  match (if r.kind = 1 then s.dirFull r.line else none) with
  | some s => s
  | none => s.performHost r

/-- Take a host request as far as it goes: held through a flip and then behind those of its granule that were (R369),
behind an earlier request for its line, the rebuilding of its entry or record and a write-back of the line on its way;
the line's release record drained for a read, every core the directory names probed, and then performed. -/
def State.serveHost (s : State) (id : Nat) : State :=
  match s.homes.hostReqs.find? (·.id == id) with
  | none => s
  | some r =>
    let l : Loc := ⟨.dev, r.line⟩
    let flipping := match s.biasOf r.addr with
      | some .toHost | some .toDevice => true
      | _ => false
    let earlier := (s.homes.hostReqs.takeWhile (·.id != r.id)).any fun q =>
      q.line == r.line || (r.held && q.held && q.addr / 4096 == r.addr / 4096)
    let bad := s.homes.dir.any (fun d => d.line == r.line && d.bad)
    let busy := s.homes.hostReqs.any (fun q => q.id != r.id && (q.kind == 3 || q.kind == 4) && q.addr == r.line) ||
      (r.kind ≠ 2 && s.homes.rebuilds.contains r.line) ||
      s.msgs.any (fun m => match m.kind with
        | .writeback _ l _ _ _ _ _ => l == ⟨.dev, r.line⟩
        | _ => false)
    if r.kind = 3 || r.kind = 4 then s
    else if flipping then s.modReq id fun r => { r with held := true }
    else if earlier || busy then s
    else if bad then s.rebuildDir r.line
    else if r.kind ≠ 2 && s.dev.recErrors.contains r.line then s.rebuildRecord r.line
    else if r.kind ≠ 2 && s.mustDrain l none then
      ((s.awaits (.host id) l 1 none).requestDrain l none).modReq id fun r => { r with probed := false }
    else if r.waits ≠ 0 then s
    else if r.probed && !(s.halfHeld r.line r.half) then s.finishHost r
    else
      let cs := s.probeCores r.line
      if cs.isEmpty then s.finishHost r
      else
        let (owner, s) := s.probeOwner r.line
        let s := s.modReq id fun r => { r with probed := true, waits := cs.length }
        cs.foldl (fun s c => s.send 0 0 0 0 (.probe c r.line (some r.half) id owner)) s

/-- Take every host request as far as it goes, in arrival order (R369). -/
def State.pollHost (s : State) : State := s.homes.hostReqs.foldl (fun s r => s.serveHost r.id) s

/-! Flips of a granule's bias (R368 to R370). -/

/-- A granule's state, none for Device. -/
def State.flip? (s : State) (g : Nat) : Option Flip := s.homes.flips.find? (·.granule == g)

/-- Write BIAS and FLIP of a granule's entry (R368). -/
def State.setBias (s : State) (g bias flip : Nat) : State :=
  let a := s.dev.biastab + 2 * g
  s.setPnat a 2 (s.pnat a 2 / 4 * 4 + 2 * flip + bias)

def State.putFlip (s : State) (f : Flip) : State :=
  s.modHomes fun h => { h with flips := h.flips.filter (·.granule != f.granule) ++ [f] }

/-- The host's restriction of a half ends in every L1 (R247, R370). -/
def State.clearHalf (s : State) (line half : Nat) : State :=
  let s := s.modHomes fun h => { h with
    dir := h.dir.map (fun d => if d.line == line then { d with host := d.host &&& ~~~(1#2 <<< half) } else d) }
  { s with cores := s.cores.map (fun c => { c with frames := c.frames.map (fun f =>
      if f.loc == ⟨.dev, line⟩ then { f with restrict := f.restrict &&& ~~~(1#2 <<< half) } else f) }) }

/-- Something of a line is still on its way: a drain, a probe, a snoop, an answer, a rebuilding (R254, R255). -/
def State.lineBusy (s : State) (line : Nat) : Bool :=
  s.homes.rebuilds.contains line || s.homes.hostReqs.any (fun r => (r.kind == 3 || r.kind == 4) && r.addr == line) ||
    s.msgs.any fun m => match m.kind with
      | .drain _ _ _ l _ => l == ⟨.dev, line⟩
      | .probe _ l _ _ _ | .probeResponse _ l _ _ _ _ _ | .backInv l _ _ => l == line
      | _ => false

/-- The line a flip is at: to host its record is drained and then every core group the directory names is probed, to
device every half the host holds is recalled and the restrictions of its frames end; a bad entry is rebuilt first,
which does both (R254, R370). -/
def State.flipLine (s : State) (f : Flip) : State :=
  let line := 4096 * f.granule + 128 * f.line
  let l : Loc := ⟨.dev, line⟩
  let sent (s : State) : State := s.putFlip { f with sent := true }
  if f.sent then
    (if f.st == .toHost then s else (s.clearHalf line 0).clearHalf line 1).putFlip { f with line := f.line + 1, sent := false }
  else if s.homes.dir.any (fun d => d.line == line && d.bad) then s.rebuildDir line
  else if f.st == .toHost then
    if s.mustDrain l none then s.requestDrain l none
    else
      let (owner, s) := s.probeOwner line
      sent ((s.probeCores line).foldl (fun s c => s.send 0 0 0 0 (.probe c line none 0 owner)) s)
  else sent ([0, 64].foldl (fun s h => if s.hostHolds (l.plus h) then s.recallHalf (l.plus h) else s) s)

/-- Take a flip as far as it goes, its lines in ascending order. -/
def State.flipOn (s : State) (g : Nat) : Nat → State
  | 0 => s
  | fuel + 1 =>
    match s.flip? g with
    | none => s
    | some f => if f.st == .host || 32 ≤ f.line || s.lineBusy (4096 * g + 128 * f.line) then s else (s.flipLine f).flipOn g fuel

/-- Begin a flip (R370). (DEDUCED: log 131.) -/
def State.startFlip (s : State) (g : Nat) (toHost : Bool) (waves : List (Nat × Nat × Nat)) : State :=
  ((s.setBias g (if toHost then 0 else 1) 1).putFlip ⟨g, if toHost then .toHost else .toDevice, 0, false, waves⟩).flipOn g 100

/-- Take every flip as far as it goes. -/
def State.pollFlips (s : State) : State := s.homes.flips.foldl (fun s f => s.flipOn f.granule 100) s

end Sys2Proof.Machine
end

