-- ==== Sys2Proof/Machine/CarryHome.lean ====
section
/-! DEFINITION. The home of a carry cell: its events, its fold and its forward (R350 to R352). -/

namespace Sys2Proof.Machine

namespace State

def carryState (s : State) (c : CarryAt) : Nat := s.natAt c.loc 1
def carryOp (s : State) (c : CarryAt) : Nat := s.natAt (c.loc.plus 1) 1
def setCarryState (s : State) (c : CarryAt) (v : Nat) : State := s.setNatAt c.loc 1 v

/-- The next event makes the cell Poisoned: its sector was read poisoned, or its STATE or OP is none (R350, R351). -/
def carryBad (s : State) (c : CarryAt) (poison : Bool) : Bool :=
  s.carryState c ≠ 4 && (poison || 5 ≤ s.carryState c || 12 ≤ s.carryOp c)

/-- Bytes of a value: a pair for linrec, else the low 4 (R350). -/
def carrySize (sub : Nat) : Nat := if sub = 11 then 8 else 4

/-- A duplicate is counted (R351). -/
def carryDup (s : State) (c : CarryAt) : State :=
  s.setNatAt (c.loc.plus 40) 4 (min (s.natAt (c.loc.plus 40) 4 + 1) (2 ^ 32 - 1))

/-- A forward that can never be applied: the cell becomes Poisoned, and a notice says why (R351). -/
def carryFails (s : State) (c : CarryAt) (code : Nat) : State :=
  (s.setCarryState c 4).notice c.ctx 0x20 c.va code

/-- The serial a forward carries: that of the CPOST that posted the cell's TOTAL; the spec gives none for a cell with no
post, where it is a free value. -/
def carrySerial (s : State) (c : CarryAt) : DWord × State :=
  match s.homes.posts.find? (·.1 == c.loc) with
  | some p => (p.2, s)
  | none => s.draw

/-- The forward of a value to NEXT (R351, R352): the place of a local one is checked when it is made. `wave` and `uid` are
the CPOST that made the cell fold. -/
def carryForwardFrom (s : State) (c : CarryAt) (wave uid : Nat) (v : DWord) (poison : Bool) : State :=
  let next := s.natAt (c.loc.plus 8) 8
  let (serial, s) := s.carrySerial c
  if next = 0 then s
  else match next / 2 ^ 62 with
    | 0 =>
      if bitsOf next 61 57 ≠ 0 then s.carryFails c 3
      else if next % 64 ≠ 0 then s.carryFails c 2
      else
        let die := s.sliceOf c.loc / 32
        let go (s : State) : State := s.send 0 0 0 c.ctx (.forward c next v poison serial)
        (match s.translate none die c.ctx next Need.both with
          | .ok _ s => go s
          | .stall s => go s
          | .fault f s => if f.cause = .protection then s.carryFails c 3 else go s)
    | 1 =>
      if next % 64 ≠ 0 then s.carryFails c 2
      else
        let rank := bitsOf next 61 45
        if !s.rankOk rank then s.carryFails c 5
        else
          let r : RemoteReq := {
            kind := .carryForward, key := ⟨s.ownRank, s.incarn, serial, 0⟩, target := rank, tIncarn := s.rankIncarn rank,
            packet := 0, packets := 1, region := bitsOf next 44 40, offset := next % 2 ^ 40, sub := 0, size := 8,
            order := .relaxed, scope := if s.rankKind rank = 1 then .pod else .job
            data := leBytes 8 v.toNat ++ [if poison then 1#8 else 0#8], flagReg := 0, flagOff := 0, tctx := 0, vec := 0, mask := 0#64 }
          s.sendFrom (s.sliceOf c.loc / 32) wave uid (bitsOf serial.toNat 63 58) (bitsOf serial.toNat 57 46) [r] (fun _ => []) (some c)
            none
    | _ => s.carryFails c 1

/-- An event that makes the cell Poisoned (R351): from Empty, Carried or Posted it forwards poison; a Done cell only
changes; a Poisoned one does not. -/
def carryPoisoned (s : State) (c : CarryAt) (by_ : Option (Nat × Nat)) : State :=
  match s.carryState c with
  | 4 => s
  | 3 => s.setCarryState c 4
  | _ => (s.setCarryState c 4).carryForwardFrom c (by_.elim 0 (·.1)) (by_.elim 0 (·.2)) 0 true

/-- The fold, GEN and the forward, in one home operation (R351). -/
def carryFold (s : State) (c : CarryAt) (wave uid : Nat) : State :=
  let sub := s.carryOp c
  let n := carrySize sub
  let v := (scanOp sub .home (s.natAt (c.loc.plus 16) n) (s.natAt (c.loc.plus 24) n)).1
  let s := (s.setNatAt (c.loc.plus 32) n v).setCarryState c 3
  let s := s.setNatAt (c.loc.plus 4) 4 ((s.natAt (c.loc.plus 4) 4 + 1) % 2 ^ 32)
  s.carryForwardFrom c wave uid (BitVec.ofNat 64 v) false

/-- A post arrives (R351). -/
def carryPosted (s : State) (c : CarryAt) (wave uid opc : Nat) (total serial : DWord) : State :=
  let (bs, s) := s.homeRead c.loc 64
  let keep (s : State) : State := s.modHomes fun h => { h with posts := h.posts.filter (·.1 != c.loc) ++ [(c.loc, serial)] }
  if s.carryBad c (anyPoison bs) || (s.carryState c ≠ 4 && s.carryOp c ≠ opc) then
    (if s.carryState c = 3 then s else keep s).carryPoisoned c (some (wave, uid))
  else
    let n := carrySize opc
    match s.carryState c with
    | 0 => ((keep s).setNatAt (c.loc.plus 24) n (total.toNat % 2 ^ (8 * n))).setCarryState c 2
    | 1 => ((keep s).setNatAt (c.loc.plus 24) n (total.toNat % 2 ^ (8 * n))).carryFold c wave uid
    | 4 => if s.carryOp c = opc then s.carryDup c else s
    | _ => s.carryDup c

/-- A forward arrives (R351). -/
def carryArrives (s : State) (c : CarryAt) (v : DWord) (poison : Bool) : State :=
  let (bs, s) := s.homeRead c.loc 64
  if s.carryBad c (anyPoison bs) || (s.carryState c ≠ 4 && poison) then s.carryPoisoned c none
  else
    let n := carrySize (s.carryOp c)
    let take (s : State) : State := s.setNatAt (c.loc.plus 16) n (v.toNat % 2 ^ (8 * n))
    match s.carryState c with
    | 0 => (take s).setCarryState c 1
    | 2 => (take s).carryFold c 0 0
    | 4 => if poison then s else s.carryDup c
    | _ => s.carryDup c

end State

end Sys2Proof.Machine
end

