-- ==== Sys2Proof/Machine/Wake.lean ====
section
/-! DEFINITION. What the device re-evaluates after an event: waiting instructions (R92, R163, R277, R278, R329, R342,
R349, R351, R361), triggers and joins (R320, R321), held launches (R116), launch completions (R128). -/

namespace Sys2Proof.Machine

/-- The acquire that an access ends with (R242): the Clean frames of the context go. (DEDUCED: log 161.) -/
def State.acquire (s : State) (w : Wave) (scope : Option Scope) : State :=
  if scope.any Scope.gangUp then s.acquireInval w.core w.ctx else s

/-! Completion. -/

/-- What an instruction raises for the lanes refused: the cause of the lowest, in every lane that has it (R97, R386). -/
def refusal (l : List (Nat × Nat × DWord × DWord)) : Option Fail :=
  match sortBy (fun e => e.1) l with
  | [] => none
  | (_, code, faddr, einfo) :: _ =>
    let lanes := l.filterMap (fun (e : Nat × Nat × DWord × DWord) => if e.2.1 = code then some e.1 else none)
    some { cause := Cause.ofCode code, lanes := laneSet lanes, faddr := faddr, einfo := some einfo }

/-- Complete an instruction in flight once nothing of it is held, on its way or outstanding: the lanes refused raise
their trap, the acquire is made (R152, R242, R386). (DEDUCED: log 94.) -/
def State.settleOp (s : State) (id uid : Nat) : State :=
  match s.wave? id with
  | none => s
  | some w =>
    match w.op? uid with
    | none => s
    | some o =>
      let open_ := o.done || o.pieces.any (!·.done) || w.held.any (·.uid == uid) ||
        s.msgs.any (fun m => m.wave == id && m.uid == uid) || s.link.out.any (fun t => t.wave == id && t.uid == uid) ||
        s.link.sendWait.any (fun t => t.wave == id && t.uid == uid)
      if open_ then s
      else
        let s := match refusal o.refused with
          | none => s
          | some f => s.reportOp id o f
        let s := if o.acq.isSome then s.acquire w o.acq else s
        s.modWave id fun w => w.finishOp uid s.clk

/-! The wave's own writes that are still to be performed (R268). -/

/-- The wave holds a store to these bytes (R268). -/
def Wave.holdsStore (w : Wave) (no : Nat) (l : Loc) (n : Nat) : Bool :=
  w.held.any fun h => match h.effect with
    | .stores ops _ _ => h.no < no && ops.any (fun op => overlaps op.loc op.data.length l n)
    | _ => false

/-- An operation of the wave at the home on these bytes is still to be performed: held, or on its way. -/
def State.homeOpPending (s : State) (w : Wave) (no : Nat) (l : Loc) (n : Nat) : Bool :=
  w.held.any (fun h => h.no < no && (match h.effect with
    | .homeOps _ ops _ _ => ops.any (fun op => overlaps op.loc op.size l n)
    | .stores ops home _ => (home || l.sp != .dev) && ops.any (fun op => overlaps op.loc op.size l n)
    | _ => false)) ||
  s.msgs.any (fun m => m.wave == w.id && m.uid != 0 && decide (m.no < no) && (match m.kind with
    | .write op _ _ | .atomic _ op _ _ _ | .redk _ op _ _ => overlaps op.loc op.size l n
    | _ => false))

/-! Waits. -/

/-- What a waiting split finds: not yet, done with the split free to issue again at a clock, or poison. -/
inductive Waited where
  | no (s : State)
  | yes (soon : Nat) (s : State)
  | poison (s : State)

/-- Read a cell or counter a split waits on, as a read of its core (R241), after the wave's own earlier writes to it and
what its core's L1 holds dirty of it (R268); of a host line once the home owns it (R367). -/
def State.watch (s : State) (w : Wave) (no : Nat) (l : Loc) (n : Nat) (f : State → Waited) : Waited :=
  if !s.ownsLine l then .no (s.askLine l) else
  if w.holdsStore no l n || s.homeOpPending w no l n then .no s else
  let s := s.writebackWhere w.core (fun k => k.loc == l.frameLine) (0, 0)
  if s.writebackPending w.core (fun k _ => k == l.frameLine) then .no s
  else match s.homeNeeds l n (some w.core) true with
  | some s => .no s
  | none =>
    let (bs, s) := s.homeRead l n
    if anyPoison bs then .poison s else f s

/-- The phase test of BAR (R346). -/
def phaseDone (phase c : Nat) : Bool :=
  let d := (phase + 2 ^ 32 - c) % 2 ^ 32
  1 ≤ d && d ≤ 2 ^ 31

/-- The wave's earlier loads have their values (R294). -/
def Wave.readsDone (w : Wave) (no : Nat) : Bool :=
  !(w.ops.any (fun o => o.no < no && !o.done && (match o.kind with
    | .load _ _ | .tile _ _ | .gather _ | .acc _ _ => true
    | _ => false)))

/-- The wave's earlier loads have their values, its earlier home writes are performed, its earlier held stores out,
and for a far release its earlier operations to global addresses answered and no dirty host half of its core left
(R249, R278, R294). (DEDUCED: log 54.) -/
def State.releaseReady (s : State) (w : Wave) (no : Nat) (far : Bool) : Bool :=
  w.readsDone no && !(w.held.any (fun h => h.no < no && (match h.effect with
      | .stores _ _ _ | .homeOps _ _ _ _ => true
      | .bar _ _ _ => true
      | .remote _ | .coll _ | .interruptTo _ _ | .putf _ _ _ | .mailSend _ _ | .mailRel _ _ _ _ _ => far
      | _ => false))) &&
    !(s.msgs.any (fun m => m.wave == w.id && m.uid != 0 && decide (m.no < no) && (match m.kind with
      | .write _ _ _ | .atomic _ _ _ _ _ | .redk _ _ _ _ | .barReq _ _ _ _ => true
      | _ => false))) &&
    (!far || (!(w.ops.any (fun o => o.no < no && o.global && !o.done && (match o.kind with
        | .load _ _ => false
        | _ => true))) &&
      !((s.core w.core).frames.any (fun f => f.loc.sp == .host && f.isDirty)) &&
      !(s.writebackPending w.core (fun l _ => l.sp == .host))))

/-- Earlier loads of the wave are complete (R278). -/
def Wave.loadsDone (w : Wave) (no : Nat) : Bool :=
  !(w.ops.any (fun o => o.no < no && !o.done && (match o.kind with
    | .load _ _ | .tile _ _ | .gather _ | .acc _ _ => true
    | .value => o.path == some 3
    | _ => false))) &&
    !(w.splits.any (fun p => p.wait.any (fun t => t.op == 0x59 && t.uid < no)))

/-- Evaluate what a split waits for. -/
def State.waited (s : State) (w : Wave) (t : Wait) : Waited :=
  match t.kind with
  | .path p n => if w.counter p ≤ n then .yes s.clk s else .no s
  | .counter size n => s.watch w t.uid t.loc size fun s => if n ≤ s.natAt t.loc size then .yes s.clk s else .no s
  | .farCounter size n _ _ => s.watch w t.uid t.loc size fun s => if n ≤ s.natAt t.loc size then .yes s.clk s else .no s
  | .queue n => s.watch w t.uid (t.loc.plus 8) 8 fun s => if n ≤ s.natAt (t.loc.plus 8) 8 then .yes s.clk s else .no s
  | .cell phase => s.watch w t.uid t.loc 32 fun s =>
    let s := s.meetCell t.loc
    if phaseDone (s.natAt t.loc 4) phase then .yes s.clk s else .no s
  | .bsync phase =>
    match s.block? w.block with
    | some b => if b.phase != phase then .yes (max s.clk (b.lastArrive + 2)) s else .no s
    | none => .yes s.clk s
  | .carry _ _ => if (w.op? t.uid).any (fun o => !o.done) then .no s else .yes s.clk s
  | .tlb clk =>
    if w.invs.any (·.clk ≤ clk) then .no s else .yes s.clk s
  | .bias _ => if s.homes.flips.any (fun f => f.waves.any (fun e => e.1 == w.id)) then .no s else .yes s.clk s
  | .evict c => if (s.ctx c).saving = some .evict then .no s else .yes s.clk s
  | .suspend c => if (s.ctx c).saving.isSome then .no s else .yes s.clk s
  | .fence acq rel far =>
    let no := t.uid
    if (rel && !s.releaseReady w no far) || (acq && !w.loadsDone no) then .no s else .yes s.clk s

/-- The end of a FENCE's release part: at gang scope or wider the core's epoch closes, and the wave's next access is
recorded with it (R240). (DEDUCED: log 54.) -/
def State.fenceEnd (s : State) (w : Wave) (t : Wait) : State :=
  match t.kind with
  | .fence _ rel _ =>
    if rel && t.sub = 1 then
      let (e, s) := s.closeEpoch w.core
      s.modWave w.id fun w => { w with fence := some e }
    else s
  | _ => s

/-- A wave's waits go on: on its core and not frozen; of one that stops for a save or is held, those that must end
before it is saved (R95). -/
def Wave.waitsOn (w : Wave) (t : Wait) : Bool :=
  w.onCore && (w.st == .resident || w.st == .solo || (w.st == .held && !t.kind.counts)) && !(w.stopping && t.kind.counts)

/-- Where a wait's address leads now: a place, again the issue of its instruction, which meets the fault, a refusal,
or a walk that must wait. -/
inductive Watching where
  | at (l : Loc) (s : State)
  | again (s : State)
  | denied (e : Nat) (s : State)
  | wait (s : State)

/-- The place that a wait watches, translated anew each time (R277, R361, R385). -/
def State.waitPlace (s : State) (w : Wave) (t : Wait) : Watching :=
  match t.kind with
  | .counter _ _ | .queue _ | .cell _ =>
    (match s.nameOf w t.va with
      | .local c va => (match s.laneAt w c va t.va Need.read with
        | .ok l s => .at l s
        | .stall s => .wait s
        | .bad _ s => .again s)
      | _ => .at t.loc s)
  | .farCounter size _ region off =>
    (match s.regionCheck s.ownRank region off size 0 with
      | .denied e => .denied e s
      | .ok c va => match s.translate none (s.homeDie c va) c va Need.read with
        | .ok l s => .at l s
        | .stall s => .wait s
        | .fault f s => if f.cause = .protection then .denied 6 s else .wait s)
  | _ => .at t.loc s

/-- A wait ends with a Reported trap, which names every lane that waits. (DESIGN CHOICE: log 170.) -/
def State.failWait (s : State) (id slot : Nat) (t : Wait) (cause : Cause) (e : Option DWord) : State :=
  let (tr, s) := Iss.trapOf ⟨cause, t.lanes, BitVec.ofNat 64 t.va, e⟩ .reported s
  (s.modWave id fun w => { w with
    due := w.due ++ [⟨tr, 0#64, (w.split? slot).elim 0#64 (·.pc), w.issueNo, s.clk⟩] }).leaveWait id slot

/-- Re-evaluate one split's wait. (DEDUCED: log 32.) -/
def State.pollSplit (s : State) (id slot : Nat) : State :=
  match s.wave? id with
  | none => s
  | some w =>
    match (w.split? slot).bind (·.wait) with
    | none => s
    | some t =>
      if !w.waitsOn t then s
      else match s.waitPlace w t with
      | .wait s => s
      | .again s => s.modWave id fun w => w.modSplit slot fun p => { p.renew s.clk with wait := none }
      | .denied e s => s.failWait id slot t .remoteDenied (some (BitVec.ofNat 64 e))
      | .at l s =>
        let t : Wait := { t with loc := l }
        match s.waited w t with
        | .no s => s.modWave id fun w => w.modSplit slot fun p => { p with wait := p.wait.map fun t => { t with loc := l } }
        | .yes soon s =>
          let s := s.modWave id fun w => (match t.kind with
            | .bsync p => { w with bphase := max w.bphase (p + 1) }
            | _ => w)
          ((s.fenceEnd w t).acquire w t.acq).leaveWaitAt id slot soon
        | .poison s => s.failWait id slot t .poison none

/-! CPEEK (R351, R353). -/

/-- Answer a CPEEK of a wave whose cell can answer; its address is translated anew each time, and a page that is gone
faults it (R361, R365). (DEDUCED: log 34.) -/
def State.pollPeek (s : State) (id : Nat) (o : Op) : State :=
  match s.wave? id, o.pieces.head?, o.kind with
  | some w, some p, .cpeek out ctx va =>
    if !w.onCore || w.stopping || w.st != .resident then s
    else
      let at_ : LaneAt := match s.nameOf w va with
        | .local c a => s.laneAt w c a va Need.read
        | _ => .ok p.loc s
      match at_ with
      | .stall s => s
      | .bad f s =>
        if w.accstLeft o.no then s else
        let (t, s) := Iss.trapOf ⟨f.cause, laneSet [p.lane], f.faddr, f.einfo⟩ .region s
        s.regionReplay id o.slot o.no o.pc t []
      | .ok l s =>
        if !s.ownsLine l then s.askLine l
        else match s.homeNeeds l 64 (some w.core) true with
        | some s => s
        | none =>
          let c : CarryAt := ⟨l, ctx, va⟩
          let (bs, s) := s.homeRead l 64
          let s := if s.carryBad c (anyPoison bs) then s.carryPoisoned c none else s
          match s.carryState c with
          | 4 => ((s.reportOp id o ⟨.poison, laneSet [p.lane], BitVec.ofNat 64 va, none⟩).modWave id fun w =>
              w.finishOp o.uid s.clk).resetWait w.ctx
          | st =>
            if st = 3 || (st = 1 && !out) then
              let v : Val64 := ⟨BitVec.ofNat 64 (s.natAt (l.plus (if out then 32 else 16)) p.size), false⟩
              ((s.modWave id fun w => ((lanesOf o.lanes).foldl (fun w i => w.deliver64 o i v) w).finishOp o.uid s.clk).acquire w
                o.acq).resetWait w.ctx
            else s
  | _, _, _ => s

/-! Triggers and joins (R320, R321). -/

/-- The trigger and the join of the entry at the head of an engine queue: whether they hold, the join once no chunk of
an entry that a named queue has skipped is left (R298). -/
def State.entryHolds (s : State) (c q : Nat) (e : Entry) : Bool × State :=
  let ctrl := pfield e.image 0 4
  let x := s.queue c true q
  let (trig, s) : Bool × State :=
    if ctrl.testBit 4 then
      match s.reach x.die c (pfield e.image 0x30 8) 8 Need.read with
      | .stall s => (false, s)
      | .fault f s => (false, s.entryPageFault c q e f)
      | .ok l s =>
        let s := s.meetErrors l 8
        (decide (pfield e.image 0x38 8 ≤ s.natAt l 8), s)
    else (true, s)
  if !trig then (false, s)
  else if ctrl % 16 = 6 then
    (List.range 4).foldl (fun (r : Bool × State) j =>
      let (ok, s) := r
      let v := pfield e.image (0x40 + 8 * j) 8
      if !ok || !v.testBit 53 then (ok, s)
      else
        match s.reach x.die c (s.headerVa c true (bitsOf v 63 54) + 8) 8 Need.read with
        | .stall s => (false, s)
        | .fault f s => (false, s.entryPageFault c q e f)
        | .ok l s =>
          let s := s.meetErrors l 8
          (decide (v % 2 ^ 48 ≤ s.natAt l 8) && (s.queue c true (bitsOf v 63 54)).left.isEmpty, s)) (true, s)
  else (true, s)

/-- A Waiting engine queue whose trigger and join hold runs (R313). -/
def State.pollQueue (s : State) (c q : Nat) : State :=
  let x := s.queue c true q
  match x.st, x.entry with
  | .waiting, some e =>
    let (ok, s) := s.entryHolds c q e
    if ok && (s.queue c true q).st == .waiting then s.setQState c true q .running else s
  | _, _ => s

/-! The block barrier (R342). -/

/-- A phase completes when every wave of the block that is neither Exited nor Ended has arrived. -/
def State.pollBlock (s : State) (b : Block) : State :=
  let ws := s.waves.filter (fun w => w.block == b.id && w.st != .exited && w.st != .ended && !w.killed)
  if !b.arrived.isEmpty && ws.all (fun w => b.arrived.contains w.wid) then
    let s := s.modBlock b.id fun b => { b with phase := b.phase + 1, arrived := [] }
    ws.foldl (fun s w => s.modWave w.id fun w => { w with bphase := b.phase + 1 }) s
  else s

/-! Pushes at a queue's home (R118, R327, R328). -/

/-- A page the push needs is not usable: the queue blocks or faults if it takes entries; the push waits. -/
def State.pushFault (s : State) (c : Nat) (eng : Bool) (q : Nat) (f : PageFault) : State :=
  s.queuePageFault c eng q (s.headerVa c eng q) f

/-- Perform a push: its sequence, its slot, TAIL, and the pusher's result. False where it waits. (DEDUCED: log 73.) -/
def State.pushOne (s : State) (c : Nat) (eng : Bool) (q : Nat) (p : Push) : Bool × State :=
  let x := s.queue c eng q
  if !x.valid then (false, s)
  else
    match s.reach x.die c (s.headerVa c eng q) 32 Need.both with
    | .stall s => (false, s)
    | .fault f s => (false, s.pushFault c eng q f)
    | .ok hdr s =>
      let s := s.meetErrors hdr 32
      let tail := s.natAt hdr 8
      if 2 ^ x.log2 ≤ tail - s.natAt (hdr.plus 8) 8 then (false, s)
      else
        match s.reach x.die c (x.slotVa tail) 128 Need.write with
        | .stall s => (false, s)
        | .fault f s => (false, s.pushFault c eng q f)
        | .ok slot s =>
          let s := (s.homeStore slot p.image).afterWrite slot
          let s := (s.setNatAt hdr 8 (tail + 1)).afterWrite hdr
          let s := if eng then s
            else
              let parent := pfield (p.image.map (·.byte)) 0x40 8
              let (pc, _, _, pt) := parentOf parent
              let s := s.modQueue c eng q fun x => { x with pushed := insertKey tail parent x.pushed }
              s.modLaunch pc pt fun l => { l with children := l.children + 1 }
          let s := s.modWave p.wave fun w =>
            match w.op? p.uid with
            | none => w
            | some o =>
              let w := if o.dests.isEmpty then w else w.deliver64 o p.lane ⟨BitVec.ofNat 64 tail, false⟩
              w.modOp p.uid fun o => { o with
                pieces := o.pieces.map (fun k => if k.lane == p.lane then { k with done := true } else k) }
          (true, s.settleOp p.wave p.uid)

/-- Perform the pushes that wait at a queue, in their order, until one waits. (DEDUCED: log 73.) -/
def State.pushAll (s : State) (c : Nat) (eng : Bool) (q : Nat) : Nat → State
  | 0 => s
  | fuel + 1 =>
    match (s.queue c eng q).pushes with
    | [] => s
    | p :: _ =>
      match s.pushOne c eng q p with
      | (false, s) => s
      | (true, s) => (s.modQueue c eng q fun x => { x with pushes := x.pushes.drop 1 }).pushAll c eng q fuel

/-- The pushes of a context's queues. -/
def State.pushCtx (s : State) (c : Nat) : State :=
  let go (eng : Bool) (s : State) (y : Queue × Nat) : State :=
    if y.1.pushes.isEmpty then s else s.pushAll c eng y.2 (y.1.pushes.length + 1)
  (s.ctx c).lqs.zipIdx.foldl (go false) ((s.ctx c).eqs.zipIdx.foldl (go true) s)

/-! Invalidations (R361). -/

/-- The chunks of a context that engines work on: engine, and context, queue, chunk. -/
def State.chunksOf (s : State) (ctx : Nat) : List (Nat × Nat × Nat × Nat) :=
  s.engines.zipIdx.filterMap fun (e, n) => match e.work with
    | some k => if k.1 = ctx then some (n, k) else none
    | none => none

/-- What an invalidation still waits for once the TLBs have dropped the entries: held effects and accesses of waves
that use the context, its chunks, its dirty lines and their write-backs. What waits at a place translates it anew and
is none. (DEDUCED: log 34.) -/
def State.invOpen (s : State) (v : Inv) : Bool :=
  let ws := s.waves.filter fun w => w.ctx == v.ctx || w.service
  let mine (c : Nat) : Bool := c == v.ctx || c == 0
  ws.any (fun w => w.held.any (fun h => decide (h.clk ≤ v.clk)) ||
    w.ops.any (fun o => !o.done && decide (o.clk ≤ v.clk) && (match o.kind with
      | .cpeek _ _ _ => false
      | _ => true))) ||
    v.chunks.any (fun k => (s.engines.getD k.1 .idle).work == some k.2) ||
    s.cores.any (fun k => k.frames.any fun f => f.isDirty && mine f.ctx) ||
    s.msgs.any (fun m => match m.kind with
      | .writeback _ _ _ _ _ _ _ => mine m.ctx
      | _ => false)

/-- Drop the entries an invalidation names from every TLB, and the bias-table entries of the granules their pages map
(R361). -/
def State.dropTlb (s : State) (ctx va : Nat) : State :=
  let gone (e : TlbEntry) : Bool := e.ctx == ctx && (va == 0 || (e.va ≤ va && va < e.va + e.size))
  let out := (s.cores.flatMap (·.tlb) ++ s.homes.dieTlb.flatten).filter gone
  let maps (g : Nat) : Bool := va == 0 || out.any fun e =>
    let f := bitsOf e.leaf.toNat 51 12
    decide (f ≤ g ∧ g < f + e.size / 4096)
  let s : State := { s with cores := s.cores.map fun k => { k with tlb := k.tlb.filter (!gone ·) } }
  s.modHomes fun h => { h with dieTlb := h.dieTlb.map (·.filter (!gone ·)), marks := h.marks.filter (!maps ·.1) }

/-- The invalidations of a wave go on: the TLBs drop the entries at a time that is a free choice, what was translated
through them until then is waited for, with the dirty lines of the context written back, and then the context's waits
are to be rechecked (R450). (DESIGN CHOICE: log 33; DEDUCED: log 34.) -/
def State.pollInvs (s : State) (id : Nat) : State :=
  match s.wave? id with
  | none => s
  | some w => w.invs.foldl (fun s v =>
      let put (s : State) (l : List Inv) : State := s.modWave id fun w => { w with
        invs := w.invs.flatMap fun u => if u = v then l else [u] }
      if !v.dropped then
        let (k, s) := s.choose 2
        if k = 0 then s
        else put (s.dropTlb v.ctx v.va) [{ v with dropped := true, clk := s.clk, chunks := s.chunksOf v.ctx }]
      else
        let s := (List.range 64).foldl (fun s k => s.writebackWhere k (fun f => f.ctx == v.ctx || f.ctx == 0) (0, 0)) s
        if s.invOpen v then s
        else (put (s.dropTlb v.ctx v.va) []).modDev fun d => { d with rechecks := insertNat v.ctx d.rechecks }) s

/-! All of it. -/

/-- A Destroyed context whose launch tags are all retired is Free (R88, R90). A launch whose children are still in
queues keeps its record, and its tag (R117). -/
def State.freeCheck (s : State) (c : Nat) : State :=
  if (s.ctx c).st = .destroyed && s.sched.launches.all (fun l => l.ctx != c || l.retired) then
    let s := s.modSched fun k => { k with launches := k.launches.filter fun l => l.ctx != c || l.children != 0 }
    (s.modCtx c fun _ => .free).setCtxState c .free
  else s

/-- Re-evaluate everything that waits. -/
def State.poll (s : State) : State :=
  let s := (s.flushEvents (s.dev.evWait.length + 1)).landPosted.pollHost.pollFlips.pollGroups
  let s := s.blocks.foldl State.pollBlock s
  let s := s.ctxs.zipIdx.foldl (fun s (x, c) =>
    let s := x.eqs.zipIdx.foldl (fun s (_, q) => s.pollHeader c true q) s
    let s := x.lqs.zipIdx.foldl (fun s (_, q) => s.pollHeader c false q) s
    let s := s.pushCtx c
    let s := x.eqs.zipIdx.foldl (fun s (y, q) => if y.st == .waiting then s.pollQueue c q else s) s
    x.lqs.zipIdx.foldl (fun s (y, q) => if y.st == .waiting then s.tryAdmit c q else s) s) s
  let s := (List.range 64).foldl State.freeCheck s
  let s := s.waves.foldl (fun s w => if w.invs.isEmpty then s else s.pollInvs w.id) s
  let s := s.sched.launches.foldl (fun s l => if l.completing then s.completeLaunch l.ctx l.tag else s) s
  let s := s.waves.foldl (fun s w => w.ops.foldl (fun s o => match o.kind, o.done with
    | .cpeek _ _ _, false => s.pollPeek w.id o
    | _, _ => s) s) s
  s.waves.foldl (fun s w => w.splits.foldl (fun s p => if p.wait.isSome then s.pollSplit w.id p.slot else s) s) s

end Sys2Proof.Machine
end

