-- ==== Sys2Proof/Machine/Access.lean ====
section
/-! DEFINITION. Memory access instructions at issue (R231 to R244, R259 to R283). -/

namespace Sys2Proof

/-- The bytes of a SIZE (R40). -/
def Size.bytes : Size → Nat
  | .b8 => 1
  | .b16 => 2
  | .b32 => 4
  | .b64 => 8
  | .b128 => 16
  | .b256 => 32

/-- Registers a SIZE takes. -/
def Size.regs : Size → Nat
  | .b8 | .b16 | .b32 => 1
  | .b64 => 2
  | .b128 => 4
  | .b256 => 8

/-- The ORDER acquires; releases. -/
def Order.acquires : Order → Bool
  | .acquire | .seqCst => true
  | _ => false
def Order.releases : Order → Bool
  | .release | .seqCst => true
  | _ => false

/-- The acquire an access ends with, and the release it begins with (R291). -/
def Mem.acq (m : Mem) : Option Scope := if m.order.acquires then some m.scope else none
def Mem.rel (m : Mem) : Option Scope := if m.order.releases then some m.scope else none
/-- A sequentially consistent access; one at gang scope or wider goes around the L1 (R297). -/
def Mem.sc (m : Mem) : Bool := m.order == .seqCst
def Mem.strong (m : Mem) : Bool := m.sc && m.scope.gangUp

/-- The retention a CACHE asks of the shared cache (R232). -/
def Cache.ret : Cache → Nat
  | .stream => 0
  | .hold => 2
  | _ => 1

end Sys2Proof

namespace Sys2Proof.Machine

/-! The wave's own earlier writes (R235, R268). -/

/-- One lane's operation laid over a sector's bytes, the poison as a store leaves it (R257). -/
def overSector (bs : List PByte) (sec : Loc) (op : LaneOp) : List PByte :=
  let n := op.data.length
  if op.loc.sector != sec then bs
  else
    let off := op.loc.addr - sec.addr
    let p := anyPoison op.data || (anyPoison bs && decide (n < 32))
    (bs.zipIdx.map fun (b, i) =>
      if off ≤ i ∧ i < off + n then ⟨(op.data.getD (i - off) ⟨0#8, false⟩).byte, p⟩ else ⟨b.byte, p⟩)

/-- The lanes' operations of one store, those that together cover a sector made one (R257); where lanes overlap the
highest-numbered one's byte stands (R267). -/
def coalesce (ops : List LaneOp) : List LaneOp :=
  (dedup (ops.map (·.loc.sector))).flatMap fun sec =>
    let here := ops.filter fun op => op.loc.sector == sec
    let covered := (List.range 32).all fun i => here.any fun op =>
      decide (op.loc.addr ≤ sec.addr + i ∧ sec.addr + i < op.loc.addr + op.data.length)
    match here with
    | op :: _ :: _ =>
      if covered then
        let bs := here.foldl (fun bs k => overSector bs sec k) (List.replicate 32 ⟨0#8, false⟩)
        [{ op with loc := sec, size := 32, data := bs.map fun b => { b with poison := here.any fun k => anyPoison k.data } }]
      else here
    | _ => here

/-- The wave's held stores to a sector that an issue number follows, oldest first: issue number and operations.
(DEDUCED: log 135.) -/
def Wave.heldOn (w : Wave) (no : Nat) (sec : Loc) : List (Nat × List LaneOp) :=
  w.held.filterMap fun h => match h.effect with
    | .stores ops _ _ =>
      let here := (coalesce ops).filter fun op => op.loc.sector == sec
      if h.no < no && !here.isEmpty then some (h.no, here) else none
    | _ => none

/-- The instruction is an ACCST that has yet to read its accumulator (R214). -/
def Wave.unread (w : Wave) (uid : Nat) : Bool := (w.op? uid).any fun o => !o.done && (match o.kind with
  | .accst _ _ _ => true
  | _ => false)

/-- The wave's held stores to a sector that an issue number follows are still without their data. -/
def Wave.unreadOn (w : Wave) (no : Nat) (sec : Loc) : Bool :=
  w.held.any fun h => decide (h.no < no) && w.unread h.uid && (match h.effect with
    | .stores ops _ _ => ops.any fun op => op.loc.sector == sec
    | _ => false)

/-! Order of a wave's operations at homes (R268, R270). -/

/-- An earlier message of the same wave touches the same bytes. -/
def State.behindOwn (s : State) (m : Msg) (l : Loc) (n : Nat) : Bool :=
  m.uid != 0 && s.msgs.any (fun k => (k.no < m.no || (k.no == m.no && k.id < m.id)) && k.wave == m.wave && k.uid != 0 && (match k.kind with
    | .write op _ _ | .atomic _ op _ _ _ | .redk _ op _ _ => overlaps op.loc op.size l n
    | .read sec _ _ _ => overlaps sec 32 l n
    | _ => false))

/-- A release record is set with the home operation (R239 step 3); host and scratch lines keep none. -/
def State.recordRelease (s : State) (l : Loc) (core : Nat) (release : Option (Nat × Bool)) : State :=
  match release, l.sp with
  | some (e, _), .dev => s.setRecorded l.line core e
  | _, _ => s

/-! L1 reads. -/

/-- The sector's bytes in the core's L1, if valid there. -/
def State.l1Sector (s : State) (core : Nat) (sec : Loc) : Option (List PByte) :=
  match s.frame? core sec.frameLine with
  | none => none
  | some f =>
    let k := Frame.sectorOf sec.addr
    if f.valid.getLsbD k then
      some ((List.range 32).map (fun j => ⟨f.data.getD (32 * k + j) 0#8, f.poison.getLsbD k⟩))
    else none

/-- A sector's bytes with what the core's own L1 holds of it taken over them: the whole sector where it is valid, else the
bytes written (R234). -/
def State.overL1 (s : State) (core : Nat) (sec : Loc) (bs : List PByte) : List PByte :=
  match s.frame? core sec.frameLine with
  | none => bs
  | some f =>
    let k := Frame.sectorOf sec.addr
    let p := f.poison.getLsbD k
    let got (j : Nat) : PByte := ⟨f.data.getD (32 * k + j) 0#8, p⟩
    if f.valid.getLsbD k then (List.range 32).map got
    else if f.dirty.getLsbD k then bs.zipIdx.map fun (b, j) =>
      if f.wr.getLsbD (32 * k + j) then got j else { b with poison := b.poison || p }
    else bs

/-- A read that goes around its core's L1: .bypass, or sequentially consistent at gang scope or wider (R232, R297). -/
def State.goesAround (s : State) (m : Msg) : Bool :=
  ((s.wave? m.wave).bind (·.op? m.uid)).any fun o => o.cache == .bypass || (o.sc && o.acq.any Scope.gangUp)

/-- The retention the instruction of a message asks for. -/
def State.retention (s : State) (m : Msg) : Nat := ((s.wave? m.wave).bind (·.op? m.uid)).elim 1 (·.cache.ret)

/-! A turn at the home (R239, R243). -/

/-- A read of the line, another than the asker's, waits for drains (R243): one that is listed, from its arrival on, or
one of the device's own as long as a drain order is out. (DEDUCED: log 156.) -/
def State.awaited (s : State) (line : Loc) (me : Nat) : Bool :=
  s.homes.waiting.any (fun e => e.1 == line && e.2 != .msg me && s.reads e.2) ||
    s.msgs.any fun m => match m.kind with
      | .drain _ _ _ l _ => l == line
      | _ => false

/-- What an access must wait for at its home; a reader that waits for drains is listed. (DEDUCED: log 156.) -/
def State.homeWaits (s : State) (token : Nat) (l : Loc) (n : Nat) (except : Option Nat) (read : Bool) : Option State :=
  let t := if read then s.awaits (.msg token) l n except else s
  t.homeNeeds l n except read

/-- The turn of a wave's operation at the home of its bytes: after the wave's earlier operations on them, its core's copy
given up and written back (R239 step 2, R269), for a release after every read of the line that waits and with a record to
be had (R238, R243), and after what the home needs first. -/
def State.homeTurn (s : State) (m : Msg) (l : Loc) (n core : Nat) (release : Option (Nat × Bool)) (read : Bool) :
    Bool × State :=
  if s.behindOwn m l n || (release.isSome && s.awaited l.line m.id) then (false, s)
  else
    let s := if l.sp == .dev || l.sp == .host then s.surrenderLine core l.frameLine (0, 0) else s
    if s.writebackPending core (fun k _ => k == l.frameLine) then (false, s)
    else match s.homeWaits m.id l n (some core) read with
      | some s => (false, s)
      | none => match (if release.isSome && l.sp == .dev then s.recordFull l.line else none) with
        | some s => (false, s)
        | none => (true, s.hasRead (.msg m.id))

namespace Iss

/-- The distinct lines of places, and the lanes at ranks: the requests of an access (R283). -/
def requests (_ : Iss) (ps : List (Nat × Place)) : Nat :=
  let lines := dedup (ps.filterMap (fun p => match p.2 with
    | .mem l => some l.line
    | _ => none))
  lines.length + (ps.filter (fun p => match p.2 with
    | .far _ _ _ => true
    | _ => false)).length

/-- The core has no room for the requests (R17, R283). (DEDUCED: log 137.) -/
def full (x : Iss) (n : Nat) : Bool := 4096 < x.s.coreReqs x.w.core + n

def isFar (ps : List (Nat × Place)) : Bool := ps.any (fun p => match p.2 with
  | .far _ _ _ => true
  | _ => false)

/-- The wave takes one sequence value where a lane goes to a rank (R282). -/
def takeSeq (_ : Iss) (w : Wave) (far : Bool) : Wave := if far then { w with seq := w.seq + 1 } else w

end Iss

/-! Loads (R266). -/

/-- Read the sectors of pieces: an L1 hit answers with the data as it is, a miss asks the home (R232, R234). -/
def State.readPieces (s : State) (w : Wave) (uid no : Nat) (cache : Cache) (strong : Bool) (ps : List Piece) : State :=
  let secs := dedup (ps.map (fun p => p.loc.sector))
  secs.foldl (fun s sec =>
    let own := sec.sp != .dev && sec.sp != .host
    let around := own || cache == .bypass || strong
    let s := if around && !own then s.surrenderLine w.core sec.frameLine (0, 0) else s
    let asked := s.msgs.any fun m => m.wave == w.id && m.uid != 0 && (match m.kind with
      | .read k _ _ _ => k == sec
      | _ => false)
    let hit := if around || asked || s.homeOpPending w no sec 32 then none else s.l1Sector w.core sec
    match hit with
    | some bs => s.send w.id uid no w.ctx (.reply sec bs false w.core)
    | none => s.send w.id uid no w.ctx (.read sec w.core (!around && cache != .stream) cache.ret)) s

/-- A piece of a lane, with the wave's own stores to its sector that are held (R268). -/
def State.pieceOf (s : State) (w : Wave) (no lane : Nat) (l : Loc) (size row : Nat) : Piece :=
  { lane, loc := l, size, row, fwd := if s.inSlots l.sector 32 then [] else (w.heldOn no l.sector).map (·.1), done := false }

/-- Issue a load: its destinations, pieces, requests to ranks. -/
def Iss.load (x : Iss) (m : Mem) (s : State) (ps : List (Nat × Place)) : Res :=
  let far := Iss.isFar ps
  let n := m.size.bytes
  let overlap := ps.any (fun p => match p.2 with
    | .far r g o => s.rankKind r = 1 && x.w.heldAt r g o n
    | _ => false)
  if far && !x.w.streamLeft then x.exhausted s
  else if x.full (x.requests ps) || overlap then .stall s
  else
    let o : Op := { x.opOf (.load m.size (m.sub.getLsbD 0)) with
      acq := m.acq, sc := m.sc, cache := m.cache, global := far, reqs := x.requests ps }
    let (w, o) := x.w.addDests x o m.d m.size.regs
    let pieces := ps.filterMap (fun p => match p.2 with
      | .mem l => some (s.pieceOf x.w x.no p.1 l n 0)
      | _ => none)
    let reqs := ps.filterMap (fun p => match p.2 with
      | .far r g f => some (x.request s .load p.1 r g f n m.sub m.order m.scope [])
      | _ => none)
    let w := x.takeSeq { w with ops := w.ops ++ [{ o with pieces }] } far
    let s := s.putWave w
    .ok ((s.readPieces x.w x.uid x.no m.cache m.strong pieces).sendRemote x.w x.uid reqs (fun _ => []) none)

/-- LD (R266). -/
def execLd (m : Mem) (s : State) : Host.Outcome State Fault Refusal :=
  issueWave (.ld m) (fun x =>
    match x.locate x.lanes (x.addr m) m.size.bytes Need.read (fun _ _ => none) with
    | .stall s => .stall s
    | .fail s f => x.failWith s f
    | .ok s ps => x.load m s ps) s

/-! Stores (R267). -/

/-- The bytes of C in a lane, low byte first, each with its register's poison. -/
def Iss.dataOf (x : Iss) (f : Fld) (size : Nat) (lane : Nat) : List PByte :=
  ((List.range ((size + 3) / 4)).flatMap (fun k =>
    let v := x.reg f k lane
    pbytes v.poison (leBytes 4 v.bits.toNat))).take size

/-- Whether data stored at a place must not be poisoned (R262). -/
def Place.traps : Place → Bool
  | .far _ _ _ => true
  | .mem l => l.sp == .host

/-- An ST, ATOM, RED or CAS at gang scope or wider, which takes the epoch of the wave's release FENCE (R240). -/
def Iss.takesFence (x : Iss) (m : Mem) : Bool := m.scope.gangUp && (0x51 ≤ (encOp x.enc).toNat && (encOp x.enc).toNat ≤ 0x54)

/-- The release of an access: its own, or that of the wave's release FENCE before it (R240). -/
def Iss.relOf (x : Iss) (m : Mem) : Option Scope := if x.takesFence m && x.w.fence.isSome then some m.scope else m.rel

/-- Hold the effects of lanes' operations at their places (R419): local ones as `here`, those at ranks as requests,
with the epoch of the wave's release FENCE where the access takes it (R240). -/
def Iss.holdOps (x : Iss) (w : Wave) (m : Mem) (here : List LaneOp → Effect) (ops : List LaneOp)
    (reqs : List RemoteReq) : Wave :=
  let epoch := if x.takesFence m then w.fence else none
  let put (w : Wave) (e : Effect) : Wave := { w with held := w.held ++ [⟨x.no, x.clk, x.uid, e, epoch⟩] }
  let w := if ops.isEmpty then w else put w (here ops)
  let w := if reqs.isEmpty then w else put w (.remote reqs)
  { w with fence := if x.takesFence m then none else w.fence }

/-- The lane's operation at a local place. -/
def Iss.laneOps (x : Iss) (ps : List (Nat × Place)) (size : Nat) (data : Nat → List PByte) : List LaneOp :=
  ps.filterMap (fun p => match p.2 with
    | .mem l => some ⟨p.1, l, size, data p.1, x.w.ctx⟩
    | _ => none)

/-- Requests of lanes at ranks. -/
def Iss.laneReqs (x : Iss) (s : State) (kind : ReqKind) (m : Mem) (ps : List (Nat × Place)) (size : Nat)
    (data : Nat → List PByte) : List RemoteReq :=
  ps.filterMap (fun p => match p.2 with
    | .far r g f => some (x.request s kind p.1 r g f size m.sub m.order m.scope ((data p.1).map (·.byte)))
    | _ => none)

/-- The stream and request limits of an access, then its effect. -/
def Iss.limited (x : Iss) (s : State) (ps : List (Nat × Place)) (k : Res) : Res :=
  if Iss.isFar ps && !x.w.streamLeft then x.exhausted s
  else if x.full (x.requests ps) then .stall s
  else k

/-- ST (R267). -/
def execSt (m : Mem) (s : State) : Host.Outcome State Fault Refusal :=
  issueWave (.st m) (fun x =>
    let n := m.size.bytes
    let data (i : Nat) : List PByte := x.dataOf m.c n i
    match x.locate x.lanes (x.addr m) n Need.write (fun _ _ => none) (fun i p => p.traps && anyPoison (data i)) with
    | .stall s => .stall s
    | .fail s f => x.failWith s f
    | .ok s ps =>
      x.limited s ps <|
        let o : Op := { x.opOf .store with
          sc := m.sc, cache := m.cache, global := Iss.isFar ps, reqs := x.requests ps }
        let home := m.cache == .bypass || (x.relOf m).any Scope.gangUp
        let w := x.holdOps { x.w with ops := x.w.ops ++ [o] } m (fun l => .stores l home (x.relOf m)) (x.laneOps ps n data)
          (x.laneReqs s .write m ps n data)
        .ok (s.putWave (x.takeSeq w (Iss.isFar ps)))) s

/-! Atomics (R269 to R275). -/

/-- ATOM, RED, CAS and REDK: `data` is a lane's operand, `fetch` whether old values return. (DEDUCED: log 52.) -/
def atomicBody (m : Mem) (kind : HomeOp) (rkind : ReqKind) (align : Nat) (fetch : Bool) (data : Iss → Nat → List PByte)
    (x : Iss) : Res :=
  match x.locate x.lanes (x.addr m) align Need.both (fun _ _ => none) (fun i _ => anyPoison (data x i)) with
  | .stall s => .stall s
  | .fail s f => x.failWith s f
  | .ok s ps =>
    x.limited s ps <|
      let n := m.size.bytes
      let o : Op := { x.opOf (if fetch then .value else .store) with
        acq := m.acq, sc := m.sc, cache := m.cache, global := Iss.isFar ps, reqs := x.requests ps }
      let (w, o) := if fetch then x.w.addDests x o m.d m.size.regs else (x.w, o)
      let w := x.holdOps { w with ops := w.ops ++ [o] } m (fun l => .homeOps kind l fetch (x.relOf m))
        (x.laneOps ps n (data x)) (x.laneReqs s rkind m ps n (data x))
      .ok (s.putWave (x.takeSeq w (Iss.isFar ps)))

/-- ATOM (R270). -/
def execAtom (m : Mem) (s : State) : Host.Outcome State Fault Refusal :=
  issueWave (.atom m) (atomicBody m (.atom (m.sub.toNat % 16)) .atomic m.size.bytes true
    fun x i => x.dataOf m.c m.size.bytes i) s

/-- RED (R270). -/
def execRed (m : Mem) (s : State) : Host.Outcome State Fault Refusal :=
  issueWave (.red m) (atomicBody m (.atom (m.sub.toNat % 16)) .atomic m.size.bytes false
    fun x i => x.dataOf m.c m.size.bytes i) s

/-- CAS (R271): compare, then new. -/
def execCas (m : Mem) (s : State) : Host.Outcome State Fault Refusal :=
  issueWave (.cas m) (atomicBody m .cas .cas m.size.bytes true fun x i => x.dataOf m.c (2 * m.size.bytes) i) s

/-- REDK (R273): the key at C, the value at C + 1 or C + 2. -/
def execRedk (m : Mem) (s : State) : Host.Outcome State Fault Refusal :=
  issueWave (.redk m) (atomicBody m (.redk (m.sub.toNat % 16)) .keyed 16 false fun x i =>
    let d := x.dataOf m.c 16 i
    d.take 4 ++ (if m.size.bytes = 8 then (d.drop 8).take 8 else (d.drop 4).take 4)) s

/-! FENCE, PREF, CWAIT, WBACK, INVL (R277 to R280). -/

/-- A meaning that may wait: what it waits for is evaluated at issue. -/
def issueWait (i : Instr) (body : Iss → Res) (s : State) : Host.Outcome State Fault Refusal :=
  match issueWave i body s with
  | .next t => .next t.poll
  | r => r

/-- The wait of an instruction at issue. -/
def Iss.waitOf (x : Iss) (kind : WaitKind) (loc : Loc) (va : Nat) (acq : Option Scope) (op sub : Nat) : Wait :=
  { kind, loc, va, acq, lanes := x.act, op, sub, len := x.len, uid := x.no, marks := [] }

/-- FENCE (R278). (DEDUCED: log 54.) -/
def execFence (m : Mem) (s : State) : Host.Outcome State Fault Refusal :=
  issueWait (.fence m) (fun x =>
    let far := m.rel.any Scope.nodeUp
    let s := if far then x.s.writebackWhere x.w.core (fun f => f.loc.sp == .host) (0, 0) else x.s
    .wait s (x.waitOf (.fence m.acq.isSome m.rel.isSome far) ⟨.dev, 0⟩ 0 m.acq 0x56
      (if m.rel.any Scope.gangUp then 1 else 0))) s

/-- The lines of the lanes of an instruction that ignores what is not local or not readable: none where a walk must first
wait. -/
def Iss.quietLines (x : Iss) (a : Nat → Val64) (need : Need) : Option (List Loc) × State :=
  x.lanes.foldl (fun (r : Option (List Loc) × State) i =>
    match r.1 with
    | none => r
    | some ls =>
      if (a i).poison then r
      else match r.2.nameOf x.w (a i).bits.toNat with
        | .local c va => (match r.2.translate (some x.w.core) x.die c va need with
          | .ok l s => (some (ls ++ [l.frameLine]), s)
          | .stall s => (none, s)
          | .fault _ s => (some ls, s))
        | _ => r) (some [], x.s)

/-- A lane's address is global: the instruction takes a sequence value (R282). (DEDUCED: log 136.) -/
def Iss.anyGlobal (x : Iss) (a : Nat → Val64) : Bool :=
  x.lanes.any fun i => !(a i).poison && (match x.s.nameOf x.w (a i).bits.toNat with
    | .placed (.far _ _ _) => true
    | _ => false)

/-- PREF (R279): no trap; dropped where the core has no room. Each line is asked for by sectors, to fill the shared
cache, and with CACHE default or .hold the L1, where a valid sector stays as it is. One that needs a sequence value
that is not left takes none. (DEDUCED: log 136.) -/
def execPref (m : Mem) (s : State) : Host.Outcome State Fault Refusal :=
  issueWave (.pref m) (fun x =>
    match x.quietLines (x.addr m) Need.read with
    | (none, s) => .stall s
    | (some ls, s) =>
      let far := x.anyGlobal (x.addr m) && x.w.streamLeft
      let s := s.putWave (x.takeSeq x.w far)
      let lines := dedup ls
      let fills := m.cache == .dflt || m.cache == .hold
      if x.full lines.length then .ok s
      else
        .ok (lines.foldl (fun s line =>
          let n := if line.sp == .host then 2 else 4
          (List.range n).foldl (fun s k =>
            let sec := line.plus (32 * k)
            s.send 0 0 0 x.w.ctx (.read sec x.w.core fills m.cache.ret)) s) s)) s

/-- CWAIT (R277). On a global address of the device's own rank the Col checks region and page: an absent page parks
it, with a notice (R261, R385); it takes one sequence value, at its first issue (R282). -/
def execCwait (m : Mem) (s : State) : Host.Outcome State Fault Refusal :=
  issueWait (.cwait m) (fun x =>
    let n := m.size.bytes
    let i := x.first
    let extra (_ : Nat) (k : Named) : Option LaneFail := match k with
      | .placed (.far r _ _) => if r = x.s.ownRank then none else some ⟨.address, (x.addr m i).bits, some 6⟩
      | _ => none
    match x.locate [i] (x.addr m) n Need.read extra (fun i _ => anyPoison (x.dataOf m.c n i)) with
    | .stall s => .stall s
    | .fail s f => x.failWith s f
    | .ok s ps =>
      let again := x.w.took.contains (x.sp.win, x.pc)
      let far := Iss.isFar ps && !again
      let wait (s : State) (k : WaitKind) (l : Loc) : Res :=
        let w := x.takeSeq x.w far
        .wait (s.putWave { w with took := if far then w.took ++ [(x.sp.win, x.pc)] else w.took })
          (x.waitOf k l (x.addr m i).bits.toNat m.acq 0x59 0)
      let denied (s : State) (e : Nat) : Res :=
        let w := x.takeSeq x.w far
        .due (s.putWave { w with took := w.took.filter (· != (x.sp.win, x.pc)) })
          ⟨.remoteDenied, laneSet [i], (x.addr m i).bits, some (BitVec.ofNat 64 e)⟩
      if far && !x.w.streamLeft then x.exhausted s
      else if x.full 1 then .stall s
      else match ps.head? with
      | some (_, .mem l) => wait s (.counter n (pvalue (x.dataOf m.c n i))) l
      | some (_, .far r g f) =>
        let t := pvalue (x.dataOf m.c n i)
        (match s.regionCheck r g f n 0 with
          | .denied e => denied s e
          | .ok k va => match s.translate none (s.homeDie k va) k va Need.read with
            | .ok l s => wait s (.farCounter n t g f) l
            | .stall s => .stall s
            | .fault e s =>
              if e.cause = .protection then denied s 6
              else wait (s.notice k 0x30 va 0) (.farCounter n t g f) ⟨.dev, 0⟩)
      | none => .ok s) s

/-- WBACK and INVL: write back, and with `drop` invalidate, the frames asked for (R280). (DEDUCED: log 136.) -/
def writebackBody (m : Mem) (drop : Bool) (x : Iss) : Res :=
  let all := m.sub.getLsbD 0
  let fails := x.fails fun i =>
    let a := x.addr m i
    if a.poison then some ⟨.poison, a.bits, none⟩
    else match x.s.nameOf x.w a.bits.toNat with
      | .bad f => some f
      | _ => none
  match (if all then none else fails) with
  | some f => x.failWith x.s f
  | none =>
    match (if all then (some [], x.s) else x.quietLines (x.addr m) Need.read) with
    | (none, s) => .stall s
    | (some ls, s) =>
      let far := !all && x.anyGlobal (x.addr m)
      let want (f : Frame) : Bool := f.ctx == x.w.ctx && (all || ls.contains f.loc)
      let n := ((s.core x.w.core).frames.filter fun f => f.isDirty && want f).length
      if far && !x.w.streamLeft then x.exhausted s
      else if x.full n then .stall s
      else
        let o : Op := { x.opOf .store with cache := m.cache, reqs := n }
        let s := s.putWave (x.takeSeq { x.w with ops := x.w.ops ++ [o] } far)
        let s := s.writebackWhere x.w.core want (x.w.id, x.uid)
        let s := if drop then
            (s.dropFrames x.w.core want).noFill x.w.core (fun l => all || ls.contains l.frameLine)
          else s
        .ok (s.settleOp x.w.id x.uid)

/-- WBACK (R280). -/
def execWback (m : Mem) (s : State) : Host.Outcome State Fault Refusal := issueWave (.wback m) (writebackBody m false) s

/-- INVL (R280). -/
def execInvl (m : Mem) (s : State) : Host.Outcome State Fault Refusal := issueWave (.invl m) (writebackBody m true) s

/-! CSTORE (R276). -/

/-- The elements of a CSTORE placed in order, until the first that stops. -/
inductive Packed where
  | all (s : State) (ps : List (Nat × Place))
  | page (s : State) (ps : List (Nat × Place)) (m lane : Nat) (f : LaneFail)
  | poison (s : State) (ps : List (Nat × Place)) (lane : Nat) (faddr : DWord)
  | stall (s : State)

def Iss.pack (x : Iss) (n : Nat) (base : Nat) (bad : Nat → Bool) :
    List Nat → Nat → State → List (Nat × Place) → Packed
  | [], _, s, ps => .all s ps
  | i :: rest, m, s, ps =>
    let a := (base + m * n) % 2 ^ 64
    match s.nameOf x.w a with
    | .bad f => .page s ps m i f
    | .placed p => x.pack n base bad rest (m + 1) s (ps ++ [(i, p)])
    | .local c va =>
      match s.laneAt x.w c va a Need.write with
      | .stall s => .stall s
      | .bad f s => .page s ps m i f
      | .ok l s =>
        if bad i && l.sp == .host then .poison s ps i (BitVec.ofNat 64 a)
        else x.pack n base bad rest (m + 1) s (ps ++ [(i, .mem l)])

/-- CSTORE (R276). Where ADDRESS or ALIGN of base or of the last element fails, sys.elanes names S[0] or the last lane
only; POISON of data bound for a global base has sys.faddr base. (DESIGN CHOICE: log 162.) -/
def execCstore (m : Mem) (s : State) : Host.Outcome State Fault Refusal :=
  issueWave (.cstore m) (fun x =>
    let n := m.size.bytes
    let lanes := x.lanes
    let base := x.addr m x.first
    let lastLane := lanes.getLastD x.first
    let last := (base.bits.toNat + (lanes.length - 1) * n) % 2 ^ 64
    let data (i : Nat) : List PByte := x.dataOf m.c n i
    let bad (i : Nat) : Bool := anyPoison (data i)
    let check (a : Nat) : Option LaneFail := match x.s.nameOf x.w a with
      | .bad f => some f
      | _ => if a % n ≠ 0 then some ⟨.align, BitVec.ofNat 64 a, none⟩ else none
    if base.poison then x.poison (laneSet [x.first]) base.bits
    else
      match check base.bits.toNat, check last with
      | some f, _ => x.failWith x.s ⟨f.cause, laneSet [x.first], f.faddr, f.einfo⟩
      | none, some f => x.failWith x.s ⟨f.cause, laneSet [lastLane], f.faddr, f.einfo⟩
      | none, none =>
        let far := match x.s.nameOf x.w base.bits.toNat with
          | .placed (.far _ _ _) => true
          | _ => false
        if far && lanes.any bad then x.poison (x.lanesWhere bad) base.bits
        else
          let keep (s : State) (ps : List (Nat × Place)) : Wave :=
            let o : Op := { x.opOf .store with
              sc := m.sc, cache := m.cache, global := Iss.isFar ps, reqs := x.requests ps }
            let home := m.cache == .bypass || (x.relOf m).any Scope.gangUp
            x.takeSeq (x.holdOps { x.w with ops := x.w.ops ++ [o] } m (fun l => .stores l home (x.relOf m)) (x.laneOps ps n data)
              (x.laneReqs s .write m ps n data)) (Iss.isFar ps)
          match x.pack n base.bits.toNat bad lanes 0 x.s [] with
          | .stall s => .stall s
          | .page s ps k i f =>
            let kept := if ps.isEmpty then [] else (keep s ps).held.filter (fun h => h.no == x.no)
            x.limited s ps <| .region s ⟨f.cause, laneSet [i], f.faddr, some (BitVec.ofNat 64 k)⟩ kept
          | .poison s ps i a =>
            let f : Fail := ⟨.poison, laneSet [i], a, none⟩
            x.limited s ps <| if ps.isEmpty then .due s f else .due (s.putWave (keep s ps)) f
          | .all s ps =>
            x.limited s ps <|
              let w := keep s ps
              let w := if m.sub.getLsbD 0 then x.put w m.d 0 x.act (fun _ => .ofNat lanes.length false) else w
              .ok (s.putWave w)) s

end Sys2Proof.Machine
end

