-- ==== Sys2Proof/Machine/Array.lean ====
section
/-! DEFINITION. Tiles and accumulators beneath the matrix instructions: what an instruction in flight works on, the order of
R213 to R215, the accumulator journal (R212), and the landing of loaded rows (R211, R221, R223, R226). -/

namespace Sys2Proof.Machine

/-! Formats (R208). -/

/-- Kt: the K rows of a tile. -/
def tileRows (f : Nat) : Nat := if f = 2 then 256 else if f = 3 ∨ f = 4 then 64 else 128
/-- The bytes of a K row. -/
def rowBytes (f : Nat) : Nat := if f = 2 then 64 else if f = 3 ∨ f = 4 then 256 else 128
/-- Bits of an element. -/
def elemBits (f : Nat) : Nat := if f = 2 then 4 else if f = 3 ∨ f = 4 then 16 else 8
/-- Elements of a group (R76). -/
def groupSize (f : Nat) : Nat := if f = 3 ∨ f = 4 then 16 else 32
/-- Scale blocks a scaled tile holds. -/
def scaleBlocks (f : Nat) : Nat := if f = 2 then 8 else 4

/-! What works on what. -/

/-- The queue entry of an array instruction. -/
def State.arrayOp? (s : State) (w : Wave) (uid : Nat) : Option ArrayOp :=
  (s.quad w.quadNo).array.find? fun a => a.wave == w.id && a.uid == uid

/-- The tile an instruction in flight names. -/
def State.opTile (s : State) (w : Wave) (o : Op) : Option Nat :=
  match o.kind with
  | .tile t _ | .gather t => some t
  | .matrix => (s.arrayOp? w o.uid).bind fun a => if a.op = 0x62 ∨ a.op = 0x63 then some a.tile else none
  | _ => none

/-- The accumulator an instruction in flight names. -/
def State.opAcc (s : State) (w : Wave) (o : Op) : Option Nat :=
  match o.kind with
  | .acc a _ | .accst a _ _ => some a
  | .matrix => (s.arrayOp? w o.uid).map (·.acc)
  | _ => none

/-- An earlier instruction in flight that `p` admits names the tile or the accumulator (R213, R214).
(DEDUCED: log 60.) -/
def State.earlierOn (s : State) (w : Wave) (no : Nat) (tile acc : Option Nat) (p : Op → Bool) : Bool :=
  w.ops.any fun o => decide (o.no < no) && !o.done && p o &&
    ((tile.isSome && s.opTile w o == tile) || (acc.isSome && s.opAcc w o == acc))

/-! The journal (R212). -/

/-- The slots of a quadrant's journal in use, by the waves on it. (DEDUCED: log 145.) -/
def State.journalUsed (s : State) (quad : Nat) : Nat :=
  (s.waves.filter fun w => w.onCore && w.quadNo == quad).foldl (fun n w => w.ckpts.foldl (fun n k => n + k.accUndo.length) n) 0

/-- Slots that writing rows of an accumulator needs. -/
def Wave.slotsNeeded (w : Wave) (a : Nat) (rows : List Nat) : Nat :=
  match w.ckpts.getLast? with
  | none => 0
  | some k => (rows.filter fun r => !(k.accUndo.any fun u => u.acc == a && u.row == r)).length

def State.journalRoom (s : State) (w : Wave) (a : Nat) (rows : List Nat) : Bool :=
  s.journalUsed w.quadNo + w.slotsNeeded a rows ≤ 128

/-- Splits leave their waiting instructions, which issue again later; a CPEEK's request is given up.
(DEDUCED: log 109.) -/
def Wave.leaveWaits (w : Wave) (clk : Nat) : Wave :=
  let peeks := w.splits.filterMap fun p => match p.wait with
    | some t => (match t.kind with
      | .carry _ _ => some t.uid
      | _ => none)
    | none => none
  let w : Wave := { w with splits := w.splits.map fun p =>
    { p.renew p.notBefore with wait := if p.wait.any (·.keeps) then p.wait else none } }
  peeks.foldl (fun w u => w.finishOp u clk) w

/-- The wave takes an implied region entry (R212): a split inside a waiting instruction takes it before that instruction.
(DEDUCED: log 145.) -/
def Wave.impliedEntry (w : Wave) (clk : Nat) : Wave :=
  let splits := (w.leaveWaits clk).splits
  let v := w.newRegion clk
  { v with ckpts := v.ckpts.map fun c => if c.entry then { c with splits } else c }

/-- A write waits for slots: every wave on the quadrant whose region's entry checkpoint keeps some, and is older than its
newest checkpoint that is at least 128 clocks old, takes an implied region entry. -/
def State.freeJournal (s : State) (quad : Nat) : State :=
  let enter (w : Wave) : Bool := w.quadNo == quad && w.onCore && w.st != .ended &&
    (match w.regionEntry with
      | some e => !e.accUndo.isEmpty && w.ckpts.any fun c => decide (e.id < c.id ∧ c.clk + 128 ≤ s.clk)
      | none => false)
  { s with waves := s.waves.map fun w => if enter w then w.impliedEntry s.clk else w }

/-! Landing rows. -/

/-- Loaded bytes reach their place: a tile's data or scale blocks, or words of an accumulator row. GATHR writes its K list
with its rows. (DEDUCED: log 64.) -/
def Wave.landRow (w : Wave) (o : Op) (at_ : Nat) (bs : List PByte) : Wave :=
  match o.kind with
  | .tile t true => { w with tiles := updAt t (fun x => { x with side := x.side.store at_ bs }) w.tiles }
  | .tile t false => { w with tiles := updAt t (fun x => { x with data := x.data.store at_ bs }) w.tiles }
  | .gather t =>
    let list (m : Memory) : Memory := o.result.foldl (fun m e => m.setNat (0x800 + 2 * e.1) 2 e.2.bits.toNat) m
    { w with tiles := updAt t (fun x => { x with data := x.data.store at_ bs, side := list x.side }) w.tiles }
  | .acc a i32 =>
    match w.accs[a]? with
    | none => w
    | some x =>
      let row := at_ / 512
      let words := (x.words row).zipIdx.map fun (v, j) =>
        let k := 4 * j
        if at_ % 512 ≤ k ∧ k < at_ % 512 + bs.length then BitVec.ofNat 32 (pvalue ((bs.drop (k - at_ % 512)).take 4)) else v
      w.writeAccRow o.no a row words (x.rowPoison row || anyPoison bs) i32
  | _ => w

/-- Whether rows of an instruction may land now: after every earlier reader and writer, no earlier than R215 allows, and
with journal slots. Where slots lack, waves take implied region entries. -/
def State.mayLand (s : State) (w : Wave) (o : Op) : Bool × State :=
  match o.kind with
  | .tile t _ | .gather t =>
    (!(s.earlierOn w o.no (some t) none fun _ => true) && (match lookupKey o.uid w.atLine with
      | some c => decide (c ≤ s.clk)
      | none => true), s)
  | .acc a _ =>
    if s.earlierOn w o.no none (some a) fun _ => true then (false, s)
    else if s.journalRoom w a (lanesOf o.lanes) then (true, s)
    else (false, s.freeJournal w.quadNo)
  | _ => (true, s)

/-- The same for an instruction named by wave and uid; one that is gone holds nothing up. -/
def State.mayLandAt (s : State) (wave uid : Nat) : Bool × State :=
  match (s.wave? wave).bind (fun w => (w.op? uid).map (w, ·)) with
  | some (w, o) => s.mayLand w o
  | none => (true, s)

end Sys2Proof.Machine
end

