-- ==== Sys2Proof/Machine/Group.lean ====
section
/-! DEFINITION. GJOIN, GLEAVE and GRED, and the events of a group's home (R330 to R338). -/

namespace Sys2Proof.Machine

/-! At issue (R335). -/

/-- The wave's group slots as its own group instructions see them (R332): held joins and leaves included. -/
def Wave.groupSlots (w : Wave) : List (Option Nat) :=
  let put (l : List (Option Nat)) (va : Nat) : List (Option Nat) :=
    match l.findIdx? (·.isNone) with
    | some i => updAt i (fun _ => some va) l
    | none => l
  w.held.foldl (fun l h => match h.effect with
    | .groupReq .join _ va => put l va
    | .groupReq .leave _ va => l.map (fun x => if x == some va then none else x)
    | _ => l) w.groups

/-- A join's or leave's effect on the slots once its hold ends. -/
def Wave.moveSlot (w : Wave) (r : GroupReq) (va : Nat) : Wave :=
  match r with
  | .join => { w with groups := match w.groups.findIdx? (·.isNone) with
      | some i => updAt i (fun _ => some va) w.groups
      | none => w.groups }
  | .leave => { w with groups := w.groups.map (fun x => if x == some va then none else x) }
  | .gred _ _ => w

/-- Joins to a group that are reserved: held by a wave, on their way, or held at the home. -/
def State.joinsReserved (s : State) (loc : Loc) : Nat :=
  let held := s.waves.foldl (fun n w => n + (w.held.filter (fun h => match h.effect with
    | .groupReq .join l _ => l == loc
    | _ => false)).length) 0
  let sent := (s.msgs.filter (fun m => match m.kind with
    | .groupReq .join l _ _ _ => l == loc
    | _ => false)).length
  let kept := ((s.group? loc).elim [] (·.queue)).filter (fun q => match q.2 with
    | .join => true
    | _ => false)
  held + sent + kept.length

/-- The wave's GRED on the group is held or on its way. -/
def State.gredUnderway (s : State) (w : Wave) (loc : Loc) : Bool :=
  w.held.any (fun h => match h.effect with
    | .groupReq (.gred _ _) l _ => l == loc
    | _ => false) ||
  s.msgs.any (fun m => m.wave == w.id && (match m.kind with
    | .groupReq (.gred _ _) l _ _ _ => l == loc
    | _ => false))

/-- The bytes of a group area (R330). -/
def areaSize : Nat := 17024

/-- What the checks of R335 give: the group's home record and its virtual address, a failure, or a stall. -/
inductive GroupAt where
  | ok (s : State) (h : GroupHold) (va : Nat)
  | fail (r : Res)

/-- Checks 1 to 4: the address, its alignment, and the pages of the area. (DEDUCED: log 95.) -/
def Iss.areaAt (x : Iss) (a : Val64) : GroupAt :=
  let i := x.first
  let va := a.bits.toNat
  let bad (e : Nat) : LaneFail := ⟨.address, a.bits, some (BitVec.ofNat 64 e)⟩
  let extra (_ : Nat) (_ : Named) : Option LaneFail :=
    if va / 2 ^ 62 % 4 ≠ 0 then some (bad 9)
    else match x.s.nameOf x.w va with
      | .bad f => some f
      | _ => if va % 128 = 0 && (va + areaSize - 1) / 2 ^ 57 ≠ 0 then some (bad 2) else none
  match x.locate [i] (fun _ => a) 128 Need.write extra with
  | .stall s => .fail (.stall s)
  | .fail s f => .fail (x.failWith s f)
  | .ok s ps =>
    match ps.head?, s.nameOf x.w va with
    | some (_, .mem l), .local c v =>
      let split := min areaSize (0x10000 - v % 0x10000)
      let hold (rest : Loc) : GroupHold := ⟨l, split, rest, [], [], [], [], false⟩
      let fin (s : State) (rest : Loc) : GroupAt :=
        match s.group? l with
        | some h => .ok (s.modGroup l fun g => { g with split, rest }) { h with split, rest } va
        | none => .ok (s.modHomes fun h => { h with groups := h.groups ++ [hold rest] }) (hold rest) va
      if split = areaSize then fin s l
      else match s.laneAt x.w c (v + split) (va + split) Need.write with
        | .stall s => .fail (.stall s)
        | .bad f s => .fail (x.failWith s ⟨f.cause, laneSet [i], f.faddr, f.einfo⟩)
        | .ok rest s => fin s rest
    | _, _ => .fail (.stall s)

/-- The core's own copies of the area go to the home, with the wave's own stores there, before the home answers. -/
def Iss.areaReady (x : Iss) (s : State) (h : GroupHold) : Option State :=
  let inside (l : Loc) : Bool := overlaps l 128 h.loc h.split || overlaps l 128 h.rest (areaSize - h.split)
  let s' := (s.writebackWhere x.w.core (fun f => inside f.loc) (0, 0)).dropFrames x.w.core (fun f => inside f.loc)
  let own (n : Nat) (l : Loc) : Bool := n != 0 && (s.homeOpPending x.w x.no l n || x.w.holdsStore x.no l n)
  if own h.split h.loc || own (areaSize - h.split) h.rest || s'.writebackPending x.w.core (fun l _ => inside l) then
    some s'
  else s'.areaNeeds h (some x.w.core)

/-- The group trap of a check (R335). -/
def Iss.groupTrap (x : Iss) (s : State) (a : DWord) (e : Nat) : Res :=
  .trap s ⟨.group, laneSet [x.first], a, some (BitVec.ofNat 64 e)⟩

/-- The effect of a group instruction, held (R335). -/
def Iss.holdGroup (x : Iss) (w : Wave) (r : GroupReq) (h : GroupHold) (va : Nat) : Wave :=
  w.hold x.no x.clk x.uid (.groupReq r h.loc va)

/-- GJOIN (R333, R335). -/
def execGjoin (g : Gen) (s : State) : Host.Outcome State Fault Refusal :=
  issueWave (.gjoin g) (fun x =>
    let a := x.a64 g x.first
    match x.areaAt a with
    | .fail r => r
    | .ok s h va =>
      let slots := x.w.groupSlots
      if slots.contains (some va) then x.groupTrap s a.bits 1
      else if slots.all (·.isSome) then x.groupTrap s a.bits 6
      else match x.areaReady s h with
        | some s => .stall s
        | none =>
          let st := s.groupState h
          if st = 3 || (st != 0 && !(s.groupOwned h x.w)) then x.groupTrap s a.bits 4
          else if 4096 ≤ s.areaNat h 4 4 + s.joinsReserved h.loc then x.groupTrap s a.bits 5
          else .ok (s.putWave (x.holdGroup x.w .join h va))) s

/-- GLEAVE (R333, R335). -/
def execGleave (g : Gen) (s : State) : Host.Outcome State Fault Refusal :=
  issueWave (.gleave g) (fun x =>
    let a := x.a64 g x.first
    match x.areaAt a with
    | .fail r => r
    | .ok s h va =>
      if !(x.w.groupSlots.contains (some va)) then x.groupTrap s a.bits 2
      else match x.areaReady s h with
        | some s => .stall s
        | none =>
          let given := h.folded.any (·.1 == x.w.id) || h.contrib.any (·.1 == x.w.id) || s.gredUnderway x.w h.loc
          if s.groupState h = 2 && (s.memberIndex h x.w).isSome && !given then x.groupTrap s a.bits 3
          else .ok (s.putWave (x.holdGroup x.w .leave h va))) s

/-- GRED (R335, R336): one value per active lane, ε elsewhere. (DEDUCED: log 96.) -/
def execGred (g : Gen) (s : State) : Host.Outcome State Fault Refusal :=
  issueWave (.gred g) (fun x =>
    let a := x.a64 g x.first
    match x.areaAt a with
    | .fail r => r
    | .ok s h va =>
      if !(x.w.groupSlots.contains (some va)) then x.groupTrap s a.bits 2
      else
        let sub := g.sub.toNat % 16
        let b := x.bW g (decide (sub = 11)) .zero
        let bad := x.lanesWhere fun i => (b i).poison
        if bad != 0#64 then .due s ⟨.poison, bad, a.bits, none⟩
        else
          let vals := (List.range x.width).map fun i => if hasLane x.act i then some (b i).bits else none
          let mark : Piece := { lane := x.first, loc := h.loc, size := 0, row := 0, fwd := [], done := false }
          let o : Op := { x.opOf .value with pieces := [mark] }
          let (w, o) := x.w.addDests x o g.d (if sub = 11 then 2 else 1)
          .ok (s.putWave (x.holdGroup { w with ops := w.ops ++ [o] } (.gred sub vals) h va))) s

/-! Events. -/

/-- A join, leave or contribution arrives at the group's home, those of one wave in issue order (R333, R335, R336): a
contribution is a release ST of the first line (R239, R338). -/
def execGroupRequest (msg : Nat) (s : State) : Host.Outcome State Fault Refusal :=
  .next <| match s.msg? msg with
    | some m =>
      (match m.kind with
        | .groupReq r loc core release none =>
          let s := s.pollGroups
          let first := s.msgs.any (fun k => k.id < m.id && k.wave == m.wave && (match k.kind with
            | .groupReq _ l _ _ _ => l == loc
            | _ => false))
          (match s.group? loc, s.wave? m.wave with
            | some h, some w =>
              if first then s
              else match s.areaNeeds h (some core) with
                | some s => s
                | none => match r with
                  | .gred sub vals =>
                    let rel := release.map (·, true)
                    (match s.homeTurn m loc 128 core rel true with
                      | (false, s) => s
                      | (true, s) => match s.groupContribute h w m.uid sub vals with
                        | some s => ((s.dropMsg msg).recordRelease loc core rel).poll
                        | none => s.modMsg msg fun _ => .groupReq r loc core release (some s.clk))
                  | _ => ((s.dropMsg msg).groupMember h w r).poll
            | _, _ => s)
        | _ => s)
    | none => s

/-- The core resends a refused contribution after at least 64 clocks (R336). (DESIGN CHOICE: log 55.) -/
def execGredResend (msg : Nat) (s : State) : Host.Outcome State Fault Refusal :=
  .next <| s.modMsg msg fun k => match k with
    | .groupReq r l c e (some t) => if t + 64 ≤ s.clk then .groupReq r l c e none else k
    | k => k

/-- A round's result arrives at a contributor, as an acquire of the area's first line (R337, R338).
(DEDUCED: log 96.) -/
def execGredResult (msg : Nat) (s : State) : Host.Outcome State Fault Refusal :=
  .next <| match s.msg? msg with
    | some m =>
      (match m.kind, s.wave? m.wave with
        | .groupResult loc vals poison sub, some w =>
          (match s.homeNeeds loc 128 (some w.core) true with
            | some s => s
            | none =>
              let s := (s.dropMsg msg).acquireInval w.core w.ctx
              (match w.op? m.uid with
                | none => s
                | some o =>
                  let v (i : Nat) : Val64 := ⟨(vals.getD i none).getD (BitVec.ofNat 64 (scanEps sub)), hasLane poison i⟩
                  (s.modWave w.id fun w =>
                    ((lanesOf o.lanes).foldl (fun w i => w.deliver64 o i (v i)) w).finishOp m.uid s.clk).poll))
        | _, _ => s)
    | none => s

end Sys2Proof.Machine
end

