-- ==== Sys2Proof/Machine/Barrier.lean ====
section
/-! DEFINITION. BSYNC, BAR, CPOST and CPEEK, and the events of barrier and carry cells (R341 to R354). -/

namespace Sys2Proof.Machine

/-! The block barrier. -/

/-- BSYNC (R342): the first of a wave in a phase holds its arrival; the split waits for the phase to complete. One that a
rollback issues again after its phase completed adds no arrival and completes at once (DEDUCED from R81, R342).
(DEDUCED: log 15.) -/
def execBsync (g : Gen) (s : State) : Host.Outcome State Fault Refusal :=
  issueWait (.bsync g) (fun x =>
    match x.s.block? x.w.block with
    | none => .ok x.s
    | some b =>
      if x.w.bphase < b.phase then
        if b.lastArrive + 2 ≤ x.s.clk + 1 then .ok (x.s.putWave { x.w with bphase := x.w.bphase + 1 })
        else .wait (x.s.putWave x.w) (x.waitOf (.bsync x.w.bphase) ⟨.dev, 0⟩ 0 (some .block) 0x7D 0)
      else
      let arriving := x.w.held.any (fun h => match h.effect with
        | .bsync => true
        | _ => false)
      let w := if arriving || b.arrived.contains x.w.wid then x.w else x.w.hold x.no x.clk 0 .bsync
      .wait (x.s.putWave w) (x.waitOf (.bsync b.phase) ⟨.dev, 0⟩ 0 (some .block) 0x7D 0)) s

/-! Barrier cells. -/

/-- The cell of a BAR or the cell of a carry: checks of R261 for the lowest active lane, with the classes allowed. -/
def Iss.cellAt (x : Iss) (m : Mem) (align : Nat) (need : Need) (extra : Named → Option Nat) : Located :=
  let a := x.addr m x.first
  x.locate [x.first] (x.addr m) align need fun _ k =>
    (extra k).map fun e => ⟨.address, a.bits, some (BitVec.ofNat 64 e)⟩

/-- A global address is none for BAR (R345). -/
def barClass (k : Named) : Option Nat := match k with
  | .placed (.far _ _ _) => some 6
  | _ => none

/-- The wave's earlier operations on a cell are still to be performed (R268). -/
def State.barPending (s : State) (w : Wave) (l : Loc) : Bool :=
  w.held.any (fun h => match h.effect with
    | .bar _ c _ => overlaps c 32 l 32
    | _ => false) ||
  s.msgs.any (fun m => m.wave == w.id && (match m.kind with
    | .barReq _ c _ _ => overlaps c 32 l 32
    | _ => false))

/-- Make the home of a cell ready for an operation at issue: the wave's earlier writes there first, then the core's own
copy of the line, then what the home needs. None when it is ready. -/
def Iss.cellNeeds (x : Iss) (s : State) (l : Loc) : Option State :=
  let s' := s.surrenderLine x.w.core l.frameLine (0, 0)
  if s.barPending x.w l || s.homeOpPending x.w x.no l 32 || x.w.holdsStore x.no l 32 ||
      s'.writebackPending x.w.core (fun k _ => k == l.frameLine) then some s'
  else if !s'.ownsLine l then some (s'.askLine l)
  else s'.homeNeeds l 32 (some x.w.core) true

/-- Hold a wave's operation at a cell. -/
def Iss.holdCell (x : Iss) (w : Wave) (e : Effect) : Wave :=
  { w with held := w.held ++ [⟨x.no, x.clk, x.uid, e, none⟩] }

/-- C of the lowest active lane. -/
def Iss.cellC (x : Iss) (m : Mem) : Val := x.reg m.c 0 x.first

/-- POISON of a BAR or CPOST: its one lane, with Reported delivery. -/
def Iss.cellPoison (x : Iss) (s : State) (m : Mem) : Res :=
  .due s ⟨.poison, laneSet [x.first], (x.addr m x.first).bits, none⟩

/-- The mark a held BAR keeps of its lane and address, which a POISON it raises at the home names. -/
def Iss.cellMark (x : Iss) (m : Mem) (l : Loc) : Piece :=
  { lane := x.first, loc := l, size := 0, row := (x.addr m x.first).bits.toNat, fwd := [], done := true }

/-- BAR init (R346). -/
def execBarInit (m : Mem) (s : State) : Host.Outcome State Fault Refusal :=
  issueWave (.barInit m) (fun x =>
    match x.cellAt m 32 Need.both barClass with
    | .ok s [(_, .mem l)] =>
      let c := x.cellC m
      if c.poison then x.cellPoison s m
      else
        let w : Wave := { x.w with ops := x.w.ops ++ [{ x.opOf .store with pieces := [x.cellMark m l] }] }
        .ok (s.putWave (x.holdCell w (.bar (.init c.bits.toNat) l (x.relOf m))))
    | .fail s f => x.failWith s f
    | .ok s _ => .ok s
    | .stall s => .stall s) s

/-- BAR arrive (R346): D takes the phase in every active lane. -/
def execBarArrive (m : Mem) (s : State) : Host.Outcome State Fault Refusal :=
  issueWave (.barArrive m) (fun x =>
    match x.cellAt m 32 Need.both barClass with
    | .ok s [(_, .mem l)] =>
      let (w, o) := x.w.addDests x { x.opOf .value with pieces := [x.cellMark m l] } m.d 1
      let w : Wave := { w with ops := w.ops ++ [o] }
      .ok (s.putWave (x.holdCell w (.bar .arrive l (x.relOf m))))
    | .fail s f => x.failWith s f
    | .ok s _ => .ok s
    | .stall s => .stall s) s

/-- BAR expect (R347): performed at the home at issue; what a rollback takes back is kept with the held effects. -/
def execBarExpect (m : Mem) (s : State) : Host.Outcome State Fault Refusal :=
  issueWait (.barExpect m) (fun x =>
    match x.cellAt m 32 Need.both barClass with
    | .ok s [(_, .mem l)] =>
      let c := x.cellC m
      if c.poison then x.cellPoison s m
      else match x.cellNeeds s l with
        | some s => .stall s
        | none =>
          let (bs, s) := s.homeRead l 32
          if anyPoison bs then x.cellPoison s m
          else
            let n := s.natAt (l.plus 12) 4 + c.bits.toNat
            if 2 ^ 32 ≤ n then .trap s ⟨.countOverflow, laneSet [x.first], (x.addr m x.first).bits, some 1⟩
            else
              let s := (((s.meetCell l).setNatAt (l.plus 12) 4 n).afterWrite l)
              .ok (s.modWave x.w.id fun w => w.hold x.no x.clk 0 (.expected l c.bits.toNat))
    | .fail s f => x.failWith s f
    | .ok s _ => .ok s
    | .stall s => .stall s) s

/-- BAR wait (R349). -/
def execBarWait (m : Mem) (s : State) : Host.Outcome State Fault Refusal :=
  issueWait (.barWait m) (fun x =>
    match x.cellAt m 32 Need.read barClass with
    | .ok s [(_, .mem l)] =>
      let c := x.cellC m
      if c.poison then x.cellPoison s m
      else
        let s := s.surrenderLine x.w.core l.frameLine (0, 0)
        .wait s (x.waitOf (.cell c.bits.toNat) l (x.addr m x.first).bits.toNat m.acq 0x7E 3)
    | .fail s f => x.failWith s f
    | .ok s _ => .ok s
    | .stall s => .stall s) s

/-- BAR test (R346, R349). -/
def execBarTest (m : Mem) (s : State) : Host.Outcome State Fault Refusal :=
  issueWave (.barTest m) (fun x =>
    match x.cellAt m 32 Need.read barClass with
    | .ok s [(_, .mem l)] =>
      let c := x.cellC m
      if c.poison then x.cellPoison s m
      else match x.cellNeeds s l with
        | some s => .stall s
        | none =>
          let (bs, s) := s.homeRead l 32
          if anyPoison bs then x.cellPoison s m
          else
            let s := s.meetCell l
            let hit := phaseDone (s.natAt l 4) c.bits.toNat
            let s := s.putWave (x.put x.w m.d 0 x.act fun _ => .ofNat (if hit then 1 else 0) false)
            .ok (if hit then s.acquire x.w m.acq else s)
    | .fail s f => x.failWith s f
    | .ok s _ => .ok s
    | .stall s => .stall s) s

/-- An operation arrives at a barrier cell's home (R346). -/
def execBarrierCellRequest (msg : Nat) (s : State) : Host.Outcome State Fault Refusal :=
  .next <| match s.msg? msg with
    | some m =>
      (match m.kind with
        | .barReq r l core release =>
          let first := s.msgs.any (fun k => k.id < m.id && k.wave == m.wave && (match k.kind with
            | .barReq _ c _ _ => overlaps c 32 l 32
            | _ => false))
          if first then s
          else if !s.ownsLine l then s.askLine l
          else match s.homeTurn m l 32 core release true with
            | (false, s) => s
            | (true, s) =>
              let (bs, s) := s.homeRead l 32
              let op := (s.wave? m.wave).bind (·.op? m.uid)
              if anyPoison bs then
                let s := s.dropMsg msg
                (match op with
                  | some o =>
                    ((s.reportOp m.wave o ⟨.poison, laneSet [lowest o.lanes],
                      BitVec.ofNat 64 ((o.pieces.head?).elim 0 (·.row)), none⟩).modWave m.wave fun w =>
                      w.finishOp m.uid s.clk).poll
                  | none => s)
              else
                let s := s.meetCell l
                let phase := s.natAt l 4
                let s := match r with
                  | .init n =>
                    ((s.setNatAt (l.plus 4) 4 (max 1 n)).setNatAt (l.plus 8) 4 0).setNatAt (l.plus 12) 4 0
                  | .arrive => s.setNatAt (l.plus 8) 4 ((s.natAt (l.plus 8) 4 + 1) % 2 ^ 32)
                  | .expect n => s.setNatAt (l.plus 12) 4 ((s.natAt (l.plus 12) 4 + n) % 2 ^ 32)
                let s := (s.recordRelease l core release).afterWrite l
                match r, op with
                | .arrive, some o =>
                  (s.modMsg msg fun _ => .values ((lanesOf o.lanes).map fun i => (i, ⟨BitVec.ofNat 64 phase, false⟩))).poll
                | _, _ => ((s.dropMsg msg).settleOp m.wave m.uid).poll
        | _ => s)
    | none => s

/-! Carry cells. -/

/-- Only local cells carry (R353). -/
def carryClass (k : Named) : Option Nat := match k with
  | .placed _ => some 10
  | .bad _ => none
  | .local _ _ => none

/-- The class of an address is local (R353). -/
def Iss.carryNamed (x : Iss) (m : Mem) (k : Named) : Option Nat :=
  if (x.addr m x.first).bits.toNat / 2 ^ 62 ≠ 0 then some 10 else carryClass k

/-- The context and address of a cell that has passed its checks. -/
def Iss.carryAt (x : Iss) (s : State) (m : Mem) (l : Loc) : CarryAt :=
  match s.nameOf x.w (x.addr m x.first).bits.toNat with
  | .local c va => ⟨l, c, va⟩
  | _ => ⟨l, x.w.ctx, (x.addr m x.first).bits.toNat⟩

/-- CPOST (R353): held, with the sequence value it takes. -/
def execCpost (m : Mem) (s : State) : Host.Outcome State Fault Refusal :=
  issueWave (.cpost m) (fun x =>
    match x.cellAt m 64 Need.both (x.carryNamed m) with
    | .ok s [(_, .mem l)] =>
      let d := x.dataOf m.c m.size.bytes x.first
      if anyPoison d then x.cellPoison s m
      else if !x.w.streamLeft then x.exhausted s
      else
        let c := x.carryAt s m l
        let w : Wave := { x.w with ops := x.w.ops ++ [x.opOf .store], seq := x.w.seq + 1 }
        .ok (s.putWave (x.holdCell w
          (.post c (m.sub.toNat % 16) (BitVec.ofNat 64 (pvalue d)) (x.w.serial x.w.seq)
            (x.relOf m))))
    | .fail s f => x.failWith s f
    | .ok s _ => .ok s
    | .stall s => .stall s) s

/-- CPEEK (R353): asks the cell; without lookahead the split waits inside it. -/
def cpeekBody (m : Mem) (out : Bool) (x : Iss) : Res :=
  match x.cellAt m 64 Need.read (x.carryNamed m) with
  | .ok s [(_, .mem l)] =>
    let c := x.carryAt s m l
    let n := m.size.bytes
    let p : Piece := { lane := x.first, loc := l, size := n, row := 0, fwd := [], done := false }
    let o : Op := { x.opOf (.cpeek out c.ctx c.va) with acq := m.acq, pieces := [p] }
    let (w, o) := x.w.addDests x o m.d m.size.regs
    let s := (s.putWave { w with ops := w.ops ++ [o] }).surrenderLine x.w.core l.frameLine (0, 0)
    if o.left = 0 then
      .wait s { x.waitOf (.carry out n) l (x.addr m x.first).bits.toNat none 0x76 (if out then 1 else 0) with uid := x.uid }
    else .ok s
  | .fail s f => x.failWith s f
  | .ok s _ => .ok s
  | .stall s => .stall s

/-- CPEEK of IN. -/
def execCpeek (m : Mem) (s : State) : Host.Outcome State Fault Refusal := issueWait (.cpeek m) (cpeekBody m false) s

/-- CPEEK of OUT. -/
def execCpeekOut (m : Mem) (s : State) : Host.Outcome State Fault Refusal :=
  issueWait (.cpeekOut m) (cpeekBody m true) s

/-- A post arrives at a carry cell's home (R351, R353). -/
def execCarryPost (msg : Nat) (s : State) : Host.Outcome State Fault Refusal :=
  .next <| match s.msg? msg with
    | some m =>
      (match m.kind with
        | .post c opc total serial =>
          if !s.ownsLine c.loc then s.askLine c.loc
          else match s.homeTurn m c.loc 64 ((s.wave? m.wave).elim 0 (·.core)) none true with
            | (false, s) => s
            | (true, s) =>
              ((((s.dropMsg msg).carryPosted c m.wave m.uid opc total serial).afterWrite c.loc).settleOp m.wave m.uid).poll
        | _ => s)
    | none => s

/-- A forward comes to its local successor (R351, R352); it waits while the page is absent. -/
def State.forwardArrives (s : State) (m : Msg) : State :=
  match m.kind with
  | .forward src dst v poison _ =>
    (match s.translate none (s.sliceOf src.loc / 32) src.ctx dst Need.both with
      | .stall s => s
      | .fault f s => if f.cause = .protection then (s.dropMsg m.id).carryFails src 3 else s
      | .ok l s =>
        if !s.ownsLine l then s.askLine l
        else match s.homeNeeds l 64 none true with
          | some s => s
          | none => (((s.dropMsg m.id).carryArrives ⟨l, src.ctx, dst⟩ v poison).afterWrite l).poll)
  | _ => s

/-- A forward arrives at its local successor (R351, R352). -/
def execCarryForward (msg : Nat) (s : State) : Host.Outcome State Fault Refusal :=
  .next ((s.msg? msg).elim s s.forwardArrives)

end Sys2Proof.Machine
end

