-- ==== Sys2Proof/Machine/Interrupt.lean ====
section
/-! DEFINITION. UINT, UICTL, UIRET, and the arrival and delivery of interrupts (R405 to R417). -/

namespace Sys2Proof.Machine

/-! UINT (R405, R406). -/

/-- The target word. -/
def uintRank (t : Nat) : Nat := bitsOf t 28 12
def uintCtx (own t : Nat) : Nat := if bitsOf t 11 6 = 0 then own else bitsOf t 11 6

/-- UINT (R406). A poisoned target word is used as it stands. (DESIGN CHOICE: log 163.) -/
def execUint (g : Gen) (s : State) : Host.Outcome State Fault Refusal :=
  issueWave (.uint g) (fun x =>
    let t (i : Nat) : Val := x.b32 g i
    let p (i : Nat) : Val64 := x.a64 g i
    let far (i : Nat) : Bool := (t i).bits.toNat.testBit 29
    let lost := x.fails fun i =>
      if (p i).poison then some ⟨.poison, 0, none⟩
      else if far i && !(x.s.rankOk (uintRank (t i).bits.toNat)) then some ⟨.address, 0, some 3⟩ else none
    match lost with
      | some f => x.failWith x.s f
      | none =>
        let any := x.lanes.any far
        if any && !x.w.streamLeft then x.exhausted x.s
        else
          let w := x.lanes.foldl (fun (w : Wave) i =>
            let tv := (t i).bits.toNat
            let v := tv % 64
            if far i then
              let rank := uintRank tv
              let r := x.request x.s .interrupt i rank 0 0 8 0 .release (if x.s.rankKind rank = 1 then .pod else .job)
                (leBytes 8 (p i).bits.toNat)
              w.hold x.no x.clk 0 (.interruptTo { r with tctx := uintCtx x.w.ctx tv, vec := v } x.pc)
            else w.hold x.no x.clk 0 (.interrupt (uintCtx x.w.ctx tv) v (p i).bits i x.pc)) x.w
          .ok (x.s.putWave (x.takeSeq w any))) s

/-- A refusal reaches the wave that sent: a Reported REMOTE_DENIED (R407). -/
def State.sendRefused (s : State) (wave lane no : Nat) (ipc : DWord) (e : Nat) : State :=
  s.modWave wave fun w => { w with
    due := w.due ++ [⟨⟨.remoteDenied, .reported, laneSet [lane], 0, BitVec.ofNat 64 e⟩, 0#64, ipc, no, s.clk⟩] }

/-- Perform the send or the UICTL of a message at the home of the page, in the order its source sent them: a wave, or
the host, whose sends no wave's number stands on (R305). A send to an absent page stays parked (R404, R407). -/
def State.interruptArrives (s : State) (m : Msg) : State :=
  let behind := s.msgs.any (fun k => k.id < m.id && k.wave == m.wave && (match k.kind, m.kind with
    | .interrupt _ _ _ _ _ _, .interrupt _ _ _ _ _ _ => true
    | .uictl _ l, .uictl _ l' => l == l'
    | _, _ => false))
  if behind then s
  else match m.kind with
    | .interrupt ctx vec payload src lane ipc =>
      (match s.sendVector ctx vec payload (if src < 64 then .wave src else .host) with
        | .done s => s.dropMsg m.id
        | .wait s => s
        | .absent s => s.parkNotice m.id ctx (s.ctx ctx).uipage
        | .refused e s =>
          let s := s.dropMsg m.id
          if src < 64 then s.sendRefused m.wave lane m.no ipc e
          else s.event ctx 0 ⟨0x13, 5, 2, 0xFFFFFFFF, 0, 0, 0⟩)
    | .uictl sub l =>
      (match s.homeTurn m l 16 ((s.wave? m.wave).elim 0 (·.core)) none true with
        | (false, s) => s
        | (true, s) =>
          let (bs, s) := s.homeRead l 16
          let v := s.vectorAt l
          let vec := l.addr % 1024 / 16
          match sub with
          | 0 => ((s.setNatAt (l.plus 2) 1 (v.ctl ||| 2)).afterWrite l).dropMsg m.id
          | 1 =>
            let s := s.setNatAt (l.plus 2) 1 (v.ctl &&& 0xFD)
            let s := if v.masked then s.wakeCheck m.ctx vec l else s
            (s.afterWrite l).dropMsg m.id
          | _ =>
            let s := ((s.setNatAt l 2 0).afterWrite l).dropMsg m.id
            let s := s.modCtx m.ctx fun c => { c with active := if c.active = some vec then none else c.active }
            let s := match s.wave? m.wave with
              | some w => s.acquireInval w.core w.ctx
              | none => s
            (match (s.wave? m.wave).bind (·.op? m.uid) with
              | none => s
              | some o =>
                let p := anyPoison bs
                s.modWave m.wave fun w =>
                  ((lanesOf o.lanes).foldl (fun w i =>
                    (w.deliver64 o i ⟨BitVec.ofNat 64 v.payload, p⟩).deliver o 2 i (.ofNat (v.count + 65536 * (v.ctl % 8)) p)) w).finishOp
                    m.uid s.clk))
    | _ => s

/-- An interrupt send arrives at the page's home. -/
def execInterruptSend (msg : Nat) (s : State) : Host.Outcome State Fault Refusal :=
  .next <| match s.msg? msg with
    | some m => (s.interruptArrives m).poll
    | none => s

/-- A send of the host (R409): through the CXL slot or the window of the control space; context 0's windows discard writes
(R447). -/
def State.hostInterrupt (s : State) (ctx vec : Nat) (payload : DWord) (via : HostVia) (whole poisoned : Bool) : State :=
  let die := match via with
    | .cxl => 1
    | .pcie => 0
  if !s.dev.on || s.dev.st != .ready || 64 ≤ ctx || 64 ≤ vec || ctx = 0 then s
  else if poisoned then s.report 0x09 die die 0 (ctx + 256 * vec) false
  else if !whole then s
  else s.hostSend ctx vec payload

def execHostInterruptSend (ctx : Nat) (vec : Nat) (payload : DWord) (via : HostVia) (whole : Bool) (poisoned : Bool)
    (s : State) : Host.Outcome State Fault Refusal := .next (s.hostInterrupt ctx vec payload via whole poisoned)

/-! UICTL (R415). -/

/-- The vector record a UICTL acts on, translated at issue for reading and writing; a poisoned B is used as it stands.
(DEDUCED: log 103; DESIGN CHOICE: log 163.) -/
def Iss.vectorRecord (x : Iss) (g : Gen) (k : State → Loc → Res) : Res :=
  let va := (x.s.ctx x.w.ctx).uipage + 16 * ((x.b32 g x.first).bits.toNat % 64)
  match x.s.laneAt x.w x.w.ctx va va Need.both with
  | .stall s => .stall s
  | .bad f s => x.failWith s ⟨f.cause, laneSet [x.first], f.faddr, f.einfo⟩
  | .ok l s => k s l

/-- UICTL mask. -/
def execUictlMask (g : Gen) (s : State) : Host.Outcome State Fault Refusal :=
  issueWave (.uictlMask g) (fun x =>
    x.vectorRecord g fun s l => .ok (s.putWave (x.w.hold x.no x.clk 0 (.uictl 0 l)))) s

/-- UICTL unmask. -/
def execUictlUnmask (g : Gen) (s : State) : Host.Outcome State Fault Refusal :=
  issueWave (.uictlUnmask g) (fun x =>
    x.vectorRecord g fun s l => .ok (s.putWave (x.w.hold x.no x.clk 0 (.uictl 1 l)))) s

/-- UICTL ack: the record returns once the hold has ended. -/
def execUictlAck (g : Gen) (s : State) : Host.Outcome State Fault Refusal :=
  issueWave (.uictlAck g) (fun x =>
    x.vectorRecord g fun s l =>
      let (w, o) := x.w.addDests x { x.opOf .value with acq := some .job } g.d 3
      .ok (s.putWave (({ w with ops := w.ops ++ [o] } : Wave).hold x.no x.clk x.uid (.uictl 2 l)))) s

/-- UICTL query: reads the record after the wave's own earlier stores and atomics there; it is not held, so that it
can go before an earlier mask, unmask or ack of the wave (R415, R438). (DEDUCED: log 103.) -/
def execUictlQuery (g : Gen) (s : State) : Host.Outcome State Fault Refusal :=
  issueWave (.uictlQuery g) (fun x =>
    x.vectorRecord g fun s l =>
      let s' := s.surrenderLine x.w.core l.frameLine (0, 0)
      if s.homeOpPending x.w x.no l 16 || x.w.holdsStore x.no l 16 || s'.writebackPending x.w.core (fun k _ => k == l.frameLine) then .stall s'
      else match s'.homeNeeds l 16 (some x.w.core) true with
        | some s => .stall s
        | none =>
          let (bs, s) := s'.homeRead l 16
          let v := s.vectorAt l
          let p := anyPoison bs
          let w := x.putPair x.w g.d x.act fun _ => ⟨BitVec.ofNat 64 v.payload, p⟩
          let w := x.put w g.d 2 x.act fun _ => .ofNat (v.count + 65536 * (v.ctl % 8)) p
          .ok ((s.putWave w).acquireInval x.w.core x.w.ctx)) s

/-! Delivery and return (R411 to R413). -/

/-- The vector a delivery takes: the Pending one that has waited longest by the home's send numbers. -/
def State.oldestVector (s : State) (ctx : Nat) (page : Loc) : Option Nat :=
  let no := (s.ctx ctx).sendNo
  let age (v : Nat) : Nat := (no + 2 ^ 32 - (s.vectorAt (page.plus (16 * v))).stamp) % 2 ^ 32
  let age (v : Nat) : Nat := if age v = 0 then 2 ^ 32 else age v
  ((List.range 64).filter (fun v => (s.vectorAt (page.plus (16 * v))).pending)).foldl (fun (b : Option Nat) v =>
    match b with
    | none => some v
    | some u => if age u < age v then some v else some u) none

/-- Nothing keeps the wave from being diverted now (R412 steps 1, 2, 5): no split inside a FENCE or tlbsync, no scalar,
predicate or mode word still to be written, and room for a window. (DEDUCED: log 100.) -/
def Wave.divertible (w : Wave) : Bool :=
  !(w.splits.any (fun p => p.wait.any (!·.kind.counts))) && !(w.spend.any (·.1 < 16)) &&
    !(w.ops.any (fun o => !o.done && !o.flags.isEmpty)) && w.windows.length < 64

/-- Divert the handler wave into a handler window at HENTRY (R412). -/
def State.divert (s : State) (w : Wave) (vec : Nat) (entry : DWord) : State :=
  let w := (w.leaveWaits s.clk).newRegion s.clk
  let saved : Saved := ⟨w.splits, w.parked, w.sregs, w.preds, w.modes, vec, w.ahead⟩
  let (win, w) := w.pushWindow .handler 0 0#64 32 (some saved)
  let sp := Split.fresh 0 entry w.live win s.clk
  let (_, w) := w.writeName sp 0 s.clk none 0 (fun _ => some (.ofNat vec false))
  let w : Wave := { w with
    splits := [sp], parked := [], ahead := [], preds := w.preds.map (fun _ => 0#64), modes := w.modes.map (fun _ => modeReset) }
  let s := (s.putWave w).acquireInval w.core w.ctx
  s.modCtx w.ctx fun c => { c with active := some vec, wakeNoticed := c.wakeNoticed.filter (· != vec) }

/-- The oldest Pending vector is delivered (R411, R412). -/
def execInterruptDelivery (ctx : Nat) (s : State) : Host.Outcome State Fault Refusal :=
  .next <| match s.handlerWave ctx with
    | none => s
    | some w =>
      if !w.deliverable || !w.divertible then s
      else match s.reachPage ctx with
        | .ok page s =>
          (match s.oldestVector ctx page with
            | some v => s.divert w v (BitVec.ofNat 64 (s.natAt (page.plus 0xA00) 8))
            | none => s)
        | .stall s => s
        | .fault _ s => s

/-- UIRET (R413): it ignores its guard. (DEDUCED: log 101.) -/
def execUiret (g : Gen) (s : State) : Host.Outcome State Fault Refusal :=
  issueWave (.uiret g) (fun x =>
    let fail (e : Nat) : Res := x.raise ⟨.window, x.sp.mask, 0, some (BitVec.ofNat 64 e)⟩
    match x.w.window? x.sp.win with
    | some win =>
      (match win.kind, win.saved with
        | .handler, some k =>
          if x.sp.mask != x.w.live then fail 7
          else
            let w := x.w.popWindow win.id x.clk
            let w : Wave := { w with
              splits := k.splits.map (fun p => p.renew (max p.notBefore x.clk))
              parked := k.parked, ahead := k.ahead, sregs := k.sregs, preds := k.preds, modes := k.modes
              spend := w.spend.filter (fun p => 16 ≤ p.1) }
            let s := (x.s.putWave w).modCtx w.ctx fun c => { c with active := none }
            (match s.reachPage w.ctx with
              | .ok page s => .jump (s.wakeCheck w.ctx k.vec (page.plus (16 * k.vec)))
              | _ => .jump s)
        | _, _ => fail 5)
    | none => fail 5) s

end Sys2Proof.Machine
end

