-- ==== Sys2Proof/Machine/Lines.lean ====
section
/-! DEFINITION. Events of lines and homes: reads, writes and atomics at the home, replies, drains, probes, write-backs,
gating (R231 to R258, R269 to R275). -/

namespace Sys2Proof.Machine

/-! Reads. -/

/-- A read performed at its home (R233, R241): the bytes read, the sector as the core's own L1 holds it at that moment
taken over them, go back to the core. A line that holds or held a record for this read is not allocated there; what
was read of the sector before and is still on its way fills no frame any more (R289). -/
def State.performRead (s : State) (m : Msg) (sec : Loc) (core : Nat) (alloc : Bool) (ret : Nat) : State :=
  let (bs, s) := s.homeRead sec 32
  let s := s.sharedTake sec ret false
  let fill := alloc && !(s.homes.records.any (·.line == sec.line)) && !(s.homes.waiting.any (·.2 == .msg m.id))
  let s := if fill then s.dirFill core sec.dirKey else s
  let bs := s.overL1 core sec bs
  let s := (s.hasRead (.msg m.id)).noFill core (· == sec)
  s.modMsg m.id fun _ => .reply sec bs fill core

/-- A read arrives at its home (R233, R241). One that goes around the L1 has its core's copy given up first (R232,
R297). -/
def execHomeRead (msg : Nat) (s : State) : Host.Outcome State Fault Refusal :=
  .next <| match s.msg? msg with
    | some m =>
      (match m.kind with
        | .read sec core alloc ret =>
          let own := match s.wave? m.wave with
            | some w => m.uid != 0 && s.homeOpPending w m.no sec 32
            | none => false
          let s := if s.goesAround m then s.surrenderLine core sec.frameLine (0, 0) else s
          if own || s.behindOwn m sec 32 || s.writebackPending core (fun l _ => l.frameLine == sec.frameLine) then s
          else match s.homeWaits msg sec 32 (some core) true with
            | some s => s
            | none => match (if alloc then s.dirFull sec.dirKey else none) with
              | some s => s
              | none => s.performRead m sec core alloc ret
        | _ => s)
    | none => s

/-- A sector arrives at a frame (R234, R236): written bytes stay, the others are taken from the home. -/
def Frame.fill (f : Frame) (k : Nat) (bs : List PByte) : Frame :=
  if f.valid.getLsbD k then f
  else
    let data := f.data.zipIdx.map (fun (b, i) =>
      if i / 32 = k ∧ !(f.wr.getLsbD i) then (bs.getD (i - 32 * k) ⟨0#8, false⟩).byte else b)
    let bit : BitVec 4 := 1#4 <<< k
    { f with
      data, valid := f.valid ||| bit
      poison := if anyPoison bs then f.poison ||| bit else if f.dirty.getLsbD k then f.poison else f.poison &&& ~~~bit
      wr := f.wr &&& ~~~(BitVec.ofNat 128 ((2 ^ 32 - 1) * 2 ^ (32 * k))) }

/-- The halves of a line that a frame may not hold (R247, R249). -/
def State.restriction (s : State) (line : Loc) : BitVec 2 :=
  match line.sp with
  | .host => if line.addr / 64 % 2 = 0 then 2#2 else 1#2
  | _ => (if s.hostHolds line then 1#2 else 0#2) ||| (if s.hostHolds (line.plus 64) then 2#2 else 0#2)

/-- Fill a core's frame with a sector; a core that has gated, or that the context's last block has left, holds none of it
(R245, R252). -/
def State.fillSector (s : State) (core ctx : Nat) (sec : Loc) (bs : List PByte) : State :=
  if (s.core core).gated || !(s.residentOn ctx core) then s else
  let line := sec.frameLine
  let s := s.needFrame core line ctx (s.restriction line)
  s.modCore core fun c => { c with
    frames := c.frames.map (fun f => if f.loc == line then f.fill (Frame.sectorOf sec.addr) bs else f) }

/-- A loaded value in a register (R62, R266). -/
def loadReg (size : Size) (signed : Bool) (bs : List PByte) (j : Nat) : Val :=
  let p := anyPoison bs
  let v := pvalue ((bs.drop (4 * j)).take 4)
  match size, signed with
  | .b8, true => .ofNat (intBits 32 (signedOf 8 v)) p
  | .b16, true => .ofNat (intBits 32 (signedOf 16 v)) p
  | _, _ => .ofNat v p

/-- The bytes of a piece in its sector. -/
def Piece.bytes (p : Piece) (sec : Loc) (bs : List PByte) : List PByte := (bs.drop (p.loc.addr - sec.addr)).take p.size

/-- Deliver a piece of an in-flight instruction. -/
def Wave.deliverPiece (w : Wave) (o : Op) (p : Piece) (bs : List PByte) : Wave :=
  match o.kind with
  | .load size signed => (List.range size.regs).foldl (fun w j => w.deliver o j p.lane (loadReg size signed bs j)) w
  | _ => w.landRow o p.row bs

/-- Replies: data fills the L1 and the destinations, values are written, acknowledgements counted (R152, R236, R242).
A load reads the wave's own earlier stores that are still held over the data; where one of them has left its hold
since the issue, the read is made again (R235, R268, R288). (DEDUCED: log 135.) -/
def execMemoryReply (msg : Nat) (s : State) : Host.Outcome State Fault Refusal :=
  .next <| match s.msg? msg with
    | none => s
    | some m =>
      match m.kind with
      | .reply sec bs alloc core =>
        let (may, s) := s.mayLandAt m.wave m.uid
        if !may || (s.wave? m.wave).any (·.unreadOn m.no sec) then s
        else
        let s := s.dropMsg msg
        let s := if alloc then s.fillSector core m.ctx sec bs else s
        (match (s.wave? m.wave).bind (·.op? m.uid) with
          | none => s
          | some o =>
            let hit (p : Piece) : Bool := !p.done && p.loc.sector == sec
            let now := ((s.wave? m.wave).elim [] fun w => w.heldOn o.no sec).filter fun _ => !s.inSlots sec 32
            if (o.pieces.filter hit).any (fun p => p.fwd != now.map (·.1)) then
              let s := s.modWave m.wave fun w => w.modOp m.uid fun o => { o with
                pieces := o.pieces.map (fun p => if hit p then { p with fwd := now.map (·.1) } else p) }
              { s with msgs := s.msgs ++ [{ m with kind := .read sec core false (o.cache.ret) }] }
            else
            let bs := now.foldl (fun bs (h : Nat × List LaneOp) => h.2.foldl (fun bs op => overSector bs sec op) bs) bs
            let s := s.modWave m.wave fun w =>
              let w := (o.pieces.filter hit).foldl (fun w p => w.deliverPiece o p (p.bytes sec bs)) w
              w.modOp m.uid fun o => { o with
                pieces := o.pieces.map (fun p => if hit p then { p with done := true } else p) }
            (s.settleOp m.wave m.uid).poll)
      | .values vs =>
        let s := s.dropMsg msg
        (match (s.wave? m.wave).bind (·.op? m.uid) with
          | none => s
          | some o =>
            let s := s.modWave m.wave fun w => vs.foldl (fun w v => w.deliver64 o v.1 v.2) w
            (s.settleOp m.wave m.uid).poll)
      | .ack => ((s.dropMsg msg).settleOp m.wave m.uid).poll
      | _ => s

/-! Writes and atomics. -/

/-- A write arrives at its home or slice (R233, R239, R243). -/
def execHomeWrite (msg : Nat) (s : State) : Host.Outcome State Fault Refusal :=
  .next <| match s.msg? msg with
    | some m =>
      (match m.kind with
        | .write op core release =>
          let n := op.data.length
          match s.homeTurn m op.loc n core release false with
            | (false, s) => s
            | (true, s) =>
              let s := ((s.dropMsg msg).homeStore op.loc op.data).sharedTake op.loc (s.retention m) true
              (((s.recordRelease op.loc core release).afterWrite op.loc).settleOp m.wave m.uid).poll
        | _ => s)
    | none => s

/-- An atomic arrives at its home (R269 to R271). -/
def execHomeAtomic (msg : Nat) (s : State) : Host.Outcome State Fault Refusal :=
  .next <| match s.msg? msg with
    | some m =>
      (match m.kind with
        | .atomic kind op core fetch release =>
          if !s.ownsLine op.loc then s.askLine op.loc
          else match s.homeTurn m op.loc op.size core release true with
            | (false, s) => s
            | (true, s) =>
              let (v, t) := s.applyAtomic kind op
              let s := (t.sharedTake op.loc (s.retention m) true).enabledAt s op.loc
              let s := (s.recordRelease op.loc core release).afterWrite op.loc
              let s := if fetch then s.modMsg msg fun _ => .values [(op.lane, v)]
                else (s.dropMsg msg).settleOp m.wave m.uid
              s.poll
        | _ => s)
    | none => s

/-- A keyed contribution arrives at its cell (R273): those of one instruction are accepted in lane order. -/
def execRedkContribution (msg : Nat) (s : State) : Host.Outcome State Fault Refusal :=
  .next <| match s.msg? msg with
    | some m =>
      (match m.kind with
        | .redk variant op core none =>
          let first := s.msgs.any (fun k => k.id < m.id && k.wave == m.wave && k.uid == m.uid)
          if first then s
          else if !s.ownsLine op.loc then s.askLine op.loc
          else match s.homeTurn m op.loc 16 core none true with
            | (false, s) => s
            | (true, s) => match (s.sharedTake op.loc (s.retention m) true).deliverKey variant op none with
              | some s => (((s.dropMsg msg).afterWrite op.loc).settleOp m.wave m.uid).poll
              | none => s.modMsg msg fun _ => .redk variant op core (some s.clk)
        | _ => s)
    | none => s

/-- The core resends a refused contribution after at least 64 clocks (R273). (DESIGN CHOICE: log 55.) -/
def execRedkResend (msg : Nat) (s : State) : Host.Outcome State Fault Refusal :=
  .next <| s.modMsg msg fun k => match k with
    | .redk v op c (some t) => if t + 64 ≤ s.clk then .redk v op c none else k
    | k => k

/-- Exclusive ownership of a host line is granted (R367). -/
def execExclusiveOwnershipGrant (msg : Nat) (s : State) : Host.Outcome State Fault Refusal :=
  .next <| match s.msg? msg with
    | some m =>
      (match m.kind with
        | .ownership line => (s.dropMsg msg).modHomes fun h => { h with owned := insertNat line h.owned }
        | _ => s)
    | none => s

/-! Drains and write-backs. -/

/-- A drain order arrives at its core (R236, R241). -/
def execDrainOrder (msg : Nat) (s : State) : Host.Outcome State Fault Refusal :=
  .next <| match s.msg? msg with
    | some m =>
      (match m.kind with
        | .drain core upto all line false =>
          (s.writebackWhere core (fun f => all || decide (f.epoch ≤ upto)) (0, 0)).modMsg msg fun _ =>
            .drain core upto all line true
        | _ => s)
    | none => s

/-- The acknowledgement of a drain: every frame of the order has been written back (R241). (DEDUCED: log 43.) -/
def execDrainAck (msg : Nat) (s : State) : Host.Outcome State Fault Refusal :=
  .next <| match s.msg? msg with
    | some m =>
      (match m.kind with
        | .drain core upto all line true =>
          if (s.core core).frames.any (fun f => f.isDirty && (all || decide (f.epoch ≤ upto))) ||
              s.writebackPending core (fun _ e => all || decide (e ≤ upto)) then
            s.writebackWhere core (fun f => all || decide (f.epoch ≤ upto)) (0, 0)
          else
            let same := (s.recorded line none).any (fun c => c.1 == core && (all || c.2 == upto % 65536))
            let s := s.dropMsg msg
            ((if same then s.clearRecorded line core else s).recordRebuilt line).poll
        | _ => s)
    | none => s

/-- A write-back arrives at the home, in epoch order and in issue order of its frame (R236, R237). -/
def execHomeWriteback (msg : Nat) (s : State) : Host.Outcome State Fault Refusal :=
  .next <| match s.msg? msg with
    | some m =>
      (match m.kind with
        | .writeback core loc bytes whole epoch _ ret =>
          let ahead := s.msgs.any (fun k => match k.kind with
            | .writeback c l _ _ e _ _ => c == core && (decide (e < epoch) || (l == loc && decide (k.id < msg)))
            | _ => false)
          if ahead then s
          else
            let base := loc.addr / 128 * 128
            let s := [0, 1, 2, 3].foldl (fun (s : State) k =>
              let n := (bytes.filter (fun b => b.1 / 32 == k)).length
              if n = 0 then s
              else (s.mergeErrors ⟨loc.sp, base + 32 * k⟩ n).sharedTake ⟨loc.sp, base + 32 * k⟩ ret true) s
            let mem := bytes.foldl (fun (mm : Memory) (b : Nat × PByte) => mm.set (base + b.1) b.2.byte) (s.memOf loc.sp)
            let mem := [0, 1, 2, 3].foldl (fun (mm : Memory) k =>
              let here := bytes.filter (fun b => b.1 / 32 == k)
              if here.isEmpty then mm
              else if here.any (·.2.poison) then mm.setPoison (base / 32 + k) true
              else if whole.getLsbD k then mm.setPoison (base / 32 + k) false
              else mm) mem
            let s := (s.setMem loc.sp mem).dropMsg msg
            ((s.afterWrite loc).settleOp m.wave m.uid).poll
        | _ => s)
    | none => s

/-- A frame reaches its age limit or is replaced: it is written back in epoch order, and gone (R236, R237). -/
def execL1AgeLimit (core frame : Nat) (s : State) : Host.Outcome State Fault Refusal :=
  .next <|
    let s := s.writebackWhere core (fun f => f.id == frame) (0, 0)
    s.dropFrames core (fun f => f.id == frame)

/-- A core that has been idle for 8,192 clocks gates once its frames are written back (R252, R253). -/
def execCorePowerGate (core : Nat) (s : State) : Host.Outcome State Fault Refusal :=
  .next <|
    let c := s.core core
    let busy := s.waves.any (fun w => w.core == core && ((w.onCore && w.st != .ended) || !w.held.isEmpty))
    if busy || !c.pending.isEmpty || s.clk < c.idleAt + 8192 || c.gated then s
    else
      let s := ((s.writebackWhere core (fun _ => true) (0, 0)).dropFrames core (fun _ => true)).noFill core fun _ => true
      let ordered := s.msgs.any fun m => match m.kind with
        | .drain c _ _ _ _ => c == core
        | _ => false
      if ordered || s.writebackPending core (fun _ _ => true) then s else s.modCore core fun c => { c with gated := true }

/-! Probes (R248, R250, R251). -/

/-- A probe arrives at a core: the half, or the line, is written back and invalidated (R236). (DEDUCED: log 45.) -/
def execHolderProbe (msg : Nat) (s : State) : Host.Outcome State Fault Refusal :=
  .next <| match s.msg? msg with
    | some m =>
      (match m.kind with
        | .probe core line half req owner =>
          let answer (s : State) (d : List (Nat × Byte)) (p : List Nat) (ret : Nat) : State :=
            s.modMsg msg fun _ => .probeResponse core line half req d p ret
          let s := s.noFill core (·.frameLine == dirLine line)
          if (s.core core).gated || owner.any (s.gateFilters core) then answer s [] [] 1
          else if s.writebackPending core (fun l _ => l == dirLine line) then s
          else match s.frame? core (dirLine line) with
            | none => answer s [] [] 1
            | some f =>
              let older := (s.core core).frames.any (fun g => g.isDirty && decide (g.epoch < f.epoch))
              if f.isDirty && (older || s.writebackPending core (fun _ e => decide (e < f.epoch))) then
                s.writebackWhere core (fun g => g.isDirty && decide (g.epoch < f.epoch)) (0, 0)
              else
                let sent := f.writebackBytes half
                let keep : BitVec 4 := match half with
                  | none => 0#4
                  | some 0 => 0xC#4
                  | some _ => 0x3#4
                let bad := [0, 1, 2, 3].filter (fun k => f.poison.getLsbD k && sent.any (fun b => b.1 / 32 == k))
                let s := s.modFrame core f.id fun f => { f with
                  valid := f.valid &&& keep, dirty := f.dirty &&& keep, poison := f.poison &&& keep
                  wr := if half == some 0 then f.wr &&& (BitVec.ofNat 128 (2 ^ 128 - 2 ^ 64))
                    else if half.isSome then f.wr &&& BitVec.ofNat 128 (2 ^ 64 - 1) else 0#128 }
                answer s (sent.map (fun b => (b.1, b.2.byte))) bad f.ret
        | _ => s)
    | none => s

/-- Dirty bytes of a line, named by its directory key, are taken into its home, with the poison of their sectors and
the retention that their CACHE asks for (R232). -/
def State.takeDirty (s : State) (key : Nat) (d : List (Nat × Byte)) (bad : List Nat) (ret : Nat) : State :=
  let l := dirLine key
  let base := l.addr / 128 * 128
  let s := [0, 1, 2, 3].foldl (fun (s : State) k =>
    let n := (d.filter (fun b => b.1 / 32 == k)).length
    if n = 0 then s else (s.mergeErrors ⟨l.sp, base + 32 * k⟩ n).sharedTake ⟨l.sp, base + 32 * k⟩ ret true) s
  let mem := d.foldl (fun (mm : Memory) (b : Nat × Byte) => mm.set (base + b.1) b.2) (s.memOf l.sp)
  let mem := [0, 1, 2, 3].foldl (fun (mm : Memory) k =>
    let here := d.filter (fun b => b.1 / 32 == k)
    if here.isEmpty then mm
    else if bad.contains k then mm.setPoison (base / 32 + k) true
    else if here.length = 32 then mm.setPoison (base / 32 + k) false
    else mm) mem
  let s := s.setMem l.sp mem
  if d.isEmpty then s else s.afterWrite l

/-- A request of the home's own has all its answers: the entry it names is gone, a rebuilt one with its report (R250,
R254). -/
def State.dirAnswered (s : State) (req : Nat) : State :=
  match s.homes.hostReqs.find? (fun r => r.id == req && (r.kind == 3 || r.kind == 4) && r.waits == 0) with
  | none => s
  | some r =>
    let s := s.modHomes fun h => { h with
      dir := h.dir.filter (·.line != r.addr), hostReqs := h.hostReqs.filter (·.id != req) }
    if r.kind = 3 then
      (s.count (dirDie r.addr) 7).report 0x04 (dirDie r.addr) (dirDie r.addr) (dirLine r.addr).addr 0 (decide (r.addr < 2 ^ 63))
    else s

/-- A host request, or one of the home's own, has one answer less to wait for. -/
def State.answered (s : State) (req : Nat) : State :=
  (s.modReq req fun r => { r with waits := r.waits - 1 }).dirAnswered req

/-- One answer to a rebuilding of a directory entry (R254): the first dirty answer for a half is the home's data, a
later one that differs poisons the line. `data` of the request notes the halves answered dirty. -/
def State.rebuildAnswer (s : State) (req line : Nat) (d : List (Nat × Byte)) (bad : List Nat) (ret : Nat) : State :=
  let s := [0, 1].foldl (fun s h =>
    let here := d.filter (fun b => b.1 / 64 == h)
    if here.isEmpty then s
    else
      let seen := s.homes.hostReqs.any (fun r => r.id == req && r.data.contains (BitVec.ofNat 8 h))
      if seen then
        let l := dirLine line
        let base := l.addr / 128 * 128
        if here.all (fun b => (s.memOf l.sp).get (base + b.1) == b.2) then s
        else s.setMem l.sp ([0, 1, 2, 3].foldl (fun (mm : Memory) k => mm.setPoison (base / 32 + k) true) (s.memOf l.sp))
      else
        let s := s.takeDirty line here bad ret
        s.modHomes fun x => { x with hostReqs := x.hostReqs.map (fun r =>
          if r.id == req then { r with data := r.data ++ [BitVec.ofNat 8 h] } else r) }) s
  s.answered req

/-- A core answers a probe: its dirty data is taken into the home, and the host request it was sent for has one answer
less to wait for (R248, R250, R254). -/
def execProbeResponse (msg : Nat) (s : State) : Host.Outcome State Fault Refusal :=
  .next <| match s.msg? msg with
    | some m =>
      (match m.kind with
        | .probeResponse _ line _ req dirty bad ret =>
          let s := s.dropMsg msg
          if s.homes.hostReqs.any (fun r => r.id == req && r.kind == 3) then (s.rebuildAnswer req line dirty bad ret).poll
          else ((s.takeDirty line dirty bad ret).answered req).poll
        | _ => s)
    | none => s

/-- A back-invalidation snoop completes: the host's dirty data is taken and its half given up (R247, R254). -/
def execBackInvalidationComplete (msg : Nat) (dirty : Option (List Byte)) (s : State) :
    Host.Outcome State Fault Refusal :=
  .next <| match s.msg? msg with
    | some m =>
      (match m.kind with
        | .backInv line half req =>
          let d := match dirty with
            | some bs => (bs.take 64).zipIdx.map (fun (b, i) => (64 * half + i, b))
            | none => []
          let s := (s.dropMsg msg).clearHalf line half
          let s := if s.homes.hostReqs.any (fun r => r.id == req && r.kind == 3) then s.rebuildAnswer req line d [] 1
            else (s.takeDirty line d [] 1).answered req
          s.poll
        | _ => s)
    | none => s

/-- The host returns its copy of a half (R246). -/
def execHostCopyReturn (line half : Nat) (s : State) : Host.Outcome State Fault Refusal :=
  .next (s.clearHalf line (half % 2)).poll

/-- A snoop of the host for a half-line of host memory (R249): every L1 that the directory of the CXL port's die names
and that holds it writes it back first, a bad entry of it rebuilt before (R254); with `invalidate` each gives it up,
the homes give up their ownership of it, and the host may write it: its bytes are free values. (DESIGN CHOICE: log
46.) (DESIGN CHOICE: log 46.) -/
def execHostSnoop (addr : Nat) (kind : SnoopKind) (s : State) : Host.Outcome State Fault Refusal :=
  .next <|
    let line : Loc := ⟨.host, addr / 64 * 64⟩
    if s.homes.dir.any (fun d => d.line == line.dirKey && d.bad) then s.rebuildDir line.dirKey
    else if s.homes.hostReqs.any (fun r => (r.kind == 3 || r.kind == 4) && r.addr == line.dirKey) then s
    else
    let named := s.probeCores line.dirKey
    let s := named.foldl (fun s c => s.writebackWhere c (fun f => f.loc == line) (0, 0)) s
    if (List.range 64).any (fun c => s.writebackPending c (fun l _ => l == line)) then s
    else if kind = .invalidate then
      let s := named.foldl (fun s c =>
        (s.dropFrames c (fun f => f.loc == line)).noFill c (fun l => l.frameLine == line)) s
      let s := (List.range 8).foldl (fun s k =>
        let (v, s) := s.draw
        s.setNatAt (line.plus (8 * k)) 8 v.toNat) s
      (s.modHomes fun h => { h with owned := h.owned.filter (· != line.addr) }).poll
    else s.modHomes fun h => { h with owned := h.owned.filter (· != line.addr) }

end Sys2Proof.Machine
end

