-- ==== Sys2Proof/Machine/Owner.lean ====
section
/-! DEFINITION. The owner's side of the link: a remote request checked, deduplicated, performed, parked or refused (R384,
R385, R387, R389, R391, R395, R396, R408). -/

namespace Sys2Proof.Machine

/-- What serving a request comes to: a reply, no reply, a page that is absent, or a home that is not ready. -/
inductive Served where
  | reply (r : Reply) (s : State)
  | silent (s : State)
  | park (ctx addr : Nat) (s : State)
  | wait (s : State)

end Sys2Proof.Machine

namespace Sys2Proof

/-- The permission bit a kind needs (R385). (DEDUCED: log 87.) -/
def ReqKind.perm (k : ReqKind) (add : Bool) : Nat :=
  match k with
  | .load => 0
  | .write | .putfData => 1
  | .putfFlag => if add then 2 else 1
  | .mailbox | .slotRelease => 3
  | _ => 2

/-- The final answer of a reply (R386). -/
def Reply.isFinal : Reply → Bool
  | .ack _ _ | .duplicate _ _ | .stale | .denied _ => true
  | _ => false

/-- The region whose counter a request increases (R389). -/
def RemoteReq.countedRegion (r : RemoteReq) : Nat := if r.kind = .putfFlag && r.packets = 0 then r.flagReg else r.region

end Sys2Proof

namespace Sys2Proof.Machine

/-- A place a request names: its pages reached, or why not. -/
inductive Target where
  | ok (ctx va : Nat) (ls : List (Loc × Nat)) (s : State)
  | no (r : Served)

/-- The die whose Col handles an address of a region. -/
def State.regionDie (s : State) (region off : Nat) : Nat :=
  let d := s.linkSlot (0x10000 + region)
  s.homeDie (pfield d 16 1) (pfield d 0 8 + off)

/-- The die whose Col handles a request. (DEDUCED: log 92.) -/
def State.inboundDie (s : State) (r : RemoteReq) : Nat :=
  match r.kind with
  | .interrupt => s.homeDie r.tctx (s.ctx r.tctx).uipage
  | _ => s.regionDie r.region r.offset

/-- The region check of R385 with its page check, through the TLB of a die. -/
def State.target (s : State) (die src region off n perm : Nat) (need : Need) : Target :=
  match s.regionCheck src region off n perm with
  | .denied e => .no (.reply (.denied e) s)
  | .ok c va =>
    if n = 0 then .ok c va [] s
    else match s.reachAll die c va n need with
      | .stall s => .no (.wait s)
      | .fault f s => if f.cause = .protection then .no (.reply (.denied 6) s) else .no (.park c va s)
      | .ok ls s => if ls.all (fun p => s.ownsLine p.1) then .ok c va ls s
        else .no (.wait (ls.foldl (fun s p => if s.ownsLine p.1 then s else s.askLine p.1) s))

/-- The region check of a request with its page check (R384, R385): at its flag for a PUTF's last; an interrupt and a
notice have none. -/
def State.gate (s : State) (die : Nat) (r : RemoteReq) : Option Target :=
  let add := r.sub.getLsbD 0
  let need : Need := match r.kind with
    | .load => Need.read
    | .write | .putfData => Need.write
    | .putfFlag => if add then Need.both else Need.write
    | _ => Need.both
  match r.kind with
  | .interrupt | .retirement => none
  | k => some (s.target die r.key.rank r.area.1 r.area.2.1 r.area.2.2 (k.perm add) need)

/-- The core whose wave made a request of the device's own, while it is outstanding. -/
def State.askingCore (s : State) (r : RemoteReq) : Option Nat :=
  if r.key.rank == s.ownRank && r.key.incarn == s.incarn then
    (s.link.out.find? (·.req.key == r.key)).bind fun o => (s.wave? o.wave).map (·.core)
  else none

/-- An atomic of the device's own finds no copy of its line in the asking core: one there is written back and given up
first (R269). -/
def State.copyGone (s : State) (r : RemoteReq) (l : Loc) : Bool × State :=
  match s.askingCore r with
  | none => (true, s)
  | some c =>
    let s := s.surrenderLine c l.frameLine (0, 0)
    (!(s.writebackPending c fun k _ => k == l.frameLine), s)

/-- The completion counter an operation in a region increases (R389): none where nothing is counted. -/
inductive Counter where
  | none (s : State)
  | at (l : Loc) (mode : Nat) (s : State)
  | no (r : Served)

def State.counterOf (s : State) (die region : Nat) : Counter :=
  let d := s.linkSlot (0x10000 + region)
  let mode := pfield d 18 1
  let off := pfield d 28 4
  let c := pfield d 16 1
  if mode = 0 || 2 < mode then .none s
  else if pfield d 8 8 < off + 8 then
    if s.link.cntNoted.contains region then .none s
    else .none ((s.notice c 0x31 (pfield d 0 8 + off) 0).modLink fun l => { l with cntNoted := insertNat region l.cntNoted })
  else match s.reach die c (pfield d 0 8 + off) 8 Need.both with
    | .stall s => .no (.wait s)
    | .fault f s => if f.cause = .protection then .no (.reply (.denied 6) s) else .no (.park c (pfield d 0 8 + off) s)
    | .ok l s => .at l mode s

/-- Increase the counter for an operation that wrote n data bytes. -/
def State.countOp (s : State) (k : Counter) (n : Nat) : State :=
  match k with
  | .at l mode _ => s.bump l 8 (if mode = 1 then 1 else n)
  | _ => s

/-- Where the counter is, and its mode. -/
def Counter.place : Counter → Option (Loc × Nat)
  | .at l mode _ => some (l, mode)
  | _ => Option.none

def Counter.state (k : Counter) (s : State) : State :=
  match k with
  | .none s | .at _ _ s => s
  | .no _ => s

/-- The owner's entry of a key, and its making or changing. -/
def State.cached (s : State) (k : Key) : Option CacheEntry := s.link.cache.find? (·.key == k)

/-- The entry belongs to the duplicate filter, not to the result cache (R384). -/
def CacheEntry.filters (e : CacheEntry) : Bool := e.kind == .write || e.kind == .putfData

/-- The entries of a Col's result cache or duplicate filter beyond those it has on die: 65,536 and 262,144 (R20, R387). -/
def State.spilled (s : State) (col : Nat) (filters : Bool) : Nat :=
  (s.link.cache.filter fun e => e.col == col && e.filters == filters).length - (if filters then 262144 else 65536)

/-- The entries in the table of R387. -/
def State.tabled (s : State) : Nat := s.spilled 0 true + s.spilled 0 false + s.spilled 1 true + s.spilled 1 false

/-- A new entry would have to go to the table, and the table is full (R387). -/
def State.tableFull (s : State) (col : Nat) (filters : Bool) : Bool :=
  16777216 ≤ s.tabled &&
    (if filters then 262144 else 65536) ≤ (s.link.cache.filter fun e => e.col == col && e.filters == filters).length

/-- Keep an entry. Where one goes to the table, the table's bytes are the device's own (R387). (DESIGN CHOICE: log
108.) -/
def State.putCache (s : State) (e : CacheEntry) : State :=
  let t := s.modLink fun l => { l with cache := l.cache.filter (·.key != e.key) ++ [e] }
  if t.tabled = 0 then t
  else { t with mem := t.mem.veil s.dev.rctab (s.dev.rctab + 2 ^ 30) t.free, free := t.free + 1 }

def CacheEntry.done (r : RemoteReq) (col : Nat) (value : List Byte) (poison : Bool) : CacheEntry :=
  { key := r.key, kind := r.kind, value, poison, placed := [], packets := r.packets, isDone := true, flag := none, bytes := 0,
    col, at_ := (r.region, r.offset) }

/-- Finish a request whose result is kept. -/
def State.answer (s : State) (r : RemoteReq) (col : Nat) (value : List Byte) (poison : Bool) : Served :=
  .reply (.ack value poison) (s.putCache (CacheEntry.done r col value poison))

/-- The packets that a selective NACK names: not placed, though the four after each are (R383). -/
def CacheEntry.missing (e : CacheEntry) (packets : Nat) : List Nat :=
  (List.range packets).filter fun j => !(e.placed.contains j) && [1, 2, 3, 4].all (fun d => e.placed.contains (j + d))

/-! Pieces (R288). -/

/-- The pieces of a request that are done, with what each read. -/
def State.landed (s : State) (r : RemoteReq) : List (Nat × List PByte) :=
  (s.link.landing.find? (·.1 == r)).elim [] (·.2)
def State.setLanded (s : State) (r : RemoteReq) (l : List (Nat × List PByte)) : State :=
  s.modLink fun k => { k with landing := k.landing.filter (·.1 != r) ++ (if l.isEmpty then [] else [(r, l)]) }

/-- The pieces of a request still to perform, of n, and those chosen now; where there is only one piece it is that one. -/
def State.nextPieces (s : State) (r : RemoteReq) (n : Nat) : List Nat × State :=
  let todo := (List.range n).filter fun k => !(s.landed r).any (·.1 == k)
  if n ≤ 1 then (todo, s)
  else
    let (c, s) := s.chooseSome n
    (todo.filter c.contains, s)

/-- Read a request's bytes in pieces of `unit` bytes: all of them once every piece has been read. -/
def State.readPieceByPiece (s : State) (r : RemoteReq) (ls : List (Loc × Nat)) (n unit : Nat) : Option (List PByte) × State :=
  let count := (n + unit - 1) / unit
  let (now, s) := s.nextPieces r count
  let (got, s) := now.foldl (fun (acc : List (Nat × List PByte) × State) k =>
    match (spread ls)[unit * k]? with
    | some l =>
      let (bs, s) := acc.2.homeRead l unit
      (acc.1 ++ [(k, bs)], s)
    | none => acc) (s.landed r, s)
  if got.length < count then (none, s.setLanded r got)
  else (some ((List.range count).flatMap fun k => (lookupKey k got).getD []), s.setLanded r [])

/-- Write a request's bytes in pieces of `unit` bytes: true once every piece has been placed. What the whole write
does to its sectors is done with the last piece. -/
def State.writePieceByPiece (s : State) (r : RemoteReq) (ls : List (Loc × Nat)) (bs : List Byte) (unit : Nat) : Bool × State :=
  let count := (bs.length + unit - 1) / unit
  let (now, s) := s.nextPieces r count
  let at_ := spread ls
  let put (s : State) (i : Nat) : State := match at_[i]?, bs[i]? with
    | some l, some b => if s.inSlots l 1 then s else s.setMem l.sp ((s.memOf l.sp).set l.addr b)
    | _, _ => s
  let s := now.foldl (fun s k => (natsFrom (unit * k) unit).foldl put s) s
  let got := s.landed r ++ now.map fun k => (k, [])
  let again (s : State) (f : State → Loc × Nat → State) : State := ls.foldl (fun s p => (f s p).afterWrites p.1 p.2) s
  if got.length < count then (false, (again s fun s _ => s).setLanded r got)
  else (true, (again s fun s p => s.homeStore p.1 (pbytes false ((s.bytesAt p.1 p.2).map (·.byte)))).setLanded r [])

/-- The first n bytes of a list of places. -/
def placesFor : List (Loc × Nat) → Nat → List (Loc × Nat)
  | [], _ => []
  | p :: rest, n => if n = 0 then [] else (p.1, min n p.2) :: placesFor rest (n - p.2)

/-- The end of a mailbox message in its slot: LEN, the reserved word and SEQ (R393, R395). -/
def State.sealSlot (s : State) (slot : List (Loc × Nat)) (size seq n : Nat) : State :=
  let put (s : State) (off k v : Nat) : State := match (spread slot)[off]? with
    | some l => (s.homeStore l (pbytes false (leBytes k v))).afterWrite l
    | none => s
  put (put s (size - 16) 8 n) (size - 8) 8 (seq + 1)

/-- Where the whole of a PUTF has been placed: its flag is written, and counted (R303, R391). (DEDUCED: log 86.) -/
def State.finishPutf (s : State) (die : Nat) (r : RemoteReq) (e : CacheEntry) (k : Counter) : Served :=
  let add := r.sub.getLsbD 0
  match s.target die r.key.rank r.flagReg r.flagOff r.size (ReqKind.perm .putfFlag add) (if add then Need.both else Need.write) with
  | .no x => x
  | .ok _ _ ls s =>
    match ls.head? with
    | none => .silent s
    | some (l, _) =>
      let s := s.meetErrors l r.size
      let x := leNat (r.data.take r.size)
      let s := if add then s.setNatAt l r.size ((s.natAt l r.size + x) % 2 ^ (8 * r.size))
        else s.homeStore l (pbytes false (leBytes r.size x))
      let s := (s.afterWrite l).countOp k e.bytes
      .reply (.ack [] false) (s.putCache { e with isDone := true, flag := some r })

/-- A stream's entries are dropped (R387). -/
def State.dropStream (s : State) (rank incarn ctx tag lo hi : Nat) : State :=
  s.modLink fun l => { l with cache := l.cache.filter fun e =>
    let v := e.key.serial.toNat
    !(e.key.rank == rank && e.key.incarn == incarn && bitsOf v 63 58 == ctx && bitsOf v 57 46 == tag &&
      decide (lo ≤ bitsOf v 45 24 ∧ bitsOf v 45 24 ≤ hi)) }

/-- Perform a request that has passed the checks of R384, at the Col of a die (R385, R389). What is not single-copy
atomic is done in pieces of 8 bytes or of one, some of them each time (R288).
(DEDUCED: log 87; DESIGN CHOICE: log 143.) -/
def State.performRemote (s : State) (die : Nat) (r : RemoteReq) : Served :=
  let src := r.key.rank
  let counts := match r.kind with
    | .write | .atomic | .cas | .keyed | .putfData | .putfFlag | .mailbox => true
    | _ => false
  let goOn (k : Counter) (s : State) : Served :=
    match r.kind with
    | .load =>
      (match s.target die src r.region r.offset r.size 0 Need.read with
        | .no x => x
        | .ok _ _ ls s => match s.readPieceByPiece r ls r.size (min 8 r.size) with
          | (none, s) => .wait s
          | (some bs, s) => .reply (.ack (bs.map (·.byte)) (anyPoison bs)) s)
    | .write =>
      (match s.target die src r.region r.offset r.data.length 1 Need.write with
        | .no x => x
        | .ok _ _ ls s => match s.writePieceByPiece r ls r.data (min 8 r.data.length) with
          | (false, s) => .wait s
          | (true, s) => (s.countOp k r.data.length).answer r die [] false)
    | .atomic | .cas =>
      (match s.target die src r.region r.offset r.size 2 Need.both with
        | .no x => x
        | .ok c _ ls s =>
          match ls.head? with
          | none => .silent s
          | some (l, _) =>
            match s.copyGone r l with
            | (false, s) => .wait s
            | (true, s) =>
              let op : LaneOp := ⟨r.key.lane, l, r.size, pbytes false r.data, c⟩
              let before := s
              let (v, s) := s.applyAtomic (if r.kind = .cas then .cas else .atom (r.sub.toNat % 16)) op
              let wrote := r.kind = .atomic || v.bits.toNat = leNat (r.data.take r.size)
              (((s.enabledAt before l).afterWrite l).countOp k (if wrote then r.size else 0)).answer r die
                (leBytes r.size v.bits.toNat) v.poison)
    | .keyed =>
      (match s.target die src r.region r.offset 16 2 Need.both with
        | .no x => x
        | .ok c _ ls s =>
          match ls.head? with
          | none => .silent s
          | some (l, _) =>
            match s.deliverKey (r.sub.toNat % 16) ⟨r.key.lane, l, r.size, pbytes false r.data, c⟩ k.place with
            | none => .reply .busy s
            | some s => (s.afterWrite l).answer r die [] false)
    | .putfData =>
      let e := (s.cached r.key).getD
        { CacheEntry.done r die [] false with kind := .putfData, isDone := false }
      if e.placed.contains r.packet then
        match e.flag with
        | some f => if e.placed.length = r.packets && !e.isDone then s.finishPutf die f e k else .silent s
        | none => .silent s
      else
        (match s.target die src r.region r.offset r.data.length 1 Need.write with
          | .no x => x
          | .ok _ _ ls s => match s.writePieceByPiece r ls r.data 1 with
            | (false, s) => .wait s
            | (true, s) =>
            let before := e.missing r.packets
            let e := { e with placed := insertNat r.packet e.placed, bytes := e.bytes + r.data.length }
            let s := s.putCache e
            let missing := (e.missing r.packets).filter fun j => !(before.contains j)
            let on : Served := if missing.isEmpty then .silent s else .reply (.nack missing) s
            match e.flag with
            | some f => if e.placed.length = r.packets then s.finishPutf die f e k else on
            | none => on)
    | .putfFlag =>
      let e := (s.cached r.key).getD
        { CacheEntry.done r die [] false with kind := .putfData, isDone := false }
      if e.placed.length = r.packets then s.finishPutf die r e k
      else
        let s := s.putCache { e with flag := some r }
        if (e.missing r.packets).isEmpty then .silent s else .reply (.nack (e.missing r.packets)) s
    | .mailbox =>
      let slots := leNat ((r.data.drop 8).take 4)
      let size := leNat ((r.data.drop 12).take 4)
      (match s.target die src r.region r.offset 128 3 Need.both with
        | .no x => x
        | .ok c va ls s =>
          match ls.head? with
          | none => .silent s
          | some (hdr, _) =>
            let s := s.meetErrors hdr 128
            let mine := (s.cached r.key).map fun e => leNat e.value
            let same := s.natAt (hdr.plus 16) 8 == leNat (r.data.take 8) && s.natAt (hdr.plus 24) 4 == slots &&
              s.natAt (hdr.plus 28) 4 == size && slots != 0 && decide (16 ≤ size) && r.offset % 128 == 0
            if !same then .reply (.denied 5) s
            else
              let seq := mine.getD (s.natAt hdr 8)
              let off := 128 + size * (seq % slots)
              match s.regionCheck src r.region (r.offset + off) size 3 with
              | .denied e => .reply (.denied e) s
              | .ok _ _ =>
                match s.reachAll die c (va + off) size Need.write with
                | .stall s => .wait s
                | .fault f s => if f.cause = .protection then .reply (.denied 6) s else .park c (va + off) s
                | .ok slot s =>
                  let payload := r.data.drop 16
                  let e := CacheEntry.done r die (leBytes 8 seq) false
                  let s := if mine.isSome then s
                    else ((s.setNatAt hdr 8 (seq + 1)).afterWrite hdr).putCache { e with isDone := false }
                  match s.writePieceByPiece r (placesFor slot payload.length) payload 1 with
                  | (false, s) => .wait s
                  | (true, s) =>
                    ((s.sealSlot slot size seq payload.length).countOp k payload.length).answer r die (leBytes 8 (seq % slots)) false)
    | .slotRelease =>
      (match s.target die src r.region r.offset 64 3 Need.both with
        | .no x => x
        | .ok _ _ ls s =>
          match ls.head? with
          | none => .silent s
          | some (l, _) =>
            let v := max (s.natAt (l.plus 24) 8) (leNat (r.data.take 8))
            .reply (.ack [] false) ((s.setNatAt (l.plus 24) 8 v).afterWrite l))
    | .carryForward =>
      (match s.target die src r.region r.offset 64 2 Need.both with
        | .no x => x
        | .ok c va ls s =>
          match ls.head? with
          | none => .silent s
          | some (l, _) =>
            let s := s.carryArrives ⟨l, c, va⟩ (BitVec.ofNat 64 (leNat (r.data.take 8))) (leNat (r.data.drop 8) != 0)
            (s.afterWrite l).answer r die [] false)
    | .interrupt =>
      (match s.sendVector r.tctx r.vec (BitVec.ofNat 64 (leNat r.data)) (.rank src) with
        | .done s => s.answer r die [] false
        | .refused e s => .reply (.denied e) s
        | .absent s => .park r.tctx (s.ctx r.tctx).uipage s
        | .wait s => .wait s)
    | .retirement => .reply (.ack [] false) (s.dropStream src r.key.incarn r.tctx r.vec r.offset r.size)
  if counts then
    match s.counterOf die r.countedRegion with
    | .no x => x
    | k => goOn k (k.state s)
  else goOn (.none s) s

/-- A request at the owner's Col, in the order of R384. -/
def State.serve (s : State) (r : RemoteReq) : Served :=
  let seen := lookupKey r.key.rank s.link.newest
  if r.target ≠ s.ownRank || r.tIncarn ≠ s.incarn then .reply .stale s
  else if seen.any (fun n => decide (r.key.incarn < n)) then .reply .stale s
  else
    let newer := seen.any (fun n => decide (n < r.key.incarn))
    let s := s.modLink fun l => { l with
      newest := insertKey r.key.rank r.key.incarn l.newest
      cache := if newer then l.cache.filter (fun e => !(e.key.rank == r.key.rank && e.key.incarn < r.key.incarn)) else l.cache }
    let kept := match r.kind with
      | .load | .slotRelease | .retirement => false
      | _ => true
    let die := s.inboundDie r
    let go (s : State) : Served :=
      match (if kept then s.cached r.key else none) with
      | some e =>
        if e.isDone then (if r.kind = .putfData then .silent s else .reply (.duplicate e.value e.poison) s)
        else s.performRemote die r
      | none =>
        if kept && s.tableFull die (r.kind == .write || r.kind == .putfData || r.kind == .putfFlag) then .reply .busy s
        else s.performRemote die r
    match s.gate die r with
    | some (.no (.reply a s)) => .reply a s
    | some (.no (.wait s)) => .wait s
    | some (.no (.park _ _ s)) => go s
    | some (.ok _ _ _ s) => go s
    | _ => go s

/-- Sends waiting at a descriptor's home take their slots in the order of arrival, each an acquire of RELEASED at job
scope (R395, R396). (DEDUCED: log 89, 90.) -/
def State.takeSlots (s : State) : State :=
  s.link.sendWait.foldl (fun s m =>
    let d := m.send.desc
    let behind := match s.link.sendWait.find? (·.send.desc == d) with
      | some f => !(f.wave == m.wave && f.send.key == m.send.key)
      | none => true
    if behind then s
    else if !s.ownsLine d then s.askLine d
    else match s.homeNeeds d 64 none true with
      | some s => s
      | none =>
        let s := s.meetErrors d 64
        let drop (s : State) : State := s.modLink fun l => { l with
          sendWait := l.sendWait.filter (fun k => !(k.wave == m.wave && k.send.key == m.send.key)) }
        let refuse (s : State) (e : DWord) : State :=
          ((drop s).modWave m.wave fun w => w.modOp m.uid fun o => { o with
            refused := o.refused ++ [(m.send.lane, Cause.address.code, m.send.addr, e)] }).settleOp m.wave m.uid
        let slots := s.natAt (d.plus 8) 4
        let size := s.natAt (d.plus 12) 4
        let target := s.natAt d 8
        let rank := bitsOf target 61 45
        if size < m.send.n + 16 then refuse s 11
        else if target / 2 ^ 62 ≠ 1 then
          let (e, s) := s.draw
          refuse s e
        else if !s.rankOk rank then refuse s 3
        else
          let head := s.natAt (d.plus 16) 8
          if slots ≤ head - s.natAt (d.plus 24) 8 then s
          else
            let s := ((s.setNatAt (d.plus 16) 8 (head + 1)).afterWrite d)
            let r : RemoteReq := {
              kind := .mailbox, key := m.send.key, target := rank, tIncarn := s.rankIncarn rank, packet := 0, packets := 1,
              region := bitsOf target 44 40, offset := target % 2 ^ 40, sub := 0, size := m.data.length, order := .relaxed,
              scope := .job, data := leBytes 8 m.send.sender.toNat ++ leBytes 4 slots ++ leBytes 4 size ++ m.data
              flagReg := 0, flagOff := 0, tctx := 0, vec := 0, mask := 0#64 }
            match s.wave? m.wave with
            | some w =>
              let s := ((drop s).acquireInval w.core w.ctx).sendRemote w m.uid [r] (fun _ => []) (some d)
              s.modLink fun l => { l with out := l.out.map (fun o => if o.req.key == r.key then { o with addr := m.send.addr } else o) }
            | none => drop s) s

/-- A request must follow another of its source: a lower lane of its instruction on common bytes (R267, R270, R273),
for a pod peer an earlier one of its wave there (R301), or an earlier interrupt of its rank's Col (R305). -/
def State.follows (s : State) (r p : RemoteReq) : Bool :=
  let (a, b) := (r.key.serial.toNat, p.key.serial.toNat)
  p != r && p.key.rank == r.key.rank && p.key.incarn == r.key.incarn &&
    ((p.kind == .interrupt && r.kind == .interrupt) ||
      (p.meets r && ((a == b && decide (p.key.lane < r.key.lane)) ||
        (s.rankKind r.key.rank = 1 && a / 2 ^ 24 == b / 2 ^ 24 && decide (b < a)))))

/-- What a request must follow has not been performed: it is parked or was answered BUSY before it, or is performed in
part, or, of the device's own, outstanding with no final answer yet; of its interrupts those its Col sent before.
(DEDUCED: log 83.) -/
def State.heldUp (s : State) (r : RemoteReq) : Bool :=
  let before := s.link.parked.takeWhile (·.1 != r)
  let sent := s.link.out.takeWhile fun o => !(o.req == r || o.parts.contains r)
  let die := (s.link.out.find? (·.req == r)).map (·.die)
  before.any (fun p => s.follows r p.1) || s.link.landing.any (fun p => s.follows r p.1) ||
    (s.link.turned.takeWhile (· != r)).any (s.follows r) ||
    (r.key.rank == s.ownRank && r.key.incarn == s.incarn &&
      (if r.kind == .interrupt then sent else s.link.out).any (fun o => s.follows r o.req &&
        (o.req.kind != .interrupt || some o.die == die) &&
        !(s.link.replies.any (fun e => e.1 == o.req.key && e.2.isFinal))))

/-- A lane of a COLL that a higher lane of it on common bytes has passed at this owner: a requester sends no such
packet (R340). -/
def State.passed (s : State) (r : RemoteReq) : Bool :=
  r.kind == .atomic && s.link.cache.any fun e => e.kind == .atomic && e.key.rank == r.key.rank && e.key.incarn == r.key.incarn &&
    e.key.serial == r.key.serial && decide (r.key.lane < e.key.lane) && e.at_.1 == r.region &&
    decide (e.at_.2 < r.offset + r.size ∧ r.offset < e.at_.2 + r.size) && (s.cached r.key).isNone

/-- Answer a key: at once within the device, over a port that carries traffic to another rank (R380), a free choice,
where no injector takes it. -/
def State.say (s : State) (k : Key) (a : Reply) : State :=
  let put (s : State) : State := s.modLink fun l => { l with replies := l.replies ++ [(k, a)] }
  if k.rank = s.ownRank then put s
  else match (List.range 24).filter s.portUsable with
    | [] => s
    | ps =>
      let (n, s) := s.choose ps.length
      let kind := match a with
        | .nack _ => 2
        | _ => 1
      match s.crosses (ps.getD n 0) true kind k.rank (.reply k a) with
      | (true, s) => put s
      | (false, s) => s

/-- A request is answered BUSY: it comes again, and what must follow it waits for it (R301, R386). -/
def State.turnAway (s : State) (r : RemoteReq) : State :=
  (s.modLink fun l => { l with turned := if l.turned.contains r then l.turned else l.turned ++ [r] }).say r.key .busy

/-- Park a request at a Col, one of two where both have room; each parks 4,096 (R385). (DEDUCED: log 92.) -/
def State.park (s : State) (r : RemoteReq) (why : State → State) : State :=
  let full (d : Nat) : Bool := 4096 ≤ (s.link.parked.filter (·.2.2 == d)).length
  let at_ (s : State) (d : Nat) : State :=
    ((why s).modLink fun l => { l with
      parked := l.parked ++ [(r, s.clk, d)], turned := l.turned.filter (· != r) }).say r.key .parked
  let (d, s) := s.choose 2
  if !full d then at_ s d else s.turnAway r

/-- A request waits for its home: it is a reader of its lines there (R243), and one of another rank stands at the Col
until it can go on. (DEDUCED: log 156.) -/
def State.stand (s : State) (r : RemoteReq) : State :=
  let (g, off, n) := r.area
  let s := match (if n = 0 || r.kind == .interrupt then .denied 0 else s.regionCheck r.key.rank g off n 0) with
    | .ok c va => (pageSplit va n).foldl (fun s p => match s.translate none (s.inboundDie r) c p.1 Need.read with
        | .ok l s => s.awaits (.col r.key) l p.2 none
        | .stall s | .fault _ s => s) s
    | .denied _ => s
  if (r.key.rank == s.ownRank && r.key.incarn == s.incarn) || s.link.standing.contains r then s
  else s.modLink fun l => { l with standing := l.standing ++ [r] }

/-- A request of one key at the Col of its owner. -/
def State.arriveKey (s : State) (r : RemoteReq) : State :=
  let own := r.key.rank == s.ownRank && r.key.incarn == s.incarn
  let twice := s.link.parked.any (·.1 == r) || (own && s.link.replies.any (·.1 == r.key))
  if twice || s.passed r then s
  else if s.heldUp r then
    (if s.link.parked.any (fun p => s.follows r p.1) then s.park r id
      else if s.link.turned.any (s.follows r) then s.turnAway r else s)
  else
    let back (s : State) : State := s.modLink fun l => { l with
      turned := l.turned.filter (· != r), standing := l.standing.filter (· != r) }
    match s.serve r with
    | .reply .busy s => ((back s).turnAway r).poll
    | .reply a s => (((back s).say r.key a).hasRead (.col r.key)).takeSlots.poll
    | .silent s => ((back s).hasRead (.col r.key)).poll
    | .wait s => s.stand r
    | .park c a s => (back s).park r fun s => s.notice c 0x30 a 0

/-- The requests that stand at a Col go on where they can. -/
def State.pollStanding (s : State) : State := s.link.standing.foldl State.arriveKey s

/-- A request arrives at the Col of its owner (R384). One of the device's own is one it has outstanding; one of
another rank comes in over a port (R380). A COLL packet brings its lanes in ascending order (R340, R381). (DEDUCED:
log 92.) -/
def State.arrive (s : State) (r : RemoteReq) : State :=
  let own := r.key.rank == s.ownRank && r.key.incarn == s.incarn
  let (may, s) := if own then (s.link.out.any fun o => o.req == r || o.parts.contains r, s)
    else s.comesIn (match r.kind with
      | .retirement | .slotRelease => 3
      | _ => 0) r.key.rank
  if !may then s
  else if r.mask = 0#64 then s.arriveKey r
  else r.collLanes.foldl State.arriveKey s

/-- A parked request is tried again, in its turn (R385, R450). -/
def State.retryParked (s : State) (r : RemoteReq) : State :=
  let drop (s : State) : State := s.modLink fun l => { l with parked := l.parked.filter (·.1 != r) }
  if s.heldUp r then s
  else match s.serve r with
  | .reply .busy s => (drop s).turnAway r
  | .reply a s => (((drop s).say r.key a).hasRead (.col r.key)).takeSlots
  | .silent s => (drop s).hasRead (.col r.key)
  | .wait s => s
  | .park _ _ s => s

end Sys2Proof.Machine
end

