-- ==== Sys2Proof/Machine/Link.lean ====
section
/-! DEFINITION. The requester's side of the link: PUTF, PUTM, COLL, replies, timeouts, ports, injectors, retirement (R339,
R340, R380 to R398). -/

namespace Sys2Proof.Machine

/-! Sources of puts (R392). -/

/-- The pages of a lane's source, or why the lane fails, or a stall. -/
inductive SourceAt where
  | ok (ls : List (Loc × Nat)) (s : State)
  | bad (f : LaneFail) (s : State)
  | stall (s : State)

/-- A source must be a local virtual address, and every page readable. -/
def State.sourceAt (s : State) (w : Wave) (a n : Nat) : SourceAt :=
  match s.nameOf w a with
  | .local c va =>
    if n = 0 then .ok [] s
    else (pageSplit va n).foldl (fun r p => match r with
      | .ok ls s => (match s.laneAt w c p.1 (a + (p.1 - va)) Need.read with
        | .ok l s => .ok (ls ++ [(l, p.2)]) s
        | .bad f s => .bad f s
        | .stall s => .stall s)
      | r => r) (.ok [] s)
  | .placed _ => .bad ⟨.address, BitVec.ofNat 64 a, some 13⟩ s
  | .bad f => .bad f s

/-- The class and range checks of a source address that need no translation. -/
def State.sourceFail (s : State) (w : Wave) (a n : Nat) : Option LaneFail :=
  if a / 2 ^ 62 ≠ 0 then some ⟨.address, BitVec.ofNat 64 a, some 13⟩
  else match s.nameOf w a with
    | .bad f => some f
    | _ => if n ≠ 0 && (a + n - 1) / 2 ^ 57 ≠ 0 then some ⟨.address, BitVec.ofNat 64 a, some 2⟩ else none

/-- A lane's source, checked with the lane's other operands (R97, R392). -/
def Iss.sourceCheck (x : Iss) (src n : Nat → Nat) (i : Nat) (_ : Place) (s : State) : LaneLater :=
  match s.sourceAt x.w (src i) (n i) with
  | .ok _ s => .ok s
  | .bad f s => .bad f s
  | .stall s => .stall s

/-- The sources of lanes, in lane order. -/
inductive Sources where
  | ok (l : List (Nat × List (Loc × Nat))) (s : State)
  | fail (f : Fail) (s : State)
  | stall (s : State)

def Iss.sources (x : Iss) (s : State) (src n : Nat → Nat) : Sources :=
  let r := x.lanes.foldl (fun (r : Except State (State × List (Nat × List (Loc × Nat)) × List (Nat × LaneFail))) i =>
    match r with
    | .error s => .error s
    | .ok (s, ls, fs) => match s.sourceAt x.w (src i) (n i) with
      | .ok l s => .ok (s, ls ++ [(i, l)], fs)
      | .bad f s => .ok (s, ls, fs ++ [(i, f)])
      | .stall s => .error s) (.ok (s, [], []))
  match r with
  | .error s => .stall s
  | .ok (s, ls, fs) => match fs.head? with
    | none => .ok ls s
    | some (_, f) =>
      .fail ⟨f.cause, laneSet ((fs.filter (fun e => e.2.cause == f.cause)).map (·.1)), f.faddr, f.einfo⟩ s

/-- 64 bits of the group at C. -/
def Iss.groupPair (x : Iss) (m : Mem) (k i : Nat) : Val64 := Val.join (x.reg m.c k i) (x.reg m.c (k + 1) i)

/-! PUTF (R390 to R392). -/

def execPutf (m : Mem) (s : State) : Host.Outcome State Fault Refusal :=
  issueWave (.putf m) (fun x =>
    let src (i : Nat) : Val64 := x.groupPair m 0 i
    let n (i : Nat) : Val := x.reg m.c 2 i
    let f (i : Nat) : Val64 := x.groupPair m 4 i
    let v (i : Nat) : Val64 := if m.size = .b64 then x.groupPair m 6 i else (x.reg m.c 6 i).wide
    let size := m.size.bytes
    let extra (i : Nat) (k : Named) : Option LaneFail :=
      let bad (e : Nat) : Option LaneFail := some ⟨.address, (x.addr m i).bits, some (BitVec.ofNat 64 e)⟩
      let fa := (f i).bits.toNat
      if (src i).poison || (n i).poison || (f i).poison || (v i).poison then some ⟨.poison, (x.addr m i).bits, none⟩
      else match k with
        | .bad e => if (x.addr m i).bits.toNat / 2 ^ 62 = 1 then some e else bad 6
        | .placed (.far r _ _) =>
          if fa / 2 ^ 62 ≠ 1 then bad 6
          else if bitsOf fa 61 45 ≠ r then bad 12
          else if 65536 < (n i).bits.toNat then bad 11
          else if fa % size ≠ 0 then some ⟨.align, (f i).bits, none⟩
          else x.s.sourceFail x.w (src i).bits.toNat (n i).bits.toNat
        | _ => bad 6
    let from_ (i : Nat) : Nat := (src i).bits.toNat
    let len (i : Nat) : Nat := (n i).bits.toNat
    match x.locate x.lanes (x.addr m) 1 Need.read extra (later := x.sourceCheck from_ len) with
    | .stall s => .stall s
    | .fail s f => x.failWith s f
    | .ok s ps =>
      if !x.w.streamLeft then x.exhausted s
      else if x.full x.lanes.length then .stall s
      else match x.sources s from_ len with
        | .stall s => .stall s
        | .fail f s => x.failWith s f
        | .ok ls s =>
          let reqs := ps.filterMap fun p => match p.2 with
            | .far r g o =>
              let i := p.1
              some { x.request s .putfFlag i r g o size m.sub m.order m.scope (leBytes size (v i).bits.toNat) with
                packets := ((n i).bits.toNat + 4095) / 4096, flagReg := bitsOf (f i).bits.toNat 44 40,
                flagOff := (f i).bits.toNat % 2 ^ 40 }
            | _ => none
          let o : Op := { x.opOf .store with global := true, reqs := x.lanes.length }
          .ok (s.putWave ((x.takeSeq { x.w with ops := x.w.ops ++ [o] } true).hold x.no x.clk x.uid
            (.putf reqs (ls.map (·.2)) [])))) s

/-! PUTM (R393 to R396). -/

/-- The context of a local address of a wave, and its address there. -/
def State.localOf (s : State) (w : Wave) (a : Nat) : Nat × Nat :=
  match s.nameOf w a with
  | .local c va => (c, va)
  | _ => (w.ctx, a)

/-- The global address of local memory: that of the lowest region that covers it, 0 where none does (R377, R393).
(DEDUCED: log 88.) -/
def State.globalOf (s : State) (c va : Nat) : DWord :=
  let hit := (List.range 32).find? fun r =>
    let d := s.linkSlot (0x10000 + r)
    decide (pfield d 16 1 = c ∧ pfield d 0 8 ≤ va ∧ va < pfield d 0 8 + pfield d 8 8)
  match hit with
  | some r => globalAddr s.ownRank r (va - pfield (s.linkSlot (0x10000 + r)) 0 8)
  | none => 0

/-- A descriptor or header is a local address (R394). -/
def mailClass (a : DWord) (k : Named) : Option LaneFail :=
  if a.toNat / 2 ^ 62 ≠ 0 then some ⟨.address, a, some 6⟩
  else match k with
    | .bad f => some f
    | _ => none

/-- PUTM, a send. -/
def execPutm (m : Mem) (s : State) : Host.Outcome State Fault Refusal :=
  issueWave (.putm m) (fun x =>
    let src (i : Nat) : Val64 := x.groupPair m 0 i
    let n (i : Nat) : Val := x.reg m.c 2 i
    let a (i : Nat) : Val64 := x.addr m i
    let extra (i : Nat) (k : Named) : Option LaneFail :=
      if (src i).poison || (n i).poison then some ⟨.poison, (a i).bits, none⟩
      else match mailClass (a i).bits k with
        | some f => some f
        | none => if (a i).bits.toNat % 64 ≠ 0 then none
          else x.s.sourceFail x.w (src i).bits.toNat (min 4096 (n i).bits.toNat)
    let from_ (i : Nat) : Nat := (src i).bits.toNat
    let len (i : Nat) : Nat := min 4096 (n i).bits.toNat
    match x.locate x.lanes a 64 Need.both extra (later := x.sourceCheck from_ len) with
    | .stall s => .stall s
    | .fail s f => x.failWith s f
    | .ok s ps =>
      if !x.w.streamLeft then x.exhausted s
      else if x.full x.lanes.length then .stall s
      else match x.sources s from_ len with
        | .stall s => .stall s
        | .fail f s => x.failWith s f
        | .ok ls s =>
          let sends : List MailSend := (ps.zip ls).filterMap fun p => match p.1.2 with
            | .mem l =>
              let i := p.1.1
              let (c, va) := s.localOf x.w (a i).bits.toNat
              some { lane := i, desc := l, sender := s.globalOf c va, addr := (a i).bits, n := (n i).bits.toNat, src := p.2.2
                     key := ⟨s.ownRank, s.incarn, x.w.serial x.w.seq, i⟩ }
            | _ => none
          let o : Op := { x.opOf .store with global := true, reqs := x.lanes.length }
          .ok (s.putWave ((x.takeSeq { x.w with ops := x.w.ops ++ [o] } true).hold x.no x.clk x.uid (.mailSend sends [])))) s

/-- PUTM, a release of slots: every lane is checked, the lowest active one names the header and the slots (R394, R396). -/
def execPutmRel (m : Mem) (s : State) : Host.Outcome State Fault Refusal :=
  issueWave (.putmRel m) (fun x =>
    let i := x.first
    let k (i : Nat) : Val := x.reg m.c 0 i
    match x.locate x.lanes (x.addr m) 128 Need.both (fun i n => mailClass (x.addr m i).bits n) (fun i _ => (k i).poison) with
    | .ok s ((_, .mem l) :: _) =>
      if !x.w.streamLeft then x.exhausted s
      else if x.full x.lanes.length then .stall s
      else
        let o : Op := { x.opOf .store with global := true, reqs := x.lanes.length }
        .ok (s.putWave ((x.takeSeq { x.w with ops := x.w.ops ++ [o] } true).hold x.no x.clk x.uid
          (.mailRel l (k i).bits.toNat ⟨s.ownRank, s.incarn, x.w.serial x.w.seq, i⟩ m.scope (x.addr m i).bits)))
    | .fail s f => x.failWith s f
    | .ok s _ => .ok s
    | .stall s => .stall s) s

/-! COLL (R339, R340). -/

/-- Packets of a COLL: the lanes of one rank, 256 bytes of operand in each. (DEDUCED: log 85.) -/
def collPackets (ps : List (Nat × Place)) (size : Nat) : Nat :=
  let ranks := ps.filterMap fun p => match p.2 with
    | .far r _ _ => some r
    | _ => none
  (dedup ranks).foldl (fun n r => n + ((ranks.filter (· == r)).length * size + 255) / 256) 0

def execColl (m : Mem) (s : State) : Host.Outcome State Fault Refusal :=
  issueWave (.coll m) (fun x =>
    let fetch := m.sub.getLsbD 4
    let n := m.size.bytes
    let base (i : Nat) : Val64 := Val.join (x.reg m.a 0 i) (x.reg m.a 1 i)
    let o (i : Nat) : DWord := (base i).bits + (if m.len = .lit then m.off.signExtend 64 else 0#64)
    let rank (i : Nat) : Val := x.reg m.b 0 i
    let g (i : Nat) : Val64 :=
      ⟨BitVec.ofNat 64 (2 ^ 62 + (rank i).bits.toNat % 2 ^ 17 * 2 ^ 45 + (o i).toNat % 2 ^ 45), (base i).poison || (rank i).poison⟩
    let extra (i : Nat) (_ : Named) : Option LaneFail :=
      if 2 ^ 17 ≤ (rank i).bits.toNat ∨ 2 ^ 45 ≤ (o i).toNat then some ⟨.address, o i, some 2⟩ else none
    let data (i : Nat) : List PByte := x.dataOf m.c n i
    match x.locate x.lanes g n Need.both extra (fun i _ => anyPoison (data i)) with
    | .stall s => .stall s
    | .fail s f => x.failWith s f
    | .ok s ps =>
      let packets := collPackets ps n
      if !x.w.streamLeft then x.exhausted s
      else if x.full packets then .stall s
      else
        let p : Op := { x.opOf (if fetch then .value else .store) with
          acq := m.acq, sc := m.sc, global := true, reqs := packets }
        let (w, p) := if fetch then x.w.addDests x p m.d m.size.regs else (x.w, p)
        let w := ({ w with ops := w.ops ++ [p] } : Wave).hold x.no x.clk x.uid (.coll (x.laneReqs s .atomic m ps n data))
        .ok (s.putWave (x.takeSeq w true))) s

/-! The requester (R383, R386). -/

/-- Interrupt requests of a wave to a rank go one at a time (R408), in its order. -/
def State.nextInterrupts (s : State) : State :=
  s.link.intWait.foldl (fun s e =>
    let (wave, no, ipc, r) := e
    let busy := s.link.out.any (fun o => o.wave == wave && o.req.kind == .interrupt && o.req.target == r.target)
    if busy then s
    else
      let s := s.modLink fun l => { l with intWait := l.intWait.filter (·.2.2.2.key != r.key) }
      let v := r.key.serial.toNat
      let s := s.sendFrom (s.waveDie wave) wave 0 (bitsOf v 63 58) (bitsOf v 57 46) [r] (fun _ => []) none none
      s.modLink fun l => { l with out := l.out.map fun o => if o.req.key == r.key then { o with no, ipc, faddr := 0, addr := 0 } else o }) s

/-- A key is final: it leaves the requester, and packets of its COLL that waited for it are sent (R340). -/
def State.dropOut (s : State) (k : Key) : State :=
  let s := s.modLink fun l => { l with out := l.out.filter (·.req.key != k) }
  s.link.out.foldl (fun s o =>
    if o.req.key.serial == k.serial && o.req.kind == .atomic && !o.parts.isEmpty && o.ways.isEmpty then
      s.transmit o.req.key (fun _ => true) id
    else s) s

/-- A mailbox send returns its slot at the descriptor, where one that waits takes it (R395). -/
def State.returnSlot (s : State) (d : Loc) : State :=
  (((s.meetErrors d 64).setNatAt (d.plus 16) 8 (s.natAt (d.plus 16) 8 - 1)).afterWrite d).takeSlots

/-- A lane's request has failed with a cause (R383, R386): a mailbox send returns its slot where it was refused, a carry
forward poisons its cell, an interrupt is reported to the wave, a retirement counts as made. -/
def State.failOut (s : State) (o : Outstanding) (cause : Cause) (einfo : DWord) : State :=
  let s := s.dropOut o.req.key
  let faddr := if cause = .remoteDenied then o.addr else o.faddr
  let lane := match (s.wave? o.wave).bind (·.op? o.uid) with
    | some p => (match p.kind with
      | .tile _ _ => lowest p.lanes
      | _ => o.req.key.lane)
    | none => o.req.key.lane
  match o.req.kind with
  | .carryForward =>
    let s := match o.cell with
      | some c =>
        let code := if cause = Cause.remoteDenied then 4 + 256 * einfo.toNat else 5
        if s.carryState c = 3 then s.carryFails c code else s.notice c.ctx 0x20 c.va code
      | none => s
    s.settleOp o.wave o.uid
  | .interrupt =>
    (s.modWave o.wave fun w => { w with
      due := w.due ++ [⟨⟨cause, .reported, laneSet [lane], faddr, einfo⟩, 0#64, o.ipc, o.no, s.clk⟩] }).nextInterrupts
  | .retirement => s
  | _ =>
    let s : State := match o.desc, cause with
      | some d, Cause.remoteDenied => s.returnSlot d
      | _, _ => s
    let s := s.modWave o.wave fun w =>
      let w := w.modOp o.uid fun p => { p with refused := p.refused ++ [(lane, cause.code, faddr, einfo)] }
      let gone (l : Nat) : Bool := cause == .poison || l == lane
      let pushes := o.uid != 0 && w.held.any fun h => h.uid == o.uid && (match h.effect with
        | .push _ _ _ _ _ => true
        | _ => false)
      if !pushes then w
      else
        let w : Wave := { w with held := w.held.filter fun h => !(h.uid == o.uid && (match h.effect with
          | .push _ _ _ _ l => gone l
          | _ => false)) }
        w.modOp o.uid fun p => { p with pieces := p.pieces.map fun k => if gone k.lane then { k with done := true } else k }
    s.settleOp o.wave o.uid

/-- A lane's value arrives: the image of a push, a loaded or a fetched value (R266, R270, R327). -/
def State.landValue (s : State) (o : Outstanding) (value : List Byte) (poison : Bool) : State :=
  let lane := o.req.key.lane
  match (s.wave? o.wave).bind (fun w => (w.op? o.uid).map (w, ·)) with
  | none => s
  | some (w, p) =>
    match o.req.kind, p.kind with
    | .load, .load size signed =>
      let bs := pbytes poison value
      s.putWave ((List.range size.regs).foldl (fun w j => w.deliver p j lane (loadReg size signed bs j)) w)
    | .load, .tile _ _ | .load, .gather _ | .load, .acc _ _ =>
      s.putWave (w.landRow p ((lookupKey lane p.rows).getD 0) (pbytes poison value))
    | .load, _ =>
      if poison then
        let (e, s) := s.draw
        s.failOut o .poison e
      else
        s.putWave { w with held := w.held.map fun h => match h.effect with
          | .push c e q [] l =>
            if h.uid = o.uid ∧ l = lane then
              let img := pbytes false value
              { h with effect := .push c e q (if e = 1 then img else withParent img (s.parentFor w)) l }
            else h
          | _ => h }
    | .atomic, .value | .cas, .value => s.putWave (w.deliver64 p lane ⟨BitVec.ofNat 64 (leNat value), poison⟩)
    | _, _ => s

/-- A final reply of a key (R386). -/
def State.finalReply (s : State) (o : Outstanding) (value : List Byte) (poison duplicate : Bool) : State :=
  let s := s.landValue o value poison
  let s := match o.desc with
    | some d => if duplicate then s.returnSlot d else s
    | none => s
  let s := (s.dropOut o.req.key).takeSlots
  let s := if o.req.kind = .retirement then s.gangAck o.req.key.serial o.req.target else s
  s.nextInterrupts.settleOp o.wave o.uid

/-- Clocks in a microsecond (R8). -/
def usClocks : Nat := 2000

/-- The timeout of a key after its transmissions so far, and how many it may have (R376, R383). (DEDUCED: log 93.) -/
def State.rto (s : State) (tries : Nat) : Nat :=
  let base := if s.linkConfig 16 = 0 then 16 else s.linkConfig 16
  usClocks * base * min 16 (2 ^ (tries - 1))
def State.attempts (s : State) : Nat := if s.linkConfig 20 = 0 then 64 else s.linkConfig 20

/-- A reply arrives (R386): to a key that has been sent (R378), from another rank over a port (R380). One of the
device's own Col is the oldest it has sent for the key. (DEDUCED: log 84.) -/
def execRemoteReply (key : Key) (r : Reply) (s : State) : Host.Outcome State Fault Refusal :=
  .next <| match s.link.out.find? (·.req.key == key) with
    | none => s
    | some o =>
      let mine := o.req.target == s.ownRank
      let first := s.link.replies.findIdx? (·.1 == key)
      let sent := first.bind (s.link.replies[·]?)
      let (may, s) := s.mayLandAt o.wave o.uid
      if (mine && sent != some (key, r)) || (!mine && o.ways.isEmpty) || !may then s
      else match (if mine then (true, s) else s.comesIn (match r with
        | .nack _ => 2
        | _ => 1) o.req.target) with
      | (false, s) => s
      | (true, s) =>
        let s := match mine, first with
          | true, some i => s.modLink fun l => { l with replies := l.replies.eraseIdx i }
          | _, _ => s
        let mark (f : Outstanding → Outstanding) : State :=
          s.modLink fun l => { l with out := l.out.map fun p => if p.req.key == key then f p else p }
        match r with
        | .ack v p => (s.finalReply o v p false).poll
        | .duplicate v p => (s.finalReply o v p true).poll
        | .nack l => s.transmit key l.contains fun p => { p with sentAt := s.clk }
        | .parked => mark fun p => { p with parked := true }
        | .busy => mark fun p => { p with busyAt := some s.clk }
        | .stale => (s.failOut o .remoteIndeterminate key.serial).poll
        | .denied e => (s.failOut o Cause.remoteDenied (BitVec.ofNat 64 e)).poll

/-- A key's timeout passes: it is sent again, or is indeterminate (R383). A retirement notice's key carries its gang's
first wave and its rank as the lane; the Col keeps its transmissions from the first timeout on (R387). That is the Col
whose streams have reached the rank, and the report of a notice that has become indeterminate names its die. (DEDUCED:
log 82, 93, 144.) (DEDUCED: log 82, 93, 144.) -/
def execRetransmitTimeout (key : Key) (s : State) : Host.Outcome State Fault Refusal :=
  .next <| match s.link.out.find? (·.req.key == key) with
    | some o =>
      if o.parked || o.busyAt.isSome || s.clk < o.sentAt + s.rto o.tries then s
      else if o.tries < s.attempts then
        s.transmit key (fun _ => true) fun p => { p with tries := p.tries + 1, sentAt := s.clk }
      else if o.req.kind = .retirement then
        let s := (s.dropOut key).gangAck key.serial o.req.target
        (s.report 0x08 o.die o.die 0 o.req.target false).poll
      else (s.failOut o .remoteIndeterminate key.serial).poll
    | none =>
      let v := key.serial.toNat
      let (c, t) := (bitsOf v 63 58, bitsOf v 57 46)
      match s.launch? c t with
      | none => s
      | some l =>
        let (g, lo, hi) := l.gangOf key.serial
        if key.rank == s.ownRank && key.incarn == s.incarn && v % 2 ^ 46 == lo * 2 ^ 24 && (l.gangAt g).acks.contains key.lane then
          let r : RemoteReq := {
            kind := .retirement, key, target := key.lane, tIncarn := s.rankIncarn key.lane, packet := 0, packets := 1,
            region := 0, offset := lo, sub := 0, size := hi, order := .relaxed, scope := .job, data := [], flagReg := 0,
            flagOff := 0, tctx := c, vec := t, mask := 0#64 }
          let die := if (l.reached.getD 0 []).contains key.lane then 0 else 1
          let s := s.sendFrom die 0 0 64 0 [r] (fun _ => []) none none
          s.modLink fun l => { l with out := l.out.map fun p => if p.req.key == key then { p with tries := 2 } else p }
        else s

/-- After at least a microsecond the key is sent again (R386). -/
def execBusyResend (key : Key) (s : State) : Host.Outcome State Fault Refusal :=
  .next <| if s.link.out.any (fun o => o.req.key == key && o.busyAt.any fun c => decide (c + usClocks ≤ s.clk)) then
      s.transmit key (fun _ => true) fun o => { o with busyAt := none, sentAt := s.clk }
    else s

/-- A request arrives at the owner (R384). (DEDUCED: log 83.) -/
def execRemoteRequest (req : RemoteReq) (s : State) : Host.Outcome State Fault Refusal :=
  .next <| if s.dev.st = .ready then s.arrive req else s

/-! Retirement (R387). -/

/-- A retirement notice arrives at this owner: the streams' entries are dropped, and it is acknowledged. Of its own
streams the device sends one only for gangs that are Done or whose launch is final. -/
def execRetirementNotice (rank incarn ctx tag gridLo gridHi : Nat) (s : State) : Host.Outcome State Fault Refusal :=
  .next <|
    let mine := rank == s.ownRank && incarn == s.incarn
    let may := match s.launch? ctx tag with
      | none => true
      | some l => l.final || (List.range l.gangs.length).all fun g =>
          let lo := g * l.gang * l.waves
          gridHi < lo || lo + l.gang * l.waves ≤ gridLo || (l.gangAt g).st == .done
    match (if mine then (may, s) else s.comesIn 3 rank) with
    | (false, s) => s
    | (true, s) =>
      let s := s.dropStream rank incarn ctx tag gridLo gridHi
      let s := if mine then s
        else s.say ⟨rank, incarn, BitVec.ofNat 64 (ctx * 2 ^ 58 + tag * 2 ^ 46 + gridLo * 2 ^ 24), s.ownRank⟩ (.ack [] false)
      match (if mine then s.launch? ctx tag else none) with
      | none => s
      | some l => ((List.range l.gangs.length).foldl (fun s g =>
          let lo := g * l.gang * l.waves
          if gridLo ≤ lo && lo + l.gang * l.waves ≤ gridHi + 1 then
            s.gangAck (BitVec.ofNat 64 (ctx * 2 ^ 58 + tag * 2 ^ 46 + lo * 2 ^ 24)) rank
          else s) s).poll

/-- The last acknowledgement awaited of a launch's notices arrives: the streams of the gangs they were for are retired.
(DEDUCED: log 82.) -/
def execRetirementAck (ctx tag : Nat) (s : State) : Host.Outcome State Fault Refusal :=
  .next <| match s.launch? ctx tag with
    | none => s
    | some l =>
      if l.gangs.all (·.acks.isEmpty) then s
      else
        let s := l.gangs.zipIdx.foldl (fun s (x, g) =>
          if x.acks.contains s.ownRank then
            s.dropStream s.ownRank s.incarn ctx tag (g * l.gang * l.waves) ((g + 1) * l.gang * l.waves - 1)
          else s) s
        let s := s.modLink fun l => { l with out := l.out.filter fun o =>
          !(o.req.kind == .retirement && o.req.tctx == ctx && o.req.vec == tag) }
        (s.modLaunch ctx tag fun l => { l with gangs := l.gangs.map fun x =>
          if x.acks.isEmpty then x else { x with acks := [], retired := true } }).poll

/-! Ports and injectors (R380, R397, R398). -/

/-- The lanes a port has up in a state: every one, fewer, or none (R380). -/
def PortState.fits (st : PortState) (lanes : Nat) : Bool := match st with
  | .up => lanes == 4
  | .degraded => 1 ≤ lanes && lanes ≤ 3
  | .down => lanes == 0
  | .training => lanes ≤ 4
  | .disabled => false

/-- A port changes state or lane count (R380): ports 0 to 15 are the UALink stations, 16 to 23 the Ethernet ports.
Requests of the pod whose station has left Up and Degraded are sent again, in issue order, on the one the hash gives
now (R381). (DESIGN CHOICE: log 38.) -/
def execPortStateChange (port : Nat) (st : PortState) (lanes : Nat) (s : State) : Host.Outcome State Fault Refusal :=
  .next <| match s.link.ports[port]? with
    | none => s
    | some (old, n) =>
      if s.dev.st != .ready || !(s.dev.porten.testBit port) || !(PortState.fits st lanes) then s
      else
        let die := if port < 16 then port / 8 else (port - 16) / 4
        let s := s.modLink fun l => { l with ports := updAt port (fun _ => (st, lanes)) l.ports }
        let left := s.link.out.filter fun o => o.route.pod && o.ways.any (·.2.1 == port)
        let s := if s.portUsable port then s
          else left.foldl (fun s o => s.transmit o.req.key (fun _ => true) fun q => { q with sentAt := s.clk }) s
        if lanes ≠ n || (old == .down) != (st == .down) then
          s.report 0x07 die (4 * port) 0 ((Config.portCode st).toNat + 256 * lanes) false
        else s

/-- An injector's counter has reached zero, and its flit is acted on (R398). (DESIGN CHOICE: log 91.) -/
def execInjectorTrigger (lane : Nat) (s : State) : Host.Outcome State Fault Refusal := .next (s.triggerFlit lane)

/-- The flit that a lane has held back longest goes on. (DESIGN CHOICE: log 91.) -/
def execInjectorDelayEnd (lane : Nat) (s : State) : Host.Outcome State Fault Refusal :=
  .next <| match s.link.injectors[lane]? with
    | some j => (match j.late with
      | f :: rest => (s.setInjector lane { j with late := rest }).passFlit f
      | [] => s)
    | none => s

/-! Slot releases (R396). -/

/-- A slot-release notice arrives for a descriptor of this device, named by its global address: of another rank over a
port that carries traffic (R380). -/
def execSlotReleaseNotice (descriptor : DWord) (released : DWord) (s : State) : Host.Outcome State Fault Refusal :=
  .next <|
    let a := descriptor.toNat
    let near := s.link.out.any fun o => o.req.kind == .slotRelease && o.req.target == s.ownRank
    if a / 2 ^ 62 ≠ 1 || bitsOf a 61 45 ≠ s.ownRank || !(near || (List.range 24).any s.portUsable) then s
    else
      let d := s.linkSlot (0x10000 + bitsOf a 44 40)
      let src := if pfield d 24 4 = 0 then 0 else pfield d 20 4
      match s.target (s.regionDie (bitsOf a 44 40) (a % 2 ^ 40)) src (bitsOf a 44 40) (a % 2 ^ 40) 64 3 Need.both with
      | .ok _ _ ls s =>
        (match ls.head? with
          | some (l, _) =>
            let s := s.meetErrors l 64
            let v := max (s.natAt (l.plus 24) 8) released.toNat
            ((s.setNatAt (l.plus 24) 8 v).afterWrite l).takeSlots.poll
          | none => s)
      | .no (.wait s) => s
      | .no _ => s

end Sys2Proof.Machine
end

