-- ==== Sys2Proof/Machine/Hold.lean ====
section
/-! DEFINITION. The end of an outbound effect's hold (R235, R239, R240, R419): the oldest held effect of a wave goes out. -/

namespace Sys2Proof.Machine

/-! Releases. -/

/-- Replace a held effect of a wave. -/
def State.modHeld (s : State) (id : Nat) (h : Held) (f : Held → Held) : State :=
  s.modWave id fun w => { w with held := match w.held with
    | k :: r => if k == h then f k :: r else w.held
    | [] => [] }

/-- The release an effect needs before it goes out where its home keeps no record of it: the wave's earlier operations are
performed, the core's epoch is closed, and every Dirty frame of an epoch up to it is written back (R299, R391). True once
nothing is left. -/
def State.flushed (s : State) (w : Wave) (h : Held) (scope : Option Scope) : Bool × State :=
  if scope.isNone && h.epoch.isNone then (true, s)
  else
    let ready := s.releaseReady w h.no (scope.any Scope.nodeUp)
    if !(scope.any Scope.gangUp) && h.epoch.isNone then (ready, s)
    else if !ready then
      (false, if scope.any Scope.nodeUp then s.writebackWhere w.core (fun f => f.loc.sp == .host) (0, 0) else s)
    else
      let (e, s) := match h.epoch with
        | some e => (e, s)
        | none => s.closeEpoch w.core
      let s := s.modHeld w.id h fun k => { k with epoch := some e }
      let s := s.flushEpoch w.core e
      (!((s.core w.core).frames.any (fun f => f.isDirty && decide (f.epoch ≤ e))) &&
        !(s.writebackPending w.core (fun _ x => x ≤ e)), s)

/-- The release of an operation at the home of a line (R239): the epoch its record takes, once the wave's earlier
operations are performed and the core's dirty host halves are out (R249). -/
def State.recording (s : State) (w : Wave) (h : Held) (scope : Option Scope) : Bool × Option (Nat × Bool) × State :=
  if !(scope.any Scope.gangUp) && h.epoch.isNone then
    ((scope.isNone || s.releaseReady w h.no false), none, s)
  else
    let far := scope.any Scope.nodeUp
    let s := s.writebackWhere w.core (fun f => f.loc.sp == .host) (0, 0)
    let host := (s.core w.core).frames.any (fun f => f.loc.sp == .host && f.isDirty) ||
      s.writebackPending w.core (fun l _ => l.sp == .host)
    if !(s.releaseReady w h.no far) || host then (false, none, s)
    else
      let (e, s) := match h.epoch with
        | some e => (e, s)
        | none => s.closeEpoch w.core
      (true, some (e, true), s)

/-! Stores into the L1 (R234 to R237). -/

/-- A frame with a store's bytes written in one sector. -/
def Frame.write (f : Frame) (off : Nat) (bs : List PByte) (epoch : Nat) : Frame :=
  let first := off / 32
  let last := (off + bs.length - 1) / 32
  let data := f.data.zipIdx.map fun (b, i) =>
    if off ≤ i ∧ i < off + bs.length then (bs.getD (i - off) ⟨0#8, false⟩).byte else b
  let f : Frame := { f with
    data, epoch := if f.isDirty then f.epoch else epoch }
  (natsFrom first (last + 1 - first)).foldl (fun (f : Frame) k =>
    let bit : BitVec 4 := 1#4 <<< k
    let part := (bs.take (32 * (k + 1) - off)).drop (32 * k - off)
    let whole := part.length == 32
    let wr := if f.valid.getLsbD k then f.wr
      else (List.range part.length).foldl (fun (m : BitVec 128) j => m ||| (1#128 <<< (max off (32 * k) + j))) f.wr
    let full := !(f.valid.getLsbD k) && (List.range 32).all fun j => wr.getLsbD (32 * k + j)
    { f with
      dirty := f.dirty ||| bit
      poison := if anyPoison part then f.poison ||| bit else if whole then f.poison &&& ~~~bit else f.poison
      valid := if full then f.valid ||| bit else f.valid
      wr := if full then wr &&& ~~~(BitVec.ofNat 128 ((2 ^ 32 - 1) * 2 ^ (32 * k))) else wr }) f

/-- A store reaches the L1 of its core (R236): a frame of an older epoch is written back first. `ret` is the retention
its CACHE asks of the shared cache (R232). -/
def State.storeL1 (s : State) (core ret : Nat) (op : LaneOp) : State :=
  let line := op.loc.frameLine
  let now := (s.core core).epoch
  let s := match s.frame? core line with
    | some f => if f.isDirty && f.epoch < now then s.writebackWhere core (fun g => g.id == f.id) (0, 0) else s
    | none => s
  let s := s.dirFill core line.dirKey
  let s := s.needFrame core line op.ctx (s.restriction line)
  let one (f : Frame) : Frame := if f.loc == line then { f.write (op.loc.addr % 128) op.data now with ret } else f
  s.modCore core fun c => { c with frames := c.frames.map one }

/-- The L1 takes this store: local or host memory, with a hit or an allocating policy (R232); a line that holds a release
record is not allocated (R241). -/
def State.takesStore (s : State) (core : Nat) (cache : Cache) (op : LaneOp) : Bool :=
  let cached := op.loc.sp == .dev || op.loc.sp == .host
  let hit := (s.frame? core op.loc.frameLine).isSome
  let policy : Bool := match cache with
    | .bypass => false
    | .stream => hit
    | _ => hit || !(s.homes.records.any (·.line == op.loc.line))
  cached && policy

/-! One effect. -/

/-- What the end of a hold comes to: gone, or still to wait. -/
inductive Release where
  | gone (s : State)
  | wait (s : State)

/-- An older load of the wave is still to read these bytes (R268). -/
def Wave.readsFirst (w : Wave) (no : Nat) (l : Loc) (n : Nat) : Bool :=
  w.ops.any fun o => o.no < no && !o.done && o.pieces.any (fun p => !p.done && overlaps p.loc (max 1 p.size) l n)

/-- Send lanes' operations to their homes, each core copy surrendered first (R239, R269). -/
def State.sendHome (s : State) (w : Wave) (h : Held) (ops : List LaneOp) (f : LaneOp → MsgKind) : State :=
  ops.foldl (fun s op =>
    let own := op.loc.sp == .dev || op.loc.sp == .host
    let s := if own then s.surrenderLine w.core op.loc.frameLine (0, 0) else s
    s.send w.id h.uid h.no w.ctx (f op)) s

/-- Lines of an epoch older than the core's are out: what is performed at its home without a record goes after them (R232,
R293). -/
def State.olderOut (s : State) (core : Nat) : Bool × State :=
  let e := (s.core core).epoch
  if (s.core core).frames.any (fun f => f.isDirty && decide (f.epoch < e)) || s.writebackPending core (fun _ x => decide (x < e)) then
    (false, s.writebackWhere core (fun f => decide (f.epoch < e)) (0, 0))
  else (true, s)

/-- The epoch a held effect has been given. -/
def State.heldEpoch (s : State) (id : Nat) : Option (Nat × Bool) :=
  (((s.wave? id).bind (·.held.head?)).bind (·.epoch)).map (·, true)

/-- What keeps a store from its L1: the host's half of its line, the directory's room, an operation of the wave at the
home on its bytes (R247, R250, R268). -/
def State.l1Needs (s : State) (w : Wave) (no : Nat) (op : LaneOp) : Option State :=
  if s.homeOpPending w no op.loc op.data.length then some s
  else if s.hostHolds op.loc then some (s.recallHalf op.loc)
  else s.dirFull op.loc.frameLine.dirKey

/-- The operations of a held store still to be performed; none where all are. -/
def State.leaveStores (s : State) (w : Wave) (h : Held) : List LaneOp → Release
  | [] => .gone s
  | ops => .wait (s.modWave w.id fun w => { w with held := w.held.map fun k =>
      match k.effect with
      | .stores _ home rel => if k.no = h.no ∧ k.uid = h.uid then { k with effect := .stores ops home rel } else k
      | _ => k })

/-- Relaxed stores, one after another: into the L1, or to their homes after what is older (R232); the first that must wait
keeps the rest. -/
def State.performStores (s : State) (w : Wave) (h : Held) (cache : Cache) (home : Bool) : List LaneOp → Release
  | [] => .gone s
  | op :: rest =>
    if !home && s.takesStore w.core cache op && !(s.inSlots op.loc op.data.length) then
      match s.l1Needs w h.no op with
      | some s => s.leaveStores w h (op :: rest)
      | none => (s.storeL1 w.core cache.ret op).performStores w h cache home rest
    else
      match s.olderOut w.core with
      | (false, s) => s.leaveStores w h (op :: rest)
      | (true, s) => (s.sendHome w h [op] fun op => .write op w.core none).performStores w h cache home rest

/-- The stores of an instruction leave their hold (R239, R267). Those of one sector go together (R257). -/
def State.releaseStores (s : State) (w : Wave) (h : Held) (lanes : List LaneOp) (home : Bool) (rel : Option Scope) : Release :=
  let ops := coalesce lanes
  if ops.any (fun op => w.readsFirst h.no op.loc op.data.length) then .wait s
  else
    let recorded := ops.all (·.loc.sp == .dev)
    let strong := rel.any Scope.gangUp || h.epoch.isSome
    if strong && !recorded then
      match s.flushed w h rel with
      | (false, s) => .wait s
      | (true, s) =>
        let e := s.heldEpoch w.id
        .gone (s.sendHome w h ops fun op => .write op w.core (if op.loc.sp == .dev then e else none))
    else match s.recording w h rel with
      | (false, _, s) => .wait s
      | (true, none, s) => s.performStores w h ((w.op? h.uid).elim Cache.dflt (·.cache)) home ops
      | (true, some r, s) => .gone (s.sendHome w h ops fun op => .write op w.core (some r))

def State.releaseAtomics (s : State) (w : Wave) (h : Held) (kind : HomeOp) (ops : List LaneOp) (fetch : Bool)
    (rel : Option Scope) : Release :=
  let keyed : Option Nat := match kind with
    | .redk v => some v
    | _ => none
  if ops.any (fun op => w.readsFirst h.no op.loc (max 16 op.size)) then .wait s
  else if keyed.isSome || !(ops.all (·.loc.sp == .dev)) then
    match s.flushed w h rel with
    | (false, s) => .wait s
    | (true, s) => match s.olderOut w.core with
      | (false, s) => .wait s
      | (true, s) =>
        let e := if rel.any Scope.gangUp || h.epoch.isSome then s.heldEpoch w.id else none
        .gone (s.sendHome w h ops fun op => match keyed with
          | some v => .redk v op w.core none
          | none => .atomic kind op w.core fetch (if op.loc.sp == .dev then e else none))
  else match s.recording w h rel with
    | (false, _, s) => .wait s
    | (true, r, s) => match (if r.isNone then s.olderOut w.core else (true, s)) with
      | (false, s) => .wait s
      | (true, s) => .gone (s.sendHome w h ops fun op => .atomic kind op w.core fetch r)

/-- The strictest release among requests. -/
def reqsRelease (rs : List RemoteReq) : Option Scope :=
  (rs.find? (fun r => r.order.releases && r.scope.gangUp)).map (·.scope)

/-- Read the sources of a put at their homes, byte by byte: once all are ready some of the bytes that are left, each
time a free choice, which `keep` holds until none is left (R288, R391). None where some are.
 (DESIGN CHOICE: log 143.)-/
def State.readSources (s : State) (w : Wave) (h : Held) (ls : List (List (Loc × Nat))) (got : List (Nat × PByte))
    (keep : List (Nat × PByte) → Effect) : Option (List (List PByte)) × State :=
  let needs := ls.flatten.foldl (fun (r : Bool × State) p => match r.2.homeNeeds p.1 p.2 none true with
    | some s => (true, s)
    | none => r) (false, s)
  if needs.1 then (none, needs.2)
  else
    let s := needs.2
    let at_ := spread ls.flatten
    let todo := (List.range at_.length).filter fun k => !(got.any (·.1 == k))
    let (now, s) : List Nat × State := if at_.length ≤ 1 then (todo, s)
      else
        let (c, s) := s.chooseSome at_.length
        (todo.filter c.contains, s)
    let (got, s) := now.foldl (fun (r : List (Nat × PByte) × State) k => match at_[k]? with
      | some l =>
        let (bs, s) := r.2.homeRead l 1
        (r.1 ++ [(k, bs.headD ⟨0#8, false⟩)], s)
      | none => r) (got, s)
    if got.length < at_.length then
      (none, s.modWave w.id fun w => { w with held := match w.held with
        | k :: r => if k.no = h.no ∧ k.uid = h.uid then { k with effect := keep got } :: r else w.held
        | [] => [] })
    else
      let cut := ls.foldl (fun (r : List (List PByte) × Nat) l =>
        let n := (spread l).length
        (r.1 ++ [(natsFrom r.2 n).map fun k => (lookupKey k got).getD ⟨0#8, false⟩], r.2 + n)) ([], 0)
      (some cut.1, s)

/-- POISON of a put's source: nothing of the instruction is sent (R392, R428). -/
def State.putPoison (s : State) (w : Wave) (h : Held) (lanes : List Nat) : State :=
  match w.op? h.uid with
  | none => s
  | some o =>
    let s := s.reportOp w.id o ⟨.poison, laneSet lanes, 0, none⟩
    s.modWave w.id fun w => w.finishOp h.uid s.clk

/-- A PUTF's data requests (R391). -/
def putfParts (r : RemoteReq) (bs : List Byte) : List RemoteReq :=
  (List.range r.packets).map fun j =>
    let d := (bs.drop (4096 * j)).take 4096
    { r with kind := .putfData, packet := j, offset := r.offset + 4096 * j, data := d, size := d.length }

/-- An instruction in flight that an issue number follows is still to write a block scalar (R343). -/
def Wave.writesBlock (w : Wave) (no : Nat) : Bool :=
  w.ops.any fun o => o.no < no && !o.done && o.dests.any fun d => match d with
    | .block _ => true
    | _ => false

/-- The packets of a COLL's requests (R340, R381): those of one rank in ascending lane order, cut at 256 bytes of
operand. -/
def collGroups (rs : List RemoteReq) : List (List RemoteReq) :=
  (dedup (rs.map (·.target))).flatMap fun t =>
    let mine := rs.filter (·.target == t)
    let k := max 1 (256 / (mine.head?.elim 8 (·.size)))
    (List.range ((mine.length + k - 1) / k)).map fun j => (mine.drop (j * k)).take k

/-- One packet: its key's lane is 0, its mask names the lanes, its payload holds each lane's region and offset and
operand. (DEDUCED: log 85.) -/
def collPacket (rs : List RemoteReq) : List RemoteReq :=
  rs.head?.elim [] fun r => [{ r with
    key := { r.key with lane := 0 }, region := 0, offset := 0, mask := laneSet (rs.map (·.key.lane)),
    data := rs.flatMap fun q => leBytes 8 (q.region * 2 ^ 40 + q.offset) ++ q.data }]

/-- A write of a block scalar retires: of those of one clock the lower wid's counts (R147). -/
def State.retireScalar (s : State) (w : Wave) (i : Nat) (v : Val) : State :=
  let put (l : List (Nat × Nat × Val)) : List (Nat × Nat × Val) :=
    let at_ := l.filter (·.1 == s.clk)
    let old := (l.filter (·.1 != s.clk))
    let seen := old.filter (fun e => e.1 + 2 ≤ s.clk)
    let old := seen.drop (seen.length - 1) ++ old.filter (fun e => s.clk < e.1 + 2)
    old ++ at_.filter (fun e => w.wid < e.2.1) ++ [(s.clk, w.wid, v)] ++ at_.filter (fun e => e.2.1 < w.wid)
  s.modBlock w.block fun b => { b with bsc := updAt i put b.bsc }

/-- What keeps an event's record from being written: the events before it, and what its ring's lines need (R105, R241). -/
def State.recordNeeds (s : State) (c : Nat) : Option State := if s.dev.evWait.isEmpty then s.evNeeds c else some s

/-- Send a held effect out, once what it must follow is done. (DEDUCED: log 89.) -/
def State.releaseEffect (s : State) (w : Wave) (h : Held) : Release :=
  let after (scope : Option Scope) (k : State → State) : Release :=
    match s.flushed w h scope with
    | (false, s) => .wait s
    | (true, s) => match (if scope.isNone then s.olderOut w.core else (true, s)) with
      | (false, s) => .wait s
      | (true, s) => .gone (k s)
  match h.effect with
  | .stores ops home rel => s.releaseStores w h ops home rel
  | .homeOps kind ops fetch rel => s.releaseAtomics w h kind ops fetch rel
  | .remote rs => after (reqsRelease rs) fun s => s.sendRemote w h.uid rs (fun _ => []) none
  | .coll rs => after (reqsRelease rs) fun s =>
      let parts := (collGroups rs).flatMap fun g => g.map fun r => (r.key, collPacket g)
      s.sendRemote w h.uid rs (fun r => (parts.find? (·.1 == r.key)).elim [] (·.2)) none
  | .push c e q image lane =>
    let waits := w.held.any fun k => k.uid == h.uid && (match k.effect with
      | .push _ _ _ [] _ => true
      | _ => false)
    if waits then .wait s
    else after (some .device) fun s =>
      let s := s.modQueue c (e == 1) q fun x => { x with pushes := x.pushes ++ [⟨w.id, h.uid, lane, image⟩] }
      s.pushAll c (e == 1) q 4097
  | .interrupt c v payload lane ipc => after (some .device) fun s => s.send w.id 0 h.no w.ctx (.interrupt c v payload w.ctx lane ipc)
  | .interruptTo r ipc => after (some r.scope) fun s =>
      (s.modLink fun l => { l with intWait := l.intWait ++ [(w.id, h.no, ipc, r)] }).nextInterrupts
  | .expected _ _ => .gone s
  | .bsync => if w.writesBlock h.no then .wait s else after (some .block) fun s =>
      s.modBlock w.block fun b => { b with arrived := insertNat w.wid b.arrived, lastArrive := s.clk }
  | .bar r l rel =>
    if l.sp != .dev then after rel fun s => (s.surrenderLine w.core l.frameLine (0, 0)).send w.id h.uid h.no w.ctx (.barReq r l w.core none)
    else (match s.recording w h rel with
      | (false, _, s) => .wait s
      | (true, e, s) => match (if e.isNone then s.olderOut w.core else (true, s)) with
        | (false, s) => .wait s
        | (true, s) =>
          .gone ((s.surrenderLine w.core l.frameLine (0, 0)).send w.id h.uid h.no w.ctx (.barReq r l w.core e)))
  | .groupReq r l va =>
    let go (s : State) (e : Option Nat) : State :=
      (s.modWave w.id fun w => w.moveSlot r va).send w.id h.uid h.no w.ctx (.groupReq r l w.core e none)
    (match r with
      | .gred _ _ => (match s.recording w h (some .device) with
        | (false, _, s) => .wait s
        | (true, e, s) => .gone (go (s.surrenderLine w.core l.frameLine (0, 0)) (e.map (·.1))))
      | _ => .gone (go s none))
  | .uictl sub l => .gone ((s.surrenderLine w.core l.frameLine (0, 0)).send w.id h.uid h.no w.ctx (.uictl sub l))
  | .post c opc total serial rel => after rel fun s =>
      (s.surrenderLine w.core c.loc.frameLine (0, 0)).send w.id h.uid h.no w.ctx (.post c opc total serial)
  | .mailSend sends got =>
    (match s.flushed w h (some .device) with
      | (false, s) => .wait s
      | (true, s) => match s.readSources w h (sends.map (·.src)) got (.mailSend sends) with
        | (none, s) => .wait s
        | (some ds, s) =>
          let bad := (sends.zip ds).filter fun p => anyPoison p.2
          if !bad.isEmpty then .gone (s.putPoison w h (bad.map (·.1.lane)))
          else
            let ms : List MailWait := (sends.zip ds).map fun p => ⟨w.id, h.uid, p.1, p.2.map (·.byte)⟩
            .gone ((s.modLink fun l => { l with sendWait := l.sendWait ++ ms }).takeSlots))
  | .mailRel hdr k key scope addr =>
    (match s.flushed w h (some scope) with
      | (false, s) => .wait s
      | (true, s) =>
        let s := s.surrenderLine w.core hdr.frameLine (0, 0)
        if s.writebackPending w.core (fun l _ => l == hdr.frameLine) then .wait s
        else match s.homeNeeds hdr 32 (some w.core) true with
          | some s => .wait s
          | none =>
            let s := s.meetErrors hdr 32
            let rel := s.natAt (hdr.plus 8) 8
            let v := rel + min k (s.natAt hdr 8 - rel)
            let s := (s.setNatAt (hdr.plus 8) 8 v).afterWrite hdr
            let dest := s.natAt (hdr.plus 16) 8
            let rank := bitsOf dest 61 45
            if dest / 2 ^ 62 ≠ 1 || !s.rankOk rank then
              let (e, s) := if dest / 2 ^ 62 ≠ 1 then s.draw else (3#64, s)
              .gone (s.modWave w.id fun w => w.modOp h.uid fun o => { o with
                refused := o.refused ++ [(key.lane, Cause.address.code, BitVec.ofNat 64 dest, e)] })
            else
              let r : RemoteReq := {
                kind := .slotRelease, key, target := rank, tIncarn := s.rankIncarn rank, packet := 0, packets := 1,
                region := bitsOf dest 44 40, offset := dest % 2 ^ 40, sub := 1, size := 8, order := .release, scope
                data := leBytes 8 v, flagReg := 0, flagOff := 0, tctx := 0, vec := 0, mask := 0#64 }
              let s := s.sendRemote w h.uid [r] (fun _ => []) none
              .gone (s.modLink fun l => { l with out := l.out.map fun o => if o.req.key == key then { o with addr } else o }))
  | .putf reqs srcs got =>
    (match s.flushed w h (some ((reqsRelease reqs).getD .device)) with
      | (false, s) => .wait s
      | (true, s) => match s.readSources w h srcs got (.putf reqs srcs) with
        | (none, s) => .wait s
        | (some ds, s) =>
          let bad := (reqs.zip ds).filter fun p => anyPoison p.2
          if !bad.isEmpty then .gone (s.putPoison w h (bad.map (·.1.key.lane)))
          else
            let parts := (reqs.zip ds).map fun p => (p.1.key, putfParts p.1 (p.2.map (·.byte)))
            .gone (s.sendRemote w h.uid reqs (fun r => (parts.find? (·.1 == r.key)).elim [] (·.2)) none))
  | .bscalar i v => .gone (s.retireScalar w i v)
  | .record bytes host mode => match s.recordNeeds w.ctx with
    | some s => .wait s
    | none =>
    let r := EvRec.unpack bytes
    let die := State.dieOf w.core
    let mark (a : Nat) (s : State) : State := s.modDev fun d => { d with recTags := insertKey a (w.ctx, w.tag) d.recTags }
    if mode = 3 then
      let (a, s) := s.eventAt w.ctx die r
      .gone (mark a s)
    else
      let (a, s) := s.record w.ctx die r
      let s := mark a s
      let s := if host then s.sendMsix w.ctx else s
      let s := if mode = 1 then s.ctxFault w.ctx
        else if mode = 2 then s.modDev fun d => { d with eventQ := updAt die (· ++ [(a, w.ctx)]) d.eventQ }
        else s
      .gone s

/-- The hold of a wave's oldest effect ends, 128 clocks after its issue at the earliest (R419). -/
def execOutboundHoldEnd (wave : Nat) (s : State) : Host.Outcome State Fault Refusal :=
  .next <| match s.wave? wave with
    | none => s
    | some w => match w.held with
      | [] => s
      | h :: _ =>
        if s.clk < h.clk + 128 || w.unread h.uid then s
        else match s.releaseEffect w h with
          | .wait s => s
          | .gone s =>
            let s := s.modWave wave fun w => { w with held := w.held.drop 1 }
            let s := if w.onCore && w.st != .ended then s else s.leaveCores w.ctx
            (s.settleOp wave h.uid).poll

end Sys2Proof.Machine
end

