-- ==== Sys2Proof/Machine/Queue.lean ====
section
/-! DEFINITION. Queues: QPUSH and QWAIT (R326 to R329), queue commands (R309, R313, R314), engine entries, engines and
chunks (R315 to R325). -/

namespace Sys2Proof.Machine

/-! Reads at issue. -/

/-- What an instruction that reads memory as part of its issue finds. -/
inductive ReadNow where
  | ok (bs : List PByte) (s : State)
  | stall (s : State)

/-- Read bytes in program order (R268): the wave's own held bytes, its core's L1, otherwise the home. -/
def State.readNow (s : State) (w : Wave) (no : Nat) (l : Loc) (n : Nat) : ReadNow :=
  let first := l.addr / 32
  let secs : List Loc := (natsFrom first ((l.addr + n - 1) / 32 + 1 - first)).map fun k => ⟨l.sp, 32 * k⟩
  let r := secs.foldl (fun (r : Bool × List PByte × State) sec =>
    let (ok, bs, s) := r
    if !ok then r
    else if s.homeOpPending w no sec 32 || w.unreadOn no sec then (false, bs, s)
    else match s.l1Sector w.core sec with
      | some b => (true, bs ++ b, s)
      | none =>
        if s.writebackPending w.core (fun f _ => f == sec.frameLine) then (false, bs, s)
        else match s.homeNeeds sec 32 (some w.core) true with
          | some s => (false, bs, s)
          | none =>
            let (b, s) := s.homeRead sec 32
            (true, bs ++ s.overL1 w.core sec b, s)) (true, [], s)
  let (ok, bs, s) := r
  if !ok then .stall s
  else
    let mine (sec : Loc) (bs : List PByte) : List PByte :=
      (w.heldOn no sec).foldl (fun bs h => h.2.foldl (fun bs op => overSector bs sec op) bs) bs
    let bs := secs.zipIdx.flatMap fun e => mine e.1 ((bs.drop (32 * e.2)).take 32)
    .ok ((bs.drop (l.addr - 32 * first)).take n) s

/-! QPUSH (R327, R328). -/

/-- The queue a selector names: context, whether engine, number; the bits that must be zero are zero. -/
def selected (own sel : Nat) : Nat × Bool × Nat × Bool :=
  let c := bitsOf sel 21 16
  (if c = 0 then own else c, sel.testBit 15, sel % 1024, bitsOf sel 14 10 = 0 && sel / 2 ^ 22 = 0)

/-- The selector's own checks (R328). A Free context has no sets whose count a queue number could reach. -/
def State.selectorFail (s : State) (own sel : Nat) (faddr : DWord) : Option LaneFail :=
  let (c, eng, q, fit) := selected own sel
  let n := if eng then (s.ctx c).eqs.length else (s.ctx c).lqs.length
  if !fit then some ⟨.address, faddr, some 7⟩
  else if c ≠ own && (s.ctx c).st = .free then some ⟨.address, faddr, some 8⟩
  else if n ≤ q then some ⟨.address, faddr, some 7⟩
  else if c ≠ own && (!(s.ctx c).st.alive || !(s.queue c eng q).isOpen) then some ⟨.address, faddr, some 8⟩
  else none

/-- The images of the lanes at local and scratch places; those at ranks arrive later. (DEDUCED: log 72.) -/
def Iss.images (x : Iss) (s : State) (ps : List (Nat × Place)) : Option (List (Nat × List PByte)) × State :=
  ps.foldl (fun (r : Option (List (Nat × List PByte)) × State) p =>
    match r.1, p.2 with
    | none, _ => r
    | some l, .far _ _ _ => (some (l ++ [(p.1, [])]), r.2)
    | some l, .mem a => (match r.2.readNow x.w x.no a 128 with
      | .ok bs s => (some (l ++ [(p.1, bs)]), s)
      | .stall s => (none, s))) (some [], s)

/-- A lane's image must not be poisoned (R428); it is checked with the lane's other operands (R97). -/
def Iss.imageCheck (x : Iss) (m : Mem) (i : Nat) (p : Place) (s : State) : LaneLater :=
  match p with
  | .far _ _ _ => .ok s
  | .mem l => match s.readNow x.w x.no l 128 with
    | .ok bs s => if anyPoison bs then .bad ⟨.poison, (x.addr m i).bits, none⟩ s else .ok s
    | .stall s => .stall s

/-- QPUSH (R327). (DEDUCED: log 72.) -/
def execQpush (m : Mem) (s : State) : Host.Outcome State Fault Refusal :=
  issueWave (.qpush m) (fun x =>
    let sel (i : Nat) : Val := x.reg m.c 0 i
    let extra (i : Nat) (n : Named) : Option LaneFail :=
      match n with
      | .bad _ => none
      | _ => if (sel i).poison then some ⟨.poison, (x.addr m i).bits, none⟩
        else x.s.selectorFail x.w.ctx (sel i).bits.toNat (x.addr m i).bits
    match x.locate x.lanes (x.addr m) 128 Need.read extra (later := x.imageCheck m) with
    | .stall s => .stall s
    | .fail s f => x.failWith s f
    | .ok s ps =>
      x.limited s ps <|
        match x.images s ps with
        | (none, s) => .stall s
        | (some imgs, s) =>
          let o : Op := { x.opOf .value with
            global := Iss.isFar ps, reqs := x.requests ps
            pieces := imgs.map fun e => { lane := e.1, loc := ⟨.dev, 0⟩, size := 0, row := 0, fwd := [], done := false } }
          let (w, o) := if m.sub.getLsbD 0 then x.w.addDests x o m.d 2 else (x.w, o)
          let w := imgs.foldl (fun (w : Wave) e =>
            let (c, eng, q, _) := selected x.w.ctx (sel e.1).bits.toNat
            let img := if eng then e.2 else if e.2.isEmpty then [] else withParent e.2 (s.parentFor x.w)
            w.hold x.no x.clk x.uid (.push c (if eng then 1 else 0) q img e.1)) { w with ops := w.ops ++ [o] }
          let reqs := ps.filterMap (fun p => match p.2 with
            | .far r g f => some (x.request s .load p.1 r g f 128 m.sub m.order m.scope [])
            | _ => none)
          .ok ((s.putWave (x.takeSeq w (Iss.isFar ps))).sendRemote x.w x.uid reqs (fun _ => []) none)) s

/-- QWAIT (R329). -/
def execQwait (m : Mem) (s : State) : Host.Outcome State Fault Refusal :=
  issueWait (.qwait m) (fun x =>
    let i := x.first
    let extra (_ : Nat) (n : Named) : Option LaneFail := match n with
      | .local _ _ => none
      | .bad f => if (x.addr m i).bits.toNat < 2 ^ 62 then some f else some ⟨.address, (x.addr m i).bits, some 6⟩
      | .placed _ => some ⟨.address, (x.addr m i).bits, some 6⟩
    match x.locate [i] (x.addr m) 128 Need.read extra with
    | .stall s => .stall s
    | .fail s f => x.failWith s f
    | .ok s ps =>
      let p := Val.join (x.reg m.c 0 i) (x.reg m.c 1 i)
      if p.poison then .due s ⟨.poison, laneSet [i], (x.addr m i).bits, none⟩
      else match ps.head? with
        | some (_, .mem l) => .wait s (x.waitOf (.queue p.bits.toNat) l (x.addr m i).bits.toNat m.acq 0x71 0)
        | _ => .ok s) s

/-! Queue commands (R313, R314). -/

/-- A STOP takes effect: no chunk is in progress any more. The entry that has been taken stays, to be resumed (R310).
(DEDUCED: log 69.) -/
def State.stopQueue (s : State) (c : Nat) (eng : Bool) (q : Nat) : State :=
  let s := s.modQueue c eng q fun x => { x with
    entry := x.entry.map fun e => { e with resume := eng }, engine := none, stopping := false, loading := none }
  s.setQState c eng q .stopped

inductive QueueOp where
  | stop | start | skip | retry
  deriving DecidableEq, Repr

/-- The queue a header address names in a context. -/
def State.queueAt (s : State) (c va : Nat) : Option (Bool × Nat) :=
  let x := s.ctx c
  let hit (base n : Nat) : Option Nat :=
    if base ≤ va ∧ (va - base) % 128 = 0 ∧ (va - base) / 128 < n then some ((va - base) / 128) else none
  match hit x.eqbase x.eqs.length with
  | some q => some (true, q)
  | none => (hit x.lqbase x.lqs.length).map (false, ·)

/-- A queue command waits until the home of the header is ready, which it reads and where it writes CMDSTAT (R314).
(DEDUCED: log 70.) -/
def State.queueWaits (s : State) (c : Nat) (eng : Bool) (q : Nat) : Option State :=
  match s.reach (s.queue c eng q).die c (s.headerVa c eng q) 0x30 Need.both with
  | .stall s => some s
  | _ => none

/-- Perform a queue command: 0 OK or 1 BADSTATE, also written to the header. (DEDUCED: log 69, 70.) -/
def State.queueCommand (s : State) (c : Nat) (eng : Bool) (q : Nat) (op : QueueOp) : Nat × State :=
  let x := s.queue c eng q
  let busy := x.entry.any (fun e => !e.claims.isEmpty) || !x.left.isEmpty
  let result : Option State :=
    match op, x.st with
    | .stop, .stopped => none
    | .stop, _ =>
      some (if busy then s.modQueue c eng q fun x => { x with stopping := true, engine := none } else s.stopQueue c eng q)
    | .start, .stopped => if (s.ctx c).st.alive then some (s.loadQueue c eng q false) else none
    | .skip, .faulted =>
      (match s.readHeader c eng q with
        | .no _ => none
        | .ok _ head s =>
          let s := if eng then s else s.settlePushed c q head
          let s := s.modQueue c eng q fun x => { x with left := x.left ++ x.entry.toList.filter fun e => !e.claims.isEmpty }
          some (s.advanceHead c eng q head))
    | .retry, .faulted =>
      some ((s.modQueue c eng q fun x => { x with entry := x.entry.map fun e => { e with resume := true } }).setQState c eng q .running)
    | _, _ => none
  match result with
  | some s => (0, s.setCmdStat c eng q 0)
  | none => (1, s.setCmdStat c eng q 1)

/-- What a queue operation of the host must wait for: a SUSPEND of its context that is in progress, and the header's
home (R447). -/
def State.hostQueueNeeds (s : State) (c qaddr : Nat) : Option State :=
  if (s.ctx c).saving = some .suspend then some s
  else (s.queueAt c qaddr).bind fun (eng, q) => s.queueWaits c eng q

/-- A queue operation of the host performed (R314, R447): the result is also written to the context's entry. -/
def State.performQueue (s : State) (c qaddr : Nat) (op : Option QueueOp) : State :=
  if c = 0 || (s.ctx c).st = .free then s.setEntry c 0x5C 4 3
  else match op, s.queueAt c qaddr with
  | some op, some (eng, q) =>
    let (v, s) := s.queueCommand c eng q op
    (s.setEntry c 0x5C 4 v).poll
  | _, _ => s.setEntry c 0x5C 4 2

/-- The operation of a QCMD code (R314). -/
def QueueOp.ofCode : Nat → Option QueueOp
  | 1 => some .stop
  | 2 => some .start
  | 3 => some .skip
  | 4 => some .retry
  | _ => none

/-- CTXCMD reads 1: a command is in progress, or waits (R447). -/
def State.commandBusy (s : State) : Bool := s.dev.cmdOn.isSome || !s.dev.cmds.isEmpty

/-- A command waits for the earlier ones, and they complete in the order written (R447). (DEDUCED: log 104.) -/
def State.pushCommand (s : State) (k : HostCmd) : State := s.modDev fun d => { d with cmds := d.cmds ++ [k] }

/-- A write of QCMD by the host (R447): the header address is in QADDR. (DEDUCED: log 104.) -/
def State.hostQueue (s : State) (c code : Nat) : State :=
  if !s.dev.on || s.dev.st ≠ .ready || 64 ≤ c then s
  else if s.commandBusy then s.pushCommand ⟨true, code, c, 0, 0, s.dev.qaddr⟩
  else match s.hostQueueNeeds c s.dev.qaddr with
    | some t => t.pushCommand ⟨true, code, c, 0, 0, s.dev.qaddr⟩
    | none => s.performQueue c s.dev.qaddr (QueueOp.ofCode code)

/-- STOP (R313, R314). (DEDUCED: log 125.) -/
def execStop (ctx : Nat) (s : State) : Host.Outcome State Fault Refusal := .next (s.hostQueue ctx 1)

/-- START (R309, R313). -/
def execStart (ctx : Nat) (s : State) : Host.Outcome State Fault Refusal := .next (s.hostQueue ctx 2)

/-- SKIP (R313, R314). -/
def execSkip (ctx : Nat) (s : State) : Host.Outcome State Fault Refusal := .next (s.hostQueue ctx 3)

/-- RETRY (R313, R314). -/
def execRetry (ctx : Nat) (s : State) : Host.Outcome State Fault Refusal := .next (s.hostQueue ctx 4)

/-- A write on a queue's header line is seen (R311, R313). -/
def execHeaderWriteSeen (ctx : Nat) (engine : Bool) (queue : Nat) (s : State) : Host.Outcome State Fault Refusal :=
  .next <|
    let x := s.queue ctx engine queue
    let n := if engine then (s.ctx ctx).eqs.length else (s.ctx ctx).lqs.length
    if n ≤ queue || !x.valid then s
    else match x.st with
      | .empty | .running | .waiting | .blocked =>
        (match s.readHeader ctx engine queue with
          | .no s => s
          | .ok tail head s =>
            if 2 ^ x.log2 < tail - head then (s.notice ctx 0x12 (s.headerVa ctx engine queue) 0).faultQueue ctx engine queue
            else if x.st == .empty && decide (head < tail) then s.setQState ctx engine queue .running
            else s)
      | _ => s

/-! Engine entries (R315 to R319). -/

/-- The entry is bad (R316), its shape record apart. -/
def entryBad (p : List Byte) (eqs : Nat) : Bool :=
  let f := pfield p
  let ctrl := f 0 4
  let kind := ctrl % 16
  let trig := ctrl.testBit 4
  let move := kind = 1 || kind = 3
  let len := f 0x18 8
  let joins := (List.range 4).map (fun j => f (0x40 + 8 * j) 8)
  let joinBad := joins.any (fun v => bitsOf v 52 48 ≠ 0 || (v.testBit 53 && eqs ≤ bitsOf v 63 54)) ||
    !(joins.any (·.testBit 53))
  let zero (use : Bool) (off n : Nat) : Bool := use || f off n = 0
  kind = 0 || 7 ≤ kind || ctrl / 128 ≠ 0 ||
    !(zero (kind ≤ 3) 0x08 8) || !(zero move 0x10 8) || !(zero move 0x18 8) || !(zero (kind = 2 || kind = 5) 0x20 8) ||
    !(zero (kind = 6) 0x40 8 && zero (kind = 6) 0x48 8 && zero (kind = 6) 0x50 8 && zero (kind = 6) 0x58 8) ||
    (!trig && (f 0x30 8 ≠ 0 || f 0x38 8 ≠ 0)) ||
    (kind ≤ 3 && !isLocalVa (f 0x08 8)) || (kind = 1 && !isLocalVa (f 0x10 8)) || !isLocalVa (f 0x20 8) ||
    !isLocalVa (f 0x28 8) || !isLocalVa (f 0x30 8) || f 0x28 8 % 8 ≠ 0 || f 0x30 8 % 8 ≠ 0 || f 0x20 8 % 32 ≠ 0 ||
    (move && (len = 0 || 16 * 2 ^ 20 < len)) || (kind = 6 && joinBad)

/-- The shape a record describes: element size, row pitches, rows, columns, base. -/
structure Shape where
  base  : Nat
  rows  : Nat
  cols  : Nat
  spitch : Nat
  pitch : Nat
  elem  : Nat

def shapeOf (r : List Byte) : Shape :=
  let f := pfield r
  let e := 2 ^ f 24 1
  { base := f 0 8, rows := f 8 4, cols := f 12 4, spitch := f 16 4
    pitch := if f 20 4 = 0 then f 12 4 * e else f 20 4, elem := e }

/-- The record and the destination meet the limits of R318. (DEDUCED: log 53.) -/
def shapeFits (r : List Byte) (dst : Nat) : Bool :=
  let f := pfield r
  let s := shapeOf r
  f 24 1 ≤ 3 && isLocalVa s.base && s.base % s.elem = 0 && 1 ≤ s.rows && 1 ≤ s.cols && s.spitch % s.elem = 0 &&
    (f 20 4 = 0 || (s.cols * s.elem ≤ f 20 4 && f 20 4 % s.elem = 0)) && dst % s.elem = 0 &&
    (s.rows - 1) * s.pitch + s.cols * s.elem ≤ 16 * 2 ^ 20

/-- How many destination bytes the entry spans, and how many it writes. -/
def Entry.span (e : Entry) : Nat :=
  match pfield e.image 0 4 % 16 with
  | 1 | 3 => pfield e.image 0x18 8
  | 2 => let s := shapeOf e.shape
    (s.rows - 1) * s.pitch + s.cols * s.elem
  | _ => 0
def Entry.written (e : Entry) : Nat :=
  match pfield e.image 0 4 % 16 with
  | 1 | 3 => pfield e.image 0x18 8
  | 2 => let s := shapeOf e.shape
    s.rows * s.cols * s.elem
  | _ => 0

/-- The entry's chunks (R324), those still to be performed, and those no engine has claimed. -/
def Entry.chunks (e : Entry) : Nat := (e.span + 65535) / 65536
def Entry.left (e : Entry) : List Nat := (List.range e.chunks).filter (fun j => !(e.prog.contains j))
def Entry.unclaimed (e : Entry) : List Nat := e.left.filter (fun j => !(e.claims.any (·.1 == j)))

def State.modEntry (s : State) (c q : Nat) (f : Entry → Entry) : State :=
  s.modQueue c true q fun x => { x with entry := x.entry.map f }

/-- The device fails an entry: its STATUS, then Faulted. -/
def State.failEntry (s : State) (c q : Nat) (e : Entry) (status : Nat) : State :=
  (s.setStatus c q e status).faultQueue c true q

/-- The head entry completes (R322), once its header, its slot and its counter can be written. -/
def State.completeEntry (s : State) (c q : Nat) (e : Entry) : State :=
  let x := s.queue c true q
  let ctrl := pfield e.image 0 4
  let done := pfield e.image 0x28 8
  let va := x.slotVa e.seq
  let late (s : State) : State := s.modEntry c q fun e => { e with finish := true }
  let finish (s : State) : State :=
    let s := s.setStatus c q e 3
    let s := s.advanceHead c true q e.seq
    let s := if ctrl.testBit 5 then s.sendMsix c else s
    s.poll
  match s.ringReady c true q (some e.seq) with
  | .wait s => s
  | .no s => late s
  | .yes s =>
  if done = 0 then finish s
  else
    match s.reach x.die c done (if ctrl.testBit 6 then 32 else 8) Need.both with
    | .stall s => s
    | .fault f s => (late s).entryPageFault c q e f
    | .ok l s =>
      if !s.ownsLine l then s.askLine l
      else if ctrl.testBit 6 then
        let s := s.meetErrors l 16
        match s.feedCell l e.written with
        | some s => finish (s.afterWrite l)
        | none =>
          (late (s.queueEvent c x.die .countOverflow va)).failEntry c q e 5
      else finish (s.bump l 8 1)

/-- The record of a COPYSHAPE at its start (R319): the queue's copy, or the 32 bytes at REC. -/
inductive RecordRead where
  | ok (r : List Byte) (s : State)
  | bad (s : State)
  | no (s : State)

/-- The device writes a queue's RCACHE area, in a form of its own (R308, R319). False where its page is not usable.
(DESIGN CHOICE: log 108.) -/
def State.writeRcache (s : State) (c q : Nat) (e : Entry) : Bool × State :=
  let x := s.queue c true q
  match s.reach x.die c x.rcache 1024 Need.both with
  | .stall s => (false, s)
  | .fault f s => (false, s.entryPageFault c q e f)
  | .ok l s =>
    let s := s.setMem l.sp ((s.memOf l.sp).veil l.addr (l.addr + 1024) s.free)
    (true, { s with free := s.free + 1 })

def State.takeRecord (s : State) (c q : Nat) (e : Entry) : RecordRead :=
  let x := s.queue c true q
  let rec_ := pfield e.image 0x20 8
  let dst := pfield e.image 0x08 8
  match lookupKey rec_ x.cache with
  | some r => if shapeFits r dst then .ok r s else .bad s
  | none =>
    match s.reach x.die c rec_ 32 Need.read with
    | .stall s => .no s
    | .fault f s => .no (s.entryPageFault c q e f)
    | .ok l s =>
      let (bs, s) := s.homeRead l 32
      let r := bs.map (·.byte)
      if !(shapeFits r 0) then .bad s
      else match s.writeRcache c q e with
      | (false, s) => .no s
      | (true, s) =>
        let keep := if x.cache.length < 16 then x.cache else x.cache.drop 1
        let s := s.modQueue c true q fun x => { x with cache := keep ++ [(rec_, r)] }
        if shapeFits r dst then .ok r s else .bad s

/-- The entry starts once its trigger and join hold (R320, R321) and no chunk of an entry that was skipped is left
(R298); without chunks it completes at once. -/
def State.startEntry (s : State) (c q : Nat) (e : Entry) : State :=
  let (ok, s) := s.entryHolds c q e
  if !(s.queue c true q).left.isEmpty then s
  else if (s.queue c true q).st != .running then s
  else if !ok then s.setQState c true q .waiting
  else
    let go (s : State) (shape : List Byte) : State :=
      let (ok, s) := if pfield e.image 0 4 % 16 = 5 then s.writeRcache c q e else (true, s)
      if !ok then s else
      let e : Entry := { e with started := true, shape }
      let s := s.modEntry c q fun _ => e
      let s := s.setStatus c q e 1
      let s := if pfield e.image 0 4 % 16 = 5 then
          let r := pfield e.image 0x20 8
          s.modQueue c true q fun x => { x with cache := if r = 0 then [] else x.cache.filter (·.1 != r) }
        else s
      if e.left.isEmpty then s.completeEntry c q e else s
    if pfield e.image 0 4 % 16 = 2 then
      match s.takeRecord c q e with
      | .ok r s => go s r
      | .bad s => (s.notice c 0x11 ((s.queue c true q).slotVa e.seq) 0).failEntry c q e 4
      | .no s => s
    else go s []

/-- An entry goes on from the STATUS and PROGRESS that stand in its slot, the rest of the slot as it was read; one
that was bad is taken again (R310, R314, R315). -/
def State.resumeEntry (s : State) (c q : Nat) (e : Entry) : State :=
  let x := s.queue c true q
  match s.reach x.die c (x.slotVa e.seq) 128 Need.both with
  | .stall s => s
  | .fault f s => s.queuePageFault c true q (s.headerVa c true q) f
  | .ok l s =>
    let s := s.meetErrors l 128
    let status := s.natAt (l.plus 4) 4
    let bits := s.natAt (l.plus 0x60) 32
    if status = 4 then s.modQueue c true q fun x => { x with entry := none }
    else
      let s := s.modEntry c q fun e => { e with
        resume := false, started := status != 0, prog := (List.range 256).filter fun j => bits.testBit j }
      if status = 0 then s else s.setStatus c q e 1

/-- The head entry of an engine queue is taken, checked and started (R310, R316, R322). -/
def execEntryTake (ctx : Nat) (queue : Nat) (s : State) : Host.Outcome State Fault Refusal :=
  .next <|
    let x := s.queue ctx true queue
    if (s.ctx ctx).eqs.length ≤ queue || x.st != .running || !x.valid || x.stopping then s
    else match x.entry with
      | some e => match s.ringReady ctx true queue (some e.seq) with
        | .wait s | .no s => s
        | .yes s =>
        if e.resume then s.resumeEntry ctx queue e
        else if e.finish || (e.started && e.left.isEmpty) then (if e.claims.isEmpty then s.completeEntry ctx queue e else s)
        else if e.started then s
        else s.startEntry ctx queue e
      | none =>
        match s.readHeader ctx true queue with
        | .no s => s
        | .ok tail head s =>
          if tail ≤ head then s.setQState ctx true queue .empty
          else if 2 ^ x.log2 < tail - head then
            (s.notice ctx 0x12 (s.headerVa ctx true queue) 0).faultQueue ctx true queue
          else match s.reach x.die ctx (x.slotVa head) 128 Need.both with
            | .stall s => s
            | .fault f s => s.queuePageFault ctx true queue (s.headerVa ctx true queue) f
            | .ok l s =>
              let (bs, s) := s.homeRead l 128
              let img := bs.map (·.byte)
              let bits := pfield img 0x60 32
              let e : Entry := {
                seq := head, image := img, started := false, shape := [], claims := []
                prog := (List.range 256).filter (fun j => bits.testBit j), finish := false, olds := [], resume := false, parts := [] }
              let s := s.modQueue ctx true queue fun x => { x with entry := some e }
              if entryBad img (s.ctx ctx).eqs.length then
                (s.notice ctx 0x11 (x.slotVa head) 0).failEntry ctx queue e 4
              else s.startEntry ctx queue e

/-! Engines (R323, R324). -/

/-- The engine claims a chunk, and goes on where another had to leave it. -/
def State.claim (s : State) (engine c q j : Nat) : State :=
  let moved := ((s.queue c true q).entry.bind fun e => lookupKey j e.parts).getD []
  let s := s.modEntry c q fun e => { e with claims := e.claims ++ [(j, engine)], parts := eraseKey j e.parts }
  { s with engines := updAt engine (fun _ => ⟨some (c, q, j), moved⟩) s.engines }

/-- The engine queues of a die with a started head entry that is Running, by context and queue. -/
def State.performing (s : State) (die : Nat) : List (Nat × Nat × Queue × Entry) :=
  s.ctxs.zipIdx.flatMap fun (x, c) => x.eqs.zipIdx.filterMap fun (y, q) =>
    match y.entry with
    | some e => if y.st == .running && y.die == die && !y.stopping && e.started && !e.resume && !e.finish && !e.left.isEmpty &&
        x.st != .draining && x.st != .destroyed && x.st != .free then some (c, q, y, e) else none
    | none => none

/-- The engine is free: it works on nothing, and is bound to no queue's entry (R323). -/
def State.engineFree (s : State) (engine : Nat) : Bool :=
  engine < 128 && (s.engines.getD engine .idle).work.isNone && !(s.ctxs.any fun x => x.eqs.any fun y => y.engine == some engine)

/-- A free engine binds to the head entry of an unbound Running queue and claims its first chunk (R323). -/
def execEngineBind (engine : Nat) (s : State) : Host.Outcome State Fault Refusal :=
  .next <| s.deciding fun s =>
    let die := engine / 64
    let can := (s.performing die).filter (fun e => e.2.2.1.engine.isNone && !e.2.2.2.unclaimed.isEmpty)
    let top := maxNat (can.map fun e => s.prio e.1)
    let can := can.filter (fun e => s.prio e.1 == top)
    let last := s.sched.lastQueue.getD die (0, 0)
    let after := can.filter (fun e => last.1 < e.1 || (last.1 == e.1 && last.2 < e.2.1))
    if !s.engineFree engine then s
    else match (after ++ can).head? with
      | none => s
      | some (c, q, _, e) =>
        let s := s.modQueue c true q fun x => { x with engine := some engine }
        let s := s.modSched fun k => { k with lastQueue := updAt die (fun _ => (c, q)) k.lastQueue }
        s.claim engine c q (e.unclaimed.headD 0)

/-- A free engine steals the highest unclaimed chunk of the entry with most (R324). -/
def execEngineSteal (engine : Nat) (s : State) : Host.Outcome State Fault Refusal :=
  .next <|
    let die := engine / 64
    let all := (s.performing die).filter (fun e => !e.2.2.2.unclaimed.isEmpty)
    if !s.engineFree engine || all.any (fun e => e.2.2.1.engine.isNone) then s
    else
      let best := all.foldl (fun (b : Option (Nat × Nat × Queue × Entry)) e => match b with
        | none => some e
        | some a => if a.2.2.2.unclaimed.length < e.2.2.2.unclaimed.length then some e else b) none
      match best with
      | none => s
      | some (c, q, _, e) => s.claim engine c q (e.unclaimed.getLastD 0)

/-! Chunks (R317, R318, R324, R325). -/

/-- The byte runs of a chunk: destination address, source address, length. A FILL's source is its offset. -/
def Entry.runs (e : Entry) (j : Nat) : List (Nat × Nat × Nat) :=
  let dst := pfield e.image 0x08 8
  match pfield e.image 0 4 % 16 with
  | 1 => [(dst + 65536 * j, pfield e.image 0x10 8 + 65536 * j, min 65536 (e.span - 65536 * j))]
  | 3 => [(dst + 65536 * j, 65536 * j, min 65536 (e.span - 65536 * j))]
  | 2 =>
    let s := shapeOf e.shape
    let lo := 65536 * j
    let r0 := lo / s.pitch
    let rows := (natsFrom r0 (65536 / s.pitch + 2)).filter (· < s.rows)
    rows.filterMap fun r =>
      let a := max lo (r * s.pitch)
      let b := min (lo + 65536) (r * s.pitch + s.cols * s.elem)
      if a < b then some (dst + a, s.base + r * s.spitch + (a - r * s.pitch), b - a) else none
  | _ => []

/-- Reach the destinations and sources of runs: where each byte run lies. -/
def State.reachRuns (s : State) (die c : Nat) (fill : Bool) : List (Nat × Nat × Nat) →
    Except (State × Option PageFault) (List (List (Loc × Nat) × List (Loc × Nat) × Nat) × State)
  | [] => .ok ([], s)
  | (d, a, n) :: rest =>
    match s.reachAll die c d n Need.write with
    | .stall s => .error (s, none)
    | .fault f s => .error (s, some f)
    | .ok ds s =>
      match (if fill then Reached.ok [] s else s.reachAll die c a n Need.read) with
      | .stall s => .error (s, none)
      | .fault f s => .error (s, some f)
      | .ok ss s =>
        match s.reachRuns die c fill rest with
        | .error e => .error e
        | .ok (l, s) => .ok ((ds, ss, a) :: l, s)

/-- The lines an engine waits to read are listed at their homes (R243). (DEDUCED: log 156.) -/
def State.engineReads (s : State) (engine die c : Nat) (runs : List (Nat × Nat × Nat)) : State :=
  runs.foldl (fun s r => (pageSplit r.2.1 r.2.2).foldl (fun s p => match s.translate none die c p.1 Need.read with
    | .ok l s => s.awaits (.engine engine) l p.2 none
    | .stall s | .fault _ s => s) s) s

/-- One byte of a chunk: its number, where it goes, and where it comes from, or the byte a FILL writes. -/
structure ByteMove where
  no   : Nat
  dst  : Loc
  src  : Option Loc
  fill : Byte

/-- The bytes of a chunk's runs. -/
def byteMoves (places : List (List (Loc × Nat) × List (Loc × Nat) × Nat)) (fill : Option Nat) : List ByteMove :=
  (places.flatMap fun p =>
    let ss := spread p.2.1
    (spread p.1).zipIdx.map fun d => match fill with
      | some pat => (⟨0, d.1, none, BitVec.ofNat 8 (pat / 2 ^ (8 * ((p.2.2 + d.2) % 8)))⟩ : ByteMove)
      | none => ⟨0, d.1, ss[d.2]?, 0#8⟩).zipIdx.map fun m => { m.1 with no := m.2 }

/-- Move bytes one by one (R317). Where source and destination ranges overlap (`mix`), a source byte that the entry
has written gives what it held before the entry or what stands there now, a free choice for each. Gives what is moved,
and what the bytes written held before the entry. (DESIGN CHOICE: log 57.) -/
def State.moveBytes (s : State) (mix : Bool) (olds : List (Loc × PByte)) :
    List ByteMove → List (Nat × Bool) × List (Loc × PByte) × State
  | [] => ([], olds, s)
  | m :: rest =>
    let old := m.src.bind fun a => if mix then (olds.find? (·.1 == a)).map (·.2) else none
    let (k, s) : Nat × State := if old.isSome then s.choose 2 else (0, s)
    let (b, s) : PByte × State := match m.src, old with
      | none, _ => (⟨m.fill, false⟩, s)
      | some a, some o => if k = 0 then (o, s) else ((s.bytesAt a 1).headD o, s)
      | some a, none =>
        let (bs, s) := s.homeRead a 1
        (bs.headD ⟨0#8, false⟩, s)
    let olds := if mix && !(olds.any (·.1 == m.dst)) then olds ++ [(m.dst, (s.bytesAt m.dst 1).headD ⟨0#8, false⟩)] else olds
    let s := if s.inSlots m.dst 1 then s else s.setMem m.dst.sp ((s.memOf m.dst.sp).set m.dst.addr b.byte)
    let s := if b.poison then s.setMem m.dst.sp ((s.memOf m.dst.sp).setPoison (m.dst.addr / 32) true) else s
    let r := s.moveBytes mix olds rest
    ((m.no, b.poison) :: r.1, r.2)

/-- What an engine's event does to its chunk: all of it that is left is moved, or a part, which is a free choice
(R298, R306). Gives whether the chunk is done. Once it is, the writes do to their sectors what whole writes do (R257).
(DESIGN CHOICE: log 57, 143.) -/
def State.moveChunk (s : State) (engine : Nat) (mix : Bool) (fill : Option Nat) (olds : List (Loc × PByte))
    (places : List (List (Loc × Nat) × List (Loc × Nat) × Nat)) (whole : List (List PByte)) :
    Bool × List (Loc × PByte) × State :=
  let moved := (s.engines.getD engine .idle).moved
  let (v, s) := s.draw
  let part := v.getLsbD 0
  let writes (s : State) (bs : List (List PByte)) : State := (places.zip bs).foldl (fun s p => s.writeSpread p.1.1 p.2) s
  if moved.isEmpty && !mix && !part then (true, olds, writes s whole)
  else
    let all := byteMoves places fill
    let todo := all.filter fun m => !moved.any (·.1 == m.no)
    let (some_, s) := s.chooseSome all.length
    let now := if part then todo.filter fun m => some_.contains m.no else todo
    let (got, olds, s) := s.moveBytes mix olds (if v.getLsbD 1 then now.reverse else now)
    let moved := moved ++ got
    let s : State := { s with engines := updAt engine (fun g => { g with moved }) s.engines }
    if moved.length < all.length then (false, olds, places.foldl (fun s p => p.1.foldl (fun s l => s.afterWrites l.1 l.2) s) s)
    else
      let sizes := places.map fun p => (spread p.1).length
      let r := sizes.foldl (fun (r : List (List PByte) × Nat) n =>
        let bs := ((all.drop r.2).take n).map fun m =>
          (⟨(s.memOf m.dst.sp).get m.dst.addr, moved.any fun e => e.1 == m.no && e.2⟩ : PByte)
        (r.1 ++ [bs], r.2 + n)) ([], 0)
      (true, olds, writes s r.1)

/-- An engine moves its chunk, all at once or in parts, and finishes it (R324, R325). (DEDUCED: log 69.) -/
def execChunkComplete (engine : Nat) (s : State) : Host.Outcome State Fault Refusal :=
  .next <|
    match (s.engines.getD engine .idle).work with
    | none => s
    | some (c, q, j) =>
      let free (s : State) : State := { s with engines := updAt engine (fun _ => .idle) s.engines }
      let moved := (s.engines.getD engine .idle).moved
      let drop (e : Entry) : Entry :=
        if e.claims.any (·.2 == engine) then
          { e with claims := e.claims.filter (·.2 != engine), parts := if moved.isEmpty then e.parts else insertKey j moved e.parts }
        else e
      let unclaim (s : State) : State := (s.modEntry c q drop).modQueue c true q fun x => { x with
        left := (x.left.map drop).filter (!·.claims.isEmpty) }
      let settle (s : State) : State :=
        let x := s.queue c true q
        let s := if x.stopping && x.entry.all (·.claims.isEmpty) && x.left.isEmpty then s.stopQueue c true q else s
        let busy := s.engines.any (fun g => g.work.any (·.1 == c))
        if (s.ctx c).st == .draining && !busy then s.setCtxState c .destroyed else s
      let x := s.queue c true q
      let mine (e : Entry) : Bool := e.claims.contains (j, engine)
      match (x.entry.filter mine).orElse fun _ => x.left.find? mine with
      | none => settle (free s)
      | some e =>
        let head := x.entry.any mine
        match (if head then s.ringReady c true q (some e.seq) else .yes s) with
        | .wait s => s
        | .no s => settle (unclaim (free s))
        | .yes s =>
          let die := engine / 64
          let fill := pfield e.image 0 4 % 16 = 3
          let runs := e.runs j
          match s.reachRuns die c fill runs with
          | .error (s, none) => if fill then s else s.engineReads engine die c runs
          | .error (s, some f) =>
            let s := unclaim (free s)
            settle (if x.stopping || x.st != .running || !head then s else s.entryPageFault c q e f)
          | .ok (places, s) =>
            let pat := pfield e.image 0x10 8
            let dst := pfield e.image 0x08 8
            let mix := !fill && runs.any (fun r => decide (r.2.1 < dst + e.span ∧ dst < r.2.1 + r.2.2))
            let read := places.foldl (fun (r : List (List PByte) × State) p =>
              if fill then
                let n := p.1.foldl (fun n e => n + e.2) 0
                (r.1 ++ [(List.range n).map (fun k => ⟨BitVec.ofNat 8 (pat / 2 ^ (8 * ((p.2.2 + k) % 8))), false⟩)], r.2)
              else
                let (bs, s) := r.2.readSpread p.2.1
                (r.1 ++ [bs], s)) ([], s)
            let s := read.2.hasRead (.engine engine)
            let hostBad := (places.zip read.1).any fun (p, bs) => anyPoison bs && p.1.any (·.1.sp == .host)
            if hostBad then
              let s := unclaim (free s)
              settle (if head then (s.queueEvent c x.die .poison (x.slotVa e.seq)).failEntry c q e 5 else s)
            else match s.moveChunk engine mix (if fill then some pat else none) e.olds places read.1 with
            | (false, olds, s) => (s.modEntry c q fun e => if mine e then { e with olds } else e).poll
            | (true, olds, s) =>
              let s := (unclaim (free s)).modEntry c q fun e => { e with parts := eraseKey j e.parts }
              if !head then (settle s).poll
              else
              let s := s.modEntry c q fun e => { e with prog := insertNat j e.prog, olds }
              let e' := ((s.queue c true q).entry).getD e
              let s := s.poke x.die c (x.slotVa e.seq + 0x60) 32 (e'.prog.foldl (fun n k => n + 2 ^ k) 0)
              let done := e'.left.isEmpty && e'.claims.isEmpty
              let s := if x.stopping || x.st != .running || (s.ctx c).st == .draining || e'.resume then s
                else if done then s.completeEntry c q e'
                else if x.engine == some engine then
                  match e'.unclaimed with
                  | k :: _ => s.claim engine c q k
                  | [] => s
                else s
              (settle s).poll

end Sys2Proof.Machine
end

