-- ==== Sys2Proof/Machine/Page.lean ====
section
/-! DEFINITION. The recheck of work that waits for a page (R450), and the flips of a granule's bias (R368 to R370). -/

namespace Sys2Proof.Machine

/-! Rechecks (R450). -/

/-- Whether every page of some ranges can be used: yes, not yet, or not at all. -/
inductive Usable where
  | yes (s : State)
  | wait (s : State)
  | no (f : PageFault) (s : State)

/-- The pages of these ranges; a drain the walk needs is asked for. -/
def State.usable (s : State) (die c : Nat) (need : List (Nat × Nat × Need)) : Usable :=
  let parts : List (Nat × Need) := need.flatMap fun e => if e.2.1 = 0 then [] else (pageSplit e.1 e.2.1).map fun p => (p.1, e.2.2)
  parts.foldl (fun r p => match r with
    | .yes s => (match s.translate none die c p.1 p.2 with
      | .ok _ s => .yes s
      | .stall s => .wait s
      | .fault f s => if f.cause = .protection then .no f s else .wait s)
    | r => r) (.yes s)

/-- The ranges the head entry of an engine queue still needs: its trigger, its record, the headers its JOIN names, the
RCACHE area, the runs of the chunks left, its DONE. -/
def State.entryNeeds (s : State) (c : Nat) (x : Queue) (e : Entry) : List (Nat × Nat × Need) :=
  let f := pfield e.image
  let kind := f 0 4 % 16
  let start (b : Bool) (l : List (Nat × Nat × Need)) : List (Nat × Nat × Need) := if b && !e.started then l else []
  let fresh := (lookupKey (f 0x20 8) x.cache).isNone
  let joins := (List.range 4).filterMap fun j =>
    let v := f (0x40 + 8 * j) 8
    if v.testBit 53 then some (s.headerVa c true (bitsOf v 63 54) + 8, 8, Need.read) else none
  let runs := if kind = 2 && !e.started then [] else e.left.flatMap e.runs
  let data := runs.flatMap fun r => [(r.1, r.2.2, Need.write)] ++ (if kind = 3 then [] else [(r.2.1, r.2.2, Need.read)])
  let done := if f 0x28 8 = 0 then [] else [(f 0x28 8, if (f 0 4).testBit 6 then 32 else 8, Need.both)]
  start ((f 0 4).testBit 4) [(f 0x30 8, 8, Need.read)] ++ start (kind = 2 && fresh) [(f 0x20 8, 32, Need.read)] ++
    start (kind = 5 || (kind = 2 && fresh)) [(x.rcache, 1024, Need.both)] ++ start (kind = 6) joins ++
    (if e.finish then [] else data) ++ done

/-- Recheck a queue that is Blocked (R313): a header not yet found valid is read again; otherwise the queue returns to
the state it left once every page it needs is usable, and is Faulted where one has come back without its permission
(R325). An entry goes on from the STATUS and PROGRESS that stand in its slot (R310, R315). -/
def State.recheckQueue (s : State) (c : Nat) (eng : Bool) (q : Nat) : State :=
  let x := s.queue c eng q
  let va := s.headerVa c eng q
  let slot (n : Nat) : Nat × Nat × Need := (x.slotVa n, 128, if eng then Need.both else Need.read)
  let header := [(va, 0x30, Need.both)]
  if x.st != .blocked then s
  else match s.usable x.die c (if x.valid then header ++ x.entry.toList.map (fun e => slot e.seq) else header) with
  | .wait s => s
  | .no f s => s.queuePageFault c eng q va f
  | .yes s =>
    if !x.valid then s.loadQueue c eng q (x.prev == .empty)
    else match x.entry with
      | some e =>
        (match s.usable x.die c (if eng then s.entryNeeds c x e else []) with
          | .wait s => s
          | .no f s => s.entryPageFault c q e f
          | .yes s =>
            let s := if eng then s.modEntry c q fun e => { e with resume := true } else s
            s.setQState c eng q x.prev)
      | none =>
        match s.readHeader c eng q with
        | .no s => s
        | .ok tail head s =>
          let ns := if head < tail then [slot head] else []
          match s.usable x.die c (if x.pushes.isEmpty then ns else (x.slotVa tail, 128, Need.write) :: ns) with
          | .wait s => s
          | .no f s => s.queuePageFault c eng q va f
          | .yes s => s.setQState c eng q (if x.prev == .empty && decide (head < tail) then .running else x.prev)

/-- The context a parked request waits for a page of. -/
def State.parkedFor (s : State) (r : RemoteReq) (c : Nat) : Bool :=
  let of (region : Nat) : Nat := pfield (s.linkSlot (0x10000 + region)) 16 1
  match r.kind with
  | .interrupt => r.tctx == c
  | _ => of r.region == c || (r.kind == .putfFlag && of r.flagReg == c)

/-- The waits of a context for a page are rechecked by a fresh walk. (DESIGN CHOICE: log 81; DEDUCED: log 131.) -/
def execPageRecheck (ctx : Nat) (s : State) : Host.Outcome State Fault Refusal :=
  .next <|
    let s := s.modHomes fun h => { h with dieTlb := h.dieTlb.map fun l => l.filter (·.ctx != ctx) }
    let s := (List.range (s.ctx ctx).eqs.length).foldl (fun s q => s.recheckQueue ctx true q) s
    let s := (List.range (s.ctx ctx).lqs.length).foldl (fun s q => s.recheckQueue ctx false q) s
    let s := (s.link.parked.filter fun p => s.parkedFor p.1 ctx).foldl (fun s p => s.retryParked p.1) s
    let s := (s.msgs.filter fun m => match m.kind with
      | .interrupt _ _ _ _ _ _ => true
      | _ => false).foldl (fun s m => s.interruptArrives m) s
    let s := (s.msgs.filter (·.ctx == ctx)).foldl State.forwardArrives s
    (s.modLink fun l => { l with parkNoted := l.parkNoted.filter fun i => s.msgs.any (·.id == i) }).poll

/-! Bias (R368 to R370). -/

/-- A biasset of a granule (R369): true where it completes at once. A split that waits is listed with the granule. -/
def State.biasset (s : State) (g : Nat) (want : Nat) (wave slot : Nat) : Bool × State :=
  match s.flip? g with
  | none => if want = 0 then (true, s) else (false, s.startFlip g true [(wave, slot, want)])
  | some f =>
    match f.st with
    | .host => if want = 1 then (true, s) else (false, s.startFlip g false [(wave, slot, want)])
    | _ => (false, s.putFlip { f with waves := f.waves ++ [(wave, slot, want)] })

/-- The flip's last line is done: BIAS is set, FLIP cleared, the biassets that wanted this state complete, and one
that wanted the other begins the flip back. -/
def execBiasFlipComplete (granule : Nat) (s : State) : Host.Outcome State Fault Refusal :=
  .next <| match s.flip? granule with
    | none => s
    | some f =>
      if f.st == .host || f.line < 32 then s
      else
        let toHost := f.st == .toHost
        let now := if toHost then 1 else 0
        let s := s.setBias granule now 0
        let s := if toHost then s.putFlip ⟨granule, .host, 32, false, []⟩
          else s.modHomes fun h => { h with flips := h.flips.filter (·.granule != granule) }
        let s := (f.waves.filter (·.2.2 == now)).foldl (fun s e =>
          match ((s.wave? e.1).bind (·.split? e.2.1)).bind (·.wait) with
          | some t => if t.kind = .bias granule then s.leaveWait e.1 e.2.1 else s
          | none => s) s
        let rest := f.waves.filter (·.2.2 != now)
        let s := if rest.isEmpty then s else s.startFlip granule (!toHost) rest
        s.poll

end Sys2Proof.Machine
end

