-- ==== Sys2Proof/Machine/Control.lean ====
section
/-! DEFINITION. Control instructions (R153 to R163), reserved opcodes (R50), and the wave's own events: raises and
yields (R131, R161), checkpoints (R141), the return of registers (R140), the spill engine (R145), Reported traps that
fall due (R97, R99, R451). -/

namespace Sys2Proof.Machine

/-! NOP, branches, calls (R154, R155). -/

/-- NOP (R154). -/
def execNop (g : Gen) (s : State) : Host.Outcome State Fault Refusal := issueWave (.nop g) (fun x => .ok x.s) s

namespace Iss

/-- The lanes of the split that are not active go on at the next instruction. -/
def fallThrough (x : Iss) : DWord × Lanes × Nat := (x.nextPc, x.sp.mask &&& ~~~x.act, x.sp.win)

/-- Divide the split among targets and the lanes that fall through (R134). -/
def goTo (x : Iss) (w : Wave) (targets : List (DWord × Lanes × Nat)) : Res :=
  .jump (x.s.putWave (w.divide x.sp (targets ++ [x.fallThrough]) x.clk))

/-- The PC-relative target (R155). -/
def relative (x : Iss) (off : BitVec 32) : DWord := x.pc + (off.signExtend 64 <<< 2)

/-- The check of an indirect target (R155). (DEDUCED: log 14.) -/
def targetFail (x : Iss) (g : Gen) (i : Nat) : Option LaneFail :=
  let t := (x.a64 g i).bits
  if t.toNat / 2 ^ 57 ≠ 0 then some ⟨.address, t, none⟩
  else if t.toNat % 4 ≠ 0 then some ⟨.align, t, none⟩
  else none

/-- The distinct indirect targets with their lanes, ascending; or the trap (R155, R428). -/
def targets (x : Iss) (g : Gen) : Except Fail (List (DWord × Lanes)) :=
  let bad := x.lanesWhere fun i => (x.a64 g i).poison
  if bad != 0#64 then .error ⟨.poison, bad, 0, none⟩
  else match x.fails (x.targetFail g) with
    | some f => .error f
    | none =>
      let ts := x.lanes.foldl (fun l i => insertNat (x.a64 g i).bits.toNat l) []
      .ok (ts.map fun t => (BitVec.ofNat 64 t, x.lanesWhere fun i => (x.a64 g i).bits.toNat == t))

/-- Push one window for each target and go there (R143, R155). -/
def callTo (x : Iss) (ts : List (DWord × Lanes)) : Res :=
  if 64 < x.w.windows.length + ts.length then x.raise ⟨.window, x.act, 0, none⟩
  else
    let r := ts.foldl (fun (r : Wave × List (DWord × Lanes × Nat)) t =>
      let (id, w) := r.1.pushWindow .call x.sp.win x.nextPc 16 none
      (w, r.2 ++ [(t.1, t.2, id)])) (x.w, [])
    x.goTo r.1 r.2

end Iss

/-- BRA (R155). -/
def execBra (g : Bra) (s : State) : Host.Outcome State Fault Refusal :=
  issueWave (.bra g) (fun x => x.goTo x.w [(x.relative g.off, x.act, x.sp.win)]) s

/-- BRX (R155). -/
def execBrx (g : Gen) (s : State) : Host.Outcome State Fault Refusal :=
  issueWave (.brx g) (fun x => match x.targets g with
    | .error f => x.raise f
    | .ok ts => x.goTo x.w (ts.map fun t => (t.1, t.2, x.sp.win))) s

/-- CALL (R143, R155). -/
def execCall (g : Bra) (s : State) : Host.Outcome State Fault Refusal :=
  issueWave (.call g) (fun x => x.callTo [(x.relative g.off, x.act)]) s

/-- CALLX (R143, R155). -/
def execCallx (g : Gen) (s : State) : Host.Outcome State Fault Refusal :=
  issueWave (.callx g) (fun x => match x.targets g with
    | .error f => x.raise f
    | .ok ts => x.callTo ts) s

/-- RET (R143, R145, R156, R413). (DEDUCED: log 18.) -/
def execRet (g : Gen) (s : State) : Host.Outcome State Fault Refusal :=
  issueWave (.ret g) (fun x =>
    match x.w.window? x.sp.win with
    | none => x.raise ⟨.window, x.act, 0, none⟩
    | some v =>
      match v.kind with
      | .call =>
        if (x.w.window? v.caller).any (·.spilled) then .stall x.s else x.goTo x.w [(v.retPc, x.act, v.caller)]
      | .handler => x.raise ⟨.window, x.act, 0, some 6⟩
      | _ => x.raise ⟨.window, x.act, 0, none⟩) s

/-- ENTER (R143, R157). -/
def execEnter (g : Gen) (s : State) : Host.Outcome State Fault Refusal :=
  issueWave (.enter g) (fun x =>
    match x.w.window? x.sp.win with
    | none => x.raise ⟨.window, x.act, 0, none⟩
    | some v =>
      if v.kind == .initial || v.entered then x.raise ⟨.window, x.act, 0, none⟩
      else x.done (x.w.modWindow x.sp.win fun v => { v with size := 8 * g.sub.toNat, entered := true })) s

/-- The wave without lanes that exit: in its splits, its parked lanes and whatever is kept of them (R100, R412).
(DEDUCED: log 17.) -/
def Wave.dropLanes (w : Wave) (m : Lanes) : Wave :=
  { w with
    live := w.live &&& ~~~m
    splits := w.splits.map fun p => { p with mask := p.mask &&& ~~~m }
    parked := w.parked.map fun p => { p with mask := p.mask &&& ~~~m }
    frozen := w.frozen.map fun f => { f with
      splits := f.splits.map fun p => { p with mask := p.mask &&& ~~~m }
      parked := f.parked.map fun p => { p with mask := p.mask &&& ~~~m } }
    windows := w.windows.map fun v => { v with saved := v.saved.map fun k => { k with
      splits := k.splits.map fun p => { p with mask := p.mask &&& ~~~m }
      parked := k.parked.map fun p => { p with mask := p.mask &&& ~~~m } } } }

/-- EXIT (R137, R158, R413). (DEDUCED: log 17.) -/
def execExit (g : Gen) (s : State) : Host.Outcome State Fault Refusal :=
  issueWait (.exit g) (fun x =>
    if (x.w.window? x.sp.win).any (·.kind == .handler) then x.raise ⟨.window, x.act, 0, some 6⟩
    else
      let w := (x.w.modSplit x.sp.slot fun p => { p with pc := x.nextPc }).dropLanes x.act
      .jump (x.s.putWave (if w.live == 0#64 then { w with st := .exited, frozen := none } else w))) s

/-- REGION (R159): every instruction that ends a region begins the next at its end. -/
def execRegion (g : Gen) (s : State) : Host.Outcome State Fault Refusal := issueWave (.region g) (fun x => .ok x.s) s

/-! Modes (R149, R160). -/

/-- The mode word with its writable bits replaced. -/
def writeMode (old new : Word) : Word := (new &&& 0x7FEF#32) ||| (old &&& ~~~(0x7FEF#32))

/-- Change the mode of every active lane, from its word, A and B; poison in either traps (R428). (DEDUCED: log 14.) -/
def modeBody (g : Gen) (usesA : Bool) (f : Word → Word → Word → Word) (x : Iss) : Res :=
  let bad := x.lanesWhere fun i => (usesA && (x.a32 g i).poison) || (x.b32 g i).poison
  if bad != 0#64 then x.raise ⟨.poison, bad, 0, none⟩
  else
    let one (m : Word) (i : Nat) : Word :=
      if hasLane x.act i then writeMode m (f m (x.a32 g i).bits (x.b32 g i).bits) else m
    x.done { x.w with modes := x.w.modes.zipIdx.map fun e => one e.1 e.2 }

/-- MODE A, B (R160). -/
def execMode (g : Gen) (s : State) : Host.Outcome State Fault Refusal :=
  issueWave (.mode g) (modeBody g true fun m a b => (m &&& ~~~b) ||| (a &&& b)) s

/-- MODE.SET (R160). -/
def execModeSet (g : Gen) (s : State) : Host.Outcome State Fault Refusal :=
  issueWave (.modeSet g) (modeBody g false fun m _ b => m ||| b) s

/-- MODE.CLR (R160). -/
def execModeClr (g : Gen) (s : State) : Host.Outcome State Fault Refusal :=
  issueWave (.modeClr g) (modeBody g false fun m _ b => m &&& ~~~b) s

/-- MODERD (R160). -/
def execModerd (g : Gen) (s : State) : Host.Outcome State Fault Refusal :=
  issueWave (.moderd g) (fun x => x.done (x.put x.w g.d 0 x.act fun i => ⟨x.w.modes.getD i 0#32, false⟩)) s

/-! YIELD, TRAP, BRK, WAITC, reserved opcodes. -/

/-- YIELD (R161): the rank of its wave is set when the issue is counted. -/
def execYield (g : Gen) (s : State) : Host.Outcome State Fault Refusal :=
  issueWave (.yield g) (fun x => x.done (x.w.modSplit x.sp.slot fun p => { p with yield := some x.clk })) s

/-- TRAP (R162). -/
def execTrap (g : Gen) (s : State) : Host.Outcome State Fault Refusal :=
  issueWave (.trap g) (fun x => x.raise ⟨.software, x.act, 0, some ((x.b32 g x.first).bits.zeroExtend 64)⟩) s

/-- BRK (R162). -/
def execBrk (g : Gen) (s : State) : Host.Outcome State Fault Refusal :=
  issueWave (.brk g) (fun x => x.raise ⟨.brk, x.act, 0, some ((x.b32 g x.first).bits.zeroExtend 64)⟩) s

/-- WAITC (R163). (DEDUCED: log 14.) -/
def execWaitc (g : Gen) (s : State) : Host.Outcome State Fault Refusal :=
  issueWait (.waitc g) (fun x =>
    let t := x.b32 g x.first
    if t.poison then x.raise ⟨.poison, laneSet [x.first], 0, none⟩
    else .wait x.s (x.waitOf (.path g.sub.toNat t.bits.toNat) ⟨.dev, 0⟩ 0 none 0x0E g.sub.toNat)) s

/-- An opcode no instruction has: ILLEGAL before any other check (R50, R51). (DEDUCED: log 127.) -/
def execReservedOpcode (w : Word) (s : State) : Host.Outcome State Fault Refusal :=
  match s.issuing (.reservedOpcode w) with
  | none => .fault .noIssuer
  | some x => .next (x.finish (x.raise ⟨.illegal, x.sp.mask, 0, none⟩))

/-! Scheduling events. -/

/-- A split ready for 256 consecutive clocks is raised (R131). -/
def execSplitRaise (wave slot : Nat) (s : State) : Host.Outcome State Fault Refusal :=
  .next <| s.modWave wave fun w => w.modSplit slot fun p =>
    match p.ready, p.raised with
    | some c, none => if c + 256 ≤ s.clk then { p with raised := some s.clk } else p
    | _, _ => p

/-- A yielded split is a candidate again after 64 clocks (R161). -/
def execYieldExpiry (wave slot : Nat) (s : State) : Host.Outcome State Fault Refusal :=
  .next <| s.modWave wave fun w => w.modSplit slot fun p =>
    match p.yield with
    | some c => if c + 64 ≤ s.clk then { p with yield := none } else p
    | none => p

/-! Checkpoints and registers (R140, R141). -/

/-- A checkpoint after 64 clocks in which the wave has issued (R141). -/
def execCheckpoint (wave : Nat) (s : State) : Host.Outcome State Fault Refusal :=
  .next <| s.modWave wave fun w =>
    if 64 ≤ w.sinceCk && w.onCore && (w.st == .resident || w.st == .solo) then w.checkpoint s.clk false else w

namespace Wave

/-- The checkpoint must be retained: it is a region's entry, or none after it is 128 clocks old. -/
def retains (w : Wave) (k : Checkpoint) (clk : Nat) : Bool :=
  k.entry || !(w.ckpts.any fun c => k.id < c.id && decide (c.clk + 128 ≤ clk))

/-- Pre-images of a discarded checkpoint that an older one has none of. -/
def mergeUndo (old new : Checkpoint) : Checkpoint :=
  { old with
    laneUndo := old.laneUndo ++ new.laneUndo.filter (fun u => !(old.laneUndo.any fun v => v.word == u.word && v.lane == u.lane))
    accUndo := old.accUndo ++
      new.accUndo.filter (fun u => !(old.accUndo.any (fun v => v.acc == u.acc && v.row == u.row))) }

/-- Discard a checkpoint: what it protects passes to the one before it, if any, and undo registers that protect
nothing are freed (R148). -/
def dropCheckpoint (w : Wave) (k : Checkpoint) (clk : Nat) : Wave :=
  let before := (w.ckpts.filter (·.id < k.id)).getLast?
  let cs := w.ckpts.filter (·.id != k.id)
  let cs := match before with
    | none => cs
    | some b => cs.map fun c => if c.id == b.id then mergeUndo c k else c
  { w with
    ckpts := cs
    redo := w.redo.filter fun r => cs.any fun c => decide (c.id ≤ r.ck ∧ r.no ≤ c.no)
    regs := w.regs.map fun r =>
      if r.undo && r.freed.isNone && !(cs.any fun c => c.laneUndo.any (·.reg == r.id)) then
        { r with freed := some clk, deferred := true }
      else r }

/-- A physical register that may return to the pool (R140): freed for 128 clocks, its free not deferred, no in-flight
instruction to write it or to fall back on it, named by no window, no lookahead window and no retained checkpoint.
(DESIGN CHOICE: log 23.) -/
def mayReturn (w : Wave) (r : PhysReg) (clk : Nat) : Bool :=
  (match r.freed with
    | some c => c + 128 ≤ clk
    | none => false) &&
    !r.deferred && r.writer == 0 && !(w.windows.any fun v => v.map.any (·.2 == r.id)) &&
    !(w.aheads.any (·.names r.id)) && !(w.ops.any fun o => !o.done && o.olds.any (·.2 == some r.id)) && !(w.ckpts.any fun c => c.names r.id || c.laneUndo.any (·.reg == r.id))

end Wave

/-- A checkpoint that need not be retained is discarded (R141). -/
def execCheckpointDiscard (wave ck : Nat) (s : State) : Host.Outcome State Fault Refusal :=
  .next <| s.modWave wave fun w =>
    match w.ckpts.find? (·.id == ck) with
    | some k => if w.retains k s.clk then w else w.dropCheckpoint k s.clk
    | none => w

/-- A freed register returns to the pool (R140). -/
def execRegisterReturn (wave phys : Nat) (s : State) : Host.Outcome State Fault Refusal :=
  .next <| s.modWave wave fun w =>
    { w with regs := w.regs.filter fun r => !(r.id == phys && w.mayReturn r s.clk) }

/-! The spill engine (R145). -/

/-- The registers of a window that are to be refilled. -/
def Wave.toRefill (w : Wave) (v : Window) : List Nat :=
  (w.regs.filter fun r => r.spilled && v.map.any (·.2 == r.id)).map (·.id)

/-- The window cannot be refilled: neither the wave's floor nor the pool has its registers. -/
def State.refillShort (s : State) (w : Wave) (win : Nat) : Bool :=
  (w.window? win).any fun v => v.spilled && s.poolShort w (w.toRefill v).length

/-- A split stalled on allocation: of registers it writes or of an undo register (R144, R206), or of those of a spilled
window it needs (R145). -/
def State.allocStalled (s : State) (w : Wave) (p : Split) : Bool :=
  p.open s.clk && ((w.refill && w.windows.any fun v => s.refillShort w v.id) || s.refillShort w p.win || (match s.offer w.id p.slot with
    | .run i s => (match s.issuing i with
      | some x => x.act != 0#64 && (s.poolShort x.w x.allocs ||
          (encOp x.enc == 0x05#7 && (w.window? p.win).any fun v => v.kind == .call && s.refillShort w v.caller))
      | none => false)
    | _ => false))

/-- The private registers of a window that its quadrant still holds. -/
def Wave.spillable (w : Wave) (v : Window) : List Nat :=
  v.map.filterMap fun p =>
    if 16 ≤ p.1 && w.regs.any (fun r => r.id == p.2 && !r.spilled && r.writer == 0) then some p.2 else none

/-- The oldest window that can be spilled: current for no split and no parked lane, those set aside with a trap or an
interrupt among them. -/
def Wave.spillWindow (w : Wave) : Option Window :=
  let saved := w.windows.filterMap (·.saved)
  let splits := w.splits ++ w.frozen.elim [] (·.splits) ++ saved.flatMap (·.splits)
  let parked := w.parked ++ w.frozen.elim [] (·.parked) ++ saved.flatMap (·.parked)
  w.windows.find? fun v =>
    !v.spilled && !(splits.any (·.win == v.id)) && !(parked.any (·.win == v.id)) && !(w.spillable v).isEmpty

/-- A wave that R95 may choose: Resident, of no COMM launch, not in a handler window or with a delivery under way. -/
def Wave.evictable (w : Wave) : Bool :=
  w.st == .resident && w.onCore && !w.stopping && !w.decl.comm && !w.service && !(w.windows.any (·.kind == .handler))

/-- The spill engine acts on a quadrant, on a Resident wave (R137, R145). -/
def execSpill (quad : Nat) (s : State) : Host.Outcome State Fault Refusal :=
  .next <|
    let ws := s.waves.filter fun w => w.quadNo == quad && w.onCore && (w.st == .resident || w.st == .solo)
    let stuck := !ws.isEmpty && ws.all fun w =>
      w.splits.any (s.allocStalled w) && !(w.splits.any (s.splitReady w))
    if !stuck then s
    else
      let can := ws.filter fun w => w.st == .resident && w.spillWindow.isSome
      let best := can.foldl (fun (b : Option Wave) w => match b with
        | none => some w
        | some v =>
          let bw := w.heldRegs - w.decl.regfloor
          let bv := v.heldRegs - v.decl.regfloor
          if bv < bw ∨ (bv = bw ∧ w.age < v.age) then some w else b) none
      match best with
      | some w =>
        (match w.spillWindow with
          | none => s
          | some v =>
            let rs := w.spillable v
            (s.writeSave w.ctx).putWave { w.modWindow v.id (fun v => { v with spilled := true }) with
              regs := w.regs.map fun r => if rs.contains r.id then { r with spilled := true } else r })
      | none =>
        let young := (ws.filter Wave.evictable).foldl (fun (b : Option Wave) w => match b with
          | none => some w
          | some v => if v.age < w.age then some w else b) none
        match young with
        | some w => s.putWave { w with stopping := true, reserve := true }
        | none => s

/-- The spill engine refills a window, when the pool can supply its registers (R145). -/
def execSpillRefill (wave win : Nat) (s : State) : Host.Outcome State Fault Refusal :=
  .next <| match s.wave? wave with
    | none => s
    | some w =>
      match w.window? win with
      | none => s
      | some v =>
        let rs := w.toRefill v
        if !v.spilled || s.poolShort w rs.length then s
        else
          let v := w.modWindow win fun v => { v with spilled := false }
          s.putWave { v with
            regs := w.regs.map fun r => if rs.contains r.id then { r with spilled := false } else r
            refill := w.refill && v.windows.any (·.spilled) }

/-! Reported traps (R97, R99, R451). -/

/-- The split a Reported trap stops: the one that holds its lowest lane, else the lowest PC. -/
def Wave.trapSplit (w : Wave) (m : Lanes) : Option Split :=
  (w.splits.find? fun p => hasLane p.mask (lowest m)).orElse fun _ =>
    w.splits.foldl (fun (b : Option Split) p => match b with
      | none => some p
      | some q => if p.pc.toNat < q.pc.toNat then some p else b) none

/-- The first due Reported trap of a wave is taken, recorded in sys.pend, or written as an event (R97, R99, R451).
(DEDUCED: log 16.) -/
def State.takeDue (s : State) (wave : Nat) : State :=
  match s.wave? wave with
  | none => s
  | some w =>
    match (sortBy (·.no) w.due).find? w.dueNow with
    | none => s
    | some r =>
      let left : Wave := { w with due := w.due.erase r }
      let pend : Wave := { left with
        pended := left.pended ++ [r], sys := { left.sys with pend := BitVec.ofNat 64 (pendWord r) } }
      let take : State := match w.trapSplit r.trap.lanes with
        | some p => (s.putWave left).takeTrap wave p.slot { r with epc := p.pc }
        | none => s
      match w.st with
      | .exited =>
        let s := if r.trap.cause = .poison then s.count (State.dieOf w.core) 8 else s
        let left := left.take r true
        let s := s.putWave (if w.told.contains r.no then left else { left with
          held := left.held ++ [⟨r.no, r.clk, 0, .record (trapRecord w r 18).pack false 3, none⟩] })
        if r.trap.cause = .poison then s.killGang w.ctx w.tag w.gang else s
      | .resident => take
      | .solo => if w.service || !w.dueOld r then take else s.putWave pend
      | .held => s.putWave pend
      | _ => s

/-- Every due trap of a wave, the one whose instruction issued first before the others (R99). -/
def State.takeDues (s : State) (wave : Nat) : State :=
  (List.range ((s.wave? wave).elim 0 (·.due.length))).foldl (fun s _ => s.takeDue wave) s

/-- A Reported trap falls due (R97, R99, R451). (DEDUCED: log 16.) -/
def execReportedTrapDue (wave : Nat) (s : State) : Host.Outcome State Fault Refusal := .next (s.takeDue wave)

end Sys2Proof.Machine
end

