-- ==== Sys2Proof/Machine/Place.lean ====
section
/-! DEFINITION. A wave as it starts (R112), and the load of a program of one instruction that stands for the loader. -/

namespace Sys2Proof.Machine

/-- A block at its placement (R111, R147, R341). -/
def Block.start (id ctx tag index gang member core bx byy bz waves scratchSize : Nat) : Block :=
  { id, ctx, tag, index, gang, member, core, bx, byy, bz, waves, bsc := List.replicate 8 [], phase := 0, arrived := [],
    lastArrive := 0, scratch := .empty, scratchSize, live := true, emptied := false }

/-- A tile at wave start (R207). -/
def Tile.fresh : Tile :=
  { data := .empty, side := .empty, format := none, scaled := false, gathered := false, count := 0, lastK := 0 }

/-- An accumulator at wave start (R210). (DESIGN CHOICE: log 6.) -/
def Acc.fresh : Acc := ⟨.empty, false⟩

/-- A wave at its start (R112): every lane in one split at the entry, the initial window, its parameters in the scalars,
everything else zero. (DESIGN CHOICE: log 6.) -/
def Wave.start (id ctx tag grid wid block gang width : Nat) (decl : Decl) (core quad age clk : Nat) (entry : DWord)
    (sregs : List Val) :
    Wave :=
  let w : Wave := {
    id, ctx, tag, grid, wid, block, gang, width, decl, st := .resident, onCore := true, core, quad, age, placed := clk,
    splits := [Split.fresh 0 entry (allLanes width) 0 clk], parked := [], live := allLanes width,
    windows := [{
      id := 0, kind := .initial, size := 96, caller := 0, retPc := 0, map := [], entered := false, spilled := false,
      saved := none }]
    nextWin := 1, regs := [], nextReg := 0, ops := [], ahead := [], nextUid := 1, issueNo := 0, lastIssue := 0,
    sregs, spend := [], preds := List.replicate 8 0#64,
    modes := List.replicate width modeReset, lanearr := [], tiles := List.replicate decl.tiles .fresh,
    accs := List.replicate decl.accs .fresh, groups := List.replicate 8 none, seq := 0, took := [], held := [], due := [], pended := [], taken := [], told := [],
    sys := .zero, frozen := none, ckpts := [], nextCk := 0, sinceCk := 0, regionNo := 0, replays := 0,
    replayRegion := 0, fence := none, invs := [], yielded := false, stopping := false, reserve := false, refill := false, service := false, redo := [], atLine := [],
    tileRead := [], bphase := 0, killed := false }
  w.newRegion clk

/-- The page tables of a loaded program: five levels from 0x1000, one 64 KiB page at virtual 0x10000 over physical
0x10000, readable, writable and executable. (DESIGN CHOICE: log 3.) -/
def loadTables (m : Memory) : Memory :=
  let m := m.setNat 0x1000 8 0x2001
  let m := m.setNat 0x2000 8 0x3001
  let m := m.setNat 0x3000 8 0x4001
  let m := m.setNat 0x4000 8 0x5001
  m.setNat 0x5008 8 0x1001F

/-- What the load of a program of one instruction leaves: the program's bytes at the page, its context, its launch, its
block and its wave. (DESIGN CHOICE: log 3.) -/
def State.withProgram (s : State) (bs : List Byte) : State :=
  let decl : Decl := ⟨16, 0, 1, 1, 0, 1, false⟩
  { s with
    agenda := [.issue 0], cur := none,
    cores := updAt 0 (fun c => { c with tlb := [] }) s.cores,
    quads := updAt 0 (fun q => { q with busyUntil := 0 }) s.quads,
    homes := { s.homes with dieTlb := updAt 0 (fun _ => []) s.homes.dieTlb, records := [] },
    dev := { s.dev with on := true, st := .ready, ctxtab := 0x100000, kbase := 0x10000 },
    mem := (loadTables s.mem).setBytes 0x10000 bs,
    ctxs := updAt 1 (fun c => { c with
      st := .resident, ptroot := 0x1000, savebase := 0x200000, savesize := 0x100000, evbase := 0x180000,
      evcount := 128 }) s.ctxs,
    sched := { s.sched with
      launches := [{
        ctx := 1, tag := 0, addr := 0, packet := List.replicate 256 0#8, st := .running, gangs := [⟨.placed, 0, 0, [], false⟩], children := 0,
        ord := 0, reached := [[], []], completing := false, notices := [] }]
      nextWave := s.sched.nextWave + 1, nextBlock := s.sched.nextBlock + 1 }
    blocks := [Block.start s.sched.nextBlock 1 0 0 0 0 0 0 0 0 1 0],
    waves := [Wave.start s.sched.nextWave 1 0 0 0 s.sched.nextBlock 0 32 decl 0 0 0 s.dev.clk 0x10000#64
      (List.replicate 16 .zero)] }

end Sys2Proof.Machine
end

