-- ==== Sys2Proof/Machine/Sched.lean ====
section
/-! DEFINITION. Distribution and placement of gangs (R120 to R127), eviction, saving and restoring of waves (R91, R95, R96,
R123, R137), slices and the waiting budget (R91 to R94), the end of a wave (R125, R128, R137). -/

namespace Sys2Proof.Machine

/-! Room on a core (R121, R123). -/

/-- The quadrant of a core that wave w of a block goes to (R120). -/
def quadOf (core w : Nat) : Nat := w % usableQuads core

/-- The words of a wave's floor. -/
def Decl.words (d : Decl) (width : Nat) : Nat := (d.regfloor + d.lanearray) * width

/-- The waves that hold something of a core, but for those in `out`. -/
def State.onCoreWaves (s : State) (core : Nat) (out : List Nat) : List Wave :=
  s.waves.filter fun w => w.onCore && w.core == core && w.st != .ended && !w.service && !(out.contains w.id)

/-- A quadrant has room for n more waves. -/
def roomFor (ws : List Wave) (quad n width : Nat) (d : Decl) : Bool :=
  let on := ws.filter (·.quad == quad)
  let res := on.filter (·.st != .reserved)
  let sum (f : Wave → Nat) (l : List Wave) : Nat := l.foldl (fun k w => k + f w) 0
  res.length + n ≤ 24 && sum (fun w => w.decl.words w.width) on + n * d.words width ≤ 65536 &&
    sum (·.decl.tiles) res + n * d.tiles ≤ 16 && sum (·.decl.accs) res + n * d.accs ≤ 8

/-- The block places a core has taken. -/
def blocksOn (ws : List Wave) : List Nat := dedup (ws.map (·.block))

/-- The scratch of a core has room for a block (R123). (DESIGN CHOICE: log 141.) -/
def State.scratchFits (s : State) (core ctx size : Nat) : Bool :=
  let here := s.blocks.filter fun b => b.live && !b.emptied && b.core == core && b.scratchSize != 0
  size = 0 || (here.all (·.ctx == ctx) && decide (here.foldl (fun n b => n + b.scratchSize) size ≤ (s.ctx ctx).scratch * 2 ^ 20))

/-- A block of n waves fits on a core once the waves in `out` are gone; a quadrant with a Reserved wave takes no new wave
before it is restored (R121, R137). (DEDUCED: log 117.) -/
def State.blockFits (s : State) (core ctx n width : Nat) (d : Decl) (out : List Nat) : Bool :=
  let ws := s.onCoreWaves core out
  (blocksOn ws).length < 16 && s.scratchFits core ctx d.scratch &&
    (List.range (usableQuads core)).all fun q =>
      let k := ((List.range n).filter (fun w => quadOf core w == q)).length
      k = 0 || (roomFor ws q k width d && !(ws.any fun w => w.quad == q && w.st == .reserved))

/-- The words a wave's floor and its borrowed registers take when it is on a quadrant (R144). -/
def Wave.words (w : Wave) (regs : Nat) : Nat := w.decl.words w.width + (regs - w.decl.regfloor) * w.width

/-- One saved wave fits on a core once the waves in `out` are gone: its place there, and the pool for its registers. -/
def State.waveFits (s : State) (core : Nat) (w : Wave) (out : List Nat) : Bool :=
  let ws := s.onCoreWaves core (w.id :: out)
  let q := quadOf core w.wid
  let need := (w.regs.filter fun r => !(w.windows.any fun v => v.spilled && v.map.any (·.2 == r.id))).length
  let used := (ws.filter (·.quad == q)).foldl (fun n v => n + v.words v.heldRegs) 0
  (w.st == .reserved || (roomFor ws q 1 w.width w.decl && (ws.any (·.block == w.block) || decide ((blocksOn ws).length < 16)))) &&
    decide (used + w.words need ≤ 65536)

/-! Runs (R122). -/

/-- The eligible cores of a die for a launch, ascending. -/
def State.eligibleCores (s : State) (die : Nat) (comm : Bool) : List Nat :=
  (natsFrom (32 * die) 32).filter (s.isEligible · comm)

/-- The run of n consecutive eligible cores that starts at a core. (DEDUCED: log 115.) -/
def State.runFrom (s : State) (core n : Nat) (comm : Bool) : Option (List Nat) :=
  let el := s.eligibleCores (State.dieOf core) comm
  match el.findIdx? (· == core) with
  | some i => if n ≤ el.length then some ((el.drop i ++ el.take i).take n) else none
  | none => none

/-- The run of a pending entry. -/
def State.entryRun (s : State) (e : PendEntry) : Option (List Nat) :=
  match s.launch? e.ctx e.tag with
  | some l => s.runFrom e.run l.gang l.comm
  | none => none

/-- A pending list whose head has no time yet takes it from now. -/
def State.stampHead (s : State) (core : Nat) : State :=
  s.modCore core fun c => { c with pending := match c.pending with
    | e :: r => (if e.wait.isNone then { e with wait := some s.clk } else e) :: r
    | [] => [] }

/-- Append an entry to a core's pending list. -/
def State.appendEntry (s : State) (core : Nat) (e : PendEntry) : State :=
  (s.modCore core fun c => { c with pending := c.pending ++ [e] }).stampHead core

/-- The gang a die's distributor takes next, with the list of the lengths of the pending lists. -/
def State.nextGang (s : State) (die : Nat) : Option (Nat × Nat × Nat) :=
  s.sched.unplaced.find? fun u => match s.launch? u.1 u.2.1 with
    | none => false
    | some l =>
      let el := s.eligibleCores die l.comm
      l.gang ≤ el.length && el.any (fun k => (s.core k).pending.isEmpty)

/-- A die's distributor takes the next gang that fits (R122); where both dies could, die 0 does. (DEDUCED: log 114.) -/
def execDistributorTakeGang (die : Nat) (s : State) : Host.Outcome State Fault Refusal :=
  .next <|
    if 2 ≤ die || (die = 1 && (s.nextGang 0).isSome) then s
    else match s.nextGang die with
      | none => s
      | some u => match s.launch? u.1 u.2.1 with
        | none => s
        | some l =>
          let load (k : Nat) : Nat := maxNat (((s.runFrom k l.gang l.comm).getD []).map fun c => (s.core c).pending.length)
          let best := (s.eligibleCores die l.comm).foldl (fun (b : Option Nat) k => match b with
            | none => some k
            | some j => if load k < load j then some k else some j) none
          match best with
          | none => s
          | some k =>
            let s := s.modSched fun x => { x with unplaced := x.unplaced.filter (· != u) }
            let s := s.modGang u.1 u.2.1 u.2.2 fun g => { g with st := .pending }
            s.appendEntry k ⟨u.1, u.2.1, u.2.2, k, none, false⟩

/-- A head entry has waited 4,096 clocks: its run is kept for it (R122). -/
def execGangHeadTimeout (core : Nat) (s : State) : Host.Outcome State Fault Refusal :=
  .next <| s.modCore core fun c => { c with pending := match c.pending with
    | e :: r => (if e.wait.any (fun t => decide (t + 4096 ≤ s.clk)) then { e with blocking := true } else e) :: r
    | [] => [] }

/-- The head entries of a die, with their cores and runs. -/
def State.heads (s : State) (die : Nat) : List (Nat × PendEntry × Launch × List Nat) :=
  (natsFrom (32 * die) 32).filterMap fun k => match (s.core k).pending.head? with
    | none => none
    | some e => match s.launch? e.ctx e.tag, s.entryRun e with
      | some l, some r => some (k, e, l, r)
      | _, _ => none

/-- The entry a core is kept for: of the blocking heads whose runs hold it, that which has waited longest (R122).
(DESIGN CHOICE: log 153.) -/
def State.keptFor (s : State) (die core : Nat) : Option (Nat × Nat × Nat) :=
  ((s.heads die).filter fun h => h.2.1.blocking && h.2.2.2.contains core).foldl
    (fun (b : Option (Nat × Nat × Nat × Nat)) h =>
      let t := h.2.1.wait.getD s.clk
      match b with
      | none => some (t, h.2.1.ctx, h.2.1.tag, h.2.1.gang)
      | some x => if t < x.1 then some (t, h.2.1.ctx, h.2.1.tag, h.2.1.gang) else some x) none |>.map (·.2)

/-- The context may have waves placed or restored. -/
def State.placeable (s : State) (c : Nat) : Bool :=
  (s.ctx c).saving.isNone && (match (s.ctx c).st with
    | .ready | .resident | .partialSt => true
    | _ => false)

/-- A non-COMM block that holds scratch in the partition keeps its core from COMM entries (R127). (DEDUCED: log 118.) -/
def State.coreTakes (s : State) (core : Nat) (comm : Bool) : Bool :=
  !comm || !(s.waves.any fun w => w.onCore && w.core == core && !w.decl.comm && !w.service && w.st != .ended) &&
    !(s.blocks.any fun b => b.live && !b.emptied && b.core == core && b.scratchSize != 0 &&
      !((s.launch? b.ctx b.tag).any (·.comm)))

/-- A gang's head entry could be placed now. -/
def State.entryFits (s : State) (die : Nat) (h : Nat × PendEntry × Launch × List Nat) : Bool :=
  let (_, e, l, run) := h
  s.placeable e.ctx && run.all (fun k =>
    s.coreTakes k l.comm && s.blockFits k e.ctx l.waves l.width l.decl [] &&
      (match s.keptFor die k with
        | some g => g == (e.ctx, e.tag, e.gang)
        | none => true))

/-! Saved waves that wait for room (R91, R96, R123, R137, R414). -/

/-- The wave is saved, or Reserved, and waits to be restored. -/
def Wave.away (w : Wave) : Bool :=
  !w.service && (match w.st with
    | .saved | .reserved => true
    | .held => !w.onCore
    | _ => false)

/-- The cores a saved wave may be restored on. (DEDUCED: log 117.) -/
def State.homeCore (s : State) (w : Wave) (core : Nat) : Bool :=
  let stays := s.waves.any fun v => v.block == w.block && v.id != w.id && v.onCore && v.st != .ended && v.st != .reserved
  match s.block? w.block with
  | none => false
  | some b =>
    if w.st == .reserved then core = w.core
    else if w.decl.scratch ≠ 0 then core = b.core
    else s.isEligible core w.decl.comm && (!stays || core = b.core)

/-- The handler wave that a Pending vector with WAKE waits for goes before waves of its own PRIO (R414).
(DEDUCED: log 112.) -/
def State.urgent (s : State) (w : Wave) : Bool :=
  !(s.ctx w.ctx).wakeNoticed.isEmpty && (s.handlerWave w.ctx).any (·.id == w.id)

/-- Waves that are on their way off a core. -/
def State.leaving (s : State) (core : Nat) : List Nat :=
  (s.waves.filter fun w => w.onCore && w.core == core && w.stopping && !w.reserve).map (·.id)

/-- Work of higher PRIO that comes before a wave or gang of a PRIO on a core: a saved wave that fits there, or a head
entry whose gang fits once the waves that stop have left. (DEDUCED: log 112.) -/
def State.goesAbove (s : State) (core prio : Nat) : Bool :=
  (s.heads (State.dieOf core)).any (fun h => h.2.2.2.contains core && decide (prio < s.prio h.2.1.ctx) &&
    s.placeable h.2.1.ctx && h.2.2.2.all fun k => s.coreTakes k h.2.2.1.comm &&
      s.blockFits k h.2.1.ctx h.2.2.1.waves h.2.2.1.width h.2.2.1.decl (s.leaving k)) ||
  s.waves.any (fun w => w.away && s.placeable w.ctx && s.homeCore w core && decide (prio < s.prio w.ctx) && s.waveFits core w [])

/-- Work that comes before a wave or gang of a PRIO on a core: what is of higher PRIO, or an urgent handler wave of
equal PRIO. (DEDUCED: log 112, 113.) -/
def State.goesFirst (s : State) (core prio : Nat) : Bool :=
  s.goesAbove core prio || s.waves.any fun w => w.away && s.placeable w.ctx && s.homeCore w core && s.prio w.ctx == prio &&
    s.urgent w && s.waveFits core w []

/-! Eviction (R95). -/

/-- The waves of a core in the order R95 takes them for work of a PRIO. -/
def State.victims (s : State) (core prio : Nat) : List Wave :=
  let ws := s.waves.filter fun w => w.evictable && w.core == core && decide (s.prio w.ctx < prio)
  sortBy (fun w => s.prio w.ctx) ((sortBy (fun (w : Wave) => w.age) ws).reverse)

/-- The waves of a core among which victims are chosen for a block of n waves: where the core lacks a block place, all;
otherwise those on the quadrants that lack something the block needs (R95). (DEDUCED: log 116.) -/
def State.concerned (s : State) (core n width : Nat) (d : Decl) (prio : Nat) : List Wave :=
  let ws := s.onCoreWaves core (s.leaving core)
  let place := decide (16 ≤ (blocksOn ws).length)
  let need (q : Nat) : Nat := ((List.range n).filter (fun w => quadOf core w == q)).length
  (s.victims core prio).filter fun w => place || (need w.quad != 0 && !(roomFor ws w.quad (need w.quad) width d))

/-- The shortest run of victims after which a test holds, none where no run does. (DEDUCED: log 116.) -/
def takeVictims (fits : List Nat → Bool) (out : List Nat) : List Wave → Option (List Nat)
  | [] => if fits out then some [] else none
  | v :: vs => if fits out then some [] else (takeVictims fits (out ++ [v.id]) vs).map (v.id :: ·)

/-- The waves stop, to be saved, once a trap that is due is taken (R99). -/
def State.stopWaves (s : State) (ids : List Nat) : State :=
  let s := ids.foldl State.takeDues s
  { s with waves := s.waves.map fun w => if ids.contains w.id && w.st == .resident then { w with stopping := true } else w }

/-- Evict for the gang of a head entry: on every core of its run what its block lacks, or nothing at all.
(DEDUCED: log 116.) -/
def State.evictFor (s : State) (h : Nat × PendEntry × Launch × List Nat) : State :=
  let (_, e, l, run) := h
  let per := run.map fun k =>
    takeVictims (s.blockFits k e.ctx l.waves l.width l.decl) (s.leaving k)
      (s.concerned k l.waves l.width l.decl (s.prio e.ctx))
  if per.all (·.isSome) then s.stopWaves (per.flatMap fun v => v.getD []) else s

/-! Placement (R111, R112, R122, R126). -/

/-- The age of a wave (R130): when it was first placed, then the admission of its launch, then its grid wave index. -/
def ageOf (clk ord grid : Nat) : Nat := clk * 2 ^ 128 + ord * 2 ^ 32 + grid

/-- s0 to s15 at a wave's start: the parameters, zero beyond PARAMSIZE (R112). -/
def Launch.params (l : Launch) : List Val :=
  let n := l.field 0x25 1
  let bs := ((l.packet.drop 0x50).take (min 48 n)) ++ List.replicate (64 - min 48 n) 0#8
  (List.range 16).map fun i => .ofNat (leNat ((bs.drop (4 * i)).take 4)) false

/-- One block of a gang starts on its core, with its waves. -/
def State.startBlock (s : State) (l : Launch) (gang member core : Nat) : State :=
  let id := s.sched.nextBlock
  let index := gang * l.gang + member
  let gx := l.field 0x10 4
  let gy := l.field 0x14 2
  let b := Block.start id l.ctx l.tag index gang member core (index % gx) (index / gx % gy) (index / gx / gy) l.waves (l.field 0x20 4)
  let wave (k : Nat) : Wave :=
    let grid := index * l.waves + k
    Wave.start (s.sched.nextWave + k) l.ctx l.tag grid k id gang l.width l.decl core (quadOf core k)
      (ageOf s.clk l.ord grid) s.clk (BitVec.ofNat 64 (l.field 0x08 8)) l.params
  let s := s.modSched fun x => { x with nextBlock := id + 1, nextWave := x.nextWave + l.waves }
  let s := s.modCore core fun c => { c with gated := false }
  let s : State := { s with waves := s.waves ++ (List.range l.waves).map wave, blocks := s.blocks ++ [b] }
  let s := if b.scratchSize = 0 then s else s.sharedShrink core
  if (l.gangAt gang).relaunch = 0 then s else s.acquireInval core l.ctx

/-- The context has been placed: a slice begins where none of its waves was on a core, and it is last in its turn
(R91). -/
def State.contextPlaced (s : State) (c die : Nat) : State :=
  let s := if (s.ctx c).st = .ready then s.modCtx c fun x => { x with placedAt := s.clk } else s
  (s.modSched fun x => { x with lastCtx := updAt die (fun _ => c) x.lastCtx }).ctxPlaced c

/-- Place a gang on its run. -/
def State.startGang (s : State) (core : Nat) (e : PendEntry) (l : Launch) (run : List Nat) : State :=
  let s := run.zipIdx.foldl (fun s (k, m) => s.startBlock l e.gang m k) s
  let s := s.modGang e.ctx e.tag e.gang fun g => { g with st := .placed, firstCore := run.headD core }
  let s := s.modLaunch e.ctx e.tag fun l =>
    if l.st = .admitted then { l with st := if l.gangs.any (·.st == .awaiting) then .relaunching else .running } else l
  let s := (s.modCore core fun c => { c with pending := c.pending.drop 1 }).stampHead core
  s.contextPlaced e.ctx (State.dieOf core)

/-- The place of a context in the turn of a die: the one after the context last placed comes first (R91).
(DEDUCED: log 113.) -/
def State.turn (s : State) (die c : Nat) : Nat := (c + 63 - s.sched.lastCtx.getD die 0) % 64

/-- A saved wave of another context of a PRIO whose turn is before a context's could be restored to a core (R91).
(DEDUCED: log 113.) -/
def State.waveBefore (s : State) (core prio c : Nat) : Bool :=
  s.waves.any fun w => w.ctx != c && w.away && s.placeable w.ctx && s.prio w.ctx == prio &&
    decide (s.turn (State.dieOf core) w.ctx < s.turn (State.dieOf core) c) && s.homeCore w core && s.waveFits core w []

/-- A gang of another context of a PRIO whose turn is before a context's could be placed on a core (R91). -/
def State.gangBefore (s : State) (core prio c : Nat) : Bool :=
  let die := State.dieOf core
  (s.heads die).any fun h => h.2.1.ctx != c && s.prio h.2.1.ctx == prio && decide (s.turn die h.2.1.ctx < s.turn die c) &&
    h.2.2.2.contains core && s.entryFits die h

/-- The head entries of a die that may be placed now: those that fit, of the highest PRIO, of the context whose turn it is
(R91, R122). (DEDUCED: log 113.) -/
def State.placeNow (s : State) (die : Nat) : List (Nat × PendEntry × Launch × List Nat) :=
  let can := (s.heads die).filter fun h =>
    s.entryFits die h && !(h.2.2.2.any fun k =>
      s.goesFirst k (s.prio h.2.1.ctx) || s.waveBefore k (s.prio h.2.1.ctx) h.2.1.ctx)
  let top := maxNat (can.map fun h => s.prio h.2.1.ctx)
  let can := can.filter fun h => s.prio h.2.1.ctx == top
  let first := minNat 64 (can.map fun h => s.turn die h.2.1.ctx)
  can.filter fun h => s.turn die h.2.1.ctx == first

/-- The head entry of a core is placed; where its blocks do not fit, lower-PRIO waves are evicted for it (R91, R95,
R122). -/
def execPlaceGang (core : Nat) (s : State) : Host.Outcome State Fault Refusal :=
  .next <| s.deciding fun s =>
    let die := State.dieOf core
    match (s.heads die).find? (·.1 == core) with
    | none => s
    | some h =>
      if (s.placeNow die).any (·.1 == core) then (s.startGang core h.2.1 h.2.2.1 h.2.2.2).poll
      else if s.placeable h.2.1.ctx && !(s.entryFits die h) && h.2.2.2.all (s.coreTakes · h.2.2.1.comm) then s.evictFor h
      else s

/-- A core with an empty list steals the tail entry of the longer of its neighbours' lists (R124). -/
def execSteal (core : Nat) (s : State) : Host.Outcome State Fault Refusal :=
  .next <|
    let base := core / 32 * 32
    let below := base + (core + 31) % 32
    let above := base + (core + 1) % 32
    let from_ := if (s.core above).pending.length ≤ (s.core below).pending.length then below else above
    if 64 ≤ core || !(s.core core).pending.isEmpty || (s.core core).lastSteal.any (fun t => decide (s.clk < t + 64)) then s
    else match (s.core from_).pending.getLast? with
      | none => s
      | some e => match s.launch? e.ctx e.tag with
        | none => s
        | some l => match s.runFrom core l.gang l.comm with
          | none => s
          | some run =>
            if !(run.all fun k => s.coreTakes k l.comm && s.blockFits k e.ctx l.waves l.width l.decl []) then s
            else
              let s := s.modCore from_ fun c => { c with pending := c.pending.dropLast }
              let s := s.modCore core fun c => { c with lastSteal := some s.clk }
              s.appendEntry core { e with run := core, wait := none, blocking := false }

/-! Saving (R95, R96, R423). -/

/-- The waves of a context that its saving still waits for: all on the cores but those in solo mode where a slice ends or
sys.evict asks, and at a slice end those of COMM launches (R127, R137). -/
def State.toSave (s : State) (c : Nat) : List Wave :=
  s.waves.filter fun w => w.ctx == c && w.onCore && !w.service && w.st != .ended &&
    (match (s.ctx c).saving with
      | some .suspend => true
      | some .slice => w.st != .solo && !w.decl.comm
      | some _ => w.st != .solo
      | none => false)

/-- The snapshot's record of a wave (R94). Of several waiting splits the lowest slot's instruction is shown; of a
CPEEK, the STATE of its cell (R353). (DEDUCED: log 98, 99.) -/
def State.waitRecord (s : State) (w : Wave) : List Byte :=
  let pc (k : Nat) : Nat := if w.st == .exited then 0 else (w.split? k).elim 0 (·.pc.toNat)
  let one (p : Split) : Option (Option Wait × Option Op) := match p.wait with
    | some t => if t.kind.counts then some (some t, w.op? t.uid) else none
    | none => (s.peekOf w p).map fun o => (none, some o)
  let shown := w.splits.findSome? one
  let t := shown.bind (·.1)
  let peek := (shown.bind (·.2)).bind fun o => match o.kind, o.pieces with
    | .cpeek out c va, p :: _ => if o.done then none else some (out, va, s.carryState ⟨p.loc, c, va⟩)
    | _, _ => none
  let (op, sub, addr, want, seen) : Nat × Nat × Nat × Nat × Nat := match t with
    | some t => (match t.kind with
      | .path p n => (t.op, p, 0, n, w.counter p)
      | .counter size n => (t.op, t.sub, t.va, n, s.natAt t.loc size)
      | .farCounter _ n _ _ => (t.op, t.sub, t.va, n, 0)
      | .queue n => (t.op, t.sub, t.va, n, s.natAt (t.loc.plus 8) 8)
      | .cell phase => (t.op, t.sub, t.va, phase, s.natAt t.loc 4)
      | .bsync phase => (t.op, t.sub, 0, phase, (s.block? w.block).elim 0 (·.phase))
      | _ => (t.op, t.sub, t.va, 0, peek.elim 0 (·.2.2)))
    | none => (match peek with
      | some (out, va, st) => (0x76, if out then 1 else 0, va, 0, st)
      | none => (0, 0, 0, 0, 0))
  leBytes 4 w.grid ++ leBytes 1 (if w.st == .exited then 0 else w.splits.length) ++ leBytes 1 op ++ leBytes 2 sub ++
    [0, 1, 2, 3].flatMap (fun k => leBytes 8 (pc k)) ++ leBytes 8 addr ++ leBytes 8 want ++ leBytes 8 seen

/-- Write the synchronisation snapshot (R94). (DEDUCED: log 98, 129.) -/
def State.writeSnapshot (s : State) (c : Nat) : State :=
  let base := (s.ctx c).savebase + 0x10000
  let live := sortBy (fun (w : Wave) => w.grid) (s.waves.filter fun w => w.ctx == c && w.st != .ended && !w.service)
  let recs := live.take 8191
  let head := leBytes 4 c ++ leBytes 4 live.length ++ leBytes 4 recs.length ++ leBytes 4 0 ++ leBytes 8 (s.ctx c).waitclk ++
    List.replicate 40 0#8
  let bytes := head ++ recs.flatMap s.waitRecord
  { s with mem := s.mem.store base (pbytes false bytes) }

/-- The result of the last context command (R89). -/
def State.cmdStatus (s : State) (c v : Nat) : State := s.setEntry c 0x5C 4 v

/-- Every wave that had to leave the cores has: the context's transition is made (R88, R89, R93, R107).
(DEDUCED: log 32, 105; DESIGN CHOICE: log 146.) -/
def State.finishSaving (s : State) (c : Nat) : State :=
  if !(s.toSave c).isEmpty then s
  else
    let done (s : State) : State := s.modCtx c fun x => { x with saving := none }
    let running (st : CtxState) : Bool := st == .ready || st == .resident || st == .partialSt
    match (s.ctx c).saving with
    | none => s
    | some .slice | some .evict =>
      let s := done s
      if (s.ctx c).st = .resident || (s.ctx c).st = .partialSt then s.setCtxState c .ready else s
    | some .suspend =>
      let s := done s
      let s := if running (s.ctx c).st then s.setCtxState c .suspended else s
      (s.modDev fun d => { d with cmdOn := d.cmdOn.filter (· != c) }).cmdStatus c 0
    | some .stall =>
      let s := (done s).writeSnapshot c
      let s := s.event c 0 ⟨Cause.waitBudget.code, Cause.waitBudget.claimClass, 2, 0xFFFFFFFF, 0, 0, 0⟩
      if running (s.ctx c).st then s.setCtxState c .stalled else s

/-- Begin to save a context's waves: traps that are due are taken first (R99); Reserved waves are saved already,
Resident and Held ones stop (R137). (DEDUCED: log 107.) -/
def State.startSaving (s : State) (c : Nat) (why : Saving) : State :=
  let s := ((s.liveWaves c).map (·.id)).foldl State.takeDues s
  let s := s.modCtx c fun x => { x with saving := some why }
  let one (w : Wave) : Wave :=
    if w.ctx != c || w.service || (why == .slice && w.decl.comm) then w
    else match w.st with
      | .reserved => { w with st := .saved, onCore := false }
      | .resident => if w.onCore then { w with stopping := true, reserve := false } else w
      | .held => if w.onCore then { w with stopping := true } else w
      | _ => w
  { s with waves := s.waves.map one }

/-- A core on which no wave is left becomes idle (R252). -/
def State.coreIdle (s : State) (core : Nat) : State :=
  if s.waves.any (fun w => w.onCore && w.core == core && w.st != .ended) then s
  else s.modCore core fun c => { c with idleAt := s.clk }

/-- A wave is ready to be saved: what it has issued is complete and its last issue is 128 clocks old (R95, R423).
(DEDUCED: log 107.) -/
def State.saveReady (s : State) (w : Wave) : Bool :=
  w.onCore && (w.stopping || s.mustLeave w) && (w.st == .resident || w.st == .held) &&
    w.held.isEmpty && decide (w.lastIssue + 128 ≤ s.clk) &&
    w.ops.all (fun o => o.done || (match o.kind with
      | .cpeek _ _ _ => true
      | _ => false)) &&
    w.splits.all (fun p => p.wait.all (·.kind.counts))

/-- A wave that leaves its quadrant takes nothing of the journal with it: where a checkpoint of it keeps pre-images,
the wave takes an implied region entry, before what it waits in, and keeps that checkpoint alone (R141, R212).
(DEDUCED: log 145.) -/
def Wave.leaveJournal (w : Wave) (clk : Nat) : Wave :=
  if w.st == .held || w.ckpts.all (·.accUndo.isEmpty) then w
  else
    let v := w.impliedEntry clk
    (v.ckpts.filter (!·.entry)).foldl (fun w k => w.dropCheckpoint k clk) v

/-- The spill engine has written a stopped wave to the save area. Its own core's dirty lines of the context are
written back first: the implied release at device scope, which covers that at block scope (R96). (DESIGN CHOICE: log
108.) -/
def execWaveSaveComplete (wave : Nat) (s : State) : Host.Outcome State Fault Refusal :=
  .next <| match s.wave? wave with
    | none => s
    | some w =>
      if !s.saveReady w then s
      else
        let s := s.writebackWhere w.core (fun f => f.ctx == w.ctx) (0, 0)
        if s.msgs.any (fun m => m.ctx == w.ctx && (match m.kind with
            | .writeback c _ _ _ _ _ _ => c == w.core
            | _ => false)) then s
        else
          let s := s.modQuad w.quadNo fun q => { q with latch := q.latch.filter (·.wave != w.id) }
          let keep := w.reserve && w.st == .resident && (s.ctx w.ctx).saving.isNone
          let left := w.leaveJournal s.clk
          let w : Wave := { left with
            st := if w.st == .held then .held else if keep then .reserved else .saved
            onCore := keep, stopping := false, reserve := false, yielded := false
            regs := if keep then left.regs.map (fun r => { r with spilled := true }) else left.regs }
          let s := (((s.putWave w).coreIdle w.core).writeSave w.ctx).leaveCores w.ctx
          let s := if (s.ctx w.ctx).saving.isNone then s.ctxEvicted w.ctx else s
          (s.finishSaving w.ctx).poll

/-! Restoration (R91, R96, R123, R137). -/

/-- The wave on its quadrant again: its waits issue again, a window the spill engine holds stays there. -/
def Wave.restored (w : Wave) (core clk : Nat) : Wave :=
  let w := w.leaveWaits clk
  let w : Wave := { w with
    st := if w.st == .held then .held else .resident, onCore := true, core, quad := quadOf core w.wid, stopping := false
    regs := w.regs.map fun r => { r with spilled := w.windows.any fun v => v.spilled && v.map.any (·.2 == r.id) }
    splits := w.splits.map (·.renew clk) }
  if w.st == .held then w else w.checkpoint clk false

/-- A Saved, Reserved or Held wave is restored to a core; it goes to the quadrant of R120. Where it fits on no core it
may go to, lower-PRIO waves of this one are evicted for it (R91, R95, R414). (DEDUCED: log 117.) -/
def execRestoreWave (wave core quad : Nat) (s : State) : Host.Outcome State Fault Refusal :=
  .next <| s.deciding fun s => match s.wave? wave with
    | none => s
    | some w =>
      if 64 ≤ core || quad ≠ quadOf core w.wid || !w.away || !(s.placeable w.ctx) || !(s.homeCore w core) then s
      else if s.waveFits core w [] then
        if s.goesAbove core (s.prio w.ctx) || (!(s.urgent w) && (s.goesFirst core (s.prio w.ctx) ||
            s.waveBefore core (s.prio w.ctx) w.ctx || s.gangBefore core (s.prio w.ctx) w.ctx)) then s
        else
          let s := if core = w.core then s else s.acquireInval core w.ctx
          let s := s.putWave (w.restored core s.clk)
          let s := s.modBlock w.block fun b => { b with core }
          let s := s.modCore core fun c => { c with gated := false }
          (s.contextPlaced w.ctx (State.dieOf core)).poll
      else if !((List.range 64).any fun k => s.homeCore w k && s.waveFits k w []) then
        let ws := s.onCoreWaves core (s.leaving core)
        let place := !(ws.any (·.block == w.block)) && decide (16 ≤ (blocksOn ws).length)
        let concerned := (s.victims core (s.prio w.ctx)).filter fun v => place || v.quad == quad
        match takeVictims (s.waveFits core w) (s.leaving core) concerned with
        | some vs => s.stopWaves vs
        | none => s
      else s

/-! Slices and the budget (R91, R93). -/

/-- Other work of equal or higher PRIO is Ready and needs what the context holds (R91). -/
def State.sliceWanted (s : State) (c : Nat) : Bool :=
  let mine := (s.waves.filter fun w => w.ctx == c && w.onCore && !w.decl.comm).map (·.id)
  let ready (d : Nat) : Bool := d != c && (s.ctx d).st == .ready && decide (s.prio c ≤ s.prio d)
  [0, 1].any (fun die => (s.heads die).any fun h =>
    ready h.2.1.ctx && !(s.entryFits die h) &&
      h.2.2.2.all (fun k => s.blockFits k h.2.1.ctx h.2.2.1.waves h.2.2.1.width h.2.2.1.decl mine)) ||
  s.waves.any (fun w => w.away && ready w.ctx &&
    !((List.range 64).any fun k => s.homeCore w k && s.waveFits k w []) &&
    (List.range 64).any fun k => s.homeCore w k && s.waveFits k w (mine.filter fun id => (s.wave? id).any (·.core == k)))

/-- A context's slice is over (R91): it leaves the cores where other work needs them, or a new slice begins. -/
def execSliceEnd (ctx : Nat) (s : State) : Host.Outcome State Fault Refusal :=
  .next <| s.deciding fun s =>
    let x := s.ctx ctx
    let us := if x.slice = 0 then 2000 else x.slice
    if ctx = 0 || !(x.st == .resident || x.st == .partialSt) || x.saving.isSome || s.clk < x.placedAt + 2000 * us then s
    else if s.sliceWanted ctx then ((s.startSaving ctx .slice).finishSaving ctx).poll
    else s.modCtx ctx fun x => { x with placedAt := s.clk }

/-- WAITCLK exceeds the budget (R93). -/
def execWaitBudgetExceeded (ctx : Nat) (s : State) : Host.Outcome State Fault Refusal :=
  .next <|
    let x := s.ctx ctx
    let ms := if x.budget = 0 then 200 else x.budget
    if ctx = 0 || x.saving.isSome || !(s.waitRuns ctx) || x.waitclk ≤ 2000000 * ms then s
    else ((s.startSaving ctx .stall).finishSaving ctx).poll

/-! The end of a wave (R125, R128, R137). -/

/-- The block ends with its last wave: its scratch takes no room from then on (R123). What stands in it can still be
named by the gang's other members until the gang is Done. (DESIGN CHOICE: log 141.) -/
def State.blockOver (s : State) (id : Nat) : State :=
  if s.waves.any fun w => w.block == id && w.st != .ended && !w.service then s else s.modBlock id fun b => { b with emptied := true }

/-- The gang's waves have all ended: it is Done, what its blocks' scratch holds is given up (R123), and its launch
completes with its last gang (R125, R128). (DESIGN CHOICE: log 141.) -/
def State.gangDone (s : State) (c t g : Nat) : State :=
  match s.launch? c t with
  | none => s
  | some l =>
    if (l.gangAt g).st != .placed || !((s.gangWaves c t g).all (·.st == .ended)) then s
    else
      let s : State := { s with blocks := s.blocks.map fun b => if b.ctx == c && b.tag == t && b.gang == g then
        { b with live := false, scratch := .empty, scratchSize := 0 } else b }
      ((s.modGang c t g fun x => { x with st := .done }).noticeGang c t g).completeLaunch c t

/-- Nothing of an Exited wave is in flight or held, and no trap of it is due. -/
def State.waveOver (s : State) (w : Wave) : Bool :=
  w.held.isEmpty && w.due.isEmpty && w.ops.all (·.done) && !(s.msgs.any fun m => m.wave == w.id) &&
    !(s.link.out.any (·.wave == w.id)) && !(s.link.intWait.any (·.1 == w.id)) && !(s.link.sendWait.any (·.wave == w.id))

/-- An Exited wave Ends; an ended one of which nothing is left is gone. -/
def execWaveEnd (wave : Nat) (s : State) : Host.Outcome State Fault Refusal :=
  .next <| match s.wave? wave with
    | none => s
    | some w =>
      if !s.waveOver w then s
      else match w.st with
        | .exited =>
          let s := s.putWave { w with
            st := .ended, onCore := false, splits := [], parked := [], ops := [], ckpts := [], regs := [], ahead := [], frozen := none
            spend := [] }
          let s := s.modQuad w.quadNo fun q => { q with latch := q.latch.filter (·.wave != w.id) }
          ((((s.coreIdle w.core).blockOver w.block).gangDone w.ctx w.tag w.gang).leaveCores w.ctx |>.ctxOver w.ctx).finishSaving w.ctx |>.poll
        | .ended =>
          let named := s.homes.groups.any fun g => g.queue.any (·.1 == w.id) || g.contrib.any (·.1 == w.id)
          if w.groups.any (·.isSome) || named then s else { s with waves := s.waves.filter (·.id != w.id) }
        | _ => s

end Sys2Proof.Machine
end

