-- ==== Sys2Proof/Machine/Context.lean ====
section
/-! DEFINITION. Context commands (R83 to R90, R101, R106), the communication partition (R127). -/

namespace Sys2Proof.Machine

/-! The entry (R83 to R85). -/

/-- Every field of a context's entry is in its range. (DEDUCED: log 20.) -/
def State.entryFit (s : State) (c : Nat) : Bool :=
  let f := s.entry c
  let pow2 (n : Nat) : Bool := (List.range 17).any fun k => n == 2 ^ k
  let localPage (a align : Nat) : Bool := isLocalVa a && a % align = 0
  f 0x04 1 ≤ 7 && f 0x05 1 ≤ 6 && f 0x10 8 % 4096 = 0 && f 0x10 8 < 0x6000000000 && f 0x18 8 % 65536 = 0 &&
    f 0x20 8 % 65536 = 0 && 2 ^ 20 ≤ f 0x20 8 && localPage (f 0x28 8) 128 && 1 ≤ f 0x30 4 && f 0x30 4 ≤ 64 &&
    localPage (f 0x38 8) 128 && f 0x40 4 ≤ 1024 && f 0x48 8 ≠ 0 && localPage (f 0x48 8) 8192 &&
    f 0x50 8 % 4096 = 0 && f 0x50 8 < 0x6000000000 && 128 ≤ f 0x58 4 && f 0x58 4 ≤ 65536 && pow2 (f 0x58 4)

/-- The list with n entries: those there, then new ones. (DEDUCED: log 75.) -/
def resize (n : Nat) (l : List Queue) : List Queue := l.take n ++ List.replicate (n - l.length) { Queue.fresh with valid := false }

/-- The software-written fields are taken from the entry; a queue set grows or shrinks to its count, and a queue that
is new is read as at CREATE (R84, R307, R309); a larger SCRATCH takes room of the shared caches it holds scratch on
(R233). (DEDUCED: log 75, 132.) -/
def State.latchEntry (s : State) (c : Nat) : State :=
  let f := s.entry c
  let oldL := (s.ctx c).lqs.length
  let oldE := (s.ctx c).eqs.length
  let s := s.modCtx c fun x => { x with
    scratch := f 0x05 1, slice := f 0x08 4, budget := f 0x0C 4, ptroot := f 0x10 8, savebase := f 0x18 8, savesize := f 0x20 8
    lqbase := f 0x28 8, eqbase := f 0x38 8, msix := f 0x44 4, claim := f 0x34 4, claimNext := []
    uipage := f 0x48 8, evbase := f 0x50 8, evcount := f 0x58 4
    lqs := resize (f 0x30 4) x.lqs, eqs := resize (f 0x40 4) x.eqs }
  let s := ((s.blocks.filter fun b => b.live && !b.emptied && b.ctx == c && b.scratchSize != 0).map (·.core)).foldl State.sharedShrink s
  let s := (natsFrom oldL ((s.ctx c).lqs.length - oldL)).foldl (fun s q => s.loadQueue c false q true) s
  (natsFrom oldE ((s.ctx c).eqs.length - oldE)).foldl (fun s q => s.loadQueue c true q true) s

/-- The context has live waves, or launches admitted or queued. -/
def State.hasWork (s : State) (c : Nat) : Bool :=
  !(s.liveWaves c).isEmpty || s.launchesLeft c

/-! Commands (R89). -/

/-- CREATE: 0 OK, 1 BADSTATE, 2 BADFIELD. -/
def State.createCtx (s : State) (c : Nat) : State :=
  if (s.ctx c).st ≠ .free then s.cmdStatus c 1
  else if !s.entryFit c then s.cmdStatus c 2
  else
    let s := (s.dropTlb c 0).modCtx c fun _ => .free
    let s := ((s.setCtxState c .created).setEntry c 0x60 8 0).setEntry c 0x68 8 0
    (s.latchEntry c).cmdStatus c 0

/-- SUSPEND: CMDSTAT is written once the waves are saved. -/
def State.suspendCtx (s : State) (c : Nat) : State :=
  match (s.ctx c).st with
  | .created | .stalled => (s.setCtxState c .suspended).cmdStatus c 0
  | .ready | .resident | .partialSt => (s.startSaving c .suspend).finishSaving c
  | _ => s.cmdStatus c 1

/-- RESUME. -/
def State.resumeCtx (s : State) (c : Nat) : State :=
  let go (st : CtxState) (s : State) : State := ((s.setCtxState c st).latchEntry c).cmdStatus c 0
  let st := (s.ctx c).st
  if !(st == .suspended || st == .stalled || st == .faulted) then s.cmdStatus c 1
  else if !s.entryFit c then s.cmdStatus c 2
  else if st = .stalled then go .ready ((s.modCtx c fun x => { x with waitclk := 0 }).setEntry c 0x60 8 0)
  else go (if s.hasWork c then .ready else .created) s

/-- The pushes that wait at a queue of a context being destroyed are over; the sequence they return is a free value.
(DEDUCED: log 74.) -/
def State.endPushes (s : State) (c : Nat) (eng : Bool) (q : Nat) : State :=
  let ps := (s.queue c eng q).pushes
  let s := s.modQueue c eng q fun x => { x with pushes := [] }
  ps.foldl (fun s p =>
    let (v, s) := s.draw
    let s := s.modWave p.wave fun w => match w.op? p.uid with
      | none => w
      | some o =>
        let w := if o.dests.isEmpty then w else w.deliver64 o p.lane ⟨v, false⟩
        w.modOp p.uid fun o => { o with pieces := o.pieces.map (fun k => if k.lane == p.lane then { k with done := true } else k) }
    s.settleOp p.wave p.uid) s

/-- A queue of a context being destroyed stops once its chunks in progress have finished (R90, R313, R325). -/
def State.endQueue (s : State) (c : Nat) (eng : Bool) (q : Nat) : State :=
  let x := s.queue c eng q
  let s := (x.pushed.foldl (fun s p => if eng then s else s.settleChild p.2) s).modQueue c eng q fun x => { x with pushed := [] }
  let s := s.endPushes c eng q
  if x.entry.any (fun e => !e.claims.isEmpty) || !x.left.isEmpty then
    s.modQueue c eng q fun x => { x with stopping := true, engine := none }
  else s.stopQueue c eng q

/-- The tables under a node map the 64 KiB page of a place; `fuel` is the levels left. Entries that nothing has
written are not present (R357). (DEDUCED: log 56.) -/
def State.maps (s : State) (l : Loc) (node : Nat) : Nat → Bool
  | 0 => false
  | level + 1 =>
    (s.mem.cells.filter fun x => node ≤ x.1 && x.1 < node + 4096 && (x.1 - node) % 8 == 0).any fun x =>
      let e := s.pnat x.1 8
      let frame := bitsOf e 51 12 * 4096
      if !bitAt e 0 then false
      else if level < 3 && bitAt e 4 then
        !leafMalformed e (level + 1) && bitAt e 5 == (l.sp == .host) && frame ≤ l.addr && l.addr < frame + pageSize (level + 1)
      else if level = 0 || nodeMalformed e (level + 1) then false
      else s.maps l (if level = 1 then bitsOf e 51 8 * 256 else frame) level

/-- DESTROY releases a page that the context's tables map and those of no other living context do, and its blocks'
scratch: the contributions held for a cell there are discarded (R275). (DEDUCED: log 56.) -/
def State.releaseKeys (s : State) (c : Nat) : State :=
  let mapped (l : Loc) (k : Nat) : Bool := s.maps l (s.ctx k).ptroot 5
  let gone (l : Loc) : Bool := match l.sp with
    | .scratch b => (s.block? b).all (·.ctx == c)
    | _ => mapped l c && !((List.range 64).any fun k => k != c && (s.ctx k).st.alive && mapped l k)
  s.modHomes fun h => { h with keys := h.keys.filter fun k => !gone k.loc }

/-- DESTROY (R90). (DEDUCED: log 56.) -/
def State.destroyCtx (s : State) (c : Nat) : State :=
  match (s.ctx c).st with
  | .free | .draining | .destroyed => s.cmdStatus c 1
  | _ =>
    let s := (s.setCtxState c .draining).modCtx c fun x => { x with saving := none }
    let s := (s.waves.filter fun w => w.ctx == c && !w.service && w.st != .ended).foldl (fun s w => s.killWave w.id) s
    let s := (s.sched.launches.filter fun l => l.ctx == c && !l.final).foldl (fun s l => s.killLaunch l.ctx l.tag) s
    let s : State := { s with blocks := s.blocks.map fun b => if b.ctx == c then
      { b with live := false, scratch := .empty, scratchSize := 0 } else b }
    let s := (List.range (s.ctx c).lqs.length).foldl (fun s q => s.endQueue c false q) s
    let s := (List.range (s.ctx c).eqs.length).foldl (fun s q => s.endQueue c true q) s
    let s := (s.dropTlb c 0).releaseKeys c
    let s := if s.engines.any (fun g => g.work.any (·.1 == c)) then s else s.setCtxState c .destroyed
    s.cmdStatus c 0

/-- A Held wave is released (R101, R106): resumed on its quadrant, or Saved and resumed where it is restored; the trap of
sys.pend is then the first that falls due. (DEDUCED: log 110.) -/
def State.releaseHold (s : State) (w : Wave) : State :=
  let s := s.resetWait w.ctx
  if w.onCore then s.returnFromTrap w.id
  else
    let slot := w.frozen.elim 0 (·.slot)
    let pend := w.sys.pend
    let v : Wave := { w.thaw s.clk with st := .saved }
    if pend = 0#64 then s.putWave v
    else
      let pc : DWord := (pend >>> 8) <<< 2
      let cause := Cause.ofCode (pend.toNat % 256)
      let hit := v.pended.find? (fun d => d.trap.cause == cause && d.ipc == pc)
      let lanes := (v.split? slot).elim v.live (·.mask)
      let r : Raised := hit.getD ⟨⟨cause, .reported, lanes, 0, 0⟩, pc, pc, v.issueNo, s.clk⟩
      s.putWave { v with pended := [], due := r :: v.due, sys := { v.sys with pend := 0 } }

/-- WRESUME. (DEDUCED: log 110.) -/
def State.wresumeWave (s : State) (c tag grid : Nat) : State :=
  match (s.ctx c).st with
  | .ready | .resident | .partialSt | .suspended | .stalled | .faulted =>
    (match s.waves.find? fun w => w.ctx == c && w.tag == tag && w.grid == grid && w.st == .held && !w.service with
      | some w => (s.releaseHold w).cmdStatus c 0
      | none => s.cmdStatus c 1)
  | _ => s.cmdStatus c 1

/-- Perform a context command (R89): an unlisted code is BADFIELD whatever the context.
(DEDUCED: log 31; DESIGN CHOICE: log 167.) -/
def State.contextCommand (s : State) (code c tag grid : Nat) : State :=
  if code = 0 || 5 < code then s.cmdStatus c 2
  else if c = 0 then s.cmdStatus 0 3
  else match code with
    | 1 => s.createCtx c
    | 2 => s.suspendCtx c
    | 3 => s.resumeCtx c
    | 4 => s.destroyCtx c
    | _ => s.wresumeWave c tag grid

/-- What a command must wait for: an earlier command that names the context, a stall being made, the table entry at its
home (R84, R447). -/
def State.commandNeeds (s : State) (code c : Nat) : Option State :=
  if (s.ctx c).saving = some .suspend || (code = 2 && (s.ctx c).saving = some .stall) then some s
  else if code = 1 || code = 3 then s.homeNeeds ⟨.dev, s.entryAddr c⟩ 256 none true
  else none

/-- A context command of the host performed: a SUSPEND whose waves are not saved yet is in progress (R447). -/
def State.performCommand (s : State) (code c tag grid : Nat) : State :=
  let s := s.contextCommand code c tag grid
  let s := if code = 2 && (s.ctx c).saving = some .suspend then s.modDev fun d => { d with cmdOn := some c } else s
  s.poll

/-- A context command of the host, through CTXCMD: it waits for those written before it, and for what it needs (R447).
(DEDUCED: log 104.) -/
def State.hostCommand (s : State) (code c tag grid : Nat) : State :=
  if !s.dev.on || s.dev.st ≠ .ready || 64 ≤ c then s
  else if s.commandBusy then s.pushCommand ⟨false, code, c, tag, grid, 0⟩
  else match s.commandNeeds code c with
    | some s => s.pushCommand ⟨false, code, c, tag, grid, 0⟩
    | none => s.performCommand code c tag grid

/-- The oldest waiting command of the host is performed, where none is in progress and it needs nothing more (R447). -/
def State.runCommand (s : State) : State :=
  match s.dev.cmds with
  | [] => s
  | k :: rest =>
    if s.dev.cmdOn.isSome then s
    else if k.queue then match s.hostQueueNeeds k.ctx k.qaddr with
      | some s => s
      | none => (s.modDev fun d => { d with cmds := rest }).performQueue k.ctx k.qaddr (QueueOp.ofCode k.code)
    else match s.commandNeeds k.code k.ctx with
      | some s => s
      | none => (s.modDev fun d => { d with cmds := rest }).performCommand k.code k.ctx k.tag k.grid

/-- CREATE (R85, R89). (DEDUCED: log 125.) -/
def execCreate (ctx : Nat) (s : State) : Host.Outcome State Fault Refusal := .next (s.hostCommand 1 ctx 0 0)

/-- SUSPEND (R89). -/
def execSuspend (ctx : Nat) (s : State) : Host.Outcome State Fault Refusal := .next (s.hostCommand 2 ctx 0 0)

/-- RESUME (R85, R89, R116). -/
def execResume (ctx : Nat) (s : State) : Host.Outcome State Fault Refusal := .next (s.hostCommand 3 ctx 0 0)

/-- DESTROY (R90). -/
def execDestroy (ctx : Nat) (s : State) : Host.Outcome State Fault Refusal := .next (s.hostCommand 4 ctx 0 0)

/-- WRESUME (R89, R101, R106). -/
def execWresume (ctx : Nat) (tag : Nat) (grid : Nat) (s : State) : Host.Outcome State Fault Refusal :=
  .next (s.hostCommand 5 ctx tag grid)

/-- The scheduler examines the head packet of a launch queue: the queues of a context in turn (R116). -/
def execLaunchExamine (ctx queue : Nat) (s : State) : Host.Outcome State Fault Refusal :=
  .next <|
    let x := s.ctx ctx
    let n := x.lqs.length
    let turn (q : Nat) : Nat := (q + n - x.lqNext % n) % n
    let ahead := (List.range n).any fun q => turn q < turn queue && (x.lqs.getD q .fresh).st == .running &&
      (x.lqs.getD q .fresh).entry.isNone
    if n ≤ queue || ahead || !(x.lqs.getD queue .fresh).valid then s
    else ((s.examine ctx queue).modCtx ctx fun x => { x with lqNext := (queue + 1) % n }).poll

/-! The communication partition (R127). -/

/-- Set the partitions: non-COMM waves leave cores taken, but for those whose blocks hold scratch there; entries whose run
is gone return to the sequence ahead of the others; a gang no die has cores for is noticed once per launch.
(DEDUCED: log 118.) -/
def State.setPartition (s : State) (n0 n1 : Nat) : State :=
  let s := s.modSched fun k => { k with partition := [n0, n1] }
  let s : State := { s with waves := s.waves.map fun w =>
    if w.onCore && s.mustLeave w && (w.st == .resident || w.st == .held) then { w with stopping := true }
    else if w.st == .reserved && s.mustLeave w then { w with st := .saved, onCore := false } else w }
  let back := s.cores.flatMap fun c => c.pending.filter fun e => (s.entryRun e).isNone
  let ord (e : PendEntry) : Nat := (s.launch? e.ctx e.tag).elim 0 (fun l => l.ord * 2 ^ 32 + e.gang)
  let back := (sortBy ord back).map fun e => (e.ctx, e.tag, e.gang)
  let s : State := { s with cores := s.cores.map fun c => { c with
    pending := c.pending.filter fun e => !(back.contains (e.ctx, e.tag, e.gang)) } }
  let s := (List.range 64).foldl State.stampHead s
  let s := s.modSched fun k => { k with unplaced := back ++ k.unplaced }
  let s := back.foldl (fun s e => s.modGang e.1 e.2.1 e.2.2 fun g => { g with st := .unplaced }) s
  let none_ (l : Launch) : Bool := !l.final && !(l.gang ≤ s.eligible 0 l.comm || l.gang ≤ s.eligible 1 l.comm) &&
    l.gangs.any (fun g => g.st == .unplaced) && !(l.notices.contains 0x07)
  let s := (s.sched.launches.filter none_).foldl (fun s l =>
    (s.notice l.ctx 0x07 l.addr 0).modLaunch l.ctx l.tag fun l => { l with notices := insertNat 0x07 l.notices }) s
  s.poll

end Sys2Proof.Machine
end

