-- ==== Sys2Proof/Machine/Tile.lean ====
section
/-! DEFINITION. The tile and the accumulator: TLD, TTAG, MMA, MMAS, GATHR, ACCZ, ACCLD, ACCST, ACCRD, ACCWR, the array, and
draw permits (R207 to R230). -/

namespace Sys2Proof.Machine

/-! Permits (R228, R229). -/

/-- The head of the queue: the oldest instruction not started. -/
def Quad.head? (q : Quad) : Option ArrayOp := q.array.find? (·.started.isNone)

/-- MMA and MMAS need a permit. -/
def ArrayOp.needsPermit (a : ArrayOp) : Bool := a.op == 0x62 || a.op == 0x63

/-- An MMA or MMAS at the head without a permit requests one. -/
def State.askPermit (s : State) (quad : Nat) : State :=
  s.modQuad quad fun q => if q.head?.any (·.needsPermit) && q.permit == .none then { q with permit := .requested s.clk false } else q

/-- The array is idle: nothing it has started is still to complete. (DEDUCED: log 66.) -/
def Quad.idle (q : Quad) : Bool := q.array.all (·.started.isNone)

/-- The most quadrants of a die that may hold permits under a cap (R448). -/
def permitLimit (cap : Nat) : Nat := max 8 (128 * (cap - 1000) / 1400)

/-- The cap that holds for grants now: a new one counts a microsecond after its write (R448). -/
def Device.capNow (d : Device) : Nat := d.capNext.foldl (fun c e => if e.2 ≤ d.clk then e.1 else c) d.cap

/-- PERMIT. -/
def execPermit (g : Gen) (s : State) : Host.Outcome State Fault Refusal :=
  issueWave (.permit g) (fun x =>
    .ok (x.s.modQuad x.w.quadNo fun q => if q.permit == .none then { q with permit := .requested x.clk false } else q)) s

/-- PERMIT.REL. -/
def execPermitRel (g : Gen) (s : State) : Host.Outcome State Fault Refusal :=
  issueWave (.permitRel g) (fun x =>
    .ok (x.s.modQuad x.w.quadNo fun q => match q.permit with
      | .held _ => ({ q with release := true } : Quad).tryRelease
      | _ => q)) s

/-- A limit holds back the grants of a die: eight in 128 clocks, or the cap (R228, R448). -/
def State.grantsLimited (s : State) (die : Nat) : Bool :=
  let held := ((natsFrom (128 * die) 128).filter fun n => decide (n < s.quads.length) && (match (s.quad n).permit with
    | .held _ => true
    | _ => false)).length
  decide (8 ≤ ((s.dev.grants.getD die []).filter fun c => s.clk < c + 128).length) || decide (permitLimit s.dev.capNow ≤ held)

/-- The governor of a die grants the request made first, ties to the lower quadrant, within its two limits. -/
def execPermitGrant (die : Nat) (s : State) : Host.Outcome State Fault Refusal :=
  .next <|
    let mine := (natsFrom (128 * die) 128).filter (· < s.quads.length)
    let asked := mine.filterMap fun n => match (s.quad n).permit with
      | .requested c _ => some (c, n)
      | _ => none
    match sortBy (fun (e : Nat × Nat) => e.1) asked with
    | [] => s
    | (_, n) :: _ =>
      if s.grantsLimited die then s
      else
        let recent := (s.dev.grants.getD die []).filter fun c => s.clk < c + 128
        let s := s.modDev fun d => { d with grants := updAt die (fun _ => recent ++ [d.clk]) d.grants }
        s.modQuad n fun q => { q with permit := .held s.clk }

/-- A permit is returned after 1,024 clocks in which the array is idle. (DEDUCED: log 66.) -/
def execPermitIdleReturn (quad : Nat) (s : State) : Host.Outcome State Fault Refusal :=
  .next <| (s.modQuad quad fun q => match q.permit with
    | .held c => if q.idle && c + 1024 ≤ s.clk then { q with permit := .none, release := false } else q
    | _ => q).askPermit quad

/-! Holding at issue (R214). -/

namespace Iss

/-- An earlier matrix instruction of the wave is pending on what this one names, and no lookahead exempts it.
(DEDUCED: log 60.) -/
def matrixHeld (x : Iss) (tile acc : Option Nat) : Bool :=
  x.s.earlierOn x.w x.no tile acc fun o => !(x.w.ahead.any fun a => a.uid == o.uid && a.slot == x.sp.slot)

/-- The quadrant's queue is full. (DEDUCED: log 61.) -/
def queueFull (x : Iss) : Bool := 4 ≤ ((x.s.quad x.w.quadNo).array.filter (·.started.isNone)).length

/-- Put an instruction in the array queue. -/
def enqueue (x : Iss) (w : Wave) (a : ArrayOp) : State :=
  ((x.s.putWave w).modQuad w.quadNo fun q => { q with array := q.array ++ [a] }).askPermit w.quadNo

/-- What every queue entry of the instruction says. -/
def arrayOp (x : Iss) (acc : Nat) : ArrayOp :=
  { wave := x.w.id, uid := x.uid, no := x.no, op := (encOp x.enc).toNat, sub := 0, acc, tile := 0, fmt := 0, gathered := false,
    count := 0, lanes := x.act, cols := [], vals := [], started := none }

/-- A TLD or GATHR whose tile has been read since the oldest retained checkpoint (R215): a read in the current region
makes it take an implied region entry; a checkpoint; and it writes 128 clocks after that. -/
def reload (x : Iss) (t : Nat) : Wave :=
  let w := x.w
  match lookupKey t w.tileRead, w.ckpts.find? (w.retains · x.clk) with
  | some reader, some old =>
    if reader ≤ old.no then w
    else
      let w := if w.regionEntry.any (fun k => k.no < reader) then w.newRegion x.clk else w
      { w.checkpoint x.clk false with sinceCk := w.sinceCk, atLine := w.atLine ++ [(x.uid, x.clk + 128)] }
  | _, _ => w

end Iss

/-! Loads of tiles (R221, R223). -/

/-- Pieces of rows at places: `dst` is where row k lands. -/
def State.rowPieces (s : State) (w : Wave) (no : Nat) (ps : List (Nat × Place)) (len : Nat) (dst : Nat → Nat) : List Piece :=
  ps.flatMap fun p => match p.2 with
    | .mem l => (List.range (len / 32)).map fun j => s.pieceOf w no p.1 (l.plus (32 * j)) 32 (dst p.1 + 32 * j)
    | _ => []

/-- Issue the reads of a TLD, GATHR or ACCLD: rows of `len` bytes at their places. (DEDUCED: log 63.) -/
def Iss.loadRows (x : Iss) (m : Mem) (s : State) (w : Wave) (o : Op) (ps : List (Nat × Place)) (len : Nat) (dst : Nat → Nat) :
    Res :=
  let far := Iss.isFar ps
  let overlap := ps.any fun p => match p.2 with
    | .far r g f => s.rankKind r = 1 && x.w.heldAt r g f len
    | _ => false
  if far && !x.w.streamLeft then x.exhausted s
  else if x.full (x.requests ps) || overlap then .stall s
  else
    let pieces := s.rowPieces x.w x.no ps len dst
    let rows := ps.filterMap fun p => match p.2 with
      | .far _ _ _ => some (p.1, dst p.1)
      | _ => none
    let reqs := ps.filterMap fun p => match p.2 with
      | .far r g f => some (x.request s .load p.1 r g f len m.sub m.order m.scope [])
      | _ => none
    let o : Op := { o with acq := m.acq, sc := m.sc, cache := m.cache, global := far, reqs := x.requests ps, pieces, rows }
    let s := s.putWave (x.takeSeq { w with ops := w.ops ++ [o] } far)
    .ok ((s.readPieces x.w x.uid x.no m.cache m.strong pieces).sendRemote x.w x.uid reqs (fun _ => []) none)

/-- A trap of the lowest active lane alone. (DEDUCED: log 63, 65.) -/
def Iss.ofFirst (x : Iss) (f : Fail) : Fail := { f with lanes := laneSet [x.first] }

/-- MATRIX_FORMAT in every active lane. (DEDUCED: log 65.) -/
def Iss.badFormat (x : Iss) (e : Nat) : Res := x.raise ⟨.matrixFormat, x.act, 0, some (BitVec.ofNat 64 e)⟩

/-- TLD (R223). (DEDUCED: log 63.) -/
def execTld (m : Mem) (s : State) : Host.Outcome State Fault Refusal :=
  issueWave (.tld m) (fun x =>
    let t := m.d.toNat
    let scale := m.sub.getLsbD 0
    if x.matrixHeld (some t) none then .stall x.s
    else match x.w.tiles[t]? with
      | none => .ok x.s
      | some tile => match tile.format with
        | none => x.badFormat 1
        | some f =>
          if scale && !tile.scaled then x.badFormat 7
          else
            let len := if scale then 256 else rowBytes f
            let n := if scale then scaleBlocks f else tileRows f
            let base := x.addr m x.first
            let c := x.reg m.c 0 x.first
            let stride := if m.c.toNat = 112 then len else c.bits.toNat
            let addr (k : Nat) : Val64 := ⟨base.bits + BitVec.ofNat 64 (k * stride), base.poison || c.poison⟩
            let extra (k : Nat) (p : Named) : Option LaneFail := match p with
              | .bad _ => none
              | _ => if k = 0 ∧ stride % len ≠ 0 then some ⟨.align, base.bits, none⟩ else none
            match x.locate (List.range n) addr len Need.read extra with
            | .stall s => .stall s
            | .fail s f => x.failWith s (x.ofFirst f)
            | .ok s ps =>
              let w := x.reload t
              let w := if scale then w
                else { w with tiles := updAt t (fun y => { y with gathered := false, count := tileRows f }) w.tiles }
              x.loadRows m s w (x.opOf (.tile t scale)) ps len (fun k => k * len)) s

/-- Why a lane of a GATHR fails before its page: its address, its alignment, its K index. -/
def gathrFail (x : Iss) (m : Mem) (f : Nat) (after : Option Nat) (i : Nat) : Option LaneFail :=
  let a := x.addr m i
  let c := x.reg m.c 0 i
  if a.poison || c.poison then some ⟨.poison, a.bits, none⟩
  else match x.s.nameOf x.w a.bits.toNat with
    | .bad e => some e
    | _ =>
      if a.bits.toNat % rowBytes f ≠ 0 then some ⟨.align, a.bits, none⟩
      else
        let prev := match (x.lanes.filter (· < i)).getLast? with
          | some j => some (x.reg m.c 0 j).bits.toNat
          | none => after
        let k := c.bits.toNat
        if tileRows f ≤ k || prev.any (fun p => decide (k ≤ p)) then some ⟨.matrixFormat, 0, some 6⟩ else none

/-- GATHR (R221). (DEDUCED: log 64.) -/
def execGathr (m : Mem) (s : State) : Host.Outcome State Fault Refusal :=
  issueWave (.gathr m) (fun x =>
    let t := m.d.toNat
    if x.matrixHeld (some t) none then .stall x.s
    else match x.w.tiles[t]? with
      | none => .ok x.s
      | some tile => match tile.format with
        | none => x.badFormat 6
        | some f =>
          let count := if m.sub.getLsbD 0 then tile.count else 0
          let after := if count = 0 then none else some tile.lastK
          match x.fails (gathrFail x m f after) with
          | some e => x.failWith x.s e
          | none =>
            let rank (i : Nat) : Nat := (x.lanes.filter (· < i)).length
            let beyond := x.lanesWhere fun i => decide (tileRows f ≤ count + rank i)
            if beyond != 0#64 then x.raise ⟨.matrixFormat, beyond, 0, some 6⟩
            else match x.locate x.lanes (x.addr m) (rowBytes f) Need.read (fun _ _ => none) with
              | .stall s => .stall s
              | .fail s f => x.failWith s f
              | .ok s ps =>
                let k (i : Nat) : Nat := (x.reg m.c 0 i).bits.toNat
                let w := x.reload t
                let w := { w with tiles := updAt t (fun y => { y with
                  gathered := true, count := count + x.lanes.length, lastK := k (x.lanes.getLastD x.first) }) w.tiles }
                let o : Op := { x.opOf (.gather t) with
                  result := x.lanes.map fun i => (count + rank i, ⟨BitVec.ofNat 64 (k i), false⟩) }
                x.loadRows m s w o ps (rowBytes f) (fun i => (count + rank i) * rowBytes f)) s

/-- TTAG (R224). -/
def execTtag (g : Gen) (s : State) : Host.Outcome State Fault Refusal :=
  issueWave (.ttag g) (fun x =>
    let t := g.d.toNat
    let f := g.sub.toNat % 16
    if x.matrixHeld (some t) none then .stall x.s
    else x.done { x.w with tiles := updAt t (fun y => { y with
      format := some f, scaled := g.sub.getLsbD 4, gathered := false, count := tileRows f }) x.w.tiles }) s

/-! MMA and MMAS at issue (R217 to R220). -/

/-- The kind an accumulator has after every earlier instruction of the wave (R219). -/
def State.accKind (s : State) (w : Wave) (a : Nat) : Bool :=
  let now := (w.accs[a]?).any (·.i32)
  (w.ops.filter fun o => !o.done).foldl (fun (r : Bool) o => match o.kind with
    | .acc b i32 => if b = a then i32 else r
    | .matrix => (match s.arrayOp? w o.uid with
      | some y => if y.op = 0x65 ∧ y.acc = a then y.sub = 1 else r
      | none => r)
    | _ => r) now

/-- The condition of R219 that fails first. (DEDUCED: log 67.) -/
def mmaFail (tile : Tile) (i32 : Bool) (a : Nat) (blk sparse : Bool) : Option Nat :=
  match tile.format with
  | none => some 1
  | some f =>
    if a ≠ f && !(decide (a ≤ 1) && decide (f ≤ 1)) then some 2
    else if blk != tile.scaled || (blk && decide (3 ≤ a)) then some 3
    else if i32 != (a == 5) then some 4
    else if !sparse && tile.gathered then some 5
    else none

/-- The names an MMA reads: its A row, and its scale registers. -/
def mmaNames (m : Mat) : List Nat :=
  natsFrom m.a.toNat 32 ++ (if m.sub.getLsbD 4 then natsFrom m.c.toNat (scaleRegs (m.sub.toNat % 16)) else [])

/-- MMA and MMAS: the checks, the operands through the reuse latch, the queue. -/
def mmaBody (m : Mat) (sparse : Bool) (x : Iss) : Res :=
  let t := m.b.toNat
  let d := m.d.toNat
  if x.matrixHeld (some t) (some d) || x.queueFull then .stall x.s
  else match x.w.tiles[t]? with
    | none => .ok x.s
    | some tile => match mmaFail tile (x.s.accKind x.w d) (m.sub.toNat % 16) (m.sub.getLsbD 4) sparse with
      | some e => x.badFormat e
      | none =>
        let names := mmaNames m
        let phys := names.map (x.w.source x.sp)
        let fresh : Latch :=
          { wave := x.w.id, a := m.a.toNat, c := m.c.toNat, sub := m.sub.toNat, lanes := x.act, phys
            vals := x.lanes.map fun i => (i, phys.map (x.w.laneVal · i)) }
        let latch := match m.keep, (x.s.quad x.w.quadNo).latch with
          | true, some l => if { l with vals := [] } = { fresh with vals := [] } then l else fresh
          | _, _ => fresh
        let w : Wave := { x.w with
          ops := x.w.ops ++ [x.opOf .matrix], tileRead := insertKey t x.no x.w.tileRead }
        let a : ArrayOp := { x.arrayOp d with
          sub := m.sub.toNat, tile := t, fmt := tile.format.getD 0, gathered := tile.gathered, count := tile.count,
          vals := latch.vals }
        .ok ((x.enqueue w a).modQuad x.w.quadNo fun q => { q with latch := some latch })

/-- MMA (R218). -/
def execMma (m : Mat) (s : State) : Host.Outcome State Fault Refusal := issueWave (.mma m) (mmaBody m false) s

/-- MMAS (R222). (DEDUCED: log 67.) -/
def execMmas (m : Mat) (s : State) : Host.Outcome State Fault Refusal := issueWave (.mmas m) (mmaBody m true) s

/-! Accumulators (R225 to R227). -/

/-- ACCZ (R225). -/
def execAccz (g : Gen) (s : State) : Host.Outcome State Fault Refusal :=
  issueWave (.accz g) (fun x =>
    let d := g.d.toNat
    if x.matrixHeld none (some d) || x.queueFull then .stall x.s
    else .ok (x.enqueue { x.w with ops := x.w.ops ++ [x.opOf .matrix] } { x.arrayOp d with sub := g.sub.toNat })) s

/-- The lanes whose columns run past the row (R227). (DEDUCED: log 59.) -/
def accCols (x : Iss) (g : Gen) : Option Fail :=
  x.fails fun i => if 128 < (x.b32 g i).bits.toNat + 2 ^ (g.sub.toNat % 4) then some ⟨.operand, 0, some 0x20⟩ else none

/-- ACCRD (R227). (DEDUCED: log 59.) -/
def execAccrd (g : Gen) (s : State) : Host.Outcome State Fault Refusal :=
  issueWave (.accrd g) (fun x =>
    let a := g.a.toNat
    if x.matrixHeld none (some a) || x.queueFull then .stall x.s
    else match accCols x g with
      | some f => x.failWith x.s f
      | none =>
        let n := 2 ^ (g.sub.toNat % 4)
        let (w, o) := x.w.addDests x (x.opOf .matrix) g.d n
        .ok (x.enqueue { w with ops := w.ops ++ [o] } { x.arrayOp a with
          sub := n, cols := x.lanes.map fun i => (i, (x.b32 g i).bits.toNat) })) s

/-- ACCWR (R227). (DEDUCED: log 59.) -/
def execAccwr (g : Gen) (s : State) : Host.Outcome State Fault Refusal :=
  issueWave (.accwr g) (fun x =>
    let d := g.d.toNat
    if x.matrixHeld none (some d) || x.queueFull then .stall x.s
    else match accCols x g with
      | some f => x.failWith x.s f
      | none =>
        let n := 2 ^ (g.sub.toNat % 4)
        .ok (x.enqueue { x.w with ops := x.w.ops ++ [x.opOf .matrix] } { x.arrayOp d with
          sub := n, cols := x.lanes.map fun i => (i, (x.b32 g i).bits.toNat)
          vals := x.lanes.map fun i => (i, (List.range n).map fun j => x.src g.a j g.pa i) })) s

/-- The bytes ACCLD and ACCST move in each lane, and the first column (R226). -/
def accPart (m : Mem) : Nat × Nat :=
  if m.size = .b128 then (128, 32 * (m.sub.toNat % 4)) else (256, 64 * (m.sub.toNat % 2))

/-- ACCLD (R226). (DEDUCED: log 64.) -/
def execAccld (m : Mem) (s : State) : Host.Outcome State Fault Refusal :=
  issueWave (.accld m) (fun x =>
    let d := m.d.toNat
    let (len, col) := accPart m
    if x.matrixHeld none (some d) then .stall x.s
    else match x.locate x.lanes (x.addr m) len Need.read (fun _ _ => none) with
      | .stall s => .stall s
      | .fail s f => x.failWith s f
      | .ok s ps => x.loadRows m s x.w (x.opOf (.acc d (m.sub.getLsbD 3))) ps len (fun i => 512 * i + 4 * col)) s

/-- The bytes of an accumulator's row from an offset, with the row's poison bit (R211, R226). -/
def Acc.rowPart (a : Acc) (i off len : Nat) : List PByte :=
  pbytes (a.rowPoison i) (((a.data.bytes (512 * i + off) len)).map (·.byte))

/-- ACCST (R226): it is held as stores are. In the lookahead windows of every earlier instruction still pending on its
accumulator it issues, and reads once they are complete (R213, R214). (DEDUCED: log 60.) -/
def execAccst (m : Mem) (s : State) : Host.Outcome State Fault Refusal :=
  issueWave (.accst m) (fun x =>
    let d := m.d.toNat
    let (len, col) := accPart m
    let late := x.s.earlierOn x.w x.no none (some d) fun _ => true
    if x.matrixHeld none (some d) then .stall x.s
    else
      let a := x.w.accs.getD d ⟨.empty, false⟩
      match x.locate x.lanes (x.addr m) len Need.write (fun _ _ => none) (fun i p => !late && p.traps && a.rowPoison i) with
      | .stall s => .stall s
      | .fail s f => x.failWith s f
      | .ok s ps =>
        let data (i : Nat) : List PByte := a.rowPart i (4 * col) len
        x.limited s ps <|
          let o : Op := { x.opOf (if late then .accst d (4 * col) len else .store) with
            sc := m.sc, cache := m.cache, global := Iss.isFar ps, reqs := x.requests ps
            result := if late then ps.map fun p => (p.1, x.addr m p.1) else [] }
          let home := m.cache == .bypass || (x.relOf m).any Scope.gangUp
          let ops := (x.laneOps ps len data).flatMap fun y => (List.range (len / 32)).map fun j =>
            { y with loc := y.loc.plus (32 * j), size := 32, data := (y.data.drop (32 * j)).take 32 }
          let w := x.holdOps { x.w with ops := x.w.ops ++ [o] } m (fun l => .stores l home (x.relOf m)) ops
            (x.laneReqs s .write m ps len data)
          .ok (s.putWave (x.takeSeq w (Iss.isFar ps)))) s

/-- The data of a late ACCST's held stores: each operation's part of its lane's row. -/
def Effect.filled (data : Nat → List PByte) (e : Effect) : Effect := match e with
  | .stores ops home release =>
    let base (y : LaneOp) : Nat := ((ops.filter (·.lane == y.lane)).map (·.loc.addr)).foldl min y.loc.addr
    .stores (ops.map fun y => { y with data := ((data y.lane).drop (y.loc.addr - base y)).take y.size }) home release
  | .remote reqs => .remote (reqs.map fun r => { r with data := (data r.key.lane).map (·.byte) })
  | e => e

/-- A lane of a held store goes where poisoned data traps (R262). -/
def Effect.trapping (e : Effect) : List Nat := match e with
  | .stores ops _ _ => (ops.filter fun y => y.loc.sp == .host).map (·.lane)
  | .remote reqs => reqs.map (·.key.lane)
  | _ => []

/-- Late ACCSTs read their accumulators as soon as nothing earlier is pending on them (R211, R213).
(DEDUCED: log 60.) -/
def State.readAccsts (s : State) : State :=
  s.waves.foldl (fun s w => w.ops.foldl (fun s o => match s.wave? w.id, o.kind with
    | some w, .accst a off len =>
      if !w.unread o.uid || s.earlierOn w o.no none (some a) (fun _ => true) then s
      else
        let acc := w.accs.getD a ⟨.empty, false⟩
        let mine := w.held.filter (·.uid == o.uid)
        let bad := lanesOf (laneSet ((mine.flatMap (·.effect.trapping)).filter acc.rowPoison))
        if bad.isEmpty then
          s.putWave { w with
            held := w.held.map fun h => if h.uid == o.uid then { h with effect := h.effect.filled (acc.rowPart · off len) } else h
            ops := w.ops.map fun p => if p.uid == o.uid then { p with kind := .store } else p }
        else
          let s := s.reportOp w.id o ⟨.poison, laneSet bad, (lookupKey (bad.headD 0) o.result).elim 0 (·.bits), none⟩
          s.modWave w.id fun w => ({ w with held := w.held.filter (·.uid != o.uid) } : Wave).finishOp o.uid s.clk
    | _, _ => s) s) s

/-! The array (R218, R222, R230). -/

/-- Array clocks of an instruction of a wave of width W (R230). (DESIGN CHOICE: log 62.) -/
def ArrayOp.clocks (a : ArrayOp) (width : Nat) : Nat :=
  if a.op = 0x62 then width
  else if a.op = 0x63 then width / 4 * max 1 ((4 * a.count + tileRows a.fmt - 1) / tileRows a.fmt)
  else if a.op = 0x65 then 2
  else 1

/-- The array starts the head of its queue: with a permit where it needs one, once the loads it follows have landed
and the one before it has left the array. -/
def execArrayStart (quad : Nat) (s : State) : Host.Outcome State Fault Refusal :=
  .next <|
    let s := s.askPermit quad
    let q := s.quad quad
    match q.head? with
    | none => s
    | some a =>
      match s.wave? a.wave with
      | none => s
      | some w =>
        let loads := s.earlierOn w a.no (if a.needsPermit then some a.tile else none) (some a.acc) fun o => o.kind != .matrix
        let busy := q.array.any fun b => match b.started with
          | some c => decide (s.clk < c + b.clocks ((s.wave? b.wave).elim 64 (·.width)))
          | none => false
        let permit := match q.permit with
          | .held _ => true
          | _ => false
        if loads || busy || (a.needsPermit && !permit) then s
        else
          (s.modQuad quad fun q => { q with
            array := q.array.map fun b => if b.wave == a.wave && b.uid == a.uid then { b with started := some s.clk } else b
          }).askPermit quad

/-- The floating format of an A or tile format code (R42). -/
def matFmt (f : Nat) : Fmt := match f with
  | 0 => .e4m3
  | 1 => .e5m2
  | 2 => .e2m1
  | 3 => .bf16
  | _ => .f16

/-- Element k of a lane's A row. -/
def elemA (f : Nat) (row : List Val) (k : Nat) : Nat :=
  let per := 32 / elemBits f
  ((row.getD (k / per) .zero).bits.toNat / 2 ^ (elemBits f * (k % per))) % 2 ^ elemBits f

/-- Element (j, n) of a tile (R208). -/
def elemB (f : Nat) (t : Tile) (j n : Nat) : Nat :=
  let bit := elemBits f * n
  (t.data.nat (rowBytes f * j + bit / 8) ((elemBits f + 7) / 8) / 2 ^ (bit % 8)) % 2 ^ elemBits f

/-- The original K index of row j: its entry in the K list, or j itself (R222). -/
def kIndex (t : Tile) (gathered : Bool) (j : Nat) : Nat := if gathered then t.side.nat (0x800 + 2 * j) 2 else j

/-- The rows of each group: their place in the tile and their K index. -/
def groupRows (a : ArrayOp) (t : Tile) (g : Nat) : List (Nat × Nat) :=
  let size := groupSize a.fmt
  ((List.range a.count).map fun j => (j, kIndex t a.gathered j)).filter fun p => p.2 / size = g

/-- One update of an accumulator word by a group (R76, R218). -/
def groupStep (a : ArrayOp) (t : Tile) (row : List Val) (n : Nat) (acc : Nat) (g : Nat) (rows : List (Nat × Nat)) : Nat :=
  let fa := a.sub % 16
  if rows.isEmpty then acc
  else if fa = 5 then
    let s : Int := rows.foldl (fun (s : Int) p => s + signedOf 8 (elemA fa row p.2) * signedOf 8 (elemB a.fmt t p.1 n)) 0
    intBits 32 (s + (acc : Int))
  else
    let scales := if a.sub < 16 then none
      else
        let r := (row.getD (32 + g / 2) .zero).bits.toNat
        some (r / 2 ^ (16 * (g % 2)) % 65536, t.side.nat (256 * g + 2 * n) 2)
    mmaUpdate (matFmt fa) (matFmt a.fmt) (rows.map fun p => (elemA fa row p.2, elemB a.fmt t p.1 n)) scales acc

/-- A row of the accumulator after an MMA or MMAS (R218, R222). -/
def mmaRow (a : ArrayOp) (t : Tile) (row : List Val) (acc : List Word) : List Word :=
  let groups := (List.range (tileRows a.fmt / groupSize a.fmt)).map fun g => (g, groupRows a t g)
  acc.zipIdx.map fun (v, n) =>
    BitVec.ofNat 32 (groups.foldl (fun acc (e : Nat × List (Nat × Nat)) => groupStep a t row n acc e.1 e.2) v.toNat)

/-- The poison an MMA or MMAS adds to a row (R211): of the lane's registers, the tile rows and the scale blocks used. -/
def mmaPoison (a : ArrayOp) (t : Tile) (row : List Val) : Bool :=
  let bad (m : Memory) (at_ n : Nat) : Bool := (List.range (n / 32)).any fun k => m.poison.contains (at_ / 32 + k)
  row.any (·.poison) ||
    ((List.range a.count).any fun j => bad t.data (rowBytes a.fmt * j) (rowBytes a.fmt)) ||
    (decide (16 ≤ a.sub) && ((List.range (scaleBlocks a.fmt)).any fun g =>
      !(groupRows a t g).isEmpty && bad t.side (256 * g) 256))

/-- The rows an array instruction writes when it completes: row, words, poison bit. -/
def arrayRows (w : Wave) (a : ArrayOp) : List (Nat × List Word × Bool) :=
  match w.accs[a.acc]? with
  | none => []
  | some c =>
    let t := w.tiles.getD a.tile
      { data := .empty, side := .empty, format := none, scaled := false, gathered := false, count := 0, lastK := 0 }
    (lanesOf a.lanes).filterMap fun i =>
      let row := (lookupKey i a.vals).getD []
      if a.op = 0x62 ∨ a.op = 0x63 then some (i, mmaRow a t row (c.words i), c.rowPoison i || mmaPoison a t row)
      else if a.op = 0x65 then some (i, List.replicate 128 0#32, false)
      else if a.op = 0x69 then
        let col := (lookupKey i a.cols).getD 0
        some (i, (row.zipIdx).foldl (fun ws (v, j) => updAt (col + j) (fun _ => v.bits) ws) (c.words i),
          c.rowPoison i || row.any (·.poison))
      else none

/-- The kind an array instruction leaves: ACCZ sets it (R225). -/
def arrayKind (w : Wave) (a : ArrayOp) : Bool := if a.op = 0x65 then a.sub = 1 else (w.accs[a.acc]?).any (·.i32)

/-- The oldest started instruction of a quadrant's array completes (R422): its rows are written, once the journal has
slots, or its registers. (DESIGN CHOICE: log 62.) -/
def execMmaComplete (quad : Nat) (s : State) : Host.Outcome State Fault Refusal :=
  .next <| match (s.quad quad).array.find? (·.started.isSome) with
    | none => s
    | some a =>
      match s.wave? a.wave with
      | none => s
      | some w =>
        let due := match a.started with
          | some c => decide (c + a.clocks w.width ≤ s.clk)
          | none => false
        let rows := arrayRows w a
        if !due then s
        else if !s.journalRoom w a.acc (rows.map (·.1)) then s.freeJournal quad
        else
          let kind := arrayKind w a
          let w := if a.op = 0x68 then
              (match w.op? a.uid, w.accs[a.acc]? with
                | some o, some c => (lanesOf a.lanes).foldl (fun w i => (List.range a.sub).foldl (fun w j =>
                    w.deliver o j i ⟨(c.words i).getD ((lookupKey i a.cols).getD 0 + j) 0, c.rowPoison i⟩) w) w
                | _, _ => w)
            else rows.foldl (fun w r => w.writeAccRow a.no a.acc r.1 r.2.1 r.2.2 kind) w
          let s := s.putWave (w.finishOp a.uid s.clk)
          (s.modQuad quad fun q =>
            let array := q.array.filter fun b => !(b.wave == a.wave && b.uid == a.uid)
            let permit := match q.permit with
              | .held _ => .held s.clk
              | p => p
            ({ q with array, permit } : Quad).tryRelease).poll

end Sys2Proof.Machine
end

