-- ==== Sys2Proof/Machine/Boot.lean ====
section
/-! DEFINITION. Power, bring-up, the control space, attestation and the power cap (R442 to R448). -/

namespace Sys2Proof.Machine

/-! Power (R26, R442). -/

/-- Everything on the device is lost; the board's flash, the host's memory and what is still to come stay.
(PRESUMED: log 126.) -/
def State.powerCycle (s : State) : State :=
  { State.powered s.dev.flash s.dev.rollback with agenda := s.agenda, free := s.free, host := s.host }

/-- Power-up enters Booting. -/
def execPowerUp (s : State) : Host.Outcome State Fault Refusal := .next (if s.dev.on then s else s.powerCycle)

/-- Power is removed. -/
def execPowerRemoved (s : State) : Host.Outcome State Fault Refusal :=
  .next (s.powerCycle.modDev fun d => { d with on := false })

/-- RESET acts as removing and restoring power; in Booting it is no register. -/
def State.resetWrite (s : State) (v : DWord) : State :=
  if s.dev.on && s.dev.st != .booting && v = 1#64 then s.powerCycle else s

def execReset (v : DWord) (s : State) : Host.Outcome State Fault Refusal := .next (s.resetWrite v)

/-- A PCIe hot reset. -/
def execHotReset (s : State) : Host.Outcome State Fault Refusal := .next (if s.dev.on then s.powerCycle else s)

/-- A function-level reset. -/
def execFunctionLevelReset (s : State) : Host.Outcome State Fault Refusal := .next (if s.dev.on then s.powerCycle else s)

/-! The image (R443, R444). -/

/-- The image's header. -/
structure Image where
  magic     : Nat
  version   : Nat
  bodySize  : Nat
  fwOff     : Nat
  kbase     : Nat
  ctxtab    : Nat
  linktab   : Nat
  rctab     : Nat
  biastab   : Nat
  netprefix : Nat
  porten    : Nat
  features  : Nat
  pubKey    : List Byte
  sig       : List Byte

/-- The fields of an image, by their offsets (R444). -/
def imageOf (flash : List Byte) : Image :=
  let bytes (off n : Nat) : List Byte := (flash.drop off).take n
  let f (off n : Nat) : Nat := leNat (bytes off n)
  { magic := f 0 4, version := f 4 4, bodySize := f 8 8, fwOff := f 0x10 8, kbase := f 0x18 8, ctxtab := f 0x20 8,
    linktab := f 0x28 8, rctab := f 0x30 8, biastab := f 0x38 8, netprefix := f 0x40 8, porten := f 0x48 4,
    features := f 0x4C 4, pubKey := bytes 0x50 1793, sig := bytes 0x751 1280 }

/-- The body of the image, of BODYSIZE bytes at 0x1000. -/
def imageBody (flash : List Byte) : List Byte := (flash.drop 0x1000).take (imageOf flash).bodySize

/-- What the signature covers: the header up to PUBKEY, and the body (R444). (DEDUCED: log 166.) -/
def imageDigest (flash : List Byte) : List Byte := Config.shake256 (flash.take 0x50 ++ imageBody flash)

/-- The image's public key is the vendor's and accepts the image's signature (R443 step 2). (DEDUCED: log 166.) -/
def imageSigned (flash : List Byte) : Bool :=
  let h := imageOf flash
  Config.shake256 h.pubKey == Config.vendorDigest && Config.falconAccepts h.pubKey h.sig (imageDigest flash)

/-- Bytes of the bias table (R368). -/
def biasBytes : Nat := 201326592

/-- The tables an image places, with their sizes: contexts (R83), link (R372), result caches (R387), bias (R368).
(PRESUMED: log 120.) -/
def Image.tables (h : Image) : List (Nat × Nat) :=
  [(h.ctxtab, 16384), (h.linktab, linkTableBytes), (h.rctab, 0x40000000), (h.biastab, biasBytes)]

/-- No two tables overlap. -/
def apart : List (Nat × Nat) → Bool
  | [] => true
  | t :: r => r.all (fun u => t.1 + t.2 ≤ u.1 || u.1 + u.2 ≤ t.1) && apart r

/-- The configuration is in range (R444): alignments, everything within device memory, no overlap.
(PRESUMED: log 120; DEDUCED: log 121.) -/
def Image.inRange (h : Image) : Bool :=
  h.ctxtab % 16384 = 0 && h.rctab % 0x40000000 = 0 && decide (h.fwOff ≤ h.bodySize) && h.kbase % 4 = 0 &&
    decide (h.kbase + (h.bodySize - h.fwOff) ≤ 0x6000000000) &&
    h.tables.all (fun t => t.1 + t.2 ≤ 0x6000000000) && apart h.tables

/-- The reason a boot is refused, none where it succeeds (R443 steps 1 to 5). -/
def State.bootRefusal (s : State) : Option Nat :=
  let h := imageOf s.dev.flash
  if h.magic ≠ 0x394A5653 ∨ 0x4000000 < h.bodySize ∨ s.dev.flash.length < 0x1000 + h.bodySize then some 4
  else if !imageSigned s.dev.flash then some 1
  else if h.version < s.dev.rollback then some 5
  else if !Config.identityOk then some 2
  else if !h.inRange then some 3
  else none

/-- A service wave (R102): one split of lane 0 in a solo window, on quadrant 3 of core 31 or 63. -/
def serviceWave (id die clk kbase : Nat) : Wave :=
  let core := if die = 0 then 31 else 63
  let w := Wave.start id 0 0 die 0 0 0 32 ⟨0, 0, 0, 0, 0, 1, false⟩ core 3 0 clk 0#64 (List.replicate 16 .zero)
  let (win, w) := w.pushWindow .solo 0 0#64 32 none
  ({ w with
    st := .solo, service := true, live := 1#64, ckpts := []
    splits := [Split.fresh 0 (BitVec.ofNat 64 kbase) 1#64 win clk] } : Wave).newRegion clk

/-- What a boot that succeeds leaves (R443 steps 6 to 8). (DEDUCED: log 121, 122.) -/
def State.booted (s : State) : State :=
  let h := imageOf s.dev.flash
  let mem : Memory := { cells := [], poison := [], biasLo := h.biastab, biasHi := h.biastab + biasBytes, veils := [] }
  let s : State := { s with mem := (mem.setBytes h.ctxtab (List.replicate 16384 0#8)).setBytes h.kbase ((imageBody s.dev.flash).drop h.fwOff) }
  let s := s.modDev fun d => { d with
    st := .ready, kbase := h.kbase, ctxtab := h.ctxtab, linktab := h.linktab, rctab := h.rctab, biastab := h.biastab
    netprefix := h.netprefix, porten := h.porten % 2 ^ 24, features := h.features % 2, trained := true
    version := h.version, rollback := max d.rollback h.version }
  let port (i : Nat) : PortState × Nat := (if h.porten.testBit i then .training else .disabled, 0)
  let s := s.modLink fun l => { l with ports := (List.range 24).map port }
  let id := s.sched.nextWave
  let s : State := { s with waves := [serviceWave id 0 s.clk h.kbase, serviceWave (id + 1) 1 s.clk h.kbase] }
  (s.modSched fun k => { k with nextWave := id + 2 }).setCtxState 0 .resident

/-- The boot controller is done (R443): Ready, or Refused with its reason. -/
def execBootTrainingComplete (s : State) : Host.Outcome State Fault Refusal :=
  .next <|
    if !s.dev.on || s.dev.st != .booting then s
    else match s.bootRefusal with
      | some r => s.modDev fun d => { d with st := .refused, reason := r }
      | none => s.booted

/-! Attestation (R446). -/

/-- A write of 1 to ATTCMD starts a quote. (DEDUCED: log 124.) -/
def State.attWrite (s : State) (v : DWord) : State :=
  if s.dev.on && s.dev.st == .ready && v = 1#64 then s.modDev fun d => { d with attcmd := true } else s

def execAttcmd (v : DWord) (s : State) : Host.Outcome State Fault Refusal := .next (s.attWrite v)

/-- The quote is complete: ATTCMD reads 0. (DEDUCED: log 123, 166.) -/
def execQuoteComplete (s : State) : Host.Outcome State Fault Refusal :=
  .next <|
    if !s.dev.attcmd then s
    else s.modDev fun d => { d with
      attcmd := false
      quote := some ⟨d.quote.elim 0 (·.no + 1), d.nonce, imageDigest d.flash, d.version, d.clk⟩ }

/-- A write of eight bytes of the nonce: ignored while a quote is being made. (DEDUCED: log 123.) -/
def State.nonceWrite (s : State) (k : Nat) (v : DWord) : State :=
  if s.dev.attcmd then s
  else s.modDev fun d => { d with nonce := (d.nonce.take (8 * k) ++ leBytes 8 v.toNat ++ d.nonce.drop (8 * k + 8)).take 32 }

/-! The power cap (R448). -/

/-- The cap a value written stands for. -/
def capOf (v : Nat) : Nat := if v = 0 then 2400 else min 2400 (max 1100 v)

/-- A write of POWERCAP: it governs the grants made 1 µs later. -/
def State.capWrite (s : State) (v : DWord) : State :=
  if s.dev.on && s.dev.st == .ready then
    s.modDev fun d => { d with capNext := d.capNext ++ [(capOf v.toNat, d.clk + 2000)] }
  else s

def execPowercap (v : DWord) (s : State) : Host.Outcome State Fault Refusal := .next (s.capWrite v)

/-- A cap takes effect. -/
def execPowercapTakesEffect (s : State) : Host.Outcome State Fault Refusal :=
  .next <| s.modDev fun d => { d with cap := d.capNow, capNext := d.capNext.filter fun e => d.clk < e.2 }

/-! The control space (R371, R447). -/

/-- A read of the bridge-fence register returns, once every CXL request received before it is performed (R371).
(DEDUCED: log 50.) -/
def execBridgefence (s : State) : Host.Outcome State Fault Refusal :=
  .next <|
    if !s.dev.on || s.dev.st != .ready || s.homes.hostReqs.any (·.kind ≤ 2) then s
    else s.modDev fun d => { d with bridged := d.bridged + 1 }

/-- A write of eight bytes of the control space. (DEDUCED: log 125.) -/
def State.controlWrite (s : State) (off : Nat) (v : DWord) : State :=
  let n := v.toNat
  if off = 0x08 then s.resetWrite v
  else if !s.dev.on || s.dev.st != .ready then s
  else if off = 0x18 then
    s.hostCommand (n % 256) (bitsOf n 13 8) (if n % 256 = 5 then bitsOf n 27 16 else 0) (if n % 256 = 5 then bitsOf n 49 28 else 0)
  else if off = 0x20 then s.hostQueue (bitsOf n 13 8) (n % 256)
  else if off = 0x28 then s.modDev fun d => { d with qaddr := n }
  else if off = 0x30 then s.capWrite v
  else if off = 0x420 then s.attWrite v
  else if 0x400 ≤ off ∧ off < 0x420 ∧ off % 8 = 0 then s.nonceWrite ((off - 0x400) / 8) v
  else if 0x10000 ≤ off ∧ off < 0x18000 ∧ off % 8 = 0 then
    s.hostInterrupt ((off - 0x10000) / 512) ((off - 0x10000) % 512 / 8) v .pcie true false
  else s

def execRegisterWrite (off : Nat) (v : DWord) (s : State) : Host.Outcome State Fault Refusal := .next (s.controlWrite off v)

/-- The fields of a quote before its signature, in the order of R446: the nonce, the digest, VERSION, the clock count.
(DEDUCED: log 133.) -/
def Quote.fields (q : Quote) : List Byte :=
  (List.range 32).map (q.nonce.getD · 0#8) ++ q.digest ++ leBytes 4 q.version ++ leBytes 8 q.clk

/-- The quote as it reads at QUOTE: its fields and the signature over their digest (R446). -/
def Quote.bytes (q : Quote) : List Byte := q.fields ++ Config.quoteSignature q.no (Config.shake256 q.fields)

/-- The code of R442 that BOOTSTAT reports. -/
def DevState.code : DevState → Nat
  | .booting => 0
  | .refused => 1
  | .ready => 2

/-- What eight bytes of the control space read as (R442, R447): what the host sees of the state. A read changes
nothing, but for the bridge fence. Telemetry and what a write-only register reads as are free values. (DEDUCED: log
133.) (DEDUCED: log 133.) -/
def State.controlRead (s : State) (off : Nat) : DWord :=
  let d := s.dev
  let bytes (f : Nat → Byte) (k n : Nat) : DWord :=
    BitVec.ofNat 64 (leNat ((List.range 8).map fun j => if k + j < n then f (k + j) else 0#8))
  let open64 : DWord := Config.freeWord (s.free + off)
  if !d.on || off % 8 ≠ 0 then 0#64
  else if off = 0x00 then BitVec.ofNat 64 (d.st.code + 256 * d.reason)
  else if off = 0x38 then open64
  else if off = 0x40 then BitVec.ofNat 64 (open64.toNat % 2 ^ 32)
  else if off = 0x48 then BitVec.ofNat 64 d.clk
  else if 0x100 ≤ off ∧ off < 0x1C0 then BitVec.ofNat 64 ((d.errcnt.getD ((off - 0x100) / 0x60) []).getD ((off - 0x100) % 0x60 / 8) 0)
  else if d.st != .ready then 0#64
  else if off = 0x18 then (if s.commandBusy then 1#64 else 0#64)
  else if off = 0x28 then BitVec.ofNat 64 d.qaddr
  else if off = 0x30 then BitVec.ofNat 64 (d.capNext.getLast?.elim d.cap (·.1))
  else if off = 0x420 then (if d.attcmd then 1#64 else 0#64)
  else if 0x1000 ≤ off ∧ off < 0x2000 then bytes Config.idKey (off - 0x1000) 1793
  else if 0x2000 ≤ off ∧ off < 0x3000 then d.quote.elim 0#64 fun q => bytes (q.bytes.getD · 0#8) (off - 0x2000) 0x1000
  else if off = 0x08 ∨ off = 0x20 ∨ (0x400 ≤ off ∧ off < 0x420) ∨ (0x10000 ≤ off ∧ off < 0x18000) then open64
  else 0#64

end Sys2Proof.Machine
end

