-- ==== Sys2Proof/Machine/Alu.lean ====
section
/-! DEFINITION. Integer, logic, move, predicate and single-lane instructions (R164 to R177, R181 to R183). -/

namespace Sys2Proof.Machine

/-- A 64-bit value from a number. -/
def val64 (v : Nat) (p : Bool) : Val64 := ⟨BitVec.ofNat 64 v, p⟩

/-- A source as an exact integer of w bits (R171). -/
def intOf (u : Bool) (w : Nat) (v : Val64) : Int := if u then (v.bits.toNat % 2 ^ w : Nat) else signedOf w v.bits.toNat

/-- The low w bits of a source. -/
def natOf (w : Nat) (v : Val64) : Nat := v.bits.toNat % 2 ^ w

namespace Iss

/-- Write one value per active lane. -/
def alu (x : Iss) (d : Fld) (wide : Bool) (f : Nat → Val64) : Res := x.done (x.putW x.w d wide x.act f)

/-- Write one predicate bit per active lane; a lane with a poisoned source raises POISON instead (R169). -/
def setLanes (x : Iss) (d : Fld) (poisoned : Nat → Bool) (f : Nat → Bool) : Res :=
  let bad := x.lanesWhere poisoned
  if bad != 0#64 then x.poison bad 0
  else x.done (x.putPred x.w d x.act (x.lanesWhere f))

end Iss

/-- W of SUB[0] and the width it selects (R165). -/
def subW (g : Gen) : Bool := g.sub.getLsbD 0
def widthOf (wide : Bool) : Nat := if wide then 64 else 32
/-- U of SUB[1]. -/
def subU (g : Gen) : Bool := g.sub.getLsbD 1
/-- S of SUB[2]. -/
def subS (g : Gen) : Bool := g.sub.getLsbD 2
/-- WIDE of SUB[3]. -/
def subWide (g : Gen) : Bool := g.sub.getLsbD 3
/-- How an integer B of 64 bits takes a literal under U (R167). -/
def extU (u : Bool) : Ext := if u then .zero else .sign

/-- Saturation (R171). -/
def saturate (u : Bool) (w : Nat) (r : Int) : Int :=
  if u then clampInt r 0 (2 ^ w - 1) else clampInt r (-(2 ^ (w - 1))) (2 ^ (w - 1) - 1)

/-- Integer arithmetic of two sources (R171, R172): `op` on exact integers, then saturation, then the low bits. -/
def intArith (g : Gen) (sat : Bool) (op : Nat → Int → Int → Int) (x : Iss) : Res :=
  let wide := subW g
  let u := subU g
  let w := widthOf wide
  x.alu g.d wide fun i =>
    let a := x.aW g wide i
    let b := x.bW g wide (extU u) i
    let r := op w (intOf u w a) (intOf u w b)
    val64 (intBits w (if sat then saturate u w r else r)) (a.poison || b.poison)

/-- IADD (R171). -/
def execIadd (g : Gen) (s : State) : Host.Outcome State Fault Refusal :=
  issueWave (.iadd g) (intArith g (subS g) fun _ a b => a + b) s

/-- ISUB (R171). -/
def execIsub (g : Gen) (s : State) : Host.Outcome State Fault Refusal :=
  issueWave (.isub g) (intArith g (subS g) fun _ a b => a - b) s

/-- IMUL, with WIDE 32 × 32 to 64 (R171). -/
def execImul (g : Gen) (s : State) : Host.Outcome State Fault Refusal :=
  issueWave (.imul g) (fun x =>
    if subWide g then
      x.alu g.d true fun i =>
        let a := x.aW g false i
        let b := x.bW g false .sign i
        val64 (intBits 64 (intOf (subU g) 32 a * intOf (subU g) 32 b)) (a.poison || b.poison)
    else intArith g false (fun _ a b => a * b) x) s

/-- IMULH (R171). -/
def execImulh (g : Gen) (s : State) : Host.Outcome State Fault Refusal :=
  issueWave (.imulh g) (intArith g false fun w a b => a * b / 2 ^ w) s

/-- IMAD, with WIDE 32 × 32 + 64 (R171). -/
def execImad (g : Gen) (s : State) : Host.Outcome State Fault Refusal :=
  issueWave (.imad g) (fun x =>
    let u := subU g
    let narrow := subWide g
    let wide := subW g || narrow
    let w := if narrow then 32 else widthOf wide
    x.alu g.d wide fun i =>
      let a := x.aW g (subW g) i
      let b := x.bW g (subW g) (extU u) i
      let c := x.cW g wide i
      val64 (intBits (widthOf wide) (intOf u w a * intOf u w b + intOf u (widthOf wide) c))
        (a.poison || b.poison || c.poison)) s

/-- IMIN (R172). -/
def execImin (g : Gen) (s : State) : Host.Outcome State Fault Refusal :=
  issueWave (.imin g) (intArith g false fun _ a b => min a b) s

/-- IMAX (R172). -/
def execImax (g : Gen) (s : State) : Host.Outcome State Fault Refusal :=
  issueWave (.imax g) (intArith g false fun _ a b => max a b) s

/-- A bitwise operation (R172). -/
def bitwise (g : Gen) (op : DWord → DWord → DWord) (x : Iss) : Res :=
  x.alu g.d (subW g) fun i =>
    let a := x.aW g (subW g) i
    let b := x.bW g (subW g) .sign i
    ⟨op a.bits b.bits, a.poison || b.poison⟩

/-- AND (R172). -/
def execAnd (g : Gen) (s : State) : Host.Outcome State Fault Refusal := issueWave (.and g) (bitwise g (· &&& ·)) s

/-- OR (R172). -/
def execOr (g : Gen) (s : State) : Host.Outcome State Fault Refusal := issueWave (.or g) (bitwise g (· ||| ·)) s

/-- XOR (R172). -/
def execXor (g : Gen) (s : State) : Host.Outcome State Fault Refusal := issueWave (.xor g) (bitwise g (· ^^^ ·)) s

/-- A shift by an unsigned 32-bit count (R172). -/
def shiftBy (g : Gen) (op : Nat → Nat → Nat → Nat) (x : Iss) : Res :=
  let w := widthOf (subW g)
  x.alu g.d (subW g) fun i =>
    let a := x.aW g (subW g) i
    let b := x.b32 g i
    val64 (op w (natOf w a) b.bits.toNat) (a.poison || b.poison)

/-- SHL's result on w bits. -/
def shlBits (w a s : Nat) : Nat := if w ≤ s then 0 else a * 2 ^ s % 2 ^ w
/-- SHR's result. -/
def shrBits (w a s : Nat) : Nat := if w ≤ s then 0 else a / 2 ^ s
/-- SAR's result. -/
def sarBits (w a s : Nat) : Nat := intBits w (signedOf w a / 2 ^ min s w)

/-- SHL (R172). -/
def execShl (g : Gen) (s : State) : Host.Outcome State Fault Refusal := issueWave (.shl g) (shiftBy g shlBits) s

/-- SHR (R172). -/
def execShr (g : Gen) (s : State) : Host.Outcome State Fault Refusal := issueWave (.shr g) (shiftBy g shrBits) s

/-- SAR (R172). -/
def execSar (g : Gen) (s : State) : Host.Outcome State Fault Refusal := issueWave (.sar g) (shiftBy g sarBits) s

/-- The count of set bits. -/
def popCount (w a : Nat) : Nat := (List.range w).foldl (fun n j => if a.testBit j then n + 1 else n) 0

/-- The reversal of w bits. -/
def reverseBits (w a : Nat) : Nat := (List.range w).foldl (fun r j => if a.testBit (w - 1 - j) then r + 2 ^ j else r) 0

/-- Leading and trailing zeros; w when A is 0. -/
def leadingZeros (w a : Nat) : Nat := if a = 0 then w else w - 1 - Nat.log2 a
def trailingZeros (w a : Nat) : Nat := ((List.range w).find? (fun j => a.testBit j)).getD w

/-- A BITS variant on w bits (R173): a, b (the 32-bit field or the w-bit value) and c. -/
def bitsOp (v w a b c : Nat) : Nat :=
  let p := min (b % 256) w
  let l := min (b / 256 % 256) (w - p)
  let f := a / 2 ^ p % 2 ^ l
  let r := b % w
  let t := min b w
  match v with
  | 0 => popCount w a
  | 1 => leadingZeros w a
  | 2 => trailingZeros w a
  | 3 => reverseBits w a
  | 4 => if l = 0 then 0 else intBits w (signedOf l f)
  | 5 => f
  | 6 => let m := (2 ^ l - 1) * 2 ^ p
    (c &&& (2 ^ w - 1 - m)) ||| ((a * 2 ^ p) % 2 ^ w &&& m)
  | 7 => (a * 2 ^ r + a / 2 ^ (w - r)) % 2 ^ w
  | 8 => (a / 2 ^ r + a * 2 ^ (w - r)) % 2 ^ w
  | 9 => (a * 2 ^ w + c) * 2 ^ t / 2 ^ w % 2 ^ w
  | 10 => (a * 2 ^ w + c) / 2 ^ t % 2 ^ w
  | 11 => a &&& (2 ^ w - 1 - b)
  | 12 => a ||| (2 ^ w - 1 - b)
  | 13 => 2 ^ w - 1 - a
  | 14 => intBits w (signedOf w a).natAbs
  | _ => intBits w (-(signedOf w a))

/-- BITS (R173). -/
def execBits (g : Gen) (s : State) : Host.Outcome State Fault Refusal :=
  issueWave (.bits g) (fun x =>
    let v := g.sub.toNat % 16
    let wide := decide (16 ≤ g.sub.toNat)
    let w := widthOf wide
    let usesB := decide (4 ≤ v) && decide (v ≤ 12)
    let usesC := decide (v = 6) || decide (v = 9) || decide (v = 10)
    let dWide := wide && decide (3 ≤ v)
    x.alu g.d dWide fun i =>
      let a := x.aW g wide i
      let b := if !usesB then val64 0 false
        else if v = 11 ∨ v = 12 then x.bW g wide .sign i else (x.b32 g i).wide
      let c := if usesC then x.cW g wide i else val64 0 false
      val64 (bitsOp v w (natOf w a) (if v = 11 ∨ v = 12 then natOf w b else b.bits.toNat) (natOf w c))
        (a.poison || b.poison || c.poison)) s

/-- ISET's comparison (R48). -/
def intCompare (rel : Nat) (a b : Int) : Bool :=
  match rel with
  | 0 => a = b
  | 1 => a ≠ b
  | 2 => a < b
  | 3 => a ≤ b
  | 4 => b < a
  | _ => b ≤ a

/-- ISET (R174). -/
def execIset (g : Gen) (s : State) : Host.Outcome State Fault Refusal :=
  issueWave (.iset g) (fun x =>
    let u := g.sub.getLsbD 3
    let wide := g.sub.getLsbD 4
    let w := widthOf wide
    let a := x.aW g wide
    let b := x.bW g wide (extU u)
    x.setLanes g.d (fun i => (a i).poison || (b i).poison)
      (fun i => intCompare (g.sub.toNat % 8) (intOf u w (a i)) (intOf u w (b i)))) s

/-- SEL (R174): only the selected source's poison counts (R169). -/
def execSel (g : Gen) (s : State) : Host.Outcome State Fault Refusal :=
  issueWave (.sel g) (fun x =>
    let c := g.c.toNat
    x.alu g.d (subW g) fun i =>
      if hasLane (x.w.pred (c % 8)) i != decide (8 ≤ c) then x.aW g (subW g) i else x.bW g (subW g) .sign i) s

/-- MOV (R175). -/
def execMov (g : Gen) (s : State) : Host.Outcome State Fault Refusal :=
  issueWave (.mov g) (fun x =>
    let e : Ext := match g.sub.toNat / 2 with
      | 0 => .sign
      | 1 => .zero
      | _ => .float
    x.alu g.d (subW g) (x.bW g (subW g) e)) s

/-- MOVL (R176). -/
def execMovl (g : Gen) (s : State) : Host.Outcome State Fault Refusal :=
  issueWave (.movl g) (fun x =>
    x.alu g.d true fun i =>
      let a := x.a32 g i
      ⟨g.lit ++ a.bits, a.poison⟩) s

/-- LEA (R177). -/
def execLea (g : Gen) (s : State) : Host.Outcome State Fault Refusal :=
  issueWave (.lea g) (fun x =>
    let sh := g.sub.toNat % 8
    let ul := g.sub.getLsbD 3
    x.alu g.d true fun i =>
      let a := x.a64 g i
      let b := x.b32 g i
      ⟨a.bits + (extend (extU ul) b.bits <<< sh), a.poison || b.poison⟩) s

/-- PLOG (R181). -/
def execPlog (g : Gen) (s : State) : Host.Outcome State Fault Refusal :=
  issueWave (.plog g) (fun x =>
    x.setLanes g.d (fun _ => false) (fun i =>
      g.sub.getLsbD ((if x.predBit g.a i then 2 else 0) + (if x.predBit g.b i then 1 else 0)))) s

/-- PMOV (R182). -/
def execPmov (g : Gen) (s : State) : Host.Outcome State Fault Refusal :=
  issueWave (.pmov g) (fun x =>
    match g.sub.toNat with
    | 0 => x.alu g.d true fun _ => ⟨x.w.pred (g.a.toNat % 8) &&& x.w.live, false⟩
    | 1 => x.setLanes g.d (fun i => (x.a64 g i).poison) (fun i => hasLane (x.a64 g i).bits i)
    | 2 => x.setLanes g.d (fun i => (x.a32 g i).poison) (fun i => (x.a32 g i).bits != 0#32)
    | _ => x.alu g.d false fun i => val64 (if x.predBit g.a i then 1 else 0) false) s

/-- RDLANE (R183): the chosen lane's poison counts (R169). -/
def execRdlane (g : Gen) (s : State) : Host.Outcome State Fault Refusal :=
  issueWave (.rdlane g) (fun x =>
    let k := (x.b32 g x.first).bits.toNat % x.width
    let v := if hasLane x.sp.mask k then x.aW g (subW g) k else val64 0 false
    x.alu g.d (subW g) fun _ => v) s

/-- WRLANE (R183): D is renamed even when no lane is written; the lane written takes the poison of A and of B (R169).
(DEDUCED: log 21.) -/
def execWrlane (g : Gen) (s : State) : Host.Outcome State Fault Refusal :=
  issueWave (.wrlane g) (fun x =>
    let k := (x.b32 g x.first).bits.toNat % x.width
    let a := x.aW g (subW g) x.first
    let v : Val64 := { a with poison := a.poison || (x.b32 g x.first).poison }
    x.done (x.putW x.w g.d (subW g) (x.act &&& laneSet [k]) fun _ => v)) s

end Sys2Proof.Machine
end

