-- ==== Sys2Proof/Machine/Contain.lean ====
section
/-! DEFINITION. A strike and the rollback it causes (R418 to R424). -/

namespace Sys2Proof.Machine

/-- The wave's state is on the quadrant (R420): resident, in solo mode or held there, or exited with effects still
held. -/
def Wave.struck (w : Wave) (q : Nat) : Bool :=
  w.quadNo == q && ((w.onCore && (w.st == .resident || w.st == .solo || w.st == .held)) ||
    (w.st == .exited && !w.held.isEmpty))

/-- The checkpoint a rollback at clock T restores (R420): the newest taken at or before T − 128, else the oldest there
is. -/
def Wave.target (w : Wave) (t : Nat) : Option Checkpoint :=
  match (w.ckpts.filter fun k => decide (k.clk + 128 ≤ t)).getLast? with
  | some k => some k
  | none => w.ckpts.head?

/-- What the discarded BAR expects added to pending-byte counters is taken back (R347). -/
def State.takeBack (s : State) (hs : List Held) : State :=
  hs.foldl (fun s h => match h.effect with
    | .expected l n =>
      let p := s.natAt (l.plus 12) 4
      (s.setNatAt (l.plus 12) 4 (p - n)).afterWrite l
    | _ => s) s

/-- The effect is the record of a trap the wave has taken (R424). -/
def Effect.isRecord : Effect → Bool
  | .record _ _ _ => true
  | _ => false

/-- The traps of instructions issued before a checkpoint that the wave had taken or recorded after it are due again,
and their records, where they are still held, are made again with them (R420, R424). (DEDUCED: log 40.) -/
def Wave.dueAgain (w v : Wave) (k : Checkpoint) : Wave :=
  let back := w.taken.filter fun t => decide (k.id < t.ck ∧ t.trap.no ≤ k.no)
  let all := v.pended ++ back.map (·.trap)
  let stays (r : Raised) : Bool := k.sys.pend != 0#64 && pendWord r == k.sys.pend.toNat
  let out := back.filter fun t => t.said && !(w.held.any fun h => h.no == t.trap.no && h.effect.isRecord)
  { v with
    due := v.due ++ all.filter (!stays ·), pended := all.filter stays, taken := w.taken.filter (·.ck ≤ k.id)
    told := w.told.filter (· ≤ k.no) ++ out.map (·.trap.no)
    held := v.held.filter fun h => !(h.effect.isRecord && back.any (·.trap.no == h.no)) }

/-- Roll a wave back (R420 to R424). (DEDUCED: log 40; PRESUMED: log 126.) -/
def State.rollback (s : State) (id : Nat) : State :=
  match s.wave? id with
  | none => s
  | some w => match w.target s.clk with
    | none => s
    | some k =>
      let s := s.count (State.dieOf w.core) 1
      let s := s.takeBack (w.held.filter fun h => decide (k.no < h.no ∧ s.clk < h.clk + 128))
      let s := s.discardMsgs w k.no
      let v := w.dueAgain ((w.discardAfter k.no s.clk).restore k s.clk) k
      let v : Wave := { v with stopping := w.stopping || s.mustLeave w, onCore := true }
      (s.putWave v).settleActive w v

/-- A strike report names a quadrant: its waves are rolled back (R418, R420). (DESIGN CHOICE: log 10.) -/
def execStrikeReport (quad : Nat) (s : State) : Host.Outcome State Fault Refusal :=
  .next <|
    if 256 ≤ quad || !s.dev.on then s
    else
      let s := s.count (quad / 128) 0
      ((s.waves.filter fun w => w.struck quad).foldl (fun s w => s.rollback w.id) s).poll

end Sys2Proof.Machine
end

