-- ==== Sys2Proof/Machine/Sfu.lean ====
section
/-! DEFINITION. The special-function unit (R189). sqrt is exact arithmetic and one rounding. Of the other functions the
spec gives a bound and special cases and no bits: the value is a free one, `Config.sfu`, taken where it lies within the
bound, and the nearest binary32 value otherwise. The exact result is known to 2^-500 by fixed-point series, and the
bound is judged on that. -/

namespace Sys2Proof.Machine

/-- Fixed-point numbers: an integer n stands for n / 2^512. -/
def fxP : Nat := 512
def fxOne : Int := 2 ^ 512
def fxMul (a b : Int) : Int := a * b / fxOne

/-- x - x^3/3 + x^5/5 ... or with plus signs: arctangent and its hyperbolic form. -/
def fxAtan (alt : Bool) (x2 : Int) : Nat → Nat → Int → Int
  | 0, _, _ => 0
  | fuel + 1, k, t => t / (2 * k + 1 : Nat) + fxAtan alt x2 fuel (k + 1) (if alt then -(fxMul t x2) else fxMul t x2)

def fxLn2 : Int := 2 * fxAtan false (fxOne / 9) 170 0 (fxOne / 3)
def fxPi : Int :=
  16 * fxAtan true (fxOne / 25) 120 0 (fxOne / 5) - 4 * fxAtan true (fxOne / 57121) 40 0 (fxOne / 239)

/-- The exponential series. -/
def fxExpSeries (x : Int) : Nat → Nat → Int → Int
  | 0, _, _ => 0
  | fuel + 1, k, t => t + fxExpSeries x fuel (k + 1) (fxMul t x / (k + 1 : Nat))

/-- e^x for -400 ≤ x ≤ 400. -/
def fxExp (x : Int) : Int :=
  let k := x / fxLn2
  let y := fxExpSeries (x - k * fxLn2) 110 0 fxOne
  if 0 ≤ k then y * 2 ^ k.toNat else y / 2 ^ (-k).toNat

/-- Natural logarithm of a rational in [1, 2), as a fixed-point number. -/
def fxLn (y : Int) : Int :=
  let z := (y - fxOne) * fxOne / (y + fxOne)
  2 * fxAtan false (fxMul z z) 170 0 z

/-- sin by its series, for an argument reduced to [-4, 4]. -/
def fxSinSeries (x2 : Int) : Nat → Nat → Int → Int
  | 0, _, _ => 0
  | fuel + 1, k, t => t + fxSinSeries x2 fuel (k + 2) (-(fxMul t x2 / ((k + 1) * (k + 2) : Nat)))

/-- The error function's series, 2/√π Σ (-1)^n x^(2n+1) / (n! (2n+1)), before the factor. -/
def fxErfSeries (x2 : Int) : Nat → Nat → Int → Int
  | 0, _, _ => 0
  | fuel + 1, n, t => t / (2 * n + 1 : Nat) + fxErfSeries x2 fuel (n + 1) (-(fxMul t x2 / (n + 1 : Nat)))

/-- Integer square root. -/
def natSqrt (n : Nat) : Nat :=
  let rec go (lo : Nat) : Nat → Nat
    | 0 => lo
    | k + 1 =>
      let c := lo + 2 ^ k
      go (if c * c ≤ n then c else lo) k
  go 0 (Nat.log2 n / 2 + 1)

def fxSqrt (x : Int) : Int := natSqrt (x.toNat * 2 ^ 512)

/-- A finite number as fixed point, clamped to ± 2^200 in magnitude. -/
def fxOf (neg : Bool) (m : Nat) (e : Int) : Int :=
  let v : Int := if 0 ≤ e + 512 then m * 2 ^ (e + 512).toNat else m / 2 ^ (-(e + 512)).toNat
  if neg then -v else v

def fxClamp (x : Int) (b : Nat) : Int := clampInt x (-(b * fxOne)) (b * fxOne)

/-- The exact result of an SFU function other than sqrt for a finite nonzero argument, to 2^-500. -/
def sfuExact (fn : Nat) (neg : Bool) (m : Nat) (e : Int) : Int :=
  let x := fxOf neg m e
  match fn with
  | 0 => if x = 0 then 0 else fxOne * fxOne / x
  | 1 => if x ≤ 0 then 0 else fxSqrt (fxOne * fxOne / x)
  | 3 => fxExp (fxMul (fxClamp x 300) fxLn2)
  | 4 =>
    let l := expOf m 1 e
    let y := fxOf false m (e - l)
    l * fxOne + fxLn y * fxOne / fxLn2
  | 5 =>
    let r := x % (2 * fxPi)
    let r := r - fxPi
    Int.neg (fxSinSeries (fxMul r r) 130 1 r)
  | 6 =>
    let r := x % (2 * fxPi)
    let r := r - fxPi
    Int.neg (fxSinSeries (fxMul r r) 130 0 fxOne)
  | 7 =>
    let t := fxExp (2 * fxClamp x 150)
    (t - fxOne) * fxOne / (t + fxOne)
  | 8 => fxOne * fxOne / (fxOne + fxExp (-(fxClamp x 300)))
  | _ =>
    let y := fxClamp x 8
    let s := fxErfSeries (fxMul y y) 400 0 y
    2 * s * fxOne / fxSqrt fxPi

/-- The gap between the binary32 values that bracket a value: an ulp, as fixed point (R189). -/
def sfuUlp (y : Int) : Int :=
  let l := if y = 0 then (-126 : Int) else max (expOf y.natAbs 1 (-512)) (-126)
  2 ^ (l - 23 + 512).toNat

/-- The bound on the error (R189), as fixed point. (DESIGN CHOICE: log 8.) -/
def sfuBound (fn : Nat) (y : Int) (insideHalfTwo : Bool) : Int :=
  match fn with
  | 0 | 1 => sfuUlp y
  | 3 => 2 * sfuUlp y
  | 4 => if insideHalfTwo then 2 ^ 490 else 2 * sfuUlp y
  | 5 | 6 | 7 => 2 ^ 490
  | _ => 2 ^ 489

/-- A finite binary32 bit pattern as fixed point. -/
def fxOfBits (b : Nat) : Option Int :=
  match Fmt.decode .f32 b with
  | .fin s m e => some (fxOf s m e)
  | _ => none

/-- The value delivered before underflow is judged: the free value where it keeps the bound, else the nearest. -/
def sfuDeliver (fn : Nat) (x : Nat) (neg : Bool) (m : Nat) (e : Int) : Nat × Flags :=
  let y := sfuExact fn neg m e
  let inside := expOf m 1 e = 0 ∨ expOf m 1 e = -1 ∨ (expOf m 1 e = 1 ∧ m = 2 ^ Nat.log2 m)
  let near := if y = 0 then (0, 0#5) else Fmt.round .f32 .rne false (decide (y < 0)) y.natAbs 1 (-512)
  let free := (Config.sfu fn (BitVec.ofNat 32 x)).toNat
  match fxOfBits free with
  | none => (near.1, near.2 &&& fOF)
  | some v =>
    if near.2 &&& fOF = 0#5 ∧ (v - y).natAbs ≤ (sfuBound fn y (decide inside)).natAbs then (free, 0#5)
    else (near.1, near.2 &&& fOF)

/-- Whether a number is a power of two, and its exponent. -/
def powTwo? (m : Nat) (e : Int) : Option Int :=
  if m ≠ 0 ∧ m = 2 ^ Nat.log2 m then some (Nat.log2 m + e) else none

/-- The results R189 fixes exactly: special operands, powers of two, integers, small arguments of tanh. -/
def sfuSpecial (fn x : Nat) (a : Num) : Option FRes :=
  let one := 0x3F800000
  match a with
  | .nan nv => some (Fmt.nan .f32, nvIf nv)
  | .inf s =>
    match fn with
    | 0 => some (Fmt.zero .f32 s, 0#5)
    | 1 => some (if s then (Fmt.nan .f32, fNV) else (0, 0#5))
    | 3 => some (if s then 0 else Fmt.infinity .f32 false, 0#5)
    | 4 => some (if s then (Fmt.nan .f32, fNV) else (Fmt.infinity .f32 false, 0#5))
    | 5 | 6 => some (Fmt.nan .f32, fNV)
    | 7 | 9 => some (if s then one + 2 ^ 31 else one, 0#5)
    | _ => some (if s then 0 else one, 0#5)
  | .fin s m e =>
    if m = 0 then
      match fn with
      | 0 | 1 => some (Fmt.infinity .f32 s, fDZ)
      | 3 => some (one, 0#5)
      | 4 => some (Fmt.infinity .f32 true, fDZ)
      | 5 | 7 => some (Fmt.zero .f32 s, 0#5)
      | _ => none
    else
      match fn with
      | 0 => (powTwo? m e).map (fun k => Fmt.round .f32 .rne false s 1 1 (-k))
      | 1 => if s then some (Fmt.nan .f32, fNV) else none
      | 3 =>
        let v := fxOf s m e
        if v % fxOne = 0 ∧ -126 * fxOne ≤ v ∧ v ≤ 127 * fxOne then
          some (Fmt.pack .f32 false (2 ^ 23) (v / fxOne - 23), 0#5)
        else if v ≥ 128 * fxOne then some (Fmt.infinity .f32 false, fOF)
        else none
      | 4 =>
        if s then some (Fmt.nan .f32, fNV)
        else (powTwo? m e).map (fun k => ((intToF .f32 .home k).1, 0#5))
      | 7 => if expOf m 1 e < -12 then some (x, 0#5) else none
      | _ => none

/-- SFU sqrt, correctly rounded (R189). -/
def sfuSqrt (c : Ctl) (a : Num) : FRes :=
  match a with
  | .nan nv => (Fmt.nan .f32, nvIf nv)
  | .inf s => if s then (Fmt.nan .f32, fNV) else (Fmt.infinity .f32 false, 0#5)
  | .fin s m e =>
    if m = 0 then (Fmt.zero .f32 s, 0#5)
    else if s then (Fmt.nan .f32, fNV)
    else
      let (m, e) := if e % 2 = 0 then (m, e) else (2 * m, e - 1)
      let n := m * 2 ^ 64
      let r := natSqrt n
      Fmt.round .f32 c.dir c.fout false (2 * r + if r * r = n then 0 else 1) 1 (e / 2 - 33)

/-- SFU (R189): underflow is judged on the value delivered. (DESIGN CHOICE: log 8.) -/
def sfuOp (fn : Nat) (c : Ctl) (x : Nat) : FRes :=
  let a := Fmt.source .f32 c.fin x
  if fn = 2 then sfuSqrt c a
  else
    let (v, fl) := match sfuSpecial fn (Fmt.flushed .f32 c.fin x) a with
      | some (v, fl) => (v, fl &&& (fNV ||| fDZ ||| fOF))
      | none =>
        match a with
        | .fin s m e =>
          if m = 0 then
            (match fn with
              | 6 => sfuDeliver fn x false 0 0
              | 8 => sfuDeliver fn x false 0 0
              | _ => sfuDeliver fn x s 0 0)
          else sfuDeliver fn (Fmt.flushed .f32 c.fin x) s m e
        | _ => (Fmt.nan .f32, 0#5)
    if Fmt.isSubnormal .f32 v then
      if c.fout then (Fmt.zero .f32 (v.testBit 31), fl ||| fUF ||| fNX) else (v, fl ||| fUF)
    else (v, fl)

end Sys2Proof.Machine
end

