-- ==== Sys2Proof/Machine/Float.lean ====
section
/-! DEFINITION. Floating-point instructions, conversions, packed halves, dot products and the special-function unit
(R62 to R75, R168 to R170, R178 to R180, R184 to R191). -/

namespace Sys2Proof.Machine

namespace Iss

/-- A lane's mode word, as sampled at issue (R150). -/
def modeOf (x : Iss) (lane : Nat) : Word := x.w.modes.getD lane modeReset

/-- The controls of a lane for an instruction with this RND. -/
def ctl (x : Iss) (g : Gen) (lane : Nat) : Ctl := ctlOf (x.modeOf lane) g.rnd

/-- The active lanes that raise a flag their mode word traps (R71). -/
def arithLanes (x : Iss) (f : Nat → Flags) : Lanes :=
  x.lanesWhere fun i => f i &&& trapEnables (x.modeOf i) != 0#5

/-- The wave with each active lane's flags set (R70). -/
def setModes (x : Iss) (w : Wave) (f : Nat → Flags) : Wave :=
  x.lanes.foldl (fun w i => w.addFlags x.no i (f i)) w

/-- Write one value per active lane with its flags, or raise ARITH (R70, R71, R168). -/
def float (x : Iss) (d : Fld) (wide : Bool) (f : Nat → Val64 × Flags) : Res :=
  let bad := x.arithLanes fun i => (f i).2
  if bad != 0#64 then x.raise ⟨.arith, bad, 0, none⟩
  else x.done (x.setModes (x.putW x.w d wide x.act fun i => (f i).1) fun i => (f i).2)

end Iss

/-- The format F selects (R165). -/
def fmtF (g : Gen) : Fmt := if subW g then .f64 else .f32

/-- A float result as a register value. -/
def fval (r : FRes) (p : Bool) : Val64 × Flags := (val64 r.1 p, r.2)

/-- A floating operation on A. -/
def float1 (g : Gen) (op : Fmt → Ctl → Nat → FRes) (x : Iss) : Res :=
  x.float g.d (subW g) fun i =>
    let a := x.aW g (subW g) i
    fval (op (fmtF g) (x.ctl g i) a.bits.toNat) a.poison

/-- A floating operation on A and B. -/
def float2 (g : Gen) (op : Fmt → Ctl → Nat → Nat → FRes) (x : Iss) : Res :=
  x.float g.d (subW g) fun i =>
    let a := x.aW g (subW g) i
    let b := x.bW g (subW g) .float i
    fval (op (fmtF g) (x.ctl g i) a.bits.toNat b.bits.toNat) (a.poison || b.poison)

/-- FADD (R184). -/
def execFadd (g : Gen) (s : State) : Host.Outcome State Fault Refusal := issueWave (.fadd g) (float2 g fAdd) s

/-- FSUB (R184). -/
def execFsub (g : Gen) (s : State) : Host.Outcome State Fault Refusal := issueWave (.fsub g) (float2 g fSub) s

/-- FMUL (R184). -/
def execFmul (g : Gen) (s : State) : Host.Outcome State Fault Refusal := issueWave (.fmul g) (float2 g fMul) s

/-- FFMA (R184). -/
def execFfma (g : Gen) (s : State) : Host.Outcome State Fault Refusal :=
  issueWave (.ffma g) (fun x =>
    x.float g.d (subW g) fun i =>
      let a := x.aW g (subW g) i
      let b := x.bW g (subW g) .float i
      let c := x.cW g (subW g) i
      fval (fFma (fmtF g) (x.ctl g i) a.bits.toNat b.bits.toNat c.bits.toNat) (a.poison || b.poison || c.poison)) s

/-- FMIN (R185). -/
def execFmin (g : Gen) (s : State) : Host.Outcome State Fault Refusal :=
  issueWave (.fmin g) (float2 g fun f c a b => fMinMax f c.fin false a b) s

/-- FMAX (R185). -/
def execFmax (g : Gen) (s : State) : Host.Outcome State Fault Refusal :=
  issueWave (.fmax g) (float2 g fun f c a b => fMinMax f c.fin true a b) s

/-- FSET (R186): POISON where a source is poisoned, ARITH where a trapped flag is raised, the lower lane deciding; in
a lane that has both, POISON. (DESIGN CHOICE: log 148.) -/
def execFset (g : Gen) (s : State) : Host.Outcome State Fault Refusal :=
  issueWave (.fset g) (fun x =>
    let wide := g.sub.getLsbD 4
    let f : Fmt := if wide then .f64 else .f32
    let a := x.aW g wide
    let b := x.bW g wide .float
    let r (i : Nat) := fSet f (x.modeOf i |>.getLsbD 2) (g.sub.toNat % 8) (g.sub.getLsbD 3) (a i).bits.toNat (b i).bits.toNat
    let pz := x.lanesWhere fun i => (a i).poison || (b i).poison
    let bad := x.arithLanes fun i => (r i).2
    if pz != 0#64 && (bad == 0#64 || lowest pz ≤ lowest bad) then x.poison pz 0
    else if bad != 0#64 then x.raise ⟨.arith, bad, 0, none⟩
    else x.done (x.setModes (x.putPred x.w g.d x.act (x.lanesWhere fun i => (r i).1)) fun i => (r i).2)) s

/-- FRND (R187). -/
def execFrnd (g : Gen) (s : State) : Host.Outcome State Fault Refusal := issueWave (.frnd g) (float1 g fRnd) s

/-- FCLASS (R188). -/
def execFclass (g : Gen) (s : State) : Host.Outcome State Fault Refusal :=
  issueWave (.fclass g) (fun x =>
    x.alu g.d false fun i =>
      let a := x.aW g (subW g) i
      val64 (fClass (fmtF g) (x.modeOf i |>.getLsbD 2) (natOf (widthOf (subW g)) a)) a.poison) s

/-- FSCL (R184): B is a signed 32-bit integer at either width. -/
def execFscl (g : Gen) (s : State) : Host.Outcome State Fault Refusal :=
  issueWave (.fscl g) (fun x =>
    x.float g.d (subW g) fun i =>
      let a := x.aW g (subW g) i
      let b := x.b32 g i
      fval (fScl (fmtF g) (x.ctl g i) a.bits.toNat (signedOf 32 b.bits.toNat)) (a.poison || b.poison)) s

/-! Conversions (R73, R74, R178). -/

/-- An integer clamped into a type and extended again (SUB 28 to 30). -/
def narrow (v lo hi : Int) : FRes := (intBits 32 (clampInt v lo hi), 0#5)

/-- CVT's conversion of a source under its SUB. A conversion marked "no" ignores flush-out. -/
def cvtOp (sub : Nat) (c : Ctl) (a : Nat) : FRes :=
  let exact : Ctl := ⟨.rne, c.fin, false⟩
  match sub with
  | 0 => fToF .f16 .f32 exact a
  | 1 => fToF .bf16 .f32 exact a
  | 2 => fToF .f32 .f16 c a
  | 3 => fToF .f32 .bf16 c a
  | 4 => fToF .f32 .f64 exact a
  | 5 => fToF .f64 .f32 c a
  | 6 => fToF .e4m3 .f32 exact a
  | 7 => fToF .e5m2 .f32 exact a
  | 8 => fToF .e2m1 .f32 exact a
  | 9 => fToF .f32 .e4m3 c a
  | 10 => fToF .f32 .e5m2 c a
  | 11 => fToF .f32 .e2m1 c a
  | 12 => intToF .f32 c (signedOf 32 a)
  | 13 => intToF .f32 c (a % 2 ^ 32 : Nat)
  | 14 => fToInt .f32 c true 32 a
  | 15 => fToInt .f32 c false 32 a
  | 16 => intToF .f64 c (signedOf 64 a)
  | 17 => intToF .f64 c (a % 2 ^ 64 : Nat)
  | 18 => fToInt .f64 c true 64 a
  | 19 => fToInt .f64 c false 64 a
  | 20 => intToF .f64 exact (signedOf 32 a)
  | 21 => fToInt .f64 c true 32 a
  | 22 => fToInt .f32 c true 64 a
  | 23 => Fmt.roundNum .f32 exact (s16 (a % 2 ^ 16))
  | 24 => (intBits 32 (signedOf 8 a), 0#5)
  | 25 => (intBits 32 (signedOf 16 a), 0#5)
  | 26 => (a % 2 ^ 8, 0#5)
  | 27 => (a % 2 ^ 16, 0#5)
  | 28 => narrow (signedOf 32 a) (-128) 127
  | 29 => narrow (signedOf 32 a) (-32768) 32767
  | _ => narrow (signedOf 32 a) 0 255

/-- Whether CVT's destination and source are pairs (R73). -/
def cvtWide (sub : Nat) : Bool × Bool :=
  match sub with
  | 4 | 20 | 22 => (true, false)
  | 5 | 21 => (false, true)
  | 16 | 17 | 18 | 19 => (true, true)
  | _ => (false, false)

/-- CVT (R178). -/
def execCvt (g : Gen) (s : State) : Host.Outcome State Fault Refusal :=
  issueWave (.cvt g) (fun x =>
    let (dw, sw) := cvtWide g.sub.toNat
    x.float g.d dw fun i =>
      let a := x.aW g sw i
      fval (cvtOp g.sub.toNat (x.ctl g i) a.bits.toNat) a.poison) s

/-- PACK (R179): sources are never flushed. -/
def packOp (sub : Nat) (c : Ctl) (a b k : Nat) : FRes :=
  let c : Ctl := { c with fin := false }
  let two (f : Fmt) (n : Nat) (top : Nat) : FRes :=
    let y := fToF .f32 f c b
    let z := fToF .f32 f c a
    (top * 2 ^ (2 * n) + y.1 * 2 ^ n + z.1, y.2 ||| z.2)
  match sub with
  | 0 => (b % 2 ^ 16 * 2 ^ 16 + a % 2 ^ 16, 0#5)
  | 1 => two .f16 16 0
  | 2 => two .bf16 16 0
  | 3 => two .e4m3 8 (k % 2 ^ 16)
  | 4 => two .e5m2 8 (k % 2 ^ 16)
  | 5 => two .e2m1 4 (k % 2 ^ 24)
  | _ => (k % 2 ^ 16 * 2 ^ 16 + b % 2 ^ 8 * 2 ^ 8 + a % 2 ^ 8, 0#5)

/-- PACK (R179). -/
def execPack (g : Gen) (s : State) : Host.Outcome State Fault Refusal :=
  issueWave (.pack g) (fun x =>
    x.float g.d false fun i =>
      let a := x.a32 g i
      let b := x.b32 g i
      let c := if 3 ≤ g.sub.toNat then x.c32 g i else .zero
      fval (packOp g.sub.toNat (x.ctl g i) a.bits.toNat b.bits.toNat c.bits.toNat) (a.poison || b.poison || c.poison)) s

/-- UNPK (R180). -/
def unpkOp (sub a b : Nat) : FRes :=
  let n := if sub < 4 then 2 else if sub < 8 then 4 else 8
  let w := 32 / n
  let e := a / 2 ^ (w * (b % n)) % 2 ^ w
  match sub with
  | 0 | 4 => (e, 0#5)
  | 1 | 5 => (intBits 32 (signedOf w e), 0#5)
  | 2 => fToF .f16 .f32 .home e
  | 3 => fToF .bf16 .f32 .home e
  | 6 => fToF .e4m3 .f32 .home e
  | 7 => fToF .e5m2 .f32 .home e
  | _ => fToF .e2m1 .f32 .home e

/-- UNPK (R180). -/
def execUnpk (g : Gen) (s : State) : Host.Outcome State Fault Refusal :=
  issueWave (.unpk g) (fun x =>
    x.float g.d false fun i =>
      let a := x.a32 g i
      let b := x.b32 g i
      fval (unpkOp g.sub.toNat a.bits.toNat b.bits.toNat) (a.poison || b.poison)) s

/-! Packed halves and dot products (R190, R191). -/

/-- Element j of n-bit elements (R62). -/
def elem (w v j : Nat) : Nat := v / 2 ^ (w * j) % 2 ^ w

/-- A packed operation: `op` on A's element, B's paired element and C's element, in the format H selects. -/
def packed (g : Gen) (usesC : Bool) (op : Fmt → Ctl → Nat → Nat → Nat → FRes) (x : Iss) : Res :=
  let f : Fmt := if subW g then .bf16 else .f16
  let sw := subU g
  x.float g.d false fun i =>
    let a := x.a32 g i
    let b := x.b32 g i
    let c := if usesC then x.c32 g i else .zero
    let one (j : Nat) : FRes :=
      op f (x.ctl g i) (elem 16 a.bits.toNat j) (elem 16 b.bits.toNat (if sw then 1 - j else j)) (elem 16 c.bits.toNat j)
    fval ((one 1).1 * 2 ^ 16 + (one 0).1, (one 0).2 ||| (one 1).2) (a.poison || b.poison || c.poison)

/-- PKADD (R190). -/
def execPkadd (g : Gen) (s : State) : Host.Outcome State Fault Refusal :=
  issueWave (.pkadd g) (packed g false fun f c a b _ => fAdd f c a b) s

/-- PKMUL (R190). -/
def execPkmul (g : Gen) (s : State) : Host.Outcome State Fault Refusal :=
  issueWave (.pkmul g) (packed g false fun f c a b _ => fMul f c a b) s

/-- PKFMA (R190). -/
def execPkfma (g : Gen) (s : State) : Host.Outcome State Fault Refusal := issueWave (.pkfma g) (packed g true fFma) s

/-- FDOT (R75, R191). -/
def fdotOp (sub : Nat) (c : Ctl) (a b k : Nat) : FRes :=
  let es (w n v : Nat) : List Nat := (List.range n).map (elem w v)
  match sub with
  | 0 => fDot .f16 c (es 16 2 a) (es 16 2 b) k
  | 1 => fDot .bf16 c (es 16 2 a) (es 16 2 b) k
  | 2 => fDot .e4m3 c (es 8 4 a) (es 8 4 b) k
  | 3 => fDot .e5m2 c (es 8 4 a) (es 8 4 b) k
  | 4 =>
    let t := ((es 8 4 a).zip (es 8 4 b)).foldl (fun (t : Int) p => t + signedOf 8 p.1 * signedOf 8 p.2) (signedOf 32 k)
    (intBits 32 t, 0#5)
  | _ => fDot .e2m1 c (es 4 8 a) (es 4 8 b) k

/-- FDOT (R191). -/
def execFdot (g : Gen) (s : State) : Host.Outcome State Fault Refusal :=
  issueWave (.fdot g) (fun x =>
    x.float g.d false fun i =>
      let a := x.a32 g i
      let b := x.b32 g i
      let c := x.c32 g i
      fval (fdotOp g.sub.toNat (x.ctl g i) a.bits.toNat b.bits.toNat c.bits.toNat) (a.poison || b.poison || c.poison)) s

/-! The special-function unit (R170). -/

/-- Put an SFU or FDIV into the unit for its clocks, with its results and flags. Where it will raise ARITH it has no
results, and the flags are those of the lanes that raise it (R71, R168). (DESIGN CHOICE: log 139.) -/
def toUnit (x : Iss) (d : Fld) (wide : Bool) (clocks : Nat) (f : Nat → Val64 × Flags) : Res :=
  if x.clk < (x.s.quad x.w.quadNo).unitUntil then .stall x.s
  else
    let bad := x.arithLanes fun i => (f i).2
    let o := x.opOf .value
    let (w, o) := x.w.addDests x o d (if wide then 2 else 1)
    let o : Op := { o with
      result := if bad != 0#64 then [] else x.lanes.map (fun i => (i, (f i).1))
      flags := (lanesOf (if bad != 0#64 then bad else x.act)).map (fun i => (i, (f i).2))
      olds := o.dests.filterMap fun t => match t with
        | .reg name p => some (p, x.w.phys? x.sp.win name)
        | _ => none }
    let s := x.s.putWave { w with ops := w.ops ++ [o] }
    .ok (s.modQuad x.w.quadNo fun q => { q with unit := q.unit ++ [(x.w.id, x.uid)], unitUntil := x.clk + clocks })

/-- FDIV (R184). -/
def execFdiv (g : Gen) (s : State) : Host.Outcome State Fault Refusal :=
  issueWave (.fdiv g) (fun x =>
    toUnit x g.d (subW g) (if subW g then 32 else 8) fun i =>
      let a := x.aW g (subW g) i
      let b := x.bW g (subW g) .float i
      fval (fDiv (fmtF g) (x.ctl g i) a.bits.toNat b.bits.toNat) (a.poison || b.poison)) s

/-- SFU (R189). -/
def execSfu (g : Gen) (s : State) : Host.Outcome State Fault Refusal :=
  issueWave (.sfu g) (fun x =>
    toUnit x g.d false 4 fun i =>
      let a := x.a32 g i
      fval (sfuOp g.sub.toNat (x.ctl g i) a.bits.toNat) a.poison) s

/-- Put the version before in the place of a register nothing was written to: in the windows, the lookahead windows
and the checkpoints (R168). -/
def Wave.takeBack (w : Wave) (p : Nat) (old : Option Nat) (clk : Nat) : Wave :=
  let win (v : Window) : Window := { v with map := match old with
    | some r => v.map.map fun e => if e.2 == p then (e.1, r) else e
    | none => v.map.filter (·.2 != p) }
  let look (l : List Ahead) : List Ahead := l.map fun a => { a with regs := a.regs.map fun e => if e.2 == some p then (e.1, old) else e }
  let deep (v : Window) : Window := { win v with saved := v.saved.map fun k => { k with ahead := look k.ahead } }
  let froze (f : Frozen) : Frozen := { f with ahead := look f.ahead }
  let mapped := w.windows.any fun v => v.map.any (·.2 == p)
  { w with
    windows := w.windows.map deep, ahead := look w.ahead, frozen := w.frozen.map froze
    ckpts := w.ckpts.map fun c => { c with
      windows := c.windows.map deep, ahead := look c.ahead, frozen := c.frozen.map froze }
    regs := w.regs.map fun r =>
      if mapped && some r.id == old then { r with freed := none, deferred := false }
      else if mapped && r.id == p then { r with freed := some clk, deferred := true }
      else r }

/-- A choice from a list: free where it has several. -/
def State.pick {α : Type} (s : State) (l : List α) : Option α × State :=
  match l with
  | [] => (none, s)
  | [a] => (some a, s)
  | _ => let (k, s) := s.choose l.length
    (l[k]?, s)

/-- An SFU or FDIV of a quadrant completes: the results and flags are written, or ARITH falls due, nothing is, and its
destination names keep the version mapped before (R150, R168, R170). -/
def execSfuComplete (quad : Nat) (s : State) : Host.Outcome State Fault Refusal :=
  .next <| match s.pick (s.quad quad).unit with
    | (none, s) => s
    | (some (id, uid), s) =>
      let s := s.modQuad quad fun q => { q with unit := q.unit.filter (· != (id, uid)) }
      match (s.wave? id).bind (·.op? uid) with
      | none => s
      | some o =>
        if o.result.isEmpty then
          (s.reportOp id o ⟨.arith, laneSet (o.flags.map (·.1)), 0, none⟩).modWave id fun w =>
            o.olds.foldl (fun w e => w.takeBack e.1 e.2 s.clk) (w.finishOp uid s.clk)
        else
          s.modWave id fun w =>
            let w := o.result.foldl (fun w r => w.deliver64 o r.1 r.2) w
            let w := o.flags.foldl (fun w r => w.addFlags o.no r.1 r.2) w
            w.finishOp uid s.clk

end Sys2Proof.Machine
end

