-- ==== Sys2Proof/Machine/HostPort.lean ====
section
/-! DEFINITION. Requests of the host for device memory, as the CXL port receives them (R248, R367, R369). -/

namespace Sys2Proof.Machine

/-- The port takes a request at a local physical address, within one half-line of the 384 GiB of device memory (R246,
R367), once the device is Ready (R442). (DESIGN CHOICE: log 47, 160.) -/
def State.hostRequest (s : State) (kind addr size : Nat) (data : List Byte) (poisoned : Bool) : State :=
  if !s.dev.on || s.dev.st != .ready || size = 0 || 64 < addr % 64 + size || 0x6000000000 < addr + size then s
  else
    let id := s.nextMsg
    let s : State := { s with nextMsg := id + 1 }
    (s.modHomes fun h => { h with hostReqs := h.hostReqs ++ [{
      id, kind, addr, data, size, poisoned, waits := 0, probed := false, held := false }] }).poll

/-- The local physical address that a host physical address names, none outside the range the host has assigned (R367). -/
def hostLocal (addr : Nat) : Option Nat := if Config.hostBase ≤ addr then some (addr - Config.hostBase) else none

/-- The host reads device memory. (DESIGN CHOICE: log 47.) -/
def execHostRead (addr : Nat) (size : Nat) (cacheable : Bool) (s : State) : Host.Outcome State Fault Refusal :=
  .next <| (hostLocal addr).elim s fun a => s.hostRequest (if cacheable then 1 else 0) a size [] false

/-- The host writes device memory. (DESIGN CHOICE: log 47.) -/
def execHostWrite (addr : Nat) (data : List Byte) (poisoned : Bool) (s : State) : Host.Outcome State Fault Refusal :=
  .next <| (hostLocal addr).elim s fun a => s.hostRequest 2 a data.length data poisoned

end Sys2Proof.Machine
end

