-- ==== Sys2Proof/Machine/Lanes.lean ====
section
/-! DEFINITION. Cross-lane instructions (R77 to R79, R192 to R206). -/

namespace Sys2Proof.Machine

/-- PERM (R195). -/
def execPerm (g : Gen) (s : State) : Host.Outcome State Fault Refusal :=
  issueWave (.perm g) (fun x =>
    x.alu g.d (subW g) fun i =>
      let b := x.b32 g i
      if subU g ∧ x.width ≤ b.bits.toNat then val64 0 b.poison
      else
        let j := b.bits.toNat % x.width
        let a := if hasLane x.sp.mask j then x.aW g (subW g) j else val64 0 false
        ⟨a.bits, a.poison || b.poison⟩) s

/-- The active lanes whose bit of a predicate is set. -/
def Iss.votes (x : Iss) (f : Fld) : Lanes := x.lanesWhere (x.predBit f)

/-- BALLOT (R196). -/
def execBallot (g : Gen) (s : State) : Host.Outcome State Fault Refusal :=
  issueWave (.ballot g) (fun x =>
    let m := x.votes g.a
    if subW g then x.alu g.d false fun _ => val64 (lanesOf m).length false else x.alu g.d true fun _ => ⟨m, false⟩) s

/-- VOTE (R197). -/
def execVote (g : Gen) (s : State) : Host.Outcome State Fault Refusal :=
  issueWave (.vote g) (fun x =>
    let m := x.votes g.a
    let r := match g.sub.toNat with
      | 0 => m == x.act
      | 1 => m != 0#64
      | 2 => m == x.act || m == 0#64
      | _ => (lanesOf m).length % 2 == 1
    x.setLanes g.d (fun _ => false) (fun _ => r)) s

/-- MATCH (R198). -/
def execMatchl (g : Gen) (s : State) : Host.Outcome State Fault Refusal :=
  issueWave (.matchl g) (fun x =>
    let a := x.aW g (subW g)
    let same (i j : Nat) : Bool := (a i).bits == (a j).bits
    if subU g then x.setLanes g.d (fun i => (a i).poison) (fun _ => x.lanes.all (same x.first))
    else x.alu g.d true fun i =>
      ⟨x.lanesWhere (same i), x.lanes.any fun j => same i j && (a j).poison⟩) s

/-! Scans and reductions. -/

/-- Whether an operator works on binary32 (R199). -/
def scanFloat (sub : Nat) : Bool := sub = 1 || sub = 4 || sub = 7 || sub = 11

/-- A contribution flushed by its own lane's mode word (R200). -/
def scanFlush (sub : Nat) (fin : Bool) (v : Nat) : Nat :=
  if sub = 11 then Fmt.flushed .f32 fin (v % 2 ^ 32) + 2 ^ 32 * Fmt.flushed .f32 fin (v / 2 ^ 32)
  else if scanFloat sub then Fmt.flushed .f32 fin v
  else v

/-- A lane of the tree: its value, none for ε, and the flags of the combines it received. -/
abbrev TreeLane := Option Nat × Flags

/-- Combine into a lane, x the left operand: ε gives the other operand unchanged (R77). -/
def treeCombine (sub : Nat) (c : Ctl) (x y : TreeLane) : TreeLane :=
  match x.1, y.1 with
  | some a, some b =>
    let r := scanOp sub c a b
    (some r.1, y.2 ||| r.2)
  | none, _ => y
  | some a, none => (some a, y.2)

/-- One level of the tree at distance d: lane i takes lane i - d on its left. -/
def treeLevel (sub d : Nat) (ctl : Nat → Ctl) (l : List TreeLane) : List TreeLane :=
  l.zipIdx.map fun (y, i) => if d ≤ i then treeCombine sub (ctl i) (l.getD (i - d) (none, 0#5)) y else y

/-- The Kogge–Stone tree over the width (R77). -/
def tree (sub w : Nat) (ctl : Nat → Ctl) (l : List TreeLane) : List TreeLane :=
  [1, 2, 4, 8, 16, 32].foldl (fun l d => if d < w then treeLevel sub d ctl l else l) l

/-- SCANL and REDL (R199 to R201): `pick` names the tree lane a lane receives, none for ε before lane 0. -/
def scanBody (g : Gen) (pick : Nat → Option Nat) (x : Iss) : Res :=
  let sub := g.sub.toNat % 16
  let wide := decide (sub = 11)
  let a := x.aW g wide
  let ctl (i : Nat) : Ctl := ctlOf (x.modeOf i) .mode
  let start : List TreeLane := (List.range x.width).map fun i =>
    (if hasLane x.act i then some (scanFlush sub (ctl i).fin (a i).bits.toNat) else none, 0#5)
  let y := tree sub x.width ctl start
  x.float g.d wide fun i =>
    let v := match pick i with
      | some j => ((y.getD j (none, 0#5)).1).getD (scanEps sub)
      | none => scanEps sub
    let p := match pick i with
      | some j => x.lanes.any fun k => decide (k ≤ j) && (a k).poison
      | none => false
    (val64 v p, (y.getD i (none, 0#5)).2)

/-- SCANL (R199, R200). -/
def execScanl (g : Gen) (s : State) : Host.Outcome State Fault Refusal :=
  issueWave (.scanl g) (scanBody g fun i =>
    if g.sub.getLsbD 4 then (if i = 0 then none else some (i - 1)) else some i) s

/-- REDL (R199, R200): every active lane receives lane W - 1's value. -/
def execRedl (g : Gen) (s : State) : Host.Outcome State Fault Refusal :=
  issueWave (.redl g) (fun x => scanBody g (fun _ => some (x.width - 1)) x) s

/-! Top-k (R202, R203). -/

/-- An entry of the merge: key, index, list or candidate, lane, pair. -/
structure Ranked where
  nan   : Bool
  rank  : Int
  idx   : Nat
  cand  : Bool
  lane  : Nat
  pair  : Val64
  deriving DecidableEq, Repr

/-- The order of entries (R202): rank, index, list before candidate, lane. -/
def Ranked.before (a b : Ranked) : Bool :=
  if a.nan != b.nan then b.nan
  else if a.rank ≠ b.rank then a.rank < b.rank
  else if a.idx ≠ b.idx then a.idx < b.idx
  else if a.cand != b.cand then b.cand
  else a.lane < b.lane

def insertRanked (a : Ranked) : List Ranked → List Ranked
  | [] => [a]
  | b :: r => if a.before b then a :: b :: r else b :: insertRanked a r

/-- The rank of a key, the first to come lowest (R202, R203). -/
def keyRank (int least fin : Bool) (key : Nat) : Bool × Int :=
  let nan := !int && (Fmt.decode .f32 key).isNan
  let b := Fmt.flushed .f32 fin key
  let v : Int := if int then signedOf 32 key
    else if b.testBit 31 then -((b % 2 ^ 31 : Nat) : Int) - 1 else (b : Nat)
  (nan, if nan then 0 else if least then v else -v)

/-- TOPK (R202, R203). -/
def execTopk (g : Gen) (s : State) : Host.Outcome State Fault Refusal :=
  issueWave (.topk g) (fun x =>
    let least := subW g
    let int := subU g
    let k := min (x.b32 g x.first).bits.toNat x.width
    let listAt (j : Nat) : Val64 := Val.join (x.reg g.d 0 j) (x.reg g.d 1 j)
    let entry (cand : Bool) (lane : Nat) (v : Val64) : Ranked :=
      let r := keyRank int least ((x.modeOf lane).getLsbD 2) (v.bits.toNat % 2 ^ 32)
      ⟨r.1, r.2, v.bits.toNat / 2 ^ 32, cand, lane, v⟩
    let fromList := ((List.range k).filter (hasLane x.sp.mask)).map fun j => entry false j (listAt j)
    let all := (x.lanes.map fun i => entry true i (x.a64 g i)).foldl (fun l e => insertRanked e l)
      (fromList.foldl (fun l e => insertRanked e l) [])
    let signals (v : Val64) : Bool := !int && (Fmt.decode .f32 (v.bits.toNat % 2 ^ 32)).raisesNV
    let fl (i : Nat) : Flags :=
      nvIf (signals (x.a64 g i) || (decide (i < k) && signals (listAt i)))
    let bad := x.arithLanes fl
    if bad != 0#64 then x.raise ⟨.arith, bad, 0, none⟩
    else
      let into := x.lanesWhere fun j => j < k && j < all.length
      x.done (x.setModes (x.putPair x.w g.d into fun j => (all[j]?).elim (val64 0 false) (·.pair)) fl)) s

/-! Compress and expand (R204). -/

/-- Write the values of source lanes to target lanes, in order. (DEDUCED: log 21.) -/
def moveLanes (g : Gen) (x : Iss) (src dst : List Nat) : Res :=
  let pairs := dst.zip src
  x.done (x.putW x.w g.d (subW g) (laneSet (pairs.map (·.1))) fun i =>
    match lookupKey i pairs with
    | some j => x.aW g (subW g) j
    | none => val64 0 false)

/-- COMPRESS (R204). -/
def execCompress (g : Gen) (s : State) : Host.Outcome State Fault Refusal :=
  issueWave (.compress g) (fun x => moveLanes g x (x.lanes.filter (x.predBit g.b)) x.lanes) s

/-- EXPAND (R204). -/
def execExpand (g : Gen) (s : State) : Host.Outcome State Fault Refusal :=
  issueWave (.expand g) (fun x => moveLanes g x x.lanes (x.lanes.filter (x.predBit g.b))) s

/-! Lane arrays (R148, R205, R206). -/

/-- A word of a lane's array; zero at wave start. -/
def Wave.arr (w : Wave) (word lane : Nat) : Val :=
  match lookupKey word w.lanearr with
  | some l => l.getD lane .zero
  | none => .zero

/-- LDA (R205): each word with its own poison. -/
def execLda (g : Gen) (s : State) : Host.Outcome State Fault Refusal :=
  issueWave (.lda g) (fun x =>
    match x.fails (x.arrFail g) with
    | some f => x.failWith x.s f
    | none =>
      let word (k i : Nat) : Val := x.w.arr ((x.arrIndex g i).1 + k) i
      let w := x.put x.w g.d 0 x.act (word 0)
      x.done (if subW g then x.put w g.d 1 x.act (word 1) else w)) s

/-- Write a word of a lane's array; its pre-image goes to the newest checkpoint the first time (R148). -/
def Wave.setArr (w : Wave) (reg word lane : Nat) (v : Val) : Wave :=
  let old := (List.range w.width).map (w.arr word)
  let w : Wave := match w.ckpts.getLast? with
    | none => w
    | some k =>
      if k.laneUndo.any (fun u => u.word == word && u.lane == lane) then w
      else { w with ckpts := w.ckpts.dropLast ++ [{ k with laneUndo := k.laneUndo ++ [⟨reg, word, lane, w.arr word lane⟩] }] }
  { w with lanearr := insertKey word (updAt lane (fun _ => v) old) w.lanearr }

/-- STA (R205, R206): it takes one undo register where a word it writes has no pre-image yet. -/
def execSta (g : Gen) (s : State) : Host.Outcome State Fault Refusal :=
  issueWave (.sta g) (fun x =>
    match x.fails (x.arrFail g) with
    | some f => x.failWith x.s f
    | none =>
      let id := x.w.nextReg
      let w : Wave := if x.wantsUndo then { x.w with
          regs := x.w.regs ++ [⟨id, List.replicate x.width .zero, 0, none, false, true, false⟩], nextReg := id + 1 }
        else x.w
      x.done (x.lanes.foldl (fun w i =>
        (x.arrWords g i).zipIdx.foldl (fun w (j, k) => w.setArr id j i (x.src g.c k g.pc i)) w) w)) s

end Sys2Proof.Machine
end

