-- ==== Sys2Proof/Machine/Sys.lean ====
section
/-! DEFINITION. SYS (R100 to R107), sys.gkill and sys.grelaunch (R125, R126, R431), the dispatch of events to the service
waves (R102). -/

namespace Sys2Proof.Machine

/-! Operands. -/

/-- ILLEGAL with a cause detail, in the active lanes. -/
def Iss.illegal (x : Iss) (e : Nat) : Res := x.raise ⟨.illegal, x.act, 0, some (BitVec.ofNat 64 e)⟩

/-- A and B of a SYS, from its lowest active lane; poison in one that the operation uses traps (R428). -/
def Iss.sysArgs (x : Iss) (g : Gen) (useA useB : Bool) (k : DWord → Nat → Res) : Res :=
  let a := x.a64 g x.first
  let b := x.b32 g x.first
  if (useA && a.poison) || (useB && b.poison) then x.raise ⟨.poison, laneSet [x.first], 0, none⟩ else k a.bits b.bits.toNat

/-- The context B[5:0] names, 1 to 63 (R107). (DEDUCED: log 29.) -/
def Iss.sysCtx (x : Iss) (b : Nat) (k : Nat → Res) : Res := if b % 64 = 0 then x.illegal 2 else k (b % 64)

/-! System registers (R103). -/

/-- The window the trap was taken in; a service wave has none. -/
def Wave.trappedWindow (w : Wave) : Option Window :=
  if w.service then none
  else w.frozen.bind fun f => (f.splits.find? (·.slot == f.slot)).bind fun p => w.window? p.win

/-- What a system register is: a value, a register of the trapped window, a predicate, the mode word of lane sys.tlane. -/
inductive SysReg where
  | value (v : DWord)
  | window (name : Nat)
  | pred (p : Nat)
  | mode

/-- The system register of a number; none for a number not listed. (DEDUCED: log 24; DESIGN CHOICE: log 150.) -/
def State.sysReg (s : State) (w : Wave) (n : Nat) : Option SysReg :=
  let nat (v : Nat) : Option SysReg := some (.value (BitVec.ofNat 64 v))
  match n with
  | 0x000 => some (.value w.sys.epc)
  | 0x001 => some (.value w.sys.ipc)
  | 0x002 => some (.value w.sys.ecause)
  | 0x003 => some (.value w.sys.elanes)
  | 0x004 => some (.value w.sys.faddr)
  | 0x005 => some (.value w.sys.einfo)
  | 0x006 => some (.value w.sys.solo)
  | 0x007 => some (.value w.sys.pend)
  | 0x008 => nat w.ctx
  | 0x009 => nat w.grid
  | 0x00A => nat w.seq
  | 0x00B => nat w.tag
  | 0x00C => some (.value w.sys.tlane)
  | 0x00D => nat s.dev.kbase
  | 0x00E => nat s.dev.ctxtab
  | 0x00F => some (.value w.sys.event)
  | _ =>
    if 0x100 ≤ n ∧ n ≤ 0x15F then some (.window (n - 0x100))
    else if 0x160 ≤ n ∧ n ≤ 0x167 then some (.pred (n - 0x160))
    else if n = 0x168 then some .mode
    else none

/-- The mode words solo code sees: those of the trapped splits; a service wave's own. -/
def Wave.sysModes (w : Wave) : List Word := if w.service then w.modes else w.frozen.elim w.modes (·.modes)

/-- sys.smovr (R103, R107): a register of the trapped window that is still to be written stalls the split.
(DEDUCED: log 24.) -/
def execSysSmovr (g : Gen) (s : State) : Host.Outcome State Fault Refusal :=
  issueWave (.sysSmovr g) (fun x =>
    x.sysArgs g false true fun _ n =>
      let give (v : Val64) : Res := x.done (x.putPair x.w g.d x.act fun _ => v)
      let lane := x.w.sys.tlane.toNat
      match x.s.sysReg x.w n with
      | none => x.illegal 1
      | some (.value v) => give ⟨v, false⟩
      | some (.pred p) => if x.width ≤ lane then x.illegal 1 else give ⟨(x.w.pred p).zeroExtend 64, false⟩
      | some .mode =>
        if x.width ≤ lane then x.illegal 1 else give ⟨(x.w.sysModes.getD lane 0#32).zeroExtend 64, false⟩
      | some (.window r) =>
        if x.width ≤ lane then x.illegal 1
        else match x.w.trappedWindow with
          | none => x.raise ⟨.operand, x.act, 0, none⟩
          | some v =>
            if v.size ≤ r then x.raise ⟨.operand, x.act, 0, none⟩
            else
              let p := x.w.phys? v.id r
              if (p.bind x.w.reg?).any (·.writer != 0) || ((x.w.window? (x.w.ownerOf r 64 v.id)).any (·.spilled)) then .stall x.s
              else give (x.w.laneVal p lane).wide) s

/-- sys.smovw (R103, R107). (DEDUCED: log 24.) -/
def execSysSmovw (g : Gen) (s : State) : Host.Outcome State Fault Refusal :=
  issueWave (.sysSmovw g) (fun x =>
    x.sysArgs g true true fun a n =>
      let w := x.w
      let put (y : SysRegs) : Res := x.done { w with sys := y }
      let lane := w.sys.tlane.toNat
      match n with
      | 0x000 => put { w.sys with epc := a }
      | 0x007 => put { w.sys with pend := a }
      | 0x00A => x.done { w with seq := a.toNat }
      | 0x00C => if x.width ≤ a.toNat then x.illegal 1 else put { w.sys with tlane := a }
      | _ => match x.s.sysReg w n with
        | none | some (.value _) => x.illegal 1
        | some (.pred p) =>
          if x.width ≤ lane then x.illegal 1
          else if p = 0 then x.done w
          else x.done { w with preds := updAt p (fun _ => a &&& allLanes x.width) w.preds }
        | some .mode =>
          if x.width ≤ lane then x.illegal 1
          else
            let f (l : List Word) : List Word := updAt lane (fun m => writeMode m (a.truncate 32)) l
            x.done (if w.service then { w with modes := f w.modes }
              else match w.frozen with
                | some z => { w with frozen := some { z with modes := f z.modes } }
                | none => { w with modes := f w.modes })
        | some (.window r) =>
          if x.width ≤ lane then x.illegal 1
          else match w.trappedWindow with
            | none => x.raise ⟨.operand, x.act, 0, none⟩
            | some v =>
              if v.size ≤ r then x.raise ⟨.operand, x.act, 0, none⟩
              else
                let p := w.phys? v.id r
                if (p.bind w.reg?).any (·.writer != 0) || ((w.window? (w.ownerOf r 64 v.id)).any (·.spilled)) ||
                    x.s.poolShort w 1 then .stall x.s
                else
                  let one (i : Nat) : Option Val := if i = lane then some ⟨a.truncate 32, false⟩ else none
                  x.done (w.writeName (Split.fresh 0 0 0 v.id 0) r x.clk p 0 one).2) s

/-! Returns and claims (R99, R102, R104, R107). -/

/-- sys.sret. -/
def execSysSret (g : Gen) (s : State) : Host.Outcome State Fault Refusal :=
  issueWave (.sysSret g) (fun x => if x.w.service then .ok x.s else .jump (x.s.returnFromTrap x.w.id)) s

/-- The ring a record lies in: its context. (DEDUCED: log 27.) -/
def State.ringOf (s : State) (a : Nat) : Option Nat :=
  (List.range 64).find? fun c =>
    let k := s.ctx c
    (c == 0 || k.st != .free) && k.evbase ≤ a && a < k.evbase + 32 * k.evcount

/-- A service wave is done with a record. (DEDUCED: log 27.) -/
def Iss.recordDone (x : Iss) (s : State) (a : DWord) : Res :=
  .ok (s.modWave x.w.id fun w => if w.sys.event == a then { w with sys := { w.sys with event := 0 } } else w)

/-- sys.claimd. -/
def execSysClaimd (g : Gen) (s : State) : Host.Outcome State Fault Refusal :=
  issueWave (.sysClaimd g) (fun x =>
    x.sysArgs g true false fun a _ =>
      if x.w.service then x.recordDone x.s a
      else if a ≠ 0#64 then x.illegal 2
      else .jump (x.s.returnFromTrap x.w.id)) s

/-- sys.claimf: a wave's own trap is recorded as forwarded and the wave is Held with its frozen splits; a service wave's
record gets its forwarded bit, and the host is notified. (DEDUCED: log 27.) -/
def execSysClaimf (g : Gen) (s : State) : Host.Outcome State Fault Refusal :=
  issueWave (.sysClaimf g) (fun x =>
    x.sysArgs g true false fun a _ =>
      if x.w.service then
        match x.s.ringOf a.toNat with
        | none => x.recordDone x.s a
        | some c =>
          let f := x.s.pnat (a.toNat + 2) 1
          x.recordDone ((x.s.setPnat (a.toNat + 2) 1 (f ||| 1)).sendMsix c) a
      else if a ≠ 0#64 then x.illegal 2
      else
        let w := x.w
        let y := w.sys
        let cause := Cause.ofCode (y.ecause.toNat % 256)
        let r : EvRec := ⟨cause.code, cause.claimClass, 1, w.grid, y.ipc.toNat, y.faddr.toNat, y.elanes.toNat⟩
        let w := w.hold x.no x.clk 0 (.record r.pack true 0)
        .jump (x.s.putWave (match w.frozen with
          | none => { w with st := .held }
          | some f =>
            let w := if f.inSolo then w.popWindow f.win x.clk else w
            { w with
              st := .held, splits := f.splits, parked := f.parked, modes := f.modes
              frozen := some { f with inSolo := false } }))) s

/-- A service wave takes the next event of its die's queue (R102). -/
def execServiceEventDispatch (die : Nat) (s : State) : Host.Outcome State Fault Refusal :=
  .next <|
    match s.waves.find? (fun w => w.service && w.grid == die && w.st == .solo), (s.dev.eventQ.getD die []).head? with
    | some w, some (a, _) =>
      if w.sys.event ≠ 0#64 then s
      else (s.modWave w.id fun w => { w with sys := { w.sys with event := BitVec.ofNat 64 a } }).modDev fun d =>
        { d with eventQ := updAt die (·.drop 1) d.eventQ }
    | _, _ => s

/-! Translations (R361). -/

/-- sys.tlbinv: the entries go at once or by the time the invalidation completes. (DESIGN CHOICE: log 33.) -/
def execSysTlbinv (g : Gen) (s : State) : Host.Outcome State Fault Refusal :=
  issueWait (.sysTlbinv g) (fun x =>
    x.sysArgs g true true fun a b => x.sysCtx b fun c =>
      if a.toNat / 2 ^ 57 ≠ 0 then x.illegal 3
      else
        let (now, s) := x.s.choose 2
        let s := if now = 1 then s.dropTlb c a.toNat else s
        .ok (s.modWave x.w.id fun w => { w with
          invs := w.invs ++ [⟨c, a.toNat, decide (now = 1), x.clk, s.chunksOf c⟩] })) s

/-- sys.tlbsync. -/
def execSysTlbsync (g : Gen) (s : State) : Host.Outcome State Fault Refusal :=
  issueWait (.sysTlbsync g) (fun x => .wait x.s (x.waitOf (.tlb x.clk) ⟨.dev, 0⟩ 0 none 0x0F 4)) s

/-! Contexts, queues, the partition. -/

/-- sys.evict (R107): Resident and Held waves are saved, Reserved ones are saved already. (DEDUCED: log 32.) -/
def execSysEvict (g : Gen) (s : State) : Host.Outcome State Fault Refusal :=
  issueWait (.sysEvict g) (fun x =>
    x.sysArgs g false true fun _ b => x.sysCtx b fun c =>
      if !(x.s.ctx c).st.alive then .ok x.s
      else if (x.s.ctx c).saving.isSome then .stall x.s
      else
        let s := (x.s.startSaving c .evict).finishSaving c
        .wait s (x.waitOf (.evict c) ⟨.dev, 0⟩ 0 none 0x0F 5)) s

/-- sys.wake (R107, R414): a Created context with a Pending vector whose WAKE is set becomes Ready.
(DEDUCED: log 29, 30, 111.) -/
def execSysWake (g : Gen) (s : State) : Host.Outcome State Fault Refusal :=
  issueWave (.sysWake g) (fun x =>
    x.sysArgs g false true fun _ c =>
      if c = 0 ∨ 64 ≤ c then x.illegal 2
      else if (x.s.ctx c).st ≠ .created then .ok x.s
      else match x.s.reachPage c with
        | .stall s => .stall s
        | .fault _ s => .ok s
        | .ok page s =>
          let s := s.meetErrors page 0x400
          let v (k : Nat) : Vector := s.vectorAt (page.plus (16 * k))
          if (List.range 64).any (fun k => (v k).pending && (v k).wakes) then .ok (s.setCtxState c .ready) else .ok s) s

/-- A queue command of sys.qctl (R314). -/
def Iss.queueCtl (x : Iss) (op : QueueOp) (a : Nat) : Res :=
  if a / 2 ^ 57 ≠ 0 then x.illegal 3
  else match x.s.vaContext x.w a with
    | none => x.raise ⟨.address, x.act, BitVec.ofNat 64 a, some 14⟩
    | some (c, va) =>
      if (x.s.ctx c).saving = some .suspend || x.s.dev.cmds.any (·.ctx == c) then .stall x.s
      else match x.s.queueAt c va with
        | some (eng, q) => (match x.s.queueWaits c eng q with
          | some s => .stall s
          | none => .ok (x.s.queueCommand c eng q op).2)
        | none => x.illegal 3

/-- A context command of sys.qctl (R89), after the host's that name the context (R447): a SUSPEND waits until the
waves are saved, but for one of its own context. (DEDUCED: log 31.) -/
def Iss.contextCtl (x : Iss) (a : Nat) : Res :=
  let code := a % 256
  let c := bitsOf a 13 8
  if x.s.dev.cmds.any (·.ctx == c) then .stall x.s
  else match x.s.commandNeeds code c with
  | some s => .stall s
  | none =>
    let s := x.s.contextCommand code c (bitsOf a 27 16) (bitsOf a 49 28)
    if code = 2 && (s.ctx c).saving = some .suspend && c ≠ x.w.ctx then
      .wait s (x.waitOf (.suspend c) ⟨.dev, 0⟩ 0 none 0x0F 10)
    else .ok s

/-- sys.qctl (R89, R107, R127, R314). -/
def execSysQctl (g : Gen) (s : State) : Host.Outcome State Fault Refusal :=
  issueWait (.sysQctl g) (fun x =>
    x.sysArgs g true true fun a b =>
      let a := a.toNat
      match b % 256 with
      | 0x01 => x.queueCtl .stop a
      | 0x02 => x.queueCtl .start a
      | 0x03 => x.queueCtl .skip a
      | 0x04 => x.queueCtl .retry a
      | 0x10 => x.contextCtl a
      | 0x20 => if 8 < a % 16 ∨ 8 < bitsOf a 11 8 then x.illegal 2 else .ok (x.s.setPartition (a % 16) (bitsOf a 11 8))
      | _ => x.illegal 2) s

/-! Images (R372, R397). -/

/-- The 32 bytes at A, read in program order (R100). (DEDUCED: log 25.) -/
def Iss.sysImage (x : Iss) (a : DWord) (k : State → List Byte → Res) : Res :=
  let extra (_ : Nat) (n : Named) : Option LaneFail := match n with
    | .placed _ => some ⟨.address, a, some 6⟩
    | _ => none
  match x.locate [x.first] (fun _ => ⟨a, false⟩) 32 Need.read extra with
  | .stall s => .stall s
  | .fail s f => x.failWith s f
  | .ok s [(_, .mem l)] => (match s.readNow x.w x.no l 32 with
    | .stall s => .stall s
    | .ok bs s => k s (bs.map (·.byte)))
  | .ok s _ => .ok s

/-- Write a link slot (R372); requests that are already issued keep their mapping. The bytes of the link tables in HBM
are the device's own; a region that is written anew has raised no notice of its counter (R389). (DESIGN CHOICE: log
108; DEDUCED: log 92.) -/
def State.writeSlot (s : State) (b : Nat) (bs : List Byte) : State :=
  let s := s.keepRoutes.modLink fun l => { l with
    slots := if bs.all (· == 0#8) then eraseKey b l.slots else insertKey b bs l.slots
    cntNoted := l.cntNoted.filter (0x10000 + · != b) }
  let s := s.coverErrors (· == (s.dev.linktab + 32 * b) / 32)
  { s with mem := s.mem.veil s.dev.linktab (s.dev.linktab + linkTableBytes) s.free, free := s.free + 1 }

/-- sys.rankw (R372). (DEDUCED: log 25.) -/
def execSysRankw (g : Gen) (s : State) : Host.Outcome State Fault Refusal :=
  issueWave (.sysRankw g) (fun x =>
    x.sysArgs g true true fun a b =>
      if !(b < 0x10020 || b = 0x10100 || (0x10200 ≤ b && b < 0x10300)) then x.illegal 2
      else x.sysImage a fun s bs =>
        .ok (s.writeSlot b bs)) s

/-- The injector a descriptor describes (R397); none where a field is out of range. (DEDUCED: log 26.) -/
def injectorOf (bs : List Byte) : Option Injector :=
  let f := pfield bs
  let mode := f 0 1
  let fit := mode ≤ 3 && f 1 1 < 4 && f 2 1 < 16 && ((mode = 3) = (f 3 1 ≠ 0)) && 1 ≤ f 4 4 && bitsOf (f 8 4) 30 17 = 0 &&
    f 12 4 = 0 && ((mode = 1) = (f 16 8 ≠ 0)) && f 24 8 = 0
  if fit then some {
    mode, repeats := (f 1 1).testBit 0, dir := bitsOf (f 1 1) 1 1, kinds := f 2 1, delay := f 3 1, n := f 4 4, peer := f 8 4
    mask := BitVec.ofNat 64 (f 16 8), count := f 4 4, hit := none, late := [] }
  else none

/-- sys.inj (R397). (DEDUCED: log 26.) -/
def execSysInj (g : Gen) (s : State) : Host.Outcome State Fault Refusal :=
  issueWave (.sysInj g) (fun x =>
    x.sysArgs g true true fun a b =>
      if 96 ≤ b || !(x.s.dev.features.testBit 0) then x.illegal 2
      else x.sysImage a fun s bs => match injectorOf bs with
        | none => .trap s ⟨.illegal, x.act, 0, some 2⟩
        | some j => .ok (s.modLink fun l => { l with injectors := updAt b (fun _ => j) l.injectors })) s

/-! Gangs (R125, R126, R431). -/

/-- The launch that gkill and grelaunch act on: the trapped wave's, or that of the record at sys.event.
(DEDUCED: log 28.) -/
def Iss.sysLaunch (x : Iss) : Option Launch :=
  if x.w.service then (lookupKey x.w.sys.event.toNat x.s.dev.recTags).bind fun k => x.s.launch? k.1 k.2
  else x.s.launch? x.w.ctx x.w.tag

/-- sys.gkill. -/
def execSysGkill (g : Gen) (s : State) : Host.Outcome State Fault Refusal :=
  issueWait (.sysGkill g) (fun x =>
    x.sysArgs g false true fun _ b =>
      match x.sysLaunch with
      | none => x.illegal 2
      | some l => if l.gangs.length ≤ b then x.illegal 2 else .ok (x.s.killGang l.ctx l.tag b)) s

/-- A gang that awaits relaunch returns to the head of the list of the core that held its member 0, or to the sequence
where that core starts no run any more (R126). One that was killed before it was ever placed returns to core 0, and no
notice of reason 0x07 is raised here. (DEDUCED: log 119; DESIGN CHOICE: log 154, 155.) -/
def State.relaunchGang (s : State) (l : Launch) (g : Nat) : State :=
  let core := (l.gangAt g).firstCore
  let s := match s.runFrom core l.gang l.comm with
    | some _ =>
      let later (e : PendEntry) : PendEntry := { e with wait := none, blocking := false }
      let s := s.modCore core fun c => { c with pending := ⟨l.ctx, l.tag, g, core, some s.clk, false⟩ :: c.pending.map later }
      s.modGang l.ctx l.tag g fun x => { x with st := .pending }
    | none =>
      (s.modSched fun k => { k with unplaced := (l.ctx, l.tag, g) :: k.unplaced }).modGang l.ctx l.tag g fun x =>
        { x with st := .unplaced }
  s.modLaunch l.ctx l.tag fun l =>
    if l.st = .relaunching && !(l.gangs.any (·.st == .awaiting)) then { l with st := .running } else l

/-- sys.grelaunch. -/
def execSysGrelaunch (g : Gen) (s : State) : Host.Outcome State Fault Refusal :=
  issueWait (.sysGrelaunch g) (fun x =>
    x.sysArgs g false true fun _ b =>
      match x.sysLaunch with
      | none => x.illegal 2
      | some l =>
        if l.final || (l.gangAt b).st != .awaiting then x.illegal 2
        else .ok ((x.s.count x.die 10).relaunchGang l b)) s

/-! Bias (R107, R369). -/

/-- sys.biasset. -/
def execSysBiasset (g : Gen) (s : State) : Host.Outcome State Fault Refusal :=
  issueWait (.sysBiasset g) (fun x =>
    x.sysArgs g true true fun a b =>
      if a.toNat % 4096 ≠ 0 ∨ 0x6000000000 ≤ a.toNat then x.illegal 3
      else if 1 < b then x.illegal 2
      else match x.s.biasset (a.toNat / 4096) b x.w.id x.sp.slot with
        | (true, s) => .ok s
        | (false, s) => .wait s (x.waitOf (.bias (a.toNat / 4096)) ⟨.dev, 0⟩ 0 none 0x0F 13)) s

end Sys2Proof.Machine
end

