-- ==== Sys2Proof/Machine/Dispatch.lean ====
section
/-! DEFINITION. The meaning of every instruction and event: one arm per constructor. -/

namespace Sys2Proof.Machine

def exec (i : Instr) (s : State) : Host.Outcome State Fault Refusal :=
  match i with
  | .powerUp => Sys2Proof.Machine.execPowerUp s
  | .bootTrainingComplete => Sys2Proof.Machine.execBootTrainingComplete s
  | .reset v => Sys2Proof.Machine.execReset v s
  | .hotReset => Sys2Proof.Machine.execHotReset s
  | .functionLevelReset => Sys2Proof.Machine.execFunctionLevelReset s
  | .attcmd v => Sys2Proof.Machine.execAttcmd v s
  | .quoteComplete => Sys2Proof.Machine.execQuoteComplete s
  | .powercap v => Sys2Proof.Machine.execPowercap v s
  | .powercapTakesEffect => Sys2Proof.Machine.execPowercapTakesEffect s
  | .bridgefence => Sys2Proof.Machine.execBridgefence s
  | .registerWrite off v => Sys2Proof.Machine.execRegisterWrite off v s
  | .create ctx => Sys2Proof.Machine.execCreate ctx s
  | .suspend ctx => Sys2Proof.Machine.execSuspend ctx s
  | .resume ctx => Sys2Proof.Machine.execResume ctx s
  | .destroy ctx => Sys2Proof.Machine.execDestroy ctx s
  | .wresume ctx tag grid => Sys2Proof.Machine.execWresume ctx tag grid s
  | .stop ctx => Sys2Proof.Machine.execStop ctx s
  | .start ctx => Sys2Proof.Machine.execStart ctx s
  | .skip ctx => Sys2Proof.Machine.execSkip ctx s
  | .retry ctx => Sys2Proof.Machine.execRetry ctx s
  | .sysQctl g => Sys2Proof.Machine.execSysQctl g s
  | .hostInterruptSend ctx vec payload via whole poisoned => Sys2Proof.Machine.execHostInterruptSend ctx vec payload via whole poisoned s
  | .sliceEnd ctx => Sys2Proof.Machine.execSliceEnd ctx s
  | .waitBudgetExceeded ctx => Sys2Proof.Machine.execWaitBudgetExceeded ctx s
  | .waveSaveComplete wave => Sys2Proof.Machine.execWaveSaveComplete wave s
  | .restoreWave wave core quad => Sys2Proof.Machine.execRestoreWave wave core quad s
  | .reportedTrapDue wave => Sys2Proof.Machine.execReportedTrapDue wave s
  | .serviceEventDispatch die => Sys2Proof.Machine.execServiceEventDispatch die s
  | .launchExamine ctx queue => Sys2Proof.Machine.execLaunchExamine ctx queue s
  | .distributorTakeGang die => Sys2Proof.Machine.execDistributorTakeGang die s
  | .placeGang core => Sys2Proof.Machine.execPlaceGang core s
  | .steal core => Sys2Proof.Machine.execSteal core s
  | .gangHeadTimeout core => Sys2Proof.Machine.execGangHeadTimeout core s
  | .splitRaise wave slot => Sys2Proof.Machine.execSplitRaise wave slot s
  | .yieldExpiry wave slot => Sys2Proof.Machine.execYieldExpiry wave slot s
  | .checkpoint wave => Sys2Proof.Machine.execCheckpoint wave s
  | .checkpointDiscard wave ck => Sys2Proof.Machine.execCheckpointDiscard wave ck s
  | .registerReturn wave phys => Sys2Proof.Machine.execRegisterReturn wave phys s
  | .spill quad => Sys2Proof.Machine.execSpill quad s
  | .spillRefill wave win => Sys2Proof.Machine.execSpillRefill wave win s
  | .waveEnd wave => Sys2Proof.Machine.execWaveEnd wave s
  | .permitGrant die => Sys2Proof.Machine.execPermitGrant die s
  | .permitIdleReturn quad => Sys2Proof.Machine.execPermitIdleReturn quad s
  | .arrayStart quad => Sys2Proof.Machine.execArrayStart quad s
  | .mmaComplete quad => Sys2Proof.Machine.execMmaComplete quad s
  | .l1AgeLimit core frame => Sys2Proof.Machine.execL1AgeLimit core frame s
  | .drainOrder msg => Sys2Proof.Machine.execDrainOrder msg s
  | .drainAck msg => Sys2Proof.Machine.execDrainAck msg s
  | .holderProbe msg => Sys2Proof.Machine.execHolderProbe msg s
  | .probeResponse msg => Sys2Proof.Machine.execProbeResponse msg s
  | .homeWriteback msg => Sys2Proof.Machine.execHomeWriteback msg s
  | .hostRead addr size cacheable => Sys2Proof.Machine.execHostRead addr size cacheable s
  | .hostWrite addr data poisoned => Sys2Proof.Machine.execHostWrite addr data poisoned s
  | .backInvalidationComplete msg dirty => Sys2Proof.Machine.execBackInvalidationComplete msg dirty s
  | .hostSnoop addr kind => Sys2Proof.Machine.execHostSnoop addr kind s
  | .corePowerGate core => Sys2Proof.Machine.execCorePowerGate core s
  | .outboundHoldEnd wave => Sys2Proof.Machine.execOutboundHoldEnd wave s
  | .homeRead msg => Sys2Proof.Machine.execHomeRead msg s
  | .homeWrite msg => Sys2Proof.Machine.execHomeWrite msg s
  | .homeAtomic msg => Sys2Proof.Machine.execHomeAtomic msg s
  | .memoryReply msg => Sys2Proof.Machine.execMemoryReply msg s
  | .redkContribution msg => Sys2Proof.Machine.execRedkContribution msg s
  | .redkResend msg => Sys2Proof.Machine.execRedkResend msg s
  | .pageRecheck ctx => Sys2Proof.Machine.execPageRecheck ctx s
  | .headerWriteSeen ctx engine queue => Sys2Proof.Machine.execHeaderWriteSeen ctx engine queue s
  | .entryTake ctx queue => Sys2Proof.Machine.execEntryTake ctx queue s
  | .engineBind engine => Sys2Proof.Machine.execEngineBind engine s
  | .engineSteal engine => Sys2Proof.Machine.execEngineSteal engine s
  | .chunkComplete engine => Sys2Proof.Machine.execChunkComplete engine s
  | .groupRequest msg => Sys2Proof.Machine.execGroupRequest msg s
  | .gredResend msg => Sys2Proof.Machine.execGredResend msg s
  | .gredResult msg => Sys2Proof.Machine.execGredResult msg s
  | .barrierCellRequest msg => Sys2Proof.Machine.execBarrierCellRequest msg s
  | .carryPost msg => Sys2Proof.Machine.execCarryPost msg s
  | .carryForward msg => Sys2Proof.Machine.execCarryForward msg s
  | .biasFlipComplete granule => Sys2Proof.Machine.execBiasFlipComplete granule s
  | .remoteRequest req => Sys2Proof.Machine.execRemoteRequest req s
  | .remoteReply key r => Sys2Proof.Machine.execRemoteReply key r s
  | .retransmitTimeout key => Sys2Proof.Machine.execRetransmitTimeout key s
  | .busyResend key => Sys2Proof.Machine.execBusyResend key s
  | .retirementNotice rank incarn ctx tag gridLo gridHi => Sys2Proof.Machine.execRetirementNotice rank incarn ctx tag gridLo gridHi s
  | .retirementAck ctx tag => Sys2Proof.Machine.execRetirementAck ctx tag s
  | .portStateChange port st lanes => Sys2Proof.Machine.execPortStateChange port st lanes s
  | .injectorTrigger lane => Sys2Proof.Machine.execInjectorTrigger lane s
  | .injectorDelayEnd lane => Sys2Proof.Machine.execInjectorDelayEnd lane s
  | .slotReleaseNotice descriptor released => Sys2Proof.Machine.execSlotReleaseNotice descriptor released s
  | .interruptSend msg => Sys2Proof.Machine.execInterruptSend msg s
  | .interruptDelivery ctx => Sys2Proof.Machine.execInterruptDelivery ctx s
  | .strikeReport quad => Sys2Proof.Machine.execStrikeReport quad s
  | .nop g => Sys2Proof.Machine.execNop g s
  | .bra g => Sys2Proof.Machine.execBra g s
  | .brx g => Sys2Proof.Machine.execBrx g s
  | .call g => Sys2Proof.Machine.execCall g s
  | .callx g => Sys2Proof.Machine.execCallx g s
  | .ret g => Sys2Proof.Machine.execRet g s
  | .enter g => Sys2Proof.Machine.execEnter g s
  | .exit g => Sys2Proof.Machine.execExit g s
  | .region g => Sys2Proof.Machine.execRegion g s
  | .mode g => Sys2Proof.Machine.execMode g s
  | .modeSet g => Sys2Proof.Machine.execModeSet g s
  | .modeClr g => Sys2Proof.Machine.execModeClr g s
  | .moderd g => Sys2Proof.Machine.execModerd g s
  | .yield g => Sys2Proof.Machine.execYield g s
  | .trap g => Sys2Proof.Machine.execTrap g s
  | .brk g => Sys2Proof.Machine.execBrk g s
  | .waitc g => Sys2Proof.Machine.execWaitc g s
  | .sysSret g => Sys2Proof.Machine.execSysSret g s
  | .sysSmovr g => Sys2Proof.Machine.execSysSmovr g s
  | .sysSmovw g => Sys2Proof.Machine.execSysSmovw g s
  | .sysTlbinv g => Sys2Proof.Machine.execSysTlbinv g s
  | .sysTlbsync g => Sys2Proof.Machine.execSysTlbsync g s
  | .sysEvict g => Sys2Proof.Machine.execSysEvict g s
  | .sysRankw g => Sys2Proof.Machine.execSysRankw g s
  | .sysClaimd g => Sys2Proof.Machine.execSysClaimd g s
  | .sysClaimf g => Sys2Proof.Machine.execSysClaimf g s
  | .sysInj g => Sys2Proof.Machine.execSysInj g s
  | .sysGkill g => Sys2Proof.Machine.execSysGkill g s
  | .sysGrelaunch g => Sys2Proof.Machine.execSysGrelaunch g s
  | .sysBiasset g => Sys2Proof.Machine.execSysBiasset g s
  | .sysWake g => Sys2Proof.Machine.execSysWake g s
  | .iadd g => Sys2Proof.Machine.execIadd g s
  | .isub g => Sys2Proof.Machine.execIsub g s
  | .imul g => Sys2Proof.Machine.execImul g s
  | .imulh g => Sys2Proof.Machine.execImulh g s
  | .imad g => Sys2Proof.Machine.execImad g s
  | .imin g => Sys2Proof.Machine.execImin g s
  | .imax g => Sys2Proof.Machine.execImax g s
  | .and g => Sys2Proof.Machine.execAnd g s
  | .or g => Sys2Proof.Machine.execOr g s
  | .xor g => Sys2Proof.Machine.execXor g s
  | .shl g => Sys2Proof.Machine.execShl g s
  | .shr g => Sys2Proof.Machine.execShr g s
  | .sar g => Sys2Proof.Machine.execSar g s
  | .bits g => Sys2Proof.Machine.execBits g s
  | .iset g => Sys2Proof.Machine.execIset g s
  | .sel g => Sys2Proof.Machine.execSel g s
  | .mov g => Sys2Proof.Machine.execMov g s
  | .movl g => Sys2Proof.Machine.execMovl g s
  | .lea g => Sys2Proof.Machine.execLea g s
  | .cvt g => Sys2Proof.Machine.execCvt g s
  | .pack g => Sys2Proof.Machine.execPack g s
  | .unpk g => Sys2Proof.Machine.execUnpk g s
  | .plog g => Sys2Proof.Machine.execPlog g s
  | .pmov g => Sys2Proof.Machine.execPmov g s
  | .rdlane g => Sys2Proof.Machine.execRdlane g s
  | .wrlane g => Sys2Proof.Machine.execWrlane g s
  | .fadd g => Sys2Proof.Machine.execFadd g s
  | .fsub g => Sys2Proof.Machine.execFsub g s
  | .fmul g => Sys2Proof.Machine.execFmul g s
  | .ffma g => Sys2Proof.Machine.execFfma g s
  | .fmin g => Sys2Proof.Machine.execFmin g s
  | .fmax g => Sys2Proof.Machine.execFmax g s
  | .fset g => Sys2Proof.Machine.execFset g s
  | .frnd g => Sys2Proof.Machine.execFrnd g s
  | .fdiv g => Sys2Proof.Machine.execFdiv g s
  | .sfu g => Sys2Proof.Machine.execSfu g s
  | .pkfma g => Sys2Proof.Machine.execPkfma g s
  | .pkadd g => Sys2Proof.Machine.execPkadd g s
  | .pkmul g => Sys2Proof.Machine.execPkmul g s
  | .fdot g => Sys2Proof.Machine.execFdot g s
  | .fclass g => Sys2Proof.Machine.execFclass g s
  | .fscl g => Sys2Proof.Machine.execFscl g s
  | .perm g => Sys2Proof.Machine.execPerm g s
  | .ballot g => Sys2Proof.Machine.execBallot g s
  | .vote g => Sys2Proof.Machine.execVote g s
  | .matchl g => Sys2Proof.Machine.execMatchl g s
  | .scanl g => Sys2Proof.Machine.execScanl g s
  | .redl g => Sys2Proof.Machine.execRedl g s
  | .topk g => Sys2Proof.Machine.execTopk g s
  | .compress g => Sys2Proof.Machine.execCompress g s
  | .expand g => Sys2Proof.Machine.execExpand g s
  | .lda g => Sys2Proof.Machine.execLda g s
  | .sta g => Sys2Proof.Machine.execSta g s
  | .ld m => Sys2Proof.Machine.execLd m s
  | .st m => Sys2Proof.Machine.execSt m s
  | .atom m => Sys2Proof.Machine.execAtom m s
  | .red m => Sys2Proof.Machine.execRed m s
  | .cas m => Sys2Proof.Machine.execCas m s
  | .redk m => Sys2Proof.Machine.execRedk m s
  | .fence m => Sys2Proof.Machine.execFence m s
  | .pref m => Sys2Proof.Machine.execPref m s
  | .cstore m => Sys2Proof.Machine.execCstore m s
  | .cwait m => Sys2Proof.Machine.execCwait m s
  | .wback m => Sys2Proof.Machine.execWback m s
  | .invl m => Sys2Proof.Machine.execInvl m s
  | .tld m => Sys2Proof.Machine.execTld m s
  | .ttag g => Sys2Proof.Machine.execTtag g s
  | .mma x => Sys2Proof.Machine.execMma x s
  | .mmas x => Sys2Proof.Machine.execMmas x s
  | .gathr m => Sys2Proof.Machine.execGathr m s
  | .accz g => Sys2Proof.Machine.execAccz g s
  | .accld m => Sys2Proof.Machine.execAccld m s
  | .accst m => Sys2Proof.Machine.execAccst m s
  | .accrd g => Sys2Proof.Machine.execAccrd g s
  | .accwr g => Sys2Proof.Machine.execAccwr g s
  | .permit g => Sys2Proof.Machine.execPermit g s
  | .permitRel g => Sys2Proof.Machine.execPermitRel g s
  | .qpush m => Sys2Proof.Machine.execQpush m s
  | .qwait m => Sys2Proof.Machine.execQwait m s
  | .putf m => Sys2Proof.Machine.execPutf m s
  | .putm m => Sys2Proof.Machine.execPutm m s
  | .putmRel m => Sys2Proof.Machine.execPutmRel m s
  | .coll m => Sys2Proof.Machine.execColl m s
  | .cpost m => Sys2Proof.Machine.execCpost m s
  | .cpeek m => Sys2Proof.Machine.execCpeek m s
  | .cpeekOut m => Sys2Proof.Machine.execCpeekOut m s
  | .uint g => Sys2Proof.Machine.execUint g s
  | .uiret g => Sys2Proof.Machine.execUiret g s
  | .uictlMask g => Sys2Proof.Machine.execUictlMask g s
  | .uictlUnmask g => Sys2Proof.Machine.execUictlUnmask g s
  | .uictlAck g => Sys2Proof.Machine.execUictlAck g s
  | .uictlQuery g => Sys2Proof.Machine.execUictlQuery g s
  | .gjoin g => Sys2Proof.Machine.execGjoin g s
  | .gleave g => Sys2Proof.Machine.execGleave g s
  | .gred g => Sys2Proof.Machine.execGred g s
  | .bsync g => Sys2Proof.Machine.execBsync g s
  | .barInit m => Sys2Proof.Machine.execBarInit m s
  | .barArrive m => Sys2Proof.Machine.execBarArrive m s
  | .barExpect m => Sys2Proof.Machine.execBarExpect m s
  | .barWait m => Sys2Proof.Machine.execBarWait m s
  | .barTest m => Sys2Proof.Machine.execBarTest m s
  | .powerRemoved => Sys2Proof.Machine.execPowerRemoved s
  | .reservedOpcode w => Sys2Proof.Machine.execReservedOpcode w s
  | .sfuComplete quad => Sys2Proof.Machine.execSfuComplete quad s
  | .hostCopyReturn line half => Sys2Proof.Machine.execHostCopyReturn line half s
  | .exclusiveOwnershipGrant msg => Sys2Proof.Machine.execExclusiveOwnershipGrant msg s

end Sys2Proof.Machine
end

