-- ==== Sys2Proof/Machine/Clock.lean ====
section
/-! DEFINITION. A clock of the machine: which splits are ready (R130), and what falls due: raised splits (R131), checkpoints (R141), the age limit of
frames (R237), gangs that have waited at the head of a list (R122), draw permits (R228), rechecks of pages (R450) and the
host's waiting commands (R447). -/

namespace Sys2Proof.Machine

/-- The state an event leaves; where it stops, the state before. -/
def State.after (s : State) (r : Host.Outcome State Fault Refusal) : State := match r with
  | .next t => t
  | _ => s

/-- Try the splits a scheduler offers, in order, until one issues or traps. A split that stalls leaves its turn to the
next (R130). -/
def tryIssue : List (Nat × Nat) → State → Host.Outcome State Fault Refusal
  | [], s => .next s
  | (id, slot) :: rest, s =>
    match s.offer id slot with
    | .stall s => tryIssue rest s
    | .trapped s => .next s
    | .run i s =>
      match exec i s with
      | .next t => if t.cur.isSome then tryIssue rest { t with cur := none } else .next t
      | r => r

/-- The contexts of a quadrant's waves. -/
def State.quadCtxs (s : State) (q : Nat) : List Nat := dedup ((s.waves.filter (·.quadNo == q)).map (·.ctx))

/-- A quadrant's scheduler takes one instruction, unless the quadrant still issues an earlier one (R129, R130). -/
def issueMove (q : Nat) (s : State) : Host.Outcome State Fault Refusal :=
  if s.dev.on && (s.quad q).busyUntil ≤ s.clk then match s.tableRead (s.quadCtxs q) with
    | (true, s) => tryIssue (s.candidates q) s
    | (false, s) => .next s
  else .next s

/-- Whether a split is ready, its candidacy apart (R130): tried, its instruction issues or traps. -/
def State.issuable (s : State) (w : Wave) (p : Split) : Bool :=
  w.issues && p.open s.clk &&
    (match s.offer w.id p.slot with
      | .stall _ => false
      | .trapped _ => true
      | .run i s => match exec i s with
        | .next t => t.cur.isNone
        | _ => true)

/-- One clock passes: the count of clocks, the waiting clocks, the claim words, and since when each split has been
ready (R131). (DESIGN CHOICE: log 2, 81.) -/
def State.tick (s : State) : State :=
  let s := (List.range 64).foldl (fun s c =>
    let s := s.claimTick c
    if s.waitRuns c then
      let n := (s.ctx c).waitclk + 1
      (s.modCtx c fun k => { k with waitclk := n }).setEntry c 0x60 8 n
    else s) s
  let s' : State := { s with dev := { s.dev with clk := s.dev.clk + 1 } }
  let s' := s'.errors
  { s' with waves := s'.waves.map (fun w => { w with splits := w.splits.map (fun p =>
      let ok := s.issuable w p
      { p with stalled := !ok && p.open s.clk, ready := if ok then p.ready.orElse (fun _ => some s.clk) else none }) }) }

/-- Traps that are due are taken, splits ready for 256 clocks are raised, and waves that have issued in 64 take their
checkpoint (R99, R131, R141). -/
def State.dueWaves (s : State) : State :=
  s.waves.foldl (fun s w =>
    let s := s.takeDues w.id
    let s := w.splits.foldl (fun s p =>
      if p.raised.isNone && p.ready.any (fun c => decide (c + 256 ≤ s.clk)) then s.after (execSplitRaise w.id p.slot s) else s) s
    if 64 ≤ w.sinceCk then s.after (execCheckpoint w.id s) else s) s

/-- Frames whose age limit has come are written back, or invalidated (R237); heads of pending lists that have waited 4,096
clocks keep their run (R122). -/
def State.dueCores (s : State) : State :=
  (List.range s.cores.length).foldl (fun s k =>
    let c := s.core k
    let old := c.frames.filter fun f => decide (f.since + 65536 ≤ s.clk)
    let s := old.foldl (fun s f => s.after (execL1AgeLimit k f.id s)) s
    if c.pending.head?.any (fun e => !e.blocking && e.wait.any (fun t => decide (t + 4096 ≤ s.clk))) then
      s.after (execGangHeadTimeout k s) else s) s

/-- A request of a permit that has stood for 64 clocks, or that a limit has held back, is granted at the first clock
at which both limits allow it (R228). -/
def State.dueGrants (s : State) (die : Nat) : Nat → State
  | 0 => s
  | fuel + 1 =>
    if s.grantsLimited die then
      { s with quads := s.quads.zipIdx.map fun (q, n) => match q.permit with
          | .requested c false => if n / 128 = die then { q with permit := .requested c true } else q
          | _ => q }
    else if ((natsFrom (128 * die) 128).any fun n => match (s.quad n).permit with
        | .requested c limited => limited || decide (c + 64 ≤ s.clk)
        | _ => false) then
      State.dueGrants (s.after (execPermitGrant die s)) die fuel
    else s
/-- Permits of arrays idle for 1,024 clocks are returned, requests due are granted (R228). -/
def State.duePermits (s : State) : State :=
  let s := (List.range s.quads.length).foldl (fun s n => match (s.quad n).permit with
    | .held _ => s.after (execPermitIdleReturn n s)
    | _ => s) s
  (s.dueGrants 0 9).dueGrants 1 9

/-- A Ready context whose live waves are all on cores has nothing left to be placed: it is Resident, and its slice
begins (R88, R91). (DEDUCED: log 140.) -/
def State.dueContexts (s : State) : State :=
  (natsFrom 1 63).foldl (fun s c =>
    let ws := s.liveWaves c
    if (s.ctx c).st == .ready && (s.ctx c).saving.isNone && !ws.isEmpty && ws.all (fun w => w.onCore && w.st != .reserved) then
      s.contextPlaced c (State.dieOf ((ws.head?).elim 0 (·.core)))
    else s) s

/-- The waits of a context for its pages are rechecked after a tlbsync for it, and every 10 µs (R450).
(DESIGN CHOICE: log 81.) -/
def State.dueRechecks (s : State) : State :=
  let now := s.dev.rechecks
  let s := s.modDev fun d => { d with rechecks := [] }
  (List.range 64).foldl (fun s c =>
    if (s.ctx c).st = .free || !(s.clk % 20000 = 0 || now.contains c) then s else s.after (execPageRecheck c s)) s

/-- A raised split of a quadrant is ready: it issues no later than the clock after those raised before it (R131). -/
def State.owesIssue (s : State) (q : Nat) : Bool :=
  (s.waves.filter (·.quadNo == q)).any fun w => w.splits.any fun p => p.raised.isSome && s.issuable w p

/-- The issues that raised splits must have had before the clock ends (R131). -/
def State.dueIssues (s : State) : State :=
  if s.waves.any (fun w => w.splits.any (·.raised.isSome)) then
    (List.range 256).foldl (fun s q => if s.owesIssue q then s.after (issueMove q s) else s) s
  else s

/-- MMAs that have come to the head of an array queue request a permit (R228). -/
def State.askPermits (s : State) : State :=
  (List.range s.quads.length).foldl (fun s n => if (s.quad n).array.isEmpty then s else s.askPermit n) s

/-- Block scalars whose hold has ended retire (R147). -/
def State.dueScalars (s : State) : State :=
  s.waves.foldl (fun s w =>
    let (now, later) := w.held.partition fun h => decide (h.clk + 128 ≤ s.clk) && (match h.effect with
      | .bscalar _ _ => true
      | _ => false)
    if now.isEmpty then s
    else
      let s := (now.foldl (fun s h => match h.effect with
        | .bscalar i v => s.retireScalar w i v
        | _ => s) s).putWave { w with held := later }
      if w.onCore && w.st != .ended then s else s.leaveCores w.ctx) s

/-- A clock passes, and what falls due in it is done. -/
def State.clock (s : State) : State :=
  s.dueIssues.askPermits.tick.dueScalars.dueWaves.readAccsts.dueCores.dueContexts.duePermits.dueRechecks.takeSlots.pollStanding.runCommand

end Sys2Proof.Machine
end

