-- ==== Sys2Proof/Machine/Step.lean ====
section
/-! DEFINITION. One step of the machine: the next move of the agenda, or a free one where the agenda is empty. -/

namespace Sys2Proof.Machine

/-- Perform one move. (DESIGN CHOICE: log 1, 2.) -/
def perform (m : Move) (s : State) : Host.Outcome State Fault Refusal :=
  match m with
  | .tick => .next (if s.dev.on then s.clock else s)
  | .issue q => issueMove q s
  | .ev e => if e.enc.isNone then exec e s else .next s

/-- One step. (DESIGN CHOICE: log 1, 12.) -/
def step (s : State) : Host.Outcome State Fault Refusal :=
  match s.agenda with
  | m :: r => perform m { s with agenda := r }
  | [] => perform (nextMove s.free) { s with free := s.free + 1 }

/-- The state with a program of one instruction loaded: the device Ready, one context with one page of text, one wave
resident on core 0, quadrant 0, and the next move an issue of that quadrant. (DESIGN CHOICE: log 13.) -/
def State.withFetchWord (s : State) (nbits w : Nat) : State := s.withProgram (tableBytes nbits w)

end Sys2Proof.Machine
end

