-- ==== Sys2Proof/Safety.lean ====
section
/-! DEFINITION. The terms the claims are stated in: memories in canonical form, an instruction that nothing holds back, and the states an instruction leaves when it writes a destination. -/

namespace Sys2Proof.Machine

/-- Every memory of the device is in its canonical form. -/
def State.memoriesWf (s : State) : Bool := s.mem.wf && s.host.wf && s.blocks.all (·.scratch.wf)

/-- Memory is as it was, but for the WAITCLK field of a context's entry, which an issue of one of its waves starts again from 0
(R83, R93). -/
def State.keepsMemory (s t : State) (c : Nat) : Prop :=
  (∀ a, (a < s.entryAddr c + 0x60 ∨ s.entryAddr c + 0x68 ≤ a) → t.mem.get a = s.mem.get a) ∧
    (s.dev.hbmErrors = [] → t.mem.poison = s.mem.poison) ∧ t.host = s.host ∧ t.blocks = s.blocks

/-- The step goes on: no fault and no refusal. -/
def State.steps (s : State) : Prop := ∃ t, step s = .next t

namespace Iss

/-- Nothing stands before the instruction's effect: its permutes fit the wave, it is not a SYS instruction outside solo
code, its operands are within the window and the declared counts, nothing stalls it, and some lane is active, or it is one
of the two that act whatever their guard (R51, R52, R130). -/
def clear (x : Iss) : Bool :=
  x.permutesFit && (encOp x.enc != 0x0F#7 || x.w.inSolo) && x.operandsFit && !x.blocked &&
    (x.act != 0#64 || x.ignoresGuard)

/-- The state once the instruction has completed with its wave as `w`. -/
def leaves (x : Iss) (w : Wave) : State := x.complete (x.s.putWave w) true

/-- The state once the instruction has written a 32-bit destination in its active lanes. -/
def gives32 (x : Iss) (d : Fld) (f : Nat → Val) : State := x.leaves (x.put x.w d 0 x.act f)

/-- The state once the instruction has written a 64-bit destination in its active lanes. -/
def gives64 (x : Iss) (d : Fld) (f : Nat → Val64) : State := x.leaves (x.putPair x.w d x.act f)

/-- The state once the instruction has written a predicate in its active lanes: lane i's bit is `f i`. -/
def givesPred (x : Iss) (d : Fld) (f : Nat → Bool) : State := x.leaves (x.putPred x.w d x.act (x.lanesWhere f))

end Iss

/-- The machine issues instruction i as x, and nothing stands before its effect. -/
def Issues (i : Instr) (s : State) (x : Iss) : Prop := s.issuing i = some x ∧ x.clear = true

/-! The arithmetic of the rules, in their own terms. -/

/-- A word as the exact integer R171 computes with. -/
def exactInt (u : Bool) {w : Nat} (b : BitVec w) : Int := if u then b.toNat else b.toInt

/-- R171's clamp to w bits. -/
def clampTo (u : Bool) (w : Nat) (r : Int) : Int :=
  if u then max 0 (min r (2 ^ w - 1)) else max (-(2 ^ (w - 1))) (min r (2 ^ (w - 1) - 1))

/-- The instruction writes f of its two sources, lane by lane, at the width W selects, with the OR of their poison bits
(R164, R166, R169); a 64-bit literal B is extended as `e` says (R167). -/
def Computes (i : Gen → Instr) (g : Gen) (e : Ext) (f : (w : Nat) → BitVec w → BitVec w → BitVec w) : Prop :=
  ∀ (s : State) (x : Iss), Issues (i g) s x →
    exec (i g) s = .next (if subW g
      then x.gives64 g.d fun l => ⟨f 64 (x.a64 g l).bits (x.b64 g e l).bits, (x.a64 g l).poison || (x.b64 g e l).poison⟩
      else x.gives32 g.d fun l => ⟨f 32 (x.a32 g l).bits (x.b32 g l).bits, (x.a32 g l).poison || (x.b32 g l).poison⟩)

/-- The same with a B of 32 bits at either width (R172: the shift counts). -/
def Shifts (i : Gen → Instr) (g : Gen) (f : (w : Nat) → BitVec w → Word → BitVec w) : Prop :=
  ∀ (s : State) (x : Iss), Issues (i g) s x →
    exec (i g) s = .next (if subW g
      then x.gives64 g.d fun l => ⟨f 64 (x.a64 g l).bits (x.b32 g l).bits, (x.a64 g l).poison || (x.b32 g l).poison⟩
      else x.gives32 g.d fun l => ⟨f 32 (x.a32 g l).bits (x.b32 g l).bits, (x.a32 g l).poison || (x.b32 g l).poison⟩)

/-- A variant of BITS on w bits (R173): A, the w-bit B of variants 11 and 12, the 32-bit B of the others, C. -/
def bitsResult (v : Nat) {w : Nat} (a m : BitVec w) (b : Nat) (c : BitVec w) : BitVec w :=
  let p := min (b % 256) w
  let l := min (b / 256 % 256) (w - p)
  let field := BitVec.ofNat w ((a.toNat >>> p) % 2 ^ l)
  let ones := BitVec.ofNat w ((2 ^ l - 1) <<< p)
  match v with
  | 0 => BitVec.ofNat w ((List.range w).countP (fun j => a.getLsbD j))
  | 1 => BitVec.ofNat w (((List.range w).takeWhile (fun j => !a.getLsbD (w - 1 - j))).length)
  | 2 => BitVec.ofNat w (((List.range w).takeWhile (fun j => !a.getLsbD j)).length)
  | 3 => a.reverse
  | 4 => ((a >>> p).setWidth l).signExtend w
  | 5 => field
  | 6 => (c &&& ~~~ones) ||| ((a <<< p) &&& ones)
  | 7 => a.rotateLeft (b % w)
  | 8 => a.rotateRight (b % w)
  | 9 => BitVec.ofNat w (((a ++ c).toNat <<< min b w) / 2 ^ w)
  | 10 => BitVec.ofNat w ((a ++ c).toNat >>> min b w)
  | 11 => a &&& ~~~m
  | 12 => a ||| ~~~m
  | 13 => ~~~a
  | 14 => BitVec.ofNat w a.toInt.natAbs
  | _ => -a

/-- A floating-point instruction: where no active lane raises a flag its mode word traps, every active lane gets its value
and its flags are set; otherwise nothing is written and those lanes raise ARITH at issue (R70, R71, R168). -/
def Floats (i : Instr) (wide : Bool) (d : Fld) (f : Iss → Nat → Val64 × Flags) : Prop :=
  ∀ (s : State) (x : Iss), Issues i s x →
    let bad := x.lanesWhere fun l => (f x l).2 &&& trapEnables (x.modeOf l) != 0#5
    (bad = 0#64 → exec i s = .next (x.leaves
      (x.setModes (x.putW x.w d wide x.act fun l => (f x l).1) fun l => (f x l).2))) ∧
    (bad ≠ 0#64 → exec i s = .next (x.finish (.trap s ⟨.arith, bad, 0, none⟩)))

/-- The sources of a floating-point instruction in a lane, as numbers, and their poison (R164, R167, R169). -/
def Iss.fa (x : Iss) (g : Gen) (l : Nat) : Nat := if subW g then (x.a64 g l).bits.toNat else (x.a32 g l).bits.toNat
def Iss.fb (x : Iss) (g : Gen) (l : Nat) : Nat := if subW g then (x.b64 g .float l).bits.toNat else (x.b32 g l).bits.toNat
def Iss.fc (x : Iss) (g : Gen) (l : Nat) : Nat := if subW g then (x.c64 g l).bits.toNat else (x.c32 g l).bits.toNat
def Iss.pa (x : Iss) (g : Gen) (l : Nat) : Bool := if subW g then (x.a64 g l).poison else (x.a32 g l).poison
def Iss.pb (x : Iss) (g : Gen) (l : Nat) : Bool := if subW g then (x.b64 g .float l).poison else (x.b32 g l).poison
def Iss.pc' (x : Iss) (g : Gen) (l : Nat) : Bool := if subW g then (x.c64 g l).poison else (x.c32 g l).poison

/-- A result with its poison, as a register value. -/
def valueOf (r : Nat × Flags) (p : Bool) : Val64 × Flags := (⟨BitVec.ofNat 64 r.1, p⟩, r.2)

end Sys2Proof.Machine
end

