-- ==== Sys2Proof/Certificates/Slice0/Obligations.lean ====
section
/-! DEFINITION. The statements for the provers. -/

section Slice0Obligations

open Sys2Proof Sys2Proof.Machine

/-- R171, R172: the integer arithmetic of two sources, exact, then clamped where S asks, then taken mod 2^w. R171:
IMUL and IMAD, at one width and with WIDE, the low bits of the exact product and sum. R172: AND, OR, XOR, and the
shifts by an unsigned 32-bit count, at which a count of w or more is no special case of the exact arithmetic. -/
def Obligations.IntegerArithmeticResults : Prop :=
  (∀ g : Gen,
     Computes .iadd g (extU (subU g)) (fun w a b =>
       let r := exactInt (subU g) a + exactInt (subU g) b
       BitVec.ofInt w (if subS g then clampTo (subU g) w r else r)) ∧
     Computes .isub g (extU (subU g)) (fun w a b =>
       let r := exactInt (subU g) a - exactInt (subU g) b
       BitVec.ofInt w (if subS g then clampTo (subU g) w r else r)) ∧
     Computes .imulh g (extU (subU g)) (fun w a b =>
       BitVec.ofInt w (exactInt (subU g) a * exactInt (subU g) b / 2 ^ w)) ∧
     Computes .imin g (extU (subU g)) (fun w a b => BitVec.ofInt w (min (exactInt (subU g) a) (exactInt (subU g) b))) ∧
     Computes .imax g (extU (subU g)) (fun w a b => BitVec.ofInt w (max (exactInt (subU g) a) (exactInt (subU g) b)))) ∧
  (∀ (g : Gen) (s : State) (x : Iss),
     (Issues (.imul g) s x → subWide g = false → exec (.imul g) s = .next (if subW g
       then x.gives64 g.d fun l =>
         ⟨(x.a64 g l).bits * (x.b64 g (extU (subU g)) l).bits, (x.a64 g l).poison || (x.b64 g (extU (subU g)) l).poison⟩
       else x.gives32 g.d fun l => ⟨(x.a32 g l).bits * (x.b32 g l).bits, (x.a32 g l).poison || (x.b32 g l).poison⟩)) ∧
     (Issues (.imul g) s x → subWide g = true → exec (.imul g) s = .next (x.gives64 g.d fun l =>
       ⟨BitVec.ofInt 64 (exactInt (subU g) (x.a32 g l).bits * exactInt (subU g) (x.b32 g l).bits),
         (x.a32 g l).poison || (x.b32 g l).poison⟩)) ∧
     (Issues (.imad g) s x → subWide g = false → exec (.imad g) s = .next (if subW g
       then x.gives64 g.d fun l =>
         ⟨(x.a64 g l).bits * (x.b64 g (extU (subU g)) l).bits + (x.c64 g l).bits,
           (x.a64 g l).poison || (x.b64 g (extU (subU g)) l).poison || (x.c64 g l).poison⟩
       else x.gives32 g.d fun l =>
         ⟨(x.a32 g l).bits * (x.b32 g l).bits + (x.c32 g l).bits,
           (x.a32 g l).poison || (x.b32 g l).poison || (x.c32 g l).poison⟩)) ∧
     (Issues (.imad g) s x → subWide g = true → subW g = false → exec (.imad g) s = .next (x.gives64 g.d fun l =>
       ⟨BitVec.ofInt 64 (exactInt (subU g) (x.a32 g l).bits * exactInt (subU g) (x.b32 g l).bits +
           exactInt (subU g) (x.c64 g l).bits),
         (x.a32 g l).poison || (x.b32 g l).poison || (x.c64 g l).poison⟩))) ∧
  (∀ g : Gen,
     Computes .and g .sign (fun _ a b => a &&& b) ∧
     Computes .or g .sign (fun _ a b => a ||| b) ∧
     Computes .xor g .sign (fun _ a b => a ^^^ b) ∧
     Shifts .shl g (fun _ a n => a <<< n.toNat) ∧
     Shifts .shr g (fun _ a n => a >>> n.toNat) ∧
     Shifts .sar g (fun _ a n => a.sshiftRight n.toNat))

/-- The sources a variant of BITS reads (R173). -/
def Obligations.BitOperationResults : Prop :=
  ∀ (g : Gen) (s : State) (x : Iss), Issues (.bits g) s x →
    let v := g.sub.toNat % 16
    (g.sub.toNat < 16 → exec (.bits g) s = .next (x.gives32 g.d fun l =>
      let a := x.a32 g l
      let b := if 4 ≤ v ∧ v ≤ 12 then x.b32 g l else .zero
      let c := if v = 6 ∨ v = 9 ∨ v = 10 then x.c32 g l else .zero
      ⟨bitsResult v a.bits b.bits b.bits.toNat c.bits, a.poison || b.poison || c.poison⟩)) ∧
    (16 ≤ g.sub.toNat → exec (.bits g) s = .next (
      let a l := x.a64 g l
      let b l := if 4 ≤ v ∧ v ≤ 10 then x.b32 g l else .zero
      let m l : Val64 := if v = 11 ∨ v = 12 then x.b64 g .sign l else ⟨0#64, false⟩
      let c l := if v = 6 ∨ v = 9 ∨ v = 10 then x.c64 g l else ⟨0#64, false⟩
      let r l : Val64 := ⟨bitsResult v (a l).bits (m l).bits (b l).bits.toNat (c l).bits,
        (a l).poison || (b l).poison || (m l).poison || (c l).poison⟩
      if v ≤ 2 then x.gives32 g.d fun l => (r l).lo else x.gives64 g.d r))

/-- R174 to R177: SEL, MOV, MOVL and LEA. -/
def Obligations.MoveResults : Prop :=
  ∀ (g : Gen) (s : State) (x : Iss),
    (Issues (.sel g) s x →
      let takeA l := hasLane (x.w.pred (g.c.toNat % 8)) l != decide (8 ≤ g.c.toNat)
      exec (.sel g) s = .next (if subW g
        then x.gives64 g.d fun l => if takeA l then x.a64 g l else x.b64 g .sign l
        else x.gives32 g.d fun l => if takeA l then x.a32 g l else x.b32 g l)) ∧
    (Issues (.mov g) s x →
      let e : Ext := match g.sub.toNat / 2 with
        | 0 => .sign
        | 1 => .zero
        | _ => .float
      exec (.mov g) s = .next (if subW g then x.gives64 g.d (x.b64 g e) else x.gives32 g.d (x.b32 g))) ∧
    (Issues (.movl g) s x →
      exec (.movl g) s = .next (x.gives64 g.d fun l => ⟨g.lit ++ (x.a32 g l).bits, (x.a32 g l).poison⟩)) ∧
    (Issues (.lea g) s x →
      exec (.lea g) s = .next (x.gives64 g.d fun l =>
        let b := (x.b32 g l).bits
        ⟨(x.a64 g l).bits + ((if g.sub.getLsbD 3 then b.zeroExtend 64 else b.signExtend 64) <<< (g.sub.toNat % 8)),
          (x.a64 g l).poison || (x.b32 g l).poison⟩))

/-- R174, R169: ISET writes the comparison's bit in each active lane; where an active lane's source is poisoned
nothing is written and the lanes concerned raise POISON, Reported. R181, R182: PLOG and PMOV. A poisoned source of
PMOV to a predicate raises POISON, Reported, and writes no bit. -/
def Obligations.PredicateResults : Prop :=
  (∀ (g : Gen) (s : State) (x : Iss), Issues (.iset g) s x →
     let wide := g.sub.getLsbD 4
     let bad := x.lanesWhere fun l =>
       if wide then (x.a64 g l).poison || (x.b64 g (extU (g.sub.getLsbD 3)) l).poison
       else (x.a32 g l).poison || (x.b32 g l).poison
     let holds l := if wide
       then intCompare (g.sub.toNat % 8) (exactInt (g.sub.getLsbD 3) (x.a64 g l).bits)
         (exactInt (g.sub.getLsbD 3) (x.b64 g (extU (g.sub.getLsbD 3)) l).bits)
       else intCompare (g.sub.toNat % 8) (exactInt (g.sub.getLsbD 3) (x.a32 g l).bits)
         (exactInt (g.sub.getLsbD 3) (x.b32 g l).bits)
     (bad = 0#64 → exec (.iset g) s = .next (x.givesPred g.d holds)) ∧
     (bad ≠ 0#64 → exec (.iset g) s = .next (x.finish (.due s ⟨.poison, bad, 0, none⟩)))) ∧
  (∀ (g : Gen) (s : State) (x : Iss),
     (Issues (.plog g) s x → exec (.plog g) s = .next (x.givesPred g.d fun l =>
       g.sub.getLsbD ((if x.predBit g.a l then 2 else 0) + (if x.predBit g.b l then 1 else 0)))) ∧
     (Issues (.pmov g) s x →
       (g.sub = 0#5 → exec (.pmov g) s = .next (x.gives64 g.d fun _ => ⟨x.w.pred (g.a.toNat % 8) &&& x.w.live, false⟩)) ∧
       (g.sub = 1#5 →
         let bad := x.lanesWhere fun l => (x.a64 g l).poison
         (bad = 0#64 → exec (.pmov g) s = .next (x.givesPred g.d fun l => hasLane (x.a64 g l).bits l)) ∧
         (bad ≠ 0#64 → exec (.pmov g) s = .next (x.finish (.due s ⟨.poison, bad, 0, none⟩)))) ∧
       (g.sub = 2#5 →
         let bad := x.lanesWhere fun l => (x.a32 g l).poison
         (bad = 0#64 → exec (.pmov g) s = .next (x.givesPred g.d fun l => (x.a32 g l).bits != 0#32)) ∧
         (bad ≠ 0#64 → exec (.pmov g) s = .next (x.finish (.due s ⟨.poison, bad, 0, none⟩)))) ∧
       (g.sub = 3#5 → exec (.pmov g) s = .next (x.gives32 g.d fun l => ⟨if x.predBit g.a l then 1#32 else 0#32, false⟩))))

/-- R184, R185, R187: FADD, FSUB, FMUL, FFMA, FMIN, FMAX, FRND and FSCL, at the width F selects, with the flags they
raise, and ARITH where a lane traps one. -/
def Obligations.FloatArithmeticResults : Prop :=
  ∀ g : Gen,
    Floats (.fadd g) (subW g) g.d (fun x l =>
      valueOf (fAdd (fmtF g) (x.ctl g l) (x.fa g l) (x.fb g l)) (x.pa g l || x.pb g l)) ∧
    Floats (.fsub g) (subW g) g.d (fun x l =>
      valueOf (fSub (fmtF g) (x.ctl g l) (x.fa g l) (x.fb g l)) (x.pa g l || x.pb g l)) ∧
    Floats (.fmul g) (subW g) g.d (fun x l =>
      valueOf (fMul (fmtF g) (x.ctl g l) (x.fa g l) (x.fb g l)) (x.pa g l || x.pb g l)) ∧
    Floats (.ffma g) (subW g) g.d (fun x l =>
      valueOf (fFma (fmtF g) (x.ctl g l) (x.fa g l) (x.fb g l) (x.fc g l)) (x.pa g l || x.pb g l || x.pc' g l)) ∧
    Floats (.fmin g) (subW g) g.d (fun x l =>
      valueOf (fMinMax (fmtF g) (x.ctl g l).fin false (x.fa g l) (x.fb g l)) (x.pa g l || x.pb g l)) ∧
    Floats (.fmax g) (subW g) g.d (fun x l =>
      valueOf (fMinMax (fmtF g) (x.ctl g l).fin true (x.fa g l) (x.fb g l)) (x.pa g l || x.pb g l)) ∧
    Floats (.frnd g) (subW g) g.d (fun x l => valueOf (fRnd (fmtF g) (x.ctl g l) (x.fa g l)) (x.pa g l)) ∧
    Floats (.fscl g) (subW g) g.d (fun x l =>
      valueOf (fScl (fmtF g) (x.ctl g l) (x.fa g l) (x.b32 g l).bits.toInt) (x.pa g l || (x.b32 g l).poison))

/-- R184's special operands: a NaN in any source of FADD, FSUB, FMUL, FFMA, FDIV and FSCL, whose result is the
canonical NaN with NV only where a source signals, or where FFMA's factors are 0 and ∞; ∞ − ∞, 0 × ∞ with any addend,
0 / 0, ∞ / ∞ and a division of a finite nonzero value by zero; FSCL of ±0 and ±∞; in every format and under every
control. R65, R67: a value a format holds is rounded to itself in every direction, raising nothing. -/
def Obligations.FloatSpecialOperands : Prop :=
  (∀ (f : Fmt) (c : Ctl), f.hasInf = true → ∀ (a b x : Nat) (neg sgn : Bool) (m : Nat) (e k : Int),
     let nan (v : Nat) : Prop := ∃ nv, f.source c.fin v = .nan nv
     let signals (v : Nat) : Bool := (f.source c.fin v).raisesNV
     let zeroByInf : Bool := match f.source c.fin a, f.source c.fin b with
       | .fin _ n _, .inf _ => n == 0
       | .inf _, .fin _ n _ => n == 0
       | _, _ => false
     (nan a ∨ nan b →
       fAdd f c a b = (f.nan, nvIf (signals a || signals b)) ∧ fSub f c a b = (f.nan, nvIf (signals a || signals b)) ∧
       fMul f c a b = (f.nan, nvIf (signals a || signals b)) ∧ fDiv f c a b = (f.nan, nvIf (signals a || signals b))) ∧
     (nan a ∨ nan b ∨ nan x → fFma f c a b x = (f.nan, nvIf (signals a || signals b || signals x || zeroByInf))) ∧
     (nan a → fScl f c a k = (f.nan, nvIf (signals a))) ∧
     fScl f c (f.zero sgn) k = (f.zero sgn, 0#5) ∧ fScl f c (f.infinity sgn) k = (f.infinity sgn, 0#5) ∧
     (f.source c.fin (f.infinity sgn) = .inf sgn) ∧
     (f.source c.fin (f.zero sgn) = .fin sgn 0 (f.emin - f.fbits)) ∧
     fAdd f c (f.infinity neg) (f.infinity !neg) = (f.nan, fNV) ∧
     fSub f c (f.infinity neg) (f.infinity neg) = (f.nan, fNV) ∧
     fMul f c (f.zero neg) (f.infinity sgn) = (f.nan, fNV) ∧
     fMul f c (f.infinity sgn) (f.zero neg) = (f.nan, fNV) ∧
     fFma f c (f.zero neg) (f.infinity sgn) x = (f.nan, fNV) ∧ fFma f c (f.infinity sgn) (f.zero neg) x = (f.nan, fNV) ∧
     fDiv f c (f.zero neg) (f.zero sgn) = (f.nan, fNV) ∧
     fDiv f c (f.infinity neg) (f.infinity sgn) = (f.nan, fNV) ∧
     (f.source c.fin a = .fin neg m e → m ≠ 0 → fDiv f c a (f.zero sgn) = (f.infinity (neg != sgn), fDZ))) ∧
  (∀ (f : Fmt) (dir : Dir) (bits : Nat) (neg : Bool) (m : Nat) (e : Int), bits < 2 ^ f.width →
     f.decode bits = .fin neg m e → m ≠ 0 → f.round dir false neg m 1 e = (bits, 0#5))

/-- R178 to R180, R190, R191: CVT, PACK, UNPK, the packed halves and FDOT. R186, R188, R169: FSET and FCLASS. Where
lanes of FSET are poisoned and lanes trap a flag, the lower lane decides. -/
def Obligations.ConversionAndTestResults : Prop :=
  (∀ g : Gen,
     let h : Fmt := if subW g then .bf16 else .f16
     let packed (x : Iss) (l : Nat) (c : Val) (op : Ctl → Nat → Nat → Nat → Nat × Flags) : Val64 × Flags :=
       let a := x.a32 g l
       let b := x.b32 g l
       let r (j : Nat) := op (x.ctl g l) (elem 16 a.bits.toNat j) (elem 16 b.bits.toNat (if subU g then 1 - j else j))
         (elem 16 c.bits.toNat j)
       valueOf ((r 1).1 * 2 ^ 16 + (r 0).1, (r 0).2 ||| (r 1).2) (a.poison || b.poison || c.poison)
     Floats (.cvt g) (cvtWide g.sub.toNat).1 g.d (fun x l =>
       let a : Val64 := if (cvtWide g.sub.toNat).2 then x.a64 g l else (x.a32 g l).wide
       valueOf (cvtOp g.sub.toNat (x.ctl g l) a.bits.toNat) a.poison) ∧
     Floats (.pack g) false g.d (fun x l =>
       let c := if 3 ≤ g.sub.toNat then x.c32 g l else .zero
       valueOf (packOp g.sub.toNat (x.ctl g l) (x.a32 g l).bits.toNat (x.b32 g l).bits.toNat c.bits.toNat)
         ((x.a32 g l).poison || (x.b32 g l).poison || c.poison)) ∧
     Floats (.unpk g) false g.d (fun x l =>
       valueOf (unpkOp g.sub.toNat (x.a32 g l).bits.toNat (x.b32 g l).bits.toNat)
         ((x.a32 g l).poison || (x.b32 g l).poison)) ∧
     Floats (.pkadd g) false g.d (fun x l => packed x l .zero fun c a b _ => fAdd h c a b) ∧
     Floats (.pkmul g) false g.d (fun x l => packed x l .zero fun c a b _ => fMul h c a b) ∧
     Floats (.pkfma g) false g.d (fun x l => packed x l (x.c32 g l) (fFma h)) ∧
     Floats (.fdot g) false g.d (fun x l =>
       valueOf (fdotOp g.sub.toNat (x.ctl g l) (x.a32 g l).bits.toNat (x.b32 g l).bits.toNat (x.c32 g l).bits.toNat)
         ((x.a32 g l).poison || (x.b32 g l).poison || (x.c32 g l).poison))) ∧
  (∀ (g : Gen) (s : State) (x : Iss),
     (Issues (.fset g) s x →
       let wide := g.sub.getLsbD 4
       let a (l : Nat) : Val64 := if wide then x.a64 g l else (x.a32 g l).wide
       let b (l : Nat) : Val64 := if wide then x.b64 g .float l else (x.b32 g l).wide
       let r (l : Nat) := fSet (if wide then .f64 else .f32) ((x.modeOf l).getLsbD 2) (g.sub.toNat % 8) (g.sub.getLsbD 3)
         (a l).bits.toNat (b l).bits.toNat
       let pz := x.lanesWhere fun l => (a l).poison || (b l).poison
       let bad := x.lanesWhere fun l => (r l).2 &&& trapEnables (x.modeOf l) != 0#5
       (pz = 0#64 → bad = 0#64 → exec (.fset g) s = .next (x.leaves
         (x.setModes (x.putPred x.w g.d x.act (x.lanesWhere fun l => (r l).1)) fun l => (r l).2))) ∧
       (pz ≠ 0#64 → (bad = 0#64 ∨ lowest pz ≤ lowest bad) →
         exec (.fset g) s = .next (x.finish (.due s ⟨.poison, pz, 0, none⟩))) ∧
       (bad ≠ 0#64 → (pz = 0#64 ∨ lowest bad < lowest pz) →
         exec (.fset g) s = .next (x.finish (.trap s ⟨.arith, bad, 0, none⟩)))) ∧
     (Issues (.fclass g) s x → exec (.fclass g) s = .next (x.gives32 g.d fun l =>
       ⟨BitVec.ofNat 32 (fClass (fmtF g) ((x.modeOf l).getLsbD 2) (x.fa g l)), x.pa g l⟩)))

/-- R170, R168: an SFU takes the quadrant's unit for 4 clocks and an FDIV for 8 or 32, with a new version of its
destination that it will write and the version before it; while the unit is taken it does not issue. R150, R168, R170:
one of the unit's instructions completes, which one being free where it has several: each lane's value goes to the
version its destination was given and the flags are set; where it trapped a flag nothing is written, the names keep
the version before, and ARITH falls due in those lanes. It rests in part on choices of the model: log entry 8. -/
def Obligations.UnitInstructionResults : Prop :=
  (∀ (g : Gen) (s : State) (x : Iss),
     let start (i : Instr) (wide : Bool) (clocks : Nat) (f : Nat → Val64 × Flags) : Prop := Issues i s x →
       (s.clk < (s.quad x.w.quadNo).unitUntil → exec i s = .next s) ∧
       ((s.quad x.w.quadNo).unitUntil ≤ s.clk →
         let bad := x.lanesWhere fun l => (f l).2 &&& trapEnables (x.modeOf l) != 0#5
         let wo := x.w.addDests x (x.opOf .value) g.d (if wide then 2 else 1)
         let o : Op := { wo.2 with
           result := if bad = 0#64 then x.lanes.map fun l => (l, (f l).1) else []
           flags := (lanesOf (if bad = 0#64 then x.act else bad)).map fun l => (l, (f l).2)
           olds := wo.2.dests.filterMap fun t => match t with
             | .reg name p => some (p, x.w.phys? x.sp.win name)
             | _ => none }
         exec i s = .next (x.complete
           ((s.putWave { wo.1 with ops := wo.1.ops ++ [o] }).modQuad x.w.quadNo fun q =>
             { q with unit := q.unit ++ [(x.w.id, x.uid)], unitUntil := s.clk + clocks }) true))
     start (.fdiv g) (subW g) (if subW g then 32 else 8) (fun l =>
       valueOf (fDiv (fmtF g) (x.ctl g l) (x.fa g l) (x.fb g l)) (x.pa g l || x.pb g l)) ∧
     start (.sfu g) false 4 (fun l =>
       valueOf (sfuOp g.sub.toNat (x.ctl g l) (x.a32 g l).bits.toNat) (x.a32 g l).poison)) ∧
  (∀ (q id uid : Nat) (s s' : State) (w : Wave) (o : Op), s.pick (s.quad q).unit = (some (id, uid), s') →
     s'.wave? id = some w → w.op? uid = some o →
     let free := s'.modQuad q fun k => { k with unit := k.unit.filter (· != (id, uid)) }
     (o.result ≠ [] → exec (.sfuComplete q) s = .next (free.modWave id fun w =>
       (o.flags.foldl (fun w r => w.addFlags o.no r.1 r.2)
         (o.result.foldl (fun w r => (w.deliver o 0 r.1 r.2.lo).deliver o 1 r.1 r.2.hi) w)).finishOp uid s.clk)) ∧
     (o.result = [] → exec (.sfuComplete q) s = .next
       ((free.reportOp id o ⟨.arith, laneSet (o.flags.map (·.1)), 0, none⟩).modWave id fun w =>
         o.olds.foldl (fun w e => w.takeBack e.1 e.2 s.clk) (w.finishOp uid s.clk))))

/-- R195 to R198: PERM, BALLOT, VOTE and MATCH. -/
def Obligations.CrossLaneResults : Prop :=
  ∀ (g : Gen) (s : State) (x : Iss),
    (Issues (.perm g) s x →
      let zero l := subU g = true ∧ x.width ≤ (x.b32 g l).bits.toNat
      let j l := (x.b32 g l).bits.toNat % x.width
      exec (.perm g) s = .next (if subW g
        then x.gives64 g.d fun l =>
          if zero l ∨ hasLane x.sp.mask (j l) = false then ⟨0#64, (x.b32 g l).poison⟩
          else ⟨(x.a64 g (j l)).bits, (x.a64 g (j l)).poison || (x.b32 g l).poison⟩
        else x.gives32 g.d fun l =>
          if zero l ∨ hasLane x.sp.mask (j l) = false then ⟨0#32, (x.b32 g l).poison⟩
          else ⟨(x.a32 g (j l)).bits, (x.a32 g (j l)).poison || (x.b32 g l).poison⟩)) ∧
    (let m := x.lanesWhere fun l => hasLane (x.w.pred (g.a.toNat % 8)) l
     (Issues (.ballot g) s x → exec (.ballot g) s = .next (if subW g
        then x.gives32 g.d fun _ => ⟨BitVec.ofNat 32 (lanesOf m).length, false⟩
        else x.gives64 g.d fun _ => ⟨m, false⟩)) ∧
     (Issues (.vote g) s x → exec (.vote g) s = .next (x.givesPred g.d fun _ =>
        match g.sub.toNat with
        | 0 => m == x.act
        | 1 => m != 0#64
        | 2 => m == x.act || m == 0#64
        | _ => (lanesOf m).length % 2 == 1))) ∧
    (Issues (.matchl g) s x →
      let a (l : Nat) : Val64 := if subW g then x.a64 g l else (x.a32 g l).wide
      (subU g = false → exec (.matchl g) s = .next (x.gives64 g.d fun l =>
        ⟨x.lanesWhere fun j => (a j).bits == (a l).bits, x.lanes.any fun j => (a j).bits == (a l).bits && (a j).poison⟩)) ∧
      (subU g = true →
        let bad := x.lanesWhere fun l => (a l).poison
        (bad = 0#64 → exec (.matchl g) s = .next (x.givesPred g.d fun _ =>
          x.lanes.all fun l => (a l).bits == (a x.first).bits)) ∧
        (bad ≠ 0#64 → exec (.matchl g) s = .next (x.finish (.due s ⟨.poison, bad, 0, none⟩)))))

/-- R77, R199 to R201: SCANL gives each active lane the tree's value at its lane, or at the lane before it where it is
exclusive; REDL gives every active lane the last lane's value. -/
def Obligations.ScanAndReduceResults : Prop :=
  ∀ g : Gen,
    let sub := g.sub.toNat % 16
    let wide := decide (sub = 11)
    let y (x : Iss) := tree sub x.width (fun l => ctlOf (x.modeOf l) .mode) ((List.range x.width).map fun l =>
      (if hasLane x.act l then
        some (scanFlush sub (ctlOf (x.modeOf l) .mode).fin (x.aW g wide l).bits.toNat) else none, 0#5))
    let at_ (x : Iss) (j : Nat) : Nat := ((y x).getD j (none, 0#5)).1.getD (scanEps sub)
    let tainted (x : Iss) (j : Nat) : Bool := x.lanes.any fun k => decide (k ≤ j) && (x.aW g wide k).poison
    let flags (x : Iss) (l : Nat) : Flags := ((y x).getD l (none, 0#5)).2
    Floats (.scanl g) wide g.d (fun x l =>
      if g.sub.getLsbD 4 = false then valueOf (at_ x l, flags x l) (tainted x l)
      else if l = 0 then valueOf (scanEps sub, flags x l) false
      else valueOf (at_ x (l - 1), flags x l) (tainted x (l - 1))) ∧
    Floats (.redl g) wide g.d (fun x l => valueOf (at_ x (x.width - 1), flags x l) (tainted x (x.width - 1)))

/-- R77, R199: for every operator of SCANL and REDL on integers the tree gives each lane the operator's fold over the
contributing lanes up to it, in lane order: the shape of the tree does not show. -/
def Obligations.IntegerScanIsThePrefixFold : Prop :=
  ∀ (sub : Nat) (c : Nat → Ctl) (k : Ctl) (vals : List (Option Nat)) (w j : Nat), sub ∈ [0, 2, 3, 5, 6, 8, 9, 10] →
    w ∈ [16, 32, 64] → vals.length = w → j < w → (∀ v, some v ∈ vals → v < 2 ^ 32) →
    ((tree sub w c (vals.map fun v => (v, 0#5))).getD j (none, 0#5)).1 =
      (vals.take (j + 1)).foldl (fun a v => match a, v with
        | some p, some q => some (scanOp sub k p q).1
        | some p, none => some p
        | none, q => q) none

/-- R202, R203: TOPK writes, into each active lane below k, the entry of that place in the one order of the list's and
the candidates' entries; a lane whose flags its mode word traps makes it write nothing and raise ARITH. -/
def Obligations.TopkMergesInOrder : Prop :=
  ∀ (g : Gen) (s : State) (x : Iss), Issues (.topk g) s x →
    let k := min (x.b32 g x.first).bits.toNat x.width
    let pairAt (j : Nat) : Val64 := Val.join (x.reg g.d 0 j) (x.reg g.d 1 j)
    let entry (cand : Bool) (lane : Nat) (v : Val64) : Ranked :=
      let r := keyRank (subU g) (subW g) ((x.modeOf lane).getLsbD 2) (v.bits.toNat % 2 ^ 32)
      ⟨r.1, r.2, v.bits.toNat / 2 ^ 32, cand, lane, v⟩
    let entries := ((List.range k).filter (hasLane x.sp.mask)).map (fun j => entry false j (pairAt j)) ++
      x.lanes.map fun i => entry true i (x.a64 g i)
    let signals (v : Val64) : Bool := !subU g && (Fmt.decode .f32 (v.bits.toNat % 2 ^ 32)).raisesNV
    let flags (i : Nat) : Flags := nvIf (signals (x.a64 g i) || (decide (i < k) && signals (pairAt i)))
    let bad := x.lanesWhere fun l => flags l &&& trapEnables (x.modeOf l) != 0#5
    (∀ sorted : List Ranked, bad = 0#64 → sorted.Perm entries → sorted.Pairwise (fun a b => a.before b = true) →
      let into := x.lanesWhere fun j => j < k && j < sorted.length
      exec (.topk g) s = .next (x.leaves
        (x.setModes (x.putPair x.w g.d into fun j => (sorted[j]?).elim ⟨0#64, false⟩ (·.pair)) flags))) ∧
    (bad ≠ 0#64 → exec (.topk g) s = .next (x.finish (.trap s ⟨.arith, bad, 0, none⟩)))

/-- R183: RDLANE gives every active lane the chosen lane's value, 0 where that lane is not in the split; WRLANE gives
the chosen lane, where it is active, the lowest active lane's value with the OR of A's and B's poison. R204: COMPRESS
packs the active lanes whose predicate bit is set into the lowest active lanes, EXPAND is its inverse placing, each in
lane order; lanes not written keep the destination. It rests in part on choices of the model: log entry 21. -/
def Obligations.LaneMoveResults : Prop :=
  (∀ (g : Gen) (s : State) (x : Iss),
     let k := (x.b32 g x.first).bits.toNat % x.width
     (Issues (.rdlane g) s x → exec (.rdlane g) s = .next (if subW g
       then x.gives64 g.d fun _ => if hasLane x.sp.mask k then x.a64 g k else ⟨0#64, false⟩
       else x.gives32 g.d fun _ => if hasLane x.sp.mask k then x.a32 g k else .zero)) ∧
     (Issues (.wrlane g) s x → exec (.wrlane g) s = .next (x.leaves (if subW g
       then x.putPair x.w g.d (x.act &&& 1#64 <<< k) fun _ =>
         ⟨(x.a64 g x.first).bits, (x.a64 g x.first).poison || (x.b32 g x.first).poison⟩
       else x.put x.w g.d 0 (x.act &&& 1#64 <<< k) fun _ =>
         ⟨(x.a32 g x.first).bits, (x.a32 g x.first).poison || (x.b32 g x.first).poison⟩)))) ∧
  (∀ (g : Gen) (s : State) (x : Iss),
     let chosen := x.lanes.filter fun l => hasLane (x.w.pred (g.b.toNat % 8)) l
     let moved (pairs : List (Nat × Nat)) : Wave :=
       let dest := laneSet (pairs.map (·.1))
       if subW g then x.putPair x.w g.d dest fun l => (lookupKey l pairs).elim ⟨0#64, false⟩ (x.a64 g)
       else x.put x.w g.d 0 dest fun l => (lookupKey l pairs).elim ⟨0#32, false⟩ (x.a32 g)
     (Issues (.compress g) s x → exec (.compress g) s = .next (x.leaves (moved (x.lanes.zip chosen)))) ∧
     (Issues (.expand g) s x → exec (.expand g) s = .next (x.leaves (moved (chosen.zip x.lanes)))))

/-- R205, R206: LDA and STA move words j and up of the issuing lane's own array, each with its own poison; an index
beyond it is OPERAND, poisoned or not, a poisoned one within it POISON, and then nothing is written. -/
def Obligations.LaneArrayResults : Prop :=
  ∀ (g : Gen) (s : State) (x : Iss),
    let n := if subW g then 2 else 1
    let j (l : Nat) : Nat := ((x.a32 g l).bits + (x.b32 g l).bits).toNat
    let dirty (l : Nat) : Bool := (x.a32 g l).poison || (x.b32 g l).poison
    let within := ∀ l ∈ x.lanes, dirty l = false ∧ j l + n ≤ x.w.decl.lanearray
    (Issues (.lda g) s x → within → exec (.lda g) s = .next (if subW g
      then x.leaves (x.put (x.put x.w g.d 0 x.act fun l => x.w.arr (j l) l) g.d 1 x.act fun l => x.w.arr (j l + 1) l)
      else x.gives32 g.d fun l => x.w.arr (j l) l)) ∧
    (Issues (.sta g) s x → within → (∀ l ∈ x.lanes, l < x.w.width) →
      ∃ v : Wave, exec (.sta g) s = .next (x.leaves v) ∧ v.windows = x.w.windows ∧ v.splits = x.w.splits ∧
        v.sregs = x.w.sregs ∧ v.preds = x.w.preds ∧ v.modes = x.w.modes ∧
        ∀ l word, l < x.w.width → v.arr word l =
          if hasLane x.act l = true ∧ word = j l then x.src g.c 0 g.pc l
          else if hasLane x.act l = true ∧ subW g = true ∧ word = j l + 1 then x.src g.c 1 g.pc l
          else x.w.arr word l) ∧
    (∀ i, i = Instr.lda g ∨ i = Instr.sta g → Issues i s x →
      let beyond (l : Nat) : Bool := decide (x.w.decl.lanearray < j l + n)
      let within (l : Nat) : Bool := !beyond l && dirty l
      ∀ l, x.lanes.find? (fun l => beyond l || within l) = some l →
        exec i s = .next (x.finish (if beyond l then .trap s ⟨.operand, x.lanesWhere beyond, 0#64, some 0x10⟩
          else .due s ⟨.poison, x.lanesWhere within, 0#64, none⟩)))

/-- R134, R155, R428: BRA and BRX divide the split among the targets of its active lanes and the next instruction,
where the other lanes go on; a BRX target that is poisoned, beyond 2^57 or misaligned traps instead. R143, R155: CALL
and CALLX push, for each target, a call window of 16 names whose caller is the split's window and whose return PC is
the next instruction, and take the lanes there; more than 64 windows trap WINDOW. R143, R156, R157, R413: RET takes
its lanes to the call window's caller and return PC, ENTER sizes a window once; elsewhere they trap WINDOW. R137,
R154, R158, R159, R413: NOP does nothing, REGION ends the region, and EXIT ends its lanes: the wave is Exited when it
has no lane left; in a handler window it traps WINDOW. It rests in part on choices of the model: log entries 14, 17
and 18. -/
def Obligations.ControlFlowResults : Prop :=
  (∀ (s : State) (x : Iss),
     let on : DWord × Lanes × Nat := (x.pc + BitVec.ofNat 64 x.len, x.sp.mask &&& ~~~x.act, x.sp.win)
     let go (ts : List (DWord × Lanes × Nat)) : State :=
       x.complete (s.putWave (x.w.divide x.sp (ts ++ [on]) s.clk)) false
     (∀ g : Bra, Issues (.bra g) s x →
       exec (.bra g) s = .next (go [(x.pc + (g.off.signExtend 64 <<< 2), x.act, x.sp.win)])) ∧
     (∀ g : Gen, Issues (.brx g) s x →
       let t l := (x.a64 g l).bits.toNat
       let bad := x.lanesWhere fun l => (x.a64 g l).poison
       let far l := decide (2 ^ 57 ≤ t l)
       let odd l := !far l && t l % 4 != 0
       (bad ≠ 0#64 → exec (.brx g) s = .next (x.finish (.trap s ⟨.poison, bad, 0, none⟩))) ∧
       (bad = 0#64 → ∀ l, x.lanes.find? (fun l => far l || odd l) = some l → exec (.brx g) s = .next (x.finish (.trap s
         (if far l then ⟨.address, x.lanesWhere far, BitVec.ofNat 64 (t l), none⟩
          else ⟨.align, x.lanesWhere odd, BitVec.ofNat 64 (t l), none⟩)))) ∧
       (bad = 0#64 → x.lanes.find? (fun l => far l || odd l) = none →
         exec (.brx g) s = .next (go ((x.lanes.foldl (fun ts l => insertNat (t l) ts) []).map fun p =>
           (BitVec.ofNat 64 p, x.lanesWhere fun l => t l == p, x.sp.win)))))) ∧
  (∀ (s : State) (x : Iss),
     let next := x.pc + BitVec.ofNat 64 x.len
     let on : DWord × Lanes × Nat := (next, x.sp.mask &&& ~~~x.act, x.sp.win)
     let window (k : Nat) : Window :=
       { id := x.w.nextWin + k, kind := .call, size := 16, caller := x.sp.win, retPc := next, map := [], entered := false,
         spilled := false, saved := none }
     let enter (ts : List (DWord × Lanes)) : Host.Outcome State Fault Refusal :=
       if 64 < x.w.windows.length + ts.length then .next (x.finish (.trap s ⟨.window, x.act, 0, none⟩))
       else
         let w : Wave := { x.w with
           windows := x.w.windows ++ (List.range ts.length).map window, nextWin := x.w.nextWin + ts.length }
         .next (x.complete (s.putWave
           (w.divide x.sp (ts.zipIdx.map (fun (t, k) => (t.1, t.2, x.w.nextWin + k)) ++ [on]) s.clk)) false)
     (∀ g : Bra, Issues (.call g) s x → exec (.call g) s = enter [(x.pc + (g.off.signExtend 64 <<< 2), x.act)]) ∧
     (∀ g : Gen, Issues (.callx g) s x → ∀ ts, x.targets g = .ok ts → exec (.callx g) s = enter ts) ∧
     (∀ g : Gen, Issues (.callx g) s x → ∀ f, x.targets g = .error f → exec (.callx g) s = .next (x.finish (.trap s f)))) ∧
  (∀ (g : Gen) (s : State) (x : Iss) (v : Window), x.w.window? x.sp.win = some v →
     let on : DWord × Lanes × Nat := (x.pc + BitVec.ofNat 64 x.len, x.sp.mask &&& ~~~x.act, x.sp.win)
     (Issues (.ret g) s x →
       (v.kind = .call → (x.w.window? v.caller).any (·.spilled) = false →
         exec (.ret g) s = .next (x.complete (s.putWave (x.w.divide x.sp [(v.retPc, x.act, v.caller), on] s.clk)) false)) ∧
       (v.kind = .call → (x.w.window? v.caller).any (·.spilled) = true → exec (.ret g) s = .next s) ∧
       (v.kind ≠ .call → exec (.ret g) s =
         .next (x.finish (.trap s ⟨.window, x.act, 0, if v.kind = .handler then some 6 else none⟩)))) ∧
     (Issues (.enter g) s x →
       (v.kind ≠ .initial → v.entered = false → exec (.enter g) s = .next (x.leaves
         (x.w.modWindow x.sp.win fun v => { v with size := 8 * g.sub.toNat, entered := true }))) ∧
       ((v.kind = .initial ∨ v.entered = true) →
         exec (.enter g) s = .next (x.finish (.trap s ⟨.window, x.act, 0, none⟩))))) ∧
  (∀ (g : Gen) (s : State) (x : Iss),
     (Issues (.nop g) s x → exec (.nop g) s = .next (x.complete s true)) ∧
     (Issues (.region g) s x → exec (.region g) s = .next (x.complete s true)) ∧
     (Issues (.exit g) s x →
       ((x.w.window? x.sp.win).any (·.kind == .handler) = true →
         exec (.exit g) s = .next (x.finish (.trap s ⟨.window, x.act, 0, some 6⟩)).poll) ∧
       ((x.w.window? x.sp.win).any (·.kind == .handler) = false →
         let w := (x.w.modSplit x.sp.slot fun p => { p with pc := x.pc + BitVec.ofNat 64 x.len }).dropLanes x.act
         exec (.exit g) s = .next (x.complete
           (s.putWave (if x.w.live &&& ~~~x.act = 0#64 then { w with st := .exited, frozen := none } else w)) false).poll)))

/-- R149, R160, R161: the MODE instructions change the writable bits of each active lane's mode word and no other,
MODERD reads it, YIELD marks its split. R162, R163, R428, R50: TRAP and BRK raise SOFTWARE and BREAK in their active
lanes with B of the lowest as the detail; WAITC waits for its path's count to come down to B; a reserved opcode raises
ILLEGAL, whatever else holds. It rests in part on choices of the model: log entry 14. -/
def Obligations.ModeTrapAndWaitResults : Prop :=
  (∀ (g : Gen) (s : State) (x : Iss),
     let change (bad : Lanes) (f : Word → Word → Word → Word) : Host.Outcome State Fault Refusal :=
       let one (m : Word) (l : Nat) : Word :=
         if hasLane x.act l then (f m (x.a32 g l).bits (x.b32 g l).bits &&& 0x7FEF#32) ||| (m &&& 0xFFFF8010#32) else m
       if bad = 0#64 then .next (x.leaves { x.w with modes := x.w.modes.zipIdx.map fun e => one e.1 e.2 })
       else .next (x.finish (.trap s ⟨.poison, bad, 0, none⟩))
     let badB := x.lanesWhere fun l => (x.b32 g l).poison
     let badAB := x.lanesWhere fun l => (x.a32 g l).poison || (x.b32 g l).poison
     (Issues (.mode g) s x → exec (.mode g) s = change badAB fun m a b => (m &&& ~~~b) ||| (a &&& b)) ∧
     (Issues (.modeSet g) s x → exec (.modeSet g) s = change badB fun m _ b => m ||| b) ∧
     (Issues (.modeClr g) s x → exec (.modeClr g) s = change badB fun m _ b => m &&& ~~~b) ∧
     (Issues (.moderd g) s x → exec (.moderd g) s = .next (x.gives32 g.d fun l => ⟨x.w.modes.getD l 0#32, false⟩)) ∧
     (Issues (.yield g) s x →
       exec (.yield g) s = .next (x.leaves (x.w.modSplit x.sp.slot fun p => { p with yield := some s.clk })))) ∧
  (∀ (g : Gen) (s : State) (x : Iss),
     let b := x.b32 g x.first
     (Issues (.trap g) s x →
       exec (.trap g) s = .next (x.finish (.trap s ⟨.software, x.act, 0, some (b.bits.zeroExtend 64)⟩))) ∧
     (Issues (.brk g) s x →
       exec (.brk g) s = .next (x.finish (.trap s ⟨.brk, x.act, 0, some (b.bits.zeroExtend 64)⟩))) ∧
     (Issues (.waitc g) s x →
       (b.poison = true → exec (.waitc g) s = .next (x.finish (.trap s ⟨.poison, laneSet [x.first], 0, none⟩)).poll) ∧
       (b.poison = false → exec (.waitc g) s = .next (x.finish (.wait s
         { kind := .path g.sub.toNat b.bits.toNat, loc := ⟨.dev, 0⟩, va := 0, acq := none, lanes := x.act, op := 0x0E,
           sub := g.sub.toNat, len := x.len, uid := x.no, marks := [] })).poll)) ∧
     (∀ w : Word, s.issuing (.reservedOpcode w) = some x →
       exec (.reservedOpcode w) s = .next (x.finish (.trap s ⟨.illegal, x.sp.mask, 0, none⟩))))

/-- R97, R100, R103, R104: a trap of a resident wave whose class the device claims puts the wave into solo mode: its
splits are frozen as they stand, one lane runs at sys.kbase + 64 × cause in a new window of 32 names, with the mode
word reset, and the system registers hold the resume PC, the instruction's PC, the cause, the lanes, the address and
the detail. The wave keeps the trap for as long as a rollback may discard its taking (R424). R101, R104, R424, R430: a
trap the device does not claim holds the wave with its splits frozen as they stand, its record held back with the
wave's other effects, unless a rollback has made due again a trap whose record is out; a trap in solo code or of a
service wave holds the wave; POISON is counted, reported as its class is claimed, and kills the wave's gang. -/
def Obligations.TakenTrapEntersSoloOrHoldsTheWave : Prop :=
  (∀ (s : State) (id slot : Nat) (r : Raised) (w : Wave) (sp : Split), s.wave? id = some w → w.service = false →
     w.st ≠ .solo → r.trap.cause ≠ .poison → w.split? slot = some sp →
     (s.ctx w.ctx).claim.testBit (2 * r.trap.cause.claimClass) = true →
     let lane := if r.trap.lanes = allLanes w.width then lowest sp.mask else lowest r.trap.lanes
     let frozen : Frozen := ⟨w.splits, w.parked, w.modes, slot, w.nextWin, w.issueNo, true, w.ahead⟩
     let old := w.ckpts.head?.elim w.nextCk (·.id)
     s.takeTrap id slot r = s.putWave { w with
       st := .solo, frozen := some frozen
       splits := [Split.fresh 0 (BitVec.ofNat 64 (s.dev.kbase + 64 * r.trap.cause.code)) (1#64 <<< lane) w.nextWin s.clk]
       parked := [], ahead := [], modes := w.modes.map fun _ => 0x10#32
       windows := w.windows ++ [⟨w.nextWin, .solo, 32, 0, 0#64, [], false, false, none⟩]
       nextWin := w.nextWin + 1
       taken := w.taken.filter (fun t => decide (old < t.ck)) ++ [⟨w.nextCk, false, r⟩]
       sys := { w.sys with epc := r.epc, ipc := r.ipc, ecause := BitVec.ofNat 64 r.trap.cause.code, elanes := r.trap.lanes, faddr := r.trap.faddr, einfo := r.trap.einfo, solo := BitVec.ofNat 64 lane, pend := 0 } }) ∧
  (∀ (s : State) (id slot : Nat) (r : Raised) (w : Wave), s.wave? id = some w →
     let cls := r.trap.cause.claimClass
     let dev := (s.ctx w.ctx).claim.testBit (2 * cls)
     let host := (s.ctx w.ctx).claim.testBit (2 * cls + 1)
     let held (flags : Nat) (host : Bool) (mode : Nat) : List Held :=
       if w.told.contains r.no then w.held
       else w.held ++ [⟨r.no, r.clk, 0, .record (trapRecord w r flags).pack host mode, none⟩]
     let taken := w.taken.filter (fun t => decide (w.ckpts.head?.elim w.nextCk (·.id) < t.ck)) ++ [⟨w.nextCk, true, r⟩]
     let counted := if r.trap.cause = .poison then s.count (State.dieOf w.core) 8 else s
     ((w.service = true ∨ w.st = .solo) → s.takeTrap id slot r = counted.putWave { w with
       st := .held, taken, held := held 4 false (if w.service then 0 else 1) }) ∧
     (w.service = false → w.st ≠ .solo → r.trap.cause = .poison → s.takeTrap id slot r =
       (counted.putWave { w with
         taken, held := held 0 (host && !dev) (if dev then 2 else if host then 0 else 1) }).killGang w.ctx w.tag w.gang) ∧
     (w.service = false → w.st ≠ .solo → r.trap.cause ≠ .poison → dev = false →
       let frozen : Frozen := ⟨w.splits, w.parked, w.modes, slot, 0, w.issueNo, false, w.ahead⟩
       ∃ y : SysRegs, y.epc = r.epc ∧ y.ipc = r.ipc ∧ y.ecause = BitVec.ofNat 64 r.trap.cause.code ∧
         y.elanes = r.trap.lanes ∧ y.faddr = r.trap.faddr ∧ y.einfo = r.trap.einfo ∧
         s.takeTrap id slot r = s.putWave { w with
           st := .held, ahead := [], sys := y, frozen := some frozen, taken, held := held 0 host (if host then 0 else 1) }))

/-- R99, R107: sys.sret and sys.claimd resume the frozen splits of a wave, the trapping one at sys.epc, or take the
trap that sys.pend holds, at sys.epc, with the lanes and the detail of the due trap it stands for; in a service wave
sret does nothing and claimd ends the record it names. R103, R107: sys.smovr reads a system register into a pair;
sys.smovw writes the writable ones. R102, R104, R105, R107: sys.claimf of a wave's own trap sends the record to the
host and leaves the wave Held with its splits as the trap froze them; a service wave's sets the record's forwarded bit
and notifies the host, and a service wave is done with the record. It rests in part on choices of the model: log
entries 24, 27 and 159. -/
def Obligations.SoloReturnResults : Prop :=
  (∀ (g : Gen) (s : State) (x : Iss),
     let a := (x.a64 g x.first).bits
     (Issues (.sysSret g) s x →
       (x.w.service = false → exec (.sysSret g) s = .next (x.complete (s.returnFromTrap x.w.id) false)) ∧
       (x.w.service = true → exec (.sysSret g) s = .next (x.complete s true))) ∧
     (Issues (.sysClaimd g) s x → (x.a64 g x.first).poison = false →
       (x.w.service = false → a = 0#64 →
         exec (.sysClaimd g) s = .next (x.complete (s.returnFromTrap x.w.id) false)) ∧
       (x.w.service = false → a ≠ 0#64 →
         exec (.sysClaimd g) s = .next (x.finish (.trap s ⟨.illegal, x.act, 0, some 2⟩))) ∧
       (x.w.service = true → exec (.sysClaimd g) s = .next (x.complete (s.modWave x.w.id fun w =>
         if w.sys.event == a then { w with sys := { w.sys with event := 0 } } else w) true))) ∧
     (∀ (w : Wave) (f : Frozen), s.wave? x.w.id = some w → w.service = false → w.frozen = some f → f.inSolo = true →
       ∃ v, v.id = w.id ∧ v.st = .resident ∧ v.frozen = none ∧ v.parked = f.parked ∧
         v.modes = f.modes ∧ v.ahead = f.ahead ∧ v.windows = w.windows.filter (fun y => y.id < f.win) ∧ v.sys = w.sys ∧
         v.sregs = w.sregs ∧ v.preds = w.preds ∧ v.live = w.live ∧ v.splits.length = f.splits.length ∧
         (∀ sp ∈ f.splits, ∃ p ∈ v.splits, p.slot = sp.slot ∧ p.mask = sp.mask ∧ p.win = sp.win ∧
           p.pc = if sp.slot = f.slot then w.sys.epc else sp.pc) ∧
         (w.sys.pend = 0#64 → s.returnFromTrap x.w.id = s.putWave v) ∧
         (w.sys.pend ≠ 0#64 → ∀ sp, f.splits.find? (·.slot == f.slot) = some sp →
           let cause := Cause.ofCode (w.sys.pend.toNat % 256)
           let pc : DWord := (w.sys.pend >>> 8) <<< 2
           ∃ r : Raised, r.trap.cause = cause ∧ r.ipc = pc ∧ r.epc = w.sys.epc ∧
             (∀ d, w.pended.find? (fun d => d.trap.cause == cause && d.ipc == pc) = some d → r = { d with epc := w.sys.epc }) ∧
             (w.pended.find? (fun d => d.trap.cause == cause && d.ipc == pc) = none → r.trap.lanes = sp.mask) ∧
             s.returnFromTrap x.w.id =
               (s.putWave { v with pended := [], sys := { w.sys with pend := 0 } }).takeTrap x.w.id f.slot r))) ∧
  (∀ (g : Gen) (s : State) (x : Iss),
     let n := (x.b32 g x.first).bits.toNat
     let a := (x.a64 g x.first).bits
     let lane := x.w.sys.tlane.toNat
     let gives (i : Instr) (v : DWord) : Prop := exec i s = .next (x.gives64 g.d fun _ => ⟨v, false⟩)
     (Issues (.sysSmovr g) s x → (x.b32 g x.first).poison = false →
       (n = 0x000 → gives (.sysSmovr g) x.w.sys.epc) ∧ (n = 0x001 → gives (.sysSmovr g) x.w.sys.ipc) ∧
       (n = 0x002 → gives (.sysSmovr g) x.w.sys.ecause) ∧ (n = 0x003 → gives (.sysSmovr g) x.w.sys.elanes) ∧
       (n = 0x004 → gives (.sysSmovr g) x.w.sys.faddr) ∧ (n = 0x005 → gives (.sysSmovr g) x.w.sys.einfo) ∧
       (n = 0x006 → gives (.sysSmovr g) x.w.sys.solo) ∧ (n = 0x007 → gives (.sysSmovr g) x.w.sys.pend) ∧
       (n = 0x008 → gives (.sysSmovr g) (BitVec.ofNat 64 x.w.ctx)) ∧
       (n = 0x009 → gives (.sysSmovr g) (BitVec.ofNat 64 x.w.grid)) ∧
       (n = 0x00A → gives (.sysSmovr g) (BitVec.ofNat 64 x.w.seq)) ∧
       (n = 0x00B → gives (.sysSmovr g) (BitVec.ofNat 64 x.w.tag)) ∧
       (n = 0x00C → gives (.sysSmovr g) x.w.sys.tlane) ∧
       (n = 0x00D → gives (.sysSmovr g) (BitVec.ofNat 64 s.dev.kbase)) ∧
       (n = 0x00E → gives (.sysSmovr g) (BitVec.ofNat 64 s.dev.ctxtab)) ∧
       (n = 0x00F → gives (.sysSmovr g) x.w.sys.event) ∧
       (0x100 ≤ n → n ≤ 0x15F → lane < x.width →
         (x.w.trappedWindow = none →
           exec (.sysSmovr g) s = .next (x.finish (.trap s ⟨.operand, x.act, 0, none⟩))) ∧
         (∀ v, x.w.trappedWindow = some v →
           let p := x.w.phys? v.id (n - 0x100)
           let late := (p.bind x.w.reg?).any (·.writer != 0) ||
             (x.w.window? (x.w.ownerOf (n - 0x100) 64 v.id)).any (·.spilled)
           (v.size ≤ n - 0x100 →
             exec (.sysSmovr g) s = .next (x.finish (.trap s ⟨.operand, x.act, 0, none⟩))) ∧
           (n - 0x100 < v.size → late = true → exec (.sysSmovr g) s = .next s) ∧
           (n - 0x100 < v.size → late = false →
             exec (.sysSmovr g) s = .next (x.gives64 g.d fun _ => (x.w.laneVal p lane).wide)))) ∧
       (0x100 ≤ n → n ≤ 0x168 → x.width ≤ lane →
         exec (.sysSmovr g) s = .next (x.finish (.trap s ⟨.illegal, x.act, 0, some 1⟩))) ∧
       (0x160 ≤ n → n ≤ 0x167 → lane < x.width → gives (.sysSmovr g) (x.w.pred (n - 0x160))) ∧
       (n = 0x168 → lane < x.width → gives (.sysSmovr g) ((x.w.sysModes.getD lane 0#32).zeroExtend 64)) ∧
       (0x168 < n ∨ (0x00F < n ∧ n < 0x100) →
         exec (.sysSmovr g) s = .next (x.finish (.trap s ⟨.illegal, x.act, 0, some 1⟩)))) ∧
     (Issues (.sysSmovw g) s x → (x.a64 g x.first).poison = false → (x.b32 g x.first).poison = false →
       (n = 0x000 → exec (.sysSmovw g) s = .next (x.leaves { x.w with sys := { x.w.sys with epc := a } })) ∧
       (n = 0x007 → exec (.sysSmovw g) s = .next (x.leaves { x.w with sys := { x.w.sys with pend := a } })) ∧
       (n = 0x00A → exec (.sysSmovw g) s = .next (x.leaves { x.w with seq := a.toNat })) ∧
       (n = 0x00C → a.toNat < x.width →
         exec (.sysSmovw g) s = .next (x.leaves { x.w with sys := { x.w.sys with tlane := a } })) ∧
       (n = 0x160 → lane < x.width → exec (.sysSmovw g) s = .next (x.leaves x.w)) ∧
       (0x100 ≤ n → n ≤ 0x15F → lane < x.width →
         (x.w.trappedWindow = none →
           exec (.sysSmovw g) s = .next (x.finish (.trap s ⟨.operand, x.act, 0, none⟩))) ∧
         (∀ v, x.w.trappedWindow = some v →
           let p := x.w.phys? v.id (n - 0x100)
           let late := (p.bind x.w.reg?).any (·.writer != 0) ||
             (x.w.window? (x.w.ownerOf (n - 0x100) 64 v.id)).any (·.spilled) || s.poolShort x.w 1
           (v.size ≤ n - 0x100 →
             exec (.sysSmovw g) s = .next (x.finish (.trap s ⟨.operand, x.act, 0, none⟩))) ∧
           (n - 0x100 < v.size → late = true → exec (.sysSmovw g) s = .next s) ∧
           (n - 0x100 < v.size → late = false →
             exec (.sysSmovw g) s = .next (x.leaves (x.w.writeName (Split.fresh 0 0 0 v.id 0) (n - 0x100) x.clk p 0
               fun i => if i = lane then some ⟨a.truncate 32, false⟩ else none).2)))) ∧
       (0x160 < n → n ≤ 0x167 → lane < x.width → exec (.sysSmovw g) s = .next (x.leaves { x.w with
         preds := updAt (n - 0x160) (fun _ => a &&& allLanes x.width) x.w.preds })) ∧
       (n = 0x168 → lane < x.width →
         let put (l : List Word) : List Word :=
           updAt lane (fun m => (a.truncate 32 &&& 0x7FEF#32) ||| (m &&& ~~~(0x7FEF#32))) l
         (∀ f, x.w.service = false → x.w.frozen = some f →
           exec (.sysSmovw g) s = .next (x.leaves { x.w with frozen := some { f with modes := put f.modes } })) ∧
         (x.w.service = true ∨ x.w.frozen = none →
           exec (.sysSmovw g) s = .next (x.leaves { x.w with modes := put x.w.modes }))) ∧
       (0x100 ≤ n → n ≤ 0x168 → x.width ≤ lane →
         exec (.sysSmovw g) s = .next (x.finish (.trap s ⟨.illegal, x.act, 0, some 1⟩))) ∧
       (n = 0x00C → x.width ≤ a.toNat →
         exec (.sysSmovw g) s = .next (x.finish (.trap s ⟨.illegal, x.act, 0, some 1⟩))) ∧
       (0x168 < n ∨ (0x00F < n ∧ n < 0x100) →
         exec (.sysSmovw g) s = .next (x.finish (.trap s ⟨.illegal, x.act, 0, some 1⟩))) ∧
       (n ∈ [0x001, 0x002, 0x003, 0x004, 0x005, 0x006, 0x008, 0x009, 0x00B, 0x00D, 0x00E, 0x00F] →
         exec (.sysSmovw g) s = .next (x.finish (.trap s ⟨.illegal, x.act, 0, some 1⟩))))) ∧
  (∀ (g : Gen) (s : State) (x : Iss), Issues (.sysClaimf g) s x → (x.a64 g x.first).poison = false →
     let a := (x.a64 g x.first).bits
     (x.w.service = false → a = 0#64 → ∀ f : Frozen, x.w.frozen = some f → f.inSolo = true →
       let cause := Cause.ofCode (x.w.sys.ecause.toNat % 256)
       let r : EvRec := ⟨cause.code, cause.claimClass, 1, x.w.grid, x.w.sys.ipc.toNat, x.w.sys.faddr.toNat,
         x.w.sys.elanes.toNat⟩
       let w := (x.w.hold x.no s.clk 0 (.record r.pack true 0)).popWindow f.win s.clk
       exec (.sysClaimf g) s = .next (x.complete (s.putWave { w with
         st := .held, splits := f.splits, parked := f.parked, modes := f.modes,
         frozen := some { f with inSolo := false } }) false)) ∧
     (x.w.service = false → a ≠ 0#64 →
       exec (.sysClaimf g) s = .next (x.finish (.trap s ⟨.illegal, x.act, 0, some 2⟩))) ∧
     (x.w.service = true → s.ringOf a.toNat = none → exec (.sysClaimf g) s = .next (x.complete (s.modWave x.w.id fun w =>
         if w.sys.event == a then { w with sys := { w.sys with event := 0 } } else w) true)) ∧
     (x.w.service = true → ∀ c, s.ringOf a.toNat = some c →
       let s' := (s.setPnat (a.toNat + 2) 1 (s.pnat (a.toNat + 2) 1 ||| 1)).sendMsix c
       exec (.sysClaimf g) s = .next (x.complete (s'.modWave x.w.id fun w =>
         if w.sys.event == a then { w with sys := { w.sys with event := 0 } } else w) true)))

/-- R107, R361: sys.tlbinv opens an invalidation of a context's entries, sys.tlbsync waits for those opened before it.
R89, R107, R127, R314, R414: sys.evict, sys.wake and sys.qctl act on the context, the queue or the partition they
name. R125, R126, R369, R372, R397, R431: sys.gkill, sys.grelaunch, sys.rankw, sys.inj and sys.biasset. R107, R127,
R314, R369, R372, R397, R428: the stops of SYS operands. A poisoned operand that the operation uses raises POISON in
the lowest active lane; a context, a gang, a slot, an injector or a code that is not one raises ILLEGAL with detail 2;
an address that is no queue header or granule raises ILLEGAL with detail 3, and one that names no context ADDRESS with
detail 14. It rests in part on choices of the model: log entries 25, 26, 28, 29, 30, 31, 32, 33, 92, 108 and 167. -/
def Obligations.SystemCommandResults : Prop :=
  (∀ (g : Gen) (s : State) (x : Iss),
     let a := x.a64 g x.first
     let b := x.b32 g x.first
     (Issues (.sysTlbinv g) s x → a.poison = false → b.poison = false →
       (b.bits.toNat % 64 ≠ 0 → a.bits.toNat < 2 ^ 57 →
         let c := b.bits.toNat % 64
         let chunks := s.engines.zipIdx.filterMap fun (e, i) => match e.work with
           | some k => if k.1 = c then some (i, k) else none
           | none => none
         let s' := (s.choose 2).2
         let s' := if (s.choose 2).1 = 1 then s'.dropTlb c a.bits.toNat else s'
         exec (.sysTlbinv g) s = .next (x.complete (s'.modWave x.w.id fun w =>
           { w with invs := w.invs ++ [⟨c, a.bits.toNat, decide ((s.choose 2).1 = 1), s.clk, chunks⟩] }) true).poll) ∧
       (b.bits.toNat % 64 = 0 →
         exec (.sysTlbinv g) s = .next (x.finish (.trap s ⟨.illegal, x.act, 0, some 2⟩)).poll) ∧
       (b.bits.toNat % 64 ≠ 0 → 2 ^ 57 ≤ a.bits.toNat →
         exec (.sysTlbinv g) s = .next (x.finish (.trap s ⟨.illegal, x.act, 0, some 3⟩)).poll)) ∧
     (Issues (.sysTlbsync g) s x → exec (.sysTlbsync g) s = .next (x.finish (.wait s
       { kind := .tlb s.clk, loc := ⟨.dev, 0⟩, va := 0, acq := none, lanes := x.act, op := 0x0F, sub := 4, len := x.len,
         uid := x.no, marks := [] })).poll)) ∧
  (∀ (g : Gen) (s : State) (x : Iss),
     let a := (x.a64 g x.first).bits.toNat
     let b := (x.b32 g x.first).bits.toNat
     let c := b % 64
     (x.a64 g x.first).poison = false → (x.b32 g x.first).poison = false →
     (Issues (.sysEvict g) s x → c ≠ 0 →
       ((s.ctx c).st.alive = true → (s.ctx c).saving = none →
         exec (.sysEvict g) s = .next (x.finish (.wait ((s.startSaving c .evict).finishSaving c)
           { kind := .evict c, loc := ⟨.dev, 0⟩, va := 0, acq := none, lanes := x.act, op := 0x0F, sub := 5, len := x.len,
             uid := x.no, marks := [] })).poll) ∧
       ((s.ctx c).st.alive = false →
         exec (.sysEvict g) s = .next (x.complete s true).poll)) ∧
     (Issues (.sysWake g) s x → b ≠ 0 → b < 64 →
       ((s.ctx b).st ≠ .created → exec (.sysWake g) s = .next (x.complete s true)) ∧
       ((s.ctx b).st = .created → ∀ page s', s.reachPage b = .ok page s' →
         let s' := s'.meetErrors page 0x400
         let v (k : Nat) : Vector := s'.vectorAt (page.plus (16 * k))
         exec (.sysWake g) s = .next (x.complete
           (if (List.range 64).any (fun k => (v k).pending && (v k).wakes) then s'.setCtxState b .ready else s') true))) ∧
     (Issues (.sysQctl g) s x →
       (∀ op eng q c' va, (b % 256, op) ∈ [(0x01, QueueOp.stop), (0x02, .start), (0x03, .skip), (0x04, .retry)] →
         a < 2 ^ 57 → s.vaContext x.w a = some (c', va) → (s.ctx c').saving ≠ some .suspend →
         s.dev.cmds = [] →
         s.queueAt c' va = some (eng, q) →
         (∀ t, s.queueWaits c' eng q = some t → exec (.sysQctl g) s = .next t.poll) ∧
         (s.queueWaits c' eng q = none →
           exec (.sysQctl g) s = .next (x.complete (s.queueCommand c' eng q op).2 true).poll)) ∧
       (b % 256 = 0x10 → s.dev.cmds = [] → s.commandNeeds (a % 256) (bitsOf a 13 8) = none → a % 256 ≠ 2 →
         exec (.sysQctl g) s = .next (x.complete
           (s.contextCommand (a % 256) (bitsOf a 13 8) (bitsOf a 27 16) (bitsOf a 49 28)) true).poll) ∧
       (b % 256 = 0x20 → a % 16 ≤ 8 → bitsOf a 11 8 ≤ 8 →
         exec (.sysQctl g) s = .next (x.complete (s.setPartition (a % 16) (bitsOf a 11 8)) true).poll) ∧
       (b % 256 ∉ [0x01, 0x02, 0x03, 0x04, 0x10, 0x20] →
         exec (.sysQctl g) s = .next (x.finish (.trap s ⟨.illegal, x.act, 0, some 2⟩)).poll))) ∧
  (∀ (g : Gen) (s : State) (x : Iss),
     let a := (x.a64 g x.first).bits
     let b := (x.b32 g x.first).bits.toNat
     let image (P : State → List Byte → Prop) : Prop := ∀ s' l t bs,
       x.locate [x.first] (fun _ => ⟨a, false⟩) 32 Need.read (fun _ n => match n with
         | .placed _ => some ⟨.address, a, some 6⟩
         | _ => none) = .ok s' [(x.first, .mem l)] →
       s'.readNow x.w x.no l 32 = .ok bs t → P t (bs.map (·.byte))
     (x.a64 g x.first).poison = false → (x.b32 g x.first).poison = false →
     (Issues (.sysGkill g) s x → ∀ l, x.sysLaunch = some l → b < l.gangs.length →
       exec (.sysGkill g) s = .next (x.complete (s.killGang l.ctx l.tag b) true).poll) ∧
     (Issues (.sysGrelaunch g) s x → ∀ l, x.sysLaunch = some l →
       (l.final = false → (l.gangAt b).st = .awaiting →
         exec (.sysGrelaunch g) s = .next (x.complete ((s.count x.die 10).relaunchGang l b) true).poll) ∧
       ((l.final = true ∨ (l.gangAt b).st ≠ .awaiting) →
         exec (.sysGrelaunch g) s = .next (x.finish (.trap s ⟨.illegal, x.act, 0, some 2⟩)).poll)) ∧
     (Issues (.sysRankw g) s x → (b < 0x10020 ∨ b = 0x10100 ∨ (0x10200 ≤ b ∧ b < 0x10300)) → image fun t bs =>
       let u := (t.keepRoutes.modLink fun l => { l with
         slots := if bs.all (· == 0#8) then eraseKey b l.slots else insertKey b bs l.slots
         cntNoted := l.cntNoted.filter (0x10000 + · != b) }).coverErrors (· == (t.dev.linktab + 32 * b) / 32)
       exec (.sysRankw g) s = .next (x.complete
         { u with mem := u.mem.veil t.dev.linktab (t.dev.linktab + linkTableBytes) (some t.free), free := t.free + 1 } true)) ∧
     (Issues (.sysInj g) s x → b < 96 → s.dev.features.testBit 0 = true → image fun t bs => ∀ j, injectorOf bs = some j →
       exec (.sysInj g) s = .next (x.complete (t.modLink fun l =>
         { l with injectors := updAt b (fun _ => j) l.injectors }) true)) ∧
     (Issues (.sysBiasset g) s x → a.toNat % 4096 = 0 → a.toNat < 0x6000000000 → b ≤ 1 →
       let r := s.biasset (a.toNat / 4096) b x.w.id x.sp.slot
       (r.1 = true → exec (.sysBiasset g) s = .next (x.complete r.2 true).poll) ∧
       (r.1 = false → exec (.sysBiasset g) s = .next (x.finish (.wait r.2
         { kind := .bias (a.toNat / 4096), loc := ⟨.dev, 0⟩, va := 0, acq := none, lanes := x.act, op := 0x0F, sub := 13,
           len := x.len, uid := x.no, marks := [] })).poll))) ∧
  (∀ (g : Gen) (s : State) (x : Iss),
     let a := x.a64 g x.first
     let b := x.b32 g x.first
     let n := b.bits.toNat
     let av := a.bits.toNat
     let stop (i : Instr) (waits : Bool) (f : Fail) : Prop :=
       exec i s = .next (if waits then (x.finish (.trap s f)).poll else x.finish (.trap s f))
     let illegal (e : DWord) : Fail := ⟨.illegal, x.act, 0, some e⟩
     (∀ i useA useB waits, (i, useA, useB, waits) ∈ [
         (Instr.sysSmovr g, false, true, false), (.sysSmovw g, true, true, false), (.sysClaimd g, true, false, false),
         (.sysClaimf g, true, false, false), (.sysTlbinv g, true, true, true), (.sysEvict g, false, true, true),
         (.sysWake g, false, true, false), (.sysQctl g, true, true, true), (.sysRankw g, true, true, false),
         (.sysInj g, true, true, false), (.sysGkill g, false, true, true), (.sysGrelaunch g, false, true, true),
         (.sysBiasset g, true, true, true)] →
       Issues i s x → (useA && a.poison || useB && b.poison) = true → stop i waits ⟨.poison, laneSet [x.first], 0, none⟩) ∧
     (a.poison = false → b.poison = false →
       (Issues (.sysEvict g) s x → n % 64 = 0 → stop (.sysEvict g) true (illegal 2)) ∧
       (Issues (.sysWake g) s x → (n = 0 ∨ 64 ≤ n) → stop (.sysWake g) false (illegal 2)) ∧
       (Issues (.sysQctl g) s x →
         (1 ≤ n % 256 → n % 256 ≤ 4 →
           (2 ^ 57 ≤ av → stop (.sysQctl g) true (illegal 3)) ∧
           (av < 2 ^ 57 → s.vaContext x.w av = none →
             stop (.sysQctl g) true ⟨.address, x.act, BitVec.ofNat 64 av, some 14⟩) ∧
           (∀ c va, av < 2 ^ 57 → s.vaContext x.w av = some (c, va) → (s.ctx c).saving ≠ some .suspend →
             s.dev.cmds.any (·.ctx == c) = false → s.queueAt c va = none → stop (.sysQctl g) true (illegal 3))) ∧
         (n % 256 = 0x20 → (8 < av % 16 ∨ 8 < bitsOf av 11 8) → stop (.sysQctl g) true (illegal 2))) ∧
       (Issues (.sysRankw g) s x → 0x10020 ≤ n → n ≠ 0x10100 → (n < 0x10200 ∨ 0x10300 ≤ n) →
         stop (.sysRankw g) false (illegal 2)) ∧
       (Issues (.sysInj g) s x → (96 ≤ n ∨ s.dev.features.testBit 0 = false) → stop (.sysInj g) false (illegal 2)) ∧
       (Issues (.sysGkill g) s x → (x.sysLaunch = none ∨ ∃ l, x.sysLaunch = some l ∧ l.gangs.length ≤ n) →
         stop (.sysGkill g) true (illegal 2)) ∧
       (Issues (.sysGrelaunch g) s x → x.sysLaunch = none → stop (.sysGrelaunch g) true (illegal 2)) ∧
       (Issues (.sysBiasset g) s x →
         ((av % 4096 ≠ 0 ∨ 0x6000000000 ≤ av) → stop (.sysBiasset g) true (illegal 3)) ∧
         (av % 4096 = 0 → av < 0x6000000000 → 1 < n → stop (.sysBiasset g) true (illegal 2)))))

/-- R257: a store at a home gives its bytes to the locations it covers and leaves every other byte of every space as
it was; a sector it touches is poisoned where a byte of the data in it is, cleared where unpoisoned data covers all of
it, and keeps its poison bit otherwise. R270, R271: an atomic at its home gives the old value, changes exactly the
bytes of its operand, and an atomic add makes them the sum; a CAS that finds another value changes nothing. -/
def Obligations.StoresAndAtomicsChangeOnlyTheirBytes : Prop :=
  (∀ (s : State) (l : Loc) (bs : List PByte), bs ≠ [] → (∀ b, l.sp = .scratch b → (s.block? b).isSome = true) →
     let t := s.storeAt l bs
     (∀ k b, bs[k]? = some b → (t.memOf l.sp).get (l.addr + k) = b.byte) ∧
     (∀ a, (a < l.addr ∨ l.addr + bs.length ≤ a) → (t.memOf l.sp).get a = (s.memOf l.sp).get a) ∧
     (∀ sp, sp ≠ l.sp → t.memOf sp = s.memOf sp) ∧
     (∀ sector,
       let part := (bs.zipIdx.filter fun b => (l.addr + b.2) / 32 == sector).map (·.1)
       (t.memOf l.sp).poison.contains sector =
         (part.any (·.poison) || ((s.memOf l.sp).poison.contains sector && part.length != 32)))) ∧
  (∀ (s : State) (kind : HomeOp) (op : LaneOp) (variant : Nat), (∀ b, op.loc.sp = .scratch b → (s.block? b).isSome = true) →
     s.dev.hbmErrors = [] → s.inSlots op.loc op.size = false → (op.size = 4 ∨ op.size = 8) →
     let r := s.applyAtomic (.atom variant) op
     let old := s.natAt op.loc op.size
     r.1.bits.toNat = old ∧ r.2.natAt op.loc op.size = atomOp variant (8 * op.size) old (pvalue op.data) % 2 ^ (8 * op.size) ∧
     (∀ a, (a < op.loc.addr ∨ op.loc.addr + op.size ≤ a) →
       (r.2.memOf op.loc.sp).get a = (s.memOf op.loc.sp).get a) ∧
     (∀ sp, sp ≠ op.loc.sp → r.2.memOf sp = s.memOf sp) ∧
     atomOp 0 (8 * op.size) old (pvalue op.data) = (old + pvalue op.data) % 2 ^ (8 * op.size) ∧
     (let c := s.applyAtomic .cas op
      c.1.bits.toNat = old ∧ (old ≠ pvalue (op.data.take op.size) → c.2 = s)) ∧
     (kind = .store → (s.applyAtomic kind op).2 = s.storeAt op.loc op.data))

/-- R259: the class of a generic address, and why an address has none. R356 to R360: a translation that no TLB holds
and whose walk finds a leaf that allows the access gives the frame's place of the address, and where no latent error
of the device memory is met changes of memory at most the leaf's two flag bytes: A is set, and D by a write. It rests
in part on choices of the model: log entries 51 and 157. -/
def Obligations.AddressesAndTheirTranslation : Prop :=
  (∀ (s : State) (w : Wave) (a : Nat), a < 2 ^ 64 →
     let bad (e : Nat) : Named := .bad ⟨.address, BitVec.ofNat 64 a, some (BitVec.ofNat 64 e)⟩
     (a < 2 ^ 57 → w.st ≠ .solo → w.service = false → s.nameOf w a = .local w.ctx a) ∧
     (2 ^ 57 ≤ a → a < 2 ^ 62 → s.nameOf w a = bad 2) ∧
     (2 ^ 62 ≤ a → a < 2 ^ 63 →
       s.nameOf w a = if s.rankOk (bitsOf a 61 45)
         then .placed (.far (bitsOf a 61 45) (bitsOf a 44 40) (a % 2 ^ 40)) else bad 3) ∧
     (2 ^ 63 ≤ a → a < 2 ^ 63 + 2 ^ 62 →
       (2 ^ 63 + 2 ^ 28 ≤ a → s.nameOf w a = bad 2) ∧
       (a < 2 ^ 63 + 2 ^ 28 → w.decl.gang ≤ bitsOf a 27 23 → s.nameOf w a = bad 4) ∧
       (a < 2 ^ 63 + 2 ^ 28 → bitsOf a 27 23 < w.decl.gang → w.decl.scratch ≤ a % 2 ^ 23 → s.nameOf w a = bad 5) ∧
       (∀ b, a < 2 ^ 63 + 2 ^ 28 → bitsOf a 27 23 < w.decl.gang → a % 2 ^ 23 < w.decl.scratch →
         s.blocks.find? (fun b => b.live && b.ctx == w.ctx && b.tag == w.tag && b.gang == w.gang &&
           b.member == bitsOf a 27 23) = some b →
         s.nameOf w a = .placed (.mem ⟨.scratch b.id, a % 2 ^ 23⟩))) ∧
     (2 ^ 63 + 2 ^ 62 ≤ a → s.nameOf w a = bad 1)) ∧
  (∀ (s : State) (core : Option Nat) (die c va at_ e lv : Nat) (need : Need),
     (∀ k, core = some k → tlbLookup (s.core k).tlb c va = none) → tlbLookup (s.homes.dieTlb.getD die []) c va = none →
     s.dev.hbmErrors = [] → walkFrom s va (s.ctx c).ptroot 5 = .leaf at_ e lv → leafCheck (e ||| 0x80) need = none →
     ∃ t, s.translate core die c va need =
         .ok ⟨if bitAt e 5 then .host else .dev, bitsOf e 51 12 * 4096 + va % pageSize lv⟩ t ∧
       (∀ a, a ≠ at_ → a ≠ at_ + 1 → t.mem.get a = s.mem.get a) ∧
       (t.mem.get at_).getLsbD 7 = true ∧ (need.wr = true → (t.mem.get (at_ + 1)).getLsbD 0 = true) ∧
       t.host = s.host ∧ t.blocks = s.blocks ∧ t.waves = s.waves)

/-- R266, R283: LD is put in flight with a new version of its destination, one piece for each local lane and one
request for each lane at a rank; nothing is written yet but the flags of the leaves its translation met. Where lanes
fail, the lowest one's cause is delivered as its kind is. R267, R262, R419: ST holds its lanes' bytes back with the
addresses they go to; poisoned data for host memory or a rank raises POISON instead; where lanes fail, the lowest
one's cause is delivered as its kind is. No byte of memory changes at the issue but those of WAITCLK. R269 to R273,
R262: ATOM, RED, CAS and REDK hold their lanes' operations back for the homes; ATOM and CAS give a new version of
their destination to come; a poisoned operand raises POISON instead, and where lanes fail the lowest one's cause is
delivered as its kind is. No byte of memory changes at the issue but those of WAITCLK. R276: CSTORE of lanes that all
find their place holds the elements back one after another from the lowest active lane's address, lane by lane, and
gives the count where it is asked for. A poisoned base, ADDRESS or ALIGN of base or of the last element, or poisoned
data for a rank traps and nothing is held; an element whose page faults, or whose data is poisoned and bound for host
memory, traps at its address after the elements before it are held back. It rests in part on choices of the model: log
entries 52 and 162. -/
def Obligations.MemoryAccessIssue : Prop :=
  ((∀ (m : Mem) (s t : State) (x : Iss) (f : Fail), Issues (.ld m) s x →
     x.locate x.lanes (x.addr m) m.size.bytes .read (fun _ _ => none) = .fail t f →
     exec (.ld m) s = .next (x.finish (x.failWith t f))) ∧
   (∀ (m : Mem) (s s' : State) (x : Iss) (ps : List (Nat × Place)), Issues (.ld m) s x →
     x.locate x.lanes (x.addr m) m.size.bytes .read (fun _ _ => none) = .ok s' ps →
     (Iss.isFar ps = true → x.w.seq < 2 ^ 24) → x.full (x.requests ps) = false →
     (∀ l r g f, (l, Place.far r g f) ∈ ps → ¬(s'.rankKind r = 1 ∧ x.w.heldAt r g f m.size.bytes = true)) →
     let op : Op := { x.opOf (.load m.size (m.sub.getLsbD 0)) with
       acq := m.acq, sc := m.sc, cache := m.cache, global := Iss.isFar ps, reqs := x.requests ps }
     let wo := x.w.addDests x op m.d m.size.regs
     let pieces := ps.filterMap fun p => match p.2 with
       | .mem l => some (s'.pieceOf x.w x.no p.1 l m.size.bytes 0)
       | _ => none
     let reqs := ps.filterMap fun p => match p.2 with
       | .far r g f => some (x.request s' .load p.1 r g f m.size.bytes m.sub m.order m.scope [])
       | _ => none
     let w := x.takeSeq { wo.1 with ops := wo.1.ops ++ [{ wo.2 with pieces }] } (Iss.isFar ps)
     exec (.ld m) s = .next (x.complete
       (((s'.putWave w).readPieces x.w x.uid x.no m.cache m.strong pieces).sendRemote x.w x.uid reqs (fun _ => []) none) true))) ∧
  (∀ (m : Mem) (s : State) (x : Iss), Issues (.st m) s x →
     let n := m.size.bytes
     let data := x.dataOf m.c n
     (∀ t f, x.locate x.lanes (x.addr m) n .write (fun _ _ => none) (fun l p => p.traps && anyPoison (data l)) = .fail t f →
       exec (.st m) s = .next (x.finish (x.failWith t f))) ∧
     (∀ s' ps, x.locate x.lanes (x.addr m) n .write (fun _ _ => none) = .ok s' ps →
       let bad := ps.filter fun p => p.2.traps && anyPoison (data p.1)
       (bad = [] → (Iss.isFar ps = true → x.w.seq < 2 ^ 24) → x.full (x.requests ps) = false →
         let op : Op := { x.opOf .store with sc := m.sc, cache := m.cache, global := Iss.isFar ps, reqs := x.requests ps }
         let home := m.cache == .bypass || (x.relOf m).any Scope.gangUp
         let w := x.holdOps { x.w with ops := x.w.ops ++ [op] } m (fun l => .stores l home (x.relOf m))
           (x.laneOps ps n data) (x.laneReqs s' .write m ps n data)
         let t := x.complete (s'.putWave (x.takeSeq w (Iss.isFar ps))) true
         exec (.st m) s = .next t ∧ s'.keepsMemory t x.w.ctx) ∧
       (∀ l p, bad.head? = some (l, p) → exec (.st m) s = .next (x.finish (.due s'
         ⟨.poison, laneSet (bad.map (·.1)), (x.addr m l).bits, none⟩))))) ∧
  (∀ (m : Mem) (s : State) (x : Iss),
     let n := m.size.bytes
     let issues (i : Instr) (kind : HomeOp) (rkind : ReqKind) (align : Nat) (fetch : Bool) (data : Nat → List PByte) : Prop :=
       Issues i s x →
       (∀ t f, x.locate x.lanes (x.addr m) align .both (fun _ _ => none) (fun l _ => anyPoison (data l)) = .fail t f →
         exec i s = .next (x.finish (x.failWith t f))) ∧
       (∀ s' ps, x.locate x.lanes (x.addr m) align .both (fun _ _ => none) = .ok s' ps →
         let bad := x.lanes.filter fun l => anyPoison (data l)
         (bad = [] → (Iss.isFar ps = true → x.w.seq < 2 ^ 24) → x.full (x.requests ps) = false →
           let op : Op := { x.opOf (if fetch then .value else .store) with
             acq := m.acq, sc := m.sc, cache := m.cache, global := Iss.isFar ps, reqs := x.requests ps }
           let wo := if fetch then x.w.addDests x op m.d m.size.regs else (x.w, op)
           let w := x.holdOps { wo.1 with ops := wo.1.ops ++ [wo.2] } m (fun l => .homeOps kind l fetch (x.relOf m))
             (x.laneOps ps n data) (x.laneReqs s' rkind m ps n data)
           let t := x.complete (s'.putWave (x.takeSeq w (Iss.isFar ps))) true
           exec i s = .next t ∧ s'.keepsMemory t x.w.ctx) ∧
         (∀ l, bad.head? = some l → exec i s = .next (x.finish (.due s'
           ⟨.poison, laneSet bad, (x.addr m l).bits, none⟩))))
     issues (.atom m) (.atom (m.sub.toNat % 16)) .atomic n true (x.dataOf m.c n) ∧
     issues (.red m) (.atom (m.sub.toNat % 16)) .atomic n false (x.dataOf m.c n) ∧
     issues (.cas m) .cas .cas n true (x.dataOf m.c (2 * n)) ∧
     issues (.redk m) (.redk (m.sub.toNat % 16)) .keyed 16 false (fun l =>
       let d := x.dataOf m.c 16 l
       d.take 4 ++ if n = 8 then (d.drop 8).take 8 else (d.drop 4).take 4)) ∧
  ((∀ (m : Mem) (s s' : State) (x : Iss) (ps : List (Nat × Place)), Issues (.cstore m) s x →
     let n := m.size.bytes
     let base := x.addr m x.first
     let last := (base.bits.toNat + (x.lanes.length - 1) * n) % 2 ^ 64
     let data := x.dataOf m.c n
     base.poison = false → base.bits.toNat % n = 0 → last % n = 0 → (∀ f, s.nameOf x.w base.bits.toNat ≠ .bad f) →
     (∀ f, s.nameOf x.w last ≠ .bad f) → (∀ l ∈ x.lanes, anyPoison (data l) = false) →
     x.pack n base.bits.toNat (fun l => anyPoison (data l)) x.lanes 0 s [] = .all s' ps →
     (Iss.isFar ps = true → x.w.seq < 2 ^ 24) → x.full (x.requests ps) = false →
     let op : Op := { x.opOf .store with sc := m.sc, cache := m.cache, global := Iss.isFar ps, reqs := x.requests ps }
     let home := m.cache == .bypass || (x.relOf m).any Scope.gangUp
     let w := x.takeSeq (x.holdOps { x.w with ops := x.w.ops ++ [op] } m (fun l => .stores l home (x.relOf m))
       (x.laneOps ps n data) (x.laneReqs s' .write m ps n data)) (Iss.isFar ps)
     let w := if m.sub.getLsbD 0
       then x.put w m.d 0 x.act fun _ => ⟨BitVec.ofNat 32 x.lanes.length, false⟩ else w
     exec (.cstore m) s = .next (x.complete (s'.putWave w) true) ∧
     (∀ (k l : Nat) (p : Place), ps[k]? = some (l, p) → x.lanes[k]? = some l) ∧ ps.length = x.lanes.length) ∧
   (∀ (m : Mem) (s : State) (x : Iss), Issues (.cstore m) s x →
     let n := m.size.bytes
     let base := x.addr m x.first
     let last := (base.bits.toNat + (x.lanes.length - 1) * n) % 2 ^ 64
     let data := x.dataOf m.c n
     let bad (l : Nat) : Bool := anyPoison (data l)
     let check (a : Nat) : Option LaneFail := match s.nameOf x.w a with
       | .bad f => some f
       | _ => if a % n ≠ 0 then some ⟨.align, BitVec.ofNat 64 a, none⟩ else none
     let traps (l : Nat) (f : LaneFail) : Prop :=
       exec (.cstore m) s = .next (x.finish (x.failWith s ⟨f.cause, laneSet [l], f.faddr, f.einfo⟩))
     let far := ∃ r g f, s.nameOf x.w base.bits.toNat = .placed (.far r g f)
     let clear := base.poison = false ∧ check base.bits.toNat = none ∧ check last = none ∧ (far → ∀ l ∈ x.lanes, bad l = false)
     let keep (s : State) (ps : List (Nat × Place)) : Wave :=
       let op : Op := { x.opOf .store with sc := m.sc, cache := m.cache, global := Iss.isFar ps, reqs := x.requests ps }
       let home := m.cache == .bypass || (x.relOf m).any Scope.gangUp
       x.takeSeq (x.holdOps { x.w with ops := x.w.ops ++ [op] } m (fun l => .stores l home (x.relOf m))
         (x.laneOps ps n data) (x.laneReqs s .write m ps n data)) (Iss.isFar ps)
     let goes := x.pack n base.bits.toNat bad x.lanes 0 s []
     (base.poison = true → exec (.cstore m) s = .next (x.finish (.due s ⟨.poison, laneSet [x.first], base.bits, none⟩))) ∧
     (base.poison = false →
       (∀ f, check base.bits.toNat = some f → traps x.first f) ∧
       (∀ f, check base.bits.toNat = none → check last = some f → traps (x.lanes.getLastD x.first) f) ∧
       (check base.bits.toNat = none → check last = none → far → x.lanes.any bad = true →
         exec (.cstore m) s = .next (x.finish (.due s ⟨.poison, x.lanesWhere bad, base.bits, none⟩)))) ∧
     (clear → ∀ t ps, (Iss.isFar ps = true → x.w.seq < 2 ^ 24) → x.full (x.requests ps) = false →
       (∀ k l f, goes = .page t ps k l f → exec (.cstore m) s = .next (x.finish (.region t
         ⟨f.cause, laneSet [l], f.faddr, some (BitVec.ofNat 64 k)⟩
         (if ps = [] then [] else (keep t ps).held.filter (·.no == x.no))))) ∧
       (∀ l a, goes = .poison t ps l a → exec (.cstore m) s = .next (x.finish (.due
         (if ps = [] then t else t.putWave (keep t ps)) ⟨.poison, laneSet [l], a, none⟩))))))

/-- R277 to R280: FENCE waits for what it orders, CWAIT for a counter to reach its threshold, one of another rank
being ADDRESS 6, PREF asks for the lines it names where the core has room and takes a sequence value for a global
address, WBACK and INVL write back the context's dirty frames they name, or all of them, INVL dropping them. It rests
in part on choices of the model: log entry 54. -/
def Obligations.OrderingAndCacheResults : Prop :=
  ∀ (m : Mem) (s : State) (x : Iss),
    (Issues (.fence m) s x →
      let far := m.rel.any Scope.nodeUp
      exec (.fence m) s = .next (x.finish (.wait
        (if far then s.writebackWhere x.w.core (fun f => f.loc.sp == .host) (0, 0) else s)
        { kind := .fence m.acq.isSome m.rel.isSome far, loc := ⟨.dev, 0⟩, va := 0, acq := m.acq, lanes := x.act, op := 0x56,
          sub := if m.rel.any Scope.gangUp then 1 else 0, len := x.len, uid := x.no, marks := [] })).poll) ∧
    (Issues (.cwait m) s x → ∀ s' l c va, (x.addr m x.first).poison = false →
      s.nameOf x.w (x.addr m x.first).bits.toNat = .local c va → (x.addr m x.first).bits.toNat % m.size.bytes = 0 →
      s.laneAt x.w c va (x.addr m x.first).bits.toNat .read = .ok l s' →
      let t := x.dataOf m.c m.size.bytes x.first
      (anyPoison t = false → x.full 1 = false → exec (.cwait m) s = .next (x.finish (.wait (s'.putWave x.w)
        { kind := .counter m.size.bytes (pvalue t), loc := l, va := (x.addr m x.first).bits.toNat, acq := m.acq,
          lanes := x.act, op := 0x59, sub := 0, len := x.len, uid := x.no, marks := [] })).poll) ∧
      (anyPoison t = true → exec (.cwait m) s = .next (x.finish (.due s'
        ⟨.poison, laneSet [x.first], (x.addr m x.first).bits, none⟩)).poll)) ∧
    (Issues (.cwait m) s x →
      let n := m.size.bytes
      let t := x.dataOf m.c n x.first
      let a := (x.addr m x.first).bits
      let found := x.locate [x.first] (x.addr m) n .read (fun _ k => match k with
        | .placed (.far r _ _) => if r = s.ownRank then none else some ⟨.address, a, some 6⟩
        | _ => none) (fun _ _ => anyPoison t)
      let waits (w : Wave) (s : State) (kind : WaitKind) (loc : Loc) : State := (x.finish (.wait (s.putWave w)
        { kind, loc, va := a.toNat, acq := m.acq, lanes := x.act, op := 0x59, sub := 0, len := x.len, uid := x.no,
          marks := [] })).poll
      let taken := (x.sp.win, x.pc)
      (∀ u f, found = .fail u f → exec (.cwait m) s = .next (x.finish (x.failWith u f)).poll) ∧
      (∀ u l, found = .ok u [(x.first, .mem l)] → x.full 1 = false →
        exec (.cwait m) s = .next (waits x.w u (.counter n (pvalue t)) l)) ∧
      (∀ u r g f, found = .ok u [(x.first, .far r g f)] → x.w.took.contains taken = false → x.w.seq < 2 ^ 24 →
        x.full 1 = false →
        let w := x.takeSeq x.w true
        (∀ c va v l, u.regionCheck r g f n 0 = .ok c va → u.translate none (u.homeDie c va) c va .read = .ok l v →
          exec (.cwait m) s = .next (waits { w with took := w.took ++ [taken] } v (.farCounter n (pvalue t) g f) l)) ∧
        (∀ e, u.regionCheck r g f n 0 = .denied e → exec (.cwait m) s = .next (x.finish (.due
          (u.putWave { w with took := w.took.filter (· != taken) })
          ⟨.remoteDenied, laneSet [x.first], a, some (BitVec.ofNat 64 e)⟩)).poll))) ∧
    (Issues (.pref m) s x → ∀ ls s', x.quietLines (x.addr m) .read = (some ls, s') →
      let t := s'.putWave (x.takeSeq x.w (x.anyGlobal (x.addr m) && x.w.streamLeft))
      let fills := m.cache == .dflt || m.cache == .hold
      (x.full (dedup ls).length = false →
        exec (.pref m) s = .next (x.complete ((dedup ls).foldl (fun s line =>
          (List.range (if line.sp == .host then 2 else 4)).foldl (fun s k =>
            s.send 0 0 0 x.w.ctx (.read (line.plus (32 * k)) x.w.core fills m.cache.ret)) s) t) true)) ∧
      (x.full (dedup ls).length = true → exec (.pref m) s = .next (x.complete t true))) ∧
    (let all := m.sub.getLsbD 0
     (all = true ∨ ∀ l ∈ x.lanes, (x.addr m l).poison = false ∧ ∀ f, s.nameOf x.w (x.addr m l).bits.toNat ≠ .bad f) →
      ∀ ls s', (if all then (some [], s) else x.quietLines (x.addr m) .read) = (some ls, s') →
      let named (f : Frame) : Bool := f.ctx == x.w.ctx && (all || ls.contains f.loc)
      let far := !all && x.anyGlobal (x.addr m)
      let n := ((s'.core x.w.core).frames.filter fun f => f.isDirty && named f).length
      (far = true → x.w.seq < 2 ^ 24) → x.full n = false →
      let op : Op := { x.opOf .store with cache := m.cache, reqs := n }
      let sent := (s'.putWave (x.takeSeq { x.w with ops := x.w.ops ++ [op] } far)).writebackWhere x.w.core named
        (x.w.id, x.uid)
      (Issues (.wback m) s x → exec (.wback m) s = .next (x.complete (sent.settleOp x.w.id x.uid) true)) ∧
      (Issues (.invl m) s x → exec (.invl m) s = .next (x.complete
        (((sent.dropFrames x.w.core named).noFill x.w.core fun l => all || ls.contains l.frameLine).settleOp x.w.id x.uid)
        true)))

/-- R283, R282: the rows of a TLD, GATHR or ACCLD whose places are found are asked for in pieces of 32 bytes, those at
ranks by requests, and the instruction is in flight. R207 to R209, R215, R221, R223, R224: TLD and GATHR, of a tile
with a format and of rows that are found, and TTAG. It rests in part on choices of the model: log entries 58, 63, 64
and 65. -/
def Obligations.TileResults : Prop :=
  (∀ (x : Iss) (m : Mem) (s : State) (w : Wave) (o : Op) (ps : List (Nat × Place)) (len : Nat) (dst : Nat → Nat),
     (Iss.isFar ps = true → x.w.seq < 2 ^ 24) → x.full (x.requests ps) = false →
     (∀ l r g f, (l, Place.far r g f) ∈ ps → ¬(s.rankKind r = 1 ∧ x.w.heldAt r g f len = true)) →
     let pieces := s.rowPieces x.w x.no ps len dst
     let rows := ps.filterMap fun p => match p.2 with
       | .far _ _ _ => some (p.1, dst p.1)
       | _ => none
     let reqs := ps.filterMap fun p => match p.2 with
       | .far r g f => some (x.request s .load p.1 r g f len m.sub m.order m.scope [])
       | _ => none
     let op : Op := { o with
       acq := m.acq, sc := m.sc, cache := m.cache, global := Iss.isFar ps, reqs := x.requests ps, pieces, rows }
     x.loadRows m s w o ps len dst = .ok
       (((s.putWave (x.takeSeq { w with ops := w.ops ++ [op] } (Iss.isFar ps))).readPieces x.w x.uid x.no m.cache m.strong
         pieces).sendRemote x.w x.uid reqs (fun _ => []) none)) ∧
  (∀ (s : State) (x : Iss),
     (∀ (m : Mem) (tile : Tile) (f : Nat) (s' t : State) (ps : List (Nat × Place)), Issues (.tld m) s x →
       x.matrixHeld (some m.d.toNat) none = false → x.w.tiles[m.d.toNat]? = some tile → tile.format = some f →
       let scale := m.sub.getLsbD 0
       (scale = true → tile.scaled = true) →
       let len := if scale then 256 else rowBytes f
       let n := if scale then scaleBlocks f else tileRows f
       let base := x.addr m x.first
       let c := x.reg m.c 0 x.first
       let stride := if m.c.toNat = 112 then len else c.bits.toNat
       x.locate (List.range n) (fun k => ⟨base.bits + BitVec.ofNat 64 (k * stride), base.poison || c.poison⟩) len .read
         (fun k p => match p with
           | .bad _ => none
           | _ => if k = 0 ∧ stride % len ≠ 0 then some ⟨.align, base.bits, none⟩ else none) = .ok s' ps →
       let w := x.reload m.d.toNat
       let w := if scale then w
         else { w with tiles := updAt m.d.toNat (fun y => { y with gathered := false, count := tileRows f }) w.tiles }
       x.loadRows m s' w (x.opOf (.tile m.d.toNat scale)) ps len (fun k => k * len) = .ok t →
       exec (.tld m) s = .next (x.complete t true)) ∧
     (∀ (m : Mem) (tile : Tile) (f : Nat) (s' t : State) (ps : List (Nat × Place)), Issues (.gathr m) s x →
       x.matrixHeld (some m.d.toNat) none = false → x.w.tiles[m.d.toNat]? = some tile → tile.format = some f →
       let count := if m.sub.getLsbD 0 then tile.count else 0
       let rank (l : Nat) : Nat := (x.lanes.filter (· < l)).length
       let k (l : Nat) : Nat := (x.reg m.c 0 l).bits.toNat
       x.fails (gathrFail x m f (if count = 0 then none else some tile.lastK)) = none →
       (∀ l ∈ x.lanes, count + rank l < tileRows f) →
       x.locate x.lanes (x.addr m) (rowBytes f) .read (fun _ _ => none) = .ok s' ps →
       let w := x.reload m.d.toNat
       let last := k (x.lanes.getLastD x.first)
       let tag (y : Tile) : Tile := { y with gathered := true, count := count + x.lanes.length, lastK := last }
       let w := { w with tiles := updAt m.d.toNat tag w.tiles }
       let op : Op := { x.opOf (.gather m.d.toNat) with
         result := x.lanes.map fun l => (count + rank l, ⟨BitVec.ofNat 64 (k l), false⟩) }
       x.loadRows m s' w op ps (rowBytes f) (fun l => (count + rank l) * rowBytes f) = .ok t →
       exec (.gathr m) s = .next (x.complete t true)) ∧
     (∀ g : Gen, Issues (.ttag g) s x → x.matrixHeld (some g.d.toNat) none = false →
       let f := g.sub.toNat % 16
       let tag (y : Tile) : Tile :=
         { y with format := some f, scaled := g.sub.getLsbD 4, gathered := false, count := tileRows f }
       exec (.ttag g) s = .next (x.leaves { x.w with tiles := updAt g.d.toNat tag x.w.tiles })))

/-- R214, R217 to R220, R222, R225: MMA, MMAS and ACCZ enter the quadrant's array queue with their operands; a format
R219 does not allow traps MATRIX_FORMAT in every active lane. R226, R227, R419: ACCRD and ACCWR enter the queue with
their columns, ACCLD asks for its rows, ACCST holds the accumulator's bytes back in units of 32 bytes. A column beyond
128 is OPERAND; where lanes of ACCLD or ACCST fail, the lowest one's cause is delivered as its kind is, a poisoned row
for host memory or a rank being POISON. It rests in part on choices of the model: log entries 59, 60, 61 and 62. -/
def Obligations.MatrixResults : Prop :=
  (∀ (s : State) (x : Iss),
     let mma (i : Instr) (m : Mat) (sparse : Bool) : Prop := Issues i s x →
       ∀ tile, x.w.tiles[m.b.toNat]? = some tile → x.matrixHeld (some m.b.toNat) (some m.d.toNat) = false →
       x.queueFull = false →
       let fault := mmaFail tile (s.accKind x.w m.d.toNat) (m.sub.toNat % 16) (m.sub.getLsbD 4) sparse
       (∀ e, fault = some e → exec i s = .next (x.finish (.trap s ⟨.matrixFormat, x.act, 0, some (BitVec.ofNat 64 e)⟩))) ∧
       (fault = none → ∃ (t : State) (latch : Latch) (a : ArrayOp), exec i s = .next (x.complete t true) ∧
         t = (x.enqueue { x.w with
           ops := x.w.ops ++ [x.opOf .matrix], tileRead := insertKey m.b.toNat x.no x.w.tileRead } a).modQuad x.w.quadNo
             (fun q => { q with latch := some latch }) ∧
         a.wave = x.w.id ∧ a.uid = x.uid ∧ a.op = (encOp x.enc).toNat ∧ a.sub = m.sub.toNat ∧ a.acc = m.d.toNat ∧
         a.tile = m.b.toNat ∧ tile.format = some a.fmt ∧ a.gathered = tile.gathered ∧ a.count = tile.count ∧
         a.lanes = x.act ∧ a.started = none ∧ a.vals = latch.vals ∧
         (m.keep = false → latch.vals = x.lanes.map fun l =>
           (l, (mmaNames m).map fun n => x.w.laneVal (x.w.source x.sp n) l)))
     (∀ m : Mat, mma (.mma m) m false ∧ mma (.mmas m) m true) ∧
     (∀ g : Gen, Issues (.accz g) s x → x.matrixHeld none (some g.d.toNat) = false → x.queueFull = false →
       exec (.accz g) s = .next (x.complete (x.enqueue { x.w with ops := x.w.ops ++ [x.opOf .matrix] }
         { x.arrayOp g.d.toNat with sub := g.sub.toNat }) true))) ∧
  (∀ (s : State) (x : Iss),
     (∀ g : Gen,
       let n := 2 ^ (g.sub.toNat % 4)
       let cols := x.lanes.map fun l => (l, (x.b32 g l).bits.toNat)
       (Issues (.accrd g) s x → x.matrixHeld none (some g.a.toNat) = false → x.queueFull = false →
         (∀ l ∈ x.lanes, (x.b32 g l).bits.toNat + n ≤ 128) →
         let wo := x.w.addDests x (x.opOf .matrix) g.d n
         exec (.accrd g) s = .next (x.complete
           (x.enqueue { wo.1 with ops := wo.1.ops ++ [wo.2] } { x.arrayOp g.a.toNat with sub := n, cols }) true)) ∧
       (Issues (.accwr g) s x → x.matrixHeld none (some g.d.toNat) = false → x.queueFull = false →
         (∀ l ∈ x.lanes, (x.b32 g l).bits.toNat + n ≤ 128) →
         let vals := x.lanes.map fun l => (l, (List.range n).map fun j => x.src g.a j g.pa l)
         exec (.accwr g) s = .next (x.complete
           (x.enqueue { x.w with ops := x.w.ops ++ [x.opOf .matrix] } { x.arrayOp g.d.toNat with sub := n, cols, vals })
           true)) ∧
       (∀ i acc, (i, acc) ∈ [(Instr.accrd g, g.a.toNat), (.accwr g, g.d.toNat)] → Issues i s x →
         x.matrixHeld none (some acc) = false → x.queueFull = false →
         let beyond := x.lanesWhere fun l => decide (128 < (x.b32 g l).bits.toNat + n)
         beyond ≠ 0#64 → exec i s = .next (x.finish (.trap s ⟨.operand, beyond, 0, some 0x20⟩)))) ∧
     (∀ (m : Mem) (s' t : State) (ps : List (Nat × Place)),
       let len := (accPart m).1
       let col := (accPart m).2
       (Issues (.accld m) s x → x.matrixHeld none (some m.d.toNat) = false →
         x.locate x.lanes (x.addr m) len .read (fun _ _ => none) = .ok s' ps →
         x.loadRows m s' x.w (x.opOf (.acc m.d.toNat (m.sub.getLsbD 3))) ps len (fun l => 512 * l + 4 * col) = .ok t →
         exec (.accld m) s = .next (x.complete t true)) ∧
       (∀ f, Issues (.accld m) s x → x.matrixHeld none (some m.d.toNat) = false →
         x.locate x.lanes (x.addr m) len .read (fun _ _ => none) = .fail t f →
         exec (.accld m) s = .next (x.finish (x.failWith t f))) ∧
       (∀ f, Issues (.accst m) s x → x.matrixHeld none (some m.d.toNat) = false →
         let late := s.earlierOn x.w x.no none (some m.d.toNat) fun _ => true
         x.locate x.lanes (x.addr m) len .write (fun _ _ => none)
           (fun l p => !late && p.traps && (x.w.accs.getD m.d.toNat ⟨.empty, false⟩).rowPoison l) = .fail t f →
         exec (.accst m) s = .next (x.finish (x.failWith t f))) ∧
       (Issues (.accst m) s x → x.matrixHeld none (some m.d.toNat) = false →
         let late := s.earlierOn x.w x.no none (some m.d.toNat) fun _ => true
         x.locate x.lanes (x.addr m) len .write (fun _ _ => none) = .ok s' ps →
         let a := x.w.accs.getD m.d.toNat ⟨.empty, false⟩
         let data (l : Nat) : List PByte :=
           (List.range len).map fun k => ⟨a.data.get (512 * l + 4 * col + k), a.rowPoison l⟩
         (late = false → (ps.filter fun p => p.2.traps && a.rowPoison p.1) = []) →
         (Iss.isFar ps = true → x.w.seq < 2 ^ 24) → x.full (x.requests ps) = false →
         let op : Op := { x.opOf (if late then .accst m.d.toNat (4 * col) len else .store) with
           sc := m.sc, cache := m.cache, global := Iss.isFar ps, reqs := x.requests ps
           result := if late then ps.map fun p => (p.1, x.addr m p.1) else [] }
         let home := m.cache == .bypass || (x.relOf m).any Scope.gangUp
         let ops := (x.laneOps ps len data).flatMap fun y => (List.range (len / 32)).map fun j =>
           { y with loc := y.loc.plus (32 * j), size := 32, data := (y.data.drop (32 * j)).take 32 }
         let w := x.holdOps { x.w with ops := x.w.ops ++ [op] } m (fun l => .stores l home (x.relOf m)) ops
           (x.laneReqs s' .write m ps len data)
         let t := x.complete (s'.putWave (x.takeSeq w (Iss.isFar ps))) true
         exec (.accst m) s = .next t ∧ s'.keepsMemory t x.w.ctx)))

/-- R228, R229, R448: PERMIT asks where the quadrant has none, PERMIT.REL gives it up once the array is idle and the
queue empty, the governor grants the first request within eight in 128 clocks and the cap's limit, and a permit idle
for 1,024 clocks returns. R214, R218, R222, R225, R227, R230, R422: the array starts the head of its queue once
nothing is ahead of it, and after its clocks the oldest started instruction's rows are written with their pre-images
kept, or its registers, and it is complete. It rests in part on choices of the model: log entries 61, 62 and 66. -/
def Obligations.PermitAndArrayResults : Prop :=
  (∀ (s : State),
     (∀ (g : Gen) (x : Iss),
       (Issues (.permit g) s x → exec (.permit g) s = .next (x.complete (s.modQuad x.w.quadNo fun q =>
         if q.permit == .none then { q with permit := .requested s.clk false } else q) true)) ∧
       (Issues (.permitRel g) s x → exec (.permitRel g) s = .next (x.complete (s.modQuad x.w.quadNo fun q =>
         match q.permit with
         | .held _ => if q.array.isEmpty then { q with permit := .none, release := false } else { q with release := true }
         | _ => q) true))) ∧
     (∀ die n c k, s.quads.length = 256 → die < 2 → n ∈ natsFrom (128 * die) 128 → (s.quad n).permit = .requested c k →
       (∀ j ∈ natsFrom (128 * die) 128, ∀ d k, (s.quad j).permit = .requested d k → c < d ∨ (c = d ∧ n ≤ j)) →
       ((s.dev.grants.getD die []).filter fun k => s.clk < k + 128).length < 8 →
       ((natsFrom (128 * die) 128).filter fun j => match (s.quad j).permit with
         | .held _ => true
         | _ => false).length < permitLimit s.dev.capNow →
       ∃ t, exec (.permitGrant die) s = .next t ∧ t.quads = updAt n (fun q => { q with permit := .held s.clk }) s.quads ∧
         t.mem = s.mem ∧ t.waves = s.waves) ∧
     (∀ n c, n < s.quads.length → (s.quad n).permit = .held c → (s.quad n).idle = true → c + 1024 ≤ s.clk →
       exec (.permitIdleReturn n) s =
         .next ((s.modQuad n fun q => { q with permit := .none, release := false }).askPermit n))) ∧
  (∀ (s : State) (quad : Nat) (a : ArrayOp) (w : Wave),
     (let s' := s.askPermit quad
      (s'.quad quad).head? = some a → s.wave? a.wave = some w →
      (s'.earlierOn w a.no (if a.needsPermit then some a.tile else none) (some a.acc) fun o => o.kind != .matrix) = false →
      (s'.quad quad).array.all (fun b => b.started.all fun c =>
        decide (c + b.clocks ((s.wave? b.wave).elim 64 (·.width)) ≤ s.clk)) = true →
      (a.needsPermit = true → ∃ c, (s'.quad quad).permit = .held c) →
      let start (b : ArrayOp) : ArrayOp :=
        if b.wave == a.wave && b.uid == a.uid then { b with started := some s.clk } else b
      exec (.arrayStart quad) s =
        .next ((s'.modQuad quad fun q => { q with array := q.array.map start }).askPermit quad)) ∧
     (∀ c, (s.quad quad).array.find? (·.started.isSome) = some a → s.wave? a.wave = some w → a.started = some c →
       c + a.clocks w.width ≤ s.clk → s.journalRoom w a.acc ((arrayRows w a).map (·.1)) = true → a.op ≠ 0x68 →
       let w' := (arrayRows w a).foldl (fun v r => v.writeAccRow a.no a.acc r.1 r.2.1 r.2.2 (arrayKind w a)) w
       exec (.mmaComplete quad) s = .next ((s.putWave (w'.finishOp a.uid s.clk)).modQuad quad fun q =>
         let array := q.array.filter fun b => !(b.wave == a.wave && b.uid == a.uid)
         let permit : Permit := match q.permit with
           | .held _ => .held s.clk
           | p => p
         ({ q with array, permit } : Quad).tryRelease).poll))

/-- R233, R236, R238, R239, R241, R256, R270: a read, a write or an atomic that no earlier operation of its wave and
no write-back of its core precedes, once the copy of its core that it goes around is given up and its home needs
nothing first, is performed: the read answers with the sector as it stands at the home and in the core's own L1, what
was read of it before filling no frame any more, the write puts its bytes there, the atomic answers with the old value
where it fetches; a release waits for a read of the line that drains, and sets its record. R272 to R275, R389: a keyed
contribution that carries the key NEXT is applied and NEXT rises by one, and so with each held one that carries the
next key; one within the 1,024 keys after it is held while the slice has room; one refused is sent again after 64
clocks; one behind NEXT, or whose key is held already, is dropped and counted in DROPS; a region's counter rises with
what is applied. It rests in part on choices of the model: log entries 55 and 134. -/
def Obligations.HomeAccessResults : Prop :=
  (∀ (s : State) (m : Msg), s.msg? m.id = some m →
     (∀ sec core alloc ret, m.kind = .read sec core alloc ret →
       (∀ w, s.wave? m.wave = some w → m.uid = 0 ∨ s.homeOpPending w m.no sec 32 = false) →
       let t := if s.goesAround m then s.surrenderLine core sec.frameLine (0, 0) else s
       t.behindOwn m sec 32 = false → t.writebackPending core (fun k _ => k.frameLine == sec.frameLine) = false →
       t.homeNeeds sec 32 (some core) true = none → (alloc = true → t.dirFull sec.dirKey = none) →
       let r := t.homeRead sec 32
       let u := r.2.sharedTake sec ret false
       let fill := alloc && !(u.homes.records.any (·.line == sec.line)) && !(u.homes.waiting.any (·.2 == .msg m.id))
       let v := if fill then u.dirFill core sec.dirKey else u
       exec (.homeRead m.id) s = .next (((v.modHomes fun h => { h with waiting := h.waiting.filter (·.2 != .msg m.id) }).noFill
         core (· == sec)).modMsg m.id fun _ => .reply sec (v.overL1 core sec r.1) fill core)) ∧
     (let at_ (core : Nat) (l : Loc) : State :=
        if l.sp == .dev || l.sp == .host then s.surrenderLine core l.frameLine (0, 0) else s
      let clearFor (core : Nat) (l : Loc) (n : Nat) (release : Option (Nat × Bool)) (read : Bool) : Prop :=
        s.behindOwn m l n = false ∧ (release ≠ none → s.awaited l.line m.id = false) ∧
          (at_ core l).writebackPending core (fun k _ => k == l.frameLine) = false ∧
          (at_ core l).homeNeeds l n (some core) read = none ∧
          (release ≠ none → l.sp = .dev → (at_ core l).recordFull l.line = none)
      let turn (core : Nat) (l : Loc) : State :=
        (at_ core l).modHomes fun h => { h with waiting := h.waiting.filter (·.2 != .msg m.id) }
      (∀ op core release, m.kind = .write op core release → clearFor core op.loc op.data.length release false →
        let t := turn core op.loc
        let u := (((t.dropMsg m.id).homeStore op.loc op.data).sharedTake op.loc (t.retention m) true).recordRelease op.loc core
          release
        exec (.homeWrite m.id) s = .next ((u.afterWrite op.loc).settleOp m.wave m.uid).poll) ∧
      (∀ kind op core fetch release, m.kind = .atomic kind op core fetch release → s.ownsLine op.loc = true →
        clearFor core op.loc op.size release true →
        let t := turn core op.loc
        let r := t.applyAtomic kind op
        let u := (((r.2.sharedTake op.loc (t.retention m) true).enabledAt t op.loc).recordRelease op.loc core release).afterWrite
          op.loc
        exec (.homeAtomic m.id) s = .next (if fetch then u.modMsg m.id fun _ => .values [(op.lane, r.1)]
          else (u.dropMsg m.id).settleOp m.wave m.uid).poll)) ∧
     (∀ l n, s.dev.hbmErrors = [] → s.inSlots l n = false → s.homeRead l n = (s.bytesAt l n, s))) ∧
  (∀ (s : State),
     (∀ (m : Msg) (v core : Nat) (op : LaneOp), s.msg? m.id = some m → m.kind = .redk v op core none →
       s.msgs.any (fun k => decide (k.id < m.id) && k.wave == m.wave && k.uid == m.uid) = false →
       s.behindOwn m op.loc 16 = false → s.ownsLine op.loc = true →
       let t := if op.loc.sp == .dev || op.loc.sp == .host then s.surrenderLine core op.loc.frameLine (0, 0) else s
       t.writebackPending core (fun k _ => k == op.loc.frameLine) = false → t.homeNeeds op.loc 16 (some core) true = none →
       let u := t.modHomes fun h => { h with waiting := h.waiting.filter (·.2 != .msg m.id) }
       let u := u.sharedTake op.loc (u.retention m) true
       (∀ r, u.deliverKey v op none = some r → exec (.redkContribution m.id) s =
         .next (((r.dropMsg m.id).afterWrite op.loc).settleOp m.wave m.uid).poll) ∧
       (u.deliverKey v op none = none → exec (.redkContribution m.id) s =
         .next ((t.modHomes fun h => { h with waiting := h.waiting.filter (·.2 != .msg m.id) }).modMsg m.id fun _ =>
           .redk v op core (some s.clk)))) ∧
     (∀ (v : Nat) (op : LaneOp) (count : Option (Loc × Nat)), s.dev.hbmErrors = [] →
       let key := pvalue (op.data.take 4)
       let d := (key + 2 ^ 32 - s.keyNext op.loc) % 2 ^ 32
       let known := s.homes.keys.any fun k => k.loc == op.loc && k.key == key
       let hold : HeldKey := ⟨op.loc, op.size, v, key, BitVec.ofNat 64 (pvalue (op.data.drop 4)), count⟩
       let kept := s.modHomes fun h => { h with keys := h.keys ++ [hold] }
       ((2 ^ 31 ≤ d ∨ known = true) → s.deliverKey v op count = some ((s.setNatAt (op.loc.plus 12) 4
         (min (s.natAt (op.loc.plus 12) 4 + 1) (2 ^ 32 - 1))).countBytes count 0)) ∧
       (d = 0 → known = false → s.deliverKey v op count = some (kept.applyHeldKeys op.loc 4097)) ∧
       (0 < d → d < 1024 → known = false → s.deliverKey v op count =
         if (s.homes.keys.filter fun k => s.sliceOf k.loc == s.sliceOf op.loc).length < 4096 then some kept else none) ∧
       (1024 ≤ d → d < 2 ^ 31 → known = false → s.deliverKey v op count = none)) ∧
     (∀ (cell : Loc) (n : Nat),
       (∀ k ∈ s.homes.keys, k.loc = cell → k.key ≠ s.keyNext cell) → s.applyHeldKeys cell n = s) ∧
     (∀ (cell : Loc) (n : Nat) (k : HeldKey),
       s.homes.keys.find? (fun k => k.loc == cell && k.key == s.keyNext cell) = some k →
       let t := s.modHomes fun h => { h with keys := h.keys.filter fun j => !(j.loc == cell && j.key == k.key) }
       let t := t.setNatAt cell k.size (redkOp k.variant (8 * k.size) (t.natAt cell k.size) k.val.toNat)
       s.applyHeldKeys cell (n + 1) = ((t.setNatAt (cell.plus 8) 4 ((t.keyNext cell + 1) % 2 ^ 32)).countBytes k.count
         k.size).applyHeldKeys cell n) ∧
     (∀ (l : Loc) (mode n : Nat), s.dev.hbmErrors = [] → s.countBytes none n = s ∧
       s.countBytes (some (l, mode)) n = s.setNatAt l 8 ((s.natAt l 8 + if mode = 1 then 1 else n) % 2 ^ 64)) ∧
     (∀ msg, exec (.redkResend msg) s = .next (s.modMsg msg fun k => match k with
       | .redk v op c (some t) => if t + 64 ≤ s.clk then .redk v op c none else k
       | k => k)))

/-- R152, R236, R242, R266, R268: a reply whose place in the wave's order has come fills the L1 where it may and
delivers its bytes, the wave's own earlier stores that are still held over them, to the pieces that wait for its
sector; where one of those stores has left its hold since the issue the sector is read again; values and
acknowledgements end what they are for. R62, R266: the value a load delivers: its bytes low byte first, sign-extended
from 8 or 16 bits by the signed sizes, and poisoned where a byte is. -/
def Obligations.ReplyResults : Prop :=
  (∀ (s : State) (m : Msg), s.msg? m.id = some m →
     (∀ sec bs alloc core o, m.kind = .reply sec bs alloc core → (s.mayLandAt m.wave m.uid).1 = true →
       let t := (s.mayLandAt m.wave m.uid).2
       (t.wave? m.wave).any (·.unreadOn m.no sec) = false →
       let t := t.dropMsg m.id
       let t := if alloc then t.fillSector core m.ctx sec bs else t
       (t.wave? m.wave).bind (·.op? m.uid) = some o →
       let hit (p : Piece) : Bool := !p.done && p.loc.sector == sec
       let mine := o.pieces.filter hit
       let own := ((t.wave? m.wave).elim [] fun w => w.heldOn o.no sec).filter fun _ => !t.inSlots sec 32
       let bs := own.foldl (fun bs h => h.2.foldl (fun bs op => overSector bs sec op) bs) bs
       ((∀ p ∈ mine, p.fwd = own.map (·.1)) → exec (.memoryReply m.id) s = .next ((t.modWave m.wave fun w =>
         (mine.foldl (fun w p => w.deliverPiece o p (p.bytes sec bs)) w).modOp m.uid fun o => { o with
           pieces := o.pieces.map fun p => if hit p then { p with done := true } else p }).settleOp m.wave m.uid).poll) ∧
       ((∃ p ∈ mine, p.fwd ≠ own.map (·.1)) →
         let t := t.modWave m.wave fun w => w.modOp m.uid fun o => { o with
           pieces := o.pieces.map fun p => if hit p then { p with fwd := own.map (·.1) } else p }
         exec (.memoryReply m.id) s = .next
           { t with msgs := t.msgs ++ [{ m with kind := .read sec core false o.cache.ret }] })) ∧
     (∀ vs o, m.kind = .values vs → (s.wave? m.wave).bind (·.op? m.uid) = some o →
       exec (.memoryReply m.id) s = .next (((s.dropMsg m.id).modWave m.wave fun w =>
         vs.foldl (fun w v => (w.deliver o 0 v.1 v.2.lo).deliver o 1 v.1 v.2.hi) w).settleOp m.wave m.uid).poll) ∧
     (m.kind = .ack → exec (.memoryReply m.id) s = .next ((s.dropMsg m.id).settleOp m.wave m.uid).poll)) ∧
  (∀ bs : List PByte, bs.length = 4 →
     let v := pvalue bs
     (∀ signed, loadReg .b32 signed bs 0 = ⟨BitVec.ofNat 32 v, anyPoison bs⟩) ∧
     (∀ b, loadReg .b8 false [b] 0 = ⟨b.byte.zeroExtend 32, b.poison⟩) ∧
     (∀ b, loadReg .b8 true [b] 0 = ⟨b.byte.signExtend 32, b.poison⟩) ∧
     (∀ b c, loadReg .b16 false [b, c] 0 = ⟨(c.byte ++ b.byte).zeroExtend 32, b.poison || c.poison⟩) ∧
     (∀ b c, loadReg .b16 true [b, c] 0 = ⟨(c.byte ++ b.byte).signExtend 32, b.poison || c.poison⟩))

/-- R236, R237, R257: a write-back that no older one of its core precedes gives its bytes to its home and changes no
other byte, the poison of its sectors following what it carries of them. R236, R237, R241, R255, R367: a drain order
writes back the frames it names; its acknowledgement, once they and their write-backs are through, clears the core
from the line's record where the record still holds the epoch, and until then it orders the frames again; the grant of
a host line makes it the device's. It rests in part on choices of the model: log entries 43 and 44. -/
def Obligations.WriteBackResults : Prop :=
  (∀ (s : State) (m : Msg) (core : Nat) (loc : Loc) (bytes : List (Nat × PByte)) (whole : BitVec 4) (epoch u ret : Nat),
     s.msg? m.id = some m → m.kind = .writeback core loc bytes whole epoch u ret →
     s.msgs.any (fun k => match k.kind with
       | .writeback c l _ _ e _ _ => c == core && (decide (e < epoch) || (l == loc && decide (k.id < m.id)))
       | _ => false) = false → s.dev.hbmErrors = [] → (∀ b, loc.sp = .scratch b → (s.block? b).isSome = true) →
     let base := loc.addr / 128 * 128
     ∃ t : State, exec (.homeWriteback m.id) s = .next ((t.afterWrite loc).settleOp m.wave m.uid).poll ∧
       t.msgs = s.msgs.filter (·.id != m.id) ∧ t.waves = s.waves ∧ t.cores = s.cores ∧
       (∀ b ∈ bytes, (∀ c ∈ bytes, c.1 = b.1 → c = b) → (t.memOf loc.sp).get (base + b.1) = b.2.byte) ∧
       (∀ a, (∀ b ∈ bytes, base + b.1 ≠ a) → (t.memOf loc.sp).get a = (s.memOf loc.sp).get a) ∧
       (∀ k < 4,
         let part := bytes.filter fun b => b.1 / 32 == k
         (t.memOf loc.sp).poison.contains (base / 32 + k) =
           if part = [] then (s.memOf loc.sp).poison.contains (base / 32 + k)
           else part.any (·.2.poison) || (!whole.getLsbD k && (s.memOf loc.sp).poison.contains (base / 32 + k))) ∧
       (∀ sp, sp ≠ loc.sp → t.memOf sp = s.memOf sp)) ∧
  (∀ (s : State) (m : Msg), s.msg? m.id = some m →
     (∀ core upto all line, m.kind = .drain core upto all line false →
       exec (.drainOrder m.id) s = .next ((s.writebackWhere core (fun f => all || decide (f.epoch ≤ upto)) (0, 0)).modMsg m.id
         fun _ => .drain core upto all line true)) ∧
     (∀ core upto all line, m.kind = .drain core upto all line true →
       let left := (s.core core).frames.any (fun f => f.isDirty && (all || decide (f.epoch ≤ upto))) ||
         s.writebackPending core (fun _ e => all || decide (e ≤ upto))
       let t := s.dropMsg m.id
       (left = false → exec (.drainAck m.id) s =
         .next ((if (s.recorded line none).any (fun c => c.1 == core && (all || c.2 == upto % 65536))
           then t.clearRecorded line core else t).recordRebuilt line).poll) ∧
       (left = true → exec (.drainAck m.id) s =
         .next (s.writebackWhere core (fun f => all || decide (f.epoch ≤ upto)) (0, 0)))) ∧
     (∀ line, m.kind = .ownership line → exec (.exclusiveOwnershipGrant m.id) s =
       .next ((s.dropMsg m.id).modHomes fun h => { h with owned := insertNat line h.owned })))

/-- R236, R237, R252, R253: a frame at its age limit, or that is replaced, is written back and gone; a core idle for
8,192 clocks with nothing pending gives up its frames and the fills on their way, and, with no write-back and no drain
order under way, is gated. -/
def Obligations.FrameLimitAndGating : Prop :=
  ∀ (s : State) (core frame : Nat),
    exec (.l1AgeLimit core frame) s = .next
      ((s.writebackWhere core (fun f => f.id == frame) (0, 0)).dropFrames core fun f => f.id == frame) ∧
    (let c := s.core core
     let t := ((s.writebackWhere core (fun _ => true) (0, 0)).dropFrames core fun _ => true).noFill core fun _ => true
     let busy := t.writebackPending core (fun _ _ => true) || t.msgs.any fun m => match m.kind with
       | .drain c _ _ _ _ => c == core
       | _ => false
     s.waves.any (fun w => w.core == core && ((w.onCore && w.st != .ended) || !w.held.isEmpty)) = false → c.pending = [] →
     c.idleAt + 8192 ≤ s.clk → c.gated = false →
     (busy = false → exec (.corePowerGate core) s = .next (t.modCore core fun c => { c with gated := true })) ∧
     (busy = true → exec (.corePowerGate core) s = .next t))

/-- R236, R248, R250, R251: a probe is answered without data by a core that is gated, without the line or on which the
granule's owner has no block; one that holds it, with no write-back of the line under way and no older dirty frame,
answers with the written bytes of the half and gives the half up; one with older dirty frames writes them back first.
R246 to R248, R250, R254: the bytes of a core's answer, and of a completed back-invalidation snoop, are taken into the
home, and what asked for them has one answer less to wait for; where it rebuilds a directory entry they count as R254
says; a half the host gives up is the device's again. It rests in part on choices of the model: log entry 45. -/
def Obligations.ProbeAndSnoopResults : Prop :=
  (∀ (s : State) (m : Msg) (core line : Nat) (half : Option Nat) (req : Nat) (owner : Option Nat), s.msg? m.id = some m →
     m.kind = .probe core line half req owner →
     let t := s.noFill core (·.frameLine == dirLine line)
     let answer (t : State) (d : List (Nat × Byte)) (bad : List Nat) (ret : Nat) : Host.Outcome State Fault Refusal :=
       .next (t.modMsg m.id fun _ => .probeResponse core line half req d bad ret)
     let silent := (t.core core).gated || owner.any fun c => !(t.residentOn c core)
     (silent = true → exec (.holderProbe m.id) s = answer t [] [] 1) ∧
     (silent = false → t.writebackPending core (fun l _ => l == dirLine line) = false →
       (t.frame? core (dirLine line) = none → exec (.holderProbe m.id) s = answer t [] [] 1) ∧
       (∀ f, t.frame? core (dirLine line) = some f →
         let older := (t.core core).frames.any (fun g => g.isDirty && decide (g.epoch < f.epoch)) ||
           t.writebackPending core (fun _ e => decide (e < f.epoch))
         let sent := f.writebackBytes half
         let keep : BitVec 4 := match half with
           | none => 0#4
           | some 0 => 0xC#4
           | some _ => 0x3#4
         (f.isDirty = false ∨ older = false → ∃ g : Frame → Frame,
           exec (.holderProbe m.id) s = answer (t.modFrame core f.id g) (sent.map fun b => (b.1, b.2.byte))
             ([0, 1, 2, 3].filter fun k => f.poison.getLsbD k && sent.any fun b => b.1 / 32 == k) f.ret ∧
           (g f).valid = f.valid &&& keep ∧ (g f).dirty = f.dirty &&& keep) ∧
         (f.isDirty = true → older = true → exec (.holderProbe m.id) s =
           .next (t.writebackWhere core (fun g => g.isDirty && decide (g.epoch < f.epoch)) (0, 0)))))) ∧
  (∀ (s : State) (m : Msg), s.msg? m.id = some m →
     let rebuilds (req : Nat) : Bool := s.homes.hostReqs.any fun r => r.id == req && r.kind == 3
     (∀ core line half req dirty bad ret, m.kind = .probeResponse core line half req dirty bad ret →
       exec (.probeResponse m.id) s = .next (if rebuilds req then (s.dropMsg m.id).rebuildAnswer req line dirty bad ret
         else ((s.dropMsg m.id).takeDirty line dirty bad ret).answered req).poll) ∧
     (∀ line half req dirty, m.kind = .backInv line half req →
       let t := (s.dropMsg m.id).clearHalf line half
       let d := match dirty with
         | some bs => (bs.take 64).zipIdx.map fun b => (64 * half + b.2, b.1)
         | none => []
       exec (.backInvalidationComplete m.id dirty) s = .next (if rebuilds req then t.rebuildAnswer req line d [] 1
         else (t.takeDirty line d [] 1).answered req).poll) ∧
     (∀ line half, exec (.hostCopyReturn line half) s = .next (s.clearHalf line (half % 2)).poll ∧
       ∀ d ∈ (s.clearHalf line (half % 2)).homes.dir, d.line = line → d.host.getLsbD (half % 2) = false))

/-- R246, R248, R249, R254, R367, R442: a host request within a half-line of the 384 GiB that the host has assigned is
taken once the device is Ready and refused otherwise; a snoop, once no directory entry of the line is being rebuilt or
replaced, of host memory has every L1 that the directory names write the half-line back, and where it invalidates they
and the homes give it up. It rests in part on choices of the model: log entries 46 and 160. -/
def Obligations.HostRequestResults : Prop :=
  ∀ s : State,
    let taken (i : Instr) (kind host size : Nat) (data : List Byte) (poisoned : Bool) : Prop :=
      let addr := host - Config.hostBase
      let fits := s.dev.on = true ∧ s.dev.st = .ready ∧ size ≠ 0 ∧ Config.hostBase ≤ host ∧ addr % 64 + size ≤ 64 ∧
        addr + size ≤ 0x6000000000
      let r : HostReq := { id := s.nextMsg, kind, addr, data, size, poisoned, waits := 0, probed := false, held := false }
      (fits → exec i s = .next
        (({ s with nextMsg := s.nextMsg + 1 } : State).modHomes fun h => { h with hostReqs := h.hostReqs ++ [r] }).poll) ∧
      (¬fits → exec i s = .next s)
    (∀ addr size cacheable, taken (.hostRead addr size cacheable) (if cacheable then 1 else 0) addr size [] false) ∧
    (∀ addr data poisoned, taken (.hostWrite addr data poisoned) 2 addr data.length data poisoned) ∧
    (∀ addr kind,
      let line : Loc := ⟨.host, addr / 64 * 64⟩
      s.homes.dir.any (fun d => d.line == line.dirKey && d.bad) = false →
      s.homes.hostReqs.any (fun r => (r.kind == 3 || r.kind == 4) && r.addr == line.dirKey) = false →
      let named := s.probeCores line.dirKey
      let sent := named.foldl (fun s c => s.writebackWhere c (fun f => f.loc == line) (0, 0)) s
      ((List.range 64).any (fun c => sent.writebackPending c fun l _ => l == line) = true →
        exec (.hostSnoop addr kind) s = .next sent) ∧
      ((List.range 64).any (fun c => sent.writebackPending c fun l _ => l == line) = false →
        (kind ≠ .invalidate → exec (.hostSnoop addr kind) s =
          .next (sent.modHomes fun h => { h with owned := h.owned.filter (· != line.addr) })) ∧
        (kind = .invalidate → ∃ t : State, exec (.hostSnoop addr kind) s = .next t.poll ∧
          t.homes.owned = sent.homes.owned.filter (· != line.addr) ∧ t.mem = sent.mem ∧ t.waves = sent.waves ∧
          t.cores = (named.foldl (fun s c => s.dropFrames c fun f => f.loc == line) sent).cores ∧
          ∀ a, (a < line.addr ∨ line.addr + 64 ≤ a) → t.host.get a = sent.host.get a)))

/-- R310, R351, R385, R407, R450: a recheck of a context's pages, from fresh walks, tries its blocked queues, the
engine queues first, the requests parked for it, the interrupts not yet delivered and the local forwards of its carry
chains again, each of these in their order. R368 to R370: a flip whose last line is done sets the granule's BIAS and
clears its FLIP; flipped to host the granule is the host's; the biassets that wanted this state complete, and those
that wanted the other begin the flip back. A granule that is not flipping, or whose lines are not done, stays as it
is. A flip takes the granule's lines in ascending order: to host a line is drained before its cores are probed, to
device each half the host holds is recalled and the frames' restrictions end, and the next line begins when nothing of
this one is on its way. It rests in part on choices of the model: log entries 47 and 131. -/
def Obligations.RecheckAndFlipResults : Prop :=
  (∀ (s : State) (c : Nat),
     let s0 := s.modHomes fun h => { h with dieTlb := h.dieTlb.map fun l => l.filter (·.ctx != c) }
     let s1 := (List.range (s0.ctx c).eqs.length).foldl (fun s q => s.recheckQueue c true q) s0
     let s2 := (List.range (s1.ctx c).lqs.length).foldl (fun s q => s.recheckQueue c false q) s1
     let s3 := (s2.link.parked.filter fun p => s2.parkedFor p.1 c).foldl (fun s p => s.retryParked p.1) s2
     let s4 := (s3.msgs.filter fun m => match m.kind with
       | .interrupt _ _ _ _ _ _ => true
       | _ => false).foldl (fun s m => s.interruptArrives m) s3
     let s5 := (s4.msgs.filter (·.ctx == c)).foldl (fun s m => s.forwardArrives m) s4
     exec (.pageRecheck c) s = .next
       (s5.modLink fun l => { l with parkNoted := l.parkNoted.filter fun i => s5.msgs.any (·.id == i) }).poll ∧
     (∀ e ∈ s0.homes.dieTlb.flatten, e.ctx ≠ c) ∧ s0.mem = s.mem ∧ s0.waves = s.waves ∧ s0.msgs = s.msgs ∧
     (∀ eng q, (s.queue c eng q).st ≠ .blocked → s.recheckQueue c eng q = s) ∧
     (∀ r : RemoteReq, s.heldUp r = false → ∀ a t, s.serve r = .reply a t → a ≠ .busy → s.retryParked r =
       ((((t.modLink fun l => { l with parked := l.parked.filter (·.1 != r) }).say r.key a).hasRead (.col r.key)).takeSlots)) ∧
     (∀ r : RemoteReq, (s.heldUp r = true ∨ ∃ t, s.serve r = .wait t ∧ t = s) → s.retryParked r = s)) ∧
  ((∀ (s : State) (g : Nat),
     ((∀ f, s.flip? g = some f → f.st = .host ∨ f.line < 32) → exec (.biasFlipComplete g) s = .next s) ∧
     (∀ f, s.flip? g = some f → 32 ≤ f.line → (f.st = .toHost ∨ f.st = .toDevice) →
       let host := f.st == .toHost
       let now := if host then 1 else 0
       let b := s.setBias g now 0
       let t : State := if host then b.putFlip ⟨g, .host, 32, false, []⟩
         else b.modHomes fun h =>
           { h with flips := h.flips.filter (·.granule != g) }
       let u := (f.waves.filter (·.2.2 == now)).foldl (fun s e =>
         match ((s.wave? e.1).bind (·.split? e.2.1)).bind (·.wait) with
         | some w => if w.kind = .bias g then s.leaveWait e.1 e.2.1 else s
         | none => s) t
       let rest := f.waves.filter (·.2.2 != now)
       (rest = [] → exec (.biasFlipComplete g) s = .next u.poll) ∧
       (rest ≠ [] → exec (.biasFlipComplete g) s = .next (u.startFlip g (!host) rest).poll))) ∧
   (∀ (s : State) (f : Flip),
     let line := 4096 * f.granule + 128 * f.line
     let l : Loc := ⟨.dev, line⟩
     (f.sent = true → s.flipLine f = (if f.st == .toHost then s else (s.clearHalf line 0).clearHalf line 1).putFlip
       { f with line := f.line + 1, sent := false }) ∧
     (f.sent = false → s.homes.dir.any (fun d => d.line == line && d.bad) = false →
       (f.st = .toHost → s.mustDrain l none = true → s.flipLine f = s.requestDrain l none) ∧
       (f.st = .toHost → s.mustDrain l none = false → ∀ o t, s.probeOwner line = (o, t) → s.flipLine f =
         ((t.probeCores line).foldl (fun s c => s.send 0 0 0 0 (.probe c line none 0 o)) t).putFlip { f with sent := true }) ∧
       (f.st = .toDevice → s.hostHolds l = false → s.hostHolds (l.plus 64) = false →
         s.flipLine f = s.putFlip { f with sent := true })) ∧
     (∀ fuel, s.flip? f.granule = some f → (f.st = .host ∨ 32 ≤ f.line ∨ s.lineBusy line = true) → s.flipOn f.granule fuel = s)) ∧
   (∀ (s : State) (g bias flip : Nat), s.dev.biastab + 2 * g < 2 ^ 39 → bias < 2 → flip < 2 →
     s.hostHolds ⟨.dev, s.dev.biastab + 2 * g⟩ = false → s.homes.posted = [] →
     ((s.setBias g bias flip).mem.get (s.dev.biastab + 2 * g)).toNat % 4 = 2 * flip + bias))

/-- R92, R327 to R329: QPUSH of lanes whose slots, selectors and images are found is in flight with each lane's image
held back, a launch packet's with the PARENT of its launch written at +0x40, and the requests for the images at ranks
sent; where lanes fail, a poisoned image being POISON, the lowest one's cause is delivered as its kind is. QWAIT at a
queue header of its own rank holds its split in a wait for the HEAD its threshold names; a poisoned threshold raises
POISON. R310, R312, R313: a write seen on the header line of a queue that takes entries: Faulted with notice 0x12
where TAIL is more than 2^LOG2 past HEAD, Running where it was Empty and HEAD is behind TAIL, otherwise as it was. A
queue that is Stopped or Faulted, whose header is not valid, or that the context does not have, takes no notice of it.
R310, R315, R316, R322: a Running engine queue that holds no entry takes the 128 bytes of the slot at HEAD, with the
chunks its PROGRESS shows done, fails it with STATUS 4 and notice 0x11 where it is bad, and starts it otherwise; it is
Empty where HEAD has come to TAIL, Faulted where TAIL has run too far, and stopped by a page it cannot use. One that
holds an entry, once its header and slot can be written, reads STATUS and PROGRESS of one that is resumed back from
its slot, completes it where nothing of it is left, and starts it where it has not started. R315, R318 to R322: an
entry before which a skipped one still has chunks waits for them; one whose trigger or join does not hold leaves its
queue Waiting; one whose trigger and join hold is in progress with STATUS 1, and complete at once where it has no
chunk left: a COPYSHAPE with its record, which is failed with STATUS 4 and notice 0x11 where it is bad, an RFENCE with
the copy of the record at its address dropped, or all of them where that address is 0. It rests in part on choices of
the model: log entries 69, 70, 71, 72, 73 and 164. -/
def Obligations.QueueResults : Prop :=
  (∀ (m : Mem) (s s' : State) (x : Iss) (ps : List (Nat × Place)),
     (Issues (.qpush m) s x →
       let sel (l : Nat) : Val := x.reg m.c 0 l
       let at_ (l : Nat) := selected x.w.ctx (sel l).bits.toNat
       x.locate x.lanes (x.addr m) 128 .read (fun l p => match p with
         | .bad _ => none
         | _ => if (sel l).poison then some ⟨.poison, (x.addr m l).bits, none⟩
           else s.selectorFail x.w.ctx (sel l).bits.toNat (x.addr m l).bits) (later := x.imageCheck m) = .ok s' ps →
       (Iss.isFar ps = true → x.w.seq < 2 ^ 24) → x.full (x.requests ps) = false →
       ∀ (imgs : List (Nat × List PByte)) (t : State), x.images s' ps = (some imgs, t) →
         let image (e : Nat × List PByte) : List PByte := if (at_ e.1).2.1 ∨ e.2 = [] then e.2
           else e.2.take 0x40 ++ pbytes false (leBytes 8 (t.parentFor x.w)) ++ e.2.drop 0x48
         let op : Op := { x.opOf .value with
           global := Iss.isFar ps, reqs := x.requests ps
           pieces := imgs.map fun e => { lane := e.1, loc := ⟨.dev, 0⟩, size := 0, row := 0, fwd := [], done := false } }
         let wo := if m.sub.getLsbD 0 then x.w.addDests x op m.d 2 else (x.w, op)
         let w := imgs.foldl (fun (w : Wave) e => w.hold x.no x.clk x.uid
           (.push (at_ e.1).1 (if (at_ e.1).2.1 then 1 else 0) (at_ e.1).2.2.1 (image e) e.1))
           { wo.1 with ops := wo.1.ops ++ [wo.2] }
         let reqs := ps.filterMap fun p => match p.2 with
           | .far r g f => some (x.request t .load p.1 r g f 128 m.sub m.order m.scope [])
           | _ => none
         exec (.qpush m) s = .next (x.complete ((t.putWave (x.takeSeq w (Iss.isFar ps))).sendRemote x.w x.uid reqs
           (fun _ => []) none) true)) ∧
     (∀ t f, Issues (.qpush m) s x →
       let sel (l : Nat) : Val := x.reg m.c 0 l
       x.locate x.lanes (x.addr m) 128 .read (fun l p => match p with
         | .bad _ => none
         | _ => if (sel l).poison then some ⟨.poison, (x.addr m l).bits, none⟩
           else s.selectorFail x.w.ctx (sel l).bits.toNat (x.addr m l).bits) (later := x.imageCheck m) = .fail t f →
       exec (.qpush m) s = .next (x.finish (x.failWith t f))) ∧
     (Issues (.qwait m) s x → ∀ c va l, (x.addr m x.first).poison = false →
       s.nameOf x.w (x.addr m x.first).bits.toNat = .local c va → (x.addr m x.first).bits.toNat % 128 = 0 →
       s.laneAt x.w c va (x.addr m x.first).bits.toNat .read = .ok l s' →
       let p := Val.join (x.reg m.c 0 x.first) (x.reg m.c 1 x.first)
       (p.poison = false → exec (.qwait m) s = .next (x.finish (.wait s'
         { kind := .queue p.bits.toNat, loc := l, va := (x.addr m x.first).bits.toNat, acq := m.acq, lanes := x.act,
           op := 0x71, sub := 0, len := x.len, uid := x.no, marks := [] })).poll) ∧
       (p.poison = true → exec (.qwait m) s = .next (x.finish (.due s'
         ⟨.poison, laneSet [x.first], (x.addr m x.first).bits, none⟩)).poll))) ∧
  (∀ (s : State) (c : Nat) (eng : Bool) (q : Nat),
     let x := s.queue c eng q
     let has := q < (if eng then (s.ctx c).eqs.length else (s.ctx c).lqs.length) ∧ x.valid = true ∧
       (x.st = .empty ∨ x.st = .running ∨ x.st = .waiting ∨ x.st = .blocked)
     (¬has → exec (.headerWriteSeen c eng q) s = .next s) ∧
     (has → ∀ t, s.readHeader c eng q = .no t → exec (.headerWriteSeen c eng q) s = .next t) ∧
     (has → ∀ tail head t, s.readHeader c eng q = .ok tail head t →
       (2 ^ x.log2 < tail - head → exec (.headerWriteSeen c eng q) s =
         .next ((t.notice c 0x12 (t.headerVa c eng q) 0).faultQueue c eng q)) ∧
       (tail - head ≤ 2 ^ x.log2 → x.st = .empty → head < tail →
         exec (.headerWriteSeen c eng q) s = .next (t.setQState c eng q .running)) ∧
       (tail - head ≤ 2 ^ x.log2 → (x.st ≠ .empty ∨ tail ≤ head) → exec (.headerWriteSeen c eng q) s = .next t))) ∧
  (∀ (s : State) (c q : Nat),
     let x := s.queue c true q
     let takes := q < (s.ctx c).eqs.length ∧ x.st = .running ∧ x.valid = true ∧ x.stopping = false
     (¬takes → exec (.entryTake c q) s = .next s) ∧
     (takes → x.entry = none → ∀ t, s.readHeader c true q = .no t → exec (.entryTake c q) s = .next t) ∧
     (takes → x.entry = none → ∀ t tail head, s.readHeader c true q = .ok tail head t →
       (tail ≤ head → exec (.entryTake c q) s = .next (t.setQState c true q .empty)) ∧
       (head < tail → 2 ^ x.log2 < tail - head → exec (.entryTake c q) s =
         .next ((t.notice c 0x12 (t.headerVa c true q) 0).faultQueue c true q)) ∧
       (head < tail → tail - head ≤ 2 ^ x.log2 →
         (∀ u, t.reach x.die c (x.slotVa head) 128 .both = .stall u → exec (.entryTake c q) s = .next u) ∧
         (∀ f u, t.reach x.die c (x.slotVa head) 128 .both = .fault f u → exec (.entryTake c q) s =
           .next (u.queuePageFault c true q (u.headerVa c true q) f)) ∧
         (∀ l u, t.reach x.die c (x.slotVa head) 128 .both = .ok l u →
           let img := (u.homeRead l 128).1.map (·.byte)
           let e : Entry := { seq := head, image := img, started := false, shape := [], claims := [], olds := [],
                              prog := (List.range 256).filter fun j => (pfield img 0x60 32).testBit j, finish := false,
                              resume := false, parts := [] }
           let v := (u.homeRead l 128).2.modQueue c true q fun x => { x with entry := some e }
           (entryBad img (v.ctx c).eqs.length = true → exec (.entryTake c q) s = .next
             (((v.notice c 0x11 (x.slotVa head) 0).setStatus c q e 4).faultQueue c true q)) ∧
           (entryBad img (v.ctx c).eqs.length = false → exec (.entryTake c q) s = .next (v.startEntry c q e))))) ∧
     (takes → ∀ e, x.entry = some e →
       (∀ t, (s.ringReady c true q (some e.seq) = .wait t ∨ s.ringReady c true q (some e.seq) = .no t) →
         exec (.entryTake c q) s = .next t) ∧
       (∀ t, s.ringReady c true q (some e.seq) = .yes t →
         let spent := e.finish = true ∨ (e.started = true ∧ e.left = [])
         (e.resume = true → exec (.entryTake c q) s = .next (t.resumeEntry c q e)) ∧
         (e.resume = false → (spent → exec (.entryTake c q) s = .next (if e.claims.isEmpty then t.completeEntry c q e else t)) ∧
         (¬spent → e.started = true → exec (.entryTake c q) s = .next t) ∧
         (¬spent → e.started = false → exec (.entryTake c q) s = .next (t.startEntry c q e))))) ∧
     (∀ e,
       (∀ u, s.reach x.die c (x.slotVa e.seq) 128 .both = .stall u → s.resumeEntry c q e = u) ∧
       (∀ l u, s.reach x.die c (x.slotVa e.seq) 128 .both = .ok l u → s.dev.hbmErrors = [] →
         let status := u.natAt (l.plus 4) 4
         let read (e : Entry) : Entry := { e with
           resume := false, started := status != 0
           prog := (List.range 256).filter fun j => (u.natAt (l.plus 0x60) 32).testBit j }
         (status = 4 → s.resumeEntry c q e = u.modQueue c true q fun x => { x with entry := none }) ∧
         (status = 0 → s.resumeEntry c q e = u.modEntry c q read) ∧
         (status ≠ 4 → status ≠ 0 → s.resumeEntry c q e = (u.modEntry c q read).setStatus c q e 1)))) ∧
  (∀ (s : State) (c q : Nat) (e : Entry),
     let kind := pfield e.image 0 4 % 16
     let r := s.entryHolds c q e
     let begun (t : State) (shape : List Byte) : State :=
       (t.modEntry c q fun _ => { e with started := true, shape }).setStatus c q { e with started := true, shape } 1
     let run (t : State) (shape : List Byte) : State :=
       if Entry.left { e with started := true, shape } = [] then t.completeEntry c q { e with started := true, shape } else t
     (((r.2.queue c true q).left ≠ [] ∨ (r.2.queue c true q).st ≠ .running) → s.startEntry c q e = r.2) ∧
     ((r.2.queue c true q).left = [] → (r.2.queue c true q).st = .running → r.1 = false → s.startEntry c q e = r.2.setQState c true q .waiting) ∧
     ((r.2.queue c true q).left = [] → (r.2.queue c true q).st = .running → r.1 = true →
       (kind ≠ 2 → kind ≠ 5 → s.startEntry c q e = run (begun r.2 []) []) ∧
       (kind = 2 →
         (∀ rec t, r.2.takeRecord c q e = .ok rec t → s.startEntry c q e = run (begun t rec) rec) ∧
         (∀ t, r.2.takeRecord c q e = .bad t → s.startEntry c q e =
           ((t.notice c 0x11 ((t.queue c true q).slotVa e.seq) 0).setStatus c q e 4).faultQueue c true q) ∧
         (∀ t, r.2.takeRecord c q e = .no t → s.startEntry c q e = t)) ∧
       (kind = 5 →
         (∀ t, r.2.writeRcache c q e = (false, t) → s.startEntry c q e = t) ∧
         (∀ t, r.2.writeRcache c q e = (true, t) → s.startEntry c q e = run ((begun t []).modQueue c true q fun x =>
           { x with cache := if pfield e.image 0x20 8 = 0 then [] else x.cache.filter (·.1 != pfield e.image 0x20 8) }) []))))

/-- R84, R323, R324: once PRIO can be read, a free engine of a die binds to the next unbound started entry after the
queue last bound, of the highest PRIO, and claims its lowest unclaimed chunk; with none unbound it steals the highest
unclaimed chunk of the entry with most, the first of those; an engine that works, or that is bound, does neither.
R317, R318, R324, R325: an engine moves the bytes of its chunk of the entry at its queue's head, all that is left of
it or a part; once all are moved PROGRESS shows the chunk, and the entry completes where that was its last chunk, or
else the bound engine claims the next one nobody has claimed. A chunk moved at once, which is a free choice, writes to
each run what its source held, or what its pattern gives. Poison on its way into host memory fails the entry with
STATUS 5. It rests in part on choices of the model: log entries 57, 69 and 168. -/
def Obligations.EngineResults : Prop :=
  (∀ (s : State) (engine : Nat),
     let die := engine / 64
     let all := (s.performing die).filter fun e => !e.2.2.2.unclaimed.isEmpty
     let can := all.filter fun e => e.2.2.1.engine.isNone
     (∀ t, s.tableRead (List.range 64) = (false, t) → exec (.engineBind engine) s = .next t) ∧
     (s.engineFree engine = false → exec (.engineSteal engine) s = .next s ∧
       ∀ t, s.tableRead (List.range 64) = (true, t) → exec (.engineBind engine) s = .next t) ∧
     (s.engineFree engine = true → ∀ t c q y e, s.tableRead (List.range 64) = (true, t) →
       let top := can.filter fun e => can.all fun f => decide (t.prio f.1 ≤ t.prio e.1)
       let last := s.sched.lastQueue.getD die (0, 0)
       ((top.filter fun e => last.1 < e.1 || (last.1 == e.1 && decide (last.2 < e.2.1))) ++ top).head? = some (c, q, y, e) →
       exec (.engineBind engine) s = .next (((t.modQueue c true q fun x => { x with engine := some engine }).modSched fun k =>
         { k with lastQueue := updAt die (fun _ => (c, q)) k.lastQueue }).claim engine c q (e.unclaimed.headD 0))) ∧
     (s.engineFree engine = true → ∀ c q y e before after, can = [] → all = before ++ (c, q, y, e) :: after →
       (∀ f ∈ before, f.2.2.2.unclaimed.length < e.unclaimed.length) →
       (∀ f ∈ after, f.2.2.2.unclaimed.length ≤ e.unclaimed.length) →
       exec (.engineSteal engine) s = .next (s.claim engine c q (e.unclaimed.getLastD 0))) ∧
     (can = [] → ∀ t, s.tableRead (List.range 64) = (true, t) → exec (.engineBind engine) s = .next t) ∧
     ((can ≠ [] ∨ all = []) → exec (.engineSteal engine) s = .next s)) ∧
  ((∀ (s t u : State) (engine c q j : Nat) (e : Entry) (places : List (List (Loc × Nat) × List (Loc × Nat) × Nat)),
     let x := s.queue c true q
     let fill := pfield e.image 0 4 % 16 = 3
     let pat := pfield e.image 0x10 8
     let dst := pfield e.image 0x08 8
     (s.engines.getD engine .idle).work = some (c, q, j) → x.entry = some e → e.claims.contains (j, engine) = true →
     s.ringReady c true q (some e.seq) = .yes t → t.reachRuns (engine / 64) c fill (e.runs j) = .ok (places, u) →
     let mix := !fill && (e.runs j).any fun r => decide (r.2.1 < dst + e.span ∧ dst < r.2.1 + r.2.2)
     let read := places.foldl (fun (r : List (List PByte) × State) p =>
       if fill then
         (r.1 ++ [(List.range (p.1.foldl (fun n e => n + e.2) 0)).map fun k =>
           ⟨BitVec.ofNat 8 (pat / 2 ^ (8 * ((p.2.2 + k) % 8))), false⟩], r.2)
       else (r.1 ++ [(r.2.readSpread p.2.1).1], (r.2.readSpread p.2.1).2)) ([], u)
     let done := read.2.modHomes fun h => { h with waiting := h.waiting.filter (·.2 != .engine engine) }
     let moved := (s.engines.getD engine .idle).moved
     let drop (e : Entry) : Entry := if e.claims.any (·.2 == engine) then
         { e with claims := e.claims.filter (·.2 != engine), parts := if moved = [] then e.parts else insertKey j moved e.parts }
       else e
     let unclaim (s : State) : State :=
       let s : State := { s with engines := updAt engine (fun _ => .idle) s.engines }
       (s.modEntry c q drop).modQueue c true q fun x => { x with
         left := (x.left.map drop).filter (!·.claims.isEmpty) }
     let hostBad := (places.zip read.1).any fun p => anyPoison p.2 && p.1.1.any (·.1.sp == .host)
     let r := done.moveChunk engine mix (if fill then some pat else none) e.olds places read.1
     let rests (z : State) : Prop := (z.queue c true q).stopping = false ∧ (z.ctx c).st ≠ .draining
     (hostBad = true →
       let z := (((unclaim done).queueEvent c x.die .poison (x.slotVa e.seq)).setStatus c q e 5).faultQueue c true q
       rests z → exec (.chunkComplete engine) s = .next z) ∧
     (hostBad = false → x.stopping = false → x.st = .running → ∃ z : State, exec (.chunkComplete engine) s = .next z.poll ∧
       (r.1 = false → z = r.2.2.modEntry c q fun e =>
         if e.claims.contains (j, engine) then { e with olds := r.2.1 } else e) ∧
       (r.1 = true →
         let v := (unclaim r.2.2).modEntry c q fun e =>
           { e with parts := eraseKey j e.parts, prog := insertNat j e.prog, olds := r.2.1 }
         let e' := ((v.queue c true q).entry).getD e
         let v := v.poke x.die c (x.slotVa e.seq + 0x60) 32 (e'.prog.foldl (fun n k => n + 2 ^ k) 0)
         let last := e'.left.isEmpty && e'.claims.isEmpty
         (v.ctx c).st ≠ .draining → e'.resume = false →
         (last = true → rests (v.completeEntry c q e') → z = v.completeEntry c q e') ∧
         (last = false → x.engine = some engine → ∀ k rest, e'.unclaimed = k :: rest → rests (v.claim engine c q k) →
           z = v.claim engine c q k) ∧
         (last = false → (x.engine ≠ some engine ∨ e'.unclaimed = []) → rests v → z = v)))) ∧
   (∀ (s : State) (engine : Nat) (fill : Option Nat) (olds : List (Loc × PByte))
     (places : List (List (Loc × Nat) × List (Loc × Nat) × Nat)) (whole : List (List PByte)),
     (s.engines.getD engine .idle).moved = [] →
     (s.draw.1.getLsbD 0 = true ∨ s.moveChunk engine false fill olds places whole =
       (true, olds, (places.zip whole).foldl (fun s p => s.writeSpread p.1.1 p.2) s.draw.2))) ∧
   (∀ (s : State) (engine : Nat), (s.engines.getD engine .idle).work = none →
     exec (.chunkComplete engine) s = .next s))

/-- R282, R339, R340, R390 to R396: PUTF, PUTM, a slot release and COLL whose operands meet their rules take one
sequence value and hold their requests back with their sources; nothing is sent and no byte changes at the issue.
Where lanes fail the checks of their operands, addresses or sources, the lowest one's cause is delivered as its kind
is. It rests in part on choices of the model: log entries 85 and 88. -/
def Obligations.PutAndCollResults : Prop :=
  ∀ (m : Mem) (s s' t : State) (x : Iss) (ps : List (Nat × Place)) (ls : List (Nat × List (Loc × Nat))), x.w.seq < 2 ^ 24 →
    let pair (k l : Nat) : Val64 := Val.join (x.reg m.c k l) (x.reg m.c (k + 1) l)
    let n (l : Nat) : Val := x.reg m.c 2 l
    let flying (s : State) (op : Op) (e : Effect) : State := x.complete (s.putWave
      ((x.takeSeq { x.w with ops := x.w.ops ++ [op] } true).hold x.no x.clk x.uid e)) true
    let op (k : Nat) : Op := { x.opOf .store with global := true, reqs := k }
    (Issues (.putf m) s x →
      let v (l : Nat) : Val64 := if m.size = .b64 then pair 6 l else (x.reg m.c 6 l).wide
      let f (l : Nat) : Nat := (pair 4 l).bits.toNat
      let size := m.size.bytes
      let src (l : Nat) : Nat := (pair 0 l).bits.toNat
      let len (l : Nat) : Nat := (n l).bits.toNat
      (x.locate x.lanes (x.addr m) 1 .read (fun _ _ => none) (later := x.sourceCheck src len) = .ok s' ps →
      (∀ l p, (l, p) ∈ ps → ∃ r g o, p = .far r g o ∧ f l / 2 ^ 62 = 1 ∧ bitsOf (f l) 61 45 = r) →
      (∀ l ∈ x.lanes, (pair 0 l).poison = false ∧ (n l).poison = false ∧ (pair 4 l).poison = false ∧
        (v l).poison = false ∧ (n l).bits.toNat ≤ 65536 ∧ f l % size = 0 ∧
        s.sourceFail x.w (pair 0 l).bits.toNat (n l).bits.toNat = none) →
      x.full x.lanes.length = false →
      x.sources s' src len = .ok ls t →
      let req (p : Nat × Place) : Option RemoteReq := match p.2 with
        | .far r g o => some { x.request t .putfFlag p.1 r g o size m.sub m.order m.scope (leBytes size (v p.1).bits.toNat) with
            packets := ((n p.1).bits.toNat + 4095) / 4096, flagReg := bitsOf (f p.1) 44 40, flagOff := f p.1 % 2 ^ 40 }
        | _ => none
      exec (.putf m) s = .next (flying t (op x.lanes.length) (.putf (ps.filterMap req) (ls.map (·.2)) []))) ∧
      (∀ f', x.locate x.lanes (x.addr m) 1 .read (fun l k =>
        let address (e : DWord) : Option LaneFail := some ⟨.address, (x.addr m l).bits, some e⟩
        if (pair 0 l).poison || (n l).poison || (pair 4 l).poison || (v l).poison then some ⟨.poison, (x.addr m l).bits, none⟩
        else match k with
          | .bad e => if (x.addr m l).bits.toNat / 2 ^ 62 = 1 then some e else address 6
          | .placed (.far r _ _) =>
            if f l / 2 ^ 62 ≠ 1 then address 6
            else if bitsOf (f l) 61 45 ≠ r then address 12
            else if 65536 < len l then address 11
            else if f l % size ≠ 0 then some ⟨.align, (pair 4 l).bits, none⟩
            else s.sourceFail x.w (src l) (len l)
          | _ => address 6) (later := x.sourceCheck src len) = .fail t f' →
        exec (.putf m) s = .next (x.finish (x.failWith t f')))) ∧
    (Issues (.putm m) s x →
      let src (l : Nat) : Nat := (pair 0 l).bits.toNat
      let len (l : Nat) : Nat := min 4096 (n l).bits.toNat
      (x.locate x.lanes (x.addr m) 64 .both (fun _ _ => none) (later := x.sourceCheck src len) = .ok s' ps →
      (∀ l ∈ x.lanes, (x.addr m l).bits.toNat / 2 ^ 62 = 0 ∧ (pair 0 l).poison = false ∧ (n l).poison = false ∧
        s.sourceFail x.w (pair 0 l).bits.toNat (min 4096 (n l).bits.toNat) = none) →
      x.full x.lanes.length = false →
      x.sources s' src len = .ok ls t →
      let send (e : (Nat × Place) × (Nat × List (Loc × Nat))) : Option MailSend := match e.1.2 with
        | .mem d =>
          let l := e.1.1
          let a := (x.addr m l).bits
          let p := t.localOf x.w a.toNat
          some { lane := l, desc := d, sender := t.globalOf p.1 p.2, addr := a, n := (n l).bits.toNat, src := e.2.2,
                 key := ⟨t.ownRank, t.incarn, x.w.serial x.w.seq, l⟩ }
        | _ => none
      exec (.putm m) s = .next (flying t (op x.lanes.length) (.mailSend ((ps.zip ls).filterMap send) []))) ∧
      (∀ f', x.locate x.lanes (x.addr m) 64 .both (fun l k =>
        let a := (x.addr m l).bits
        if (pair 0 l).poison || (n l).poison then some ⟨.poison, a, none⟩
        else match mailClass a k with
          | some e => some e
          | none => if a.toNat % 64 ≠ 0 then none else s.sourceFail x.w (src l) (len l))
          (later := x.sourceCheck src len) = .fail t f' →
        exec (.putm m) s = .next (x.finish (x.failWith t f')))) ∧
    (Issues (.putmRel m) s x → ∀ l d rest, (∀ l ∈ x.lanes, (x.addr m l).bits.toNat / 2 ^ 62 = 0) →
      x.locate x.lanes (x.addr m) 128 .both (fun _ _ => none) = .ok s' ((l, .mem d) :: rest) →
      let k (l : Nat) := x.reg m.c 0 l
      let bad := x.lanes.filter fun l => (k l).poison
      (bad = [] → x.full x.lanes.length = false → exec (.putmRel m) s = .next (flying s' (op x.lanes.length)
        (.mailRel d (k x.first).bits.toNat ⟨s'.ownRank, s'.incarn, x.w.serial x.w.seq, x.first⟩ m.scope
          (x.addr m x.first).bits))) ∧
      (∀ l, bad.head? = some l → exec (.putmRel m) s = .next (x.finish (.due s'
        ⟨.poison, laneSet bad, (x.addr m l).bits, none⟩)))) ∧
    (∀ f, Issues (.putmRel m) s x →
      x.locate x.lanes (x.addr m) 128 .both (fun l k => mailClass (x.addr m l).bits k) (fun l _ => (x.reg m.c 0 l).poison) =
        .fail t f → exec (.putmRel m) s = .next (x.finish (x.failWith t f))) ∧
    (Issues (.coll m) s x →
      let base (l : Nat) : Val64 := Val.join (x.reg m.a 0 l) (x.reg m.a 1 l)
      let o (l : Nat) : DWord := (base l).bits + (if m.len = .lit then m.off.signExtend 64 else 0#64)
      let rank (l : Nat) : Val := x.reg m.b 0 l
      let g (l : Nat) : Val64 := ⟨BitVec.ofNat 64 (2 ^ 62 + (rank l).bits.toNat % 2 ^ 17 * 2 ^ 45 + (o l).toNat % 2 ^ 45),
        (base l).poison || (rank l).poison⟩
      let data (l : Nat) : List PByte := x.dataOf m.c m.size.bytes l
      (∀ f, x.locate x.lanes g m.size.bytes .both (fun l _ =>
          if 2 ^ 17 ≤ (rank l).bits.toNat ∨ 2 ^ 45 ≤ (o l).toNat then some ⟨.address, o l, some 2⟩ else none)
          (fun l _ => anyPoison (data l)) = .fail t f →
        exec (.coll m) s = .next (x.finish (x.failWith t f))) ∧
      ((∀ l ∈ x.lanes, (rank l).bits.toNat < 2 ^ 17 ∧ (o l).toNat < 2 ^ 45 ∧ anyPoison (data l) = false) →
      x.locate x.lanes g m.size.bytes .both (fun _ _ => none) = .ok s' ps →
      x.full (collPackets ps m.size.bytes) = false →
      let fetch := m.sub.getLsbD 4
      let p : Op := { x.opOf (if fetch then .value else .store) with
        acq := m.acq, sc := m.sc, global := true, reqs := collPackets ps m.size.bytes }
      let wo := if fetch then x.w.addDests x p m.d m.size.regs else (x.w, p)
      let w := ({ wo.1 with ops := wo.1.ops ++ [wo.2] } : Wave).hold x.no x.clk x.uid
        (.coll (x.laneReqs s' .atomic m ps m.size.bytes data))
      exec (.coll m) s = .next (x.complete (s'.putWave (x.takeSeq w true)) true)))

/-- R384, R385: a request for another rank or incarnation is answered STALE and changes nothing; one whose result the
owner keeps, and that the region and page checks let pass, is answered DUPLICATE with that result in the state after
the checks: no cache entry changes and its effect lands once. -/
def Obligations.RemoteEffectsLandOnce : Prop :=
  ∀ (s : State) (r : RemoteReq),
    ((r.target ≠ s.ownRank ∨ r.tIncarn ≠ s.incarn) → s.serve r = .reply .stale s) ∧
    (∀ e, r.target = s.ownRank → r.tIncarn = s.incarn → lookupKey r.key.rank s.link.newest = some r.key.incarn →
      s.cached r.key = some e → e.isDone = true →
      r.kind ≠ .load → r.kind ≠ .slotRelease → r.kind ≠ .retirement → r.kind ≠ .putfData →
      let t := s.modLink fun l => { l with newest := insertKey r.key.rank r.key.incarn l.newest }
      let checked := t.gate (t.inboundDie r) r
      (∀ a u, checked = some (.no (.reply a u)) → s.serve r = .reply a u) ∧
      (∀ u, checked = some (.no (.wait u)) → s.serve r = .wait u) ∧
      (∀ u, ((checked = none ∧ u = t) ∨ (∃ c a, checked = some (.no (.park c a u))) ∨
          ∃ c a ls, checked = some (.ok c a ls u)) →
        s.serve r = .reply (.duplicate e.value e.poison) u ∧ u.link.cache = s.link.cache ∧ u.waves = s.waves ∧
          u.host = s.host ∧ u.blocks = s.blocks)) ∧
    (∀ n, lookupKey r.key.rank s.link.newest = some n → r.key.incarn < n → s.serve r = .reply .stale s)

/-- R384, R385, R387, R396: a request that comes in at a Ready device from another rank, over a port that carries
traffic, and need not follow another, is served: its reply is sent, it waits for its home, or it is parked where its
page is absent; a COLL packet brings its lanes' requests in ascending order. A retirement notice drops its streams'
results, and one of another rank is acknowledged; the last acknowledgement retires the gangs it was awaited for. A
slot release raises RELEASED to the value it carries and never lowers it. R380, R381, R383, R386, R387, R397, R398:
what a reply does to its key; when a key is sent again and when it is indeterminate; a port's change, the requests it
sends again and its report; the injectors, of which one whose counter has come to zero acts on the flit that it met:
it is held back, goes on by a station's retry, or is lost. A key that is not outstanding, or has not been sent, takes
no reply; one that is parked or answered BUSY has no timeout. It rests in part on choices of the model: log entries
82, 84, 87, 91, 93 and 142. -/
def Obligations.LinkEventResults : Prop :=
  (∀ s : State,
     (∀ r : RemoteReq, s.dev.st ≠ .ready → exec (.remoteRequest r) s = .next s) ∧
     (∀ r : RemoteReq, s.dev.st = .ready → r.key.rank ≠ s.ownRank →
       let came := s.comesIn (if r.kind = .retirement ∨ r.kind = .slotRelease then 3 else 0) r.key.rank
       let u := came.2
       let back (t : State) : State := t.modLink fun l => { l with
         turned := l.turned.filter (· != r), standing := l.standing.filter (· != r) }
       (came.1 = false → exec (.remoteRequest r) s = .next u) ∧
       (came.1 = true → r.mask ≠ 0#64 → exec (.remoteRequest r) s = .next (r.collLanes.foldl State.arriveKey u)) ∧
       (came.1 = true → r.mask = 0#64 → (u.link.parked.any (·.1 == r) = true ∨ u.passed r = true) →
         exec (.remoteRequest r) s = .next u) ∧
       (came.1 = true → r.mask = 0#64 → u.link.parked.any (·.1 == r) = false → u.passed r = false → u.heldUp r = false →
         (∀ a t, a ≠ .busy → u.serve r = .reply a t → exec (.remoteRequest r) s =
           .next ((((back t).say r.key a).hasRead (.col r.key)).takeSlots).poll) ∧
         (∀ t, u.serve r = .reply .busy t → exec (.remoteRequest r) s = .next ((back t).turnAway r).poll) ∧
         (∀ t, u.serve r = .silent t → exec (.remoteRequest r) s = .next ((back t).hasRead (.col r.key)).poll) ∧
         (∀ t, u.serve r = .wait t → exec (.remoteRequest r) s = .next (t.stand r)) ∧
         (∀ c a t, u.serve r = .park c a t → exec (.remoteRequest r) s =
           .next ((back t).park r fun t => t.notice c 0x30 a 0)))) ∧
     (∀ rank incarn ctx tag lo hi,
       let stays (e : CacheEntry) : Bool :=
         let v := e.key.serial.toNat
         !(e.key.rank == rank && e.key.incarn == incarn && bitsOf v 63 58 == ctx && bitsOf v 57 46 == tag &&
           decide (lo ≤ bitsOf v 45 24 ∧ bitsOf v 45 24 ≤ hi))
       let gone (s : State) : State := s.modLink fun l => { l with cache := l.cache.filter stays }
       let t := gone s
       ((rank ≠ s.ownRank ∨ incarn ≠ s.incarn) →
         let came := s.comesIn 3 rank
         (came.1 = false → exec (.retirementNotice rank incarn ctx tag lo hi) s = .next came.2) ∧
         (came.1 = true → exec (.retirementNotice rank incarn ctx tag lo hi) s = .next ((gone came.2).say
           ⟨rank, incarn, BitVec.ofNat 64 (ctx * 2 ^ 58 + tag * 2 ^ 46 + lo * 2 ^ 24), s.ownRank⟩ (.ack [] false)))) ∧
       (rank = s.ownRank → incarn = s.incarn → s.launch? ctx tag = none →
         exec (.retirementNotice rank incarn ctx tag lo hi) s = .next t) ∧
       (rank = s.ownRank → incarn = s.incarn → ∀ l, s.launch? ctx tag = some l →
         let first (g : Nat) : Nat := g * l.gang * l.waves
         let may := l.final || (List.range l.gangs.length).all fun g =>
           decide (hi < first g) || decide (first g + l.gang * l.waves ≤ lo) || (l.gangAt g).st == .done
         (may = false → exec (.retirementNotice rank incarn ctx tag lo hi) s = .next s) ∧
         (may = true → exec (.retirementNotice rank incarn ctx tag lo hi) s = .next
           ((List.range l.gangs.length).foldl (fun t g =>
             if lo ≤ first g && first g + l.gang * l.waves ≤ hi + 1 then
               t.gangAck (BitVec.ofNat 64 (ctx * 2 ^ 58 + tag * 2 ^ 46 + first g * 2 ^ 24)) rank
             else t) t).poll))) ∧
     (∀ ctx tag,
       (s.launch? ctx tag = none → exec (.retirementAck ctx tag) s = .next s) ∧
       (∀ l, s.launch? ctx tag = some l → (∀ g ∈ l.gangs, g.acks = []) → exec (.retirementAck ctx tag) s = .next s) ∧
       (∀ l, s.launch? ctx tag = some l → (∃ g ∈ l.gangs, g.acks ≠ []) →
         let stays (o : Outstanding) : Bool := !(o.req.kind == .retirement && o.req.tctx == ctx && o.req.vec == tag)
         let t := l.gangs.zipIdx.foldl (fun t g => if g.1.acks.contains t.ownRank then
           t.dropStream t.ownRank t.incarn ctx tag (g.2 * l.gang * l.waves) ((g.2 + 1) * l.gang * l.waves - 1) else t) s
         exec (.retirementAck ctx tag) s = .next ((t.modLink fun k => { k with out := k.out.filter stays }).modLaunch ctx tag
           fun l => { l with gangs := l.gangs.map fun g =>
             if g.acks.isEmpty then g else { g with acks := [], retired := true } }).poll)) ∧
     (let near := s.link.out.any fun o => o.req.kind == .slotRelease && o.req.target == s.ownRank
      let carried := near = true ∨ (List.range 24).any s.portUsable = true
      (∀ desc rel : DWord, (desc.toNat / 2 ^ 62 ≠ 1 ∨ bitsOf desc.toNat 61 45 ≠ s.ownRank ∨ ¬carried) →
       exec (.slotReleaseNotice desc rel) s = .next s) ∧
     (∀ (desc rel : DWord) (c va : Nat) (l : Loc) (n : Nat) (rest : List (Loc × Nat)) (t : State), carried →
       desc.toNat / 2 ^ 62 = 1 → bitsOf desc.toNat 61 45 = s.ownRank →
       let region := bitsOf desc.toNat 44 40
       let d := s.linkSlot (0x10000 + region)
       s.target (s.regionDie region (desc.toNat % 2 ^ 40)) (if pfield d 24 4 = 0 then 0 else pfield d 20 4) region
         (desc.toNat % 2 ^ 40) 64 3 .both = .ok c va ((l, n) :: rest) t →
       let t := t.meetErrors l 64
       exec (.slotReleaseNotice desc rel) s = .next ((t.setNatAt (l.plus 24) 8
         (max (t.natAt (l.plus 24) 8) rel.toNat)).afterWrite l).takeSlots.poll))) ∧
  (∀ s : State,
     (∀ (key : Key) (r : Reply), s.link.out.find? (·.req.key == key) = none → exec (.remoteReply key r) s = .next s) ∧
     (∀ (key : Key) (r : Reply) (o : Outstanding), s.link.out.find? (·.req.key == key) = some o →
       let may := (s.mayLandAt o.wave o.uid).1
       let landed := (s.mayLandAt o.wave o.uid).2
       let takes (t : State) : State :=
         let mark (f : Outstanding → Outstanding) : State :=
           let one (p : Outstanding) : Outstanding := if p.req.key == key then f p else p
           t.modLink fun l => { l with out := l.out.map one }
         match r with
         | .ack v p => (t.finalReply o v p false).poll
         | .duplicate v p => (t.finalReply o v p true).poll
         | .nack l => t.transmit key l.contains fun p => { p with sentAt := t.clk }
         | .parked => mark fun p => { p with parked := true }
         | .busy => mark fun p => { p with busyAt := some t.clk }
         | .stale => (t.failOut o .remoteIndeterminate key.serial).poll
         | .denied e => (t.failOut o .remoteDenied (BitVec.ofNat 64 e)).poll
       (may = false → exec (.remoteReply key r) s = .next landed) ∧
       (o.req.target ≠ s.ownRank → o.ways = [] → exec (.remoteReply key r) s = .next landed) ∧
       (may = true → o.req.target ≠ s.ownRank → o.ways ≠ [] →
         let came := landed.comesIn (match r with
           | .nack _ => 2
           | _ => 1) o.req.target
         (came.1 = false → exec (.remoteReply key r) s = .next came.2) ∧
         (came.1 = true → exec (.remoteReply key r) s = .next (takes came.2))) ∧
       (may = true → o.req.target = s.ownRank → ∀ i, s.link.replies.findIdx? (·.1 == key) = some i →
         s.link.replies[i]? = some (key, r) →
         exec (.remoteReply key r) s = .next (takes (landed.modLink fun l => { l with replies := l.replies.eraseIdx i })))) ∧
     (∀ (key : Key) (o : Outstanding), s.link.out.find? (·.req.key == key) = some o →
       let rto := 2000 * (if s.linkConfig 16 = 0 then 16 else s.linkConfig 16) * min 16 (2 ^ (o.tries - 1))
       let limit := if s.linkConfig 20 = 0 then 64 else s.linkConfig 20
       ((o.parked = true ∨ o.busyAt ≠ none ∨ s.clk < o.sentAt + rto) → exec (.retransmitTimeout key) s = .next s) ∧
       (o.parked = false → o.busyAt = none → o.sentAt + rto ≤ s.clk →
         (o.tries < limit → exec (.retransmitTimeout key) s = .next
           (s.transmit key (fun _ => true) fun p => { p with tries := p.tries + 1, sentAt := s.clk })) ∧
         (limit ≤ o.tries → o.req.kind ≠ .retirement →
           exec (.retransmitTimeout key) s = .next (s.failOut o .remoteIndeterminate key.serial).poll) ∧
         (limit ≤ o.tries → o.req.kind = .retirement → exec (.retransmitTimeout key) s = .next
           (((s.dropOut key).gangAck key.serial o.req.target).report 0x08 o.die o.die 0 o.req.target false).poll))) ∧
     (∀ key : Key,
       let due := s.link.out.any fun o => o.req.key == key && o.busyAt.any fun c => decide (c + 2000 ≤ s.clk)
       (due = true → exec (.busyResend key) s =
         .next (s.transmit key (fun _ => true) fun o => { o with busyAt := none, sentAt := s.clk })) ∧
       (due = false → exec (.busyResend key) s = .next s)) ∧
     (∀ (port : Nat) (st : PortState) (lanes : Nat),
       let may := s.dev.st = .ready ∧ s.dev.porten.testBit port = true ∧ ((st = .up ∧ lanes = 4) ∨
          (st = .degraded ∧ 1 ≤ lanes ∧ lanes ≤ 3) ∨ (st = .down ∧ lanes = 0) ∨ (st = .training ∧ lanes ≤ 4))
       ((s.link.ports[port]? = none ∨ ¬may) → exec (.portStateChange port st lanes) s = .next s) ∧
       (∀ old n, s.link.ports[port]? = some (old, n) → may →
         let t := s.modLink fun l => { l with ports := updAt port (fun _ => (st, lanes)) l.ports }
         let leaves := s.link.out.filter fun o => o.route.pod && o.ways.any (·.2.1 == port)
         let u := if t.portUsable port then t
           else leaves.foldl (fun u o => u.transmit o.req.key (fun _ => true) fun q => { q with sentAt := u.clk }) t
         exec (.portStateChange port st lanes) s = .next
           (if lanes ≠ n ∨ (old = .down ∧ st ≠ .down) ∨ (old ≠ .down ∧ st = .down)
             then u.report 0x07 (if port < 16 then port / 8 else (port - 16) / 4) (4 * port) 0
               ((Config.portCode st).toNat + 256 * lanes) false else u))) ∧
     (∀ lane (j : Injector), s.link.injectors[lane]? = some j →
       let set (k : Injector) : State := s.modLink fun l => { l with injectors := updAt lane (fun _ => k) l.injectors }
       (j.hit = none → exec (.injectorTrigger lane) s = .next s) ∧
       (∀ f, j.hit = some f →
         let k : Injector := { j with hit := none, late := if j.mode = 3 then j.late ++ [f] else j.late }
         let k : Injector := if j.repeats then { k with count := j.n } else { k with mode := 0, count := 0 }
         exec (.injectorTrigger lane) s = .next (if j.mode ≠ 3 ∧ lane < 64 then (set k).passFlit f else set k)) ∧
       (j.late = [] → exec (.injectorDelayEnd lane) s = .next s) ∧
       (∀ f rest, j.late = f :: rest →
         exec (.injectorDelayEnd lane) s = .next ((set { j with late := rest }).passFlit f))) ∧
     (∀ (key : Key) (r : Reply) (no : Nat) (way : Nat × Nat),
       s.passFlit (.reply key r) = (s.modLink fun l => { l with replies := l.replies ++ [(key, r)] }) ∧
       s.passFlit .received = s ∧ s.passFlit (.packet key no way) = s.modLink fun l => { l with
         out := l.out.map fun o => if o.req.key == key then { o with ways := o.ways.filter (·.1 != no) ++ [(no, way)] } else o }))

/-- R341, R342, R345 to R349: BSYNC holds its wave's arrival once a phase and waits for the phase; one issued again
after its phase has completed goes on, two clocks after the last arrival at the earliest. BAR init and arrive are held
back for the cell's home; expect adds to the pending-byte counter at issue or traps COUNT_OVERFLOW; wait holds its
split for the phase, test gives whether it has completed and then acquires. A poisoned operand, or a poisoned cell
that expect or test reads, is POISON; where the cell's home is not ready expect and test stall. R344, R346, R348,
R349: at the home of a barrier cell, when a request's turn there has come, the phases of a cell that only stores have
set up are completed, and then init sets EXPECTED to the larger of 1 and its operand and clears the rest, arrive adds
one to ARRIVED and gives the phase it found, and an expect adds to the pending-byte counter; a poisoned cell ends the
instruction with POISON. The phases that are due complete: PHASE rises by their number and ARRIVED keeps the rest,
once no byte is pending. Bytes fed are taken from the pending ones. It rests in part on choices of the model: log
entries 15 and 97. -/
def Obligations.BarrierResults : Prop :=
  (∀ (s : State) (x : Iss),
     (∀ (g : Gen) (b : Block), Issues (.bsync g) s x → s.block? x.w.block = some b →
       let waits (w : Wave) (phase : Nat) : State := (x.finish (.wait (s.putWave w)
         { kind := .bsync phase, loc := ⟨.dev, 0⟩, va := 0, acq := some .block, lanes := x.act, op := 0x7D, sub := 0,
           len := x.len, uid := x.no, marks := [] })).poll
       let mine := x.w.held.any fun h => match h.effect with
         | .bsync => true
         | _ => false
       (b.phase ≤ x.w.bphase → exec (.bsync g) s =
         .next (waits (if mine ∨ x.w.wid ∈ b.arrived then x.w else x.w.hold x.no x.clk 0 .bsync) b.phase)) ∧
       (x.w.bphase < b.phase → b.lastArrive + 2 ≤ s.clk + 1 →
         exec (.bsync g) s = .next (x.leaves { x.w with bphase := x.w.bphase + 1 }).poll) ∧
       (x.w.bphase < b.phase → s.clk + 1 < b.lastArrive + 2 → exec (.bsync g) s = .next (waits x.w x.w.bphase))) ∧
     (∀ (m : Mem) (s' : State) (k : Nat) (l : Loc),
       let c := x.reg m.c 0 x.first
       let a := (x.addr m x.first).bits
       let mark : Piece := { lane := x.first, loc := l, size := 0, row := a.toNat, fwd := [], done := true }
       let poison (t : State) : State := x.finish (.due t ⟨.poison, laneSet [x.first], a, none⟩)
       (Issues (.barInit m) s x → x.cellAt m 32 .both barClass = .ok s' [(k, .mem l)] →
         (c.poison = true → exec (.barInit m) s = .next (poison s')) ∧
         (c.poison = false →
           let op : Op := { x.opOf .store with pieces := [mark] }
           exec (.barInit m) s = .next (x.complete (s'.putWave (x.holdCell { x.w with ops := x.w.ops ++ [op] }
             (.bar (.init c.bits.toNat) l (x.relOf m)))) true))) ∧
       (Issues (.barArrive m) s x → x.cellAt m 32 .both barClass = .ok s' [(k, .mem l)] →
         let wo := x.w.addDests x { x.opOf .value with pieces := [mark] } m.d 1
         exec (.barArrive m) s = .next (x.complete (s'.putWave (x.holdCell { wo.1 with ops := wo.1.ops ++ [wo.2] }
           (.bar .arrive l (x.relOf m)))) true)) ∧
       (Issues (.barExpect m) s x → x.cellAt m 32 .both barClass = .ok s' [(k, .mem l)] →
         (c.poison = true → exec (.barExpect m) s = .next (poison s').poll) ∧
         (∀ t, c.poison = false → x.cellNeeds s' l = some t → exec (.barExpect m) s = .next (x.finish (.stall t)).poll) ∧
         (c.poison = false → x.cellNeeds s' l = none →
           let r := s'.homeRead l 32
           let n := r.2.natAt (l.plus 12) 4 + c.bits.toNat
           (anyPoison r.1 = true → exec (.barExpect m) s = .next (poison r.2).poll) ∧
           (anyPoison r.1 = false → n < 2 ^ 32 → exec (.barExpect m) s =
             .next (x.complete ((((r.2.meetCell l).setNatAt (l.plus 12) 4 n).afterWrite l).modWave x.w.id fun w =>
               w.hold x.no x.clk 0 (.expected l c.bits.toNat)) true).poll) ∧
           (anyPoison r.1 = false → 2 ^ 32 ≤ n → exec (.barExpect m) s = .next (x.finish (.trap r.2
             ⟨.countOverflow, laneSet [x.first], a, some 1⟩)).poll))) ∧
       (Issues (.barWait m) s x → x.cellAt m 32 .read barClass = .ok s' [(k, .mem l)] →
         (c.poison = true → exec (.barWait m) s = .next (poison s').poll) ∧
         (c.poison = false → exec (.barWait m) s =
           .next (x.finish (.wait (s'.surrenderLine x.w.core l.frameLine (0, 0))
             { kind := .cell c.bits.toNat, loc := l, va := a.toNat, acq := m.acq, lanes := x.act, op := 0x7E, sub := 3,
               len := x.len, uid := x.no, marks := [] })).poll)) ∧
       (Issues (.barTest m) s x → x.cellAt m 32 .read barClass = .ok s' [(k, .mem l)] →
         (c.poison = true → exec (.barTest m) s = .next (poison s')) ∧
         (∀ t, c.poison = false → x.cellNeeds s' l = some t → exec (.barTest m) s = .next (x.finish (.stall t))) ∧
         (c.poison = false → x.cellNeeds s' l = none →
           let r := s'.homeRead l 32
           let u := r.2.meetCell l
           let done := phaseDone (u.natAt l 4) c.bits.toNat
           let t := u.putWave (x.put x.w m.d 0 x.act fun _ => ⟨if done then 1 else 0, false⟩)
           (anyPoison r.1 = true → exec (.barTest m) s = .next (poison r.2)) ∧
           (anyPoison r.1 = false →
             exec (.barTest m) s = .next (x.complete (if done then t.acquire x.w m.acq else t) true)))))) ∧
  (∀ (s : State),
     (∀ (m : Msg) (r : BarReq) (l : Loc) (core : Nat) (release : Option (Nat × Bool)) (t0 : State), s.msg? m.id = some m →
       m.kind = .barReq r l core release →
       s.msgs.any (fun k => decide (k.id < m.id) && k.wave == m.wave && (match k.kind with
         | .barReq _ c _ _ => overlaps c 32 l 32
         | _ => false)) = false → s.ownsLine l = true → s.homeTurn m l 32 core release true = (true, t0) →
       let t := (t0.homeRead l 32).2
       let op := (t.wave? m.wave).bind (·.op? m.uid)
       (∀ o, anyPoison (t0.homeRead l 32).1 = true → op = some o →
         exec (.barrierCellRequest m.id) s = .next (((t.dropMsg m.id).reportOp m.wave o ⟨.poison, laneSet [lowest o.lanes],
           BitVec.ofNat 64 ((o.pieces.head?).elim 0 (·.row)), none⟩).modWave m.wave fun w =>
             w.finishOp m.uid (t.dropMsg m.id).clk).poll) ∧
       (anyPoison (t0.homeRead l 32).1 = false →
         let u := t.meetCell l
         let v := match r with
           | .init n => ((u.setNatAt (l.plus 4) 4 (max 1 n)).setNatAt (l.plus 8) 4 0).setNatAt (l.plus 12) 4 0
           | .arrive => u.setNatAt (l.plus 8) 4 ((u.natAt (l.plus 8) 4 + 1) % 2 ^ 32)
           | .expect n => u.setNatAt (l.plus 12) 4 ((u.natAt (l.plus 12) 4 + n) % 2 ^ 32)
         let v := (v.recordRelease l core release).afterWrite l
         (∀ o, r = .arrive → op = some o → exec (.barrierCellRequest m.id) s = .next (v.modMsg m.id fun _ =>
           .values ((lanesOf o.lanes).map fun i => (i, ⟨BitVec.ofNat 64 (u.natAt l 4), false⟩))).poll) ∧
         ((r ≠ .arrive ∨ op = none) →
           exec (.barrierCellRequest m.id) s = .next ((v.dropMsg m.id).settleOp m.wave m.uid).poll))) ∧
     (∀ cell : Loc, (∀ b, cell.sp = .scratch b → (s.block? b).isSome = true) →
       let phase := s.natAt cell 4
       let expected := s.natAt (cell.plus 4) 4
       let arrived := s.natAt (cell.plus 8) 4
       let t := s.completeCell cell
       (s.natAt (cell.plus 12) 4 ≠ 0 ∨ arrived < expected → t = s) ∧
       (s.natAt (cell.plus 12) 4 = 0 → 0 < expected → expected ≤ arrived →
         t.natAt cell 4 = (phase + arrived / expected) % 2 ^ 32 ∧ t.natAt (cell.plus 8) 4 = arrived % expected ∧
         t.natAt (cell.plus 4) 4 = expected ∧ t.natAt (cell.plus 12) 4 = 0 ∧
         (∀ a, (a < cell.addr ∨ cell.addr + 12 ≤ a ∨ (cell.addr + 4 ≤ a ∧ a < cell.addr + 8)) →
           (t.memOf cell.sp).get a = (s.memOf cell.sp).get a)) ∧
       (∀ n, n ≤ (s.meetCell cell).natAt (cell.plus 12) 4 → s.feedCell cell n = some (((s.meetCell cell).setNatAt (cell.plus 12)
         4 ((s.meetCell cell).natAt (cell.plus 12) 4 - n)).completeCell cell)) ∧
       (∀ n, (s.meetCell cell).natAt (cell.plus 12) 4 < n → s.feedCell cell n = none)))

/-- R350, R351, R353, R354: CPOST holds its total back with the sequence value it takes, and a poisoned one is POISON;
CPEEK asks its cell, its split waiting inside it where it has no lookahead. R350 to R352: a post whose turn at its
cell's home has come posts TOTAL to an Empty cell, folds a Carried one and is counted as a duplicate by a Posted or
Done one; a forward that reaches its successor carries an Empty cell, folds a Posted one and is counted as a duplicate
by a Carried or Done one; a Poisoned cell counts a post of its OP and a clean forward. A poisoned or reserved cell, a
post of another OP and a poisoned forward make the cell Poisoned. A fold writes OUT, adds one to GEN and forwards; a
cell that becomes Poisoned before it was Done forwards poison. A forward to a page its tables do not permit makes its
cell Poisoned with notice 0x20, code 3. It rests in part on choices of the model: log entry 98. -/
def Obligations.CarryResults : Prop :=
  (∀ (s s' : State) (x : Iss) (m : Mem) (k : Nat) (l : Loc),
     (Issues (.cpost m) s x → x.cellAt m 64 .both (x.carryNamed m) = .ok s' [(k, .mem l)] →
       let d := x.dataOf m.c m.size.bytes x.first
       (anyPoison d = true → exec (.cpost m) s = .next (x.finish (.due s'
         ⟨.poison, laneSet [x.first], (x.addr m x.first).bits, none⟩))) ∧
       (anyPoison d = false → x.w.seq < 2 ^ 24 →
         let w : Wave := { x.w with ops := x.w.ops ++ [x.opOf .store], seq := x.w.seq + 1 }
         exec (.cpost m) s = .next (x.complete (s'.putWave (x.holdCell w (.post (x.carryAt s' m l) (m.sub.toNat % 16)
           (BitVec.ofNat 64 (pvalue d)) (x.w.serial x.w.seq) (x.relOf m)))) true))) ∧
     (let peek (i : Instr) (out : Bool) : Prop := Issues i s x →
       x.cellAt m 64 .read (x.carryNamed m) = .ok s' [(k, .mem l)] →
       let c := x.carryAt s' m l
       let n := m.size.bytes
       let p : Piece := { lane := x.first, loc := l, size := n, row := 0, fwd := [], done := false }
       let wo := x.w.addDests x { x.opOf (.cpeek out c.ctx c.va) with acq := m.acq, pieces := [p] } m.d m.size.regs
       let t := (s'.putWave { wo.1 with ops := wo.1.ops ++ [wo.2] }).surrenderLine x.w.core l.frameLine (0, 0)
       (wo.2.left = 0 → exec i s = .next (x.finish (.wait t
         { kind := .carry out n, loc := l, va := (x.addr m x.first).bits.toNat, acq := none, lanes := x.act, op := 0x76,
           sub := if out then 1 else 0, len := x.len, uid := x.uid, marks := [] })).poll) ∧
       (wo.2.left ≠ 0 → exec i s = .next (x.complete t true).poll)
      peek (.cpeek m) false ∧ peek (.cpeekOut m) true)) ∧
  (∀ (s : State),
     (∀ (m : Msg), s.msg? m.id = some m →
       (∀ c opc total serial t, m.kind = .post c opc total serial → s.ownsLine c.loc = true →
         s.homeTurn m c.loc 64 ((s.wave? m.wave).elim 0 (·.core)) none true = (true, t) → exec (.carryPost m.id) s = .next
           ((((t.dropMsg m.id).carryPosted c m.wave m.uid opc total serial).afterWrite c.loc).settleOp m.wave m.uid).poll) ∧
       (∀ src dst v p n, m.kind = .forward src dst v p n →
         let there := s.translate none (s.sliceOf src.loc / 32) src.ctx dst .both
         (∀ l t, there = .ok l t → t.ownsLine l = true → t.homeNeeds l 64 none true = none →
           exec (.carryForward m.id) s = .next (((t.dropMsg m.id).carryArrives ⟨l, src.ctx, dst⟩ v p).afterWrite l).poll) ∧
         (∀ f t, there = .fault f t → f.cause = .protection → exec (.carryForward m.id) s =
           .next (((t.dropMsg m.id).setNatAt src.loc 1 4).notice src.ctx 0x20 src.va 3)) ∧
         (∀ f t, there = .fault f t → f.cause ≠ .protection → exec (.carryForward m.id) s = .next t))) ∧
     (∀ (c : CarryAt) (wave uid opc : Nat) (total serial v : DWord) (poison : Bool),
       let t := (s.homeRead c.loc 64).2
       let kept := t.modHomes fun h => { h with posts := h.posts.filter (·.1 != c.loc) ++ [(c.loc, serial)] }
       let st := t.carryState c
       let worse (poison : Bool) : Bool :=
         st ≠ 4 && (poison || 5 ≤ st || 12 ≤ t.carryOp c)
       let bad := worse (anyPoison (s.homeRead c.loc 64).1)
       let n (op : Nat) : Nat := if op = 11 then 8 else 4
       let count := t.setNatAt (c.loc.plus 40) 4 (min (t.natAt (c.loc.plus 40) 4 + 1) (2 ^ 32 - 1))
       let post := s.carryPosted c wave uid opc total serial
       let arrive := s.carryArrives c v poison
       ((bad = true ∨ (st ≠ 4 ∧ t.carryOp c ≠ opc)) →
         post = (if st = 3 then t else kept).carryPoisoned c (some (wave, uid))) ∧
       (bad = false → (st = 4 ∨ t.carryOp c = opc) →
         (st = 0 → post = ((kept.setNatAt (c.loc.plus 24) (n opc) (total.toNat % 2 ^ (8 * n opc))).setNatAt c.loc 1 2)) ∧
         (st = 1 → post = (kept.setNatAt (c.loc.plus 24) (n opc) (total.toNat % 2 ^ (8 * n opc))).carryFold c wave uid) ∧
         ((st = 2 ∨ st = 3) → post = count) ∧
         (st = 4 → post = if t.carryOp c = opc then count else t)) ∧
       ((bad = true ∨ (st ≠ 4 ∧ poison = true)) → arrive = t.carryPoisoned c none) ∧
       (bad = false → (st = 4 ∨ poison = false) →
         let m := n (t.carryOp c)
         (st = 0 → arrive = (t.setNatAt (c.loc.plus 16) m (v.toNat % 2 ^ (8 * m))).setNatAt c.loc 1 1) ∧
         (st = 2 → arrive = (t.setNatAt (c.loc.plus 16) m (v.toNat % 2 ^ (8 * m))).carryFold c 0 0) ∧
         ((st = 1 ∨ st = 3) → arrive = count) ∧
         (st = 4 → arrive = if poison then t else count))) ∧
     (∀ (c : CarryAt) (wave uid : Nat) (by_ : Option (Nat × Nat)),
       let op := s.carryOp c
       let n := if op = 11 then 8 else 4
       let v := (scanOp op .home (s.natAt (c.loc.plus 16) n) (s.natAt (c.loc.plus 24) n)).1
       let t := (s.setNatAt (c.loc.plus 32) n v).setNatAt c.loc 1 3
       s.carryFold c wave uid = (t.setNatAt (c.loc.plus 4) 4 ((t.natAt (c.loc.plus 4) 4 + 1) % 2 ^ 32)).carryForwardFrom c wave
         uid (BitVec.ofNat 64 v) false ∧
       (s.carryState c = 4 → s.carryPoisoned c by_ = s) ∧
       (s.carryState c = 3 → s.carryPoisoned c by_ = s.setNatAt c.loc 1 4) ∧
       (s.carryState c ≠ 4 → s.carryState c ≠ 3 → s.carryPoisoned c by_ =
         (s.setNatAt c.loc 1 4).carryForwardFrom c (by_.elim 0 (·.1)) (by_.elim 0 (·.2)) 0 true)))

/-- R330 to R338: GJOIN, GLEAVE and GRED whose area is reached and ready, with the group traps of their checks in
order; their requests are held back; a request at the home is performed, held or refused to be sent again after 64
clocks; a round's result is written in the contributor's lanes, R202's ε in those that gave nothing. An address or a
page that fails its checks traps, and an area that is not ready stalls. R330, R331, R333: what the home of a group
does with a join or a leave: it is held while a round is open; the first join makes the group Idle with its OWNER;
members stand in rising order; a leave takes its member out, the last one freeing the group, and a member that has
ended takes the contributions with it that wait for later rounds. It rests in part on choices of the model: log
entries 95, 96, 165 and 171. -/
def Obligations.GroupResults : Prop :=
  (∀ (s : State),
     (∀ (g : Gen) (x : Iss) (t : State) (h : GroupHold) (va : Nat),
       let a := x.a64 g x.first
       let trap (s : State) (e : Nat) : State :=
         x.finish (.trap s ⟨.group, laneSet [x.first], a.bits, some (BitVec.ofNat 64 e)⟩)
       let held (s : State) (w : Wave) (r : GroupReq) : State :=
         x.complete (s.putWave (w.hold x.no x.clk x.uid (.groupReq r h.loc va))) true
       (∀ r, x.areaAt a = .fail r →
         (Issues (.gjoin g) s x → exec (.gjoin g) s = .next (x.finish r)) ∧
         (Issues (.gleave g) s x → exec (.gleave g) s = .next (x.finish r)) ∧
         (Issues (.gred g) s x → exec (.gred g) s = .next (x.finish r))) ∧
       (Issues (.gjoin g) s x → x.areaAt a = .ok t h va →
         (some va ∈ x.w.groupSlots → exec (.gjoin g) s = .next (trap t 1)) ∧
         (some va ∉ x.w.groupSlots → none ∉ x.w.groupSlots → exec (.gjoin g) s = .next (trap t 6)) ∧
         (∀ u, some va ∉ x.w.groupSlots → none ∈ x.w.groupSlots → x.areaReady t h = some u →
           exec (.gjoin g) s = .next (x.finish (.stall u))) ∧
         (some va ∉ x.w.groupSlots → none ∈ x.w.groupSlots → x.areaReady t h = none →
           let st := t.groupState h
           let other := st = 3 ∨ (st ≠ 0 ∧ t.groupOwned h x.w = false)
           let full := 4096 ≤ t.areaNat h 4 4 + t.joinsReserved h.loc
           (other → exec (.gjoin g) s = .next (trap t 4)) ∧ (¬other → full → exec (.gjoin g) s = .next (trap t 5)) ∧
           (¬other → ¬full → exec (.gjoin g) s = .next (held t x.w .join)))) ∧
       (Issues (.gleave g) s x → x.areaAt a = .ok t h va →
         (some va ∉ x.w.groupSlots → exec (.gleave g) s = .next (trap t 2)) ∧
         (∀ u, some va ∈ x.w.groupSlots → x.areaReady t h = some u → exec (.gleave g) s = .next (x.finish (.stall u))) ∧
         (some va ∈ x.w.groupSlots → x.areaReady t h = none →
           let owes := t.groupState h = 2 ∧ (t.memberIndex h x.w).isSome = true ∧
             h.folded.any (·.1 == x.w.id) = false ∧ h.contrib.any (·.1 == x.w.id) = false ∧
             t.gredUnderway x.w h.loc = false
           (owes → exec (.gleave g) s = .next (trap t 3)) ∧
           (¬owes → exec (.gleave g) s = .next (held t x.w .leave)))) ∧
       (Issues (.gred g) s x → x.areaAt a = .ok t h va →
         (some va ∉ x.w.groupSlots → exec (.gred g) s = .next (trap t 2)) ∧
         (some va ∈ x.w.groupSlots →
           let sub := g.sub.toNat % 16
           let b := x.bW g (decide (sub = 11)) .zero
           let bad := x.lanesWhere fun l => (b l).poison
           (bad ≠ 0#64 → exec (.gred g) s = .next (x.finish (.due t ⟨.poison, bad, a.bits, none⟩))) ∧
           (bad = 0#64 →
             let vals := (List.range x.width).map fun l => if hasLane x.act l then some (b l).bits else none
             let mark : Piece := { lane := x.first, loc := h.loc, size := 0, row := 0, fwd := [], done := false }
             let wo := x.w.addDests x { x.opOf .value with pieces := [mark] } g.d (if sub = 11 then 2 else 1)
             exec (.gred g) s = .next (held t { wo.1 with ops := wo.1.ops ++ [wo.2] } (.gred sub vals)))))) ∧
     (∀ (m : Msg) (r : GroupReq) (loc : Loc) (core : Nat) (release : Option Nat) (h : GroupHold) (w : Wave),
       let t := s.pollGroups
       s.msg? m.id = some m → m.kind = .groupReq r loc core release none → t.group? loc = some h → t.wave? m.wave = some w →
       t.msgs.any (fun k => decide (k.id < m.id) && k.wave == m.wave && (match k.kind with
         | .groupReq _ l _ _ _ => l == loc
         | _ => false)) = false →
       (∀ u, t.areaNeeds h (some core) = some u → exec (.groupRequest m.id) s = .next u) ∧
       (∀ sub vals u ok, t.areaNeeds h (some core) = none → r = .gred sub vals →
         t.homeTurn m loc 128 core (release.map (·, true)) true = (ok, u) →
         (ok = false → exec (.groupRequest m.id) s = .next u) ∧
         (∀ z, ok = true → u.groupContribute h w m.uid sub vals = some z → exec (.groupRequest m.id) s =
           .next ((z.dropMsg m.id).recordRelease loc core (release.map (·, true))).poll) ∧
         (ok = true → u.groupContribute h w m.uid sub vals = none → exec (.groupRequest m.id) s =
           .next (u.modMsg m.id fun _ => .groupReq r loc core release (some u.clk)))) ∧
       (t.areaNeeds h (some core) = none → (r = .join ∨ r = .leave) →
         exec (.groupRequest m.id) s = .next ((t.dropMsg m.id).groupMember h w r).poll)) ∧
     (∀ msg, exec (.gredResend msg) s = .next (s.modMsg msg fun k => match k with
       | .groupReq r l c e (some t) => if t + 64 ≤ s.clk then .groupReq r l c e none else k
       | k => k)) ∧
     (∀ (m : Msg) (loc : Loc) (vals : List (Option DWord)) (p : Lanes) (sub : Nat) (w : Wave) (o : Op),
       s.msg? m.id = some m → m.kind = .groupResult loc vals p sub → s.wave? m.wave = some w →
       s.homeNeeds loc 128 (some w.core) true = none →
       let t := (s.dropMsg m.id).acquireInval w.core w.ctx
       w.op? m.uid = some o →
       let v (i : Nat) : Val64 := ⟨match vals[i]? with
         | some (some v) => v
         | _ => BitVec.ofNat 64 (scanEps sub), hasLane p i⟩
       exec (.gredResult m.id) s = .next (t.modWave w.id fun w =>
         ((lanesOf o.lanes).foldl (fun w i => (w.deliver o 0 i (v i).lo).deliver o 1 i (v i).hi) w).finishOp m.uid
           t.clk).poll)) ∧
  (∀ (s : State) (h : GroupHold) (w : Wave) (r : GroupReq),
     (s.groupState h = 2 → s.groupMember h w r = s.modGroup h.loc fun g => { g with queue := g.queue ++ [(w.id, r)] }) ∧
     (s.groupState h ≠ 2 → w.st ≠ .ended → s.groupState h ≠ 0 → s.groupMember h w .join =
       s.setMembers h (insertNat w.grid (s.groupMembers h))) ∧
     (s.groupState h = 0 → w.st ≠ .ended →
       let t := (s.setArea h 0 4 1).setArea h 8 4 (w.ctx % 64 + 64 * (w.tag % 4096))
       s.groupMember h w .join = t.setMembers h (insertNat w.grid (t.groupMembers h))) ∧
     (s.groupState h ≠ 2 → s.memberIndex h w = none → s.groupMember h w .leave = s) ∧
     (∀ i, s.groupState h ≠ 2 → s.memberIndex h w = some i →
       let left := (s.groupMembers h).filter (· != w.grid)
       let t := if w.st = .ended then s.modGroup h.loc fun g => { g with contrib := g.contrib.filter (·.1 != w.id) } else s
       s.groupMember h w .leave = if left = [] then t.freeGroup h else t.setMembers h left))

/-- R404 to R410, R415: UINT holds back one send for each lane, in lane order, those to a rank taking one sequence
value; UICTL mask, unmask and ack are held back for the page's home and query reads the record, once its home is
ready; a poisoned payload, or a rank that is none, traps. R401 to R404, R407, R414: a send to a context that is alive,
whose page is reached and whose record for the vector allows the sender, raises an enabled vector's COUNT by one up to
0xFFFF and puts the payload in its record; one that finds COUNT 0 stamps the record, and raises the notice of R414
where it is due; a vector that is not enabled discards it. A context that is not alive refuses it with 1, a page
without permission with 6, a sender not allowed with 7; it waits for an absent page. It rests in part on choices of
the model: log entries 49, 103 and 163. -/
def Obligations.InterruptResults : Prop :=
  (∀ (g : Gen) (s : State) (x : Iss),
     (Issues (.uint g) s x →
       let t (l : Nat) : Nat := (x.b32 g l).bits.toNat
       let far (l : Nat) : Bool := (t l).testBit 29
       let ctx (l : Nat) : Nat := if bitsOf (t l) 11 6 = 0 then x.w.ctx else bitsOf (t l) 11 6
       (∀ f, x.fails (fun l => if (x.a64 g l).poison then some ⟨.poison, 0, none⟩
         else if far l && !(s.rankOk (bitsOf (t l) 28 12)) then some ⟨.address, 0, some 3⟩ else none) = some f →
         exec (.uint g) s = .next (x.finish (x.failWith s f))) ∧
       ((∀ l ∈ x.lanes, (x.a64 g l).poison = false ∧ (far l = true → s.rankOk (bitsOf (t l) 28 12) = true)) →
         (x.lanes.any far = true → x.w.seq < 2 ^ 24) →
         let one (w : Wave) (l : Nat) : Wave := w.hold x.no x.clk 0 (if far l then
             let rank := bitsOf (t l) 28 12
             .interruptTo { x.request s .interrupt l rank 0 0 8 0 .release (if s.rankKind rank = 1 then .pod else .job)
               (leBytes 8 (x.a64 g l).bits.toNat) with tctx := ctx l, vec := t l % 64 } x.pc
           else .interrupt (ctx l) (t l % 64) (x.a64 g l).bits l x.pc)
         exec (.uint g) s = .next (x.complete (s.putWave (x.takeSeq (x.lanes.foldl one x.w) (x.lanes.any far))) true))) ∧
     (∀ (s' : State) (l : Loc),
       let b := x.b32 g x.first
       let va := (s.ctx x.w.ctx).uipage + 16 * (b.bits.toNat % 64)
       let held (op : Nat) : State := x.complete (s'.putWave (x.w.hold x.no x.clk 0 (.uictl op l))) true
       (s.laneAt x.w x.w.ctx va va .both = .ok l s' →
         (Issues (.uictlMask g) s x → exec (.uictlMask g) s = .next (held 0)) ∧
         (Issues (.uictlUnmask g) s x → exec (.uictlUnmask g) s = .next (held 1)) ∧
         (Issues (.uictlAck g) s x →
           let wo := x.w.addDests x { x.opOf .value with acq := some .job } g.d 3
           exec (.uictlAck g) s = .next (x.complete (s'.putWave
             (({ wo.1 with ops := wo.1.ops ++ [wo.2] } : Wave).hold x.no x.clk x.uid (.uictl 2 l))) true))) ∧
       (s.laneAt x.w x.w.ctx va va .both = .ok l s' → Issues (.uictlQuery g) s x →
         let t := s'.surrenderLine x.w.core l.frameLine (0, 0)
         s'.homeOpPending x.w x.no l 16 = false → x.w.holdsStore x.no l 16 = false →
         t.writebackPending x.w.core (fun k _ => k == l.frameLine) = false → t.homeNeeds l 16 (some x.w.core) true = none →
         let r := t.homeRead l 16
         let v := r.2.vectorAt l
         let p := anyPoison r.1
         let w := x.put (x.putPair x.w g.d x.act fun _ => ⟨BitVec.ofNat 64 v.payload, p⟩) g.d 2 x.act fun _ =>
           ⟨BitVec.ofNat 32 (v.count + 65536 * (v.ctl % 8)), p⟩
         exec (.uictlQuery g) s = .next (x.complete ((r.2.putWave w).acquireInval x.w.core x.w.ctx) true)))) ∧
  (∀ (s : State) (ctx vec : Nat) (payload : DWord) (who : Sender),
     ((64 ≤ ctx ∨ (s.ctx ctx).st.alive = false) → s.sendVector ctx vec payload who = .refused 1 s) ∧
     (ctx < 64 → (s.ctx ctx).st.alive = true →
       (∀ t, s.reachPage ctx = .stall t → s.sendVector ctx vec payload who = .wait t) ∧
       (∀ f t, s.reachPage ctx = .fault f t →
         s.sendVector ctx vec payload who = if f.cause = .protection then .refused 6 t else .absent t) ∧
       (∀ page t0, s.reachPage ctx = .ok page t0 →
         let t := t0.meetErrors page 0x1800
         let l := page.plus (16 * vec)
         let v := t.vectorAt l
         (t.senderAllowed page vec who = false → s.sendVector ctx vec payload who = .refused 7 t) ∧
         (t.senderAllowed page vec who = true → v.enabled = false → s.sendVector ctx vec payload who = .done t) ∧
         (t.senderAllowed page vec who = true → v.enabled = true →
           let u := ((t.modCtx ctx fun c => { c with sendNo := (c.sendNo + 1) % 2 ^ 32 }).setNatAt l 2
             (min (v.count + 1) 0xFFFF)).setNatAt (l.plus 8) 8 payload.toNat
           (v.count ≠ 0 → s.sendVector ctx vec payload who = .done (u.afterWrite l)) ∧
           (v.count = 0 → s.sendVector ctx vec payload who =
             .done (((u.setNatAt (l.plus 4) 4 (t.ctx ctx).sendNo).wakeCheck ctx vec l).afterWrite l))))))

/-- R305, R404, R407, R409, R415: a send that arrives at its page, and that no earlier one of its source precedes, is
performed, waits for the page, or is refused, which is reported to the wave that sent it, or, of a rank or the host,
is an event of the context. A UICTL whose turn has come masks or unmasks its vector, or acknowledges it: COUNT becomes
0 and the wave takes the record as an acquire. A send of the host is performed with its write, or waits behind those
before it, or for the page. A poisoned write of the host is reported and one that is no whole write is discarded. R411
to R413: the oldest pending vector diverts the handler wave, when nothing keeps it, to HENTRY in a new window of 32
names with v0 the vector, with its predicates clear and its mode words as at a start; UIRET gives back what the
diversion saved, and traps outside a handler window or with splits away. It rests in part on choices of the model: log
entries 100 and 101. -/
def Obligations.InterruptDeliveryResults : Prop :=
  (∀ s : State,
     let earlier (s : State) (id wave : Nat) : Bool := s.msgs.any fun k => decide (k.id < id) && k.wave == wave &&
       (match k.kind with
         | .interrupt _ _ _ _ _ _ => true
         | _ => false)
     let arrived (m : Msg) (src lane : Nat) (ipc : DWord) (c : Nat) (sent : Sent) : State := match sent with
       | .done t => t.dropMsg m.id
       | .wait t => t
       | .absent t => t.parkNotice m.id c (t.ctx c).uipage
       | .refused e t => if src < 64 then (t.dropMsg m.id).modWave m.wave fun w => { w with due := w.due ++
           [⟨⟨.remoteDenied, .reported, laneSet [lane], 0, BitVec.ofNat 64 e⟩, 0#64, ipc, m.no, (t.dropMsg m.id).clk⟩] }
         else (t.dropMsg m.id).event c 0 ⟨0x13, 5, 2, 0xFFFFFFFF, 0, 0, 0⟩
     (∀ (m : Msg) (c v : Nat) (payload : DWord) (src lane : Nat) (ipc : DWord), s.msg? m.id = some m →
       m.kind = .interrupt c v payload src lane ipc →
       (earlier s m.id m.wave = true → exec (.interruptSend m.id) s = .next s.poll) ∧
       (earlier s m.id m.wave = false → exec (.interruptSend m.id) s = .next (arrived m src lane ipc c
         (s.sendVector c v payload (if src < 64 then .wave src else .host))).poll)) ∧
     (∀ (m : Msg) (op : Nat) (l : Loc) (t : State), s.msg? m.id = some m → m.kind = .uictl op l →
       s.msgs.any (fun k => decide (k.id < m.id) && k.wave == m.wave && (match k.kind with
         | .uictl _ k => k == l
         | _ => false)) = false → s.homeTurn m l 16 ((s.wave? m.wave).elim 0 (·.core)) none true = (true, t) →
       let u := (t.homeRead l 16).2
       let p := anyPoison (t.homeRead l 16).1
       let v := u.vectorAt l
       let vec := l.addr % 1024 / 16
       (op = 0 → exec (.interruptSend m.id) s =
         .next (((u.setNatAt (l.plus 2) 1 (v.ctl ||| 2)).afterWrite l).dropMsg m.id).poll) ∧
       (op = 1 →
         let z := u.setNatAt (l.plus 2) 1 (v.ctl &&& 0xFD)
         exec (.interruptSend m.id) s =
           .next (((if v.masked then z.wakeCheck m.ctx vec l else z).afterWrite l).dropMsg m.id).poll) ∧
       (∀ w o, op = 2 →
         let z := (((u.setNatAt l 2 0).afterWrite l).dropMsg m.id).modCtx m.ctx fun c =>
           { c with active := if c.active = some vec then none else c.active }
         z.wave? m.wave = some w → ((z.acquireInval w.core w.ctx).wave? m.wave).bind (·.op? m.uid) = some o →
         exec (.interruptSend m.id) s = .next ((z.acquireInval w.core w.ctx).modWave m.wave fun w =>
           ((lanesOf o.lanes).foldl (fun w i => (w.deliver64 o i ⟨BitVec.ofNat 64 v.payload, p⟩).deliver o 2 i
             ⟨BitVec.ofNat 32 (v.count + 65536 * (v.ctl % 8)), p⟩) w).finishOp m.uid
               (z.acquireInval w.core w.ctx).clk).poll)) ∧
     (∀ (c v : Nat) (payload : DWord) (via : HostVia) (whole poisoned : Bool),
       let die := match via with
         | .cxl => 1
         | .pcie => 0
       let reaches := s.dev.on = true ∧ s.dev.st = .ready ∧ 0 < c ∧ c < 64 ∧ v < 64
       let queued (s : State) : State := s.send 0 0 0 c (.interrupt c v payload 64 0 0)
       let ahead := s.msgs.any fun k => k.wave == 0 && (match k.kind with
         | .interrupt _ _ _ _ _ _ => true
         | _ => false)
       let u : State := if ahead = true then queued s else match s.sendVector c v payload .host with
         | .done t => t
         | .refused _ t => t.event c 0 ⟨0x13, 5, 2, 0xFFFFFFFF, 0, 0, 0⟩
         | .wait t => queued t
         | .absent t => (queued t).parkNotice t.nextMsg c (t.ctx c).uipage
       (¬reaches → exec (.hostInterruptSend c v payload via whole poisoned) s = .next s) ∧
       (reaches → poisoned = true → exec (.hostInterruptSend c v payload via whole poisoned) s =
         .next (s.report 0x09 die die 0 (c + 256 * v) false)) ∧
       (reaches → poisoned = false → whole = false → exec (.hostInterruptSend c v payload via whole poisoned) s = .next s) ∧
       (reaches → poisoned = false → whole = true →
         exec (.hostInterruptSend c v payload via whole poisoned) s = .next u))) ∧
  (∀ s : State,
     (∀ c : Nat,
       (s.handlerWave c = none → exec (.interruptDelivery c) s = .next s) ∧
       (∀ w, s.handlerWave c = some w → (w.deliverable = false ∨ w.divertible = false) →
         exec (.interruptDelivery c) s = .next s)) ∧
     (∀ (c : Nat) (w : Wave) (page : Loc) (t : State), s.handlerWave c = some w → w.deliverable = true →
       w.divertible = true → s.reachPage c = .ok page t →
       (t.oldestVector c page = none → exec (.interruptDelivery c) s = .next t) ∧
       (∀ v, t.oldestVector c page = some v →
         let entry := BitVec.ofNat 64 (t.natAt (page.plus 0xA00) 8)
         let u := t.divert w v entry
         exec (.interruptDelivery c) s = .next u ∧
         (∀ w', t.wave? w.id = some w' → ∃ z, u.wave? w.id = some z ∧
           z.splits = [Split.fresh 0 entry w.live w.nextWin t.clk] ∧ z.parked = [] ∧ (∀ p ∈ z.preds, p = 0#64) ∧
           (∀ m ∈ z.modes, m = 0x10#32) ∧ z.live = w.live ∧ z.sregs = w.sregs ∧
           (z.windows.map (·.id)) = w.windows.map (·.id) ++ [w.nextWin]))) ∧
     (∀ (g : Gen) (x : Iss) (v : Window), Issues (.uiret g) s x → x.w.window? x.sp.win = some v →
       (v.kind ≠ .handler → exec (.uiret g) s = .next (x.finish (x.raise ⟨.window, x.sp.mask, 0, some 5⟩))) ∧
       (∀ k, v.kind = .handler → v.saved = some k → x.sp.mask ≠ x.w.live →
         exec (.uiret g) s = .next (x.finish (x.raise ⟨.window, x.sp.mask, 0, some 7⟩))) ∧
       (∀ k, v.kind = .handler → v.saved = some k → x.sp.mask = x.w.live →
         let w := x.w.popWindow v.id x.clk
         let w : Wave := { w with
           splits := k.splits.map fun p => p.renew (max p.notBefore x.clk)
           parked := k.parked, ahead := k.ahead, sregs := k.sregs, preds := k.preds, modes := k.modes
           spend := w.spend.filter fun p => decide (16 ≤ p.1) }
         let t := (s.putWave w).modCtx w.ctx fun c => { c with active := none }
         exec (.uiret g) s = .next (x.complete (match t.reachPage w.ctx with
           | .ok page u => u.wakeCheck w.ctx k.vec (page.plus (16 * k.vec))
           | _ => t) false))))

/-- R131, R140, R141, R161: a split ready for 256 clocks is raised and a yield ends after 64; a wave takes a
checkpoint once it has issued in 64 clocks; a checkpoint is discarded where it is no region's entry and a newer one is
128 clocks old, and passes the undo entries that the one before it lacks to it; a register freed for 128 clocks
returns when nothing names it or will write it. R95, R140, R144, R145: where every wave of a quadrant is stalled on
allocation the spill engine takes the private registers of the oldest window that can be spilled, of the Resident wave
that has borrowed most, of those the oldest, or has its youngest evictable wave leave; a spilled window comes back
when the pool can supply it. It rests in part on choices of the model: log entries 23 and 130. -/
def Obligations.WaveHousekeepingResults : Prop :=
  (∀ (s : State) (w : Wave), s.wave? w.id = some w → (∀ v ∈ s.waves, v.id = w.id → v = w) →
     (∀ (p : Split) (c : Nat), w.split? p.slot = some p →
       (p.ready = some c → p.raised = none → c + 256 ≤ s.clk → ∃ v, exec (.splitRaise w.id p.slot) s =
         .next (s.putWave v) ∧ v.split? p.slot = some { p with raised := some s.clk } ∧ v.regs = w.regs ∧
         v.windows = w.windows) ∧
       (p.yield = some c → c + 64 ≤ s.clk → ∃ v, exec (.yieldExpiry w.id p.slot) s = .next (s.putWave v) ∧
         v.split? p.slot = some { p with yield := none } ∧ v.regs = w.regs ∧ v.windows = w.windows)) ∧
     (64 ≤ w.sinceCk → w.onCore = true → (w.st = .resident ∨ w.st = .solo) → ∃ v, exec (.checkpoint w.id) s =
       .next (s.putWave v) ∧ v.sinceCk = w.sinceCk - 64 ∧ ∃ k, v.ckpts = w.ckpts ++ [k] ∧ k.entry = false ∧ k.clk = s.clk ∧
         k.no = w.issueNo ∧ k.splits = w.splits ∧ k.parked = w.parked ∧ k.windows = w.windows ∧ k.sregs = w.sregs ∧
         k.preds = w.preds ∧ k.modes = w.modes ∧ k.seq = w.seq) ∧
     (∀ k, w.ckpts.find? (·.id == k.id) = some k → k.entry = false → (∃ c ∈ w.ckpts, k.id < c.id ∧ c.clk + 128 ≤ s.clk) →
       let before := (w.ckpts.filter (·.id < k.id)).getLast?
       ∃ v, exec (.checkpointDiscard w.id k.id) s = .next (s.putWave v) ∧
         v.ckpts = ((w.ckpts.filter (·.id != k.id)).map fun c =>
           if before.any (·.id == c.id) then Wave.mergeUndo c k else c) ∧
         v.splits = w.splits ∧ v.windows = w.windows ∧ v.regs.map (·.lanes) = w.regs.map (·.lanes)) ∧
     (∀ phys, exec (.registerReturn w.id phys) s = .next (s.putWave
       { w with regs := w.regs.filter fun r => !(r.id == phys && w.mayReturn r s.clk) })) ∧
     (∀ r, w.mayReturn r s.clk = true → (∃ c, r.freed = some c ∧ c + 128 ≤ s.clk) ∧ r.writer = 0 ∧
       (∀ v ∈ w.windows, ∀ p ∈ v.map, p.2 ≠ r.id) ∧ ∀ c ∈ w.ckpts, c.names r.id = false)) ∧
  (∀ (s : State),
     (∀ (quad : Nat),
       let ws := s.waves.filter fun w => w.quadNo == quad && w.onCore && (w.st == .resident || w.st == .solo)
       let stuck := ws ≠ [] ∧ ∀ u ∈ ws, u.splits.any (s.allocStalled u) = true ∧ u.splits.any (s.splitReady u) = false
       let can := ws.filter fun u => u.st == .resident && u.spillWindow.isSome
       let owed (u : Wave) : Nat := u.heldRegs - u.decl.regfloor
       let more (u v : Wave) : Prop := owed v < owed u ∨ (owed u = owed v ∧ u.age < v.age)
       (¬stuck → exec (.spill quad) s = .next s) ∧
       (∀ w v before after, stuck → can = before ++ w :: after → (∀ u ∈ before, more w u) → (∀ u ∈ after, ¬more u w) →
         w.spillWindow = some v →
         let rs := w.spillable v
         let take (r : PhysReg) : PhysReg := if rs.contains r.id then { r with spilled := true } else r
         exec (.spill quad) s = .next ((s.writeSave w.ctx).putWave
           { w.modWindow v.id (fun v => { v with spilled := true }) with regs := w.regs.map take })) ∧
       (∀ w before after, stuck → can = [] → ws.filter Wave.evictable = before ++ w :: after →
         (∀ u ∈ before, u.age < w.age) → (∀ u ∈ after, u.age ≤ w.age) →
         exec (.spill quad) s = .next (s.putWave { w with stopping := true, reserve := true })) ∧
       (stuck → can = [] → ws.filter Wave.evictable = [] → exec (.spill quad) s = .next s)) ∧
     (∀ (w : Wave) (v : Window), s.wave? w.id = some w → w.window? v.id = some v →
       let rs := (w.regs.filter fun r => r.spilled && v.map.any (·.2 == r.id)).map (·.id)
       let back (r : PhysReg) : PhysReg := if rs.contains r.id then { r with spilled := false } else r
       let u := w.modWindow v.id fun v => { v with spilled := false }
       (v.spilled = true → s.poolShort w rs.length = false → exec (.spillRefill w.id v.id) s = .next (s.putWave
         { u with regs := w.regs.map back, refill := w.refill && u.windows.any (·.spilled) })) ∧
       ((v.spilled = false ∨ s.poolShort w rs.length = true) → exec (.spillRefill w.id v.id) s = .next s)))

/-- R97, R99, R102, R451: the oldest due trap that may be taken is taken, in a running wave by the split that holds
its lowest lane, whose PC is where it resumes; in a trapped wave one no younger than the trap it is in is noted in
sys.pend; of an Exited wave it is a record, unless a rollback made it due again and its record is out, and it kills
the gang where it is POISON. A service wave takes the next event of its die. R95, R96, R123, R137, R423: a wave that
must leave, with nothing in flight or held and its last issue 128 clocks old, is saved, or Reserved where the spill
engine asked, with its registers as they are, once its core's dirty lines of the context are home; one that waits is
restored to the quadrant R120 gives it on a core with room, when the contexts table can be read, no work of higher
PRIO goes first and, unless it waits for its urgent handler, none of its own PRIO whose turn is before its context's;
an Exited wave of which nothing is left ends, and an ended one that no group names is gone. It rests in part on
choices of the model: log entries 16, 109, 117 and 168. -/
def Obligations.WaveLifeResults : Prop :=
  (∀ (s : State) (w : Wave), s.wave? w.id = some w →
     ((sortBy (·.no) w.due).find? w.dueNow = none → exec (.reportedTrapDue w.id) s = .next s) ∧
     (∀ (r : Raised), (sortBy (·.no) w.due).find? w.dueNow = some r →
       let left : Wave := { w with due := w.due.erase r }
       let word := BitVec.ofNat 64 (r.trap.cause.code + 256 * (r.ipc.toNat / 4 % 2 ^ 56))
       let pend : Wave := { left with pended := left.pended ++ [r], sys := { left.sys with pend := word } }
       let taken (p : Split) : State := (s.putWave left).takeTrap w.id p.slot { r with epc := p.pc }
       let old := w.frozen.any (r.no ≤ ·.no)
       let taken' := w.taken.filter (fun t => decide (w.ckpts.head?.elim w.nextCk (·.id) < t.ck)) ++ [⟨w.nextCk, true, r⟩]
       (∀ p, w.st = .resident → w.trapSplit r.trap.lanes = some p → exec (.reportedTrapDue w.id) s = .next (taken p)) ∧
       (∀ p, w.st = .solo → (w.service = true ∨ old = false) → w.trapSplit r.trap.lanes = some p →
         exec (.reportedTrapDue w.id) s = .next (taken p)) ∧
       (w.st = .solo → w.service = false → old = true → exec (.reportedTrapDue w.id) s = .next (s.putWave pend)) ∧
       (w.st = .held → exec (.reportedTrapDue w.id) s = .next (s.putWave pend)) ∧
       (w.st = .exited →
         let h : Held := ⟨r.no, r.clk, 0, .record (trapRecord w r 18).pack false 3, none⟩
         let noted : Wave := { left with taken := taken', held := if w.told.contains r.no then w.held else w.held ++ [h] }
         (r.trap.cause ≠ .poison → exec (.reportedTrapDue w.id) s = .next (s.putWave noted)) ∧
         (r.trap.cause = .poison → exec (.reportedTrapDue w.id) s =
           .next (((s.count (State.dieOf w.core) 8).putWave noted).killGang w.ctx w.tag w.gang)))) ∧
     (∀ die, s.waves.find? (fun v => v.service && v.grid == die && v.st == .solo) = some w →
       (∀ a c rest, s.dev.eventQ.getD die [] = (a, c) :: rest → w.sys.event = 0#64 →
         let named (w : Wave) : Wave := { w with sys := { w.sys with event := BitVec.ofNat 64 a } }
         exec (.serviceEventDispatch die) s = .next
           ((s.modWave w.id named).modDev fun d => { d with eventQ := updAt die (·.drop 1) d.eventQ })) ∧
       ((s.dev.eventQ.getD die [] = [] ∨ w.sys.event ≠ 0#64) → exec (.serviceEventDispatch die) s = .next s))) ∧
  (∀ (s : State) (w : Wave), s.wave? w.id = some w →
     (s.saveReady w = false → exec (.waveSaveComplete w.id) s = .next s) ∧
     (s.saveReady w = true →
       let t := s.writebackWhere w.core (fun f => f.ctx == w.ctx) (0, 0)
       let out := t.msgs.any fun m => m.ctx == w.ctx && (match m.kind with
         | .writeback c _ _ _ _ _ _ => c == w.core
         | _ => false)
       let u := t.modQuad w.quadNo fun q => { q with latch := q.latch.filter (·.wave != w.id) }
       let keep := w.reserve && w.st == .resident && (u.ctx w.ctx).saving.isNone
       let left := w.leaveJournal u.clk
       let v : Wave := { left with
         st := if w.st == .held then .held else if keep then .reserved else .saved, onCore := keep, stopping := false
         reserve := false, yielded := false
         regs := if keep then left.regs.map (fun r => { r with spilled := true }) else left.regs }
       let z := (((u.putWave v).coreIdle v.core).writeSave v.ctx).leaveCores v.ctx
       let z := if (z.ctx v.ctx).saving.isNone then z.ctxEvicted v.ctx else z
       (out = true → exec (.waveSaveComplete w.id) s = .next t) ∧
       (out = false → exec (.waveSaveComplete w.id) s = .next (z.finishSaving v.ctx).poll) ∧
       v.regs.map (·.lanes) = w.regs.map (·.lanes) ∧ v.sregs = w.sregs ∧ v.preds = w.preds ∧ v.modes = w.modes) ∧
     (∀ core t, s.tableRead (List.range 64) = (false, t) → exec (.restoreWave w.id core (quadOf core w.wid)) s = .next t) ∧
     (∀ core s', s.tableRead (List.range 64) = (true, s') → core < 64 → w.away = true → s'.placeable w.ctx = true →
       s'.homeCore w core = true → s'.waveFits core w [] = true →
       let above := s'.goesAbove core (s'.prio w.ctx)
       let later := s'.goesFirst core (s'.prio w.ctx) || s'.waveBefore core (s'.prio w.ctx) w.ctx ||
         s'.gangBefore core (s'.prio w.ctx) w.ctx
       let t := if core = w.core then s' else s'.acquireInval core w.ctx
       let u := (t.putWave (w.restored core t.clk)).modBlock w.block fun b => { b with core }
       ((above = true ∨ (later = true ∧ s'.urgent w = false)) →
         exec (.restoreWave w.id core (quadOf core w.wid)) s = .next s') ∧
       (above = false → (later = false ∨ s'.urgent w = true) → exec (.restoreWave w.id core (quadOf core w.wid)) s = .next
         ((u.modCore core fun c => { c with gated := false }).contextPlaced w.ctx (State.dieOf core)).poll) ∧
       (w.restored core t.clk).onCore = true ∧ (w.restored core t.clk).core = core ∧
       (w.restored core t.clk).sregs = w.sregs ∧ (w.restored core t.clk).preds = w.preds ∧
       (w.restored core t.clk).regs.map (·.lanes) = w.regs.map (·.lanes)) ∧
     (s.waveOver w = false → exec (.waveEnd w.id) s = .next s) ∧
     (s.waveOver w = true →
       (w.st = .exited →
         let v : Wave := { w with
           st := .ended, onCore := false, splits := [], parked := [], ops := [], ckpts := [], regs := [], ahead := [],
           frozen := none, spend := [] }
         let t := (s.putWave v).modQuad w.quadNo fun q => { q with latch := q.latch.filter (·.wave != w.id) }
         let z := ((t.coreIdle w.core).blockOver w.block).gangDone w.ctx w.tag w.gang
         exec (.waveEnd w.id) s = .next (((z.leaveCores w.ctx).ctxOver w.ctx).finishSaving w.ctx).poll) ∧
       (w.st = .ended →
         let named := w.groups.any (·.isSome) || s.homes.groups.any fun g =>
           g.queue.any (·.1 == w.id) || g.contrib.any (·.1 == w.id)
         (named = false → exec (.waveEnd w.id) s = .next { s with waves := s.waves.filter (·.id != w.id) }) ∧
         (named = true → exec (.waveEnd w.id) s = .next s))))

/-- R418 to R424: a strike report rolls back every wave of the quadrant to the newest checkpoint 128 clocks old, or
the oldest it has: what it issued since is discarded, and what it held back of that time never leaves, but for what
has been held 128 clocks. R419, R423: the oldest outbound effect of a wave leaves 128 clocks after its instruction,
not before, and not while accumulator rows it stores are still to be read; what must wait for something of its own
waits. A wave off the cores that has given up its last effect leaves no frame of its context behind on a core without
waves. It rests in part on choices of the model: log entries 40 and 54. -/
def Obligations.StrikeAndHoldResults : Prop :=
  (∀ (s : State) (quad : Nat),
     ((256 ≤ quad ∨ s.dev.on = false) → exec (.strikeReport quad) s = .next s) ∧
     (quad < 256 → s.dev.on = true → exec (.strikeReport quad) s =
       .next ((s.waves.filter fun w => w.struck quad).foldl (fun s w => s.rollback w.id) (s.count (quad / 128) 0)).poll) ∧
     (∀ w k, s.wave? w.id = some w → w.target s.clk = some k →
       ∃ v, (s.rollback w.id).wave? w.id = some v ∧ v.sregs = k.sregs ∧ v.preds = k.preds ∧ v.modes = k.modes ∧
         v.live = k.live ∧ v.seq = k.seq ∧ v.splits.map (·.pc) = k.splits.map (·.pc) ∧
         v.st = (if k.solo then .solo else .resident) ∧ v.splits.map (·.mask) = k.splits.map (·.mask) ∧
         (∀ h ∈ v.held, h ∈ w.held ∧ (h.no ≤ k.no ∨ h.clk + 128 ≤ s.clk))) ∧
     (∀ w : Wave, w.target s.clk =
       ((w.ckpts.filter fun k => decide (k.clk + 128 ≤ s.clk)).getLast?).orElse fun _ => w.ckpts.head?)) ∧
  (∀ (s : State) (w : Wave) (h : Held) (rest : List Held), s.wave? w.id = some w → w.held = h :: rest →
     ((s.clk < h.clk + 128 ∨ w.unread h.uid = true) → exec (.outboundHoldEnd w.id) s = .next s) ∧
     (h.clk + 128 ≤ s.clk → w.unread h.uid = false →
       (∀ t, s.releaseEffect w h = .wait t → exec (.outboundHoldEnd w.id) s = .next t) ∧
       (∀ t, s.releaseEffect w h = .gone t →
         let u := t.modWave w.id fun w => { w with held := w.held.drop 1 }
         ((w.onCore = true ∧ w.st ≠ .ended) → exec (.outboundHoldEnd w.id) s = .next (u.settleOp w.id h.uid).poll) ∧
         (¬(w.onCore = true ∧ w.st ≠ .ended) →
           exec (.outboundHoldEnd w.id) s = .next ((u.leaveCores w.ctx).settleOp w.id h.uid).poll))))

/-- R111, R112, R120: a block placed on a core makes its waves, numbered within the launch, each on the quadrant of
its number modulo the quadrants in use, with every lane at the packet's ENTRY in one split, the parameters in s0 to
s15, nothing in flight and so every in-flight counter zero, sequence 0, and value registers, predicates, lane arrays,
tiles and accumulators as at a start; the block's scalars b0 to b7 read zero, and so does its scratch. It rests in
part on choices of the model: log entry 6. -/
def Obligations.PlacedBlockStart : Prop :=
  ∀ (s : State) (l : Launch) (gang member core : Nat),
    let t := s.startBlock l gang member core
    let gx := leNat ((l.packet.drop 0x10).take 4)
    let gy := leNat ((l.packet.drop 0x14).take 2)
    let params := leNat ((l.packet.drop 0x25).take 1)
    let word (i : Nat) : Nat :=
      leNat ((((l.packet.drop 0x50).take (min 48 params)) ++ List.replicate (64 - min 48 params) 0#8).drop (4 * i) |>.take 4)
    (∃ ws, t.waves = s.waves ++ ws ∧ ws.length = l.waves ∧ ∀ k w, ws[k]? = some w →
      w.ctx = l.ctx ∧ w.tag = l.tag ∧ w.gang = gang ∧ w.grid = (gang * l.gang + member) * l.waves + k ∧ w.wid = k ∧
      w.core = core ∧ w.quad = k % usableQuads core ∧ w.st = .resident ∧ w.onCore = true ∧ w.width = l.width ∧
      w.splits.map (fun p => (p.slot, p.mask, p.pc)) =
        [(0, allLanes l.width, BitVec.ofNat 64 (leNat ((l.packet.drop 8).take 8)))] ∧
      (∀ i < 16, ∃ v, w.sregs[i]? = some v ∧ v.bits = BitVec.ofNat 32 (word i) ∧ v.poison = false) ∧
      w.preds = List.replicate 8 0#64 ∧ w.modes = List.replicate l.width modeReset ∧ w.regs = [] ∧ w.lanearr = [] ∧
      w.tiles = List.replicate l.decl.tiles ⟨.empty, .empty, none, false, false, 0, 0⟩ ∧
      w.accs = List.replicate l.decl.accs ⟨.empty, false⟩ ∧ w.seq = 0 ∧ w.took = [] ∧
      w.ops = [] ∧ w.ahead = [] ∧ w.held = [] ∧ w.spend = [] ∧ w.due = [] ∧ w.pended = [] ∧ w.fence = none ∧ w.bphase = 0 ∧
      w.groups = List.replicate 8 none ∧ w.parked = [] ∧ w.frozen = none ∧
      (s.block? s.sched.nextBlock = none → ∀ i < 8, t.blockScalar w i = .zero)) ∧
    (∃ b, t.blocks = s.blocks ++ [b] ∧ b.ctx = l.ctx ∧ b.tag = l.tag ∧ b.gang = gang ∧ b.member = member ∧ b.core = core ∧
      b.bx = (gang * l.gang + member) % gx ∧ b.byy = (gang * l.gang + member) / gx % gy ∧
      b.bz = (gang * l.gang + member) / gx / gy ∧ b.scratch = .empty ∧ (∀ a, b.scratch.get a = 0#8) ∧
      b.live = true ∧ b.bsc = List.replicate 8 [] ∧ b.phase = 0 ∧ b.arrived = []) ∧
    t.mem = s.mem ∧ t.host = s.host

/-- R122: a distributor takes the first gang of its sequence that some core of its die with an empty list starts a run
for and appends it to the list of the core whose run's longest list is shortest, the lowest such core; where both dies
could, die 0 takes it. R91, R95, R122, R124: the head entry of a core is placed when its turn has come and its run has
room, and otherwise has lower-PRIO waves evicted for it, where the table entries of the contexts can be read now
(R84); a core with an empty list steals the tail of the longer of its neighbours' lists, at most once in 64 clocks; a
head 4,096 clocks old has its run kept for it. R91, R92, R93: at the end of its slice a context whose cores other work
needs is saved, and otherwise begins another; one whose waves have all waited longer than its budget is saved and
Stalled. The traps that are due are taken first (R99); then the context's resident waves stop, but for those of COMM
launches at the end of a slice. R116: the scheduler examines the head packet of a context's launch queues in turn. It
rests in part on choices of the model: log entries 113, 114, 115 and 116. -/
def Obligations.SchedulingResults : Prop :=
  (∀ (s : State) (die c tag g : Nat) (l : Launch), die < 2 → (die = 1 → s.nextGang 0 = none) →
     (∀ k, s.nextGang die = some (c, tag, g) → s.launch? c tag = some l →
       let load (k : Nat) : Nat := maxNat (((s.runFrom k l.gang l.comm).getD []).map fun c => (s.core c).pending.length)
       k ∈ s.eligibleCores die l.comm → (∀ j ∈ s.eligibleCores die l.comm, load k ≤ load j ∧ (j < k → load k < load j)) →
       exec (.distributorTakeGang die) s = .next
         (((s.modSched fun x => { x with unplaced := x.unplaced.filter (· != (c, tag, g)) }).modGang c tag g fun y =>
           { y with st := .pending }).appendEntry k ⟨c, tag, g, k, none, false⟩)) ∧
     (s.nextGang die = none → exec (.distributorTakeGang die) s = .next s)) ∧
  (∀ (s : State) (core : Nat), core < 64 →
     (∀ t, s.tableRead (List.range 64) = (false, t) → exec (.placeGang core) s = .next t) ∧
     (∀ h t, s.tableRead (List.range 64) = (true, t) → (t.heads (core / 32)).find? (·.1 == core) = some h →
       ((t.placeNow (core / 32)).any (·.1 == core) = true →
         exec (.placeGang core) s = .next (t.startGang core h.2.1 h.2.2.1 h.2.2.2).poll) ∧
       ((t.placeNow (core / 32)).any (·.1 == core) = false → t.placeable h.2.1.ctx = true →
         t.entryFits (core / 32) h = false → (∀ k ∈ h.2.2.2, t.coreTakes k h.2.2.1.comm = true) →
         exec (.placeGang core) s = .next (t.evictFor h))) ∧
     (∀ e l run,
       let below := core / 32 * 32 + (core + 31) % 32
       let above := core / 32 * 32 + (core + 1) % 32
       let victim := if (s.core above).pending.length ≤ (s.core below).pending.length then below else above
       (s.core core).pending = [] → (∀ t, (s.core core).lastSteal = some t → t + 64 ≤ s.clk) →
       (s.core victim).pending.getLast? = some e → s.launch? e.ctx e.tag = some l → s.runFrom core l.gang l.comm = some run →
       (∀ k ∈ run, s.coreTakes k l.comm = true ∧ s.blockFits k e.ctx l.waves l.width l.decl [] = true) →
       exec (.steal core) s = .next (((s.modCore victim fun c => { c with pending := c.pending.dropLast }).modCore core
         fun c => { c with lastSteal := some s.clk }).appendEntry core ⟨e.ctx, e.tag, e.gang, core, none, false⟩)) ∧
     (∀ e rest t, (s.core core).pending = e :: rest → e.wait = some t → t + 4096 ≤ s.clk →
       exec (.gangHeadTimeout core) s = .next (s.modCore core fun c => { c with pending := { e with blocking := true } :: rest }))) ∧
  (∀ (s : State) (c : Nat), c ≠ 0 → (s.ctx c).saving = none →
     (let us := if (s.ctx c).slice = 0 then 2000 else (s.ctx c).slice
      ∀ t, s.tableRead (List.range 64) = (true, t) → t.ctx c = s.ctx c →
       ((s.ctx c).st = .resident ∨ (s.ctx c).st = .partialSt) → (s.ctx c).placedAt + 2000 * us ≤ t.clk →
       (t.sliceWanted c = true → exec (.sliceEnd c) s = .next ((t.startSaving c .slice).finishSaving c).poll) ∧
       (t.sliceWanted c = false → exec (.sliceEnd c) s = .next (t.modCtx c fun x => { x with placedAt := t.clk }))) ∧
     (∀ t, s.tableRead (List.range 64) = (false, t) → exec (.sliceEnd c) s = .next t) ∧
     (let ms := if (s.ctx c).budget = 0 then 200 else (s.ctx c).budget
      s.waitRuns c = true → 2000000 * ms < (s.ctx c).waitclk →
       exec (.waitBudgetExceeded c) s = .next ((s.startSaving c .stall).finishSaving c).poll) ∧
     (∀ w ∈ (((s.liveWaves c).map (·.id)).foldl State.takeDues s).waves, w.ctx = c → w.service = false → w.st = .resident →
       w.onCore = true →
       (w.decl.comm = false → ∃ v ∈ (s.startSaving c .slice).waves, v = { w with stopping := true, reserve := false }) ∧
       (w.decl.comm = true → w ∈ (s.startSaving c .slice).waves) ∧
       ∃ v ∈ (s.startSaving c .stall).waves, v = { w with stopping := true, reserve := false })) ∧
  (∀ (s : State) (c q : Nat), q < (s.ctx c).lqs.length → ((s.ctx c).lqs.getD q .fresh).valid = true →
     let n := (s.ctx c).lqs.length
     let turn (k : Nat) : Nat := (k + n - (s.ctx c).lqNext % n) % n
     (∀ k < n, turn k < turn q →
       ((s.ctx c).lqs.getD k .fresh).st ≠ .running ∨ ((s.ctx c).lqs.getD k .fresh).entry.isSome = true) →
     exec (.launchExamine c q) s = .next ((s.examine c q).modCtx c fun x => { x with lqNext := (q + 1) % n }).poll)

/-- R83 to R90, R101, R106, R447: the host's context commands, with the device Ready and no SUSPEND running: CREATE
takes a Free entry whose fields fit, SUSPEND has the waves saved, RESUME brings a suspended, stalled or faulted
context back, DESTROY ends it, WRESUME releases a held wave; CMDSTAT is 1 in a state the command is not for and 2
where a field does not fit. R447: while a command of the host is in progress or waits, a later one waits behind it,
and each is performed in its turn, as it would have been at once. R313, R314, R447: STOP, START, SKIP and RETRY of the
host act on the queue whose header QADDR names and write the result to the context's entry; 2 where no queue is named,
3 for context 0 or a Free one. While a SUSPEND of the context is in progress, or the home of the header is not ready,
they wait. It rests in part on choices of the model: log entries 20, 70, 75, 104, 105, 110 and 167. -/
def Obligations.ContextCommandResults : Prop :=
  (∀ (s : State) (c : Nat), 0 < c → c < 64 → s.dev.on = true → s.dev.st = .ready → s.commandBusy = false →
     (s.ctx c).saving = none →
     let st := (s.ctx c).st
     let answers (i : Instr) (t : State) : Prop := exec i s = .next t.poll
     (s.homeNeeds ⟨.dev, s.entryAddr c⟩ 256 none true = none →
       (st ≠ .free → answers (.create c) (s.setEntry c 0x5C 4 1)) ∧
       (st = .free → s.entryFit c = false → answers (.create c) (s.setEntry c 0x5C 4 2)) ∧
       (st = .free → s.entryFit c = true → answers (.create c)
         ((((((((s.dropTlb c 0).modCtx c fun _ => .free).setCtxState c .created).setEntry c 0x60 8 0).setEntry c 0x68 8
           0)).latchEntry c).setEntry c 0x5C 4 0)) ∧
       (st ∉ [CtxState.suspended, .stalled, .faulted] → answers (.resume c) (s.setEntry c 0x5C 4 1)) ∧
       (st ∈ [CtxState.suspended, .stalled, .faulted] → s.entryFit c = false → answers (.resume c) (s.setEntry c 0x5C 4 2)) ∧
       (∀ next : CtxState, s.entryFit c = true → (st = .suspended ∨ st = .faulted) → next = (if s.hasWork c then .ready else .created) →
         answers (.resume c) (((s.setCtxState c next).latchEntry c).setEntry c 0x5C 4 0)) ∧
       (st = .stalled → s.entryFit c = true → answers (.resume c)
         (((((s.modCtx c fun x => { x with waitclk := 0 }).setEntry c 0x60 8 0).setCtxState c .ready).latchEntry c).setEntry c
           0x5C 4 0))) ∧
     (st ∉ [CtxState.created, .stalled, .ready, .resident, .partialSt] → answers (.suspend c) (s.setEntry c 0x5C 4 1)) ∧
     ((st = .created ∨ st = .stalled) → answers (.suspend c) ((s.setCtxState c .suspended).setEntry c 0x5C 4 0)) ∧
     (st ∈ [CtxState.ready, .resident, .partialSt] →
       let t := (s.startSaving c .suspend).finishSaving c
       ((t.ctx c).saving = some .suspend → answers (.suspend c) (t.modDev fun d => { d with cmdOn := some c })) ∧
       ((t.ctx c).saving ≠ some .suspend → answers (.suspend c) t)) ∧
     (st ∈ [CtxState.free, .draining, .destroyed] → answers (.destroy c) (s.setEntry c 0x5C 4 1)) ∧
     (st ∉ [CtxState.free, .draining, .destroyed] → answers (.destroy c) (s.destroyCtx c)) ∧
     (∀ tag grid, st ∈ [CtxState.ready, .resident, .partialSt, .suspended, .stalled, .faulted] →
       (∀ w, s.waves.find? (fun w => w.ctx == c && w.tag == tag && w.grid == grid && w.st == .held && !w.service) = some w →
         answers (.wresume c tag grid) ((s.releaseHold w).setEntry c 0x5C 4 0)) ∧
       ((∀ w ∈ s.waves, w.ctx = c → w.tag = tag → w.grid = grid → w.service = false → w.st ≠ .held) →
         answers (.wresume c tag grid) (s.setEntry c 0x5C 4 1))) ∧
     (∀ tag grid, st ∉ [CtxState.ready, .resident, .partialSt, .suspended, .stalled, .faulted] →
       answers (.wresume c tag grid) (s.setEntry c 0x5C 4 1))) ∧
  (∀ (s : State) (c : Nat), c < 64 → s.dev.on = true → s.dev.st = .ready →
     (s.commandBusy = true →
       let waits (i : Instr) (k : HostCmd) : Prop := exec i s = .next (s.modDev fun d => { d with cmds := d.cmds ++ [k] })
       waits (.create c) ⟨false, 1, c, 0, 0, 0⟩ ∧ waits (.suspend c) ⟨false, 2, c, 0, 0, 0⟩ ∧
       waits (.resume c) ⟨false, 3, c, 0, 0, 0⟩ ∧ waits (.destroy c) ⟨false, 4, c, 0, 0, 0⟩ ∧
       (∀ tag grid, waits (.wresume c tag grid) ⟨false, 5, c, tag, grid, 0⟩) ∧
       waits (.stop c) ⟨true, 1, c, 0, 0, s.dev.qaddr⟩ ∧ waits (.start c) ⟨true, 2, c, 0, 0, s.dev.qaddr⟩ ∧
       waits (.skip c) ⟨true, 3, c, 0, 0, s.dev.qaddr⟩ ∧ waits (.retry c) ⟨true, 4, c, 0, 0, s.dev.qaddr⟩) ∧
     (s.dev.cmdOn ≠ none → s.runCommand = s) ∧
     (∀ k rest, s.dev.cmds = k :: rest → s.dev.cmdOn = none → k.ctx < 64 →
       let t : State := s.modDev fun d => { d with cmds := rest }
       (k.queue = true → s.hostQueueNeeds k.ctx k.qaddr = none → s.runCommand = t.performQueue k.ctx k.qaddr (QueueOp.ofCode k.code)) ∧
       (k.queue = false → s.commandNeeds k.code k.ctx = none → s.runCommand = t.performCommand k.code k.ctx k.tag k.grid)) ∧
     (s.commandBusy = false → s.commandNeeds 5 c = none →
       ∀ tag grid, exec (.wresume c tag grid) s = .next (s.performCommand 5 c tag grid))) ∧
  (∀ (s : State) (c : Nat), c < 64 → s.dev.on = true → s.dev.st = .ready → s.commandBusy = false →
     (∀ t, s.hostQueueNeeds c s.dev.qaddr = some t →
       let waits (i : Instr) (k : Nat) : Prop :=
         exec i s = .next (t.modDev fun d => { d with cmds := d.cmds ++ [⟨true, k, c, 0, 0, s.dev.qaddr⟩] })
       waits (.stop c) 1 ∧ waits (.start c) 2 ∧ waits (.skip c) 3 ∧ waits (.retry c) 4) ∧
     ((s.ctx c).saving = some .suspend → (s.hostQueueNeeds c s.dev.qaddr).isSome = true) ∧
     (∀ i op, s.hostQueueNeeds c s.dev.qaddr = none →
       (i, op) ∈ [(Instr.stop c, QueueOp.stop), (.start c, .start), (.skip c, .skip), (.retry c, .retry)] →
       (c = 0 ∨ (s.ctx c).st = .free → exec i s = .next (s.setEntry c 0x5C 4 3)) ∧
       (c ≠ 0 → (s.ctx c).st ≠ .free → s.queueAt c s.dev.qaddr = none → exec i s = .next (s.setEntry c 0x5C 4 2)) ∧
       (∀ eng q r t, c ≠ 0 → (s.ctx c).st ≠ .free → s.queueAt c s.dev.qaddr = some (eng, q) →
         s.queueCommand c eng q op = (r, t) → exec i s = .next (t.setEntry c 0x5C 4 r).poll)) ∧
     (∀ eng q, let x := s.queue c eng q
       (x.st = .stopped → (s.queueCommand c eng q .stop).1 = 1) ∧ (x.st ≠ .stopped → (s.queueCommand c eng q .stop).1 = 0) ∧
       ((s.queueCommand c eng q .start).1 = if x.st = .stopped ∧ (s.ctx c).st.alive = true then 0 else 1) ∧
       (x.st ≠ .faulted → (s.queueCommand c eng q .skip).1 = 1 ∧ (s.queueCommand c eng q .retry).1 = 1) ∧
       (x.st = .faulted → (s.queueCommand c eng q .retry).1 = 0) ∧
       (∀ t, x.st = .faulted → s.readHeader c eng q = .no t → (s.queueCommand c eng q .skip).1 = 1) ∧
       (∀ tail head t, x.st = .faulted → s.readHeader c eng q = .ok tail head t → (s.queueCommand c eng q .skip).1 = 0)))

/-- R443 to R445: a boot that ends finds the image missing or too large (4), unsigned (1), older than the rollback
counter (5), without an identity (2) or with a configuration out of range (3), and is Refused with that reason;
otherwise the device is Ready: the bytes of the body from FWOFF on stand at KBASE, the 16,384 bytes of the context
table are 0 but for the state it then shows for context 0, every entry of the bias table is 0x0004 where the firmware
does not lie over it, and one service wave runs on each die. It rests in part on choices of the model: log entries 4,
5, 11, 120, 121, 122 and 166. -/
def Obligations.BringUpResults : Prop :=
  ∀ s : State, s.dev.on = true → s.dev.st = .booting →
    let field (off n : Nat) : Nat := leNat ((s.dev.flash.drop off).take n)
    let size := field 8 8
    let found := field 0 4 = 0x394A5653 ∧ size ≤ 0x4000000 ∧ 0x1000 + size ≤ s.dev.flash.length
    let body := (s.dev.flash.drop 0x1000).take size
    let signed := Config.shake256 ((s.dev.flash.drop 0x50).take 1793) = Config.vendorDigest ∧
      Config.falconAccepts ((s.dev.flash.drop 0x50).take 1793) ((s.dev.flash.drop 0x751).take 1280)
        (Config.shake256 (s.dev.flash.take 0x50 ++ body)) = true
    let code := body.drop (field 0x10 8)
    let kbase := field 0x18 8
    let ctxtab := field 0x20 8
    let biastab := field 0x38 8
    let refused (r : Nat) : Prop := exec .bootTrainingComplete s = .next (s.modDev fun d => { d with st := .refused, reason := r })
    (¬found → refused 4) ∧ (found → ¬signed → refused 1) ∧ (found → signed → field 4 4 < s.dev.rollback → refused 5) ∧
    (found → signed → s.dev.rollback ≤ field 4 4 → Config.identityOk = false → refused 2) ∧
    (found → signed → s.dev.rollback ≤ field 4 4 → Config.identityOk = true →
      ((imageOf s.dev.flash).inRange = false → refused 3) ∧
      ((imageOf s.dev.flash).inRange = true → ∃ t, exec .bootTrainingComplete s = .next t ∧ t.dev.st = .ready ∧
        t.dev.kbase = field 0x18 8 ∧ t.dev.ctxtab = field 0x20 8 ∧ t.dev.version = field 4 4 ∧
        t.dev.rollback = max s.dev.rollback (field 4 4) ∧
        t.waves.map (fun w => (w.service, w.grid, w.core, w.quad, w.st)) =
          [(true, 0, 31, 3, WaveState.solo), (true, 1, 63, 3, .solo)] ∧
        (∀ w ∈ t.waves, w.splits.map (fun p => (p.mask, p.pc)) = [(1#64, BitVec.ofNat 64 (field 0x18 8))]) ∧
        (∀ k b, code[k]? = some b → (kbase + k < ctxtab ∨ ctxtab + 4 ≤ kbase + k) → t.mem.get (kbase + k) = b) ∧
        (∀ k, 4 ≤ k → k < 16384 → (ctxtab + k < kbase ∨ kbase + code.length ≤ ctxtab + k) → t.mem.get (ctxtab + k) = 0#8) ∧
        (s.homes.dir = [] → s.homes.posted = [] → t.mem.nat ctxtab 4 = 3) ∧
        (∀ k, k < 201326592 → (biastab + k < kbase ∨ kbase + code.length ≤ biastab + k) →
          t.mem.get (biastab + k) = if k % 2 = 0 then 4#8 else 0#8)))

/-- R446, R448: 1 written to ATTCMD starts a quote of the nonce, which ends with ATTCMD at 0; a power cap is held to
1,100 to 2,400 W, 0 standing for 2,400, and governs from 1 microsecond after its write. R442, R447: a write of the
control space does what its register is for: the commands of CTXCMD and QCMD, QADDR, POWERCAP, ATTCMD, the nonce and
the interrupt windows; outside Ready only RESET is a register. It rests in part on choices of the model: log entries
50, 123, 124, 125, 133 and 166. -/
def Obligations.ControlSpaceResults : Prop :=
  (∀ (s : State) (v : DWord),
     (s.dev.on = true → s.dev.st = .ready →
       exec (.attcmd v) s = .next (if v = 1#64 then s.modDev fun d => { d with attcmd := true } else s) ∧
       exec (.powercap v) s = .next (s.modDev fun d => { d with
         capNext := d.capNext ++ [(if v.toNat = 0 then 2400 else min 2400 (max 1100 v.toNat), d.clk + 2000)] })) ∧
     (s.dev.attcmd = true → ∃ t q, exec .quoteComplete s = .next t ∧ t.dev.attcmd = false ∧ t.dev.quote = some q ∧
       q.nonce = s.dev.nonce ∧ q.version = s.dev.version ∧ q.clk = s.dev.clk ∧ q.digest = imageDigest s.dev.flash) ∧
     (∀ w at_, s.dev.capNext = [(w, at_)] →
       (at_ ≤ s.clk → exec .powercapTakesEffect s = .next (s.modDev fun d => { d with cap := w, capNext := [] })) ∧
       (s.clk < at_ → exec .powercapTakesEffect s = .next s)) ∧
     (s.dev.on = true → s.dev.st = .ready →
       ((∀ r ∈ s.homes.hostReqs, 2 < r.kind) → exec .bridgefence s = .next (s.modDev fun d => { d with bridged := d.bridged + 1 })) ∧
       ((∃ r ∈ s.homes.hostReqs, r.kind ≤ 2) → exec .bridgefence s = .next s))) ∧
  (∀ (s : State) (v : DWord),
     let w := fun off => exec (.registerWrite off v) s
     let ctx := (v.extractLsb' 8 6).toNat
     let code := (v.extractLsb' 0 8).toNat
     w 0x08 = exec (.reset v) s ∧
     (∀ off, off ≠ 0x08 → s.dev.on = false ∨ s.dev.st ≠ .ready → w off = .next s) ∧
     (s.dev.on = true → s.dev.st = .ready →
       (code = 1 → w 0x18 = exec (.create ctx) s) ∧ (code = 2 → w 0x18 = exec (.suspend ctx) s) ∧
       (code = 3 → w 0x18 = exec (.resume ctx) s) ∧ (code = 4 → w 0x18 = exec (.destroy ctx) s) ∧
       (code = 5 → w 0x18 = exec (.wresume ctx (v.extractLsb' 16 12).toNat (v.extractLsb' 28 22).toNat) s) ∧
       (code = 1 → w 0x20 = exec (.stop ctx) s) ∧ (code = 2 → w 0x20 = exec (.start ctx) s) ∧
       (code = 3 → w 0x20 = exec (.skip ctx) s) ∧ (code = 4 → w 0x20 = exec (.retry ctx) s) ∧
       w 0x28 = .next (s.modDev fun d => { d with qaddr := v.toNat }) ∧
       w 0x30 = exec (.powercap v) s ∧ w 0x420 = exec (.attcmd v) s ∧
       (∀ k < 4, s.dev.attcmd = true → w (0x400 + 8 * k) = .next s) ∧
       (∀ k < 4, s.dev.attcmd = false → s.dev.nonce.length = 32 → ∃ t, w (0x400 + 8 * k) = .next t ∧ t.dev.nonce.length = 32 ∧
         leNat ((t.dev.nonce.drop (8 * k)).take 8) = v.toNat ∧
         ∀ i, i < 8 * k ∨ 8 * k + 8 ≤ i → t.dev.nonce[i]? = s.dev.nonce[i]?) ∧
       (∀ c vec, c < 64 → vec < 64 → w (0x10000 + 512 * c + 8 * vec) = exec (.hostInterruptSend c vec v .pcie true false) s)))

/-- R26, R442: right after reset the device is on and Booting with its power cap at 2,400 W, and holds nothing: no
wave, no block, no message, no dirty line, no translation, no directory entry, no listed byte of memory, every context
Free. The memories are in their canonical form right after reset. R26, R442: power-up, RESET = 1, a hot reset and a
function-level reset lose everything of the device but the flash and the rollback counter and enter Booting; without
power nothing runs. It rests in part on choices of the model: log entries 4, 5 and 126. -/
def Obligations.ResetIsBootingAndEmpty : Prop :=
  (let s := State.reset
   s.dev.on = true ∧ s.dev.st = .booting ∧ s.dev.clk = 0 ∧ s.dev.cap = 2400 ∧ s.dev.attcmd = false ∧ s.dev.quote = none ∧
   s.waves = [] ∧ s.blocks = [] ∧ s.msgs = [] ∧ s.mem.cells = [] ∧ s.mem.poison = [] ∧ s.sched.launches = [] ∧
   s.ctxs.length = 64 ∧ (∀ c ∈ s.ctxs, c.st = .free ∧ c.lqs = [] ∧ c.eqs = []) ∧
   s.cores.length = 64 ∧ (∀ c ∈ s.cores, c.frames = [] ∧ c.tlb = [] ∧ c.pending = []) ∧
   s.quads.length = 256 ∧ (∀ q ∈ s.quads, q.busyUntil = 0 ∧ q.array = []) ∧
   s.homes.dir = [] ∧ s.homes.records = [] ∧ s.homes.dieTlb = [[], []] ∧ s.link.slots = []) ∧
  (State.reset.memoriesWf = true) ∧
  (∀ s : State,
     let lost : State :=
       { State.powered s.dev.flash s.dev.rollback with agenda := s.agenda, free := s.free, host := s.host }
     (s.dev.on = false → exec .powerUp s = .next lost) ∧ (s.dev.on = true → exec .powerUp s = .next s) ∧
     (∃ t, exec .powerRemoved s = .next t ∧ t.dev.on = false ∧ t.dev.flash = s.dev.flash ∧ t.dev.rollback = s.dev.rollback ∧
       t.waves = [] ∧ t.mem.cells = [] ∧ t.host = s.host) ∧
     (∀ i, i ∈ [Instr.hotReset, .functionLevelReset] →
       (s.dev.on = true → exec i s = .next lost) ∧ (s.dev.on = false → exec i s = .next s)) ∧
     (∀ v : DWord, (s.dev.on = true → s.dev.st ≠ .booting → v = 1#64 → exec (.reset v) s = .next lost) ∧
       (v ≠ 1#64 → exec (.reset v) s = .next s)) ∧
     lost.dev.st = .booting ∧ lost.dev.on = true ∧ lost.waves = [] ∧ lost.mem.cells = [] ∧
     lost.dev.flash = s.dev.flash ∧ lost.dev.rollback = s.dev.rollback)

/-- The agenda's head is the move a step makes; where the agenda is empty the move is a free one. A clock passes only
under power, with nothing more to it than its counts where no split is raised, no MMA waits, no trap is due, no ACCST
waits to read, no context is Ready, no time of R122, R131, R141, R147, R228, R237 or R450 has come, nothing stands at
a Col and no command of the host waits; a quadrant that is still issuing takes no instruction (R129). R51, R53, R84,
R129, R130: a step that issues on a quadrant, once the PRIO of its waves' contexts can be read, fetches at the PC of
the first split its scheduler offers, decodes the bytes, and runs the instruction they are; a split that stalls leaves
its turn to the next. Bytes that are no instruction take ILLEGAL, and a fetch that fails its fault, in the split's
lanes. It rests in part on choices of the model: log entry 1. -/
def Obligations.StepRunsDecodedInstruction : Prop :=
  (∀ (s : State),
     (∀ m rest, s.agenda = m :: rest → step s = perform m { s with agenda := rest }) ∧
     (s.agenda = [] → step s = perform (nextMove s.free) { s with free := s.free + 1 }) ∧
     (∀ e, e.enc = none → perform (.ev e) s = exec e s) ∧ (∀ e, e.enc ≠ none → perform (.ev e) s = .next s) ∧
     perform .tick s = .next (if s.dev.on then s.clock else s) ∧
     (∀ t, t = s.tick → (∀ w ∈ s.waves, ∀ p ∈ w.splits, p.raised = none) → (∀ q ∈ s.quads, q.array = []) →
       t.dev.cmds = [] → t.dev.rechecks = [] → t.link.sendWait = [] → t.link.standing = [] → t.clk % 20000 ≠ 0 →
       (∀ w ∈ t.waves, ∀ h ∈ w.held, ∀ i v, h.effect ≠ .bscalar i v ∨ t.clk < h.clk + 128) →
       (∀ w ∈ t.waves, w.due = [] ∧ (∀ o ∈ w.ops, ∀ a off len, o.kind ≠ .accst a off len) ∧ w.sinceCk < 64 ∧
         ∀ p ∈ w.splits, ∀ c, p.ready = some c → t.clk < c + 256) →
       (∀ c, (t.ctx c).st ≠ .ready) →
       (∀ c ∈ t.cores, (∀ f ∈ c.frames, t.clk < f.since + 65536) ∧
         (∀ e ∈ c.pending, ∀ k, e.wait = some k → t.clk < k + 4096)) →
       (∀ q ∈ t.quads, q.permit = .none ∨ (∃ c, q.permit = .requested c false ∧ t.clk < c + 64) ∧
         t.grantsLimited 0 = false ∧ t.grantsLimited 1 = false) → s.clock = t) ∧
     (∀ q, s.dev.on = false ∨ s.clk < (s.quad q).busyUntil → perform (.issue q) s = .next s)) ∧
  (∀ (s : State) (q : Nat) (agenda : List Move), s.agenda = .issue q :: agenda → s.dev.on = true → (s.quad q).busyUntil ≤ s.clk →
     let s' : State := { s with agenda }
     (∀ t, s'.tableRead (s'.quadCtxs q) = (false, t) → step s = .next t) ∧
     (∀ (s0 : State) (id slot : Nat) (others : List (Nat × Nat)) (w : Wave) (p : Split),
       s'.tableRead (s'.quadCtxs q) = (true, s0) → s0.candidates q = (id, slot) :: others → s0.wave? id = some w →
       w.split? slot = some p → p.open s0.clk = true →
       let takes (s1 : State) (r : Trap) : State :=
         (s1.modWave id fun w => { w with issueNo := w.issueNo + 1, lastIssue := s1.clk }).takeTrap id slot
           ⟨r, p.pc, p.pc, w.issueNo + 1, s1.clk⟩
       (∀ bs s1, s0.fetch w p = .words bs s1 →
         (∀ i rest, decodeBytes bs = .ok (i, rest) →
           let s2 : State := { s1 with cur := some ⟨id, slot, p.pc, bs.length⟩ }
           (∀ t, exec i s2 = .next t → t.cur = none → step s = .next t) ∧
           (∀ t, exec i s2 = .next t → t.cur ≠ none → step s = tryIssue others { t with cur := none })) ∧
         (∀ r, decodeBytes bs = .error r → ∃ f, f.cause = Cause.illegal ∧ f.delivery = .issue ∧ f.lanes = p.mask ∧
           step s = .next (takes s1.draw.2 f))) ∧
       (∀ f s1, s0.fetch w p = .fail f s1 →
         f.lanes = p.mask ∧
         (∀ e, f.einfo = some e → step s = .next (takes s1 ⟨f.cause, .issue, p.mask, f.faddr, e⟩)) ∧
         (f.einfo = none → step s = .next (takes s1.draw.2 ⟨f.cause, .issue, p.mask, f.faddr, s1.draw.1⟩))) ∧
       (∀ s1, s0.fetch w p = .stall s1 → step s = tryIssue others s1)))

/-- R28, R30, R35 to R44, R46: words written out from the spec's encodings and the instructions they are. -/
def Obligations.WordsDecodeAsTheSpecSays : Prop :=
  let gen (len : Len) (la : Bool) (d a b : Fld) (sub : BitVec 5) : Gen :=
    ⟨len, false, la, b, a, d, .id, .mode, sub, 0#4, false, 0#7, .all, 0#32, .id, .id⟩
  let mem (len : Len) (d a b c : Fld) (z : Size) : Mem :=
    ⟨len, false, false, b, a, d, 0#5, .dflt, .relaxed, .device, z, 0#4, false, c, .all, 0#32⟩
  decodeBytes (bytesOfWords [0x41820840#32]) = .ok (.iadd (gen .w32 true 4#7 2#7 3#7 0#5), []) ∧
  decodeBytes (bytesOfWords [0xFFFFF604#32]) = .ok (.bra ⟨.w32, 0xFFFFFFFB#32, .all⟩, []) ∧
  decodeBytes (bytesOfWords [0x0000083E#32, 0x00010000#32, 2#32]) =
    .ok (.sysSmovr { gen .lit false 4#7 0#7 0#7 1#5 with lit := 2#32 }, []) ∧
  decodeBytes (bytesOfWords [0x00000019#32, 0x00060000#32]) = .ok (.enter (gen .w64 false 0#7 0#7 0#7 6#5), []) ∧
  decodeBytes (bytesOfWords [0x030414CD#32, 0x05000880#32]) = .ok (.ffma
    { gen .w64 false 10#7 4#7 6#7 0#5 with pb := ⟨.butterfly, 1#6⟩, lc := true, c := 8#7 }, []) ∧
  decodeBytes (bytesOfWords [0x00021104#32]) = .ok (.ballot (gen .w32 false 8#7 2#7 0#7 0#5), []) ∧
  decodeBytes (bytesOfWords [0x01000940#32]) = .ok (.ld (mem .w32 4#7 0#7 2#7 0#7 .b32), []) ∧
  decodeBytes (bytesOfWords [0x38020145#32, 0x009A0020#32]) = .ok (.st
    { mem .w64 0#7 2#7 112#7 2#7 .b32 with order := .release }, []) ∧
  decodeBytes (bytesOfWords [0x38600382#32, 0x001C0700#32, 0x4000#32]) = .ok (.tld
    { mem .lit 1#7 96#7 112#7 112#7 .b128 with off := 0x4000#32 }, []) ∧
  decodeBytes (bytesOfWords [0x40A00389#32, 0x00000800#32]) = .ok (.mma
    ⟨.w64, false, true, 1#7, 32#7, 1#7, false, 0#5, 0#4, true, 0#7, .all⟩, []) ∧
  decodeBytes (bytesOfWords [0x386201C2#32, 0x001A0031#32, 0x80#32]) = .ok (.qpush
    { mem .lit 0#7 98#7 112#7 3#7 .b32 with grd := ⟨false, 1#3⟩, off := 0x80#32 }, []) ∧
  decodeBytes (bytesOfWords [0x0000003D#32, 0x00140000#32]) = .error .sub ∧
  decodeBytes (bytesOfWords [0x01820841#32, 0x00000008#32]) = .error .guardField

/-- R28 to R47: decoding what an instruction of any constructor is encoded as gives the instruction back, with every
operand at every value its encoding admits, and leaves the bytes after it; a reserved opcode decodes as itself
whatever follows. -/
def Obligations.DecodeOfEncode : Prop :=
  ∀ (i : Instr), i.wf = true →
    (∀ rest, i.enc ≠ none → (∀ w, i ≠ .reservedOpcode w) → decodeBytes (bytesOfWords (encode i) ++ rest) = .ok (i, rest)) ∧
    (∀ w w1 w2, i = .reservedOpcode w → decodeWords w w1 w2 = .ok i)

/-- R28, R32 to R34, R50: what the decoder answers is well formed, and is encoded as the very words it was read from:
no bit of an instruction's words goes unread; nothing it answers has zero, a special or p0 as its destination. -/
def Obligations.EncodeOfDecode : Prop :=
  ∀ (w0 w1 w2 : Word) (i : Instr), decodeWords w0 w1 w2 = .ok i →
    i.wf = true ∧ ((∀ w, i ≠ .reservedOpcode w) → encode i = [w0, w1, w2].take (lenOf w0).words) ∧
    (∀ e, i.enc = some e → ∀ u ∈ encUses e,
      (u.kind ∈ [Kind.dst, .dstPair, .dstPairV] → u.fld.toNat < 112 ∨ 120 ≤ u.fld.toNat) ∧
      (u.kind = .dstPred → 1 ≤ u.fld.toNat ∧ u.fld.toNat < 8))

/-- R51, R52, R107, R130: the checks of an instruction at issue come in one order: a permute beyond the width is
ILLEGAL, a SYS outside solo code PRIVILEGE, an operand outside the window or the declared counts OPERAND, each naming
the split's lanes; then what stalls it leaves everything as it is; and with no active lane it only advances, REGION
and UIRET apart. R46, R51: an instruction of a reserved opcode takes ILLEGAL in every lane of its split. It rests in
part on choices of the model: log entry 127. -/
def Obligations.ChecksInOrder : Prop :=
  (∀ (i : Instr) (s : State) (x : Iss), i.wf = true → (∀ w, i ≠ .reservedOpcode w) → s.issuing i = some x →
     let answers (t : State) : Prop := exec i s = .next t ∨ exec i s = .next t.poll
     let traps (c : Cause) : Prop := answers (x.finish (.trap s ⟨c, x.sp.mask, 0#64, none⟩))
     let sys := encOp x.enc = 0x0F#7 ∧ x.w.inSolo = false
     (x.permutesFit = false → traps .illegal) ∧
     (x.permutesFit = true → sys → traps .privilege) ∧
     (x.permutesFit = true → ¬sys → x.operandsFit = false → traps .operand) ∧
     (x.permutesFit = true → ¬sys → x.operandsFit = true → x.blocked = true → answers s) ∧
     (x.permutesFit = true → ¬sys → x.operandsFit = true → x.blocked = false → x.act = 0#64 →
       encOp x.enc ≠ 0x08#7 → encOp x.enc ≠ 0x78#7 → answers (x.complete s true))) ∧
  (∀ (w : Word) (s : State) (x : Iss), s.issuing (.reservedOpcode w) = some x →
     exec (.reservedOpcode w) s = .next (x.finish (.trap s ⟨.illegal, x.sp.mask, 0#64, none⟩)))

/-- R10, R138, R146, R148: a destination write changes only its destination: in a value register the lanes written
take the new values and every other lane keeps the version the instruction reads; a scalar takes the lowest active
lane's value; every other name, scalar, predicate, mode word and PC is as it was. What the completion of a register
instruction leaves alone: memory but for the WAITCLK of the wave's context, the host's memory, every block with its
scratch, every other wave, every message, link and engine, every home but for the write of WAITCLK where the host
holds its bytes, every context but for the waiting clock of the wave's own, and every quadrant but its own. It rests
in part on choices of the model: log entry 22. -/
def Obligations.DestinationWriteFrame : Prop :=
  (∀ (x : Iss) (w : Wave) (d : Fld) (lanes : Lanes) (v : Nat → Val),
     let t := x.put w d 0 lanes v
     let home := w.ownerOf d.toNat 64 x.sp.win
     t.splits = w.splits ∧ t.preds = w.preds ∧ t.modes = w.modes ∧ t.lanearr = w.lanearr ∧ t.tiles = w.tiles ∧
     t.accs = w.accs ∧ t.live = w.live ∧ t.st = w.st ∧
     (d.toNat < 96 → (∀ r ∈ w.regs, r.id < w.nextReg) → (w.window? home).isSome = true →
       (∀ l < w.width, t.laneVal (t.phys? x.sp.win d.toNat) l =
         if hasLane lanes l then v l else w.laneVal (x.w.source x.sp d.toNat) l) ∧
       (∀ win m, (w.ownerOf m 64 win ≠ home ∨ m ≠ d.toNat) → t.phys? win m = w.phys? win m) ∧
       (∀ r l, r < w.nextReg → t.laneVal (some r) l = w.laneVal (some r) l) ∧ t.sregs = w.sregs ∧ t.held = w.held) ∧
     (96 ≤ d.toNat → d.toNat < 112 → t.regs = w.regs ∧ t.windows = w.windows ∧ t.held = w.held ∧
       (hasLane lanes x.first = false → t.sregs = w.sregs) ∧
       (∀ k, k ≠ d.toNat - 96 → t.sregs[k]? = w.sregs[k]?) ∧
       (hasLane lanes x.first = true → d.toNat - 96 < w.sregs.length → t.sregs[d.toNat - 96]? = some (v x.first))) ∧
     (120 ≤ d.toNat → t.regs = w.regs ∧ t.windows = w.windows ∧ t.sregs = w.sregs ∧
       (hasLane lanes x.first = false → t.held = w.held) ∧
       (hasLane lanes x.first = true → t.held = w.held ++ [⟨x.no, x.clk, 0, .bscalar (d.toNat - 120) (v x.first), none⟩]))) ∧
  (∀ (i : Instr) (s : State) (x : Iss) (v : Wave), Issues i s x → v.id = x.w.id → exec i s = .next (x.leaves v) →
     ∃ t : State, exec i s = .next t ∧ s.keepsMemory t x.w.ctx ∧ (∀ m ∈ s.msgs, m ∈ t.msgs) ∧
       t.homes = { s.homes with posted := t.homes.posted } ∧
       ((s.ctx x.w.ctx).waitclk = 0 ∨ s.hostHolds ⟨.dev, s.entryAddr x.w.ctx + 0x60⟩ = false ∧ s.homes.posted = [] →
         t.msgs = s.msgs ∧ t.homes = s.homes) ∧
       (s.dev.hbmErrors = [] → t.dev = s.dev) ∧ t.link = s.link ∧ t.engines = s.engines ∧ t.sched = s.sched ∧ t.cores = s.cores ∧
       t.agenda = s.agenda ∧ t.free = s.free ∧ t.cur = none ∧
       (∀ id, id ≠ x.w.id → t.wave? id = s.wave? id) ∧
       (∀ c, c ≠ x.w.ctx → t.ctx c = s.ctx c) ∧ (∃ n, t.ctx x.w.ctx = { s.ctx x.w.ctx with waitclk := n }) ∧
       (∀ q, q ≠ x.w.quadNo → t.quad q = s.quad q))

/-- The memories stay as data in one form: a step keeps the device's memory, the host's and every block's scratch
canonical, so that equal contents are equal lists. -/
def Obligations.StepKeepsMemoriesCanonical : Prop :=
  ∀ (s t : State), s.memoriesWf = true → step s = .next t → t.memoriesWf = true

/-- Every step goes on: no state makes the machine fault or refuse. -/
def Obligations.EveryStepGoesOn : Prop :=
  ∀ s : State, s.steps

end Slice0Obligations
end

