-- ==== Sys2Proof/Laws/Issue.lean ====
section
/-! SUPPORT. What the issue of an instruction does once nothing stands before its effect, and what it does otherwise. -/

namespace Sys2Proof.Machine

theorem State.issuing_s {s : State} {i : Instr} {x : Iss} (h : s.issuing i = some x) : x.s = s := by
  unfold State.issuing at h
  repeat' split at h
  all_goals first | cases h; rfl | cases h

theorem State.issuing_enc {s : State} {i : Instr} {x : Iss} (h : s.issuing i = some x) : i.enc = some x.enc := by
  unfold State.issuing at h
  repeat' split at h
  all_goals first | (cases h; assumption) | cases h

theorem Issues.s_eq {i : Instr} {s : State} {x : Iss} (h : Issues i s x) : x.s = s := State.issuing_s h.1

/-- Nothing stands before the effect: the body runs. -/
theorem Iss.run_clear {x : Iss} (h : x.clear = true) (body : Iss → Res) : x.run body = body x := by
  unfold Iss.clear at h
  unfold Iss.run
  simp only [Bool.and_eq_true, Bool.or_eq_true, Bool.not_eq_true', bne_iff_ne] at h
  obtain ⟨⟨⟨⟨h1, h2⟩, h3⟩, h4⟩, h5⟩ := h
  rw [if_neg (by simp [h1]), if_neg (by rcases h2 with h2 | h2 <;> simp [h2]), if_neg (by simp [h3]), if_neg (by simp [h4]),
    if_neg (by rcases h5 with h5 | h5 <;> simp [h5])]

/-- An instruction that issues with nothing before its effect answers what its body and its end give. -/
theorem Issues.meaning {i : Instr} {s : State} {x : Iss} (h : Issues i s x) (body : Iss → Res) :
    issueWave i body s = .next (x.finish (body x)) := by
  unfold issueWave
  rw [h.1]
  simp only [Iss.run_clear h.2]

/-- The same for an instruction that may wait: what waits is evaluated at issue. -/
theorem Issues.meaningWait {i : Instr} {s : State} {x : Iss} (h : Issues i s x) (body : Iss → Res) :
    issueWait i body s = .next (x.finish (body x)).poll := by
  unfold issueWait
  rw [h.meaning]

/-- Every meaning of a wave's instruction answers a next state when the machine issues it. -/
theorem issueWave_next {i : Instr} {s : State} {x : Iss} (h : s.issuing i = some x) (body : Iss → Res) :
    issueWave i body s = .next (x.finish (x.run body)) := by
  unfold issueWave
  rw [h]

theorem Iss.finish_ok (x : Iss) (s : State) : x.finish (.ok s) = x.complete s true := rfl
theorem Iss.finish_jump (x : Iss) (s : State) : x.finish (.jump s) = x.complete s false := rfl
theorem Iss.finish_done (x : Iss) (w : Wave) : x.finish (x.done w) = x.leaves w := rfl
theorem Iss.finish_stall (x : Iss) (s : State) : x.finish (.stall s) = s := rfl

end Sys2Proof.Machine
end

