-- ==== Sys2Proof/Laws/Memory.lean ====
section
/-! SUPPORT. Memory: reading after writing, and the canonical form that every operation keeps. -/

namespace Sys2Proof.Machine

/-! Lists of pairs sorted by key. -/

theorem lookupKey_insertKey {β : Type} (k j : Nat) (v : β) (l : List (Nat × β)) :
    lookupKey j (insertKey k v l) = if j = k then some v else lookupKey j l := by
  induction l with
  | nil => simp [insertKey, lookupKey]
  | cons p r ih =>
    obtain ⟨i, u⟩ := p
    by_cases h1 : k < i
    · simp [insertKey, lookupKey, h1]
    · by_cases h2 : k = i
      · subst h2
        by_cases hj : j = k <;> simp [insertKey, lookupKey, hj]
      · simp only [insertKey, if_neg h1, if_neg h2, lookupKey, ih]
        by_cases hj : j = k
        · subst hj; simp [h2]
        · simp [hj]

theorem lookupKey_eraseKey {β : Type} (k j : Nat) (l : List (Nat × β)) :
    lookupKey j (eraseKey k l) = if j = k then none else lookupKey j l := by
  induction l with
  | nil => simp [eraseKey, lookupKey]
  | cons p r ih =>
    obtain ⟨i, u⟩ := p
    by_cases h : k = i
    · subst h
      simp only [eraseKey, if_pos, ih, lookupKey]
      by_cases hj : j = k <;> simp [hj]
    · simp only [eraseKey, if_neg h, lookupKey, ih]
      by_cases hj : j = k
      · subst hj; simp [h]
      · simp [hj]

theorem mem_insertKey {β : Type} {k : Nat} {v : β} {l : List (Nat × β)} {p : Nat × β} (h : p ∈ insertKey k v l) :
    p = (k, v) ∨ p ∈ l := by
  induction l with
  | nil => simpa [insertKey] using h
  | cons q r ih =>
    obtain ⟨i, u⟩ := q
    simp only [insertKey] at h
    split at h
    · simpa using h
    · split at h
      · rcases List.mem_cons.1 h with h | h
        · exact .inl h
        · exact .inr (List.mem_cons_of_mem _ h)
      · rcases List.mem_cons.1 h with h | h
        · exact .inr (h ▸ List.mem_cons_self)
        · rcases ih h with h | h
          · exact .inl h
          · exact .inr (List.mem_cons_of_mem _ h)

theorem mem_eraseKey {β : Type} {k : Nat} {l : List (Nat × β)} {p : Nat × β} (h : p ∈ eraseKey k l) : p ∈ l := by
  induction l with
  | nil => simp [eraseKey] at h
  | cons q r ih =>
    obtain ⟨i, u⟩ := q
    simp only [eraseKey] at h
    split at h
    · exact List.mem_cons_of_mem _ (ih h)
    · rcases List.mem_cons.1 h with h | h
      · exact h ▸ List.mem_cons_self
      · exact List.mem_cons_of_mem _ (ih h)

/-! Rising lists. -/

theorem risingFrom_mono {a b : Nat} (hab : a ≤ b) {l : List Nat} (h : risingFrom b l = true) : risingFrom a l = true := by
  cases l with
  | nil => rfl
  | cons k r => simp [risingFrom] at h ⊢; exact ⟨by omega, h.2⟩

theorem risingFrom_insertKey {β : Type} (k : Nat) (v : β) : ∀ (l : List (Nat × β)) (lo : Nat), lo ≤ k →
    risingFrom lo (l.map (·.1)) = true → risingFrom lo ((insertKey k v l).map (·.1)) = true
  | [], lo, hk, _ => by simp [insertKey, risingFrom, hk]
  | (i, u) :: r, lo, hk, h => by
    simp only [List.map_cons, risingFrom, Bool.and_eq_true, decide_eq_true_eq] at h
    simp only [insertKey]
    split
    · simp only [List.map_cons, risingFrom, Bool.and_eq_true, decide_eq_true_eq]
      exact ⟨hk, by omega, h.2⟩
    · split
      · simp only [List.map_cons, risingFrom, Bool.and_eq_true, decide_eq_true_eq]
        exact ⟨hk, by rename_i e; exact e ▸ h.2⟩
      · simp only [List.map_cons, risingFrom, Bool.and_eq_true, decide_eq_true_eq]
        exact ⟨h.1, risingFrom_insertKey k v r (i + 1) (by omega) h.2⟩

theorem risingFrom_eraseKey {β : Type} (k : Nat) : ∀ (l : List (Nat × β)) (lo : Nat),
    risingFrom lo (l.map (·.1)) = true → risingFrom lo ((eraseKey k l).map (·.1)) = true
  | [], _, _ => rfl
  | (i, u) :: r, lo, h => by
    simp only [List.map_cons, risingFrom, Bool.and_eq_true, decide_eq_true_eq] at h
    simp only [eraseKey]
    split
    · exact risingFrom_mono (by omega) (risingFrom_eraseKey k r (i + 1) h.2)
    · simp only [List.map_cons, risingFrom, Bool.and_eq_true, decide_eq_true_eq]
      exact ⟨h.1, risingFrom_eraseKey k r (i + 1) h.2⟩

theorem risingFrom_insertNat (k : Nat) : ∀ (l : List Nat) (lo : Nat), lo ≤ k → risingFrom lo l = true →
    risingFrom lo (insertNat k l) = true
  | [], lo, hk, _ => by simp [insertNat, risingFrom, hk]
  | i :: r, lo, hk, h => by
    simp only [risingFrom, Bool.and_eq_true, decide_eq_true_eq] at h
    simp only [insertNat]
    split
    · simp only [risingFrom, Bool.and_eq_true, decide_eq_true_eq]; exact ⟨hk, by omega, h.2⟩
    · split
      · simp only [risingFrom, Bool.and_eq_true, decide_eq_true_eq]; exact h
      · simp only [risingFrom, Bool.and_eq_true, decide_eq_true_eq]
        exact ⟨h.1, risingFrom_insertNat k r (i + 1) (by omega) h.2⟩

theorem risingFrom_filter (p : Nat → Bool) : ∀ (l : List Nat) (lo : Nat), risingFrom lo l = true →
    risingFrom lo (l.filter p) = true
  | [], _, _ => rfl
  | i :: r, lo, h => by
    simp only [risingFrom, Bool.and_eq_true, decide_eq_true_eq] at h
    simp only [List.filter_cons]
    split
    · simp only [risingFrom, Bool.and_eq_true, decide_eq_true_eq]; exact ⟨h.1, risingFrom_filter p r (i + 1) h.2⟩
    · exact risingFrom_mono (by omega) (risingFrom_filter p r (i + 1) h.2)

/-! What a byte reads as. -/

@[simp] theorem Memory.set_unlisted (m : Memory) (a : Nat) (b : Byte) : (m.set a b).unlisted = m.unlisted := by
  unfold Memory.set; split <;> rfl
@[simp] theorem Memory.set_poison (m : Memory) (a : Nat) (b : Byte) : (m.set a b).poison = m.poison := by
  unfold Memory.set; split <;> rfl

theorem Memory.get_set (m : Memory) (a c : Nat) (b : Byte) : (m.set a b).get c = if c = a then b else m.get c := by
  by_cases h : b = m.unlisted a
  · have e : (m.set a b).get c = match lookupKey c (eraseKey a m.cells) with
      | some b => b
      | none => m.unlisted c := by
      rw [Memory.set, if_pos h]; rfl
    rw [e, lookupKey_eraseKey]
    by_cases hc : c = a
    · subst hc; simp [h]
    · rw [if_neg hc, if_neg hc]; rfl
  · have e : (m.set a b).get c = match lookupKey c (insertKey a b m.cells) with
      | some b => b
      | none => m.unlisted c := by
      rw [Memory.set, if_neg h]; rfl
    rw [e, lookupKey_insertKey]
    by_cases hc : c = a
    · subst hc; simp
    · rw [if_neg hc, if_neg hc]; rfl

theorem Memory.get_setBytes (bs : List Byte) : ∀ (m : Memory) (a c : Nat),
    (m.setBytes a bs).get c = if a ≤ c ∧ c < a + bs.length then bs.getD (c - a) 0#8 else m.get c := by
  induction bs with
  | nil => intro m a c; simp only [Memory.setBytes, List.length_nil]; rw [if_neg (by omega)]
  | cons b bs ih =>
    intro m a c
    simp only [Memory.setBytes, ih, Memory.get_set, List.length_cons]
    by_cases h : a = c
    · subst h; rw [if_neg (by omega), if_pos rfl, if_pos (by omega)]; simp
    · by_cases h1 : a + 1 ≤ c ∧ c < a + 1 + bs.length
      · rw [if_pos h1, if_pos (by omega)]
        obtain ⟨k, rfl⟩ : ∃ k, c = a + (k + 1) := ⟨c - a - 1, by omega⟩
        simp [show a + (k + 1) - (a + 1) = k by omega]
      · rw [if_neg h1, if_neg (by omega), if_neg (by omega)]

@[simp] theorem Memory.get_setPoison (m : Memory) (k c : Nat) (p : Bool) : (m.setPoison k p).get c = m.get c := by
  unfold Memory.setPoison; split <;> rfl

theorem Memory.get_foldl_poison {α : Type} (f : Memory → α → Memory) (hf : ∀ m a c, (f m a).get c = m.get c) (l : List α) :
    ∀ (m : Memory) (c : Nat), (l.foldl f m).get c = m.get c := by
  induction l with
  | nil => intro m c; rfl
  | cons a l ih => intro m c; rw [List.foldl_cons, ih, hf]

@[simp] theorem Memory.get_markSectors (m : Memory) (a : Nat) (bs : List PByte) (c : Nat) :
    (m.markSectors a bs).get c = m.get c := by
  unfold Memory.markSectors
  apply Memory.get_foldl_poison
  intro m k c
  dsimp only
  split <;> (try split) <;> simp

/-- A store gives its bytes to the locations it covers and leaves every other byte as it was (R257). -/
theorem Memory.get_store (m : Memory) (a : Nat) (bs : List PByte) (c : Nat) : (m.store a bs).get c =
    if a ≤ c ∧ c < a + bs.length then (bs.map (·.byte)).getD (c - a) 0#8 else m.get c := by
  unfold Memory.store
  split
  · rename_i h
    rw [List.isEmpty_iff.1 h, if_neg (by simp only [List.length_nil]; omega)]
  · simp [Memory.get_setBytes]

/-! The canonical form. -/

theorem Memory.wf_empty : Memory.empty.wf = true := rfl

theorem Memory.wf_set {m : Memory} (h : m.wf = true) (a : Nat) (b : Byte) : (m.set a b).wf = true := by
  simp only [Memory.wf, Bool.and_eq_true, List.all_eq_true, bne_iff_ne] at h ⊢
  obtain ⟨⟨h1, h2⟩, h3⟩ := h
  unfold Memory.set
  split
  · refine ⟨⟨risingFrom_eraseKey a _ 0 h1, fun c hc => h2 c (mem_eraseKey hc)⟩, h3⟩
  · rename_i hb
    refine ⟨⟨risingFrom_insertKey a b _ 0 (Nat.zero_le _) h1, fun c hc => ?_⟩, h3⟩
    rcases mem_insertKey hc with h | h
    · subst h; exact hb
    · exact h2 c h

theorem Memory.wf_setBytes (bs : List Byte) : ∀ {m : Memory} (_ : m.wf = true) (a : Nat), (m.setBytes a bs).wf = true := by
  induction bs with
  | nil => intro m h a; exact h
  | cons b bs ih => intro m h a; exact ih (Memory.wf_set h a b) (a + 1)

theorem Memory.wf_setNat {m : Memory} (h : m.wf = true) (a n v : Nat) : (m.setNat a n v).wf = true :=
  Memory.wf_setBytes _ h a

theorem Memory.wf_setPoison {m : Memory} (h : m.wf = true) (k : Nat) (p : Bool) : (m.setPoison k p).wf = true := by
  simp only [Memory.wf, Bool.and_eq_true] at h ⊢
  unfold Memory.setPoison
  split
  · exact ⟨h.1, risingFrom_insertNat k _ 0 (Nat.zero_le _) h.2⟩
  · exact ⟨h.1, risingFrom_filter _ _ 0 h.2⟩

theorem Memory.wf_foldl {α : Type} (f : Memory → α → Memory) (hf : ∀ m a, m.wf = true → (f m a).wf = true) (l : List α) :
    ∀ {m : Memory}, m.wf = true → (l.foldl f m).wf = true := by
  induction l with
  | nil => intro m h; exact h
  | cons a l ih => intro m h; exact ih (hf m a h)

theorem Memory.wf_markSectors {m : Memory} (h : m.wf = true) (a : Nat) (bs : List PByte) :
    (m.markSectors a bs).wf = true := by
  unfold Memory.markSectors
  refine Memory.wf_foldl _ (fun m k h => ?_) _ h
  dsimp only
  split
  · exact Memory.wf_setPoison h _ _
  · split
    · exact Memory.wf_setPoison h _ _
    · exact h

/-- Every store keeps the canonical form. -/
theorem Memory.wf_store {m : Memory} (h : m.wf = true) (a : Nat) (bs : List PByte) : (m.store a bs).wf = true := by
  unfold Memory.store
  split
  · exact h
  · exact Memory.wf_markSectors (Memory.wf_setBytes _ h a) a bs

/-! What the device writes in a form of its own (R86). -/

theorem Memory.unlisted_veil (m : Memory) (lo hi a : Nat) (n : Option Nat) (h : a < lo ∨ hi ≤ a) :
    (m.veil lo hi n).unlisted a = m.unlisted a := by
  have out : ∀ l : List (Nat × Nat × Option Nat), (l.filter fun v => v.1 != lo || v.2.1 != hi).find? (fun v => v.1 ≤ a && a < v.2.1) =
      l.find? fun v => v.1 ≤ a && a < v.2.1 := by
    intro l
    induction l with
    | nil => rfl
    | cons v l ih =>
      by_cases hv : v.1 = lo ∧ v.2.1 = hi
      · have no : (decide (v.1 ≤ a) && decide (a < v.2.1)) = false := by
          simp only [hv.1, hv.2, Bool.and_eq_false_iff, decide_eq_false_iff_not]; omega
        have gone : (v.1 != lo || v.2.1 != hi) = false := by simp [hv.1, hv.2]
        rw [List.filter_cons, gone, List.find?_cons, no]
        exact ih
      · have : (v.1 != lo || v.2.1 != hi) = true := by simp only [Bool.or_eq_true, bne_iff_ne]; omega
        simp only [List.filter_cons, this, if_true, List.find?_cons, ih]
  have first : (decide (lo ≤ a) && decide (a < hi)) = false := by
    simp only [Bool.and_eq_false_iff, decide_eq_false_iff_not]; omega
  simp only [Memory.unlisted, Memory.veil, List.find?_cons, first, out]
  rfl

/-- Outside the range every byte reads as before. -/
theorem Memory.get_veil (m : Memory) (lo hi a : Nat) (n : Option Nat) (h : a < lo ∨ hi ≤ a) : (m.veil lo hi n).get a = m.get a := by
  have look : ∀ l : List Host.Cell, lookupKey a (l.filter fun c => decide (c.1 < lo) || decide (hi ≤ c.1)) = lookupKey a l := by
    intro l
    induction l with
    | nil => rfl
    | cons c l ih =>
      by_cases hc : (decide (c.1 < lo) || decide (hi ≤ c.1)) = true
      · simp only [List.filter_cons, hc, if_true, lookupKey, ih]
      · have : c.1 ≠ a := by
          rintro rfl; simp only [Bool.or_eq_true, decide_eq_true_eq] at hc; omega
        rw [List.filter_cons, if_neg hc, ih]
        simp only [lookupKey, if_neg (Ne.symm this)]
  simp only [Memory.get, show (m.veil lo hi n).cells = m.cells.filter (fun c => decide (c.1 < lo) || decide (hi ≤ c.1)) from rfl,
    look, Memory.unlisted_veil m lo hi a n h]

theorem Memory.wf_veil {m : Memory} (h : m.wf = true) (lo hi : Nat) (n : Option Nat) : (m.veil lo hi n).wf = true := by
  simp only [Memory.wf, Bool.and_eq_true, List.all_eq_true, bne_iff_ne] at h ⊢
  obtain ⟨⟨h1, h2⟩, h3⟩ := h
  refine ⟨⟨?_, fun c hc => ?_⟩, risingFrom_filter _ _ 0 h3⟩
  · rw [show ((m.veil lo hi n).cells.map (·.1)) = (m.cells.map (·.1)).filter (fun k => decide (k < lo) || decide (hi ≤ k)) by
      simp only [Memory.veil, List.filter_map]; rfl]
    exact risingFrom_filter _ _ 0 h1
  · have hc' := List.mem_filter.1 (show c ∈ m.cells.filter _ from hc)
    rw [Memory.unlisted_veil m lo hi c.1 n (by simpa using hc'.2)]
    exact h2 c hc'.1

end Sys2Proof.Machine
end

