-- ==== Sys2Proof/Laws/PerInstr.lean ====
section
/-! SUPPORT. Per constructor: the number of words an instruction is encoded in is what its LEN says (R28). -/

namespace Sys2Proof.Laws.EncodedLength

/-- The words of a well-formed instruction are as many as its length says; an event has none, and of a reserved opcode only
word 0 is known. -/
def Statement (i : Instr) : Prop := i.wf = true → (∀ w, i ≠ .reservedOpcode w) → 4 * (encode i).length = i.bytes

theorem event {i : Instr} (h : i.enc = none) : Statement i := by
  intro _ _
  simp [encode, Instr.bytes, h]

theorem general {i : Instr} {op : BitVec 7} {g : Gen} (h : i.enc = some (.gen op g)) : Statement i := by
  intro _ _
  simp only [encode, Instr.bytes, h, Enc.words]
  cases g.len <;> rfl

theorem memory {i : Instr} {op : BitVec 7} {m : Mem} (h : i.enc = some (.mem op m)) : Statement i := by
  intro _ _
  simp only [encode, Instr.bytes, h, Enc.words]
  cases m.len <;> rfl

theorem branch {i : Instr} {op : BitVec 7} {b : Bra} (h : i.enc = some (.bra op b)) : Statement i := by
  intro _ _
  simp only [encode, Instr.bytes, h, Enc.words]
  cases b.len <;> rfl

/-- A well-formed matrix instruction has one word or two (R42). -/
theorem matrix_len {x : Mat} (h : x.check = none) : x.len = .w32 ∨ x.len = .w64 := by
  cases hl : x.len
  · exact .inl rfl
  · exact .inr rfl
  all_goals
    simp only [Mat.check, firstFailing, hl] at h
    split at h <;> (try split at h) <;> simp_all

theorem matrix {i : Instr} {op : BitVec 7} {x : Mat} (h : i.enc = some (.mat op x)) : Statement i := by
  intro hw _
  have hc : x.check = none := by
    simp only [Instr.wf, h, Enc.check, Bool.and_eq_true, beq_iff_eq] at hw
    exact hw.1
  simp only [encode, Instr.bytes, h, Enc.words]
  rcases matrix_len hc with hl | hl <;> rw [hl] <;> rfl

theorem powerUp : Statement .powerUp := event rfl
theorem bootTrainingComplete : Statement .bootTrainingComplete := event rfl
theorem reset (v : DWord) : Statement (.reset v) := event rfl
theorem hotReset : Statement .hotReset := event rfl
theorem functionLevelReset : Statement .functionLevelReset := event rfl
theorem attcmd (v : DWord) : Statement (.attcmd v) := event rfl
theorem quoteComplete : Statement .quoteComplete := event rfl
theorem powercap (v : DWord) : Statement (.powercap v) := event rfl
theorem powercapTakesEffect : Statement .powercapTakesEffect := event rfl
theorem bridgefence : Statement .bridgefence := event rfl
theorem registerWrite (off : Nat) (v : DWord) : Statement (.registerWrite off v) := event rfl
theorem create (ctx : Nat) : Statement (.create ctx) := event rfl
theorem suspend (ctx : Nat) : Statement (.suspend ctx) := event rfl
theorem resume (ctx : Nat) : Statement (.resume ctx) := event rfl
theorem destroy (ctx : Nat) : Statement (.destroy ctx) := event rfl
theorem wresume (ctx : Nat) (tag : Nat) (grid : Nat) : Statement (.wresume ctx tag grid) := event rfl
theorem stop (ctx : Nat) : Statement (.stop ctx) := event rfl
theorem start (ctx : Nat) : Statement (.start ctx) := event rfl
theorem skip (ctx : Nat) : Statement (.skip ctx) := event rfl
theorem retry (ctx : Nat) : Statement (.retry ctx) := event rfl
theorem sysQctl (g : Gen) : Statement (.sysQctl g) := general rfl
theorem hostInterruptSend (ctx : Nat) (vec : Nat) (payload : DWord) (via : HostVia) (whole : Bool) (poisoned : Bool) :
    Statement (.hostInterruptSend ctx vec payload via whole poisoned) := event rfl
theorem sliceEnd (ctx : Nat) : Statement (.sliceEnd ctx) := event rfl
theorem waitBudgetExceeded (ctx : Nat) : Statement (.waitBudgetExceeded ctx) := event rfl
theorem waveSaveComplete (wave : Nat) : Statement (.waveSaveComplete wave) := event rfl
theorem restoreWave (wave : Nat) (core : Nat) (quad : Nat) : Statement (.restoreWave wave core quad) := event rfl
theorem reportedTrapDue (wave : Nat) : Statement (.reportedTrapDue wave) := event rfl
theorem serviceEventDispatch (die : Nat) : Statement (.serviceEventDispatch die) := event rfl
theorem launchExamine (ctx : Nat) (queue : Nat) : Statement (.launchExamine ctx queue) := event rfl
theorem distributorTakeGang (die : Nat) : Statement (.distributorTakeGang die) := event rfl
theorem placeGang (core : Nat) : Statement (.placeGang core) := event rfl
theorem steal (core : Nat) : Statement (.steal core) := event rfl
theorem gangHeadTimeout (core : Nat) : Statement (.gangHeadTimeout core) := event rfl
theorem splitRaise (wave : Nat) (slot : Nat) : Statement (.splitRaise wave slot) := event rfl
theorem yieldExpiry (wave : Nat) (slot : Nat) : Statement (.yieldExpiry wave slot) := event rfl
theorem checkpoint (wave : Nat) : Statement (.checkpoint wave) := event rfl
theorem checkpointDiscard (wave : Nat) (ck : Nat) : Statement (.checkpointDiscard wave ck) := event rfl
theorem registerReturn (wave : Nat) (phys : Nat) : Statement (.registerReturn wave phys) := event rfl
theorem spill (quad : Nat) : Statement (.spill quad) := event rfl
theorem spillRefill (wave : Nat) (win : Nat) : Statement (.spillRefill wave win) := event rfl
theorem waveEnd (wave : Nat) : Statement (.waveEnd wave) := event rfl
theorem permitGrant (die : Nat) : Statement (.permitGrant die) := event rfl
theorem permitIdleReturn (quad : Nat) : Statement (.permitIdleReturn quad) := event rfl
theorem arrayStart (quad : Nat) : Statement (.arrayStart quad) := event rfl
theorem mmaComplete (quad : Nat) : Statement (.mmaComplete quad) := event rfl
theorem l1AgeLimit (core : Nat) (frame : Nat) : Statement (.l1AgeLimit core frame) := event rfl
theorem drainOrder (msg : Nat) : Statement (.drainOrder msg) := event rfl
theorem drainAck (msg : Nat) : Statement (.drainAck msg) := event rfl
theorem holderProbe (msg : Nat) : Statement (.holderProbe msg) := event rfl
theorem probeResponse (msg : Nat) : Statement (.probeResponse msg) := event rfl
theorem homeWriteback (msg : Nat) : Statement (.homeWriteback msg) := event rfl
theorem hostRead (addr : Nat) (size : Nat) (cacheable : Bool) : Statement (.hostRead addr size cacheable) := event rfl
theorem hostWrite (addr : Nat) (data : List Byte) (poisoned : Bool) :
    Statement (.hostWrite addr data poisoned) := event rfl
theorem backInvalidationComplete (msg : Nat) (dirty : Option (List Byte)) :
    Statement (.backInvalidationComplete msg dirty) := event rfl
theorem hostSnoop (addr : Nat) (kind : SnoopKind) : Statement (.hostSnoop addr kind) := event rfl
theorem corePowerGate (core : Nat) : Statement (.corePowerGate core) := event rfl
theorem outboundHoldEnd (wave : Nat) : Statement (.outboundHoldEnd wave) := event rfl
theorem homeRead (msg : Nat) : Statement (.homeRead msg) := event rfl
theorem homeWrite (msg : Nat) : Statement (.homeWrite msg) := event rfl
theorem homeAtomic (msg : Nat) : Statement (.homeAtomic msg) := event rfl
theorem memoryReply (msg : Nat) : Statement (.memoryReply msg) := event rfl
theorem redkContribution (msg : Nat) : Statement (.redkContribution msg) := event rfl
theorem redkResend (msg : Nat) : Statement (.redkResend msg) := event rfl
theorem pageRecheck (ctx : Nat) : Statement (.pageRecheck ctx) := event rfl
theorem headerWriteSeen (ctx : Nat) (engine : Bool) (queue : Nat) :
    Statement (.headerWriteSeen ctx engine queue) := event rfl
theorem entryTake (ctx : Nat) (queue : Nat) : Statement (.entryTake ctx queue) := event rfl
theorem engineBind (engine : Nat) : Statement (.engineBind engine) := event rfl
theorem engineSteal (engine : Nat) : Statement (.engineSteal engine) := event rfl
theorem chunkComplete (engine : Nat) : Statement (.chunkComplete engine) := event rfl
theorem groupRequest (msg : Nat) : Statement (.groupRequest msg) := event rfl
theorem gredResend (msg : Nat) : Statement (.gredResend msg) := event rfl
theorem gredResult (msg : Nat) : Statement (.gredResult msg) := event rfl
theorem barrierCellRequest (msg : Nat) : Statement (.barrierCellRequest msg) := event rfl
theorem carryPost (msg : Nat) : Statement (.carryPost msg) := event rfl
theorem carryForward (msg : Nat) : Statement (.carryForward msg) := event rfl
theorem biasFlipComplete (granule : Nat) : Statement (.biasFlipComplete granule) := event rfl
theorem remoteRequest (req : RemoteReq) : Statement (.remoteRequest req) := event rfl
theorem remoteReply (key : Key) (r : Reply) : Statement (.remoteReply key r) := event rfl
theorem retransmitTimeout (key : Key) : Statement (.retransmitTimeout key) := event rfl
theorem busyResend (key : Key) : Statement (.busyResend key) := event rfl
theorem retirementNotice (rank : Nat) (incarn : Nat) (ctx : Nat) (tag : Nat) (gridLo : Nat) (gridHi : Nat) :
    Statement (.retirementNotice rank incarn ctx tag gridLo gridHi) := event rfl
theorem retirementAck (ctx : Nat) (tag : Nat) : Statement (.retirementAck ctx tag) := event rfl
theorem portStateChange (port : Nat) (st : PortState) (lanes : Nat) :
    Statement (.portStateChange port st lanes) := event rfl
theorem injectorTrigger (lane : Nat) : Statement (.injectorTrigger lane) := event rfl
theorem injectorDelayEnd (lane : Nat) : Statement (.injectorDelayEnd lane) := event rfl
theorem slotReleaseNotice (descriptor : DWord) (released : DWord) :
    Statement (.slotReleaseNotice descriptor released) := event rfl
theorem interruptSend (msg : Nat) : Statement (.interruptSend msg) := event rfl
theorem interruptDelivery (ctx : Nat) : Statement (.interruptDelivery ctx) := event rfl
theorem strikeReport (quad : Nat) : Statement (.strikeReport quad) := event rfl
theorem nop (g : Gen) : Statement (.nop g) := general rfl
theorem bra (g : Bra) : Statement (.bra g) := branch rfl
theorem brx (g : Gen) : Statement (.brx g) := general rfl
theorem call (g : Bra) : Statement (.call g) := branch rfl
theorem callx (g : Gen) : Statement (.callx g) := general rfl
theorem ret (g : Gen) : Statement (.ret g) := general rfl
theorem enter (g : Gen) : Statement (.enter g) := general rfl
theorem exit (g : Gen) : Statement (.exit g) := general rfl
theorem region (g : Gen) : Statement (.region g) := general rfl
theorem mode (g : Gen) : Statement (.mode g) := general rfl
theorem modeSet (g : Gen) : Statement (.modeSet g) := general rfl
theorem modeClr (g : Gen) : Statement (.modeClr g) := general rfl
theorem moderd (g : Gen) : Statement (.moderd g) := general rfl
theorem yield (g : Gen) : Statement (.yield g) := general rfl
theorem trap (g : Gen) : Statement (.trap g) := general rfl
theorem brk (g : Gen) : Statement (.brk g) := general rfl
theorem waitc (g : Gen) : Statement (.waitc g) := general rfl
theorem sysSret (g : Gen) : Statement (.sysSret g) := general rfl
theorem sysSmovr (g : Gen) : Statement (.sysSmovr g) := general rfl
theorem sysSmovw (g : Gen) : Statement (.sysSmovw g) := general rfl
theorem sysTlbinv (g : Gen) : Statement (.sysTlbinv g) := general rfl
theorem sysTlbsync (g : Gen) : Statement (.sysTlbsync g) := general rfl
theorem sysEvict (g : Gen) : Statement (.sysEvict g) := general rfl
theorem sysRankw (g : Gen) : Statement (.sysRankw g) := general rfl
theorem sysClaimd (g : Gen) : Statement (.sysClaimd g) := general rfl
theorem sysClaimf (g : Gen) : Statement (.sysClaimf g) := general rfl
theorem sysInj (g : Gen) : Statement (.sysInj g) := general rfl
theorem sysGkill (g : Gen) : Statement (.sysGkill g) := general rfl
theorem sysGrelaunch (g : Gen) : Statement (.sysGrelaunch g) := general rfl
theorem sysBiasset (g : Gen) : Statement (.sysBiasset g) := general rfl
theorem sysWake (g : Gen) : Statement (.sysWake g) := general rfl
theorem iadd (g : Gen) : Statement (.iadd g) := general rfl
theorem isub (g : Gen) : Statement (.isub g) := general rfl
theorem imul (g : Gen) : Statement (.imul g) := general rfl
theorem imulh (g : Gen) : Statement (.imulh g) := general rfl
theorem imad (g : Gen) : Statement (.imad g) := general rfl
theorem imin (g : Gen) : Statement (.imin g) := general rfl
theorem imax (g : Gen) : Statement (.imax g) := general rfl
theorem and (g : Gen) : Statement (.and g) := general rfl
theorem or (g : Gen) : Statement (.or g) := general rfl
theorem xor (g : Gen) : Statement (.xor g) := general rfl
theorem shl (g : Gen) : Statement (.shl g) := general rfl
theorem shr (g : Gen) : Statement (.shr g) := general rfl
theorem sar (g : Gen) : Statement (.sar g) := general rfl
theorem bits (g : Gen) : Statement (.bits g) := general rfl
theorem iset (g : Gen) : Statement (.iset g) := general rfl
theorem sel (g : Gen) : Statement (.sel g) := general rfl
theorem mov (g : Gen) : Statement (.mov g) := general rfl
theorem movl (g : Gen) : Statement (.movl g) := general rfl
theorem lea (g : Gen) : Statement (.lea g) := general rfl
theorem cvt (g : Gen) : Statement (.cvt g) := general rfl
theorem pack (g : Gen) : Statement (.pack g) := general rfl
theorem unpk (g : Gen) : Statement (.unpk g) := general rfl
theorem plog (g : Gen) : Statement (.plog g) := general rfl
theorem pmov (g : Gen) : Statement (.pmov g) := general rfl
theorem rdlane (g : Gen) : Statement (.rdlane g) := general rfl
theorem wrlane (g : Gen) : Statement (.wrlane g) := general rfl
theorem fadd (g : Gen) : Statement (.fadd g) := general rfl
theorem fsub (g : Gen) : Statement (.fsub g) := general rfl
theorem fmul (g : Gen) : Statement (.fmul g) := general rfl
theorem ffma (g : Gen) : Statement (.ffma g) := general rfl
theorem fmin (g : Gen) : Statement (.fmin g) := general rfl
theorem fmax (g : Gen) : Statement (.fmax g) := general rfl
theorem fset (g : Gen) : Statement (.fset g) := general rfl
theorem frnd (g : Gen) : Statement (.frnd g) := general rfl
theorem fdiv (g : Gen) : Statement (.fdiv g) := general rfl
theorem sfu (g : Gen) : Statement (.sfu g) := general rfl
theorem pkfma (g : Gen) : Statement (.pkfma g) := general rfl
theorem pkadd (g : Gen) : Statement (.pkadd g) := general rfl
theorem pkmul (g : Gen) : Statement (.pkmul g) := general rfl
theorem fdot (g : Gen) : Statement (.fdot g) := general rfl
theorem fclass (g : Gen) : Statement (.fclass g) := general rfl
theorem fscl (g : Gen) : Statement (.fscl g) := general rfl
theorem perm (g : Gen) : Statement (.perm g) := general rfl
theorem ballot (g : Gen) : Statement (.ballot g) := general rfl
theorem vote (g : Gen) : Statement (.vote g) := general rfl
theorem matchl (g : Gen) : Statement (.matchl g) := general rfl
theorem scanl (g : Gen) : Statement (.scanl g) := general rfl
theorem redl (g : Gen) : Statement (.redl g) := general rfl
theorem topk (g : Gen) : Statement (.topk g) := general rfl
theorem compress (g : Gen) : Statement (.compress g) := general rfl
theorem expand (g : Gen) : Statement (.expand g) := general rfl
theorem lda (g : Gen) : Statement (.lda g) := general rfl
theorem sta (g : Gen) : Statement (.sta g) := general rfl
theorem ld (m : Mem) : Statement (.ld m) := memory rfl
theorem st (m : Mem) : Statement (.st m) := memory rfl
theorem atom (m : Mem) : Statement (.atom m) := memory rfl
theorem red (m : Mem) : Statement (.red m) := memory rfl
theorem cas (m : Mem) : Statement (.cas m) := memory rfl
theorem redk (m : Mem) : Statement (.redk m) := memory rfl
theorem fence (m : Mem) : Statement (.fence m) := memory rfl
theorem pref (m : Mem) : Statement (.pref m) := memory rfl
theorem cstore (m : Mem) : Statement (.cstore m) := memory rfl
theorem cwait (m : Mem) : Statement (.cwait m) := memory rfl
theorem wback (m : Mem) : Statement (.wback m) := memory rfl
theorem invl (m : Mem) : Statement (.invl m) := memory rfl
theorem tld (m : Mem) : Statement (.tld m) := memory rfl
theorem ttag (g : Gen) : Statement (.ttag g) := general rfl
theorem mma (x : Mat) : Statement (.mma x) := matrix rfl
theorem mmas (x : Mat) : Statement (.mmas x) := matrix rfl
theorem gathr (m : Mem) : Statement (.gathr m) := memory rfl
theorem accz (g : Gen) : Statement (.accz g) := general rfl
theorem accld (m : Mem) : Statement (.accld m) := memory rfl
theorem accst (m : Mem) : Statement (.accst m) := memory rfl
theorem accrd (g : Gen) : Statement (.accrd g) := general rfl
theorem accwr (g : Gen) : Statement (.accwr g) := general rfl
theorem permit (g : Gen) : Statement (.permit g) := general rfl
theorem permitRel (g : Gen) : Statement (.permitRel g) := general rfl
theorem qpush (m : Mem) : Statement (.qpush m) := memory rfl
theorem qwait (m : Mem) : Statement (.qwait m) := memory rfl
theorem putf (m : Mem) : Statement (.putf m) := memory rfl
theorem putm (m : Mem) : Statement (.putm m) := memory rfl
theorem putmRel (m : Mem) : Statement (.putmRel m) := memory rfl
theorem coll (m : Mem) : Statement (.coll m) := memory rfl
theorem cpost (m : Mem) : Statement (.cpost m) := memory rfl
theorem cpeek (m : Mem) : Statement (.cpeek m) := memory rfl
theorem cpeekOut (m : Mem) : Statement (.cpeekOut m) := memory rfl
theorem uint (g : Gen) : Statement (.uint g) := general rfl
theorem uiret (g : Gen) : Statement (.uiret g) := general rfl
theorem uictlMask (g : Gen) : Statement (.uictlMask g) := general rfl
theorem uictlUnmask (g : Gen) : Statement (.uictlUnmask g) := general rfl
theorem uictlAck (g : Gen) : Statement (.uictlAck g) := general rfl
theorem uictlQuery (g : Gen) : Statement (.uictlQuery g) := general rfl
theorem gjoin (g : Gen) : Statement (.gjoin g) := general rfl
theorem gleave (g : Gen) : Statement (.gleave g) := general rfl
theorem gred (g : Gen) : Statement (.gred g) := general rfl
theorem bsync (g : Gen) : Statement (.bsync g) := general rfl
theorem barInit (m : Mem) : Statement (.barInit m) := memory rfl
theorem barArrive (m : Mem) : Statement (.barArrive m) := memory rfl
theorem barExpect (m : Mem) : Statement (.barExpect m) := memory rfl
theorem barWait (m : Mem) : Statement (.barWait m) := memory rfl
theorem barTest (m : Mem) : Statement (.barTest m) := memory rfl
theorem powerRemoved : Statement .powerRemoved := event rfl
theorem reservedOpcode (w : Word) : Statement (.reservedOpcode w) := fun _ h => absurd rfl (h _)
theorem sfuComplete (quad : Nat) : Statement (.sfuComplete quad) := event rfl
theorem hostCopyReturn (line : Nat) (half : Nat) : Statement (.hostCopyReturn line half) := event rfl
theorem exclusiveOwnershipGrant (msg : Nat) : Statement (.exclusiveOwnershipGrant msg) := event rfl

end Sys2Proof.Laws.EncodedLength
end

