-- ==== Sys2Proof/Laws/State.lean ====
section
/-! SUPPORT. What each update of the state leaves as it was, field by field, and what it sets. -/

namespace Sys2Proof.Machine.State

@[simp] theorem putWave_agenda (s : State) (w : Wave) : (s.putWave w).agenda = s.agenda := rfl
@[simp] theorem putWave_cur (s : State) (w : Wave) : (s.putWave w).cur = s.cur := rfl
@[simp] theorem putWave_free (s : State) (w : Wave) : (s.putWave w).free = s.free := rfl
@[simp] theorem putWave_dev (s : State) (w : Wave) : (s.putWave w).dev = s.dev := rfl
@[simp] theorem putWave_mem (s : State) (w : Wave) : (s.putWave w).mem = s.mem := rfl
@[simp] theorem putWave_host (s : State) (w : Wave) : (s.putWave w).host = s.host := rfl
@[simp] theorem putWave_sched (s : State) (w : Wave) : (s.putWave w).sched = s.sched := rfl
@[simp] theorem putWave_ctxs (s : State) (w : Wave) : (s.putWave w).ctxs = s.ctxs := rfl
@[simp] theorem putWave_blocks (s : State) (w : Wave) : (s.putWave w).blocks = s.blocks := rfl
@[simp] theorem putWave_cores (s : State) (w : Wave) : (s.putWave w).cores = s.cores := rfl
@[simp] theorem putWave_quads (s : State) (w : Wave) : (s.putWave w).quads = s.quads := rfl
@[simp] theorem putWave_engines (s : State) (w : Wave) : (s.putWave w).engines = s.engines := rfl
@[simp] theorem putWave_homes (s : State) (w : Wave) : (s.putWave w).homes = s.homes := rfl
@[simp] theorem putWave_msgs (s : State) (w : Wave) : (s.putWave w).msgs = s.msgs := rfl
@[simp] theorem putWave_nextMsg (s : State) (w : Wave) : (s.putWave w).nextMsg = s.nextMsg := rfl
@[simp] theorem putWave_link (s : State) (w : Wave) : (s.putWave w).link = s.link := rfl

@[simp] theorem modWave_agenda (s : State) (n : Nat) (f : Wave → Wave) : (s.modWave n f).agenda = s.agenda := rfl
@[simp] theorem modWave_cur (s : State) (n : Nat) (f : Wave → Wave) : (s.modWave n f).cur = s.cur := rfl
@[simp] theorem modWave_free (s : State) (n : Nat) (f : Wave → Wave) : (s.modWave n f).free = s.free := rfl
@[simp] theorem modWave_dev (s : State) (n : Nat) (f : Wave → Wave) : (s.modWave n f).dev = s.dev := rfl
@[simp] theorem modWave_mem (s : State) (n : Nat) (f : Wave → Wave) : (s.modWave n f).mem = s.mem := rfl
@[simp] theorem modWave_host (s : State) (n : Nat) (f : Wave → Wave) : (s.modWave n f).host = s.host := rfl
@[simp] theorem modWave_sched (s : State) (n : Nat) (f : Wave → Wave) : (s.modWave n f).sched = s.sched := rfl
@[simp] theorem modWave_ctxs (s : State) (n : Nat) (f : Wave → Wave) : (s.modWave n f).ctxs = s.ctxs := rfl
@[simp] theorem modWave_blocks (s : State) (n : Nat) (f : Wave → Wave) : (s.modWave n f).blocks = s.blocks := rfl
@[simp] theorem modWave_cores (s : State) (n : Nat) (f : Wave → Wave) : (s.modWave n f).cores = s.cores := rfl
@[simp] theorem modWave_quads (s : State) (n : Nat) (f : Wave → Wave) : (s.modWave n f).quads = s.quads := rfl
@[simp] theorem modWave_engines (s : State) (n : Nat) (f : Wave → Wave) : (s.modWave n f).engines = s.engines := rfl
@[simp] theorem modWave_homes (s : State) (n : Nat) (f : Wave → Wave) : (s.modWave n f).homes = s.homes := rfl
@[simp] theorem modWave_msgs (s : State) (n : Nat) (f : Wave → Wave) : (s.modWave n f).msgs = s.msgs := rfl
@[simp] theorem modWave_nextMsg (s : State) (n : Nat) (f : Wave → Wave) : (s.modWave n f).nextMsg = s.nextMsg := rfl
@[simp] theorem modWave_link (s : State) (n : Nat) (f : Wave → Wave) : (s.modWave n f).link = s.link := rfl

@[simp] theorem modCtx_agenda (s : State) (n : Nat) (f : Context → Context) : (s.modCtx n f).agenda = s.agenda := rfl
@[simp] theorem modCtx_cur (s : State) (n : Nat) (f : Context → Context) : (s.modCtx n f).cur = s.cur := rfl
@[simp] theorem modCtx_free (s : State) (n : Nat) (f : Context → Context) : (s.modCtx n f).free = s.free := rfl
@[simp] theorem modCtx_dev (s : State) (n : Nat) (f : Context → Context) : (s.modCtx n f).dev = s.dev := rfl
@[simp] theorem modCtx_mem (s : State) (n : Nat) (f : Context → Context) : (s.modCtx n f).mem = s.mem := rfl
@[simp] theorem modCtx_host (s : State) (n : Nat) (f : Context → Context) : (s.modCtx n f).host = s.host := rfl
@[simp] theorem modCtx_sched (s : State) (n : Nat) (f : Context → Context) : (s.modCtx n f).sched = s.sched := rfl
@[simp] theorem modCtx_waves (s : State) (n : Nat) (f : Context → Context) : (s.modCtx n f).waves = s.waves := rfl
@[simp] theorem modCtx_blocks (s : State) (n : Nat) (f : Context → Context) : (s.modCtx n f).blocks = s.blocks := rfl
@[simp] theorem modCtx_cores (s : State) (n : Nat) (f : Context → Context) : (s.modCtx n f).cores = s.cores := rfl
@[simp] theorem modCtx_quads (s : State) (n : Nat) (f : Context → Context) : (s.modCtx n f).quads = s.quads := rfl
@[simp] theorem modCtx_engines (s : State) (n : Nat) (f : Context → Context) : (s.modCtx n f).engines = s.engines := rfl
@[simp] theorem modCtx_homes (s : State) (n : Nat) (f : Context → Context) : (s.modCtx n f).homes = s.homes := rfl
@[simp] theorem modCtx_msgs (s : State) (n : Nat) (f : Context → Context) : (s.modCtx n f).msgs = s.msgs := rfl
@[simp] theorem modCtx_nextMsg (s : State) (n : Nat) (f : Context → Context) : (s.modCtx n f).nextMsg = s.nextMsg := rfl
@[simp] theorem modCtx_link (s : State) (n : Nat) (f : Context → Context) : (s.modCtx n f).link = s.link := rfl

@[simp] theorem modCore_agenda (s : State) (n : Nat) (f : Core → Core) : (s.modCore n f).agenda = s.agenda := rfl
@[simp] theorem modCore_cur (s : State) (n : Nat) (f : Core → Core) : (s.modCore n f).cur = s.cur := rfl
@[simp] theorem modCore_free (s : State) (n : Nat) (f : Core → Core) : (s.modCore n f).free = s.free := rfl
@[simp] theorem modCore_dev (s : State) (n : Nat) (f : Core → Core) : (s.modCore n f).dev = s.dev := rfl
@[simp] theorem modCore_mem (s : State) (n : Nat) (f : Core → Core) : (s.modCore n f).mem = s.mem := rfl
@[simp] theorem modCore_host (s : State) (n : Nat) (f : Core → Core) : (s.modCore n f).host = s.host := rfl
@[simp] theorem modCore_sched (s : State) (n : Nat) (f : Core → Core) : (s.modCore n f).sched = s.sched := rfl
@[simp] theorem modCore_ctxs (s : State) (n : Nat) (f : Core → Core) : (s.modCore n f).ctxs = s.ctxs := rfl
@[simp] theorem modCore_waves (s : State) (n : Nat) (f : Core → Core) : (s.modCore n f).waves = s.waves := rfl
@[simp] theorem modCore_blocks (s : State) (n : Nat) (f : Core → Core) : (s.modCore n f).blocks = s.blocks := rfl
@[simp] theorem modCore_quads (s : State) (n : Nat) (f : Core → Core) : (s.modCore n f).quads = s.quads := rfl
@[simp] theorem modCore_engines (s : State) (n : Nat) (f : Core → Core) : (s.modCore n f).engines = s.engines := rfl
@[simp] theorem modCore_homes (s : State) (n : Nat) (f : Core → Core) : (s.modCore n f).homes = s.homes := rfl
@[simp] theorem modCore_msgs (s : State) (n : Nat) (f : Core → Core) : (s.modCore n f).msgs = s.msgs := rfl
@[simp] theorem modCore_nextMsg (s : State) (n : Nat) (f : Core → Core) : (s.modCore n f).nextMsg = s.nextMsg := rfl
@[simp] theorem modCore_link (s : State) (n : Nat) (f : Core → Core) : (s.modCore n f).link = s.link := rfl

@[simp] theorem modQuad_agenda (s : State) (n : Nat) (f : Quad → Quad) : (s.modQuad n f).agenda = s.agenda := rfl
@[simp] theorem modQuad_cur (s : State) (n : Nat) (f : Quad → Quad) : (s.modQuad n f).cur = s.cur := rfl
@[simp] theorem modQuad_free (s : State) (n : Nat) (f : Quad → Quad) : (s.modQuad n f).free = s.free := rfl
@[simp] theorem modQuad_dev (s : State) (n : Nat) (f : Quad → Quad) : (s.modQuad n f).dev = s.dev := rfl
@[simp] theorem modQuad_mem (s : State) (n : Nat) (f : Quad → Quad) : (s.modQuad n f).mem = s.mem := rfl
@[simp] theorem modQuad_host (s : State) (n : Nat) (f : Quad → Quad) : (s.modQuad n f).host = s.host := rfl
@[simp] theorem modQuad_sched (s : State) (n : Nat) (f : Quad → Quad) : (s.modQuad n f).sched = s.sched := rfl
@[simp] theorem modQuad_ctxs (s : State) (n : Nat) (f : Quad → Quad) : (s.modQuad n f).ctxs = s.ctxs := rfl
@[simp] theorem modQuad_waves (s : State) (n : Nat) (f : Quad → Quad) : (s.modQuad n f).waves = s.waves := rfl
@[simp] theorem modQuad_blocks (s : State) (n : Nat) (f : Quad → Quad) : (s.modQuad n f).blocks = s.blocks := rfl
@[simp] theorem modQuad_cores (s : State) (n : Nat) (f : Quad → Quad) : (s.modQuad n f).cores = s.cores := rfl
@[simp] theorem modQuad_engines (s : State) (n : Nat) (f : Quad → Quad) : (s.modQuad n f).engines = s.engines := rfl
@[simp] theorem modQuad_homes (s : State) (n : Nat) (f : Quad → Quad) : (s.modQuad n f).homes = s.homes := rfl
@[simp] theorem modQuad_msgs (s : State) (n : Nat) (f : Quad → Quad) : (s.modQuad n f).msgs = s.msgs := rfl
@[simp] theorem modQuad_nextMsg (s : State) (n : Nat) (f : Quad → Quad) : (s.modQuad n f).nextMsg = s.nextMsg := rfl
@[simp] theorem modQuad_link (s : State) (n : Nat) (f : Quad → Quad) : (s.modQuad n f).link = s.link := rfl

@[simp] theorem modBlock_agenda (s : State) (n : Nat) (f : Block → Block) : (s.modBlock n f).agenda = s.agenda := rfl
@[simp] theorem modBlock_cur (s : State) (n : Nat) (f : Block → Block) : (s.modBlock n f).cur = s.cur := rfl
@[simp] theorem modBlock_free (s : State) (n : Nat) (f : Block → Block) : (s.modBlock n f).free = s.free := rfl
@[simp] theorem modBlock_dev (s : State) (n : Nat) (f : Block → Block) : (s.modBlock n f).dev = s.dev := rfl
@[simp] theorem modBlock_mem (s : State) (n : Nat) (f : Block → Block) : (s.modBlock n f).mem = s.mem := rfl
@[simp] theorem modBlock_host (s : State) (n : Nat) (f : Block → Block) : (s.modBlock n f).host = s.host := rfl
@[simp] theorem modBlock_sched (s : State) (n : Nat) (f : Block → Block) : (s.modBlock n f).sched = s.sched := rfl
@[simp] theorem modBlock_ctxs (s : State) (n : Nat) (f : Block → Block) : (s.modBlock n f).ctxs = s.ctxs := rfl
@[simp] theorem modBlock_waves (s : State) (n : Nat) (f : Block → Block) : (s.modBlock n f).waves = s.waves := rfl
@[simp] theorem modBlock_cores (s : State) (n : Nat) (f : Block → Block) : (s.modBlock n f).cores = s.cores := rfl
@[simp] theorem modBlock_quads (s : State) (n : Nat) (f : Block → Block) : (s.modBlock n f).quads = s.quads := rfl
@[simp] theorem modBlock_engines (s : State) (n : Nat) (f : Block → Block) : (s.modBlock n f).engines = s.engines := rfl
@[simp] theorem modBlock_homes (s : State) (n : Nat) (f : Block → Block) : (s.modBlock n f).homes = s.homes := rfl
@[simp] theorem modBlock_msgs (s : State) (n : Nat) (f : Block → Block) : (s.modBlock n f).msgs = s.msgs := rfl
@[simp] theorem modBlock_nextMsg (s : State) (n : Nat) (f : Block → Block) : (s.modBlock n f).nextMsg = s.nextMsg := rfl
@[simp] theorem modBlock_link (s : State) (n : Nat) (f : Block → Block) : (s.modBlock n f).link = s.link := rfl

@[simp] theorem modLaunch_agenda (s : State) (c t : Nat) (f : Launch → Launch) : (s.modLaunch c t f).agenda = s.agenda := rfl
@[simp] theorem modLaunch_cur (s : State) (c t : Nat) (f : Launch → Launch) : (s.modLaunch c t f).cur = s.cur := rfl
@[simp] theorem modLaunch_free (s : State) (c t : Nat) (f : Launch → Launch) : (s.modLaunch c t f).free = s.free := rfl
@[simp] theorem modLaunch_dev (s : State) (c t : Nat) (f : Launch → Launch) : (s.modLaunch c t f).dev = s.dev := rfl
@[simp] theorem modLaunch_mem (s : State) (c t : Nat) (f : Launch → Launch) : (s.modLaunch c t f).mem = s.mem := rfl
@[simp] theorem modLaunch_host (s : State) (c t : Nat) (f : Launch → Launch) : (s.modLaunch c t f).host = s.host := rfl
@[simp] theorem modLaunch_ctxs (s : State) (c t : Nat) (f : Launch → Launch) : (s.modLaunch c t f).ctxs = s.ctxs := rfl
@[simp] theorem modLaunch_waves (s : State) (c t : Nat) (f : Launch → Launch) : (s.modLaunch c t f).waves = s.waves := rfl
@[simp] theorem modLaunch_blocks (s : State) (c t : Nat) (f : Launch → Launch) : (s.modLaunch c t f).blocks = s.blocks := rfl
@[simp] theorem modLaunch_cores (s : State) (c t : Nat) (f : Launch → Launch) : (s.modLaunch c t f).cores = s.cores := rfl
@[simp] theorem modLaunch_quads (s : State) (c t : Nat) (f : Launch → Launch) : (s.modLaunch c t f).quads = s.quads := rfl
@[simp] theorem modLaunch_engines (s : State) (c t : Nat) (f : Launch → Launch) : (s.modLaunch c t f).engines = s.engines := rfl
@[simp] theorem modLaunch_homes (s : State) (c t : Nat) (f : Launch → Launch) : (s.modLaunch c t f).homes = s.homes := rfl
@[simp] theorem modLaunch_msgs (s : State) (c t : Nat) (f : Launch → Launch) : (s.modLaunch c t f).msgs = s.msgs := rfl
@[simp] theorem modLaunch_nextMsg (s : State) (c t : Nat) (f : Launch → Launch) : (s.modLaunch c t f).nextMsg = s.nextMsg := rfl
@[simp] theorem modLaunch_link (s : State) (c t : Nat) (f : Launch → Launch) : (s.modLaunch c t f).link = s.link := rfl

@[simp] theorem modHomes_agenda (s : State) (f : Homes → Homes) : (s.modHomes f).agenda = s.agenda := rfl
@[simp] theorem modHomes_cur (s : State) (f : Homes → Homes) : (s.modHomes f).cur = s.cur := rfl
@[simp] theorem modHomes_free (s : State) (f : Homes → Homes) : (s.modHomes f).free = s.free := rfl
@[simp] theorem modHomes_dev (s : State) (f : Homes → Homes) : (s.modHomes f).dev = s.dev := rfl
@[simp] theorem modHomes_mem (s : State) (f : Homes → Homes) : (s.modHomes f).mem = s.mem := rfl
@[simp] theorem modHomes_host (s : State) (f : Homes → Homes) : (s.modHomes f).host = s.host := rfl
@[simp] theorem modHomes_sched (s : State) (f : Homes → Homes) : (s.modHomes f).sched = s.sched := rfl
@[simp] theorem modHomes_ctxs (s : State) (f : Homes → Homes) : (s.modHomes f).ctxs = s.ctxs := rfl
@[simp] theorem modHomes_waves (s : State) (f : Homes → Homes) : (s.modHomes f).waves = s.waves := rfl
@[simp] theorem modHomes_blocks (s : State) (f : Homes → Homes) : (s.modHomes f).blocks = s.blocks := rfl
@[simp] theorem modHomes_cores (s : State) (f : Homes → Homes) : (s.modHomes f).cores = s.cores := rfl
@[simp] theorem modHomes_quads (s : State) (f : Homes → Homes) : (s.modHomes f).quads = s.quads := rfl
@[simp] theorem modHomes_engines (s : State) (f : Homes → Homes) : (s.modHomes f).engines = s.engines := rfl
@[simp] theorem modHomes_msgs (s : State) (f : Homes → Homes) : (s.modHomes f).msgs = s.msgs := rfl
@[simp] theorem modHomes_nextMsg (s : State) (f : Homes → Homes) : (s.modHomes f).nextMsg = s.nextMsg := rfl
@[simp] theorem modHomes_link (s : State) (f : Homes → Homes) : (s.modHomes f).link = s.link := rfl

@[simp] theorem modLink_agenda (s : State) (f : Link → Link) : (s.modLink f).agenda = s.agenda := rfl
@[simp] theorem modLink_cur (s : State) (f : Link → Link) : (s.modLink f).cur = s.cur := rfl
@[simp] theorem modLink_free (s : State) (f : Link → Link) : (s.modLink f).free = s.free := rfl
@[simp] theorem modLink_dev (s : State) (f : Link → Link) : (s.modLink f).dev = s.dev := rfl
@[simp] theorem modLink_mem (s : State) (f : Link → Link) : (s.modLink f).mem = s.mem := rfl
@[simp] theorem modLink_host (s : State) (f : Link → Link) : (s.modLink f).host = s.host := rfl
@[simp] theorem modLink_sched (s : State) (f : Link → Link) : (s.modLink f).sched = s.sched := rfl
@[simp] theorem modLink_ctxs (s : State) (f : Link → Link) : (s.modLink f).ctxs = s.ctxs := rfl
@[simp] theorem modLink_waves (s : State) (f : Link → Link) : (s.modLink f).waves = s.waves := rfl
@[simp] theorem modLink_blocks (s : State) (f : Link → Link) : (s.modLink f).blocks = s.blocks := rfl
@[simp] theorem modLink_cores (s : State) (f : Link → Link) : (s.modLink f).cores = s.cores := rfl
@[simp] theorem modLink_quads (s : State) (f : Link → Link) : (s.modLink f).quads = s.quads := rfl
@[simp] theorem modLink_engines (s : State) (f : Link → Link) : (s.modLink f).engines = s.engines := rfl
@[simp] theorem modLink_homes (s : State) (f : Link → Link) : (s.modLink f).homes = s.homes := rfl
@[simp] theorem modLink_msgs (s : State) (f : Link → Link) : (s.modLink f).msgs = s.msgs := rfl
@[simp] theorem modLink_nextMsg (s : State) (f : Link → Link) : (s.modLink f).nextMsg = s.nextMsg := rfl

@[simp] theorem modDev_agenda (s : State) (f : Device → Device) : (s.modDev f).agenda = s.agenda := rfl
@[simp] theorem modDev_cur (s : State) (f : Device → Device) : (s.modDev f).cur = s.cur := rfl
@[simp] theorem modDev_free (s : State) (f : Device → Device) : (s.modDev f).free = s.free := rfl
@[simp] theorem modDev_mem (s : State) (f : Device → Device) : (s.modDev f).mem = s.mem := rfl
@[simp] theorem modDev_host (s : State) (f : Device → Device) : (s.modDev f).host = s.host := rfl
@[simp] theorem modDev_sched (s : State) (f : Device → Device) : (s.modDev f).sched = s.sched := rfl
@[simp] theorem modDev_ctxs (s : State) (f : Device → Device) : (s.modDev f).ctxs = s.ctxs := rfl
@[simp] theorem modDev_waves (s : State) (f : Device → Device) : (s.modDev f).waves = s.waves := rfl
@[simp] theorem modDev_blocks (s : State) (f : Device → Device) : (s.modDev f).blocks = s.blocks := rfl
@[simp] theorem modDev_cores (s : State) (f : Device → Device) : (s.modDev f).cores = s.cores := rfl
@[simp] theorem modDev_quads (s : State) (f : Device → Device) : (s.modDev f).quads = s.quads := rfl
@[simp] theorem modDev_engines (s : State) (f : Device → Device) : (s.modDev f).engines = s.engines := rfl
@[simp] theorem modDev_homes (s : State) (f : Device → Device) : (s.modDev f).homes = s.homes := rfl
@[simp] theorem modDev_msgs (s : State) (f : Device → Device) : (s.modDev f).msgs = s.msgs := rfl
@[simp] theorem modDev_nextMsg (s : State) (f : Device → Device) : (s.modDev f).nextMsg = s.nextMsg := rfl
@[simp] theorem modDev_link (s : State) (f : Device → Device) : (s.modDev f).link = s.link := rfl

@[simp] theorem modSched_agenda (s : State) (f : Sched → Sched) : (s.modSched f).agenda = s.agenda := rfl
@[simp] theorem modSched_cur (s : State) (f : Sched → Sched) : (s.modSched f).cur = s.cur := rfl
@[simp] theorem modSched_free (s : State) (f : Sched → Sched) : (s.modSched f).free = s.free := rfl
@[simp] theorem modSched_dev (s : State) (f : Sched → Sched) : (s.modSched f).dev = s.dev := rfl
@[simp] theorem modSched_mem (s : State) (f : Sched → Sched) : (s.modSched f).mem = s.mem := rfl
@[simp] theorem modSched_host (s : State) (f : Sched → Sched) : (s.modSched f).host = s.host := rfl
@[simp] theorem modSched_ctxs (s : State) (f : Sched → Sched) : (s.modSched f).ctxs = s.ctxs := rfl
@[simp] theorem modSched_waves (s : State) (f : Sched → Sched) : (s.modSched f).waves = s.waves := rfl
@[simp] theorem modSched_blocks (s : State) (f : Sched → Sched) : (s.modSched f).blocks = s.blocks := rfl
@[simp] theorem modSched_cores (s : State) (f : Sched → Sched) : (s.modSched f).cores = s.cores := rfl
@[simp] theorem modSched_quads (s : State) (f : Sched → Sched) : (s.modSched f).quads = s.quads := rfl
@[simp] theorem modSched_engines (s : State) (f : Sched → Sched) : (s.modSched f).engines = s.engines := rfl
@[simp] theorem modSched_homes (s : State) (f : Sched → Sched) : (s.modSched f).homes = s.homes := rfl
@[simp] theorem modSched_msgs (s : State) (f : Sched → Sched) : (s.modSched f).msgs = s.msgs := rfl
@[simp] theorem modSched_nextMsg (s : State) (f : Sched → Sched) : (s.modSched f).nextMsg = s.nextMsg := rfl
@[simp] theorem modSched_link (s : State) (f : Sched → Sched) : (s.modSched f).link = s.link := rfl

@[simp] theorem send_agenda (s : State) (a b c d : Nat) (k : MsgKind) : (s.send a b c d k).agenda = s.agenda := rfl
@[simp] theorem send_cur (s : State) (a b c d : Nat) (k : MsgKind) : (s.send a b c d k).cur = s.cur := rfl
@[simp] theorem send_free (s : State) (a b c d : Nat) (k : MsgKind) : (s.send a b c d k).free = s.free := rfl
@[simp] theorem send_dev (s : State) (a b c d : Nat) (k : MsgKind) : (s.send a b c d k).dev = s.dev := rfl
@[simp] theorem send_mem (s : State) (a b c d : Nat) (k : MsgKind) : (s.send a b c d k).mem = s.mem := rfl
@[simp] theorem send_host (s : State) (a b c d : Nat) (k : MsgKind) : (s.send a b c d k).host = s.host := rfl
@[simp] theorem send_sched (s : State) (a b c d : Nat) (k : MsgKind) : (s.send a b c d k).sched = s.sched := rfl
@[simp] theorem send_ctxs (s : State) (a b c d : Nat) (k : MsgKind) : (s.send a b c d k).ctxs = s.ctxs := rfl
@[simp] theorem send_waves (s : State) (a b c d : Nat) (k : MsgKind) : (s.send a b c d k).waves = s.waves := rfl
@[simp] theorem send_blocks (s : State) (a b c d : Nat) (k : MsgKind) : (s.send a b c d k).blocks = s.blocks := rfl
@[simp] theorem send_cores (s : State) (a b c d : Nat) (k : MsgKind) : (s.send a b c d k).cores = s.cores := rfl
@[simp] theorem send_quads (s : State) (a b c d : Nat) (k : MsgKind) : (s.send a b c d k).quads = s.quads := rfl
@[simp] theorem send_engines (s : State) (a b c d : Nat) (k : MsgKind) : (s.send a b c d k).engines = s.engines := rfl
@[simp] theorem send_homes (s : State) (a b c d : Nat) (k : MsgKind) : (s.send a b c d k).homes = s.homes := rfl
@[simp] theorem send_link (s : State) (a b c d : Nat) (k : MsgKind) : (s.send a b c d k).link = s.link := rfl

@[simp] theorem dropMsg_agenda (s : State) (n : Nat) : (s.dropMsg n).agenda = s.agenda := rfl
@[simp] theorem dropMsg_cur (s : State) (n : Nat) : (s.dropMsg n).cur = s.cur := rfl
@[simp] theorem dropMsg_free (s : State) (n : Nat) : (s.dropMsg n).free = s.free := rfl
@[simp] theorem dropMsg_dev (s : State) (n : Nat) : (s.dropMsg n).dev = s.dev := rfl
@[simp] theorem dropMsg_mem (s : State) (n : Nat) : (s.dropMsg n).mem = s.mem := rfl
@[simp] theorem dropMsg_host (s : State) (n : Nat) : (s.dropMsg n).host = s.host := rfl
@[simp] theorem dropMsg_sched (s : State) (n : Nat) : (s.dropMsg n).sched = s.sched := rfl
@[simp] theorem dropMsg_ctxs (s : State) (n : Nat) : (s.dropMsg n).ctxs = s.ctxs := rfl
@[simp] theorem dropMsg_waves (s : State) (n : Nat) : (s.dropMsg n).waves = s.waves := rfl
@[simp] theorem dropMsg_blocks (s : State) (n : Nat) : (s.dropMsg n).blocks = s.blocks := rfl
@[simp] theorem dropMsg_cores (s : State) (n : Nat) : (s.dropMsg n).cores = s.cores := rfl
@[simp] theorem dropMsg_quads (s : State) (n : Nat) : (s.dropMsg n).quads = s.quads := rfl
@[simp] theorem dropMsg_engines (s : State) (n : Nat) : (s.dropMsg n).engines = s.engines := rfl
@[simp] theorem dropMsg_homes (s : State) (n : Nat) : (s.dropMsg n).homes = s.homes := rfl
@[simp] theorem dropMsg_nextMsg (s : State) (n : Nat) : (s.dropMsg n).nextMsg = s.nextMsg := rfl
@[simp] theorem dropMsg_link (s : State) (n : Nat) : (s.dropMsg n).link = s.link := rfl

@[simp] theorem modMsg_agenda (s : State) (n : Nat) (f : MsgKind → MsgKind) : (s.modMsg n f).agenda = s.agenda := rfl
@[simp] theorem modMsg_cur (s : State) (n : Nat) (f : MsgKind → MsgKind) : (s.modMsg n f).cur = s.cur := rfl
@[simp] theorem modMsg_free (s : State) (n : Nat) (f : MsgKind → MsgKind) : (s.modMsg n f).free = s.free := rfl
@[simp] theorem modMsg_dev (s : State) (n : Nat) (f : MsgKind → MsgKind) : (s.modMsg n f).dev = s.dev := rfl
@[simp] theorem modMsg_mem (s : State) (n : Nat) (f : MsgKind → MsgKind) : (s.modMsg n f).mem = s.mem := rfl
@[simp] theorem modMsg_host (s : State) (n : Nat) (f : MsgKind → MsgKind) : (s.modMsg n f).host = s.host := rfl
@[simp] theorem modMsg_sched (s : State) (n : Nat) (f : MsgKind → MsgKind) : (s.modMsg n f).sched = s.sched := rfl
@[simp] theorem modMsg_ctxs (s : State) (n : Nat) (f : MsgKind → MsgKind) : (s.modMsg n f).ctxs = s.ctxs := rfl
@[simp] theorem modMsg_waves (s : State) (n : Nat) (f : MsgKind → MsgKind) : (s.modMsg n f).waves = s.waves := rfl
@[simp] theorem modMsg_blocks (s : State) (n : Nat) (f : MsgKind → MsgKind) : (s.modMsg n f).blocks = s.blocks := rfl
@[simp] theorem modMsg_cores (s : State) (n : Nat) (f : MsgKind → MsgKind) : (s.modMsg n f).cores = s.cores := rfl
@[simp] theorem modMsg_quads (s : State) (n : Nat) (f : MsgKind → MsgKind) : (s.modMsg n f).quads = s.quads := rfl
@[simp] theorem modMsg_engines (s : State) (n : Nat) (f : MsgKind → MsgKind) : (s.modMsg n f).engines = s.engines := rfl
@[simp] theorem modMsg_homes (s : State) (n : Nat) (f : MsgKind → MsgKind) : (s.modMsg n f).homes = s.homes := rfl
@[simp] theorem modMsg_nextMsg (s : State) (n : Nat) (f : MsgKind → MsgKind) : (s.modMsg n f).nextMsg = s.nextMsg := rfl
@[simp] theorem modMsg_link (s : State) (n : Nat) (f : MsgKind → MsgKind) : (s.modMsg n f).link = s.link := rfl

@[simp] theorem count_agenda (s : State) (d i : Nat) : (s.count d i).agenda = s.agenda := rfl
@[simp] theorem count_cur (s : State) (d i : Nat) : (s.count d i).cur = s.cur := rfl
@[simp] theorem count_free (s : State) (d i : Nat) : (s.count d i).free = s.free := rfl
@[simp] theorem count_mem (s : State) (d i : Nat) : (s.count d i).mem = s.mem := rfl
@[simp] theorem count_host (s : State) (d i : Nat) : (s.count d i).host = s.host := rfl
@[simp] theorem count_sched (s : State) (d i : Nat) : (s.count d i).sched = s.sched := rfl
@[simp] theorem count_ctxs (s : State) (d i : Nat) : (s.count d i).ctxs = s.ctxs := rfl
@[simp] theorem count_waves (s : State) (d i : Nat) : (s.count d i).waves = s.waves := rfl
@[simp] theorem count_blocks (s : State) (d i : Nat) : (s.count d i).blocks = s.blocks := rfl
@[simp] theorem count_cores (s : State) (d i : Nat) : (s.count d i).cores = s.cores := rfl
@[simp] theorem count_quads (s : State) (d i : Nat) : (s.count d i).quads = s.quads := rfl
@[simp] theorem count_engines (s : State) (d i : Nat) : (s.count d i).engines = s.engines := rfl
@[simp] theorem count_homes (s : State) (d i : Nat) : (s.count d i).homes = s.homes := rfl
@[simp] theorem count_msgs (s : State) (d i : Nat) : (s.count d i).msgs = s.msgs := rfl
@[simp] theorem count_nextMsg (s : State) (d i : Nat) : (s.count d i).nextMsg = s.nextMsg := rfl
@[simp] theorem count_link (s : State) (d i : Nat) : (s.count d i).link = s.link := rfl

@[simp] theorem draw_agenda (s : State) : s.draw.2.agenda = s.agenda := rfl
@[simp] theorem draw_cur (s : State) : s.draw.2.cur = s.cur := rfl
@[simp] theorem draw_dev (s : State) : s.draw.2.dev = s.dev := rfl
@[simp] theorem draw_mem (s : State) : s.draw.2.mem = s.mem := rfl
@[simp] theorem draw_host (s : State) : s.draw.2.host = s.host := rfl
@[simp] theorem draw_sched (s : State) : s.draw.2.sched = s.sched := rfl
@[simp] theorem draw_ctxs (s : State) : s.draw.2.ctxs = s.ctxs := rfl
@[simp] theorem draw_waves (s : State) : s.draw.2.waves = s.waves := rfl
@[simp] theorem draw_blocks (s : State) : s.draw.2.blocks = s.blocks := rfl
@[simp] theorem draw_cores (s : State) : s.draw.2.cores = s.cores := rfl
@[simp] theorem draw_quads (s : State) : s.draw.2.quads = s.quads := rfl
@[simp] theorem draw_engines (s : State) : s.draw.2.engines = s.engines := rfl
@[simp] theorem draw_homes (s : State) : s.draw.2.homes = s.homes := rfl
@[simp] theorem draw_msgs (s : State) : s.draw.2.msgs = s.msgs := rfl
@[simp] theorem draw_nextMsg (s : State) : s.draw.2.nextMsg = s.nextMsg := rfl
@[simp] theorem draw_link (s : State) : s.draw.2.link = s.link := rfl

@[simp] theorem choose_agenda (s : State) (n : Nat) : (s.choose n).2.agenda = s.agenda := rfl
@[simp] theorem choose_cur (s : State) (n : Nat) : (s.choose n).2.cur = s.cur := rfl
@[simp] theorem choose_dev (s : State) (n : Nat) : (s.choose n).2.dev = s.dev := rfl
@[simp] theorem choose_mem (s : State) (n : Nat) : (s.choose n).2.mem = s.mem := rfl
@[simp] theorem choose_host (s : State) (n : Nat) : (s.choose n).2.host = s.host := rfl
@[simp] theorem choose_sched (s : State) (n : Nat) : (s.choose n).2.sched = s.sched := rfl
@[simp] theorem choose_ctxs (s : State) (n : Nat) : (s.choose n).2.ctxs = s.ctxs := rfl
@[simp] theorem choose_waves (s : State) (n : Nat) : (s.choose n).2.waves = s.waves := rfl
@[simp] theorem choose_blocks (s : State) (n : Nat) : (s.choose n).2.blocks = s.blocks := rfl
@[simp] theorem choose_cores (s : State) (n : Nat) : (s.choose n).2.cores = s.cores := rfl
@[simp] theorem choose_quads (s : State) (n : Nat) : (s.choose n).2.quads = s.quads := rfl
@[simp] theorem choose_engines (s : State) (n : Nat) : (s.choose n).2.engines = s.engines := rfl
@[simp] theorem choose_homes (s : State) (n : Nat) : (s.choose n).2.homes = s.homes := rfl
@[simp] theorem choose_msgs (s : State) (n : Nat) : (s.choose n).2.msgs = s.msgs := rfl
@[simp] theorem choose_nextMsg (s : State) (n : Nat) : (s.choose n).2.nextMsg = s.nextMsg := rfl
@[simp] theorem choose_link (s : State) (n : Nat) : (s.choose n).2.link = s.link := rfl

/-! A field of the device written in memory: what the whole path of the write leaves as it was. -/

/-- What every step of a fold keeps, the fold keeps. -/
theorem foldl_keeps {α β : Type} (g : State → α) (f : State → β → State) (h : ∀ s x, g (f s x) = g s) (l : List β) (s : State) :
    g (l.foldl f s) = g s := by
  induction l generalizing s with
  | nil => rfl
  | cons x l ih => rw [List.foldl_cons, ih, h]

@[simp] theorem meetErrors_agenda (s : State) (l : Loc) (n : Nat) : (s.meetErrors l n).agenda = s.agenda := by
  unfold meetErrors; split
  · rfl
  · exact foldl_keeps (·.agenda) _ (fun s e => by dsimp only; split <;> rfl) _ s
@[simp] theorem coverErrors_agenda (s : State) (p : Nat → Bool) : (s.coverErrors p).agenda = s.agenda := by
  unfold coverErrors; split <;> rfl
@[simp] theorem landNat_agenda (s : State) (a n v : Nat) : (s.landNat a n v).agenda = s.agenda := by
  unfold landNat mergeErrors; dsimp only; split
  · rfl
  · exact foldl_keeps (·.agenda) _ (fun s k => by split <;> simp) _ s
@[simp] theorem recallHalf_agenda (s : State) (l : Loc) : (s.recallHalf l).agenda = s.agenda := by
  unfold recallHalf; dsimp only; split <;> rfl
@[simp] theorem setPnat_agenda (s : State) (a n v : Nat) : (s.setPnat a n v).agenda = s.agenda := by
  unfold setPnat; split <;> simp
@[simp] theorem setEntry_agenda (s : State) (c o n v : Nat) : (s.setEntry c o n v).agenda = s.agenda := setPnat_agenda ..

@[simp] theorem meetErrors_cur (s : State) (l : Loc) (n : Nat) : (s.meetErrors l n).cur = s.cur := by
  unfold meetErrors; split
  · rfl
  · exact foldl_keeps (·.cur) _ (fun s e => by dsimp only; split <;> rfl) _ s
@[simp] theorem coverErrors_cur (s : State) (p : Nat → Bool) : (s.coverErrors p).cur = s.cur := by
  unfold coverErrors; split <;> rfl
@[simp] theorem landNat_cur (s : State) (a n v : Nat) : (s.landNat a n v).cur = s.cur := by
  unfold landNat mergeErrors; dsimp only; split
  · rfl
  · exact foldl_keeps (·.cur) _ (fun s k => by split <;> simp) _ s
@[simp] theorem recallHalf_cur (s : State) (l : Loc) : (s.recallHalf l).cur = s.cur := by
  unfold recallHalf; dsimp only; split <;> rfl
@[simp] theorem setPnat_cur (s : State) (a n v : Nat) : (s.setPnat a n v).cur = s.cur := by
  unfold setPnat; split <;> simp
@[simp] theorem setEntry_cur (s : State) (c o n v : Nat) : (s.setEntry c o n v).cur = s.cur := setPnat_cur ..

@[simp] theorem meetErrors_host (s : State) (l : Loc) (n : Nat) : (s.meetErrors l n).host = s.host := by
  unfold meetErrors; split
  · rfl
  · exact foldl_keeps (·.host) _ (fun s e => by dsimp only; split <;> rfl) _ s
@[simp] theorem coverErrors_host (s : State) (p : Nat → Bool) : (s.coverErrors p).host = s.host := by
  unfold coverErrors; split <;> rfl
@[simp] theorem landNat_host (s : State) (a n v : Nat) : (s.landNat a n v).host = s.host := by
  unfold landNat mergeErrors; dsimp only; split
  · rfl
  · exact foldl_keeps (·.host) _ (fun s k => by split <;> simp) _ s
@[simp] theorem recallHalf_host (s : State) (l : Loc) : (s.recallHalf l).host = s.host := by
  unfold recallHalf; dsimp only; split <;> rfl
@[simp] theorem setPnat_host (s : State) (a n v : Nat) : (s.setPnat a n v).host = s.host := by
  unfold setPnat; split <;> simp
@[simp] theorem setEntry_host (s : State) (c o n v : Nat) : (s.setEntry c o n v).host = s.host := setPnat_host ..

@[simp] theorem meetErrors_sched (s : State) (l : Loc) (n : Nat) : (s.meetErrors l n).sched = s.sched := by
  unfold meetErrors; split
  · rfl
  · exact foldl_keeps (·.sched) _ (fun s e => by dsimp only; split <;> rfl) _ s
@[simp] theorem coverErrors_sched (s : State) (p : Nat → Bool) : (s.coverErrors p).sched = s.sched := by
  unfold coverErrors; split <;> rfl
@[simp] theorem landNat_sched (s : State) (a n v : Nat) : (s.landNat a n v).sched = s.sched := by
  unfold landNat mergeErrors; dsimp only; split
  · rfl
  · exact foldl_keeps (·.sched) _ (fun s k => by split <;> simp) _ s
@[simp] theorem recallHalf_sched (s : State) (l : Loc) : (s.recallHalf l).sched = s.sched := by
  unfold recallHalf; dsimp only; split <;> rfl
@[simp] theorem setPnat_sched (s : State) (a n v : Nat) : (s.setPnat a n v).sched = s.sched := by
  unfold setPnat; split <;> simp
@[simp] theorem setEntry_sched (s : State) (c o n v : Nat) : (s.setEntry c o n v).sched = s.sched := setPnat_sched ..

@[simp] theorem meetErrors_ctxs (s : State) (l : Loc) (n : Nat) : (s.meetErrors l n).ctxs = s.ctxs := by
  unfold meetErrors; split
  · rfl
  · exact foldl_keeps (·.ctxs) _ (fun s e => by dsimp only; split <;> rfl) _ s
@[simp] theorem coverErrors_ctxs (s : State) (p : Nat → Bool) : (s.coverErrors p).ctxs = s.ctxs := by
  unfold coverErrors; split <;> rfl
@[simp] theorem landNat_ctxs (s : State) (a n v : Nat) : (s.landNat a n v).ctxs = s.ctxs := by
  unfold landNat mergeErrors; dsimp only; split
  · rfl
  · exact foldl_keeps (·.ctxs) _ (fun s k => by split <;> simp) _ s
@[simp] theorem recallHalf_ctxs (s : State) (l : Loc) : (s.recallHalf l).ctxs = s.ctxs := by
  unfold recallHalf; dsimp only; split <;> rfl
@[simp] theorem setPnat_ctxs (s : State) (a n v : Nat) : (s.setPnat a n v).ctxs = s.ctxs := by
  unfold setPnat; split <;> simp
@[simp] theorem setEntry_ctxs (s : State) (c o n v : Nat) : (s.setEntry c o n v).ctxs = s.ctxs := setPnat_ctxs ..

@[simp] theorem meetErrors_waves (s : State) (l : Loc) (n : Nat) : (s.meetErrors l n).waves = s.waves := by
  unfold meetErrors; split
  · rfl
  · exact foldl_keeps (·.waves) _ (fun s e => by dsimp only; split <;> rfl) _ s
@[simp] theorem coverErrors_waves (s : State) (p : Nat → Bool) : (s.coverErrors p).waves = s.waves := by
  unfold coverErrors; split <;> rfl
@[simp] theorem landNat_waves (s : State) (a n v : Nat) : (s.landNat a n v).waves = s.waves := by
  unfold landNat mergeErrors; dsimp only; split
  · rfl
  · exact foldl_keeps (·.waves) _ (fun s k => by split <;> simp) _ s
@[simp] theorem recallHalf_waves (s : State) (l : Loc) : (s.recallHalf l).waves = s.waves := by
  unfold recallHalf; dsimp only; split <;> rfl
@[simp] theorem setPnat_waves (s : State) (a n v : Nat) : (s.setPnat a n v).waves = s.waves := by
  unfold setPnat; split <;> simp
@[simp] theorem setEntry_waves (s : State) (c o n v : Nat) : (s.setEntry c o n v).waves = s.waves := setPnat_waves ..

@[simp] theorem meetErrors_blocks (s : State) (l : Loc) (n : Nat) : (s.meetErrors l n).blocks = s.blocks := by
  unfold meetErrors; split
  · rfl
  · exact foldl_keeps (·.blocks) _ (fun s e => by dsimp only; split <;> rfl) _ s
@[simp] theorem coverErrors_blocks (s : State) (p : Nat → Bool) : (s.coverErrors p).blocks = s.blocks := by
  unfold coverErrors; split <;> rfl
@[simp] theorem landNat_blocks (s : State) (a n v : Nat) : (s.landNat a n v).blocks = s.blocks := by
  unfold landNat mergeErrors; dsimp only; split
  · rfl
  · exact foldl_keeps (·.blocks) _ (fun s k => by split <;> simp) _ s
@[simp] theorem recallHalf_blocks (s : State) (l : Loc) : (s.recallHalf l).blocks = s.blocks := by
  unfold recallHalf; dsimp only; split <;> rfl
@[simp] theorem setPnat_blocks (s : State) (a n v : Nat) : (s.setPnat a n v).blocks = s.blocks := by
  unfold setPnat; split <;> simp
@[simp] theorem setEntry_blocks (s : State) (c o n v : Nat) : (s.setEntry c o n v).blocks = s.blocks := setPnat_blocks ..

@[simp] theorem meetErrors_cores (s : State) (l : Loc) (n : Nat) : (s.meetErrors l n).cores = s.cores := by
  unfold meetErrors; split
  · rfl
  · exact foldl_keeps (·.cores) _ (fun s e => by dsimp only; split <;> rfl) _ s
@[simp] theorem coverErrors_cores (s : State) (p : Nat → Bool) : (s.coverErrors p).cores = s.cores := by
  unfold coverErrors; split <;> rfl
@[simp] theorem landNat_cores (s : State) (a n v : Nat) : (s.landNat a n v).cores = s.cores := by
  unfold landNat mergeErrors; dsimp only; split
  · rfl
  · exact foldl_keeps (·.cores) _ (fun s k => by split <;> simp) _ s
@[simp] theorem recallHalf_cores (s : State) (l : Loc) : (s.recallHalf l).cores = s.cores := by
  unfold recallHalf; dsimp only; split <;> rfl
@[simp] theorem setPnat_cores (s : State) (a n v : Nat) : (s.setPnat a n v).cores = s.cores := by
  unfold setPnat; split <;> simp
@[simp] theorem setEntry_cores (s : State) (c o n v : Nat) : (s.setEntry c o n v).cores = s.cores := setPnat_cores ..

@[simp] theorem meetErrors_quads (s : State) (l : Loc) (n : Nat) : (s.meetErrors l n).quads = s.quads := by
  unfold meetErrors; split
  · rfl
  · exact foldl_keeps (·.quads) _ (fun s e => by dsimp only; split <;> rfl) _ s
@[simp] theorem coverErrors_quads (s : State) (p : Nat → Bool) : (s.coverErrors p).quads = s.quads := by
  unfold coverErrors; split <;> rfl
@[simp] theorem landNat_quads (s : State) (a n v : Nat) : (s.landNat a n v).quads = s.quads := by
  unfold landNat mergeErrors; dsimp only; split
  · rfl
  · exact foldl_keeps (·.quads) _ (fun s k => by split <;> simp) _ s
@[simp] theorem recallHalf_quads (s : State) (l : Loc) : (s.recallHalf l).quads = s.quads := by
  unfold recallHalf; dsimp only; split <;> rfl
@[simp] theorem setPnat_quads (s : State) (a n v : Nat) : (s.setPnat a n v).quads = s.quads := by
  unfold setPnat; split <;> simp
@[simp] theorem setEntry_quads (s : State) (c o n v : Nat) : (s.setEntry c o n v).quads = s.quads := setPnat_quads ..

@[simp] theorem meetErrors_engines (s : State) (l : Loc) (n : Nat) : (s.meetErrors l n).engines = s.engines := by
  unfold meetErrors; split
  · rfl
  · exact foldl_keeps (·.engines) _ (fun s e => by dsimp only; split <;> rfl) _ s
@[simp] theorem coverErrors_engines (s : State) (p : Nat → Bool) : (s.coverErrors p).engines = s.engines := by
  unfold coverErrors; split <;> rfl
@[simp] theorem landNat_engines (s : State) (a n v : Nat) : (s.landNat a n v).engines = s.engines := by
  unfold landNat mergeErrors; dsimp only; split
  · rfl
  · exact foldl_keeps (·.engines) _ (fun s k => by split <;> simp) _ s
@[simp] theorem recallHalf_engines (s : State) (l : Loc) : (s.recallHalf l).engines = s.engines := by
  unfold recallHalf; dsimp only; split <;> rfl
@[simp] theorem setPnat_engines (s : State) (a n v : Nat) : (s.setPnat a n v).engines = s.engines := by
  unfold setPnat; split <;> simp
@[simp] theorem setEntry_engines (s : State) (c o n v : Nat) : (s.setEntry c o n v).engines = s.engines := setPnat_engines ..

@[simp] theorem meetErrors_link (s : State) (l : Loc) (n : Nat) : (s.meetErrors l n).link = s.link := by
  unfold meetErrors; split
  · rfl
  · exact foldl_keeps (·.link) _ (fun s e => by dsimp only; split <;> rfl) _ s
@[simp] theorem coverErrors_link (s : State) (p : Nat → Bool) : (s.coverErrors p).link = s.link := by
  unfold coverErrors; split <;> rfl
@[simp] theorem landNat_link (s : State) (a n v : Nat) : (s.landNat a n v).link = s.link := by
  unfold landNat mergeErrors; dsimp only; split
  · rfl
  · exact foldl_keeps (·.link) _ (fun s k => by split <;> simp) _ s
@[simp] theorem recallHalf_link (s : State) (l : Loc) : (s.recallHalf l).link = s.link := by
  unfold recallHalf; dsimp only; split <;> rfl
@[simp] theorem setPnat_link (s : State) (a n v : Nat) : (s.setPnat a n v).link = s.link := by
  unfold setPnat; split <;> simp
@[simp] theorem setEntry_link (s : State) (c o n v : Nat) : (s.setEntry c o n v).link = s.link := setPnat_link ..

@[simp] theorem modHomes_homes (s : State) (f : Homes → Homes) : (s.modHomes f).homes = f s.homes := rfl
@[simp] theorem modLink_link (s : State) (f : Link → Link) : (s.modLink f).link = f s.link := rfl
@[simp] theorem modDev_dev (s : State) (f : Device → Device) : (s.modDev f).dev = f s.dev := rfl
@[simp] theorem modSched_sched (s : State) (f : Sched → Sched) : (s.modSched f).sched = f s.sched := rfl

end Sys2Proof.Machine.State
end

