-- ==== Sys2Proof/Laws/Word.lean ====
section
/-! SUPPORT. The integer helpers of the meanings, as operations on words. -/

namespace Sys2Proof.Machine

theorem ofNat_intBits (w : Nat) (v : Int) : BitVec.ofNat w (intBits w v) = BitVec.ofInt w v := by
  apply BitVec.eq_of_toNat_eq
  have h : (0 : Int) < (2 : Int) ^ w := by positivity
  have h1 := Int.emod_nonneg v (Int.ne_of_gt h)
  have h2 := Int.emod_lt_of_pos v h
  simp only [intBits, BitVec.toNat_ofNat, BitVec.toNat_ofInt]
  have : (v % (2 ^ w : Int)).toNat < 2 ^ w := by
    zify
    rw [Int.toNat_of_nonneg h1]
    exact_mod_cast h2
  rw [Nat.mod_eq_of_lt this]
  simp

theorem signedOf_toNat {w : Nat} (b : BitVec w) : signedOf w b.toNat = b.toInt := by
  unfold signedOf
  rw [Nat.mod_eq_of_lt b.isLt, BitVec.toInt_eq_toNat_cond]
  rcases w with _ | w
  · simp [BitVec.of_length_zero]
  · have : 2 ^ (w + 1) = 2 * 2 ^ w := by ring
    simp only [Nat.add_sub_cancel]
    split <;> split <;> first | rfl | omega

theorem Val.wide_toNat (v : Val) : v.wide.bits.toNat = v.bits.toNat := by
  simp only [Val.wide, BitVec.toNat_setWidth]
  exact Nat.mod_eq_of_lt (by have := v.bits.isLt; omega)

theorem intOf_wide (u : Bool) (v : Val) : intOf u 32 v.wide = exactInt u v.bits := by
  have h := v.bits.isLt
  cases u
  · simpa [intOf, exactInt, Val.wide_toNat] using signedOf_toNat v.bits
  · simp only [intOf, exactInt, if_true, Val.wide_toNat, Nat.mod_eq_of_lt h]

theorem intOf_64 (u : Bool) (v : Val64) : intOf u 64 v = exactInt u v.bits := by
  have h := v.bits.isLt
  cases u
  · simpa [intOf, exactInt] using signedOf_toNat v.bits
  · simp only [intOf, exactInt, if_true, Nat.mod_eq_of_lt h]

theorem natOf_wide (v : Val) : natOf 32 v.wide = v.bits.toNat := by
  simp only [natOf, Val.wide_toNat, Nat.mod_eq_of_lt v.bits.isLt]

theorem natOf_64 (v : Val64) : natOf 64 v = v.bits.toNat := by
  simp only [natOf, Nat.mod_eq_of_lt v.bits.isLt]

theorem val64_bits (v : Nat) (p : Bool) : val64 v p = ⟨BitVec.ofNat 64 v, p⟩ := rfl

theorem val64_lo (v : Nat) (p : Bool) : (val64 v p).lo = ⟨BitVec.ofNat 32 v, p⟩ := by
  simp only [val64, Val64.lo, BitVec.truncate_eq_setWidth]
  congr 1
  apply BitVec.eq_of_toNat_eq
  simp only [BitVec.toNat_setWidth, BitVec.toNat_ofNat]
  omega

@[simp] theorem Val.wide_poison (v : Val) : v.wide.poison = v.poison := rfl

@[simp] theorem Val.wide_lo (v : Val) : v.wide.lo = v := by
  cases v
  simp only [Val.wide, Val64.lo, BitVec.truncate_eq_setWidth]
  congr 1
  apply BitVec.eq_of_toNat_eq
  simp only [BitVec.toNat_setWidth]
  omega

theorem saturate_clampTo (u : Bool) (w : Nat) (r : Int) : saturate u w r = clampTo u w r := by
  have h1 : (0 : Int) < (2 : Int) ^ w := by positivity
  have h2 : (0 : Int) < (2 : Int) ^ (w - 1) := by positivity
  unfold saturate clampTo clampInt
  cases u <;> simp only [if_true, Bool.false_eq_true, if_false] <;> (repeat' split) <;> omega

end Sys2Proof.Machine
end

