-- ==== Sys2Proof/Tests/Slice0.lean ====
section
/-! SUPPORT. Tests: refusals of ill-formed terms, words and the instructions they are, a few single steps, and a state that
meets the hypotheses of each statement. Expected values are the spec's own or worked out by hand from its rules. -/

namespace Sys2Proof.Tests

open Sys2Proof Sys2Proof.Machine

set_option maxRecDepth 100000

/-! Instructions, written with the fields the tests vary. -/

def gen (len : Len) (d a b c : Fld) (sub : BitVec 5) : Gen :=
  ⟨len, false, false, b, a, d, .id, .mode, sub, 0#4, false, c, .all, 0#32, .id, .id⟩

def mem (len : Len) (d a b c : Fld) (sub : BitVec 5) (z : Size) (o : Order) (sc : Scope) : Mem :=
  ⟨len, false, false, b, a, d, sub, .dflt, o, sc, z, 0#4, false, c, .all, 0#32⟩

def decodesAs (p : List Word × Instr) : Bool :=
  match decodeBytes (bytesOfWords p.1) with
  | .ok (i, []) => i == p.2
  | _ => false

def encodesAs (p : List Word × Instr) : Bool := encode p.2 == p.1 && p.2.wf

/-! Words and the instructions they are. -/

/-- Words of the control encodings, assembled from their fields (R28, R30, R35, R36, R40, R42, R46, R48). -/
def wordsControl : List (List Word × Instr) := [
  ([0x00000000#32], .nop (gen .w32 0 0 0 0 0)),
  ([0xFFFFF604#32], .bra ⟨.w32, 0xFFFFFFFB#32, .all⟩),
  ([0x00060008#32], .brx (gen .w32 0 6 0 0 0)),
  ([0x0000000E#32, 0x00000009#32, 0x01000000#32], .call ⟨.lit, 0x01000000#32, ⟨true, 1#3⟩⟩),
  ([0x00060011#32, 0x0000000A#32], .callx { gen .w64 0 6 0 0 0 with grd := ⟨true, 2#3⟩ }),
  ([0x00000014#32], .ret (gen .w32 0 0 0 0 0)),
  ([0x00000019#32, 0x00060000#32], .enter (gen .w64 0 0 0 0 6)),
  ([0x0000001D#32, 0x00000009#32], .exit { gen .w64 0 0 0 0 0 with grd := ⟨true, 1#3⟩ }),
  ([0x00000020#32], .region (gen .w32 0 0 0 0 0)),
  ([0x04060025#32, 0x00000000#32], .mode (gen .w64 0 6 8 0 0)),
  ([0x00000026#32, 0x00010000#32, 0x00000001#32], .modeSet { gen .lit 0 0 0 0 1 with lit := 0x1#32 }),
  ([0x00000026#32, 0x00020000#32, 0x00000003#32], .modeClr { gen .lit 0 0 0 0 2 with lit := 0x3#32 }),
  ([0x00000829#32, 0x00000000#32], .moderd (gen .w64 4 0 0 0 0)),
  ([0x0000002C#32], .yield (gen .w32 0 0 0 0 0)),
  ([0x00000032#32, 0x00000000#32, 0x00000007#32], .trap { gen .lit 0 0 0 0 0 with lit := 0x7#32 }),
  ([0x04000035#32, 0x00000000#32], .brk (gen .w64 0 0 8 0 0)),
  ([0x38000039#32, 0x00010000#32], .waitc (gen .w64 0 0 112 0 1))]

theorem test_decode_control : wordsControl.all decodesAs = true := by decide

theorem test_encode_control : wordsControl.all encodesAs = true := by decide

/-- Words of the system encodings, assembled from their fields (R28, R30, R35, R36, R40, R42, R46, R48). -/
def wordsSystem : List (List Word × Instr) := [
  ([0x0000003C#32], .sysSret (gen .w32 0 0 0 0 0)),
  ([0x0000083E#32, 0x00010000#32, 0x00000002#32], .sysSmovr { gen .lit 4 0 0 0 1 with lit := 0x2#32 }),
  ([0x0406003D#32, 0x00020000#32], .sysSmovw (gen .w64 0 6 8 0 2)),
  ([0x0406003D#32, 0x00030000#32], .sysTlbinv (gen .w64 0 6 8 0 3)),
  ([0x0000003D#32, 0x00040000#32], .sysTlbsync (gen .w64 0 0 0 0 4)),
  ([0x0400003D#32, 0x00050000#32], .sysEvict (gen .w64 0 0 8 0 5)),
  ([0x0406003D#32, 0x00060000#32], .sysRankw (gen .w64 0 6 8 0 6)),
  ([0x0070003D#32, 0x00070000#32], .sysClaimd (gen .w64 0 112 0 0 7)),
  ([0x0070003D#32, 0x00080000#32], .sysClaimf (gen .w64 0 112 0 0 8)),
  ([0x0406003D#32, 0x00090000#32], .sysInj (gen .w64 0 6 8 0 9)),
  ([0x0406003D#32, 0x000A0000#32], .sysQctl (gen .w64 0 6 8 0 10)),
  ([0x0400003D#32, 0x000B0000#32], .sysGkill (gen .w64 0 0 8 0 11)),
  ([0x0400003D#32, 0x000C0000#32], .sysGrelaunch (gen .w64 0 0 8 0 12)),
  ([0x0004003E#32, 0x000D0000#32, 0x00000001#32], .sysBiasset { gen .lit 0 4 0 0 13 with lit := 0x1#32 }),
  ([0x0400003D#32, 0x000E0000#32], .sysWake (gen .w64 0 0 8 0 14))]

theorem test_decode_system : wordsSystem.all decodesAs = true := by decide

theorem test_encode_system : wordsSystem.all encodesAs = true := by decide

/-- Words of the integer encodings, assembled from their fields (R28, R30, R35, R36, R40, R42, R46, R48). -/
def wordsInteger : List (List Word × Instr) := [
  ([0x04060841#32, 0x00060000#32], .iadd (gen .w64 4 6 8 0 6)),
  ([0x04060845#32, 0x00010000#32], .isub (gen .w64 4 6 8 0 1)),
  ([0x04060849#32, 0x000A0000#32], .imul (gen .w64 4 6 8 0 10)),
  ([0x0406084D#32, 0x00020000#32], .imulh (gen .w64 4 6 8 0 2)),
  ([0x04060851#32, 0x000300A0#32], .imad (gen .w64 4 6 8 10 3)),
  ([0x04060854#32], .imin (gen .w32 4 6 8 0 0)),
  ([0x04060859#32, 0x00020000#32], .imax (gen .w64 4 6 8 0 2)),
  ([0x0406085D#32, 0x00000000#32], .and (gen .w64 4 6 8 0 0)),
  ([0x04060861#32, 0x00010000#32], .or (gen .w64 4 6 8 0 1)),
  ([0x00060866#32, 0x00000000#32, 0x000000FF#32], .xor { gen .lit 4 6 0 0 0 with lit := 0xFF#32 }),
  ([0x04060869#32, 0x00000000#32], .shl (gen .w64 4 6 8 0 0)),
  ([0x0486086D#32, 0x00010000#32], .shr (gen .w64 4 6 9 0 1)),
  ([0x04060871#32, 0x00000000#32], .sar (gen .w64 4 6 8 0 0)),
  ([0x04060875#32, 0x000600A0#32], .bits (gen .w64 4 6 8 10 6)),
  ([0x04060479#32, 0x000B0000#32], .iset (gen .w64 2 6 8 0 11)),
  ([0x0406087D#32, 0x000000B0#32], .sel (gen .w64 4 6 8 11 0))]

theorem test_decode_integer : wordsInteger.all decodesAs = true := by decide

theorem test_encode_integer : wordsInteger.all encodesAs = true := by decide

/-- Words of the moves encodings, assembled from their fields (R28, R30, R35, R36, R40, R42, R46, R48). -/
def wordsMoves : List (List Word × Instr) := [
  ([0x04000881#32, 0x00010000#32], .mov (gen .w64 4 0 8 0 1)),
  ([0x00031086#32, 0x00000000#32, 0x4000A300#32], .movl { gen .lit 8 3 0 0 0 with lit := 0x4000A300#32 }),
  ([0x33621489#32, 0x00020000#32], .lea (gen .w64 10 98 102 0 2)),
  ([0x0006088D#32, 0x00050000#32], .cvt (gen .w64 4 6 0 0 5)),
  ([0x04060891#32, 0x000400A0#32], .pack (gen .w64 4 6 8 10 4)),
  ([0x04060895#32, 0x00080000#32], .unpk (gen .w64 4 6 8 0 8)),
  ([0x01010699#32, 0x00040000#32], .plog (gen .w64 3 1 2 0 4)),
  ([0x0002089D#32, 0x00030000#32], .pmov (gen .w64 4 2 0 0 3)),
  ([0x000DD8A2#32, 0x00000000#32, 0x0000001F#32], .rdlane { gen .lit 108 13 0 0 0 with lit := 0x1F#32 }),
  ([0x040608A5#32, 0x00000000#32], .wrlane (gen .w64 4 6 8 0 0))]

theorem test_decode_moves : wordsMoves.all decodesAs = true := by decide

theorem test_encode_moves : wordsMoves.all encodesAs = true := by decide

/-- Words of the float encodings, assembled from their fields (R28, R30, R35, R36, R40, R42, R46, R48). -/
def wordsFloat : List (List Word × Instr) := [
  ([0x040608C1#32, 0x00410000#32], .fadd { gen .w64 4 6 8 0 1 with rnd := .rtz }),
  ([0x040608C5#32, 0x00410000#32], .fsub { gen .w64 4 6 8 0 1 with rnd := .rtz }),
  ([0x040608C9#32, 0x00410000#32], .fmul { gen .w64 4 6 8 0 1 with rnd := .rtz }),
  ([0x030414CD#32, 0x00000080#32], .ffma (gen .w64 10 4 6 8 0)),
  ([0x040608D1#32, 0x00000000#32], .fmin (gen .w64 4 6 8 0 0)),
  ([0x040608D5#32, 0x00010000#32], .fmax (gen .w64 4 6 8 0 1)),
  ([0x040606D9#32, 0x00110000#32], .fset (gen .w64 3 6 8 0 17)),
  ([0x000608DD#32, 0x00600000#32], .frnd { gen .w64 4 6 0 0 0 with rnd := .rna }),
  ([0x040608E1#32, 0x00200000#32], .fdiv { gen .w64 4 6 8 0 0 with rnd := .rne }),
  ([0x000608E5#32, 0x00090000#32], .sfu (gen .w64 4 6 0 0 9)),
  ([0x040608E9#32, 0x000300A0#32], .pkfma (gen .w64 4 6 8 10 3)),
  ([0x040608ED#32, 0x00010000#32], .pkadd (gen .w64 4 6 8 0 1)),
  ([0x040608F1#32, 0x00020000#32], .pkmul (gen .w64 4 6 8 0 2)),
  ([0x040608F5#32, 0x000500A0#32], .fdot (gen .w64 4 6 8 10 5)),
  ([0x000608F9#32, 0x00010000#32], .fclass (gen .w64 4 6 0 0 1)),
  ([0x001020FE#32, 0x00000000#32, 0xFFFFFFE0#32], .fscl { gen .lit 16 16 0 0 0 with lit := 0xFFFFFFE0#32 })]

theorem test_decode_float : wordsFloat.all decodesAs = true := by decide

theorem test_encode_float : wordsFloat.all encodesAs = true := by decide

/-- Words of the lanes encodings, assembled from their fields (R28, R30, R35, R36, R40, R42, R46, R48). -/
def wordsLanes : List (List Word × Instr) := [
  ([0x04060901#32, 0x00020000#32], .perm (gen .w64 4 6 8 0 2)),
  ([0x00021104#32], .ballot (gen .w32 8 2 0 0 0)),
  ([0x00020709#32, 0x00030000#32], .vote (gen .w64 3 2 0 0 3)),
  ([0x0006090D#32, 0x00010000#32], .matchl (gen .w64 4 6 0 0 1)),
  ([0x00050D11#32, 0x00100000#32], .scanl (gen .w64 6 5 0 0 16)),
  ([0x00060915#32, 0x000B0000#32], .redl (gen .w64 4 6 0 0 11)),
  ([0x0004151A#32, 0x00000000#32, 0x00000004#32], .topk { gen .lit 10 4 0 0 0 with lit := 0x4#32 }),
  ([0x01030F1D#32, 0x00000000#32], .compress (gen .w64 7 3 2 0 0)),
  ([0x02820D21#32, 0x00010000#32], .expand (gen .w64 6 2 5 0 1)),
  ([0x04060925#32, 0x00000000#32], .lda (gen .w64 4 6 8 0 0)),
  ([0x04060129#32, 0x000100A0#32], .sta (gen .w64 0 6 8 10 1))]

theorem test_decode_lanes : wordsLanes.all decodesAs = true := by decide

theorem test_encode_lanes : wordsLanes.all encodesAs = true := by decide

/-- Words of the memory encodings, assembled from their fields (R28, R30, R35, R36, R40, R42, R46, R48). -/
def wordsMemory : List (List Word × Instr) := [
  ([0x01000940#32], .ld (mem .w32 4 0 2 0 0 .b32 .relaxed .device)),
  ([0x04060145#32, 0x009C00C0#32], .st (mem .w64 0 6 8 12 0 .b128 .release .device)),
  ([0x04060949#32, 0x00320030#32], .atom (mem .w64 4 6 8 3 0 .b32 .relaxed .job)),
  ([0x0406014D#32, 0x101B00A0#32], .red (mem .w64 0 6 8 10 4 .b64 .relaxed .device)),
  ([0x04060951#32, 0x00DB00C0#32], .cas (mem .w64 4 6 8 12 0 .b64 .seqCst .device)),
  ([0x04060155#32, 0x041A00A0#32], .redk (mem .w64 0 6 8 10 1 .b32 .relaxed .device)),
  ([0x00000159#32, 0x00B20000#32], .fence (mem .w64 0 0 0 0 0 .b32 .release .job)),
  ([0x0406015D#32, 0x001A0000#32], .pref (mem .w64 0 6 8 0 0 .b32 .relaxed .device)),
  ([0x380AD161#32, 0x041A0030#32], .cstore (mem .w64 104 10 112 3 1 .b32 .relaxed .device)),
  ([0x38620165#32, 0x00720010#32], .cwait (mem .w64 0 98 112 1 0 .b32 .acquire .job)),
  ([0x04060169#32, 0x001A0000#32], .wback (mem .w64 0 6 8 0 0 .b32 .relaxed .device)),
  ([0x0000016D#32, 0x041A0000#32], .invl (mem .w64 0 0 0 0 1 .b32 .relaxed .device))]

theorem test_decode_memory : wordsMemory.all decodesAs = true := by decide

theorem test_encode_memory : wordsMemory.all encodesAs = true := by decide

/-- Words of the matrix encodings, assembled from their fields (R28, R30, R35, R36, R40, R42, R46, R48). -/
def wordsMatrix : List (List Word × Instr) := [
  ([0x38600382#32, 0x001C0700#32, 0x00004000#32], .tld { mem .lit 1 96 112 112 0 .b128 .relaxed .device with off := 0x4000#32 }),
  ([0x00000585#32, 0x00110000#32], .ttag (gen .w64 2 0 0 0 17)),
  ([0x00A00389#32, 0x00000800#32], .mma ⟨.w64, false, false, 1#7, 32#7, 1#7, false, 0#5, 0#4, true, 0#7, .all⟩),
  ([0x0188058D#32, 0x00120060#32], .mmas ⟨.w64, false, false, 3#7, 8#7, 2#7, false, 18#5, 0#4, false, 6#7, .all⟩),
  ([0x01080591#32, 0x001C0030#32], .gathr (mem .w64 2 8 2 3 0 .b128 .relaxed .device)),
  ([0x00000595#32, 0x00010000#32], .accz (gen .w64 2 0 0 0 1)),
  ([0x04060399#32, 0x241D0000#32], .accld (mem .w64 1 6 8 0 9 .b256 .relaxed .device)),
  ([0x0406039D#32, 0x049D0000#32], .accst (mem .w64 1 6 8 0 1 .b256 .release .device)),
  ([0x030211A1#32, 0x00030000#32], .accrd (gen .w64 8 2 6 0 3)),
  ([0x030805A5#32, 0x00020000#32], .accwr (gen .w64 2 8 6 0 2)),
  ([0x000001A8#32], .permit (gen .w32 0 0 0 0 0)),
  ([0x000001A9#32, 0x00010000#32], .permitRel (gen .w64 0 0 0 0 1))]

theorem test_decode_matrix : wordsMatrix.all decodesAs = true := by decide

theorem test_encode_matrix : wordsMatrix.all encodesAs = true := by decide

/-- Words of the streams encodings, assembled from their fields (R28, R30, R35, R36, R40, R42, R46, R48). -/
def wordsStreams : List (List Word × Instr) := [
  ([0x386201C2#32, 0x001A0030#32, 0x00000080#32], .qpush { mem .lit 0 98 112 3 0 .b32 .relaxed .device with off := 0x80#32 }),
  ([0x386401C5#32, 0x005B0060#32], .qwait (mem .w64 0 100 112 6 0 .b64 .acquire .device)),
  ([0x380801C9#32, 0x00330200#32], .putf (mem .w64 0 8 112 32 0 .b64 .relaxed .job)),
  ([0x040601CD#32, 0x001A00C0#32], .putm (mem .w64 0 6 8 12 0 .b32 .relaxed .device)),
  ([0x040601CD#32, 0x049A00B0#32], .putmRel (mem .w64 0 6 8 11 1 .b32 .release .device)),
  ([0x040609D1#32, 0x405A00A0#32], .coll (mem .w64 4 6 8 10 16 .b32 .acquire .device)),
  ([0x386601D5#32, 0x2C1B0100#32], .cpost (mem .w64 0 102 112 16 11 .b64 .relaxed .device)),
  ([0x386625D9#32, 0x001B0000#32], .cpeek (mem .w64 18 102 112 0 0 .b64 .relaxed .device)),
  ([0x38040BD9#32, 0x041A0000#32], .cpeekOut (mem .w64 5 4 112 0 1 .b32 .relaxed .device))]

theorem test_decode_streams : wordsStreams.all decodesAs = true := by decide

theorem test_encode_streams : wordsStreams.all encodesAs = true := by decide

/-- Words of the groups encodings, assembled from their fields (R28, R30, R35, R36, R40, R42, R46, R48). -/
def wordsGroups : List (List Word × Instr) := [
  ([0x030401DC#32], .uint (gen .w32 0 4 6 0 0)),
  ([0x000001E0#32], .uiret (gen .w32 0 0 0 0 0)),
  ([0x040001E5#32, 0x00000000#32], .uictlMask (gen .w64 0 0 8 0 0)),
  ([0x040001E5#32, 0x00010000#32], .uictlUnmask (gen .w64 0 0 8 0 1)),
  ([0x000011E6#32, 0x00020000#32, 0x00000003#32], .uictlAck { gen .lit 8 0 0 0 2 with lit := 0x3#32 }),
  ([0x030011E5#32, 0x00030000#32], .uictlQuery (gen .w64 8 0 6 0 3)),
  ([0x000401E8#32], .gjoin (gen .w32 0 4 0 0 0)),
  ([0x000401EC#32], .gleave (gen .w32 0 4 0 0 0)),
  ([0x02840DF1#32, 0x00010000#32], .gred (gen .w64 6 4 5 0 1)),
  ([0x000001F4#32], .bsync (gen .w32 0 0 0 0 0)),
  ([0x040601F9#32, 0x001A00A0#32], .barInit (mem .w64 0 6 8 10 0 .b32 .relaxed .device)),
  ([0x040609F9#32, 0x049A0000#32], .barArrive (mem .w64 4 6 8 0 1 .b32 .release .device)),
  ([0x040601F9#32, 0x081A00A0#32], .barExpect (mem .w64 0 6 8 10 2 .b32 .relaxed .device)),
  ([0x380401F9#32, 0x0C5A0030#32], .barWait (mem .w64 0 4 112 3 3 .b32 .acquire .device)),
  ([0x040609F9#32, 0x101A00A0#32], .barTest (mem .w64 4 6 8 10 4 .b32 .relaxed .device)),
  ([0x000000A8#32], .reservedOpcode 0x000000A8#32)]

theorem test_decode_groups : wordsGroups.all decodesAs = true := by decide

theorem test_encode_groups : wordsGroups.all encodesAs = true := by decide

/-! States. -/

/-- A program of one instruction loaded after reset, its wave issuing. -/
def st : State := { (State.reset.withProgram [0, 0, 0, 0]) with cur := some ⟨1, 0, 0x10000#64, 8⟩ }

/-- The same with the wave changed. -/
def stW (f : Wave → Wave) : State := st.modWave 1 f

/-- With tiles and accumulators for every field the tests use, and a lane array. -/
def stM : State := stW fun w => { w with
  decl := { w.decl with tiles := 16, accs := 8, lanearray := 8 }
  tiles := List.replicate 16 { Tile.fresh with format := some 0 }, accs := List.replicate 8 Acc.fresh }

/-- In solo code. -/
def stS : State := stW fun w => { w with st := .solo }

/-- The machine issues the instruction and nothing stands before its effect. -/
def clearIn (s : State) (i : Instr) : Bool := (s.issuing i).any (·.clear)

theorem issues_of_clear {s : State} {i : Instr} (h : clearIn s i = true) : ∃ x, Issues i s x := by
  unfold clearIn at h
  cases hx : s.issuing i with
  | none => simp [hx] at h
  | some x => exact ⟨x, hx, by simpa [hx] using h⟩

def notReserved (i : Instr) : Bool := match i with
  | .reservedOpcode _ => false
  | _ => true

theorem witness_issues_control : (wordsControl.map (·.2)).all (clearIn st) = true := by decide
theorem witness_issues_system : (wordsSystem.map (·.2)).all (clearIn stS) = true := by decide
theorem witness_issues_integer : (wordsInteger.map (·.2)).all (clearIn st) = true := by decide
theorem witness_issues_moves : (wordsMoves.map (·.2)).all (clearIn st) = true := by decide
theorem witness_issues_float : (wordsFloat.map (·.2)).all (clearIn st) = true := by decide
theorem witness_issues_lanes : (wordsLanes.map (·.2)).all (clearIn st) = true := by decide
theorem witness_issues_memory : (wordsMemory.map (·.2)).all (clearIn st) = true := by decide
theorem witness_issues_matrix : (wordsMatrix.map (·.2)).all (clearIn stM) = true := by decide
theorem witness_issues_streams : (wordsStreams.map (·.2)).all (clearIn st) = true := by decide
theorem witness_issues_groups : ((wordsGroups.map (·.2)).filter notReserved).all (clearIn st) = true := by decide

/-! Ill-formed terms, one for each check, and the reason each is refused for (R29, R32 to R45, R49, R50). -/

def iaddOk : Gen := gen .w64 4 6 8 0 0
def sfuOk : Gen := gen .w64 4 6 0 0 2
def ldOk : Mem := mem .w64 4 6 8 0 0 .b32 .relaxed .device
def mmaOk : Mat := ⟨.w64, false, false, 1#7, 32#7, 1#7, false, 0#5, 0#4, false, 0#7, .all⟩

theorem test_wellFormed_accepts : iaddOk.check 0x10 = none ∧ sfuOk.check 0x39 = none ∧ ldOk.check 0x50 = none ∧
    mmaOk.check = none ∧ Bra.check ⟨.w64, 5#32, .all⟩ = none := by decide

theorem test_general_sub : ({ iaddOk with sub := 8 } : Gen).check 0x10 = some .sub := by decide
theorem test_general_guard : ({ iaddOk with grd := ⟨true, 0#3⟩ } : Gen).check 0x10 = some .guardField := by decide
theorem test_general_length : (gen .lit 4 0 0 0 0).check 0x41 = some .length := by decide
theorem test_general_short_form : ({ gen .w32 4 6 8 0 1 with look := 0 } : Gen).check 0x10 = some .length := by decide
theorem test_general_literal_elsewhere : ({ iaddOk with lit := 1 } : Gen).check 0x10 = some .literal := by decide
theorem test_general_permute_elsewhere : ({ iaddOk with pa := ⟨.mirror, 0#6⟩ } : Gen).check 0x10 = some .permute := by decide
theorem test_general_literal_with_b : ({ iaddOk with len := .lit } : Gen).check 0x10 = some .literal := by decide
theorem test_general_rnd : ({ iaddOk with rnd := .rtz } : Gen).check 0x10 = some .rnd := by decide
theorem test_general_look : ({ iaddOk with look := 1 } : Gen).check 0x10 = some .look := by decide
theorem test_general_destination : ({ iaddOk with d := 112 } : Gen).check 0x10 = some .destination ∧
    ({ iaddOk with d := 119 } : Gen).check 0x10 = some .destination ∧
    (gen .w64 0 1 2 0 0).check 0x26 = some .destination := by decide
theorem test_general_source : ({ iaddOk with sub := 1, a := 7 } : Gen).check 0x10 = some .register := by decide
theorem test_general_second_source : ({ iaddOk with sub := 1, b := 7 } : Gen).check 0x10 = some .register := by decide
theorem test_general_unused : ({ iaddOk with c := 1 } : Gen).check 0x10 = some .unusedField := by decide
theorem test_general_marks : ({ iaddOk with la := true, a := 96 } : Gen).check 0x10 = some .lastRead ∧
    ({ iaddOk with lb := true, b := 112 } : Gen).check 0x10 = some .lastRead ∧
    ({ iaddOk with lc := true } : Gen).check 0x10 = some .lastRead := by decide
theorem test_general_permutes : ({ iaddOk with pb := ⟨.butterfly, 6#6⟩ } : Gen).check 0x10 = some .permute ∧
    ({ iaddOk with len := .perm, pa := ⟨.none, 1#6⟩ } : Gen).check 0x10 = some .permute ∧
    ({ iaddOk with len := .perm, pc := ⟨.mirror, 0#6⟩ } : Gen).check 0x10 = some .permute := by decide

theorem test_memory_sub : ({ ldOk with sub := 2 } : Mem).check 0x50 = some .sub := by decide
theorem test_memory_size : ({ ldOk with sub := 1 } : Mem).check 0x50 = some .size := by decide
theorem test_memory_guard : ({ ldOk with grd := ⟨true, 0#3⟩ } : Mem).check 0x50 = some .guardField := by decide
theorem test_memory_length : ({ ldOk with len := .perm } : Mem).check 0x50 = some .length := by decide
theorem test_memory_short_form : ({ ldOk with len := .w32, look := 1 } : Mem).check 0x50 = some .length := by decide
theorem test_memory_offset_elsewhere : ({ ldOk with off := 4 } : Mem).check 0x50 = some .literal := by decide
theorem test_memory_order : ({ ldOk with order := .release } : Mem).check 0x50 = some .order := by decide
theorem test_memory_scope : (mem .w64 0 6 8 3 0 .b32 .relaxed .wave).check 0x70 = some .scope := by decide
theorem test_memory_cache : ({ mem .w64 0 6 8 32 0 .b64 .relaxed .device with cache := .hold } : Mem).check 0x72 =
    some .cache := by decide
theorem test_memory_look : ({ mem .w64 0 6 8 3 0 .b32 .relaxed .device with look := 1 } : Mem).check 0x51 =
    some .look := by decide
theorem test_memory_registers : ({ ldOk with d := 112 } : Mem).check 0x50 = some .destination ∧
    ({ ldOk with a := 7 } : Mem).check 0x50 = some .register ∧
    ({ ldOk with c := 1 } : Mem).check 0x50 = some .unusedField ∧
    (mem .w64 0 0 8 0 0 .b32 .acquire .device).check 0x56 = some .unusedField := by decide
theorem test_memory_marks : ({ ldOk with la := true, a := 112 } : Mem).check 0x50 = some .lastRead ∧
    ({ ldOk with lb := true, b := 112 } : Mem).check 0x50 = some .lastRead ∧
    ({ ldOk with lc := true } : Mem).check 0x50 = some .lastRead := by decide

theorem test_matrix_checks : ({ mmaOk with sub := 6 } : Mat).check = some .sub ∧
    ({ mmaOk with grd := ⟨true, 0#3⟩ } : Mat).check = some .guardField ∧ ({ mmaOk with len := .lit } : Mat).check = some .length ∧
    ({ mmaOk with len := .w32, keep := true } : Mat).check = some .length ∧ ({ mmaOk with d := 8 } : Mat).check = some .register ∧
    ({ mmaOk with b := 16 } : Mat).check = some .register ∧ ({ mmaOk with a := 65 } : Mat).check = some .register ∧
    ({ mmaOk with c := 1 } : Mat).check = some .unusedField ∧ ({ mmaOk with sub := 16, c := 96 } : Mat).check = some .register ∧
    ({ mmaOk with lb := true } : Mat).check = some .lastRead ∧ ({ mmaOk with lc := true } : Mat).check = some .lastRead := by
  decide

theorem test_branch_checks : Bra.check ⟨.w64, 5#32, ⟨true, 0#3⟩⟩ = some .guardField ∧
    Bra.check ⟨.perm, 5#32, .all⟩ = some .length ∧ Bra.check ⟨.w32, 5#32, ⟨false, 1#3⟩⟩ = some .length ∧
    Bra.check ⟨.w64, 0x00400000#32, .all⟩ = some .literal := by decide

theorem test_reserved_check : Enc.check (.reserved 0x000000A8#32) = none ∧
    Enc.check (.reserved 0x00000040#32) = some .opcode := by decide

/-- Fields no constructor holds are refused by the decoder itself: PB 6, SIZE 6, SCOPE 7, bit 31 of the memory word 1, bits
[31:22] of the matrix word 1, bits [31:18] of the permute word, an unused bit of a branch, too few bytes. -/
theorem test_decoder_refuses :
    [([0x01820841#32, 0x03000000#32], Illegal.pattern), ([0x01000941#32, 0x001E0000#32], .size),
     ([0x01000941#32, 0x003A0000#32], .scope), ([0x01000941#32, 0x801A0000#32], .reservedBit),
     ([0x00200189#32, 0x00400000#32], .reservedBit), ([0x01820843#32, 0#32, 0x00040000#32], .reservedBit),
     ([0x00000A05#32, 0x00000010#32], .unusedField), ([0x01820841#32], .truncated)].all
      (fun p => match decodeBytes (bytesOfWords p.1) with
        | .error r => r == p.2
        | .ok _ => false) = true := by decide

/-! Single instructions and steps. -/

/-- The wave with value registers mapped, each a function of the lane. -/
def withRegs (l : List (Nat × (Nat → Val))) (w : Wave) : Wave :=
  { w with
    regs := l.zipIdx.map fun p => ⟨p.2, (List.range 32).map p.1.2, 0, none, false, false, false⟩
    nextReg := l.length
    windows := w.windows.map fun v => { v with map := l.zipIdx.map fun p => (p.1.1, p.2) } }

def clean (f : Nat → Nat) (i : Nat) : Val := .ofNat (f i) false

/-- What an instruction leaves in a lane of a value register. -/
def laneAfter (s : State) (i : Instr) (n lane : Nat) : Option Nat :=
  match exec i s with
  | .next t => (t.wave? 1).map fun w => (w.laneVal (w.phys? 0 n) lane).bits.toNat
  | _ => none

/-- What an instruction leaves of the wave. -/
def waveAfter {α : Type} (s : State) (i : Instr) (f : Wave → α) : Option α :=
  match exec i s with
  | .next t => (t.wave? 1).map f
  | _ => none

/-- R171's own example: `iadd.n32.sat v5, v5, 0x20` on 0xFFFF_FFF0, and the same without `.sat`. -/
def stAdd : State := stW (withRegs [(5, clean fun _ => 0xFFFFFFF0)])
theorem test_iadd_saturates :
    laneAfter stAdd (.iadd { gen .lit 5 5 0 0 6 with lit := 0x20 }) 5 7 = some 0xFFFFFFFF := by decide
theorem test_iadd_wraps : laneAfter stAdd (.iadd { gen .lit 5 5 0 0 2 with lit := 0x20 }) 5 7 = some 0x10 := by decide

/-- R176's own example: `movl d8, v3, 0x4000_A300` with 0x40 in v3. -/
theorem test_movl : let s := stW (withRegs [(3, clean fun _ => 0x40)])
    laneAfter s (.movl { gen .lit 8 3 0 0 0 with lit := 0x4000A300 }) 8 0 = some 0x40 ∧
    laneAfter s (.movl { gen .lit 8 3 0 0 0 with lit := 0x4000A300 }) 9 31 = some 0x4000A300 := by decide

/-- R196 and R197's own example: p2 in lanes 0, 3, …, 30 of a wave32. -/
def stThirds : State := stW fun w => withRegs [(5, clean fun i => if i % 3 = 0 then 1 else 0)]
  { w with preds := updAt 2 (fun _ => 0x49249249#64) w.preds }
theorem test_ballot : laneAfter stThirds (.ballot (gen .w32 8 2 0 0 0)) 8 4 = some 0x49249249 ∧
    waveAfter stThirds (.ballot (gen .w64 100 2 0 0 1)) (fun w => (w.sregs.getD 4 .zero).bits) = some 11#32 := by decide
theorem test_vote : waveAfter stThirds (.vote (gen .w64 3 2 0 0 3)) (fun w => w.preds.getD 3 0) = some 0xFFFFFFFF#64 ∧
    waveAfter stThirds (.vote (gen .w64 3 2 0 0 2)) (fun w => w.preds.getD 3 0) = some 0#64 := by decide

/-- The exclusive sum of R200's example: lane i receives the number of marked lanes below it, ceil(i / 3). -/
theorem test_scan_exclusive : [0, 1, 30, 31].map (laneAfter stThirds (.scanl (gen .w64 6 5 0 0 16)) 6) =
    [some 0, some 1, some 10, some 11] := by decide

/-- R182: `pmov.mask d4, p0` gives 2^W − 1. -/
theorem test_pmov_mask : laneAfter st (.pmov (gen .w32 4 0 0 0 0)) 4 9 = some 0xFFFFFFFF ∧
    laneAfter st (.pmov (gen .w32 4 0 0 0 0)) 5 9 = some 0 := by decide

/-- R181: `plog.andn p3, p1, p2` is p1 AND NOT p2. -/
theorem test_plog_andn : let s := stW fun w => { w with preds := [0#64, 0xFF#64, 0x0F#64, 0#64, 0#64, 0#64, 0#64, 0#64] }
    waveAfter s (.plog (gen .w64 3 1 2 0 4)) (fun w => w.preds.getD 3 0) = some 0xF0#64 := by decide

/-- R203's own example: the list 9, 7, 7, 5 with indices 3, 1, 8, 2 and the candidates 7, NaN, 8, 5 with 0, 11, 4, 9. -/
def stTop : State := stW fun w =>
  let key (l : List Nat) := clean fun i => l.getD i 0
  withRegs [(4, key [0x40E00000, 0x7FC00000, 0x41000000, 0x40A00000]), (5, key [0, 11, 4, 9]),
    (10, key [0x41100000, 0x40E00000, 0x40E00000, 0x40A00000]), (11, key [3, 1, 8, 2])]
  { w with live := 15#64, splits := w.splits.map fun p => { p with mask := 15#64 } }
theorem test_topk : [0, 1, 2, 3].map (laneAfter stTop (.topk { gen .lit 10 4 0 0 0 with lit := 4 }) 11) =
      [some 3, some 4, some 0, some 1] ∧
    [0, 1, 2, 3].map (laneAfter stTop (.topk { gen .lit 10 4 0 0 0 with lit := 4 }) 10) =
      [some 0x41100000, some 0x41000000, some 0x40E00000, some 0x40E00000] := by decide

/-- R183: `rdlane s2, v5, 7`; a scalar destination holds lane 7's v5. -/
theorem test_rdlane : waveAfter (stW (withRegs [(5, clean fun i => 100 + i)])) (.rdlane { gen .lit 98 5 0 0 0 with lit := 7 })
    (fun w => (w.sregs.getD 2 .zero).bits) = some 107#32 := by decide

/-- R184, by hand: 1.5 + 2.25 = 3.75 in binary32; the largest finite number doubled is +∞ with OF and NX. -/
theorem test_fadd : let s := stW (withRegs [(1, clean fun _ => 0x3FC00000), (2, clean fun _ => 0x40100000),
      (3, clean fun _ => 0x7F7FFFFF)])
    laneAfter s (.fadd (gen .w32 4 1 2 0 0)) 4 0 = some 0x40700000 ∧
    laneAfter s (.fadd (gen .w32 4 3 3 0 0)) 4 0 = some 0x7F800000 := by decide

/-- R162: TRAP raises SOFTWARE; no class is claimed, so the wave is Held with its split where it stands. -/
theorem test_trap_holds : waveAfter st (.trap { gen .lit 0 0 0 0 0 with lit := 7 }) (fun w => w.st) = some .held := by decide

/-- R28, R53: the first step after a program is loaded fetches and runs it, and the PC passes its words. -/
theorem test_step_runs : (match step (State.reset.withFetchWord 96 0x0000002000060000_00050A42) with
    | .next t => (t.wave? 1).map fun w => w.splits.map (·.pc)
    | _ => none) = some [0x1000C#64] := by decide

/-- R134, R155: a branch back by five words (the spec's own 0xFFFF_F604) from 0x10000. -/
theorem test_step_branches : (match step (State.reset.withFetchWord 32 0xFFFFF604) with
    | .next t => (t.wave? 1).map fun w => w.splits.map (·.pc)
    | _ => none) = some [0xFFEC#64] := by decide

/-- R270's own example: four lanes add 1, 2, 3, 4 to a word holding 10; one at a time in lane order they get 10, 11, 13, 16. -/
theorem test_atomic_adds : (let op (l : Nat) : LaneOp := ⟨l, ⟨.dev, 0x100⟩, 4, pbytes false (leBytes 4 (l + 1)), 1⟩
    let go (r : List Nat × State) (l : Nat) : List Nat × State :=
      let a := r.2.applyAtomic (.atom 0) (op l)
      (r.1 ++ [a.1.bits.toNat], a.2)
    let r := [0, 1, 2, 3].foldl go ([], { st with mem := st.mem.setNat 0x100 4 10 })
    (r.1, r.2.pnat 0x100 4)) = ([10, 11, 13, 16], 20) := by decide

/-! States that meet the hypotheses of the statements: instructions of a wave. -/

/-- The machine issues the instruction with nothing before its effect, and a test of the issue holds. -/
def hyp (s : State) (i : Instr) (p : Iss → Bool) : Bool := (s.issuing i).any fun x => x.clear && p x

theorem issues_of_hyp {s : State} {i : Instr} {p : Iss → Bool} (h : hyp s i p = true) : ∃ x, Issues i s x ∧ p x = true := by
  unfold hyp at h
  cases hx : s.issuing i with
  | none => simp [hx] at h
  | some x =>
    simp only [hx, Option.any_some, Bool.and_eq_true] at h
    exact ⟨x, ⟨hx, h.1⟩, h.2⟩

/-- Value registers with one value in every lane. -/
def stR (l : List (Nat × Nat)) : State := stW (withRegs (l.map fun p => (p.1, clean fun _ => p.2)))

/-- v6 and v8 poisoned in lane 3. -/
def stP : State := stW (withRegs [(6, fun i => ⟨0#32, i == 3⟩), (8, fun i => ⟨0#32, i == 3⟩)])

/-- Every floating-point trap enabled, signalling NaNs in v6 and v8. -/
def stN : State := stW fun w => { withRegs [(6, clean fun _ => 0x7F800001), (7, clean fun _ => 0x7FF00000),
    (8, clean fun _ => 0x7F800001)] w with modes := List.replicate 32 0x7FFF#32 }

theorem witness_iset :
    hyp st (.iset (gen .w64 2 6 8 0 11)) (fun x => x.lanesWhere (fun l => (x.a32 (gen .w64 2 6 8 0 11) l).poison) == 0#64) = true ∧
    hyp stP (.iset (gen .w64 2 6 8 0 11)) (fun x => x.lanesWhere (fun l => (x.a32 (gen .w64 2 6 8 0 11) l).poison) != 0#64) =
      true := by decide

theorem witness_pmov : [0#5, 1#5, 2#5, 3#5].all (fun k => clearIn st (.pmov (gen .w64 (if k.toNat < 1 ∨ k.toNat = 3 then
    4 else 2) 2 0 0 k))) = true ∧
    hyp stP (.pmov (gen .w64 2 6 0 0 1)) (fun x => x.lanesWhere (fun l => (x.a64 (gen .w64 2 6 0 0 1) l).poison) != 0#64) = true ∧
    hyp stP (.pmov (gen .w64 2 6 0 0 2)) (fun x => x.lanesWhere (fun l => (x.a32 (gen .w64 2 6 0 0 2) l).poison) != 0#64) =
      true := by decide

theorem witness_bits : clearIn st (.bits (gen .w64 4 6 8 10 6)) = true ∧ clearIn st (.bits (gen .w64 4 6 8 10 25)) = true := by
  decide

theorem witness_wide_products : clearIn st (.imul (gen .w32 4 6 8 0 0)) = true ∧
    clearIn st (.imul (gen .w64 4 6 8 0 10)) = true ∧ clearIn st (.imad (gen .w64 4 6 8 10 1)) = true ∧
    clearIn st (.imad (gen .w64 4 6 8 10 8)) = true := by decide

/-- A floating-point instruction with no lane trapping, and with every lane trapping a flag. -/
theorem witness_floats : hyp st (.fadd (gen .w32 4 6 8 0 0)) (fun x => x.lanesWhere (fun l =>
      (fAdd .f32 (x.ctl (gen .w32 4 6 8 0 0) l) 0 0).2 &&& trapEnables (x.modeOf l) != 0#5) == 0#64) = true ∧
    hyp stN (.fadd (gen .w32 4 6 8 0 0)) (fun x => x.lanesWhere (fun l =>
      (fAdd .f32 (x.ctl (gen .w32 4 6 8 0 0) l) (x.fa (gen .w32 4 6 8 0 0) l) (x.fb (gen .w32 4 6 8 0 0) l)).2 &&&
        trapEnables (x.modeOf l) != 0#5) != 0#64) = true := by decide

theorem witness_special_operands : (Fmt.f32.hasInf && Fmt.f64.hasInf && Fmt.f16.hasInf) = true ∧
    Fmt.f32.source false 0x3F800000 = .fin false 0x800000 (-23) ∧ Fmt.f32.source false 0x7F800001 = .nan true := by decide

theorem witness_representable : Fmt.f32.decode 0x3F800000 = .fin false 0x800000 (-23) ∧ 0x3F800000 < 2 ^ Fmt.f32.width := by
  decide

/-- An FDIV in the unit, and its completion. -/
def stU : State := match exec (.fdiv (gen .w32 4 6 8 0 0)) st with
  | .next t => t
  | _ => st
theorem witness_unit : (st.quad 0).unitUntil ≤ st.clk ∧ clearIn st (.fdiv (gen .w32 4 6 8 0 0)) = true ∧
    ((stU.pick (stU.quad 0).unit).1.any fun u => ((stU.wave? u.1).bind (·.op? u.2)).any fun o => !o.result.isEmpty) = true ∧
    (let s := { stU with cur := some ⟨1, 0, 0x10004#64, 4⟩ }
     clearIn s (.sfu (gen .w32 5 9 0 0 0)) = true ∧ s.clk < (s.quad 0).unitUntil) := by decide

/-- The same with every flag trapped: ARITH falls due at completion. -/
def stUN : State := match exec (.fdiv (gen .w32 4 6 8 0 0)) stN with
  | .next t => t
  | _ => st
theorem witness_unit_traps : ((stUN.pick (stUN.quad 0).unit).1.any fun u => ((stUN.wave? u.1).bind (·.op? u.2)).any (·.result.isEmpty)) = true := by
  decide

theorem witness_fset : let g := gen .w64 3 6 8 0 0
    let fl (x : Iss) := x.lanesWhere fun l => (fSet .f32 ((x.modeOf l).getLsbD 2) 0 false (x.a32 g l).bits.toNat
      (x.b32 g l).bits.toNat).2 &&& trapEnables (x.modeOf l) != 0#5
    let pz (x : Iss) := x.lanesWhere fun l => (x.a32 g l).poison || (x.b32 g l).poison
    hyp st (.fset g) (fun x => pz x == 0#64 && fl x == 0#64) = true ∧
    hyp stP (.fset g) (fun x => pz x != 0#64 && fl x == 0#64) = true ∧
    hyp stN (.fset g) (fun x => pz x == 0#64 && fl x != 0#64) = true := by decide

theorem witness_match : hyp st (.matchl (gen .w64 2 6 0 0 2)) (fun x =>
      x.lanesWhere (fun l => (x.a32 (gen .w64 2 6 0 0 2) l).poison) == 0#64) = true ∧
    hyp stP (.matchl (gen .w64 2 6 0 0 2)) (fun x =>
      x.lanesWhere (fun l => (x.a32 (gen .w64 2 6 0 0 2) l).poison) != 0#64) = true ∧
    clearIn st (.matchl (gen .w64 4 6 0 0 0)) = true := by decide

theorem witness_scan : clearIn st (.scanl (gen .w64 6 5 0 0 16)) = true ∧ clearIn st (.redl (gen .w64 4 6 0 0 11)) = true := by
  decide

theorem witness_prefix_fold : (16 : Nat) ∈ [16, 32, 64] ∧ ((List.range 16).map fun k => some k).length = 16 ∧
    (∀ v ∈ List.range 16, v < 2 ^ 32) := by decide

/-- The spec's own example of TOPK, whose entries have the order R203 gives. -/
theorem witness_topk : let g : Gen := { gen .lit 10 4 0 0 0 with lit := 4 }
    hyp stTop (.topk g) (fun x =>
      let entry (cand : Bool) (lane : Nat) (v : Val64) : Ranked :=
        let r := keyRank false false ((x.modeOf lane).getLsbD 2) (v.bits.toNat % 2 ^ 32)
        ⟨r.1, r.2, v.bits.toNat / 2 ^ 32, cand, lane, v⟩
      let list := (List.range 4).map fun j => entry false j (Val.join (x.reg g.d 0 j) (x.reg g.d 1 j))
      let sorted := (list ++ x.lanes.map fun i => entry true i (x.a64 g i)).foldl (fun l e => insertRanked e l) []
      sorted.length == 8 && (sorted.zip (sorted.drop 1)).all fun p => p.1.before p.2) = true := by decide

/-- A lane array of 8 words, with the index within it, beyond it, and poisoned. -/
theorem witness_lane_array : hyp stM (.lda (gen .w64 4 6 8 0 0)) (fun x => x.lanes.all fun l =>
      !(x.a32 (gen .w64 4 6 8 0 0) l).poison && (x.a32 (gen .w64 4 6 8 0 0) l).bits.toNat + 1 ≤ x.w.decl.lanearray) = true ∧
    hyp stM (.sta (gen .w64 0 6 8 10 1)) (fun x => (x.lanes.all fun l => l < x.w.width) && !stM.poolShort x.w 1) = true ∧
    hyp st (.lda (gen .w64 4 6 8 0 0)) (fun x => x.w.decl.lanearray == 0) = true ∧
    hyp (stP.modWave 1 fun w => { w with decl := { w.decl with lanearray := 8 } }) (.sta (gen .w64 0 6 8 10 0))
      (fun x => x.lanesWhere (fun l => (x.a32 (gen .w64 0 6 8 10 0) l).poison) != 0#64) = true := by decide

theorem witness_compress : clearIn st (.compress (gen .w64 7 3 2 0 0)) = true ∧
    clearIn st (.expand (gen .w64 6 2 5 0 1)) = true := by decide

/-- Branch targets that are good, poisoned, beyond 2^57 and misaligned. -/
theorem witness_branches : let g := gen .w32 0 6 0 0 0
    hyp st (.brx g) (fun x => x.lanes.all fun l => (x.a64 g l).bits.toNat % 4 == 0) = true ∧
    hyp stP (.brx g) (fun x => x.lanesWhere (fun l => (x.a64 g l).poison) != 0#64) = true ∧
    hyp (stR [(6, 0), (7, 0x02000000)]) (.brx g) (fun x => x.lanes.any fun l => 2 ^ 57 ≤ (x.a64 g l).bits.toNat) = true ∧
    hyp (stR [(6, 2), (7, 0)]) (.brx g) (fun x => x.lanes.any fun l => (x.a64 g l).bits.toNat % 4 != 0) = true := by decide

theorem witness_calls : let g := gen .w32 0 6 0 0 0
    hyp st (.callx g) (fun x => match x.targets g with
      | .ok _ => x.w.windows.length < 64
      | .error _ => false) = true ∧
    hyp stP (.callx g) (fun x => match x.targets g with
      | .ok _ => false
      | .error _ => true) = true ∧
    hyp (stW fun w => { w with windows := (List.range 64).map fun k =>
      ⟨k, .call, 16, 0, 0#64, [], false, false, none⟩ }) (.callx g) (fun x => decide (64 < x.w.windows.length + 1)) = true := by
  decide

/-- Inside a call window, whose caller is or is not with the spill engine, and inside a handler window. -/
def stC (spilled entered : Bool) (k : WinKind) : State := stW fun w => { w with
  windows := (w.windows.map fun v => { v with spilled }) ++ [⟨1, k, 16, 0, 0x20000#64, [], entered, false, none⟩], nextWin := 2
  splits := w.splits.map fun p => { p with win := 1 } }
theorem witness_returns : let ret := Instr.ret (gen .w32 0 0 0 0 0)
    let enter := Instr.enter (gen .w64 0 0 0 0 6)
    let exit := Instr.exit (gen .w32 0 0 0 0 0)
    let top (x : Iss) (f : Window → Bool) : Bool := (x.w.window? x.sp.win).any f
    hyp (stC false false .call) ret (fun x => top x fun v => v.kind == .call && (x.w.window? v.caller).any (!·.spilled)) = true ∧
    hyp (stC true false .call) ret (fun x => top x fun v => v.kind == .call && (x.w.window? v.caller).any (·.spilled)) = true ∧
    hyp (stC false false .handler) ret (fun x => top x fun v => v.kind == .handler) = true ∧
    hyp (stC false false .call) enter (fun x => top x fun v => v.kind != .initial && !v.entered) = true ∧
    hyp (stC false true .call) enter (fun x => top x fun v => v.entered) = true ∧
    hyp st enter (fun x => top x fun v => v.kind == .initial) = true ∧
    hyp (stC false false .handler) exit (fun x => top x fun v => v.kind == .handler) = true ∧
    hyp st exit (fun x => !(top x fun v => v.kind == .handler)) = true := by decide

theorem witness_mode_and_waits : hyp stP (.mode (gen .w64 0 6 8 0 0)) (fun x =>
      x.lanesWhere (fun l => (x.a32 (gen .w64 0 6 8 0 0) l).poison) != 0#64) = true ∧
    hyp stP (.modeSet (gen .w64 0 0 8 0 1)) (fun x =>
      x.lanesWhere (fun l => (x.b32 (gen .w64 0 0 8 0 1) l).poison) != 0#64) = true ∧
    hyp st (.waitc (gen .w64 0 0 8 0 1)) (fun x => !(x.b32 (gen .w64 0 0 8 0 1) x.first).poison) = true ∧
    hyp (stW (withRegs [(8, fun _ => ⟨0#32, true⟩)])) (.waitc (gen .w64 0 0 8 0 1)) (fun x =>
      (x.b32 (gen .w64 0 0 8 0 1) x.first).poison) = true ∧
    (st.issuing (.reservedOpcode 0x000000A8#32)).isSome = true := by decide

/-! Traps and solo code. -/

/-- The claim word of context 1 with every class the device's, with every class the host's, and with none. -/
def stClaim (v : Nat) : State := { st with mem := st.mem.setNat 0x100134 4 v }.modCtx 1 fun c => { c with claim := v }
def raised (c : Cause) : Raised := ⟨⟨c, .issue, 4#64, 0, 0⟩, 0x10000#64, 0x10000#64, 1, 0⟩

/-- R442, R447, R448: BOOTSTAT reads 0 right after reset; POWERCAP reads 2,400 once Ready. -/
theorem test_control_space_reads :
    State.reset.controlRead 0 = 0 ∧ (State.reset.modDev fun d => { d with st := .refused, reason := 4 }).controlRead 0 = 0x401 ∧
    st.controlRead 0 = 2 ∧ st.controlRead 0x30 = 2400 ∧ st.controlRead 0x18 = 0 := by
  decide

/-- R84: a write to CLAIM takes effect for events raised 4,000 clocks or more after it is seen. -/
theorem test_claim_takes_effect_after_2us :
    let s := { st with mem := st.mem.setNat 0x100134 4 5 }
    let early := s.claimTick 1
    let wait (clk : Nat) : State := ((early.modDev fun d => { d with clk := clk }).claimTick 1)
    (early.ctx 1).claim = 0 ∧ ((wait (st.clk + 3998)).ctx 1).claim = 0 ∧ ((wait (st.clk + 3999)).ctx 1).claim = 5 := by
  decide

theorem witness_claimed_trap : (((stClaim 0x55555).wave? 1).any fun w => !w.service && w.st != .solo &&
    (w.split? 0).isSome) = true ∧
    ((stClaim 0x55555).ctx 1).claim.testBit (2 * Cause.illegal.claimClass) = true ∧ (raised .illegal).trap.cause ≠ .poison := by
  decide

theorem witness_unclaimed_trap : ((st.wave? 1).any fun w => !w.service && w.st != .solo) = true ∧
    (st.ctx 1).claim.testBit (2 * Cause.illegal.claimClass) = false ∧ ((stS.wave? 1).any fun w => w.st == .solo) = true := by
  decide

/-- The wave in solo mode after a claimed trap. -/
def stSolo : State := { ((stClaim 0x55555).takeTrap 1 0 (raised .illegal)) with cur := some ⟨1, 0, 0x10000#64, 8⟩ }
/-- The same as a service wave. -/
def stServ : State := stSolo.modWave 1 fun w => { w with service := true }

theorem witness_solo_returns : let claimd := Instr.sysClaimd (gen .w64 0 112 0 0 7)
    let claimf := Instr.sysClaimf (gen .w64 0 112 0 0 8)
    hyp stSolo (.sysSret (gen .w32 0 0 0 0 0)) (fun x => !x.w.service && x.w.frozen.any fun f => f.inSolo &&
        f.splits.length == 1 && x.w.sys.pend == 0#64) = true ∧
    hyp stServ (.sysSret (gen .w32 0 0 0 0 0)) (fun x => x.w.service) = true ∧
    hyp stSolo claimd (fun x => !x.w.service && (x.a64 (gen .w64 0 112 0 0 7) x.first).bits == 0#64) = true ∧
    hyp (stW fun w => { w with st := .solo, sregs := updAt 0 (fun _ => .ofNat 1 false) w.sregs }) (.sysClaimd (gen .w64 0 96 0 0 7))
      (fun x => (x.a64 (gen .w64 0 96 0 0 7) x.first).bits != 0#64) = true ∧
    hyp stServ claimd (fun x => x.w.service) = true ∧
    hyp stSolo claimf (fun x => !x.w.service && x.w.frozen.any (·.inSolo)) = true ∧
    hyp stServ claimf (fun x => x.w.service && (stServ.ringOf 0).isNone) = true ∧
    stServ.ringOf 0x180000 = some 1 := by decide

theorem witness_system_registers : let rd (n : Nat) : Gen := { gen .lit 4 0 0 0 1 with lit := BitVec.ofNat 32 n }
    let wr (n : Nat) : Gen := { gen .lit 0 6 0 0 2 with lit := BitVec.ofNat 32 n }
    [0, 15, 0x160, 0x167, 0x168, 0x169].all (fun n => hyp stSolo (.sysSmovr (rd n)) fun x =>
      (x.b32 (rd n) x.first).bits.toNat == n && x.w.sys.tlane.toNat < x.width) = true ∧
    [0, 7, 10, 12, 0x160, 0x161, 0x167, 1, 15].all (fun n => hyp stSolo (.sysSmovw (wr n)) fun x =>
      (x.b32 (wr n) x.first).bits.toNat == n && (x.a64 (wr n) x.first).bits.toNat < x.width) = true := by decide

theorem witness_system_commands :
    let lit (sub : BitVec 5) (a : Fld) (n : Nat) : Gen := { gen .lit 0 a 0 0 sub with lit := BitVec.ofNat 32 n }
    let b (g : Gen) (x : Iss) : Nat := (x.b32 g x.first).bits.toNat
    let a (g : Gen) (x : Iss) : Nat := (x.a64 g x.first).bits.toNat
    hyp stS (.sysTlbinv (lit 3 6 1)) (fun x => b (lit 3 6 1) x % 64 != 0 && a (lit 3 6 1) x < 2 ^ 57) = true ∧
    hyp stS (.sysTlbinv (lit 3 6 0)) (fun x => b (lit 3 6 0) x % 64 == 0) = true ∧
    hyp ((stR [(7, 0x02000000)]).modWave 1 fun w => { w with st := .solo }) (.sysTlbinv (lit 3 6 1)) (fun x => 2 ^ 57 ≤ a (lit 3 6 1) x) = true ∧
    clearIn stS (.sysTlbsync (gen .w64 0 0 0 0 4)) = true ∧
    hyp stS (.sysEvict (lit 5 0 1)) (fun x => (stS.ctx 1).st == .resident && (stS.ctx 1).saving.isNone &&
        b (lit 5 0 1) x % 64 == 1) = true ∧
    hyp stS (.sysEvict (lit 5 0 2)) (fun _ => (stS.ctx 2).st == .free) = true ∧
    hyp stS (.sysWake (lit 14 0 1)) (fun _ => (stS.ctx 1).st != .created) = true ∧
    hyp stS (.sysQctl (lit 10 6 0x20)) (fun x => b (lit 10 6 0x20) x % 256 == 0x20 && a (lit 10 6 0x20) x % 16 ≤ 8) = true ∧
    hyp stS (.sysQctl (lit 10 6 0x10)) (fun x => (stS.commandNeeds 0 0).isNone && a (lit 10 6 0x10) x % 256 != 2) = true ∧
    hyp stS (.sysQctl (lit 10 6 0x99)) (fun x => b (lit 10 6 0x99) x % 256 == 0x99) = true ∧
    hyp stS (.sysGkill (lit 11 0 0)) (fun x => x.sysLaunch.any fun l => 0 < l.gangs.length) = true ∧
    hyp { stS with sched := { stS.sched with launches := stS.sched.launches.map fun l => { l with gangs := [⟨.awaiting, 0, 0,
        [], false⟩] } } }
      (.sysGrelaunch (lit 12 0 0)) (fun x => x.sysLaunch.any fun l => (l.gangs.getD 0 ⟨.done, 0, 0, [],
          false⟩).st == .awaiting) = true ∧
    hyp stS (.sysBiasset (lit 13 6 1)) (fun x => a (lit 13 6 1) x % 4096 == 0 && b (lit 13 6 1) x == 1 &&
        !(stS.biasset 0 1 1 0).1) = true ∧
    hyp stS (.sysBiasset (lit 13 6 0)) (fun _ => (stS.biasset 0 0 1 0).1) = true := by decide

/-! Memory, tiles and the array. -/

def stAt (l : List (Nat × Nat)) : State := stR ((6, 0x10100) :: l)

/-- A page of host memory at 0x20000, and v12 poisoned. -/
def stHost : State :=
  { (stW (withRegs [(6, clean fun _ => 0x20000), (12, fun _ => ⟨0#32, true⟩)])) with mem := st.mem.setNat 0x5010 8 0x2003F }

theorem witness_store : ([⟨1#8, false⟩] : List PByte) ≠ [] ∧ (st.block? 1).isSome = true := by decide

theorem witness_address_classes : ((st.wave? 1).any fun w => w.st != .solo && !w.service && w.decl.gang == 1 &&
    w.decl.scratch == 0) =
    true ∧ (List.range 4).all (fun k => decide (k * 2 ^ 62 < 2 ^ 64)) = true := by decide

theorem witness_scratch_address :
    let s : State := { st with blocks := st.blocks.map fun b => { b with scratchSize := 4096 } }
    (((s.modWave 1 fun w => { w with decl := { w.decl with scratch := 4096 } }).wave? 1).any fun w =>
      (s.blocks.find? (fun b => b.live && b.ctx == w.ctx && b.tag == w.tag && b.gang == w.gang && b.member == 0)).isSome) =
      true := by decide

theorem witness_translation : tlbLookup (st.core 0).tlb 1 0x10040 = none ∧ tlbLookup (st.homes.dieTlb.getD 0 []) 1 0x10040 = none ∧
    walkFrom st 0x10040 (st.ctx 1).ptroot 5 = .leaf 0x5008 0x1001F 1 ∧ leafCheck (0x1001F ||| 0x80) Need.write = none := by
  decide

def located (x : Iss) (m : Mem) (n : Nat) (need : Need) : Bool := match x.locate x.lanes (x.addr m) n need (fun _ _ => none) with
  | .ok _ ps => !Iss.isFar ps && !x.full (x.requests ps)
  | _ => false

theorem witness_load : let m := mem .w64 4 6 8 0 0 .b32 .relaxed .device
    hyp (stAt []) (.ld m) (fun x => located x m 4 Need.read) = true := by decide

theorem witness_store_issue : let m := mem .w64 0 6 8 12 0 .b32 .relaxed .device
    hyp (stAt []) (.st m) (fun x => located x m 4 Need.write) = true ∧
    hyp stHost (.st m) (fun x => match x.locate x.lanes (x.addr m) 4 Need.write (fun _ _ => none) with
      | .ok _ ps => (ps.filter fun p => p.2.traps && anyPoison (x.dataOf m.c 4 p.1)).length == 32
      | _ => false) = true := by decide

theorem witness_atomics : let m := mem .w64 4 6 8 12 0 .b32 .relaxed .device
    [Instr.atom m, .cas m].all (fun i => hyp (stAt []) i fun x => located x m 4 Need.both &&
      x.lanes.all fun l => !(anyPoison (x.dataOf m.c 8 l))) = true ∧
    hyp (stAt []) (.red { m with d := 0 }) (fun x => located x m 4 Need.both) = true ∧
    hyp (stAt []) (.redk { m with d := 0 }) (fun x => located x m 16 Need.both) = true ∧
    hyp (stW (withRegs [(6, clean fun _ => 0x10100), (12, fun _ => ⟨0#32, true⟩)])) (.atom m) (fun x => located x m 4 Need.both &&
      x.lanes.all fun l => anyPoison (x.dataOf m.c 4 l)) = true := by decide

theorem witness_compact_store : let m := mem .w64 4 6 112 12 1 .b32 .relaxed .device
    hyp (stAt []) (.cstore m) (fun x => match x.pack 4 0x10100 (fun _ => false) x.lanes 0 (stAt []) [] with
      | .all _ ps => ps.length == 32 && !x.full (x.requests ps)
      | _ => false) = true := by decide

theorem witness_ordering : let m := mem .w64 0 6 8 12 0 .b32 .relaxed .device
    clearIn st (.fence (mem .w64 0 0 0 0 0 .b32 .release .job)) = true ∧
    hyp (stAt []) (.cwait m) (fun x => match (stAt []).nameOf x.w (x.addr m x.first).bits.toNat with
      | .local c va => (match (stAt []).laneAt x.w c va 0x10100 Need.read with
        | .ok _ _ => !anyPoison (x.dataOf m.c 4 x.first)
        | _ => false)
      | _ => false) = true ∧
    hyp (stW (withRegs [(6, clean fun _ => 0x10100), (12, fun _ => ⟨0#32, true⟩)])) (.cwait m) (fun x =>
      anyPoison (x.dataOf m.c 4 x.first)) = true ∧
    hyp (stAt []) (.pref { m with c := 0 }) (fun x => !x.full 1) = true ∧
    hyp (stAt []) (.wback { m with c := 0 }) (fun x => x.lanes.all fun l => !(x.addr m l).poison) = true ∧
    clearIn st (.invl (mem .w64 0 0 0 0 1 .b32 .relaxed .device)) = true := by decide

/-- Tiles with a format, the addresses in the program's page, a permit held. -/
def stT : State := ((stW fun w => withRegs [(6, clean fun _ => 0x10100)] { w with
  decl := { w.decl with tiles := 16, accs := 8 }
  tiles := List.replicate 16 { Tile.fresh with format := some 0 }, accs := List.replicate 8 Acc.fresh }).modQuad 0 fun q =>
    { q with permit := .held 0 })

theorem witness_tiles : let tld := mem .w64 1 6 8 112 0 .b128 .relaxed .device
    let gathr := mem .w64 2 6 8 3 0 .b128 .relaxed .device
    hyp stT (.tld tld) (fun x => !x.matrixHeld (some 1) none && (match x.locate (List.range 4)
        (fun k => ⟨(x.addr tld x.first).bits + BitVec.ofNat 64 (k * 128), false⟩) 128 Need.read (fun _ _ => none) with
      | .ok _ _ => true
      | _ => false)) = true ∧
    hyp stT (.gathr gathr) (fun x => !x.matrixHeld (some 2) none) = true ∧
    hyp stT (.ttag (gen .w64 2 0 0 0 1)) (fun x => !x.matrixHeld (some 2) none) = true := by decide

theorem witness_matrix : let m : Mat := ⟨.w64, false, false, 1#7, 32#7, 1#7, false, 0#5, 0#4, false, 0#7, .all⟩
    hyp stT (.mma m) (fun x => !x.matrixHeld (some 1) (some 1) && !x.queueFull && (x.w.tiles[1]?).any fun t =>
      (mmaFail t (stT.accKind x.w 1) 0 false false).isNone) = true ∧
    hyp stT (.mmas { m with sub := 2#5 }) (fun x => (x.w.tiles[1]?).any fun t => (mmaFail t (stT.accKind x.w 1) 2 false true).isSome) = true ∧
    hyp stT (.accz (gen .w64 2 0 0 0 0)) (fun x => !x.matrixHeld none (some 2) && !x.queueFull) = true ∧
    hyp stT (.accrd (gen .w64 8 2 10 0 3)) (fun x => !x.matrixHeld none (some 2) &&
      x.lanes.all fun l => (x.b32 (gen .w64 8 2 10 0 3) l).bits.toNat + 8 ≤ 128) = true ∧
    hyp stT (.accwr (gen .w64 2 8 10 0 2)) (fun x => !x.matrixHeld none (some 2)) = true ∧
    hyp stT (.accld (mem .w64 1 6 8 0 0 .b128 .relaxed .device)) (fun x => located x (mem .w64 1 6 8 0 0 .b128 .relaxed .device) 128 Need.read) = true ∧
    hyp stT (.accst (mem .w64 1 6 8 0 0 .b128 .relaxed .device)) (fun x => located x (mem .w64 1 6 8 0 0 .b128 .relaxed .device) 128 Need.write) =
      true := by decide

/-- A permit requested, one held for 1,024 clocks, an ACCZ at the head of the array's queue, and one started. -/
def stArr (started : Option Nat) : State := match exec (.accz (gen .w64 2 0 0 0 0)) stT with
  | .next t => { (t.modQuad 0 fun q => { q with array := q.array.map fun a => { a with started } }) with
      dev := { t.dev with clk := 5000 } }
  | _ => st
theorem witness_permits : (let s := st.modQuad 3 fun q => { q with permit := .requested 0 false }
      (s.quad 3).permit = .requested 0 false ∧ 0 < permitLimit s.dev.capNow ∧ ((s.dev.grants.getD 0 []).length < 8) ∧
          s.quads.length = 256) ∧
    ((stArr none).quad 1).idle = true ∧ clearIn st (.permit (gen .w32 0 0 0 0 0)) = true ∧
    clearIn stT (.permitRel (gen .w64 0 0 0 0 1)) = true := by decide

theorem witness_array : ((((stArr none).askPermit 0).quad 0).head?.any fun a => ((stArr none).wave? a.wave).any fun w =>
      !(((stArr none).askPermit 0).earlierOn w a.no none (some a.acc) fun o => o.kind != .matrix) && !a.needsPermit) = true ∧
    ((((stArr (some 0)).quad 0).array.find? (·.started.isSome)).any fun a => ((stArr (some 0)).wave? a.wave).any fun w =>
      0 + a.clocks w.width ≤ (stArr (some 0)).clk && (stArr (some 0)).journalRoom w a.acc ((arrayRows w a).map (·.1)) &&
          a.op != 0x68) =
      true := by decide

/-! Homes, lines and caches. -/

/-- One message on its way, of the wave's operation 1, in a state. -/
def withMsg (s : State) (uid : Nat) (k : MsgKind) : State := { s with msgs := [⟨1, 1, uid, 1, 1, k⟩], nextMsg := 2 }
def stMsg (k : MsgKind) : State := withMsg st 1 k
def home (a : Nat) : Loc := ⟨.dev, a⟩
def opAt (size : Nat) (data : Nat) : LaneOp := ⟨0, home 0x10100, size, pbytes false (leBytes size data), 1⟩
def pendingMsg (s : State) (f : Msg → Bool) : Bool := (s.msg? 1).any f

/-- Nothing of the message's wave or of its core precedes it at the home, and the home needs nothing. -/
def ready (s : State) (l : Loc) (n : Nat) (except : Option Nat) (read : Bool) : Bool :=
  pendingMsg s fun m => !s.behindOwn m l n && !s.writebackPending 0 (fun k _ => k.frameLine == l.frameLine) && s.ownsLine l &&
    (s.homeNeeds l n except read).isNone

theorem witness_home_access : ready (withMsg st 0 (.read (home 0x10100) 0 true 1)) (home 0x10100) 32 (some 0) true = true ∧
    ready (stMsg (.write (opAt 4 7) 0 none)) (home 0x10100) 4 (some 0) false = true ∧
    ready (stMsg (.atomic (.atom 0) (opAt 4 7) 0 true none)) (home 0x10100) 4 (some 0) true = true ∧
    st.dev.hbmErrors = [] ∧ st.inSlots (home 0x10100) 8 = false := by decide

theorem witness_keyed_contributions : let s := stMsg (.redk 0 (opAt 16 0) 0 none)
    ready s (home 0x10100) 16 (some 0) true = true ∧
    s.msgs.any (fun k => decide (k.id < 1) && k.wave == 1 && k.uid == 1) = false ∧
    (s.deliverKey 0 (opAt 16 0) none).isSome = true ∧ (s.deliverKey 0 (opAt 16 5000) none).isNone = true ∧
    (pvalue ((opAt 16 5000).data.take 4) + 2 ^ 32 - s.keyNext (home 0x10100)) % 2 ^ 32 = 5000 ∧
    (pvalue ((opAt 16 1023).data.take 4) + 2 ^ 32 - s.keyNext (home 0x10100)) % 2 ^ 32 = 1023 ∧
    (pvalue ((opAt 16 (2 ^ 31)).data.take 4) + 2 ^ 32 - s.keyNext (home 0x10100)) % 2 ^ 32 = 2 ^ 31 ∧
    s.homes.keys.any (fun k => k.loc == home 0x10100) = false := by decide

/-- The LD of the tests in flight, which the replies are for. -/
def stLd : State := match exec (.ld (mem .w64 4 6 8 0 0 .b32 .relaxed .device)) (stAt []) with
  | .next t => t
  | _ => st
def ldUid : Nat := ((stLd.wave? 1).bind (·.ops.head?)).elim 0 (·.uid)
theorem witness_replies : let s := { stLd with msgs := [⟨1, 1, ldUid, 1, 1, .reply (home 0x10100) (List.replicate 32 ⟨7,
    false⟩) true 0⟩] }
    (s.msg? 1).isSome = true ∧ (s.mayLandAt 1 ldUid).1 = true ∧ ((s.wave? 1).bind (·.op? ldUid)).isSome = true ∧
    ((stMsg .ack).msg? 1).isSome = true ∧ ((stMsg (.values [])).msg? 1).isSome = true := by decide

theorem witness_loaded : (List.replicate 4 (⟨0x80, false⟩ : PByte)).length = 4 := by decide

/-- A frame of the L1 of core 0, dirty or not. -/
def frame (dirty : BitVec 4) : Frame := ⟨0, home 0x10100, 1, 0xF#4, dirty, 0#4, if dirty = 0#4 then 0#128 else 1#128,
    List.replicate 128 0#8, 0, 0, 3#2, 1⟩
def withFrame (d : BitVec 4) (s : State) : State := s.modCore 0 fun c => { c with frames := [frame d] }
theorem witness_drains : let wb := stMsg (.writeback 0 (home 0x10100) [(3, ⟨9, false⟩)] 0#4 0 0 1)
    (wb.msg? 1).isSome = true ∧ wb.dev.hbmErrors = [] ∧
    wb.msgs.any (fun k => match k.kind with
      | .writeback c l _ _ e _ _ => c == 0 && (decide (e < 0) || (l == home 0x10100 && decide (k.id < 1)))
      | _ => false) = false ∧
    ((stMsg (.drain 0 0 true (home 0x10100) false)).msg? 1).isSome = true ∧
    (let s := stMsg (.drain 0 0 true (home 0x10100) true)
     (s.core 0).frames.any (fun f => f.isDirty && (true || decide (f.epoch ≤ 0))) = false ∧
     s.writebackPending 0 (fun _ e => true || decide (e ≤ 0)) = false) ∧
    ((stMsg (.ownership 0)).msg? 1).isSome = true := by decide

theorem witness_gating : let s := { (State.reset : State) with dev := { State.reset.dev with clk := 8192 } }
    s.waves.any (fun w => w.onCore && w.core == 5 && w.st != .ended) = false ∧ (s.core 5).pending = [] ∧
    (s.core 5).idleAt + 8192 ≤ s.clk ∧ (s.core 5).gated = false ∧
    (let d := s.modCore 5 fun c => { c with frames := [frame 1#4] }
     (s.writebackWhere 5 (fun _ => true) (0, 0)).writebackPending 5 (fun _ _ => true) = false ∧
     (((d.writebackWhere 5 (fun _ => true) (0, 0)).dropFrames 5 fun _ => true).writebackPending 5 (fun _ _ => true)) = true) := by
  decide

theorem witness_probes : let p := stMsg (.probe 0 0x10100 (some 1) 9 none)
    (p.msg? 1).isSome = true ∧ (p.noFill 0 fun l => l.line == ⟨.dev, 0x10100⟩).frame? 0 ⟨.dev, 0x10100⟩ = none ∧
    (let q := (withFrame 0#4 p).noFill 0 fun l => l.line == ⟨.dev, 0x10100⟩
     (q.core 0).gated = false ∧ (q.frame? 0 ⟨.dev, 0x10100⟩).any (fun f => !f.isDirty) = true) ∧
    p.homes.hostReqs.any (fun r => r.id == 9 && r.kind == 3) = false ∧
    ((stMsg (.probeResponse 0 0x10100 none 9 [] [] 1)).msg? 1).isSome = true ∧
        ((stMsg (.backInv 0x10100 0 9)).msg? 1).isSome = true := by
  decide

theorem witness_host_requests : (st.dev.on = true ∧ st.dev.st = .ready ∧ 0 % 64 + 64 ≤ 64 ∧ 0x5FFFFFFFC0 + 64 ≤ 0x6000000000) ∧
    ¬(0x3C % 64 + 8 ≤ 64) ∧
    (List.range 64).any (fun c => ((List.range 64).foldl (fun s c => s.writebackWhere c (fun f => f.loc == ⟨.host, 0⟩) (0, 0))
      st).writebackPending c fun l _ => l == ⟨.host, 0⟩) = false := by decide

/-! Queues and engines. -/

/-- Context 1 with one launch queue and one engine queue, their headers at 0x10600 and 0x10400 and the engine's ring of eight
slots at 0x10800. -/
def queue (st_ : QState) (e : Option Entry) : Queue := { Queue.fresh with
  ring := 0x10800, log2 := 3, st := st_, entry := e, isOpen := true }
def stQ (st_ : QState) (e : Option Entry) (tail : Nat) (img : List Byte) : State :=
  { (stAt []).modCtx 1 fun c => { c with eqs := [queue st_ e], lqs := [queue st_ none], eqbase := 0x10400, lqbase := 0x10600 } with
    mem := (st.mem.setNat 0x10400 8 tail).setBytes 0x10800 img }

/-- A COPY of 64 bytes, or of one byte more than a chunk, and an entry that is none. -/
def copyImage (n : Nat) : List Byte :=
  leBytes 8 1 ++ leBytes 8 0x11000 ++ leBytes 8 0x12000 ++ leBytes 8 n ++ List.replicate 96 0#8
def copying (n : Nat) (started : Bool) (claims : List (Nat × Nat)) : Entry := ⟨0, copyImage n, started, [], claims, [], false, [], false, []⟩

/-- v12 an engine queue's selector. -/
def stPush (sel : Nat) : State := (stQ .empty none 0 []).modWave 1 (withRegs [(6, clean fun _ => 0x10100), (12,
    clean fun _ => sel)])
def mQ : Mem := mem .w64 0 6 8 12 0 .b128 .relaxed .device
/-- The lanes' places as QPUSH checks them. -/
def pushPlaces (x : Iss) : Located := x.locate x.lanes (x.addr mQ) 128 .read (fun l p => match p with
    | .bad _ => none
    | _ => if (x.reg mQ.c 0 l).poison then some ⟨.poison, (x.addr mQ l).bits, none⟩
      else x.s.selectorFail x.w.ctx (x.reg mQ.c 0 l).bits.toNat (x.addr mQ l).bits) (later := x.imageCheck mQ)
def pushes (x : Iss) : Bool := match pushPlaces x with
  | .ok s' ps => !Iss.isFar ps && !x.full (x.requests ps) && (x.images s' ps).1.isSome
  | _ => false
theorem witness_qpush : hyp (stPush 0x8000) (.qpush mQ) pushes = true := by decide

def waits (p : Bool) (x : Iss) : Bool :=
  let a := (x.addr mQ x.first).bits.toNat
  (match x.s.nameOf x.w a with
    | .local c va => a % 128 == 0 && !(x.addr mQ x.first).poison && (match x.s.laneAt x.w c va a .read with
      | .ok _ _ => true
      | _ => false)
    | _ => false) && (Val.join (x.reg mQ.c 0 x.first) (x.reg mQ.c 1 x.first)).poison == p
theorem witness_qwait : hyp (stR [(6, 0x10400), (12, 1)]) (.qwait mQ) (waits false) = true := by decide
theorem witness_qwait_poison : hyp (stW (withRegs [(6, clean fun _ => 0x10400), (12, fun _ => ⟨0#32, true⟩)])) (.qwait mQ)
    (waits true) = true := by decide

def headerIs (s : State) (p : Nat → Nat → Bool) : Bool := match s.readHeader 1 true 0 with
  | .ok tail head _ => p tail head
  | .no _ => false
theorem witness_header_writes : (headerIs (stQ .empty none 9 []) fun tail head => 2 ^ 3 < tail - head) = true ∧
    (headerIs (stQ .empty none 8 []) fun tail head => tail - head ≤ 2 ^ 3 && head < tail) = true ∧
    (headerIs (stQ .waiting none 0 []) fun tail head => tail ≤ head) = true ∧ ((stQ .empty none 9 []).ctx 1).eqs.length = 1 := by
  decide

/-- An entry whose trigger address holds less than its threshold. -/
def triggered : Entry := { copying 64 false [] with
  image := leBytes 8 0x11 ++ (copyImage 64).drop 8 |>.take 0x30 |> (· ++ leBytes 8 0x11000 ++ leBytes 8 9 ++ List.replicate 64 0#8) }
theorem witness_entry_take : ((stQ .running none 1 (copyImage 64)).queue 1 true 0).st = .running ∧
    (headerIs (stQ .running none 1 []) fun tail head => head < tail && tail - head ≤ 2 ^ 3) = true ∧
    (headerIs (stQ .running none 0 []) fun tail head => tail ≤ head) = true ∧
    (match (stQ .running none 1 (copyImage 64)).reach 0 1 0x10800 128 .both with
    | .ok l u => entryBad ((u.homeRead l 128).1.map (·.byte)) 1 == false
    | _ => false) = true ∧ entryBad (List.replicate 128 0#8) 1 = true := by decide
theorem witness_entry_starts :
    let r := (stQ .running (some (copying 64 false [])) 1 (copyImage 64)).entryHolds 1 0 (copying 64 false [])
    (r.2.queue 1 true 0).st = .running ∧ r.1 = true ∧ pfield (copying 64 false []).image 0 4 % 16 = 1 := by decide
theorem witness_entry_waits : let r := (stQ .running (some triggered) 1 triggered.image).entryHolds 1 0 triggered
    (r.2.queue 1 true 0).st = .running ∧ r.1 = false := by decide

theorem witness_engines : let s := stQ .running (some (copying 70000 true [])) 1 (copyImage 70000)
    let b := s.modQueue 1 true 0 fun x => { x with engine := some 7, entry := some (copying 70000 true [(0, 7)]) }
    s.engineFree 0 = true ∧ b.engineFree 7 = false ∧
    (s.performing 0).map (fun e => (e.1, e.2.1, e.2.2.1.engine, e.2.2.2.unclaimed)) = [(1, 0, none, [0, 1])] ∧
    (b.performing 0).map (fun e => (e.1, e.2.1, e.2.2.1.engine, e.2.2.2.unclaimed)) = [(1, 0, some 7, [1])] := by decide

/-- An engine with the second of its two chunks, of which the first is done by another. -/
theorem witness_chunk : let e := copying 70000 true [(1, 5)]
    let s : State := { (stQ .running (some e) 1 (copyImage 70000)) with
      engines := updAt 5 (fun _ => ⟨some (1, 0, 1), []⟩) (List.replicate 128 .idle) }
    let short : List (Nat × Nat × Nat) := [(0x11000, 0x12000, 64)]
    (s.engines.getD 5 .idle).work = some (1, 0, 1) ∧ e.claims.contains (1, 5) = true ∧ pfield e.image 0 4 % 16 ≠ 3 ∧
    e.runs 1 = [(0x11000 + 65536, 0x12000 + 65536, 4464)] ∧
    (match s.reachRuns 0 1 false short with
    | .ok (places, _) => places.length == 1
    | .error _ => false) = true ∧ (s.queue 1 true 0).stopping = false ∧ (s.ctx 1).st = .resident ∧ e.unclaimed = [0] := by decide

/-! The link. -/

/-- Addresses at the device's own rank in v6:v7 and v16:v17, local sources in v12:v13 of 64 bytes, a value in v18, an
offset in v20:v21 and a rank in v22. -/
def stFar : State := stR [(6, 0x100), (7, 0x40000000), (12, 0x10100), (13, 0), (14, 64), (16, 0x200), (17, 0x40000000), (18,
    5), (19, 0),
  (20, 0x100), (21, 0), (22, 0)]
def mL : Mem := mem .w64 0 6 8 12 0 .b32 .relaxed .job

def srcs (x : Iss) (s : State) (n : Nat) : Bool :=
  match x.sources s (fun l => (Val.join (x.reg mL.c 0 l) (x.reg mL.c 1 l)).bits.toNat) (fun _ => n) with
  | .ok _ _ => true
  | _ => false
/-- The lanes' places as PUTF and PUTM check them, the operands apart. -/
def putPlaces (x : Iss) (align n : Nat) (need : Need) : Located := x.locate x.lanes (x.addr mL) align need (fun _ _ => none)
  (later := x.sourceCheck (fun l => (Val.join (x.reg mL.c 0 l) (x.reg mL.c 1 l)).bits.toNat) (fun _ => n))
theorem witness_putf : hyp stFar (.putf mL) (fun x => x.w.seq < 2 ^ 24 && !x.full x.lanes.length &&
    x.lanes.all (fun l => bitsOf (Val.join (x.reg mL.c 4 l) (x.reg mL.c 5 l)).bits.toNat 61 45 == 0 &&
      (Val.join (x.reg mL.c 4 l) (x.reg mL.c 5 l)).bits.toNat / 2 ^ 62 == 1 && (x.reg mL.c 2 l).bits.toNat ≤ 65536 &&
      (stFar.sourceFail x.w (Val.join (x.reg mL.c 0 l) (x.reg mL.c 1 l)).bits.toNat 64).isNone) &&
    (match putPlaces x 1 64 .read with
      | .ok s' ps => ps.all (fun p => match p.2 with
          | .far r _ _ => r == 0
          | _ => false) && srcs x s' 64
      | _ => false)) = true := by decide

theorem witness_putm : hyp (stR [(6, 0x10100), (12, 0x10140), (14, 64)]) (.putm mL) (fun x => x.w.seq < 2 ^ 24 &&
    !x.full x.lanes.length &&
    (match putPlaces x 64 64 .both with
      | .ok s' _ => srcs x s' 64
      | _ => false)) = true ∧
    hyp (stR [(6, 0x10100), (12, 1)]) (.putmRel mL) (fun x => !x.full x.lanes.length && !(x.reg mL.c 0 x.first).poison &&
      (match x.locate x.lanes (x.addr mL) 128 .both (fun _ _ => none) with
      | .ok _ ((_, .mem _) :: _) => true
      | _ => false)) = true ∧
    hyp (stW (withRegs [(6, clean fun _ => 0x10100), (12, fun _ => ⟨0#32, true⟩)])) (.putmRel mL) (fun x =>
      (x.reg mL.c 0 x.first).poison && (match x.locate x.lanes (x.addr mL) 128 .both (fun _ _ => none) with
      | .ok _ ((_, .mem _) :: _) => true
      | _ => false)) = true := by decide

def mC : Mem := mem .w64 4 20 22 12 0 .b32 .relaxed .job
/-- The lanes' places as COLL checks them. -/
def collPlaces (x : Iss) : Located :=
  let o (l : Nat) : Nat := (Val.join (x.reg mC.a 0 l) (x.reg mC.a 1 l)).bits.toNat
  let rank (l : Nat) : Nat := (x.reg mC.b 0 l).bits.toNat
  x.locate x.lanes (fun l => ⟨BitVec.ofNat 64 (2 ^ 62 + rank l % 2 ^ 17 * 2 ^ 45 + o l % 2 ^ 45), false⟩) 4 .both
    (fun l _ => if 2 ^ 17 ≤ rank l ∨ 2 ^ 45 ≤ o l then some ⟨.address, BitVec.ofNat 64 (o l), some 2⟩ else none)
    (fun l _ => anyPoison (x.dataOf mC.c 4 l))
theorem witness_coll : hyp stFar (.coll mC) (fun x => x.w.seq < 2 ^ 24 &&
    (match x.locate x.lanes (fun l => ⟨BitVec.ofNat 64 (2 ^ 62 + (x.reg mC.b 0 l).bits.toNat % 2 ^ 17 * 2 ^ 45 +
          (Val.join (x.reg mC.a 0 l) (x.reg mC.a 1 l)).bits.toNat % 2 ^ 45), false⟩) 4 .both (fun _ _ => none) with
      | .ok _ ps => !x.full (collPackets ps 4) && ps.length == 32
      | _ => false)) = true := by decide

/-- A region of context 1 over the program's page that any rank may read, write and add to, and a write there. -/
def stRegion : State := { st with link := { st.link with slots := [(0x10000,
    leBytes 8 0x10000 ++ leBytes 8 0x10000 ++ leBytes 1 1 ++
  leBytes 1 15 ++ List.replicate 14 0#8)] } }
def reqTo (k : ReqKind) (serial : Nat) : RemoteReq :=
  ⟨k, ⟨3, 0, BitVec.ofNat 64 serial, 0⟩, 0, 0, 0, 1, 0, 0x100, 0, 4, .relaxed, .job, leBytes 4 9, 0, 0, 0, 0, 0#64⟩
/-- The owner keeps the result of an atomic of rank 3. -/
def stServed : State := stRegion.modLink fun l => { l with
  newest := [(3, 0)], cache := [⟨(reqTo .atomic 7).key, .atomic, leBytes 4 5, false, [], 1, true, none, 4, 0, (0, 0)⟩] }

/-- The request arrives: the owner notes the rank's incarnation. -/
def stArrived : State := stRegion.modLink fun l => { l with newest := insertKey 3 0 l.newest }
def acks (r : Served) : Bool := match r with
  | .reply (.ack _ false) _ => true
  | _ => false

/-- What `State.serve` comes to for a request that is neither stale nor of an older incarnation. -/
def served (t : State) (die : Nat) (r : RemoteReq) : Served :=
  let kept := match r.kind with
    | .load | .slotRelease | .retirement => false
    | _ => true
  let go (s : State) : Served :=
    match (if kept then s.cached r.key else none) with
    | some e =>
      if e.isDone then (if r.kind = .putfData then .silent s else .reply (.duplicate e.value e.poison) s)
      else s.performRemote die r
    | none =>
      if kept && s.tableFull die (r.kind == .write || r.kind == .putfData || r.kind == .putfFlag) then .reply .busy s
      else s.performRemote die r
  match t.gate die r with
  | some (.no (.reply a s)) => .reply a s
  | some (.no (.wait s)) => .wait s
  | some (.no (.park _ _ s)) => go s
  | some (.ok _ _ _ s) => go s
  | _ => go t

theorem serve_of_new {s t : State} {r : RemoteReq} (h1 : r.target = s.ownRank) (h2 : r.tIncarn = s.incarn)
    (h3 : lookupKey r.key.rank s.link.newest = none)
    (h4 : t = s.modLink fun l => { l with newest := insertKey r.key.rank r.key.incarn l.newest }) :
    s.serve r = served t (t.inboundDie r) r := by
  subst h4
  unfold State.serve served
  simp only [h1, h2, h3, ne_eq, not_true_eq_false, decide_false, Bool.or_self, Bool.false_eq_true, if_false,
    Option.any_none] <;> rfl

theorem die_of_line (s : State) (b : Bool) (a : Nat) :
    s.sliceOf ⟨if b = true then .host else .dev, a⟩ / 32 = 0 ∨ s.sliceOf ⟨if b = true then .host else .dev, a⟩ / 32 = 1 := by
  cases b <;> simp [State.sliceOf, Config.homeSlice, Config.hostSlice, Config.sliceOfLine] <;> omega

/-- The write is served by the Col of whichever die its home lies on. -/
theorem witness_owner_serves : acks (stRegion.serve (reqTo .write 7)) = true := by
  have h : ∀ d, d = 0 ∨ d = 1 → acks (served stArrived d (reqTo .write 7)) = true := by
    rintro d (rfl | rfl) <;> decide
  rw [serve_of_new (t := stArrived) (by decide) (by decide) (by decide) rfl]
  apply h
  unfold State.inboundDie State.regionDie State.homeDie
  simp only [reqTo]
  generalize walkFrom _ _ _ _ = w
  cases w with
  | leaf a e lv => exact die_of_line _ _ _
  | _ => exact .inl rfl

theorem witness_owner : (reqTo .write 7).target = stRegion.ownRank ∧ (reqTo .write 7).tIncarn = stRegion.incarn ∧
    stRegion.heldUp (reqTo .write 7) = false ∧ (reqTo .write 7).mask = 0#64 ∧
    lookupKey 3 stServed.link.newest = some 0 ∧ (stServed.cached (reqTo .atomic 7).key).any (·.isDone) = true ∧
    stRegion.dev.st = .ready ∧ (reqTo .write 7).key.rank ≠ stRegion.ownRank ∧
    stRegion.link.parked.any (·.1 == reqTo .write 7) = false ∧
    lookupKey 3 { stServed.link with newest := [(3, 2)] }.newest = some 2 := by decide

theorem witness_slot_release : let desc : DWord := BitVec.ofNat 64 (2 ^ 62 + 0x100)
    desc.toNat / 2 ^ 62 = 1 ∧ bitsOf desc.toNat 61 45 = stRegion.ownRank ∧
    ([0, 1].all fun die => match stRegion.target die 0 (bitsOf desc.toNat 44 40) (desc.toNat % 2 ^ 40) 64 3 .both with
      | .ok _ _ (_ :: _) _ => true
      | _ => false) = true := by decide

/-- Where no injector is on, whatever comes in or goes out passes. -/
theorem crosses_of_off {s : State} (h : ∀ j ∈ s.link.injectors, j.mode = 0) (port : Nat) (sent : Bool) (kind rank : Nat)
    (f : Flit) : (s.crosses port sent kind rank f).1 = true := by
  unfold State.crosses
  generalize natsFrom (4 * port) 4 = ls
  obtain ⟨r, h1, h2, h3⟩ : ∃ r : Bool × State, r.1 = true ∧ (∀ j ∈ r.2.link.injectors, j.mode = 0) ∧ (true, s) = r :=
    ⟨_, rfl, h, rfl⟩
  rw [h3]
  clear h3
  induction ls generalizing r with
  | nil => exact h1
  | cons n ls ih =>
    rw [List.foldl_cons]
    apply ih
    all_goals
      cases e : r.2.link.injectors[n]? with
      | none => assumption
      | some j =>
        have := h2 j (List.mem_of_getElem? e)
        simpa [Injector.counts, this]

/-- With a port Up a packet of another rank comes in, with none it does not. -/
def stPort : State := stRegion.modLink fun l => { l with ports := updAt 0 (fun _ => (.up, 4)) l.ports }
theorem witness_comes_in : (stPort.comesIn 0 3).1 = true ∧ (stRegion.comesIn 0 3).1 = false ∧
    (stPort.link.parked.any (·.1 == reqTo .write 7)) = false ∧ stPort.passed (reqTo .write 7) = false := by
  refine ⟨?_, by decide, by decide, by decide⟩
  have h : (List.range 24).filter stPort.portUsable = [0] := by decide
  unfold State.comesIn
  rw [h]
  exact crosses_of_off (by decide) _ _ _ _ _

/-- A final launch whose retirement waits for rank 3. -/
def stFinal : State := { st with sched := { st.sched with launches := st.sched.launches.map fun l => { l with
  st := .complete, gangs := [⟨.done, 0, 0, [3], false⟩] } } }
theorem witness_retirement : (stFinal.launch? 1 0).any (fun l => l.final && l.gangs.any fun g => !g.acks.isEmpty) = true ∧
    (st.launch? 1 0).any (fun l => l.gangs.all (·.acks.isEmpty)) = true ∧ (st.launch? 1 9).isNone = true ∧
    (st.launch? 1 0).any (fun l => !l.final && l.gangs.any fun g => g.st != .done) = true := by decide

/-- A write of the wave at rank 3 that waits for its reply, last sent at a clock. -/
def outAt (tries sentAt : Nat) (busy : Option Nat) : Outstanding :=
  ⟨{ reqTo .write 7 with key := ⟨0, 0, 7#64, 0⟩, target := 3 }, 1, 1, tries, sentAt, false, busy, 0, 0, none, none, [], 1, 0, 0,
    ⟨false, 0, 0, [(0, 0)]⟩, [(0, 0, 0)]⟩
def stOut (o : Outstanding) (clk : Nat) : State :=
  { st with link := { st.link with out := [o] }, dev := { st.dev with clk, porten := 3 } }
theorem witness_requester : let s := stOut (outAt 1 0 none) 32000
    (s.link.out.find? (·.req.key == ⟨0, 0, 7#64, 0⟩)).any (fun o => o.req.target != s.ownRank && !o.parked && o.busyAt.isNone &&
      decide (o.sentAt + 32000 ≤ s.clk ∧ o.tries < 64)) = true ∧ (s.mayLandAt 1 1).1 = true ∧
    s.clk < (outAt 1 1 none).sentAt + 32000 ∧ 0 + 2000 * 16 * min 16 (2 ^ 63) ≤ (stOut (outAt 64 0 none) 512000).clk ∧
    (outAt 1 0 (some 0)).busyAt.any (fun c => decide (c + 2000 ≤ s.clk)) = true ∧
    (s.link.ports[0]?).isSome = true ∧ s.dev.porten.testBit 0 = true ∧ s.dev.st = .ready ∧
    (s.link.injectors[5]?).isSome = true ∧
    ({ s.link with injectors := s.link.injectors.set 5 { Injector.off with mode := 3 } }.injectors[5]?).any (·.mode != 0) = true := by
  decide

/-! Barriers and carry cells. -/

theorem witness_bsync : hyp st (.bsync (gen .w32 0 0 0 0 0)) (fun x => (st.block? x.w.block).any fun b => b.phase ≤ x.w.bphase) = true ∧
    hyp { st with blocks := st.blocks.map fun b => { b with phase := 1 } } (.bsync (gen .w32 0 0 0 0 0)) (fun x => x.w.bphase < 1) =
      true := by decide

def mB : Mem := mem .w64 4 6 8 12 0 .b32 .relaxed .device
def cell (align : Nat) (need : Need) (p : Iss → State → Loc → Bool) (x : Iss) : Bool := match x.cellAt mB align need barClass with
  | .ok s' [(_, .mem l)] => p x s' l
  | _ => false
def cOf (x : Iss) : Val := x.reg mB.c 0 x.first
def stCellPoison : State := stW (withRegs [(6, clean fun _ => 0x10100), (12, fun _ => ⟨0#32, true⟩)])
theorem witness_barrier_cells : hyp (stAt []) (.barInit { mB with d := 0 }) (cell 32 .both fun x _ _ => !(cOf x).poison) = true ∧
    hyp stCellPoison (.barInit { mB with d := 0 }) (cell 32 .both fun x _ _ => (cOf x).poison) = true ∧
    hyp (stAt []) (.barArrive { mB with c := 0 }) (cell 32 .both fun _ _ _ => true) = true := by decide
theorem witness_barrier_expect : hyp (stAt []) (.barExpect { mB with d := 0 }) (cell 32 .both fun x s' l => !(cOf x).poison &&
      (x.cellNeeds s' l).isNone && !anyPoison (s'.homeRead l 32).1 &&
      decide ((s'.homeRead l 32).2.natAt (l.plus 12) 4 + (cOf x).bits.toNat < 2 ^ 32)) = true ∧
    hyp { stR [(6, 0x10100), (12, 1)] with mem := st.mem.setNat 0x1010C 4 0xFFFFFFFF } (.barExpect { mB with d := 0 })
      (cell 32 .both fun x s' l => (x.cellNeeds s' l).isNone &&
        decide (2 ^ 32 ≤ (s'.homeRead l 32).2.natAt (l.plus 12) 4 + (cOf x).bits.toNat)) = true := by decide
theorem witness_barrier_tests : hyp (stAt []) (.barWait { mB with d := 0 }) (cell 32 .read fun x _ _ => !(cOf x).poison) = true ∧
    hyp (stAt []) (.barTest mB) (cell 32 .read fun x s' l => !(cOf x).poison && (x.cellNeeds s' l).isNone &&
      !anyPoison (s'.homeRead l 32).1) = true := by decide

theorem witness_barrier_requests : (let s := stMsg (.barReq .arrive (home 0x10100) 0 none)
      ready s (home 0x10100) 32 (some 0) true = true ∧ anyPoison (s.homeRead (home 0x10100) 32).1 = false) ∧
    ready (stMsg (.barReq (.init 3) (home 0x10100) 0 none)) (home 0x10100) 32 (some 0) true = true ∧
    ((stLd.wave? 1).bind (·.op? ldUid)).isSome = true := by decide

/-- A barrier cell with EXPECTED 3, ARRIVED 7 and no byte pending, known to the home or not. -/
def stCell (pend : Nat) : State := { st with
  mem := ((st.mem.setNat 0x10104 4 3).setNat 0x10108 4 7).setNat 0x1010C 4 pend
  homes := { st.homes with cells := [home 0x10100] } }
theorem witness_cell_phases : (let s := stCell 0
      s.natAt (home 0x1010C) 4 = 0 ∧ 0 < s.natAt (home 0x10104) 4 ∧ s.natAt (home 0x10104) 4 ≤ s.natAt (home 0x10108) 4) ∧
    (stCell 5).natAt (home 0x1010C) 4 ≠ 0 ∧ (stCell 5).homes.cells.contains (home 0x10100) = true ∧
    5 ≤ (stCell 5).natAt (home 0x1010C) 4 ∧ (stCell 5).natAt (home 0x1010C) 4 < 6 ∧ (home 0x10100).sp ≠ .scratch 0 := by decide

def mPost : Mem := mem .w64 0 6 0 12 0 .b32 .relaxed .device
def post (p : Iss → Bool) (x : Iss) : Bool := match x.cellAt mPost 64 .both (x.carryNamed mPost) with
  | .ok _ [(_, .mem _)] => p x
  | _ => false
def mPeek : Mem := mem .w64 4 6 0 0 0 .b32 .relaxed .device
def peeks (m : Mem) (look : Bool) (x : Iss) : Bool := match x.cellAt m 64 .read (x.carryNamed m) with
  | .ok _ [(_, .mem _)] => ((x.w.addDests x (x.opOf (.cpeek false 0 0)) m.d 1).2.left == 0) != look
  | _ => false
theorem witness_carry_instructions : hyp (stAt []) (.cpost mPost) (post fun x => !anyPoison (x.dataOf mPost.c 4 x.first) &&
    x.w.seq < 2 ^ 24) = true ∧
    hyp stCellPoison (.cpost mPost) (post fun x => anyPoison (x.dataOf mPost.c 4 x.first)) = true := by decide
theorem witness_carry_peeks : hyp (stAt []) (.cpeek mPeek) (peeks mPeek false) = true ∧
    hyp (stAt []) (.cpeekOut { mPeek with look := 3 }) (peeks { mPeek with look := 3 } true) = true := by decide

/-- Carry cells as they stand at the home: Empty, Carried, Posted and Done. -/
def stCarry (state : Nat) (k : MsgKind) : State := { stMsg k with mem := st.mem.setNat 0x10100 1 state }
def carryAt : CarryAt := ⟨home 0x10100, 1, 0x10100⟩
theorem witness_carry_home : ready (stMsg (.post carryAt 0 1#64 0#64)) (home 0x10100) 64 none true = true ∧
    ready (stMsg (.forward carryAt 0x10200 1#64 false 0#64)) (home 0x10200) 64 none true = true ∧
    ((List.range 2).all fun die => match (stMsg (.forward carryAt 0x10200 1#64 false 0#64)).translate none die 1 0x10200 .both with
      | .ok l t => l == home 0x10200 && t.ownsLine l && (t.homeNeeds l 64 none true).isNone
      | _ => false) = true ∧
    (List.range 4).all (fun k => (stCarry k .ack).carryState carryAt == k && decide ((stCarry k .ack).carryOp carryAt < 12) &&
      !anyPoison ((stCarry k .ack).homeRead (home 0x10100) 64).1) = true := by decide
/-! Groups and interrupts. -/

/-- A group area at 0x14000 in a state of its own, of context 1's launch 0, with the wave's member number. -/
def stGroup (state member : Nat) (slots : Option Nat) : State :=
  let s := stR [(6, 0x14000), (8, 3)]
  { s.modWave 1 fun w => { w with groups := slots :: w.groups.drop 1 } with
    mem := (((s.mem.setNat 0x14000 4 state).setNat 0x14004 4 member).setNat 0x14008 4 1).setNat 0x14280 4 0 }
def area (g : Gen) (p : Iss → State → GroupHold → Nat → Bool) (x : Iss) : Bool := match x.areaAt (x.a64 g x.first) with
  | .ok t h va => p x t h va
  | .fail _ => false
def gG : Gen := gen .w64 4 6 8 0 0
theorem witness_gjoin :
    hyp (stGroup 0 0 (some 0x14000)) (.gjoin gG) (area gG fun x _ _ va => x.w.groupSlots.contains (some va)) = true ∧
    hyp (stGroup 0 0 none) (.gjoin gG) (area gG fun x t h va => !(x.w.groupSlots.contains (some va)) &&
        x.w.groupSlots.contains none &&
      (x.areaReady t h).isNone && t.groupState h == 0 && decide (t.areaNat h 4 4 + t.joinsReserved h.loc < 4096)) = true ∧
    hyp ((stGroup 0 0 (some 1)).modWave 1 fun w => { w with groups := List.replicate 4 (some 1) }) (.gjoin gG)
      (area gG fun x _ _ va => !(x.w.groupSlots.contains (some va)) && !(x.w.groupSlots.contains none)) = true := by decide
theorem witness_gjoin_traps :
    hyp (stGroup 3 0 none) (.gjoin gG) (area gG fun x t h _ => (x.areaReady t h).isNone && t.groupState h == 3) = true ∧
    hyp (stGroup 0 4096 none) (.gjoin gG) (area gG fun x t h _ => (x.areaReady t h).isNone && t.groupState h == 0 &&
      decide (4096 ≤ t.areaNat h 4 4 + t.joinsReserved h.loc)) = true := by decide
theorem witness_gleave : hyp (stGroup 1 1 (some 0x14000)) (.gleave gG) (area gG fun x t h va => x.w.groupSlots.contains (some va) &&
      (x.areaReady t h).isNone && t.groupState h != 2) = true ∧
    hyp (stGroup 2 1 (some 0x14000)) (.gleave gG) (area gG fun x t h _ => (x.areaReady t h).isNone && t.groupState h == 2 &&
      (t.memberIndex h x.w).isSome && h.folded.isEmpty && h.contrib.isEmpty && !(t.gredUnderway x.w h.loc)) = true ∧
    hyp (stGroup 1 1 none) (.gleave gG) (area gG fun x _ _ va => !(x.w.groupSlots.contains (some va))) = true := by decide
theorem witness_gred : hyp (stGroup 1 1 (some 0x14000)) (.gred gG) (area gG fun x _ _ va => x.w.groupSlots.contains (some va) &&
      x.lanesWhere (fun l => (x.bW gG false .zero l).poison) == 0#64) = true ∧
    hyp ((stGroup 1 1 (some 0x14000)).modWave 1 (withRegs [(6, clean fun _ => 0x14000), (8, fun _ => ⟨0#32, true⟩)])) (.gred gG)
      (area gG fun x _ _ va => x.w.groupSlots.contains (some va) &&
          x.lanesWhere (fun l => (x.bW gG false .zero l).poison) != 0#64) =
      true := by decide

/-- The group at its home, its one member's wave asking. -/
def groupAt : GroupHold := ⟨home 0x14000, 17024, home 0x14000, [], [], [], [], false⟩
def stHomeGroup (state : Nat) (r : GroupReq) : State :=
  let s := withMsg (stGroup state 1 (some 0x14000)) 1 (.groupReq r (home 0x14000) 0 none none)
  { s with homes := { s.homes with groups := [groupAt] } }
def contribution : GroupReq := .gred 0 (List.replicate 32 (some 1#64))
theorem witness_group_home : let t := (stHomeGroup 1 contribution).pollGroups
    (t.group? (home 0x14000)).isSome = true ∧ (t.wave? 1).isSome = true ∧ (t.areaNeeds groupAt (some 0)).isNone = true ∧
    (t.groupState groupAt == 1) = true ∧ (stHomeGroup 1 .leave).groupState groupAt = 1 ∧
    ((stHomeGroup 1 .leave).wave? 1).any (fun w => ((stHomeGroup 1 .leave).memberIndex groupAt w) == some 0) = true ∧
    (stHomeGroup 2 .join).groupState groupAt = 2 ∧ (stHomeGroup 0 .join).groupState groupAt = 0 := by decide
theorem witness_group_contributes : ((stHomeGroup 1 contribution).wave? 1).any (fun w =>
    ((stHomeGroup 1 contribution).groupContribute groupAt w 1 0 (List.replicate 32 (some 1#64))).isSome) = true := by decide
theorem witness_group_result : let s := { stLd with msgs := [⟨1, 1, ldUid, 1, 1, .groupResult (home 0x14000) [] 0#64 0⟩] }
    (s.msg? 1).isSome = true ∧ ((s.wave? 1).bind (·.op? ldUid)).isSome = true ∧
    (s.homeNeeds (home 0x14000) 128 (some 0) true).isNone = true := by decide

/-- The user-interrupt page of context 1 at 0x12000, its vector 5 enabled with a count, any wave and the host its senders. -/
def stVec (count : Nat) : State :=
  { (stR [(6, 77), (8, 5)]).modCtx 1 fun c => { c with uipage := 0x12000 } with
    mem := ((((st.mem.setNat 0x12050 2 count).setNat 0x12052 1 1).setNat 0x12450 8 2).setNat 0x1245B 1 1).setNat 0x12A00 8 0x10000 }
def gV : Gen := gen .w64 4 6 8 0 0
theorem witness_uint : hyp (stVec 0) (.uint gV) (fun x => x.lanes.all (fun l => !(x.a64 gV l).poison &&
      !((x.b32 gV l).bits.toNat.testBit 29)) && x.w.seq < 2 ^ 24) = true ∧
    hyp (stR [(8, 0x20000005)]) (.uint gV) (fun x => x.lanes.all (fun l => (x.b32 gV l).bits.toNat.testBit 29 &&
      st.rankOk (bitsOf (x.b32 gV l).bits.toNat 28 12))) = true ∧
    hyp (stR [(8, 0x2003F005)]) (.uint gV) (fun x => x.lanes.any fun l => (x.b32 gV l).bits.toNat.testBit 29 &&
      !(st.rankOk (bitsOf (x.b32 gV l).bits.toNat 28 12))) = true ∧
    hyp stP (.uint gV) (fun x => x.lanes.any fun l => (x.a64 gV l).poison) = true := by decide
def page (need : Need) (x : Iss) : Bool :=
  (match (stVec 0).laneAt x.w 1 0x12050 0x12050 need with
    | .ok l s' => l == home 0x12050 && !(s'.homeOpPending x.w x.no l 16) && !(x.w.holdsStore x.no l 16) &&
        !((s'.surrenderLine x.w.core l.frameLine (0, 0)).writebackPending x.w.core fun k _ => k == l.frameLine) && ((s'.surrenderLine x.w.core l.frameLine (0, 0)).homeNeeds l 16 (some x.w.core) true).isNone
    | _ => false)
theorem witness_uictl : [Instr.uictlMask gV, .uictlUnmask gV, .uictlAck gV, .uictlQuery gV].all (fun i =>
    hyp (stVec 0) i (page .both)) = true := by decide

/-- The page as the TLB of a die reaches it; the die of its home is one of the two. -/
def reachesAt (s : State) (p : Loc → State → Bool) (die : Nat) : Bool := match s.reach die 1 (s.ctx 1).uipage 0x1800 .both with
  | .ok l t => p l t
  | _ => false
def reaches (s : State) (p : Loc → State → Bool) : Bool := match s.reachPage 1 with
  | .ok l t => p l t
  | _ => false
theorem home_die (s : State) (c va : Nat) : s.homeDie c va = 0 ∨ s.homeDie c va = 1 := by
  unfold State.homeDie
  split
  · exact die_of_line _ _ _
  · exact .inl rfl
theorem page_of_dies {s : State} {q : DevAcc → Bool} (h : [0, 1].all (fun d => q (s.reach d 1 (s.ctx 1).uipage 0x1800 .both)) = true) :
    q (s.reachPage 1) = true := by
  simp only [List.all_cons, List.all_nil, Bool.and_true, Bool.and_eq_true] at h
  unfold State.reachPage
  obtain e | e := home_die s 1 (s.ctx 1).uipage <;> rw [e]
  exacts [h.1, h.2]
theorem reaches_of_dies {s : State} {p : Loc → State → Bool} (h : [0, 1].all (reachesAt s p) = true) : reaches s p = true :=
  page_of_dies (q := fun r => match r with
    | .ok l t => p l t
    | _ => false) h
def faults (r : DevAcc) : Bool := match r with
  | .fault _ _ => true
  | _ => false
theorem witness_vector_sends : (stVec 0).dev.hbmErrors = [] ∧ ((stVec 0).ctx 1).st.alive = true ∧
    (reaches (stVec 3) fun l t => t.senderAllowed l 5 (.wave 1) && t.senderAllowed l 5 .host && (t.vectorAt (l.plus 80)).enabled &&
      (t.vectorAt (l.plus 80)).count == 3) = true ∧
    (reaches (stVec 0) fun l t => !(t.senderAllowed l 5 (.wave 2)) && !(t.vectorAt (l.plus 96)).enabled) = true :=
  ⟨by decide, by decide, reaches_of_dies (by decide), reaches_of_dies (by decide)⟩
def sent (s : State) (ctx vec : Nat) (who : Sender) : Bool := match s.sendVector ctx vec 9#64 who with
  | .done _ => true
  | _ => false
def refused (s : State) (ctx vec : Nat) (who : Sender) : Bool := match s.sendVector ctx vec 9#64 who with
  | .refused _ _ => true
  | _ => false
theorem sent_of_reaches {s : State} {vec : Nat} {who : Sender} (h1 : (s.ctx 1).st.alive = true)
    (h2 : reaches s (fun l t => (t.meetErrors l 0x1800).senderAllowed l vec who) = true) : sent s 1 vec who = true := by
  revert h2
  unfold reaches sent State.sendVector
  cases e : s.reachPage 1 with
  | ok l t =>
    intro h
    have h : (t.meetErrors l 0x1800).senderAllowed l vec who = true := h
    by_cases he : ((t.meetErrors l 0x1800).vectorAt (l.plus (16 * vec))).enabled = true <;> simp [h1, h, he]
  | _ => simp
theorem refused_of_reaches {s : State} {vec : Nat} {who : Sender} (h1 : (s.ctx 1).st.alive = true)
    (h2 : reaches s (fun l t => !((t.meetErrors l 0x1800).senderAllowed l vec who)) = true) : refused s 1 vec who = true := by
  revert h2
  unfold reaches refused State.sendVector
  cases e : s.reachPage 1 <;> simp [h1]
  intro h
  simp [h]
theorem witness_interrupt_sends : let s := withMsg (stVec 0) 0 (.interrupt 1 5 9#64 1 0 0#64)
    (s.msg? 1).isSome = true ∧ sent s 1 5 (.wave 1) = true ∧ refused s 1 6 (.wave 1) = true ∧ sent s 1 5 .host = true ∧
    s.dev.on = true ∧ s.dev.st = .ready :=
  ⟨by decide, sent_of_reaches (by decide) (reaches_of_dies (by decide)), refused_of_reaches (by decide) (reaches_of_dies (by decide)),
    sent_of_reaches (by decide) (reaches_of_dies (by decide)), by decide, by decide⟩
theorem witness_interrupt_delivery : ((stVec 3).handlerWave 1).any (fun w => w.deliverable && w.divertible) = true ∧
    (reaches (stVec 3) fun l t => t.oldestVector 1 l == some 5) = true := ⟨by decide, reaches_of_dies (by decide)⟩

/-- The handler after a delivery. -/
def stHandler : State := match (stVec 3).handlerWave 1 with
  | some w => { (stVec 3).divert w 5 0x10000#64 with cur := some ⟨1, 0, 0x10000#64, 4⟩ }
  | none => st
theorem witness_uiret : hyp stHandler (.uiret (gen .w32 0 0 0 0 0)) (fun x => (x.w.window? x.sp.win).any fun v =>
      v.kind == .handler && v.saved.isSome && x.sp.mask == x.w.live) = true ∧
    hyp (stHandler.modWave 1 fun w => { w with splits := w.splits.map fun p => { p with mask := 1#64 } }) (.uiret (gen .w32 0 0 0 0 0))
      (fun x => (x.w.window? x.sp.win).any fun v => v.kind == .handler && v.saved.isSome && x.sp.mask != x.w.live) = true ∧
    hyp st (.uiret (gen .w32 0 0 0 0 0)) (fun x => (x.w.window? x.sp.win).any fun v => v.kind != .handler) = true := by decide

/-! Waves: scheduling, checkpoints, spilling, traps due, save and restoration, their end. -/

def withSplit (f : Split → Split) : State := stW fun w => { w with splits := w.splits.map f }
def at_ (s : State) (clk : Nat) : State := { s with dev := { s.dev with clk } }
/-- The wave with checkpoints taken at 64 and 200, neither a region's. -/
def stCk : State := stW fun w =>
  let k : Checkpoint := ⟨1, 64, 0, false, false, 0, [], w.splits, w.parked, w.live, w.windows, w.sregs, w.preds, w.modes,
    w.seq, [], [], [], [], none, w.sys, false, none, [], 0⟩
  { w with ckpts := [k, { k with id := 2, clk := 200 }], sinceCk := 70 }
theorem witness_wave_events :
    ((at_ (withSplit fun p => { p with ready := some 0 }) 256).wave? 1).any (fun w => (w.split? 0).any fun p =>
      p.ready == some 0 && p.raised.isNone) = true ∧
    ((at_ (withSplit fun p => { p with yield := some 0 }) 64).wave? 1).any (fun w => (w.split? 0).any fun p => p.yield == some 0) = true ∧
    ((at_ stCk 400).wave? 1).any (fun w => decide (64 ≤ w.sinceCk) && w.onCore && w.st == .resident &&
      (w.ckpts.find? (·.id == 1)).any (fun k => !k.entry) && w.ckpts.any fun c => decide (1 < c.id ∧
          c.clk + 128 ≤ 400)) = true := by
  decide

/-- A program of one IADD, whose destination finds no register: another wave of the quadrant holds almost all of its words. A
caller's window has private registers, or the wave is in its only window. -/
def stStuck (callers : Bool) : State :=
  let s := State.reset.withProgram (bytesOfWords (encode (.iadd (gen .w32 4 6 8 0 0))))
  let s := s.modWave 1 fun w => { w with
    regs := (List.range 16).map fun k => ⟨k, [], 0, none, false, false, false⟩, nextReg := 16
    windows := if callers then (w.windows.map fun v => { v with map := (List.range 16).map fun k => (16 + k, k) }) ++
      [⟨1, .call, 16, 0, 0#64, [], false, false, none⟩] else w.windows
    nextWin := 2, splits := w.splits.map fun p => { p with win := if callers then 1 else 0 } }
  { s with waves := s.waves ++ (s.waves.map fun w => { w with id := 2, st := .held, decl := { w.decl with regfloor := 2032 } }) }
def stuck (s : State) : Bool := (s.waves.filter fun w => w.quadNo == 0 && w.onCore && (w.st == .resident ||
    w.st == .solo)).all fun u =>
  u.splits.any (s.allocStalled u) && !(u.splits.any (s.splitReady u))
theorem witness_spill : stuck (stStuck true) = true ∧ ((stStuck true).wave? 1).any (·.spillWindow.isSome) = true := by decide
theorem witness_spill_evicts : stuck (stStuck false) = true ∧
    ((stStuck false).wave? 1).any (fun w => w.spillWindow.isNone && w.evictable) = true := by decide
theorem witness_refill : let s := st.modWave 1 fun w => { w with windows := w.windows.map fun v => { v with spilled := true } }
    (s.wave? 1).any (fun w => (w.window? 0).any (·.spilled) && !(s.poolShort w 0)) = true := by decide

def due (c : Cause) (no : Nat) : Raised := ⟨⟨c, .reported, 4#64, 0, 0⟩, 0x10000#64, 0x10000#64, no, 0⟩
theorem witness_due_traps : (((st.modWave 1 fun w => { w with due := [due .illegal 1] }).wave? 1).any fun w =>
      w.st == .resident && !w.stopping && w.onCore && (w.trapSplit 4#64).isSome) = true ∧
    ((stSolo.modWave 1 fun w => { w with due := [due .illegal 0] }).wave? 1).any (fun w => w.st == .solo && !w.service &&
      w.frozen.any (fun f => decide (0 ≤ f.no)) && w.sys.pend == 0#64) = true ∧
    ((stSolo.modWave 1 fun w => { w with due := [due .illegal 999] }).wave? 1).any (fun w =>
      w.frozen.any (fun f => decide (f.no < 999)) && (w.trapSplit 4#64).isSome) = true ∧
    ((stW fun w => { w with st := .exited, due := [due .illegal 1] }).wave? 1).any (fun w => w.st == .exited) = true := by decide
theorem witness_service_event : let s := { stServ.modWave 1 (fun w => { w with sys := { w.sys with event := 0 } }) with
      dev := { stServ.dev with eventQ := [[(0x180000, 1)], []] } }
    (s.waves.find? (fun v => v.service && v.grid == 0 && v.st == .solo)).any (fun w => w.sys.event == 0#64) = true ∧
    s.dev.eventQ.getD 0 [] = [(0x180000, 1)] := by decide

theorem witness_saves : let s := at_ (stW fun w => { w with stopping := true }) 500
    (s.wave? 1).any (fun w => s.saveReady w && !w.reserve) = true ∧
    ((s.writebackWhere 0 (fun f => f.ctx == 1) (0, 0)).msgs.isEmpty) = true := by decide
theorem witness_restores : let s := stW fun w => { w with st := .saved, onCore := false }
    (s.wave? 1).any (fun w => w.away && s.placeable w.ctx && s.homeCore w 5 && s.waveFits 5 w [] &&
        !(s.goesFirst 5 (s.prio w.ctx))) =
      true := by decide
theorem witness_ends : (let s := stW fun w => { w with st := .exited }
      (s.wave? 1).any (s.waveOver ·)) = true ∧
    (let s := stW fun w => { w with st := .ended }
     (s.wave? 1).any fun w => s.waveOver w && !(w.groups.any (·.isSome))) = true := by decide

theorem witness_strikes : (st.waves.filter fun w => w.struck 0).length = 1 ∧ (st.waves.filter fun w => w.struck 9) = [] ∧
    ((at_ stCk 400).wave? 1).any (fun w => (w.target 400).any fun k => !k.solo) = true := by decide

/-! Distribution and placement of gangs, slices and the waiting budget. -/

/-- A launch of two gangs of one block of one wave, the second not yet placed or waiting on a core's list. -/
def packetB (gang waves : Nat) : List Byte :=
    (List.replicate 256 0#8).set 0x18 (BitVec.ofNat 8 waves) |>.set 0x19 (BitVec.ofNat 8 gang)
  |>.set 0x10 2#8 |>.set 0x14 1#8 |>.set 0x16 1#8 |>.set 0x1C 16#8
def stSched (f : State → State) : State := f { st with sched := { st.sched with
  launches := st.sched.launches.map fun l => { l with packet := packetB 1 1, gangs := l.gangs ++ [⟨.unplaced, 0, 0, [],
      false⟩] } } }
theorem witness_placed_block : ((stSched id).launch? 1 0).any (fun l => l.waves == 1 && l.gang == 1 && l.width == 16 &&
    !l.comm) = true ∧ (stSched id).block? (stSched id).sched.nextBlock = none := by
  decide
theorem witness_distributor : let s := stSched fun s => { s with sched := { s.sched with unplaced := [(1, 0, 1)] } }
    s.nextGang 0 = some (1, 0, 1) ∧ (s.launch? 1 0).isSome = true ∧ (s.eligibleCores 0 false).head? = some 0 ∧
    (s.eligibleCores 0 false).all (fun k => ((s.runFrom k 1 false).getD []).all fun c => (s.core c).pending.isEmpty) = true ∧
    (stSched id).nextGang 0 = none ∧ (stSched id).nextGang 1 = none := by decide

def entryAt (core : Nat) (wait : Option Nat) : PendEntry := ⟨1, 0, 1, core, wait, false⟩
def stPend (core : Nat) (n : Nat) (wait : Option Nat) : State := stSched fun s =>
  s.modCore core fun c => { c with pending := List.replicate n (entryAt core wait) }
/-- The same on core 0, whose quadrant 0 has no words left, or is not told of a run. -/
def stFull : State := (stPend 0 1 none).modWave 1 fun w => { w with decl := { w.decl with regfloor := 2048 } }
/-- A decision that can read the contexts' entries. -/
def decides (s : State) (p : State → Bool) : Bool := match s.tableRead (List.range 64) with
  | (true, t) => p t
  | (false, _) => false
theorem witness_placement : (decides (stPend 5 1 none) fun t => (t.placeNow 0).any (·.1 == 5)) = true ∧
    (decides stFull fun t => !((t.placeNow 0).any (·.1 == 0)) && (t.heads 0).any (fun h => h.1 == 0 && t.placeable h.2.1.ctx &&
      !(t.entryFits 0 h) && h.2.2.2.all fun k => t.coreTakes k h.2.2.1.comm)) = true := by decide
/-- The entry of context 1 lies in a line with a release record: it is drained first. -/
theorem witness_undecided : ((stFull.setRecorded (home 0x100100) 5 0).tableRead (List.range 64)).1 = false := by decide
theorem witness_steal : let s := stPend 4 2 none
    (s.core 5).pending = [] ∧ (s.core 5).lastSteal = none ∧ ((s.core 4).pending.getLast?).isSome = true ∧
    (s.launch? 1 0).any (fun l => (s.runFrom 5 l.gang l.comm).any fun run => run.all fun k =>
      s.coreTakes k l.comm && s.blockFits k 1 l.waves l.width l.decl []) = true ∧ (s.core 6).pending = [] := by decide
theorem witness_head_timeout : (at_ (stPend 5 1 (some 0)) 4096 |>.core 5).pending = [entryAt 5 (some 0)] := by decide

/-- Context 2, Ready, waits with a gang for core 0, of which context 1 has every word; or nobody waits. -/
def stWanted : State :=
  let s := stFull.modCtx 2 fun _ => { st.ctx 1 with st := .ready }
  { s with sched := { s.sched with launches := s.sched.launches ++ (s.sched.launches.map fun l => { l with ctx := 2 }) },
           cores := s.cores.map fun c => { c with pending := c.pending.map fun e => { e with ctx := 2 } } }
theorem witness_slices : let s := at_ stWanted 4000000
    (s.ctx 1).saving = none ∧ (s.ctx 1).st = .resident ∧ (s.ctx 1).placedAt + 2000 * 2000 ≤ s.clk ∧
    (decides s fun t => t.ctx 1 == s.ctx 1 && t.sliceWanted 1) = true ∧
    (decides (at_ st 4000000) fun t => !t.sliceWanted 1) = true := by decide
def barrierWait (m : Lanes) : Wait :=
  { kind := .bsync 0, loc := ⟨.dev, 0⟩, va := 0, acq := none, lanes := m, op := 0x7D, sub := 0, len := 4, uid := 0, marks := [] }
theorem witness_budget :
    let s := (withSplit fun p => { p with wait := some (barrierWait p.mask) }).modCtx 1 fun c => { c with waitclk := 400000001 }
    s.waitRuns 1 = true ∧ 2000000 * 200 < (s.ctx 1).waitclk := by decide
theorem witness_examined : let s := stQ .running none 0 []
    let l := s.modCtx 1 fun c => { c with lqs := c.lqs }
    0 < (l.ctx 1).lqs.length ∧ ((l.ctx 1).lqs.getD 0 .fresh).valid = true ∧ (0 + 1 - (l.ctx 1).lqNext % 1) % 1 = 0 := by decide

/-! Context commands, power and the control space. -/

/-- Context 1 in a state, its entry fit or not. -/
def stCtx (x : CtxState) (fits : Bool) : State :=
  let a := 0x100100
  let m := ((((((st.mem.setNat a 4 0).setNat (a + 0x10) 8 0x1000).setNat (a + 0x20) 8 0x100000).setNat (a + 0x28) 8 0x10600).setNat (a + 0x30)
    4 1).setNat (a + 0x38) 8 0x10400).setNat (a + 0x40) 4 1
  let m := ((m.setNat (a + 0x48) 8 0x12000).setNat (a + 0x50) 8 0x180000).setNat (a + 0x58) 4 (if fits then 128 else 3)
  { st.modCtx 1 fun c => { c with st := x } with mem := m }
theorem witness_context_commands : (stCtx .free true).entryFit 1 = true ∧ (stCtx .free false).entryFit 1 = false ∧
    ((stCtx .free true).homeNeeds ⟨.dev, (stCtx .free true).entryAddr 1⟩ 256 none true).isNone = true ∧
    (st.dev.on = true ∧ st.dev.st = .ready ∧ st.commandBusy = false ∧ (st.ctx 1).saving = none) ∧
    ((stCtx .suspended true).ctx 1).st = .suspended ∧
        (((st.startSaving 1 .suspend).finishSaving 1).ctx 1).saving = some .suspend := by
  decide
theorem witness_quiet_clock : let t := (st.modDev fun d => { d with st := .refused }).tick
    (st.waves.all fun w => w.held.isEmpty && w.splits.all (·.raised.isNone)) = true ∧ (st.quads.all (·.array.isEmpty)) = true ∧
    t.dev.rechecks = [] ∧ t.link.sendWait = [] ∧ t.link.standing = [] ∧
    t.dev.cmds = [] ∧ t.clk % 20000 ≠ 0 ∧ t.waves.all (fun w => decide (w.sinceCk < 64) && w.splits.all fun p =>
      p.ready.all fun c => decide (t.clk < c + 256)) = true ∧ t.cores.all (fun c => c.frames.isEmpty && c.pending.isEmpty) = true ∧
    t.quads.all (fun q => q.permit == .none) = true := by decide

/-- A SUSPEND of the host in progress, and commands that wait. -/
def stWaits (on : Option Nat) (ks : List HostCmd) : State := st.modDev fun d => { d with cmdOn := on, cmds := ks }
theorem witness_waiting_commands : (stWaits (some 1) []).commandBusy = true ∧ (stWaits (some 1) []).dev.cmdOn ≠ none ∧
    (stWaits none [⟨true, 1, 1, 0, 0, 0⟩]).commandBusy = true ∧ (stWaits none [⟨true, 1, 1, 0, 0, 0⟩]).dev.cmdOn = none ∧
    ((stWaits none [⟨true, 1, 1, 0, 0, 0⟩]).hostQueueNeeds 1 0).isNone = true ∧
    ((stWaits none [⟨false, 5, 1, 0, 0, 0⟩]).commandNeeds 5 1).isNone = true := by decide
/-- R447: the commands complete in the order written: a WRESUME of no held wave waits its turn, then gives BADSTATE. -/
theorem test_commands_wait_in_order :
    let s := stWaits (some 2) []
    let t := s.hostCommand 5 1 0 0
    t.dev.cmds.length = 1 ∧ t.runCommand.dev.cmds.length = 1 ∧
      ((t.modDev fun d => { d with cmdOn := none }).runCommand.dev.cmds.length = 0) ∧
      (t.modDev fun d => { d with cmdOn := none }).runCommand.entry 1 0x5C 4 = 1 := by decide
theorem witness_suspend_at_once : let s := { stCtx .ready true with waves := [] }
    ((s.ctx 1).st = .ready) ∧ (((s.startSaving 1 .suspend).finishSaving 1).ctx 1).saving ≠ some .suspend := by decide
theorem witness_wresume : let s := stW fun w => { w with st := .held }
    (s.waves.find? (fun w => w.ctx == 1 && w.tag == 0 && w.grid == 0 && w.st == .held && !w.service)).isSome = true ∧
    st.waves.all (fun w => w.st != .held) = true ∧ (s.ctx 1).st = .resident := by decide
theorem witness_host_queue_commands : let s := { stQ .stopped none 0 [] with dev := { st.dev with qaddr := 0x10400 } }
    s.queueAt 1 s.dev.qaddr = some (true, 0) ∧ (s.ctx 1).st ≠ .free ∧ (st.ctx 0).st = .free ∧ st.queueAt 1 0x10400 = none ∧
    (s.hostQueueNeeds 1 s.dev.qaddr).isNone = true ∧
    ((s.modCtx 1 fun c => { c with saving := some .suspend }).hostQueueNeeds 1 s.dev.qaddr).isSome = true ∧
    (s.queue 1 true 0).st = .stopped ∧ (s.ctx 1).st.alive = true ∧ ((stQ .faulted none 0 []).queue 1 true 0).st = .faulted ∧
    ((stQ .faulted none 0 []).queue 1 true 0).valid = true := by decide

theorem witness_power : st.dev.on = true ∧ st.dev.st ≠ .booting ∧ State.reset.dev.on = true ∧ ({ State.reset.dev with on := false } : Device).on = false := by decide
/-- R26, R442: the resets, the removal of power and its return complete, from a device that is on and one that is off. -/
theorem test_power_completes : [Instr.reset 1#64, .hotReset, .functionLevelReset, .powerRemoved].all (fun i =>
      exec i st matches .next { dev := { st := .booting, .. }, .. }) = true ∧
    (exec .powerUp { st with dev := { st.dev with on := false } } matches .next { dev := { on := true, st := .booting, .. }, .. }) =
      true := by decide
/-- R443: a flash with no image is refused with reason 4. -/
theorem test_no_image_is_refused : (match exec .bootTrainingComplete State.reset with
    | .next t => t.dev.st == .refused && t.dev.reason == 4
    | _ => false) = true := by decide

/-- The board's flash with a header and a body of four bytes: whether it is signed, and whether the device has its identity, the
spec leaves to the device (`Config`). -/
def flashOf (ctxtab : Nat) : List Byte := leBytes 4 0x394A5653 ++ leBytes 4 7 ++ leBytes 8 4 ++ leBytes 8 0 ++ leBytes 8 0x10000 ++
  leBytes 8 ctxtab ++ leBytes 8 0x4000000 ++ leBytes 8 0x40000000 ++ leBytes 8 0x80000000 ++ List.replicate 4032 0#8 ++
  [1#8, 2#8, 3#8, 4#8]
theorem witness_boot : let s := { (State.reset : State) with dev := { State.reset.dev with flash := flashOf 0x100000 } }
    s.dev.on = true ∧ s.dev.st = .booting ∧ leNat ((s.dev.flash.drop 0).take 4) = 0x394A5653 ∧
    0x1000 + leNat ((s.dev.flash.drop 8).take 8) ≤ s.dev.flash.length ∧ s.dev.rollback ≤ leNat ((s.dev.flash.drop 4).take 4) ∧
    (imageOf s.dev.flash).inRange = true ∧ (imageOf (flashOf 0x100001)).inRange = false ∧
    ((s.dev.flash.drop 0x1000).take 4)[3]? = some 4#8 ∧ 0x10000 + 3 < 0x100000 ∧ 0x80000000 + 201326592 ≤ 0x6000000000 ∧
    s.homes.dir = [] ∧ s.homes.posted = [] := by decide
theorem witness_no_image : leNat ((State.reset.dev.flash.drop 0).take 4) ≠ 0x394A5653 := by decide
theorem witness_quote_and_cap : st.dev.attcmd = false ∧ st.dev.nonce.length = 32 ∧ st.homes.hostReqs = [] ∧
    (exec (.powercap 1500) st matches .next _) = true := by decide
theorem witness_control_space : ((1#64).extractLsb' 0 8).toNat = 1 ∧ ((0x105#64).extractLsb' 0 8).toNat = 5 ∧
    ((0x105#64).extractLsb' 8 6).toNat = 1 ∧ State.reset.dev.st ≠ .ready := by decide
theorem witness_recheck : (st.ctx 1).eqs = [] ∧ (st.ctx 1).lqs = [] ∧ st.link.parked = [] ∧ st.msgs = [] := by decide
/-- Two flips of granules, at a line, whose probes or snoops are out or not. -/
def stFlips (line : Nat) (sent : Bool) : State :=
  { st with homes := { st.homes with flips := [⟨5, .toHost, line, sent, []⟩, ⟨6, .toDevice, line, sent, []⟩] } }
theorem witness_flips : let s := stFlips 32 false
    (s.flip? 5).any (fun f => f.st == .toHost && f.waves.isEmpty && decide (32 ≤ f.line)) = true ∧
    (s.flip? 6).any (fun f => f.st == .toDevice && f.waves.isEmpty && decide (32 ≤ f.line)) = true ∧
    s.dev.biastab + 2 * 5 < 2 ^ 39 ∧ s.hostHolds (home (s.dev.biastab + 2 * 5)) = false ∧ s.homes.posted = [] := by decide
theorem witness_flip_lines : ((stFlips 31 true).flip? 5).any (fun f => f.sent && decide (f.line < 32)) = true ∧
    (let s := stFlips 0 false
     s.homes.dir.any (fun d => d.line == 0x5000 && d.bad) = false ∧ s.mustDrain (home 0x5000) none = false ∧
     (s.setRecorded (home 0x5000) 5 0).mustDrain (home 0x5000) none = true ∧
     s.hostHolds (home 0x6000) = false ∧ s.hostHolds (home 0x6040) = false) ∧
    (withMsg (stFlips 0 true) 0 (.backInv 0x6000 0 0)).lineBusy 0x6000 = true := by decide
theorem witness_holds : let h : Held := ⟨1, 0, 0, .bsync, none⟩
    (stW fun w => { w with held := [h] }).wave? 1 ≠ none ∧ (at_ st 127).clk < 0 + 128 ∧ 0 + 128 ≤ (at_ st 128).clk ∧
    (match st.releaseEffect (st.waves.headD (Wave.start 0 0 0 0 0 0 0 32 ⟨0, 0, 0, 0, 0, 1, false⟩ 0 0 0 0 0 [])) h with
    | .gone _ => true
    | .wait _ => false) = true := by decide

/-! The whole machine. -/

/-- The program's first instruction next: an IADD that runs, an EXIT-like end, and bytes that are no instruction. -/
def stRun (ws : List Word) : State := State.reset.withProgram (bytesOfWords ws)
def fetched (s : State) (p : List Byte → Bool) : Bool := (s.wave? 1).any fun w => (w.split? 0).any fun x =>
  match s.fetch w x with
  | .words bs _ => p bs
  | _ => false
theorem witness_step : let s := stRun (encode (.iadd (gen .w32 4 6 8 0 0)))
    let s' : State := { s with agenda := [] }
    s.agenda = [.issue 0] ∧ s.dev.on = true ∧ (s.quad 0).busyUntil ≤ s.clk ∧
    (s'.tableRead (s'.quadCtxs 0)).1 = true ∧ (s'.tableRead (s'.quadCtxs 0)).2.candidates 0 = [(1, 0)] ∧
    fetched (s'.tableRead (s'.quadCtxs 0)).2 (fun bs => decodeBytes bs matches .ok _) = true ∧
    ((s'.setRecorded (home 0x100100) 5 0).tableRead (s'.quadCtxs 0)).1 = false := by decide
/-- A fetch that fails with a cause detail of the spec, at a page that no table maps, and with none, at an odd address. -/
def fetchFails (pc : DWord) (p : Fail → Bool) : Bool :=
  let s := (stRun [0#32]).modWave 1 fun w => { w with splits := w.splits.map fun x => { x with pc } }
  (s.wave? 1).any fun w => (w.split? 0).any fun x => match s.fetch w x with
    | .fail f _ => p f
    | _ => false
theorem witness_fetch_fails : fetchFails 0x3000000#64 (·.einfo.isSome) = true ∧ fetchFails 0x10002#64 (·.einfo.isNone) = true := by
  decide
theorem witness_step_undecodable : fetched (stRun [0x0000003D#32,
    0x00140000#32]) (fun bs => decodeBytes bs matches .error _) = true := by
  decide
theorem witness_step_stalls : let s := (stRun [0#32]).setRecorded (home 0x10000) 5 0
    (s.wave? 1).any (fun w => (w.split? 0).any fun x => match s.fetch w x with
      | .stall _ => true
      | _ => false) = true := by decide
theorem witness_checks_wf : [Instr.iadd { gen .w64 4 6 8 0 0 with pb := ⟨.broadcast, 40#6⟩ }, .sysTlbsync (gen .w64 0 0 0 0 4),
    .iadd (gen .w64 60 6 8 0 0), .iadd (gen .w64 5 4 4 0 0), .iadd { gen .w64 4 6 8 0 0 with grd := ⟨false,
        1#3⟩ }].all Instr.wf = true := by
  decide
theorem witness_checks : (st.issuing (.iadd { gen .w64 4 6 8 0 0 with pb := ⟨.broadcast,
    40#6⟩ })).any (fun x => !x.permutesFit) = true ∧
    (st.issuing (.sysTlbsync (gen .w64 0 0 0 0 4))).any (fun x => x.permutesFit && !x.w.inSolo && encOp x.enc == 0x0F#7) = true ∧
    ((stC false false .call).issuing (.iadd (gen .w64 60 6 8 0 0))).any (fun x => x.permutesFit && !x.operandsFit) = true ∧
    (({ stLd with cur := some ⟨1, 0, 0x10000#64, 8⟩ } : State).issuing (.iadd (gen .w64 5 4 4 0 0))).any (fun x =>
      x.permutesFit && x.operandsFit && x.blocked) = true ∧
    (st.issuing (.iadd { gen .w64 4 6 8 0 0 with grd := ⟨false, 1#3⟩ })).any (fun x => x.permutesFit && x.operandsFit &&
        !x.blocked &&
      x.act == 0#64) = true := by decide
theorem witness_round_trips : (Instr.iadd (gen .w32 4 6 8 0 0)).wf = true ∧
    decodeWords 0x41820840#32 0#32 0#32 = .ok (.iadd { gen .w32 4 2 3 0 0 with la := true }) ∧
    (Instr.reservedOpcode 0xA8#32).wf = true := by decide
theorem witness_memories : st.memoriesWf = true := by decide
theorem witness_destination_write : (st.waves.all fun w => (w.regs.all fun r => decide (r.id < w.nextReg)) &&
    (w.window? (w.ownerOf 4 64 0)).isSome) = true := by decide
theorem witness_register_instruction : hyp st (.iadd (gen .w32 4 6 8 0 0)) (fun x => x.w.id == 1) = true := by decide

/-! The system instructions that read an image, and a queue command. -/

/-- Solo code with the address of an image in the wave's own context in v6:v7. -/
def stImg (addr : Nat) (img : List Byte) : State :=
  let s := (stQ .empty none 0 []).modWave 1 fun w => { withRegs [(6, clean fun _ => addr), (7,
      clean fun _ => 0x01000000)] w with st := .solo }
  { s with mem := s.mem.setBytes 0x10100 img, dev := { s.dev with features := 1 } }
def sysLit (sub : BitVec 5) (a : Fld) (n : Nat) : Gen := { gen .lit 0 a 0 0 sub with lit := BitVec.ofNat 32 n }
def imageIs (g : Gen) (p : List Byte → Bool) (x : Iss) : Bool :=
  match x.locate [x.first] (fun _ => ⟨(x.a64 g x.first).bits, false⟩) 32 Need.read (fun _ n => match n with
    | .placed _ => some ⟨.address, (x.a64 g x.first).bits, some 6⟩
    | _ => none) with
  | .ok s' [(_, .mem l)] => (match s'.readNow x.w x.no l 32 with
    | .ok bs _ => p (bs.map (·.byte))
    | .stall _ => false)
  | _ => false
theorem witness_rankw : hyp (stImg 0x10100 []) (.sysRankw (sysLit 6 6 0x10100)) (imageIs (sysLit 6 6 0x10100) fun bs => bs.length == 32) =
    true := by decide
theorem witness_inj : hyp (stImg 0x10100 (leBytes 4 2 ++ leBytes 4 1)) (.sysInj (sysLit 9 6 5))
    (fun x => x.s.dev.features.testBit 0 && imageIs (sysLit 9 6 5) (fun bs => (injectorOf bs).isSome) x) = true := by decide
theorem witness_qctl_stop : hyp (stImg 0x10400 []) (.sysQctl (sysLit 10 6 1)) (fun x =>
    match x.s.vaContext x.w (x.a64 (sysLit 10 6 1) x.first).bits.toNat with
    | some (c, va) => c == 1 && x.s.queueAt c va == some (true, 0) && (x.s.ctx c).saving.isNone
    | none => false) = true := by decide
theorem witness_wake : let s := ((stVec 3).modWave 1 fun w => { w with st := .solo }).modCtx 1 fun c => { c with st := .created }
    hyp s (.sysWake (sysLit 14 0 1)) (fun _ => (s.ctx 1).st == .created) = true ∧ (reaches s fun _ _ => true) = true :=
  ⟨by decide, reaches_of_dies (by decide)⟩

/-! The remaining clauses of the statements, each with a state that meets its premises, on both sides of its boundaries. -/

theorem witness_claim_forward_operand :
    hyp (stSolo.modWave 1 fun w => { w with sregs := updAt 0 (fun _ => .ofNat 1 false) w.sregs })
    (.sysClaimf (gen .w64 0 96 0 0 8)) (fun x => !x.w.service && (x.a64 (gen .w64 0 96 0 0 8) x.first).bits != 0#64) = true := by
  decide

/-- Another wave of the core waits with as many CWAITs as the core may have requests. -/
def stBusy : State :=
  let s := stAt []
  let w : Wait := { kind := .counter 4 0, loc := ⟨.dev, 0⟩, va := 0, acq := none, lanes := 1#64, op := 0x59, sub := 0,
                    len := 4, uid := 0, marks := [] }
  { s with waves := s.waves ++ (s.waves.map fun v => { v with
      id := 2, splits := List.replicate 4096 { Split.fresh 0 0x10000#64 1#64 0 0 with wait := some w } }) }
def quiet (m : Mem) (p : Iss → List Loc → Bool) (x : Iss) : Bool := match x.quietLines (x.addr m) .read with
  | (some ls, _) => p x ls
  | _ => false
theorem witness_prefetch : let m := mem .w64 0 6 8 0 0 .b32 .relaxed .device
    hyp (stAt []) (.pref m) (quiet m fun x ls => !x.full (dedup ls).length) = true ∧
    hyp stBusy (.pref m) (quiet m fun x ls => x.full (dedup ls).length) = true ∧
    hyp (withFrame 1#4 (stAt [])) (.wback m) (quiet m fun x ls => !x.full 1 &&
      ((withFrame 1#4 st).core 0).frames.any fun f => f.ctx == x.w.ctx && f.isDirty && ls.contains f.loc) = true ∧
    hyp (stAt []) (.invl { m with sub := 1 }) (fun x => !x.full 0) = true ∧
    hyp (stAt []) (.cwait { m with c := 12 }) (fun x => !x.full 1) = true := by decide

/-! The rows of tiles and accumulators, found and asked for. -/

def loaded (r : Res) : Bool := match r with
  | .ok _ => true
  | _ => false
theorem witness_tile_load : let m := mem .w64 1 6 8 112 0 .b128 .relaxed .device
    hyp stT (.tld m) (fun x => match x.locate (List.range (tileRows 0))
        (fun k => ⟨(x.addr m x.first).bits + BitVec.ofNat 64 (k * rowBytes 0), false⟩) (rowBytes 0) Need.read (fun _ _ => none) with
      | .ok s' ps => loaded (x.loadRows m s' (x.reload 1) (x.opOf (.tile 1 false)) ps (rowBytes 0) fun k => k * rowBytes 0)
      | _ => false) = true := by decide
theorem witness_gather : let m := mem .w64 2 6 8 3 0 .b128 .relaxed .device
    let s := stT.modWave 1 (withRegs [(6, clean fun _ => 0x10100), (3, clean fun l => l)])
    hyp s (.gathr m) (fun x => (x.fails (gathrFail x m 0 none)).isNone && x.lanes.length ≤ tileRows 0 &&
      match x.locate x.lanes (x.addr m) (rowBytes 0) Need.read (fun _ _ => none) with
      | .ok s' ps => loaded (x.loadRows m s' (x.reload 2) (x.opOf (.gather 2)) ps (rowBytes 0) fun l => l * rowBytes 0)
      | _ => false) = true := by decide
theorem witness_accumulator_moves : let m := mem .w64 1 6 8 0 0 .b128 .relaxed .device
    hyp stT (.accld m) (fun x => !x.matrixHeld none (some 1) &&
        (match x.locate x.lanes (x.addr m) (accPart m).1 Need.read (fun _ _ => none) with
      | .ok s' ps => loaded (x.loadRows m s' x.w (x.opOf (.acc 1 false)) ps (accPart m).1 fun l => 512 * l)
      | _ => false)) = true ∧
    hyp stT (.accst m) (fun x => !x.matrixHeld none (some 1) && !(stT.earlierOn x.w x.no none (some 1) fun _ => true) &&
      match x.locate x.lanes (x.addr m) (accPart m).1 Need.write (fun _ _ => none) with
      | .ok _ ps => (ps.filter fun p => p.2.traps).isEmpty && !Iss.isFar ps && !x.full (x.requests ps)
      | _ => false) = true := by decide

/-! Homes: the premises about the copy of the core that is given up, and each clause's own. -/

/-- The state with a message and the copy of its core, dirty or not, of the line it is for. -/
def around (d : BitVec 4) (k : MsgKind) (uid : Nat) (p : State → Msg → Bool) : Bool :=
  let s := withFrame d (withMsg st uid k)
  (s.msg? 1).any fun m => p s m
def noWriteback (s : State) (l : Loc) : Bool := !s.writebackPending 0 fun k _ => k == l.frameLine
theorem witness_home_turns :
    [0#4, 15#4].all (fun d => around d (.read (home 0x10100) 0 true 1) 0 fun s m =>
      let t := if s.goesAround m then s.surrenderLine 0 (home 0x10100).frameLine (0, 0) else s
      !t.behindOwn m (home 0x10100) 32 && noWriteback t (home 0x10100) && (t.homeNeeds (home 0x10100) 32 (some 0) true).isNone &&
        (t.dirFull (home 0x10100).dirKey).isNone) = true ∧
    [.write (opAt 4 7) 0 (some (3, true)), .atomic (.atom 0) (opAt 4 7) 0 true (some (3, true)),
        .redk 0 (opAt 16 0) 0 none].all (fun k =>
      around 0#4 k 1 fun s m =>
        let t := s.surrenderLine 0 (home 0x10100).frameLine (0, 0)
        !s.behindOwn m (home 0x10100) 16 && !s.awaited (home 0x10100).line m.id && noWriteback t (home 0x10100) &&
          (t.homeNeeds (home 0x10100) 16 (some 0) true).isNone && (t.recordFull (home 0x10100).line).isNone &&
          s.ownsLine (home 0x10100)) = true := by decide

/-- The LD of the tests with its reply, its pieces waiting for the bytes they took note of at issue, or for a store that has
left since. -/
def stReply (fwd : List Nat) : State :=
  { stLd.modWave 1 (fun w => { w with ops := w.ops.map fun o => { o with pieces := o.pieces.map fun p => { p with fwd } } }) with
    msgs := [⟨1, 1, ldUid, 1, 1, .reply (home 0x10100) (List.replicate 32 ⟨7, false⟩) true 0⟩] }
def readAgain (s : State) (p : List Nat → Bool) : Bool :=
  let t := (s.mayLandAt 1 ldUid).2
  (s.mayLandAt 1 ldUid).1 && !((t.wave? 1).any (·.unreadOn 1 (home 0x10100))) &&
    ((t.wave? 1).bind (·.op? ldUid)).any fun o => o.pieces.any fun c => !c.done && c.loc.sector == (home 0x10100).sector && p c.fwd
theorem witness_reply_clauses : readAgain (stReply []) (· == []) = true ∧ readAgain (stReply [99]) (· != []) = true ∧
    ((stReply []).wave? 1).any (fun w => (w.heldOn 1 (home 0x10100)).isEmpty) = true := by decide

theorem witness_drain_again : let s := withFrame 1#4 (stMsg (.drain 0 0 true (home 0x10100) true))
    (s.core 0).frames.any (fun f => f.isDirty && (true || decide (f.epoch ≤ 0))) = true := by decide

/-- A second frame, of an older epoch, besides the one the probe is for. -/
def stProbe (older : Bool) : State := (stMsg (.probe 0 0x10100 none 9 none)).modCore 0 fun c => { c with
  frames := { frame 1#4 with epoch := 5 } :: if older then [{ frame 1#4 with id := 1, loc := home 0x20000, epoch := 1 }] else [] }
theorem witness_probe_dirty : [false, true].all (fun older =>
    let t := (stProbe older).noFill 0 fun l => l.frameLine == dirLine 0x10100
    !((t.core 0).gated) && !(t.writebackPending 0 fun l _ => l == dirLine 0x10100) && (t.frame? 0 (dirLine 0x10100)).any fun f =>
      f.isDirty && ((t.core 0).frames.any fun g => g.isDirty && decide (g.epoch < f.epoch)) == older) = true ∧
    (let s := stMsg (.probe 0 0x10100 none 9 (some 0))
     ((s.noFill 0 fun l => l.frameLine == dirLine 0x10100).core 0).gated = false) := by decide

theorem witness_rebuild : let r : HostReq := ⟨9, 3, 0, [], 0, false, 1, false, false⟩
    let s := (stMsg (.probeResponse 0 0x10100 none 9 [] [] 1)).modHomes fun h => { h with hostReqs := [r] }
    (s.homes.hostReqs.any fun r => r.id == 9 && r.kind == 3) = true ∧ (s.msg? 1).isSome = true := by decide

theorem witness_host_snoop_waits : let s := stMsg (.writeback 0 ⟨.host, 0⟩ [(3, ⟨9, false⟩)] 0#4 0 0 1)
    (List.range 64).any (fun c => ((s.probeCores (Loc.dirKey ⟨.host, 0⟩)).foldl (fun s c =>
      s.writebackWhere c (fun f => f.loc == ⟨.host, 0⟩) (0, 0)) s).writebackPending c fun l _ => l == ⟨.host, 0⟩) = true := by decide

/-! Queues: a ring that is reached or not, entries that are spent, held for their record or their RFENCE; engines. -/

def readyFor (s : State) (e : Entry) (p : State → Bool) : Bool := match s.ringReady 1 true 0 (some e.seq) with
  | .yes t => p t
  | _ => false
theorem witness_entry_held :
    (let e := { copying 64 true [] with prog := [0] }
     readyFor (stQ .running (some e) 1 (copyImage 64)) e fun _ => e.left.isEmpty && e.claims.isEmpty) = true ∧
    (let e := copying 64 false []
     readyFor (stQ .running (some e) 1 (copyImage 64)) e fun _ => !e.finish && !e.started) = true ∧
    (let e := copying 70000 true []
     readyFor (stQ .running (some e) 1 (copyImage 70000)) e fun _ => !e.left.isEmpty && e.started) = true ∧
    (let s := (stQ .running (some (copying 64 false [])) 1 []).modCtx 1 fun c => { c with eqbase := 0x3000000 }
     match s.ringReady 1 true 0 (some 0) with
      | .yes _ => false
      | _ => true) = true := by decide

/-- The ring on a page no table maps. -/
def stFarRing : State := (stQ .running none 1 []).modQueue 1 true 0 fun x => { x with ring := 0x3000000 }
theorem witness_entry_page_faults : (match (stFarRing.readHeader 1 true 0) with
    | .ok tail head t => decide (head < tail ∧ tail - head ≤ 2 ^ 3) &&
        (match t.reach 0 1 ((t.queue 1 true 0).slotVa head) 128 .both with
      | .fault _ _ => true
      | _ => false)
    | .no _ => false) = true ∧ ((stQ .running none 9 []).readHeader 1 true 0 matches .ok _ _ _) = true ∧
    (((stQ .running none 1 []).modCtx 1 fun c => { c with eqbase := 0x3000000 }).readHeader 1 true 0 matches .no _) = true := by decide

/-- COPYSHAPE with its record at 0x11000, and an RFENCE of that record. -/
def shapeImage (kind : Nat) : List Byte := leBytes 8 kind ++ List.replicate 24 0#8 ++ leBytes 8 0x11000 ++ List.replicate 88 0#8
def shaping (kind : Nat) : Entry := ⟨0, shapeImage kind, false, [], [], [], false, [], false, []⟩
theorem witness_entry_kinds : [2, 5].all (fun k =>
    let r := (stQ .running (some (shaping k)) 1 (shapeImage k)).entryHolds 1 0 (shaping k)
    (r.2.queue 1 true 0).st == .running && r.1) = true ∧
    (let r := (stQ .running (some (shaping 2)) 1 (shapeImage 2)).entryHolds 1 0 (shaping 2)
     match r.2.takeRecord 1 0 (shaping 2) with
      | .bad _ => true
      | _ => false) = true := by decide

theorem witness_steals : let s := stQ .running (some (copying 70000 true [(0, 7)])) 1 (copyImage 70000)
    let b := s.modQueue 1 true 0 fun x => { x with engine := some 7 }
    b.engineFree 0 = true ∧ ((b.performing 0).filter fun e => !e.2.2.2.unclaimed.isEmpty).length = 1 ∧
    ((b.performing 0).filter fun e => !e.2.2.2.unclaimed.isEmpty && e.2.2.1.engine.isNone) = [] ∧
    ((stQ .empty none 0 []).performing 0) = [] := by decide

/-- An engine with the one chunk of a COPY of 64 bytes, from host memory or not. -/
def stChunk (n : Nat) (claims : List (Nat × Nat)) (engine : Option Nat) : State × Entry :=
  let e := copying n true claims
  ({ ((stQ .running (some e) 1 (copyImage n)).modQueue 1 true 0 fun x => { x with engine }) with
      engines := updAt 5 (fun _ => ⟨some (1, 0, 0), []⟩) (List.replicate 128 .idle) }, e)
def chunkReady (x : State × Entry) (p : State → Bool) : Bool := readyFor x.1 x.2 fun t =>
  match t.reachRuns 0 1 false (x.2.runs 0) with
  | .ok (_, u) => x.2.claims.contains (0, 5) && p u
  | .error _ => false
theorem witness_chunk_last : chunkReady (stChunk 64 [(0, 5)] (some 5)) (fun u => !(u.queue 1 true 0).stopping &&
    (u.queue 1 true 0).st == .running && (u.ctx 1).st != .draining) = true := by decide

/-- The record at 0x11000 with the queue: 2 rows of 3 words. -/
def shapeRecord (dir : Nat) : List Byte :=
    leBytes 8 0x12000 ++ leBytes 4 2 ++ leBytes 4 3 ++ leBytes 4 16 ++ leBytes 4 0 ++ leBytes 1 dir ++
  List.replicate 7 0#8
theorem witness_record_fits : let s := (stQ .running (some (shaping 2)) 1 (shapeImage 2)).modQueue 1 true 0 fun x => { x with
      cache := [(0x11000, shapeRecord 2)] }
    let r := s.entryHolds 1 0 (shaping 2)
    (match r.2.takeRecord 1 0 (shaping 2) with
      | .ok _ _ => true
      | _ => false) = true ∧ (r.2.queue 1 true 0).st = .running ∧ r.1 = true := by decide

/-- A COLL packet of two lanes, a request that waits here already, and one that nobody here is behind. -/
theorem witness_owner_arrivals : ({ reqTo .write 7 with mask := 3#64 }.mask ≠ 0#64) ∧ st.link.parked = [] ∧
    ((stRegion.modLink fun l => { l with parked := [(reqTo .write 7, 1)] }).link.parked.any (·.1 == reqTo .write 7)) = true ∧
    ({ st.dev with st := .booting } : Device).st ≠ .ready := by decide

theorem witness_requester_clauses : let away := stOut (outAt 1 0 none) 1
    let own : Outstanding := { outAt 1 0 none with req := { (outAt 1 0 none).req with target := 0 } }
    let home : State := (stOut own 1).modLink fun l => { l with replies := [(own.req.key, .ack [] false)] }
    ((away.mayLandAt 1 1).1 = true ∧ (outAt 1 0 none).req.target ≠ away.ownRank ∧ (outAt 1 0 none).ways ≠ []) ∧
    ({ outAt 1 0 none with ways := [] } : Outstanding).ways = [] ∧
    (own.req.target = home.ownRank ∧ home.link.replies.findIdx? (·.1 == own.req.key) = some 0 ∧
      home.link.replies[0]? = some (own.req.key, .ack [] false)) ∧
    ({ outAt 1 0 none with parked := true } : Outstanding).parked = true ∧ st.link.out.find? (·.req.key == own.req.key) = none ∧
    (64 ≤ (outAt 64 0 none).tries ∧ (outAt 64 0 none).req.kind ≠ .retirement) := by decide
theorem witness_retirement_timeout : ({ reqTo .retirement 7 with target := 3 }).kind = .retirement ∧
    0 + 2000 * 16 * 16 ≤ (at_ st 512000).clk := by decide
theorem witness_ports_and_lanes : [0, 5, 127].all (fun p => (st.link.ports[p]?).isSome == decide (p < 24)) = true ∧
    (st.link.injectors[95]?).any (·.mode == 0) = true ∧ PortState.fits .up 4 = true ∧ PortState.fits .degraded 3 = true ∧
    PortState.fits .down 0 = true ∧ PortState.fits .training 2 = true ∧ PortState.fits .up 3 = false ∧
    PortState.fits .disabled 4 = false := by decide

/-- R383: packets 1 to 4 without packet 0 call for it; without packet 5 they do not. -/
theorem test_nack_names_the_gap :
    ({ CacheEntry.done (reqTo .putfData 7) 0 [] false with placed := [1, 2, 3, 4] } : CacheEntry).missing 6 = [0] := by decide

theorem witness_notice_waits : let l := st.launch? 1 0
    l.any (fun l => l.gangs.length == 1 && !l.final && (l.gangAt 0).st != .done && decide (0 ≤ 0 * l.gang * l.waves)) = true ∧
    (stFinal.launch? 1 0).any (fun l => l.final) = true ∧ st.ownRank = 0 := by decide

/-- A reply of rows of a tile that may not land yet. -/
theorem witness_rows_wait : 
    let s := stLd.modWave 1 fun w => { w with ops := w.ops.map (fun o => { o with kind := .tile 1 false }), atLine := [(ldUid, 999999)] }
    (s.mayLandAt 1 ldUid).1 = false := by decide

theorem witness_bsync_again :
    let s (arrive : Nat) : State := { st with blocks := st.blocks.map fun b => { b with phase := 1, lastArrive := arrive } }
    [(st.clk, false), (0, decide (2 ≤ st.clk + 1))].all (fun p => hyp (s p.1) (.bsync (gen .w32 0 0 0 0 0)) fun x =>
      ((s p.1).block? x.w.block).any fun b => decide (x.w.bphase < b.phase) &&
          decide (b.lastArrive + 2 ≤ (s p.1).clk + 1) == p.2) = true ∧
    hyp (stW fun w => { w with held := [⟨0, 0, 0, .bsync,
        none⟩] }) (.bsync (gen .w32 0 0 0 0 0)) (fun x => !x.w.held.isEmpty) = true := by
  decide

/-- The cell's home is not ready: the core's write-back of its line is on its way. -/
def stCellBusy : State := { stAt [] with msgs := [⟨1, 1, 0, 0, 1, .writeback 0 (home 0x10100) [(3, ⟨9, false⟩)] 0#4 0 0 1⟩] }
theorem witness_cell_waits : hyp stCellBusy (.barExpect { mB with d := 0 }) (cell 32 .both fun x s' l => !(cOf x).poison &&
      (x.cellNeeds s' l).isSome) = true ∧
    hyp stCellBusy (.barTest mB) (cell 32 .read fun x s' l => !(cOf x).poison && (x.cellNeeds s' l).isSome) = true ∧
    hyp stCellPoison (.barTest mB) (cell 32 .read fun x _ _ => (cOf x).poison) = true ∧
    hyp stCellPoison (.barWait { mB with d := 0 }) (cell 32 .read fun x _ _ => (cOf x).poison) = true ∧
    hyp stCellPoison (.barExpect { mB with d := 0 }) (cell 32 .both fun x _ _ => (cOf x).poison) = true := by decide

def turnAt (s : State) (l : Loc) (n : Nat) (read : Bool) (p : State → Bool) : Bool := (s.msg? 1).any fun m =>
  let r := s.homeTurn m l n 0 none read
  r.1 && s.ownsLine l && p r.2
theorem witness_cell_turns : [BarReq.arrive, .init 3,
    .expect 5].all (fun r => turnAt (stMsg (.barReq r (home 0x10100) 0 none)) (home 0x10100) 32 true
      fun t => !(anyPoison (t.homeRead (home 0x10100) 32).1)) = true ∧
    turnAt (let s := stMsg (.barReq .arrive (home 0x10100) 0 none)
      { s with mem := s.mem.setPoison (0x10100 / 32) true }) (home 0x10100) 32 true
      (fun t => anyPoison (t.homeRead (home 0x10100) 32).1) = true ∧
    turnAt (stMsg (.post carryAt 0 1#64 0#64)) (home 0x10100) 64 true (fun _ => true) = true ∧
    turnAt (stMsg (.uictl 0 (home 0x12050))) (home 0x12050) 16 true (fun _ => true) = true := by decide

theorem witness_feeds : 5 ≤ ((stCell 5).meetCell (home 0x10100)).natAt (home 0x1010C) 4 ∧
    ((stCell 5).meetCell (home 0x10100)).natAt (home 0x1010C) 4 < 6 := by decide

/-- A forward to a page no table maps, and to one its tables do not permit. -/
theorem witness_forward_faults : ((List.range 2).all fun die =>
    (match (stMsg (.forward carryAt 0x3000000 1#64 false 0#64)).translate none die 1 0x3000000 .both with
      | .fault f _ => f.cause != .protection
      | _ => false) &&
    match (let s := stMsg (.forward carryAt 0x10200 1#64 false 0#64)
      { s with mem := s.mem.setNat 0x5008 8 0x10003 }).translate none die 1 0x10200 .both with
      | .fault f _ => f.cause == .protection
      | _ => false) = true := by decide

/-- Carry cells by their state, Poisoned and of no meaning among them, of the post's OP and of another. -/
theorem witness_carry_states : (List.range 6).all (fun k => (stCarry k .ack).carryState carryAt == k) = true ∧
    (stCarry 0 .ack).carryOp carryAt = 0 ∧ ((stCarry 0 .ack).homeRead (home 0x10100) 64).1.all (fun b => !b.poison) = true := by decide

theorem witness_area_fails : hyp (stW (withRegs [(6, clean fun _ => 0x14001), (8, clean fun _ => 3)])) (.gjoin gG) (fun x =>
    match x.areaAt (x.a64 gG x.first) with
      | .fail _ => true
      | .ok _ _ _ => false) = true := by decide
/-- The area's first line lies in the core's L1, dirty: its write-back comes first. -/
theorem witness_area_not_ready : let s (slots : Option Nat) := withFrame 1#4 (stGroup 1 1 slots)
    let busy (slots : Option Nat) : State := (s slots).modCore 0 fun c => { c with
      frames := c.frames.map fun f => { f with loc := home 0x14000 } }
    hyp (busy none) (.gjoin gG) (area gG fun x t h va => !(x.w.groupSlots.contains (some va)) && (x.areaReady t h).isSome) = true ∧
    hyp (busy (some 0x14000)) (.gleave gG) (area gG fun x t h va => x.w.groupSlots.contains (some va) &&
        (x.areaReady t h).isSome) = true := by
  decide
theorem witness_group_requests : let t := (stHomeGroup 1 contribution).pollGroups
    ((t.wave? 1).any fun w => (t.groupContribute groupAt w 1 0 (List.replicate 32 (some 1#64))).isSome) = true ∧
    t.msgs.any (fun k => decide (k.id < 1) && k.wave == 1) = false ∧
    (let u := stHomeGroup 0 .join
     u.groupState groupAt = 0 ∧ (u.wave? 1).any (fun w => w.st != .ended) = true) ∧
    (let u := stHomeGroup 1 .leave
     u.groupState groupAt = 1 ∧ ((u.modWave 1 fun w => { w with st := .ended }).wave? 1).any (fun w => (u.memberIndex groupAt w) == some 0) = true ∧
       (u.wave? 1).any (fun w => u.memberIndex groupAt { w with grid := 9 } == none) = true) := by decide

/-- A query whose record is at its home, and one behind an operation of its wave. -/
theorem witness_query : hyp (stVec 0) (.uictlQuery gV) (fun x => match (stVec 0).laneAt x.w 1 0x12050 0x12050 .both with
      | .ok l s' => let t := s'.surrenderLine x.w.core l.frameLine (0, 0)
        l == home 0x12050 && !s'.homeOpPending x.w x.no l 16 && !x.w.holdsStore x.no l 16 &&
          !(t.writebackPending x.w.core fun k _ => k == l.frameLine) && (t.homeNeeds l 16 (some x.w.core) true).isNone
      | _ => false) = true := by decide

theorem witness_send_answers : faults (((stVec 0).modCtx 1 fun c => { c with uipage := 0x3000000 }).reachPage 1) = true ∧
    ((stVec 0).ctx 2).st.alive = false ∧ sent (stVec 0) 1 5 .host = true ∧
    (let s := withMsg (stVec 0) 0 (.interrupt 1 5 9#64 1 0 0#64)
     let earlier (id : Nat) : Bool := s.msgs.any fun k => decide (k.id < id) && k.wave == 1
     earlier 1 = false ∧ earlier 2 = true) ∧
    (0 < 1 ∧ 1 < 64 ∧ 5 < 64 ∧ (stVec 0).dev.on = true ∧ (stVec 0).dev.st = .ready) :=
  ⟨page_of_dies (by decide), by decide, sent_of_reaches (by decide) (reaches_of_dies (by decide)), by decide, by decide⟩

/-- An acknowledgement whose turn has come, of an instruction in flight. -/
theorem witness_acknowledges : let s := { stLd with msgs := [⟨1, 1, ldUid, 1, 1, .uictl 2 (home 0x12050)⟩] }
    (turnAt s (home 0x12050) 16 true fun t =>
      let z := ((((t.homeRead (home 0x12050) 16).2.setNatAt (home 0x12050) 2 0).afterWrite (home 0x12050)).dropMsg 1)
      ((z.wave? 1).any fun w => ((z.acquireInval w.core w.ctx).wave? 1).any fun v => (v.op? ldUid).isSome)) = true := by decide

theorem witness_one_wave : st.waves.length = 1 ∧ (st.wave? 1).isSome = true ∧
    ((at_ stCk 400).wave? 1).any (fun w => w.regs.all (fun r => !w.mayReturn r 400)) = true ∧
    (let w := ((stR [(6, 0)]).waves.headD (Wave.start 0 0 0 0 0 0 0 32 ⟨0, 0, 0, 0, 0, 1, false⟩ 0 0 0 0 0 []))
     w.regs.any (fun r => ({ w with windows := [] } : Wave).mayReturn { r with freed := some 0 } 128) = true) := by decide

theorem witness_spill_choice : ((stStuck true).waves.filter fun w => w.quadNo == 0 && w.onCore && w.st == .resident &&
      w.spillWindow.isSome).length = 1 ∧
    ((stStuck false).waves.filter fun w => w.quadNo == 0 && w.onCore && w.st == .resident &&
        w.evictable).length = 1 ∧
    stuck st = false := by decide

def dueIs (s : State) (p : Wave → Raised → Bool) : Bool :=
  (s.wave? 1).any fun w => ((sortBy (·.no) w.due).find? w.dueNow).any (p w)
theorem witness_due_choice :
    dueIs (stW fun w => { w with due := [due .illegal 1] }) (fun w r => w.st == .resident &&
        (w.trapSplit r.trap.lanes).isSome) = true ∧
    dueIs (stSolo.modWave 1 fun w => { w with due := [due .illegal 0] }) (fun w r => w.st == .solo && !w.service &&
        w.frozen.any (r.no ≤ ·.no)) = true ∧
    dueIs (stSolo.modWave 1 fun w => { w with due := [due .illegal 999] }) (fun w r => w.st == .solo &&
        !(w.frozen.any (r.no ≤ ·.no)) &&
      (w.trapSplit r.trap.lanes).isSome) = true ∧
    dueIs (stServ.modWave 1 fun w => { w with due := [due .illegal 999] }) (fun w r => w.service &&
        (w.trapSplit r.trap.lanes).isSome) = true ∧
    dueIs ((st.takeTrap 1 0 (raised .illegal)).modWave 1 fun w => { w with due := [due .illegal 0] }) (fun w _ => w.st == .held) = true ∧
    [Cause.illegal, .poison].all (fun c => dueIs (stW fun w => { w with st := .exited, due := [due c 1] }) fun w r =>
      w.st == .exited && r.trap.cause == c) = true ∧
          (st.wave? 1).any (fun w => ((sortBy (·.no) w.due).find? w.dueNow).isNone) = true := by
  decide

theorem witness_save_choice : let s := at_ (stW fun w => { w with stopping := true }) 500
    let out (s : State) : Bool := (s.writebackWhere 0 (fun f => f.ctx == 1) (0, 0)).msgs.any fun m => m.ctx == 1
    (s.wave? 1).any (fun w => s.saveReady w) = true ∧ out s = false ∧ out (withFrame 1#4 s) = true ∧
    (st.wave? 1).any (fun w => !st.saveReady w) = true := by decide

/-- The wave away, alone, and with context 2, of the same PRIO, next in turn for the core. -/
def stAway : State := stW fun w => { w with st := .saved, onCore := false }
def stAwayBehind : State := { stAway.modCtx 2 (fun _ => { stAway.ctx 1 with st := .ready }) with
  waves := stAway.waves ++ stAway.waves.map fun w => { w with id := 2, ctx := 2, block := 2 }
  sched := { stAway.sched with launches := stAway.sched.launches ++ stAway.sched.launches.map fun l => { l with ctx := 2 } } }
theorem witness_restore_choice :
    let later (s : State) : Bool := s.goesFirst 5 (s.prio 1) || s.waveBefore 5 (s.prio 1) 1 || s.gangBefore 5 (s.prio 1) 1
    later stAway = false ∧ (stAway.wave? 1).any (fun w => w.away && stAway.placeable 1 && stAway.homeCore w 5 &&
        stAway.waveFits 5 w []) = true ∧
    stAwayBehind.placeable 2 = true := by decide

theorem witness_end_choice : (let s := stW fun w => { w with st := .ended, groups := [some 0x14000, none, none, none] }
     (s.wave? 1).any fun w => w.groups.any (·.isSome)) = true ∧ st.homes.groups = [] ∧
    (stLd.wave? 1).any (fun w => !stLd.waveOver w) = true := by decide

theorem witness_slice_waves : ((((stWanted.liveWaves 1).map (·.id)).foldl State.takeDues stWanted).waves.any fun w => w.ctx == 1 &&
      !w.service && w.st == .resident && w.onCore && !w.decl.comm) = true ∧
    (let s := stWanted.modWave 1 fun w => { w with decl := { w.decl with comm := true } }
     ((((s.liveWaves 1).map (·.id)).foldl State.takeDues s).waves.any fun w => w.st == .resident && w.onCore &&
         w.decl.comm)) = true := by
  decide

/-- A skip of a faulted queue whose header is there and not. -/
theorem witness_skip : let s := stQ .faulted none 0 []
    (s.readHeader 1 true 0 matches .ok _ _ _) = true ∧ (s.queue 1 true 0).st = .faulted ∧
    ((s.modCtx 1 fun c => { c with eqbase := 0x3000000 }).readHeader 1 true 0 matches .no _) = true := by decide

theorem witness_effects : let h : Held := ⟨1, 0, 0, .bsync, none⟩
    (stW fun w => { w with held := [h] }).waves.all (fun w => !(w.unread h.uid)) = true ∧
    (stLd.modWave 1 fun w => { w with ops := w.ops.map fun o => { o with kind := .accst 1 0 128 } }).waves.any (fun w => w.unread ldUid) = true ∧
    (let f : Flip := ⟨5, .toHost, 32, false, [(1, 0, 0)]⟩
     f.waves.filter (·.2.2 != 1) ≠ []) := by decide

theorem witness_clock : let t := (st.modDev fun d => { d with st := .refused }).tick
    t.dev.cmds = [] ∧ t.clk % 20000 ≠ 0 ∧ t.waves.all (fun w => w.due.isEmpty && w.ops.isEmpty && decide (w.sinceCk < 64)) = true ∧
    (List.range 64).all (fun c => (t.ctx c).st != .ready) = true ∧ t.quads.all (fun q => q.permit == .none) = true ∧
    (let r := ((st.modDev fun d => { d with st := .refused }).modQuad 3 fun q => { q with permit := .requested 0 false }).tick
     (r.quad 3).permit = .requested 0 false ∧ r.clk < 0 + 64 ∧ r.grantsLimited 0 = false ∧ r.grantsLimited 1 = false) := by decide

/-- A BAR.test whose cell's home is not ready: it is offered, and stalls. -/
theorem witness_step_stalls_inside : let i : Instr := .barTest { mB with sub := 4 }
    let s : State := { (stRun (encode i)).modWave 1 (withRegs [(6, clean fun _ => 0x10100), (12, clean fun _ => 0)]) with
      msgs := [⟨1, 1, 0, 0, 1, .writeback 0 (home 0x10100) [(3, ⟨9, false⟩)] 0#4 0 0 1⟩] }
    (let s' : State := { s with agenda := [] }
     (s'.tableRead (s'.quadCtxs 0)).1 = true ∧ (s'.tableRead (s'.quadCtxs 0)).2.candidates 0 = [(1, 0)]) ∧ fetched s (fun bs => decodeBytes bs matches .ok _) = true ∧
    (match exec i { s with cur := some ⟨1, 0, 0x10000#64, 8⟩ } with
      | .next t => t.cur.isSome
      | _ => false) = true ∧ (s.wave? 1).any (fun w => (w.split? 0).any (·.open s.clk)) = true := by decide

/-! System registers of the trapped window, and a return that takes a pending trap. -/

/-- Solo code over a trapped window of 32 registers, the first of them still to be written or not. -/
def stWindow (late : Bool) : State := stSolo.modWave 1 fun w =>
  let w := withRegs [(0, clean fun _ => 5), (6, clean fun _ => 3), (7, clean fun _ => 0)] w
  { w with
    windows := w.windows.map fun v => if v.id = 0 then { v with size := 32 } else v
    regs := w.regs.map fun r => if r.id = 0 && late then { r with writer := 9 } else r }
def beyond (s : State) : State := s.modWave 1 fun w => { w with sys := { w.sys with tlane := 32#64 } }
def smovr (n : Nat) : Gen := { gen .lit 4 0 0 0 1 with lit := BitVec.ofNat 32 n }
def smovw (n : Nat) : Gen := { gen .lit 0 6 0 0 2 with lit := BitVec.ofNat 32 n }
/-- The instruction issues and its system register is the numbered one, in a lane of the wave or beyond them. -/
def moves (s : State) (i : Gen → Instr) (g : Gen) (n : Nat) (inside : Bool) (p : Iss → Bool) : Bool :=
  hyp s (i g) fun x => !(x.b32 g x.first).poison && (x.b32 g x.first).bits.toNat == n && !(x.a64 g x.first).poison &&
    (decide (x.w.sys.tlane.toNat < x.width) == inside) && p x
def windowIs (n : Nat) (size : Nat → Bool) (late : Bool) (x : Iss) : Bool := x.w.trappedWindow.any fun v => size v.size &&
  ((((x.w.phys? v.id (n - 0x100)).bind x.w.reg?).any (·.writer != 0) ||
    (x.w.window? (x.w.ownerOf (n - 0x100) 64 v.id)).any (·.spilled)) == late) && !x.s.poolShort x.w 1
theorem witness_window_reads : [0x100, 0x15F].all (fun n =>
      moves stServ .sysSmovr (smovr n) n true (·.w.trappedWindow.isNone) &&
      moves stSolo .sysSmovr (smovr n) n true (windowIs n (decide <| n - 0x100 < ·) false)) = true ∧
    moves (stWindow false) .sysSmovr (smovr 0x120) 0x120 true (windowIs 0x120 (decide <| · ≤ 0x20) false) = true ∧
    moves (stWindow true) .sysSmovr (smovr 0x100) 0x100 true (windowIs 0x100 (decide <| 0 < ·) true) = true ∧
    [0x100, 0x15F, 0x160, 0x168].all (fun n => moves (beyond stSolo) .sysSmovr (smovr n) n false fun _ => true) = true := by
  decide
theorem witness_window_writes : [0x100, 0x15F].all (fun n =>
      moves stServ .sysSmovw (smovw n) n true (·.w.trappedWindow.isNone) &&
      moves stSolo .sysSmovw (smovw n) n true (windowIs n (decide <| n - 0x100 < ·) false)) = true ∧
    moves (stWindow false) .sysSmovw (smovw 0x120) 0x120 true (windowIs 0x120 (decide <| · ≤ 0x20) false) = true ∧
    moves (stWindow true) .sysSmovw (smovw 0x100) 0x100 true (windowIs 0x100 (decide <| 0 < ·) true) = true ∧
    [0x100, 0x15F, 0x160, 0x168].all (fun n => moves (beyond stSolo) .sysSmovw (smovw n) n false fun _ => true) = true := by
  decide
theorem witness_mode_writes : moves stSolo .sysSmovw (smovw 0x168) 0x168 true (fun x => !x.w.service && x.w.frozen.isSome) = true ∧
    moves stServ .sysSmovw (smovw 0x168) 0x168 true (fun x => x.w.service) = true ∧
    moves (stSolo.modWave 1 fun w => { w with frozen := none }) .sysSmovw (smovw 0x168) 0x168 true
      (fun x => !x.w.service && x.w.frozen.isNone) = true := by
  decide

/-- A wave in solo mode with a pending trap, and the trap that sys.pend names among its own or not. -/
def stPended (own : Bool) : State := stSolo.modWave 1 fun w => { w with
  sys := { w.sys with pend := ((0x10000#64 >>> 2) <<< 8) ||| BitVec.ofNat 64 (Cause.code .illegal) }
  pended := if own then [raised .illegal] else [] }
theorem witness_pending_return : [false, true].all (fun own => ((stPended own).wave? 1).any fun w => !w.service &&
    w.sys.pend != 0#64 && w.frozen.any (fun f => f.inSolo && (f.splits.find? (·.slot == f.slot)).isSome) &&
    (w.pended.find? fun d => d.trap.cause == Cause.ofCode (w.sys.pend.toNat % 256) &&
      d.ipc == (w.sys.pend >>> 8) <<< 2).isSome == own) = true := by
  decide

/-! Special operands, POISON, and a trap whose record is out. -/

theorem witness_nan_operands : Fmt.f32.source false 0x7FC00000 = .nan false ∧ (Fmt.f32.source true 0x7F800001).raisesNV = true ∧
    [Fmt.f16, .f32, .f64, .bf16].all (fun f => f.hasInf && f.source false f.nan == .nan false) = true := by decide

/-- A trap that a rollback has made due again, and one whose record is not out. -/
def stTold (told : Bool) : State := stW fun w => { w with told := if told then [1] else [] }
theorem witness_told : [true, false].all (fun b => ((stTold b).wave? 1).any fun w => !w.service && w.st != .solo &&
    w.told.contains (raised .poison).no == b) = true ∧ (raised .poison).trap.cause = .poison ∧
    (st.ctx 1).claim.testBit (2 * Cause.poison.claimClass) = false ∧
    ((stClaim 0x55555).ctx 1).claim.testBit (2 * Cause.poison.claimClass) = true ∧
    ((stServ.wave? 1).any fun w => w.service) = true ∧ ((stSolo.wave? 1).any fun w => w.st == .solo && !w.service) = true := by
  decide

/-! Keys held and counted, probes that answer at once, and requests of the host for the first and the last line. -/

def stKeys (key : Nat) : State := st.modHomes fun h => { h with
  keys := [⟨home 0x10100, 4, 0, key, 7#64, some (home 0x10200, 2)⟩] }
theorem witness_held_keys : (stKeys 0).homes.keys.find? (fun k => k.loc == home 0x10100 && k.key == (stKeys 0).keyNext (home 0x10100)) =
      some ⟨home 0x10100, 4, 0, 0, 7#64, some (home 0x10200, 2)⟩ ∧
    ((stKeys 3).homes.keys.all fun k => k.key != (stKeys 3).keyNext (home 0x10100)) = true ∧
    ((stKeys 3).homes.keys.any fun k => k.loc == home 0x10100 && k.key == 3) = true ∧
    ((stKeys 3).deliverKey 0 (opAt 16 3) (some (home 0x10200, 1))).isSome = true ∧ (stKeys 3).dev.hbmErrors = [] := by decide

theorem witness_silent_probes : (let s := stMsg (.probe 0 0x10100 none 9 (some 2))
     (s.noFill 0 fun l => l.frameLine == dirLine 0x10100).residentOn 2 0 = false) ∧
    (let s := (stMsg (.probe 0 0x10100 none 9 none)).modCore 0 fun c => { c with gated := true }
     ((s.noFill 0 fun l => l.frameLine == dirLine 0x10100).core 0).gated = true) := by decide

theorem witness_host_lines : [0, 0x5FFFFFFFC0].all (fun k =>
    decide (Config.hostBase ≤ Config.hostBase + k ∧ (Config.hostBase + k - Config.hostBase) % 64 + 64 ≤ 64 ∧
      Config.hostBase + k - Config.hostBase + 64 ≤ 0x6000000000)) = true ∧
    ¬((Config.hostBase + 0x3C - Config.hostBase) % 64 + 8 ≤ 64) := by
  simp [List.all]

theorem witness_snoop_free : st.homes.dir.any (fun d => d.line == (Loc.dirKey ⟨.host, 0⟩) && d.bad) = false ∧
    st.homes.hostReqs.any (fun r => (r.kind == 3 || r.kind == 4) && r.addr == Loc.dirKey ⟨.host, 0⟩) = false ∧
    (List.range 64).any (fun c => ((st.probeCores (Loc.dirKey ⟨.host, 0⟩)).foldl (fun s c =>
      s.writebackWhere c (fun f => f.loc == ⟨.host, 0⟩) (0, 0)) st).writebackPending c fun l _ => l == ⟨.host, 0⟩) = false := by decide

/-! Entries read back after a stop or a Blocked queue, entries behind a skipped one's chunks, and the choice of an engine. -/

/-- A started COPY of 64 bytes that is resumed, its slot's STATUS as given. -/
def stResume (status : Nat) : State :=
  stQ .running (some { copying 64 true [] with resume := true }) 1 ((copyImage 64).take 4 ++ leBytes 4 status ++ (copyImage 64).drop 8)
theorem witness_resumed : [0, 1, 4].all (fun st_ => readyFor (stResume st_) { copying 64 true [] with resume := true } (fun _ => true) &&
    (match (stResume st_).reach 0 1 0x10800 128 .both with
      | .ok l u => u.natAt (l.plus 4) 4 == st_
      | _ => false) && (stResume st_).dev.hbmErrors.isEmpty) = true := by decide

/-- A COPY behind the chunks of an entry that was skipped. -/
theorem witness_behind_skipped : let s := (stQ .running (some (copying 64 false [])) 1 (copyImage 64)).modQueue 1 true 0 fun x => { x with
      left := [{ copying 70000 true [(0, 3)] with seq := 9 }] }
    ((s.entryHolds 1 0 (copying 64 false [])).2.queue 1 true 0).left ≠ [] := by decide

theorem witness_bind : let s := stQ .running (some (copying 70000 true [])) 1 (copyImage 70000)
    decides s (fun t => t.engineFree 0 && t.prio 1 == 0) = true ∧
    ((s.setRecorded (home 0x100100) 5 0).tableRead (List.range 64)).1 = false := by decide

/-- A chunk of one run in the hands of engine 5, from poisoned bytes to host memory or not. -/
def stLast (host : Bool) : State × Entry :=
  let img := leBytes 8 1 ++ leBytes 8 (if host then 0x20000 else 0x11000) ++ leBytes 8 0x12000 ++ leBytes 8 64 ++ List.replicate 96 0#8
  let e := { copying 64 true [(0, 5)] with image := img }
  let s := { (stQ .running (some e) 1 img) with engines := updAt 5 (fun _ => ⟨some (1, 0, 0), []⟩) (List.replicate 128 .idle) }
  ({ s with mem := ((s.mem.setNat 0x5010 8 0x2003F).setPoison (0x12000 / 32) true) }, e)
theorem witness_poisoned_chunk : [false, true].all (fun host => ((stLast host).1.engines.getD 5 .idle).work == some (1, 0, 0) &&
    readyFor (stLast host).1 (stLast host).2 fun t => match t.reachRuns 0 1 false ((stLast host).2.runs 0) with
      | .ok (places, u) => (places.all fun p => p.1.all (·.1.sp == .host)) == host && places.any (fun p =>
          anyPoison (u.readSpread p.2.1).1) && (u.queue 1 true 0).st == .running && !(u.queue 1 true 0).stopping
      | .error _ => false) = true := by decide

/-! Turns of a contribution at its group's home, the full buffer of a slice, and slot releases of every lane. -/

theorem witness_gred_turns : let t := (stHomeGroup 1 contribution).pollGroups
    (t.msg? 1).any (fun m => (t.homeTurn m (home 0x14000) 128 0 none true).1) = true ∧
    (let u := { t with msgs := t.msgs ++ [(⟨0, 1, 0, 0, 1, .writeback 0 (home 0x14000) [(3, ⟨9, false⟩)] 0#4 0 0 1⟩ : Msg)] }
     (u.msg? 1).any (fun m => (u.homeTurn m (home 0x14000) 128 0 none true).1) = false) := by decide

/-- The slice of the group holds 64 contributions of its wave for later rounds. -/
def fullGroup : GroupHold := { groupAt with contrib := List.replicate 64 (1, 9, 0, []) }
def stFullGroup : State := (stHomeGroup 1 contribution).modHomes fun h => { h with groups := [fullGroup] }
theorem witness_contribution_refused : ∀ w ∈ stFullGroup.waves,
    stFullGroup.groupContribute fullGroup w 1 0 (List.replicate 32 (some 1#64)) = none := by
  have h : (stFullGroup.homes.groups.filter fun g => stFullGroup.sliceOf g.loc == stFullGroup.sliceOf fullGroup.loc) =
      [fullGroup] := by
    rw [show stFullGroup.homes.groups = [fullGroup] from rfl]
    simp
  unfold State.groupContribute
  simp only [h]
  decide

theorem witness_slot_release_lanes : [false, true].all (fun bad =>
    hyp (stW (withRegs [(6, clean fun _ => 0x10100), (12, fun i => ⟨1#32, bad && i == 3⟩)])) (.putmRel mL) fun x =>
      !x.full x.lanes.length && (x.lanes.any fun l => (x.reg mL.c 0 l).poison) == bad &&
      x.lanes.all (fun l => (x.addr mL l).bits.toNat / 2 ^ 62 == 0) &&
      (match x.locate x.lanes (x.addr mL) 128 .both (fun _ _ => none) with
      | .ok _ ((_, .mem _) :: _) => true
      | _ => false)) = true := by decide

/-- A repeated atomic whose checks the owner's tables let pass, on either die. -/
theorem witness_repeated_request : [0, 1].all (fun die => match stServed.gate die (reqTo .atomic 7) with
      | some (.ok _ _ _ _) => true
      | _ => false) = true ∧ (reqTo .atomic 7).tIncarn = stServed.incarn := by decide

/-- A delayed flit, and an injector that has met none. -/
theorem witness_injectors : let met : Injector := { Injector.off with mode := 3, hit := some .received, late := [.received] }
    Injector.off.hit = none ∧ Injector.off.late = [] ∧ met.hit = some .received ∧ met.late = [.received] := by decide

/-- A cell that only stores have set up completes its phase before it is met. -/
theorem witness_met_cell : let s := (stCell 0).modHomes fun h => { h with cells := [] }
    (s.meetCell (home 0x10100)).natAt (home 0x10100) 4 = 2 ∧ (s.meetCell (home 0x10100)).natAt (home 0x10108) 4 = 1 := by decide

/-- A wave that is away, with the contexts table at its home or in the hands of another core's writes; with work of a context
of higher PRIO behind it, and without. -/
def stAbove : State := { stAwayBehind with
  mem := stAwayBehind.mem.setNat 0x100204 1 7
  blocks := stAwayBehind.blocks ++ stAwayBehind.blocks.map fun b => { b with id := 2, ctx := 2 } }
theorem witness_table_for_restore : decides stAway (fun t => (t.wave? 1).any fun w => w.away && t.placeable 1 && t.homeCore w 5 &&
      t.waveFits 5 w [] && !(t.goesAbove 5 (t.prio 1))) = true ∧
    decides stAbove (fun t => (t.wave? 1).any fun w => w.away && t.placeable 1 && t.homeCore w 5 && t.waveFits 5 w [] &&
      t.goesAbove 5 (t.prio 1)) = true ∧
    decides stAwayBehind (fun t => (t.wave? 2).any fun w => w.away && t.placeable 2 && !(t.goesAbove 5 (t.prio 2)) && !t.urgent w) = true ∧
    ((stAway.setRecorded (home 0x100100) 5 0).tableRead (List.range 64)).1 = false := by decide

theorem witness_rollbacks : ((at_ stCk 400).wave? 1).any (fun w => (w.target 400).any fun k => decide (k.clk + 128 ≤ 400)) = true ∧
    (stCk.wave? 1).any (fun w => (w.target 0) == w.ckpts.head? && w.ckpts.head?.isSome) = true ∧
    (st.dev.on = true ∧ 0 < 256) := by decide

/-! Operands that stop an instruction, with the lowest failing lane deciding (R97). -/

/-- A place lookup fails with cause `c`, naming `lane`. -/
def failing (r : Located) (c : Cause) (lane : Nat) : Bool := match r with
  | .fail _ f => f.cause == c && hasLane f.lanes lane
  | _ => false
/-- Lane 0 and lane 1 with different operands. -/
def twoLanes (n a b : Nat) : List (Nat × (Nat → Val)) := [(n, clean fun l => if l = 0 then a else if l = 1 then b else 0x10100)]
theorem witness_array_lanes : let g := gen .w64 4 6 112 0 0
    let s (a b : Val) := stM.modWave 1 (withRegs [(6, fun l => if l = 0 then a else if l = 1 then b else ⟨0#32, false⟩)])
    let first (x : Iss) (k : Nat) (o : Bool) : Bool :=
      (x.lanes.find? fun l => decide (8 < (x.a32 g l).bits.toNat + 1) || (x.a32 g l).poison) == some k &&
        decide (8 < (x.a32 g k).bits.toNat + 1) == o
    hyp (s ⟨8#32, true⟩ ⟨7#32, true⟩) (.lda g) (fun x => first x 0 true) = true ∧
    hyp (s ⟨7#32, true⟩ ⟨8#32, false⟩) (.sta g) (fun x => first x 0 false) = true := by decide
theorem witness_sys_numbers : moves (stSolo.modWave 1 (withRegs [(6, clean fun _ => 32), (7, clean fun _ => 0)])) .sysSmovw
      (smovw 0x00C) 0x00C true (fun x => x.width ≤ (x.a64 (smovw 0x00C) x.first).bits.toNat) = true ∧
    [0x169, 0x010, 0x0FF].all (fun n => moves stSolo .sysSmovw (smovw n) n true fun _ => true) = true := by decide
theorem witness_sys_poison : let s := stP.modWave 1 fun w => { withRegs [(6, fun _ => ⟨0#32, true⟩), (8, fun _ => ⟨0#32, true⟩)] w with st := .solo }
    let g (sub : BitVec 5) (d : Fld) : Gen := gen .w64 d 6 8 0 sub
    [Instr.sysSmovr (g 1 4), .sysSmovw (g 2 0), .sysTlbinv (g 3 0), .sysQctl (g 10 0), .sysRankw (g 6 0), .sysInj (g 9 0),
      .sysBiasset (g 13 0)].all (fun i => hyp s i fun x => (x.a64 (g 0 0) x.first).poison && (x.b32 (g 0 0) x.first).poison) = true ∧
    [Instr.sysEvict (gen .w64 0 0 8 0 5), .sysWake (gen .w64 0 0 8 0 14), .sysGkill (gen .w64 0 0 8 0 11),
      .sysGrelaunch (gen .w64 0 0 8 0 12)].all (fun i => hyp s i fun x => (x.b32 (g 0 0) x.first).poison) = true ∧
    [Instr.sysClaimd (gen .w64 0 6 0 0 7), .sysClaimf (gen .w64 0 6 0 0 8)].all
      (fun i => hyp s i fun x => (x.a64 (g 0 0) x.first).poison) = true := by decide
theorem witness_sys_ranges :
    let at_ (i : Gen → Instr) (g : Gen) (n : Nat) (p : Iss → Nat → Bool) : Bool :=
      hyp (stImg 0x10400 []) (i g) fun x => (x.b32 g x.first).bits.toNat == n && p x (x.a64 g x.first).bits.toNat
    at_ .sysEvict (sysLit 5 0 64) 64 (fun _ _ => true) = true ∧ [0, 64].all (fun n => at_ .sysWake (sysLit 14 0 n) n fun _ _ => true) = true ∧
    [0x10020, 0x100FF, 0x10101, 0x101FF, 0x10300].all (fun n => at_ .sysRankw (sysLit 6 6 n) n fun _ _ => true) = true ∧
    at_ .sysInj (sysLit 9 6 96) 96 (fun _ _ => true) = true ∧
    hyp stS (.sysInj (sysLit 9 6 95)) (fun x => !x.s.dev.features.testBit 0) = true ∧
    at_ .sysGkill (sysLit 11 0 1) 1 (fun x _ => x.sysLaunch.any fun l => l.gangs.length ≤ 1) = true ∧
    [Instr.sysGkill (sysLit 11 0 0), .sysGrelaunch (sysLit 12 0 0)].all (fun i =>
      hyp { stS with sched := { stS.sched with launches := [] } } i fun x => x.sysLaunch.isNone) = true ∧
    hyp stS (.sysBiasset (sysLit 13 6 2)) (fun x => (x.a64 (sysLit 13 6 2) x.first).bits.toNat % 4096 == 0) = true ∧
    hyp (stImg 0x10401 []) (.sysBiasset (sysLit 13 6 1)) (fun x => (x.a64 (sysLit 13 6 1) x.first).bits.toNat % 4096 != 0) = true := by
  decide
theorem witness_queue_operand : let q := Instr.sysQctl (sysLit 10 6 1)
    let at_ (lo hi : Nat) := (stImg 0x10400 []).modWave 1 fun w =>
      { withRegs [(6, clean fun _ => lo), (7, clean fun _ => hi)] w with st := .solo }
    let a (x : Iss) : Nat := (x.a64 (sysLit 10 6 1) x.first).bits.toNat
    hyp (at_ 0x10400 0x02000000) q (fun x => 2 ^ 57 ≤ a x) = true ∧
    hyp (at_ 0x10480 0x01000000) q (fun x => a x < 2 ^ 57 && match x.s.vaContext x.w (a x) with
      | some (c, va) => (x.s.ctx c).saving != some .suspend && (x.s.queueAt c va).isNone
      | none => false) = true ∧
    hyp ((at_ 0x10400 0x01000000).modWave 1 fun w => { w with service := true }) q
      (fun x => a x < 2 ^ 57 && (x.s.vaContext x.w (a x)).isNone) = true ∧
    [9, 0x900].all (fun n => hyp (at_ n 0) (.sysQctl (sysLit 10 6 0x20)) fun x => 8 < a x % 16 || 8 < bitsOf (a x) 11 8) = true := by decide

theorem witness_load_fails : let m := mem .w64 4 6 8 0 0 .b32 .relaxed .device
    hyp (stW (withRegs (twoLanes 6 0x10100 0x10102))) (.ld m) (fun x =>
      failing (x.locate x.lanes (x.addr m) 4 Need.read fun _ _ => none) .align 1) = true := by decide
/-- The home's die is one of the two (`home_die`). -/
theorem witness_counter_waits : let m := mem .w64 0 6 8 12 0 .b32 .acquire .job
    let own := stRegion.modWave 1 (withRegs [(6, clean fun _ => 0x100), (7, clean fun _ => 0x40000000)])
    let far := stR [(6, 0x100), (7, 0x40000000)]
    let found (x : Iss) := x.locate [x.first] (x.addr m) 4 Need.read (fun _ k => match k with
      | .placed (.far r _ _) => if r = x.s.ownRank then none else some ⟨.address, (x.addr m x.first).bits, some 6⟩
      | _ => none) (fun _ _ => anyPoison (x.dataOf m.c 4 x.first))
    let region (x : Iss) (p : RegionAt → State → Bool) : Bool := match found x with
      | .ok u [(_, .far r g f)] => x.w.took.isEmpty && x.w.seq < 2 ^ 24 && !x.full 1 && p (u.regionCheck r g f 4 0) u
      | _ => false
    hyp (stAt []) (.cwait m) (fun x => !x.full 1 && match found x with
      | .ok _ ((_, .mem _) :: _) => true
      | _ => false) = true ∧
    hyp (stR [(6, 0x10102)]) (.cwait m) (fun x => failing (found x) .align 0) = true ∧
    hyp own (.cwait m) (fun x => region x fun r u => match r with
      | .ok c va => [0, 1].all fun die => match u.translate none die c va Need.read with
        | .ok _ _ => true
        | _ => false
      | _ => false) = true ∧
    hyp far (.cwait m) (fun x => region x fun r _ => match r with
      | .denied _ => true
      | _ => false) = true := by decide
theorem witness_compact_store_stops : let m := mem .w64 4 6 112 12 1 .b32 .relaxed .device
    let poisoned (l : List (Nat × (Nat → Val))) := stW (withRegs ((12, fun _ => ⟨0#32, true⟩) :: l))
    let last (x : Iss) : Nat := ((x.addr m x.first).bits.toNat + (x.lanes.length - 1) * 4) % 2 ^ 64
    let named (x : Iss) (a : Nat) : Bool := match x.s.nameOf x.w a with
      | .bad _ => false
      | _ => true
    let goes (x : Iss) : Packed := x.pack 4 (x.addr m x.first).bits.toNat (fun l => anyPoison (x.dataOf m.c 4 l)) x.lanes 0 x.s []
    hyp (stW (withRegs [(6, fun _ => ⟨0#32, true⟩)])) (.cstore m) (fun x => (x.addr m x.first).poison) = true ∧
    hyp (stR [(6, 0x10102)]) (.cstore m) (fun x => (x.addr m x.first).bits.toNat % 4 != 0) = true ∧
    hyp (stR [(6, 0xFFFFFFFC), (7, 0x01FFFFFF)]) (.cstore m) (fun x => named x (x.addr m x.first).bits.toNat && !named x (last x)) = true ∧
    hyp (poisoned [(6, clean fun _ => 0x100), (7, clean fun _ => 0x40000000)]) (.cstore m) (fun x => named x (last x) &&
      x.lanes.any fun l => anyPoison (x.dataOf m.c 4 l)) = true ∧
    hyp (stR [(6, 0x1FFF0)]) (.cstore m) (fun x => match goes x with
      | .page _ ps k _ _ => k == 4 && ps.length == 4 && !x.full (x.requests ps)
      | _ => false) = true ∧
    [(0x20000, 0), (0x1FFF0, 4)].all (fun e =>
      hyp { stHost with waves := (poisoned [(6, clean fun _ => e.1)]).waves } (.cstore m) fun x => match goes x with
        | .poison _ ps _ _ => ps.length == e.2 && !x.full (x.requests ps)
        | _ => false) = true := by decide

/-- The register forms of the accumulator with a column beyond 128, and the memory forms that fail. -/
theorem witness_accumulator_stops : let m := mem .w64 1 6 8 0 0 .b128 .relaxed .device
    let at_ (a : Nat) : State := stT.modWave 1 (withRegs [(6, clean fun _ => a)])
    let poisoned (s : State) : State := s.modWave 1 fun w => { w with accs := w.accs.map fun a => { a with data := a.data.setPoison 0 true } }
    let late (x : Iss) : Bool := x.s.earlierOn x.w x.no none (some 1) fun _ => true
    hyp (at_ 125) (.accrd (gen .w64 8 2 6 0 3)) (fun x => !x.matrixHeld none (some 2) && !x.queueFull &&
      x.lanesWhere (fun l => decide (128 < (x.b32 (gen .w64 8 2 6 0 3) l).bits.toNat + 8)) != 0#64) = true ∧
    hyp (at_ 127) (.accwr (gen .w64 2 8 6 0 1)) (fun x => !x.matrixHeld none (some 2) && !x.queueFull &&
      x.lanesWhere (fun l => decide (128 < (x.b32 (gen .w64 2 8 6 0 1) l).bits.toNat + 2)) != 0#64) = true ∧
    hyp (at_ 0x10104) (.accld m) (fun x => !x.matrixHeld none (some 1) &&
      failing (x.locate x.lanes (x.addr m) (accPart m).1 Need.read fun _ _ => none) .align 0) = true ∧
    hyp (at_ 0x10104) (.accst m) (fun x => !x.matrixHeld none (some 1) && !late x &&
      failing (x.locate x.lanes (x.addr m) (accPart m).1 Need.write fun _ _ => none) .align 0) = true ∧
    hyp { stHost with waves := (poisoned (at_ 0x20000)).waves } (.accst m) (fun x => !x.matrixHeld none (some 1) && !late x &&
      failing (x.locate x.lanes (x.addr m) (accPart m).1 Need.write (fun _ _ => none)
        fun l p => p.traps && (x.w.accs.getD 1 ⟨.empty, false⟩).rowPoison l) .poison 0) = true := by decide
theorem witness_qpush_fails : hyp { stPush 0x8000 with mem := (stPush 0x8000).mem.setPoison (0x10100 / 32) true } (.qpush mQ)
    (fun x => failing (pushPlaces x) .poison 0) = true ∧
    hyp ((stPush 0).modWave 1 (withRegs [(6, clean fun _ => 0x10108), (12, clean fun _ => 0x8000)])) (.qpush mQ) (fun x => failing (pushPlaces x) .align 0) = true := by decide
theorem witness_link_fails : let src (x : Iss) (l : Nat) : Nat := (Val.join (x.reg mL.c 0 l) (x.reg mL.c 1 l)).bits.toNat
    let len (x : Iss) (l : Nat) : Nat := (x.reg mL.c 2 l).bits.toNat
    let far := [(6, clean fun _ => 0x100), (7, clean fun l => if l = 1 then 0x40000 else 0x40000000), (12, clean fun l => if l = 0 then 0x7000000 else 0x10100),
      (14, clean fun _ => 64), (16, clean fun _ => 0x200), (17, clean fun _ => 0x40000000)]
    hyp (stW (withRegs far)) (.putf mL) (fun x => failing (x.locate x.lanes (x.addr mL) 1 Need.read (fun l k => match k with
      | .bad e => if (x.addr mL l).bits.toNat / 2 ^ 62 = 1 then some e else some ⟨.address, (x.addr mL l).bits, some 6⟩
      | .placed (.far _ _ _) => none
      | _ => some ⟨.address, (x.addr mL l).bits, some 6⟩) (later := x.sourceCheck (src x) (len x))) .dataPage 0) = true ∧
    hyp (stW (withRegs [(6, clean fun _ => 0x10100), (12, clean fun l => if l = 0 then 0x7000000 else 0x10140), (14, clean fun _ => 64)]))
      (.putm mL) (fun x => failing (x.locate x.lanes (x.addr mL) 64 Need.both (fun l k => mailClass (x.addr mL l).bits k)
        (later := x.sourceCheck (src x) (len x))) .dataPage 0) = true ∧
    hyp (stW (withRegs [(6, clean fun l => if l = 1 then 0x10101 else 0x10100), (12, fun l => ⟨0#32, l == 0⟩)])) (.putmRel mL) (fun x =>
      failing (x.locate x.lanes (x.addr mL) 128 Need.both (fun l k => mailClass (x.addr mL l).bits k) fun l _ => (x.reg mL.c 0 l).poison)
        .poison 0) = true ∧
    hyp (stR [(20, 0x100), (22, 0x20000)]) (.coll mC) (fun x => failing (collPlaces x) .address 0) = true ∧
    hyp (stW (withRegs [(20, clean fun _ => 0x100), (12, fun l => ⟨0#32, l == 3⟩)])) (.coll mC) (fun x =>
      failing (collPlaces x) .poison 3) = true := by decide

end Sys2Proof.Tests
end

section
/-! SUPPORT. The arithmetic of the integer meanings on words of any width: products, shifts and the variants of BITS. -/

namespace Sys2Proof.Machine

/-! Exact integers and words (R171). -/

@[simp] theorem ofInt_exactInt (u : Bool) {w : Nat} (b : BitVec w) : BitVec.ofInt w (exactInt u b) = b := by
  cases u <;> simp [exactInt]

/-! The shifts (R172). -/

theorem ofNat_shlBits {w : Nat} (a : BitVec w) (n : Nat) : BitVec.ofNat w (shlBits w a.toNat n) = a <<< n := by
  unfold shlBits
  split
  · next h => exact (BitVec.shiftLeft_eq_zero h).symm
  · exact BitVec.eq_of_toNat_eq (by simp [Nat.shiftLeft_eq])

theorem ofNat_shrBits {w : Nat} (a : BitVec w) (n : Nat) : BitVec.ofNat w (shrBits w a.toNat n) = a >>> n := by
  unfold shrBits
  split
  · next h => exact (BitVec.ushiftRight_eq_zero h).symm
  · rw [← Nat.shiftRight_eq_div_pow, ← BitVec.toNat_ushiftRight, BitVec.ofNat_toNat, BitVec.setWidth_eq]

/-- A count beyond the width shifts in no more than the sign. -/
theorem sshiftRight_min {w : Nat} (a : BitVec w) (n : Nat) : a.sshiftRight (min n w) = a.sshiftRight n := by
  rcases Nat.le_total n w with h | h
  · rw [Nat.min_eq_left h]
  · rw [Nat.min_eq_right h]
    ext i hi
    simp [BitVec.getElem_sshiftRight, show ¬ w + i < w by omega, show ¬ n + i < w by omega]

theorem ofNat_sarBits {w : Nat} (a : BitVec w) (n : Nat) : BitVec.ofNat w (sarBits w a.toNat n) = a.sshiftRight n := by
  rw [sarBits, ofNat_intBits, signedOf_toNat, ← sshiftRight_min, BitVec.sshiftRight, Int.shiftRight_eq_div_pow]
  norm_cast

/-! The variants of BITS (R173). -/

theorem foldl_count (p : Nat → Bool) (l : List Nat) (n : Nat) :
    l.foldl (fun n j => if p j then n + 1 else n) n = n + l.countP p := by
  induction l generalizing n with
  | nil => rfl
  | cons j l ih => rw [List.foldl_cons, ih, List.countP_cons]; split <;> omega

theorem popCount_toNat {w : Nat} (a : BitVec w) :
    popCount w a.toNat = (List.range w).countP (fun j => a.getLsbD j) := by
  rw [popCount, foldl_count, Nat.zero_add]; rfl

/-- The first k of the numbers below w pass a test, and the next one, where there is one, does not. -/
theorem length_takeWhile_range {p : Nat → Bool} {k w : Nat} (hk : k ≤ w) (hp : ∀ j < k, p j = true)
    (hn : k < w → p k = false) : ((List.range w).takeWhile p).length = k := by
  obtain ⟨n, rfl⟩ := Nat.exists_eq_add_of_le hk
  rw [List.range_add, List.takeWhile_append_of_pos (by simpa using hp)]
  cases n with
  | zero => simp
  | succ n => simp [List.range_succ_eq_map, hn (by omega)]

theorem leadingZeros_toNat {w : Nat} (a : BitVec w) :
    leadingZeros w a.toNat = ((List.range w).takeWhile (fun j => !a.getLsbD (w - 1 - j))).length := by
  unfold leadingZeros
  split
  · next h =>
    refine (length_takeWhile_range le_rfl (fun j _ => ?_) (by omega)).symm
    simp [BitVec.getLsbD, h]
  · next h =>
    have hlog : a.toNat.log2 < w := (Nat.log2_lt h).2 a.isLt
    refine (length_takeWhile_range (by omega) (fun j hj => ?_) fun _ => ?_).symm
    · have : a.toNat < 2 ^ (w - 1 - j) := (Nat.log2_lt h).1 (by omega)
      simp [BitVec.getLsbD, Nat.testBit_lt_two_pow this]
    · rw [show w - 1 - (w - 1 - a.toNat.log2) = a.toNat.log2 by omega]
      simp [BitVec.getLsbD, Nat.testBit_log2 h]

theorem trailingZeros_toNat {w : Nat} (a : BitVec w) :
    trailingZeros w a.toNat = ((List.range w).takeWhile (fun j => !a.getLsbD j)).length := by
  unfold trailingZeros
  cases h : (List.range w).find? (fun j => a.toNat.testBit j) with
  | none =>
    rw [List.find?_range_eq_none] at h
    exact (length_takeWhile_range le_rfl h (by simp)).symm
  | some k =>
    obtain ⟨hk, hmem, hlow⟩ := List.find?_range_eq_some.1 h
    exact (length_takeWhile_range (List.mem_range.1 hmem).le hlow fun _ => by simp [hk]).symm

/-- The sum of the powers of two that a test picks has the bits picked. -/
theorem foldl_twoPow (p : Nat → Bool) (k : Nat) :
    let r := (List.range k).foldl (fun r j => if p j then r + 2 ^ j else r) 0
    r < 2 ^ k ∧ ∀ i, r.testBit i = (decide (i < k) && p i) := by
  induction k with
  | zero => simp
  | succ k ih =>
    obtain ⟨hlt, hbit⟩ := ih
    rw [List.range_succ, List.foldl_append, List.foldl_cons, List.foldl_nil]
    set r := (List.range k).foldl (fun r j => if p j then r + 2 ^ j else r) 0
    have hpow : 2 ^ (k + 1) = 2 ^ k + 2 ^ k := by ring
    have hstep (i : Nat) : (decide (i < k + 1) && p i) = (decide (k = i) && p k || decide (i < k) && p i) := by
      rcases Nat.lt_trichotomy i k with h | rfl | h
      · simp [h, h.ne', Nat.lt_succ_of_lt h]
      · simp
      · simp [h.ne, h.not_gt, show ¬ i < k + 1 by omega]
    split
    · next hk =>
      have hor : r + 2 ^ k = 2 ^ k ||| r := by
        rw [Nat.add_comm]; simpa using Nat.two_pow_add_eq_or_of_lt hlt 1
      refine ⟨by omega, fun i => ?_⟩
      rw [hor, Nat.testBit_or, Nat.testBit_two_pow, hbit, hstep, hk, Bool.and_true]
    · next hk =>
      refine ⟨by omega, fun i => ?_⟩
      rw [hbit, hstep, Bool.eq_false_of_not_eq_true hk, Bool.and_false, Bool.false_or]

theorem ofNat_reverseBits {w : Nat} (a : BitVec w) : BitVec.ofNat w (reverseBits w a.toNat) = a.reverse := by
  apply BitVec.eq_of_getLsbD_eq
  intro i hi
  rw [reverseBits, BitVec.getLsbD_ofNat, (foldl_twoPow (fun j => a.toNat.testBit (w - 1 - j)) w).2,
    BitVec.getLsbD_reverse]
  simp [BitVec.getMsbD, BitVec.getLsbD, hi]

theorem ofNat_signedField {w l : Nat} (a : BitVec w) (p : Nat) :
    BitVec.ofNat w (if l = 0 then 0 else intBits w (signedOf l (a.toNat / 2 ^ p % 2 ^ l))) =
      ((a >>> p).setWidth l).signExtend w := by
  have hf : ((a >>> p).setWidth l).toNat = a.toNat / 2 ^ p % 2 ^ l := by simp [Nat.shiftRight_eq_div_pow]
  split
  · next h => subst h; simp [BitVec.signExtend, BitVec.of_length_zero]
  · rw [ofNat_intBits, ← hf, signedOf_toNat]; rfl

theorem ofNat_complement {w : Nat} (m : BitVec w) : BitVec.ofNat w (2 ^ w - 1 - m.toNat) = ~~~m := by
  rw [← BitVec.toNat_not, BitVec.ofNat_toNat, BitVec.setWidth_eq]

/-- INSERT's mask loses no bit where the field lies within the word. -/
theorem toNat_fieldOnes {w p l : Nat} (h : p + l ≤ w) :
    (BitVec.ofNat w ((2 ^ l - 1) <<< p)).toNat = (2 ^ l - 1) * 2 ^ p := by
  have hl : 2 ^ l - 1 < 2 ^ l := Nat.sub_lt (by positivity) one_pos
  have hlt : (2 ^ l - 1) * 2 ^ p < 2 ^ w :=
    calc (2 ^ l - 1) * 2 ^ p < 2 ^ l * 2 ^ p := Nat.mul_lt_mul_of_pos_right hl (by positivity)
      _ = 2 ^ (p + l) := by rw [Nat.pow_add, Nat.mul_comm]
      _ ≤ 2 ^ w := Nat.pow_le_pow_right (by omega) h
  rw [BitVec.toNat_ofNat, Nat.shiftLeft_eq, Nat.mod_eq_of_lt hlt]

theorem ofNat_insertField {w p l : Nat} (a c : BitVec w) (h : p + l ≤ w) :
    BitVec.ofNat w ((c.toNat &&& (2 ^ w - 1 - (2 ^ l - 1) * 2 ^ p)) ||| (a.toNat * 2 ^ p % 2 ^ w &&& (2 ^ l - 1) * 2 ^ p)) =
      (c &&& ~~~BitVec.ofNat w ((2 ^ l - 1) <<< p)) ||| ((a <<< p) &&& BitVec.ofNat w ((2 ^ l - 1) <<< p)) := by
  rw [← toNat_fieldOnes h, ← BitVec.toNat_not, ← Nat.shiftLeft_eq a.toNat, ← BitVec.toNat_shiftLeft, ← BitVec.toNat_and,
    ← BitVec.toNat_and, ← BitVec.toNat_or, BitVec.ofNat_toNat, BitVec.setWidth_eq]

/-- The two parts of a rotated word do not overlap, so that they may be added. -/
theorem ofNat_rotatedParts {w r t : Nat} (a : BitVec w) (h : r + t = w) :
    BitVec.ofNat w (a.toNat * 2 ^ r + a.toNat / 2 ^ t) = a <<< r ||| a >>> t := by
  rw [BitVec.ofNat_add, ← BitVec.add_eq_or_of_and_eq_zero]
  · congr 1
    · exact BitVec.eq_of_toNat_eq (by simp [Nat.shiftLeft_eq])
    · rw [← Nat.shiftRight_eq_div_pow, ← BitVec.toNat_ushiftRight, BitVec.ofNat_toNat, BitVec.setWidth_eq]
  · ext i hi
    simp only [BitVec.getElem_and, BitVec.getElem_shiftLeft, BitVec.getElem_ushiftRight, BitVec.getElem_zero]
    rcases Nat.lt_or_ge i r with hr | hr
    · simp [hr]
    · rw [BitVec.getLsbD_of_ge a (t + i) (by omega), Bool.and_false]

theorem ofNat_mod_twoPow (w n : Nat) : BitVec.ofNat w (n % 2 ^ w) = BitVec.ofNat w n :=
  BitVec.eq_of_toNat_eq (by simp)

theorem ofNat_rotl {w : Nat} (a : BitVec w) {r : Nat} (h : r < w) :
    BitVec.ofNat w ((a.toNat * 2 ^ r + a.toNat / 2 ^ (w - r)) % 2 ^ w) = a.rotateLeft r := by
  rw [ofNat_mod_twoPow, ofNat_rotatedParts a (by omega), BitVec.rotateLeft_eq_rotateLeftAux_of_lt h]
  rfl

theorem ofNat_rotr {w : Nat} (a : BitVec w) {r : Nat} (h : r < w) :
    BitVec.ofNat w ((a.toNat / 2 ^ r + a.toNat * 2 ^ (w - r)) % 2 ^ w) = a.rotateRight r := by
  rw [ofNat_mod_twoPow, Nat.add_comm, ofNat_rotatedParts a (by omega), BitVec.or_comm,
    BitVec.rotateRight_eq_rotateRightAux_of_lt h]
  rfl

theorem toNat_append_mul {w : Nat} (a c : BitVec w) : (a ++ c).toNat = a.toNat * 2 ^ w + c.toNat := by
  rw [BitVec.toNat_append, ← Nat.shiftLeft_add_eq_or_of_lt c.isLt, Nat.shiftLeft_eq]

/-- R173, variant by variant: the model's arithmetic on numbers gives the rule's word. Variants 11 and 12 read their B
from m, the others from b. -/
theorem ofNat_bitsOp (v : Nat) {w : Nat} (hw : 0 < w) (a m c : BitVec w) (b : Nat) :
    BitVec.ofNat w (bitsOp v w a.toNat (if v = 11 ∨ v = 12 then m.toNat else b) c.toNat) = bitsResult v a m b c := by
  have hfield : min (b % 256) w + min (b / 256 % 256) (w - min (b % 256) w) ≤ w := by omega
  match v with
  | 0 => exact congrArg (BitVec.ofNat w) (popCount_toNat a)
  | 1 => exact congrArg (BitVec.ofNat w) (leadingZeros_toNat a)
  | 2 => exact congrArg (BitVec.ofNat w) (trailingZeros_toNat a)
  | 3 => exact ofNat_reverseBits a
  | 4 => exact ofNat_signedField a _
  | 5 => simp [bitsOp, bitsResult, Nat.shiftRight_eq_div_pow]
  | 6 => exact ofNat_insertField a c hfield
  | 7 => exact ofNat_rotl a (Nat.mod_lt b hw)
  | 8 => exact ofNat_rotr a (Nat.mod_lt b hw)
  | 9 => simp [-BitVec.toNat_append, bitsOp, bitsResult, toNat_append_mul, Nat.shiftLeft_eq, ofNat_mod_twoPow]
  | 10 => simp [-BitVec.toNat_append, bitsOp, bitsResult, toNat_append_mul, Nat.shiftRight_eq_div_pow, ofNat_mod_twoPow]
  | 11 => simp [bitsOp, bitsResult, BitVec.ofNat_and, ofNat_complement]
  | 12 => simp [bitsOp, bitsResult, BitVec.ofNat_or, ofNat_complement]
  | 13 => exact ofNat_complement a
  | 14 => simp only [bitsOp, bitsResult, signedOf_toNat, ofNat_intBits, BitVec.ofInt_natCast]
  | _ + 15 => simp only [bitsOp, bitsResult, signedOf_toNat, ofNat_intBits, BitVec.ofInt_neg, BitVec.ofInt_toInt]

end Sys2Proof.Machine
end

section
/-! SUPPORT. What an instruction that writes one value or one predicate bit per active lane leaves. -/

namespace Sys2Proof.Machine

/-- An instruction that writes one value per active lane leaves its destination written, at the width it writes. -/
theorem Issues.alu {i : Instr} {s : State} {x : Iss} (h : Issues i s x) {body : Iss → Res}
    (hexec : exec i s = issueWave i body s) {d : Fld} {wide : Bool} {f : Nat → Val64} (hbody : body x = x.alu d wide f) :
    exec i s = .next (if wide then x.gives64 d f else x.gives32 d fun l => (f l).lo) := by
  rw [hexec, h.meaning, hbody]
  cases wide <;> rfl

@[simp] theorem Iss.lanesWhere_false (x : Iss) : x.lanesWhere (fun _ => false) = 0#64 := by
  simp [Iss.lanesWhere, laneSet]

/-- An instruction that writes one predicate bit per active lane, where no active lane's source is poisoned (R169). -/
theorem Issues.setLanes {i : Instr} {s : State} {x : Iss} (h : Issues i s x) {body : Iss → Res}
    (hexec : exec i s = issueWave i body s) {d : Fld} {p f : Nat → Bool} (hbody : body x = x.setLanes d p f)
    (hp : x.lanesWhere p = 0#64) : exec i s = .next (x.givesPred d f) := by
  rw [hexec, h.meaning, hbody, Iss.setLanes, hp]
  rfl

/-- The same where some active lane's source is poisoned: nothing is written and those lanes raise POISON (R169). -/
theorem Issues.setLanes_poison {i : Instr} {s : State} {x : Iss} (h : Issues i s x) {body : Iss → Res}
    (hexec : exec i s = issueWave i body s) {d : Fld} {p f : Nat → Bool} (hbody : body x = x.setLanes d p f)
    (hp : x.lanesWhere p ≠ 0#64) : exec i s = .next (x.finish (.due s ⟨.poison, x.lanesWhere p, 0, none⟩)) := by
  rw [hexec, h.meaning, hbody, Iss.setLanes, if_pos (by simpa using hp), Iss.poison, Iss.report, h.s_eq]

/-! The operands at the width W selects. -/

@[simp] theorem Iss.aW_true (x : Iss) (g : Gen) : x.aW g true = x.a64 g := rfl
@[simp] theorem Iss.aW_false (x : Iss) (g : Gen) (l : Nat) : x.aW g false l = (x.a32 g l).wide := rfl
@[simp] theorem Iss.bW_true (x : Iss) (g : Gen) (e : Ext) : x.bW g true e = x.b64 g e := rfl
@[simp] theorem Iss.bW_false (x : Iss) (g : Gen) (e : Ext) (l : Nat) : x.bW g false e l = (x.b32 g l).wide := rfl
@[simp] theorem Iss.cW_true (x : Iss) (g : Gen) : x.cW g true = x.c64 g := rfl
@[simp] theorem Iss.cW_false (x : Iss) (g : Gen) (l : Nat) : x.cW g false l = (x.c32 g l).wide := rfl
@[simp] theorem widthOf_true : widthOf true = 64 := rfl
@[simp] theorem widthOf_false : widthOf false = 32 := rfl

/-! The shared shapes of the integer instructions (R171, R172). -/

/-- Exact arithmetic of two sources, clamped where the instruction saturates, then the low bits. -/
theorem computes_intArith {i : Gen → Instr} {g : Gen} (sat : Bool) (op : Nat → Int → Int → Int)
    (hexec : ∀ s, exec (i g) s = issueWave (i g) (intArith g sat op) s) :
    Computes i g (extU (subU g)) (fun w a b =>
      let r := op w (exactInt (subU g) a) (exactInt (subU g) b)
      BitVec.ofInt w (if sat then clampTo (subU g) w r else r)) := by
  intro s x h
  rw [h.alu (hexec s) rfl]
  cases subW g
  · simp [intOf_wide, val64_lo, ofNat_intBits, saturate_clampTo]
  · simp [intOf_64, val64_bits, ofNat_intBits, saturate_clampTo]

/-- A bitwise operation, which the low words of the extended sources give as well. -/
theorem computes_bitwise {i : Gen → Instr} {g : Gen} (op : (w : Nat) → BitVec w → BitVec w → BitVec w)
    (hop : ∀ a b : Word, (op 64 (a.zeroExtend 64) (b.zeroExtend 64)).truncate 32 = op 32 a b)
    (hexec : ∀ s, exec (i g) s = issueWave (i g) (bitwise g (op 64)) s) : Computes i g .sign op := by
  intro s x h
  rw [h.alu (hexec s) rfl]
  cases subW g
  · simp only [Iss.aW_false, Iss.bW_false, Val64.lo, Val.wide, hop, Bool.false_eq_true, if_false]
  · simp only [Iss.aW_true, Iss.bW_true, if_true]

/-- A shift, given on numbers below 2^w. -/
theorem shifts_shiftBy {i : Gen → Instr} {g : Gen} (op : Nat → Nat → Nat → Nat)
    (f : (w : Nat) → BitVec w → Word → BitVec w)
    (hop : ∀ (w : Nat) (a : BitVec w) (n : Word), BitVec.ofNat w (op w a.toNat n.toNat) = f w a n)
    (hexec : ∀ s, exec (i g) s = issueWave (i g) (shiftBy g op) s) : Shifts i g f := by
  intro s x h
  rw [h.alu (hexec s) rfl]
  cases subW g
  · simp [natOf_wide, val64_lo, hop]
  · simp [natOf_64, val64_bits, hop]

end Sys2Proof.Machine
end

section
/-! CLAIM. Integer arithmetic, logic and shifts (R171, R172). -/

namespace Sys2Proof.Machine

/-- IMUL at one width is the product of words, whatever U: the low bits do not depend on the sign. -/
theorem Issues.imul_narrow {g : Gen} {s : State} {x : Iss} (h : Issues (.imul g) s x) (hwide : subWide g = false) :
    exec (.imul g) s = .next (if subW g
      then x.gives64 g.d fun l =>
        ⟨(x.a64 g l).bits * (x.b64 g (extU (subU g)) l).bits, (x.a64 g l).poison || (x.b64 g (extU (subU g)) l).poison⟩
      else x.gives32 g.d fun l => ⟨(x.a32 g l).bits * (x.b32 g l).bits, (x.a32 g l).poison || (x.b32 g l).poison⟩) := by
  rw [h.alu (wide := subW g) rfl (by rw [hwide]; rfl)]
  cases subW g
  · simp [intOf_wide, val64_lo, ofNat_intBits, BitVec.ofInt_mul]
  · simp [intOf_64, val64_bits, ofNat_intBits, BitVec.ofInt_mul]

theorem Issues.imul_wide {g : Gen} {s : State} {x : Iss} (h : Issues (.imul g) s x) (hwide : subWide g = true) :
    exec (.imul g) s = .next (x.gives64 g.d fun l =>
      ⟨BitVec.ofInt 64 (exactInt (subU g) (x.a32 g l).bits * exactInt (subU g) (x.b32 g l).bits),
        (x.a32 g l).poison || (x.b32 g l).poison⟩) := by
  rw [h.alu (wide := true) rfl (by rw [hwide]; rfl)]
  simp [intOf_wide, val64_bits, ofNat_intBits]

theorem Issues.imad_narrow {g : Gen} {s : State} {x : Iss} (h : Issues (.imad g) s x) (hwide : subWide g = false) :
    exec (.imad g) s = .next (if subW g
      then x.gives64 g.d fun l =>
        ⟨(x.a64 g l).bits * (x.b64 g (extU (subU g)) l).bits + (x.c64 g l).bits,
          (x.a64 g l).poison || (x.b64 g (extU (subU g)) l).poison || (x.c64 g l).poison⟩
      else x.gives32 g.d fun l =>
        ⟨(x.a32 g l).bits * (x.b32 g l).bits + (x.c32 g l).bits,
          (x.a32 g l).poison || (x.b32 g l).poison || (x.c32 g l).poison⟩) := by
  rw [h.alu rfl rfl, hwide]
  cases subW g
  · simp [intOf_wide, val64_lo, ofNat_intBits, BitVec.ofInt_add, BitVec.ofInt_mul]
  · simp [intOf_64, val64_bits, ofNat_intBits, BitVec.ofInt_add, BitVec.ofInt_mul]

theorem Issues.imad_wide {g : Gen} {s : State} {x : Iss} (h : Issues (.imad g) s x) (hwide : subWide g = true)
    (hW : subW g = false) :
    exec (.imad g) s = .next (x.gives64 g.d fun l =>
      ⟨BitVec.ofInt 64 (exactInt (subU g) (x.a32 g l).bits * exactInt (subU g) (x.b32 g l).bits +
          exactInt (subU g) (x.c64 g l).bits),
        (x.a32 g l).poison || (x.b32 g l).poison || (x.c64 g l).poison⟩) := by
  rw [h.alu rfl rfl, hwide, hW]
  simp [intOf_wide, intOf_64, val64_bits, ofNat_intBits]

/-- Settles O1: each instruction is one of three shared shapes, or a product by the ring of words. -/
theorem integerArithmeticResults : Obligations.IntegerArithmeticResults := by
  unfold Obligations.IntegerArithmeticResults
  refine ⟨fun g => ⟨?iadd, ?isub, ?imulh, ?imin, ?imax⟩,
    fun g s x => ⟨Issues.imul_narrow, Issues.imul_wide, Issues.imad_narrow, Issues.imad_wide⟩,
    fun g => ⟨?and, ?or, ?xor, ?shl, ?shr, ?sar⟩⟩
  case iadd => exact computes_intArith (subS g) (fun _ a b => a + b) fun _ => rfl
  case isub => exact computes_intArith (subS g) (fun _ a b => a - b) fun _ => rfl
  case imulh => exact computes_intArith false (fun w a b => a * b / 2 ^ w) fun _ => rfl
  case imin => exact computes_intArith false (fun _ a b => min a b) fun _ => rfl
  case imax => exact computes_intArith false (fun _ a b => max a b) fun _ => rfl
  case and => exact computes_bitwise (fun _ a b => a &&& b) (fun a b => by simp) fun _ => rfl
  case or => exact computes_bitwise (fun _ a b => a ||| b) (fun a b => by simp) fun _ => rfl
  case xor => exact computes_bitwise (fun _ a b => a ^^^ b) (fun a b => by simp) fun _ => rfl
  case shl => exact shifts_shiftBy shlBits _ (fun _ a n => ofNat_shlBits a n.toNat) fun _ => rfl
  case shr => exact shifts_shiftBy shrBits _ (fun _ a n => ofNat_shrBits a n.toNat) fun _ => rfl
  case sar => exact shifts_shiftBy sarBits _ (fun _ a n => ofNat_sarBits a n.toNat) fun _ => rfl

end Sys2Proof.Machine
end

section
/-! CLAIM. The variants of BITS (R173). -/

namespace Sys2Proof.Machine

/-- The B of a variant of BITS as its meaning reads it: nothing, w bits, or a field of 32 bits. -/
def bitsB (x : Iss) (g : Gen) (v : Nat) (wide : Bool) (l : Nat) : Val64 :=
  if !(decide (4 ≤ v) && decide (v ≤ 12)) then val64 0 false
  else if v = 11 ∨ v = 12 then x.bW g wide .sign l else (x.b32 g l).wide

/-- The C of a variant of BITS as its meaning reads it. -/
def bitsC (x : Iss) (g : Gen) (v : Nat) (wide : Bool) (l : Nat) : Val64 :=
  if decide (v = 6) || decide (v = 9) || decide (v = 10) then x.cW g wide l else val64 0 false

/-- What BITS computes in a lane; `Issues.bits` ties it to the instruction. -/
def bitsLane (x : Iss) (g : Gen) (v : Nat) (wide : Bool) (l : Nat) : Val64 :=
  val64 (bitsOp v (widthOf wide) (natOf (widthOf wide) (x.aW g wide l))
      (if v = 11 ∨ v = 12 then natOf (widthOf wide) (bitsB x g v wide l) else (bitsB x g v wide l).bits.toNat)
      (natOf (widthOf wide) (bitsC x g v wide l)))
    ((x.aW g wide l).poison || (bitsB x g v wide l).poison || (bitsC x g v wide l).poison)

theorem Issues.bits {g : Gen} {s : State} {x : Iss} (h : Issues (.bits g) s x) {wide : Bool}
    (hwide : decide (16 ≤ g.sub.toNat) = wide) :
    exec (.bits g) s = .next (if wide && decide (3 ≤ g.sub.toNat % 16)
      then x.gives64 g.d (bitsLane x g (g.sub.toNat % 16) wide)
      else x.gives32 g.d fun l => (bitsLane x g (g.sub.toNat % 16) wide l).lo) := by
  subst hwide
  exact h.alu rfl rfl

theorem bitsB_narrow (x : Iss) (g : Gen) (v l : Nat) :
    bitsB x g v false l = (if 4 ≤ v ∧ v ≤ 12 then x.b32 g l else .zero).wide := by
  by_cases hb : 4 ≤ v ∧ v ≤ 12
  · simp [bitsB, hb]
  · rw [bitsB, if_pos (by simp; omega), if_neg hb]; rfl

theorem bitsC_narrow (x : Iss) (g : Gen) (v l : Nat) :
    bitsC x g v false l = (if v = 6 ∨ v = 9 ∨ v = 10 then x.c32 g l else .zero).wide := by
  by_cases hc : v = 6 ∨ v = 9 ∨ v = 10
  · simp [bitsC, hc, or_assoc]
  · rw [bitsC, if_neg (by simpa [or_assoc] using hc), if_neg hc]; rfl

theorem bitsB_wide_word (x : Iss) (g : Gen) {v : Nat} (l : Nat) (h : v = 11 ∨ v = 12) :
    bitsB x g v true l = x.b64 g .sign l := by
  rcases h with rfl | rfl <;> rfl

theorem bitsB_wide_field (x : Iss) (g : Gen) {v : Nat} (l : Nat) (h : ¬ (v = 11 ∨ v = 12)) :
    bitsB x g v true l = (if 4 ≤ v ∧ v ≤ 10 then x.b32 g l else .zero).wide := by
  by_cases hb : 4 ≤ v ∧ v ≤ 10
  · rw [bitsB, if_neg (by simp; omega), if_neg h, if_pos hb]
  · rw [bitsB, if_pos (by simp; omega), if_neg hb]; rfl

theorem bitsC_wide (x : Iss) (g : Gen) (v l : Nat) :
    bitsC x g v true l = if v = 6 ∨ v = 9 ∨ v = 10 then x.c64 g l else ⟨0#64, false⟩ := by
  simp [bitsC, or_assoc, val64_bits]

theorem bitsLane_narrow (x : Iss) (g : Gen) (v l : Nat) :
    (bitsLane x g v false l).lo =
      let a := x.a32 g l
      let b := if 4 ≤ v ∧ v ≤ 12 then x.b32 g l else .zero
      let c := if v = 6 ∨ v = 9 ∨ v = 10 then x.c32 g l else .zero
      ⟨bitsResult v a.bits b.bits b.bits.toNat c.bits, a.poison || b.poison || c.poison⟩ := by
  simp only [bitsLane, bitsB_narrow, bitsC_narrow, Iss.aW_false, widthOf_false, val64_lo, natOf_wide, Val.wide_toNat,
    Val.wide_poison, ofNat_bitsOp v (w := 32) (by omega)]

theorem bitsLane_wide (x : Iss) (g : Gen) (v l : Nat) :
    bitsLane x g v true l =
      let a := x.a64 g l
      let b := if 4 ≤ v ∧ v ≤ 10 then x.b32 g l else .zero
      let m : Val64 := if v = 11 ∨ v = 12 then x.b64 g .sign l else ⟨0#64, false⟩
      let c : Val64 := if v = 6 ∨ v = 9 ∨ v = 10 then x.c64 g l else ⟨0#64, false⟩
      ⟨bitsResult v a.bits m.bits b.bits.toNat c.bits, a.poison || b.poison || m.poison || c.poison⟩ := by
  dsimp only
  rw [← ofNat_bitsOp v (by omega)]
  by_cases hv : v = 11 ∨ v = 12
  · have hb : ¬ (4 ≤ v ∧ v ≤ 10) := by omega
    simp only [bitsLane, bitsB_wide_word x g l hv, bitsC_wide, Iss.aW_true, widthOf_true, val64_bits, natOf_64, if_pos hv,
      if_neg hb, Val.zero, Bool.or_false]
  · simp only [bitsLane, bitsB_wide_field x g l hv, bitsC_wide, Iss.aW_true, widthOf_true, val64_bits, natOf_64, if_neg hv,
      Val.wide_toNat, Val.wide_poison, Bool.or_false]

/-- Settles O2: the lane's value is the rule's at either width; the counts (variants 0 to 2) write 32 bits. -/
theorem bitOperationResults : Obligations.BitOperationResults := by
  unfold Obligations.BitOperationResults
  refine fun g s x h => ⟨fun hsub => ?narrow, fun hsub => ?wide⟩
  case narrow =>
    rw [h.bits (wide := false) (by simpa using hsub)]
    simp only [Bool.false_and, Bool.false_eq_true, if_false, bitsLane_narrow]
  case wide =>
    rw [h.bits (wide := true) (by simpa using hsub)]
    dsimp only
    simp only [← bitsLane_wide]
    by_cases hv : g.sub.toNat % 16 ≤ 2
    · simp [hv, show ¬ 3 ≤ g.sub.toNat % 16 by omega]
    · simp [hv, show 3 ≤ g.sub.toNat % 16 by omega]

end Sys2Proof.Machine
end

section
/-! CLAIM. SEL, MOV, MOVL and LEA (R174 to R177). -/

namespace Sys2Proof.Machine

theorem extend_extU (u : Bool) (b : Word) : extend (extU u) b = if u then b.zeroExtend 64 else b.signExtend 64 := by
  cases u <;> rfl

/-- MOV, for the extension its SUB selects. -/
theorem Issues.mov {g : Gen} {s : State} {x : Iss} (h : Issues (.mov g) s x) {e : Ext}
    (hexec : exec (.mov g) s = issueWave (.mov g) (fun x => x.alu g.d (subW g) (x.bW g (subW g) e)) s) :
    exec (.mov g) s = .next (if subW g then x.gives64 g.d (x.b64 g e) else x.gives32 g.d (x.b32 g)) := by
  rw [h.alu hexec rfl]
  cases subW g
  · simp only [Iss.bW_false, Bool.false_eq_true, if_false, Val.wide_lo]
  · simp only [Iss.bW_true, if_true]

/-- Settles O3: each of the four writes one value per active lane, at the width it says. -/
theorem moveResults : Obligations.MoveResults := by
  unfold Obligations.MoveResults
  refine fun g s x => ⟨fun h => ?sel, fun h => ?mov, fun h => ?movl, fun h => ?lea⟩
  case sel =>
    dsimp only
    rw [h.alu rfl rfl]
    cases subW g
    · simp only [Iss.aW_false, Iss.bW_false, Bool.false_eq_true, if_false, apply_ite Val64.lo, Val.wide_lo]
    · simp only [Iss.aW_true, Iss.bW_true, if_true]
  case mov => exact h.mov rfl
  case movl => exact h.alu (wide := true) rfl rfl
  case lea =>
    rw [h.alu (wide := true) rfl rfl]
    simp only [extend_extU, if_true]

end Sys2Proof.Machine
end

section
/-! CLAIM. ISET, PLOG and PMOV (R174, R181, R182). -/

namespace Sys2Proof.Machine

theorem Iss.poison_aW_bW (x : Iss) (g : Gen) (wide : Bool) (e : Ext) (l : Nat) :
    ((x.aW g wide l).poison || (x.bW g wide e l).poison) =
      if wide then (x.a64 g l).poison || (x.b64 g e l).poison else (x.a32 g l).poison || (x.b32 g l).poison := by
  cases wide <;> rfl

/-- ISET compares the exact integers of its sources at the width SUB[4] selects (R48, R174). -/
theorem intCompare_aW_bW (x : Iss) (g : Gen) (rel : Nat) (u wide : Bool) (e : Ext) (l : Nat) :
    intCompare rel (intOf u (widthOf wide) (x.aW g wide l)) (intOf u (widthOf wide) (x.bW g wide e l)) =
      if wide then intCompare rel (exactInt u (x.a64 g l).bits) (exactInt u (x.b64 g e l).bits)
      else intCompare rel (exactInt u (x.a32 g l).bits) (exactInt u (x.b32 g l).bits) := by
  cases wide
  · simp [intOf_wide]
  · simp [intOf_64]

theorem val64_bit_lo (b p : Bool) : (val64 (if b then 1 else 0) p).lo = ⟨if b then 1#32 else 0#32, p⟩ := by
  cases b <;> rfl

/-- Settles O4: each is a value per lane or a predicate bit per lane, which a poisoned source stops. -/
theorem predicateResults : Obligations.PredicateResults := by
  unfold Obligations.PredicateResults
  refine ⟨fun g s x h => ?iset, fun g s x => ⟨fun h => ?plog, fun h => ⟨fun hs => ?ofPred, fun hs => ?pair, fun hs => ?word,
    fun hs => ?bit⟩⟩⟩
  case iset =>
    dsimp only
    simp only [← Iss.poison_aW_bW, ← intCompare_aW_bW]
    exact ⟨h.setLanes rfl rfl, h.setLanes_poison rfl rfl⟩
  case plog => exact h.setLanes rfl rfl x.lanesWhere_false
  case ofPred => exact h.alu (wide := true) rfl (by rw [hs]; rfl)
  case pair => exact ⟨h.setLanes rfl (by rw [hs]; rfl), h.setLanes_poison rfl (by rw [hs]; rfl)⟩
  case word => exact ⟨h.setLanes rfl (by rw [hs]; rfl), h.setLanes_poison rfl (by rw [hs]; rfl)⟩
  case bit =>
    rw [h.alu (wide := false) (f := fun l => val64 (if x.predBit g.a l then 1 else 0) false) rfl (by rw [hs]; rfl)]
    simp only [Bool.false_eq_true, if_false, val64_bit_lo]

end Sys2Proof.Machine
end

section
/-! SUPPORT. An instruction that sets flags: it writes, or a trapped flag stops it. -/

namespace Sys2Proof.Machine

/-- An instruction that writes where no active lane raises a flag its mode word traps, and else raises ARITH (R71). -/
theorem Issues.arith {i : Instr} {s : State} {x : Iss} (h : Issues i s x) {body : Iss → Res}
    (hexec : exec i s = issueWave i body s) {f : Nat → Flags} {w : Wave}
    (hbody : body x = if x.arithLanes f != 0#64 then x.raise ⟨.arith, x.arithLanes f, 0, none⟩ else x.done w) :
    (x.arithLanes f = 0#64 → exec i s = .next (x.leaves w)) ∧
      (x.arithLanes f ≠ 0#64 → exec i s = .next (x.finish (.trap s ⟨.arith, x.arithLanes f, 0, none⟩))) := by
  rw [hexec, h.meaning, hbody]
  refine ⟨fun hf => ?_, fun hf => ?_⟩
  · rw [if_neg (by simpa using hf), Iss.finish_done]
  · rw [if_pos (by simpa using hf), Iss.raise, h.s_eq]

end Sys2Proof.Machine
end

section
/-! SUPPORT. The order of TOPK's entries (R202): it is the lexicographic order of their keys, and what inserts entry by
entry gives the one list in that order. -/

namespace Sys2Proof.Machine

/-- What R202 compares of an entry, in the order it compares it; `Ranked.before_iff` ties it to the model's order. -/
def Ranked.key (a : Ranked) : Bool ×ₗ ℤ ×ₗ ℕ ×ₗ Bool ×ₗ ℕ :=
  toLex (a.nan, toLex (a.rank, toLex (a.idx, toLex (a.cand, a.lane))))

/-- One place of a lexicographic comparison: where the places differ they decide, else what comes after. -/
theorem ite_ne_lt_iff {α : Type} [LinearOrder α] (a b : α) (p : Prop) :
    (if a ≠ b then a < b else p) ↔ a < b ∨ a = b ∧ p := by
  split
  · next h => simp [h]
  · next h => simp [not_not.1 h]

/-- The same for a flag, whose true place comes last. -/
theorem ite_bne_iff (a b : Bool) (p : Prop) : (if a != b then b = true else p) ↔ a < b ∨ a = b ∧ p := by
  cases a <;> cases b <;> simp

/-- R202's order of entries is the lexicographic order of their keys. -/
theorem Ranked.before_iff (a b : Ranked) : a.before b = true ↔ a.key < b.key := by
  simp only [before, key, Prod.Lex.toLex_lt_toLex, apply_ite (· = true), decide_eq_true_eq, ite_bne_iff, ite_ne_lt_iff]

/-- Insertion is the library's, by the order of entries. -/
theorem insertRanked_eq (a : Ranked) (l : List Ranked) :
    insertRanked a l = l.orderedInsert (fun a b => a.before b = true) a := by
  induction l with
  | nil => rfl
  | cons b l ih => rw [insertRanked, List.orderedInsert_cons, ih]

theorem insertRanked_perm (a : Ranked) (l : List Ranked) : (insertRanked a l).Perm (a :: l) :=
  insertRanked_eq a l ▸ List.perm_orderedInsert _ a l

/-- No entry comes before one that stands earlier in the list. -/
def Ranked.Rising (l : List Ranked) : Prop := l.Pairwise fun a b => a.key ≤ b.key

theorem insertRanked_rising {a : Ranked} {l : List Ranked} (h : Ranked.Rising l) : Ranked.Rising (insertRanked a l) := by
  induction l with
  | nil => exact List.pairwise_singleton _ a
  | cons b l ih =>
    obtain ⟨hb, hl⟩ := List.pairwise_cons.1 h
    rw [insertRanked]
    split
    · next hab =>
      have hle : a.key ≤ b.key := ((Ranked.before_iff a b).1 hab).le
      exact List.pairwise_cons.2 ⟨List.forall_mem_cons.2 ⟨hle, fun c hc => hle.trans (hb c hc)⟩, h⟩
    · next hab =>
      have hle : b.key ≤ a.key := le_of_not_gt fun hlt => hab ((Ranked.before_iff a b).2 hlt)
      refine List.pairwise_cons.2 ⟨fun c hc => ?_, ih hl⟩
      rcases List.mem_cons.1 ((insertRanked_perm a l).mem_iff.1 hc) with rfl | hc
      · exact hle
      · exact hb c hc

/-- Entries inserted one by one: all of them are there, and the list rises. -/
theorem foldl_insertRanked (es l : List Ranked) (h : Ranked.Rising l) :
    (es.foldl (fun l e => insertRanked e l) l).Perm (l ++ es) ∧
      Ranked.Rising (es.foldl (fun l e => insertRanked e l) l) := by
  induction es generalizing l with
  | nil => exact ⟨by rw [List.append_nil]; exact .rfl, h⟩
  | cons e es ih =>
    obtain ⟨hperm, hrising⟩ := ih (insertRanked e l) (insertRanked_rising h)
    exact ⟨hperm.trans (((insertRanked_perm e l).append_right es).trans List.perm_middle.symm), hrising⟩

/-- A list in strict order is the only rising list of its entries. -/
theorem Ranked.eq_of_rising {sorted l : List Ranked} (hperm : l.Perm sorted)
    (hsorted : sorted.Pairwise (fun a b => a.before b = true)) (hl : Ranked.Rising l) : l = sorted := by
  have hlt : sorted.Pairwise (fun a b => a.key < b.key) := hsorted.imp fun h => (before_iff _ _).1 h
  refine hperm.eq_of_pairwise (fun a b ha hb hab hba => ?_) hl (hlt.imp le_of_lt)
  have hkeys : (sorted.map key).Nodup := List.pairwise_map.2 (hlt.imp ne_of_lt)
  exact List.inj_on_of_nodup_map hkeys (hperm.mem_iff.1 ha) hb (le_antisymm hab hba)

end Sys2Proof.Machine
end

section
/-! CLAIM. TOPK (R202, R203). -/

namespace Sys2Proof.Machine

/-- The model's merge, the list's entries before the candidates', is any strictly ordered list of all the entries. -/
theorem merge_eq {list cands sorted : List Ranked} (hperm : sorted.Perm (list ++ cands))
    (hsorted : sorted.Pairwise (fun a b => a.before b = true)) :
    cands.foldl (fun l e => insertRanked e l) (list.foldl (fun l e => insertRanked e l) []) = sorted := by
  rw [← List.foldl_append]
  obtain ⟨hall, hrising⟩ := foldl_insertRanked (list ++ cands) [] List.Pairwise.nil
  exact Ranked.eq_of_rising (hall.trans hperm.symm) hsorted hrising

/-- Settles O12: a trapped flag stops it, else the merge is the statement's strictly ordered list of the entries. -/
theorem topkMergesInOrder : Obligations.TopkMergesInOrder := by
  unfold Obligations.TopkMergesInOrder
  intro g s x h k pairAt entry entries signals flags bad
  obtain ⟨hwrites, htraps⟩ := h.arith (f := flags) rfl rfl
  refine ⟨fun sorted hbad hperm hsorted => ?merged, htraps⟩
  case merged =>
    obtain rfl := merge_eq hperm hsorted
    exact hwrites hbad

end Sys2Proof.Machine
end

section
/-! CLAIM. PERM, BALLOT, VOTE and MATCH (R195 to R198). -/

namespace Sys2Proof.Machine

theorem Val.lo_wide_bits (v : Val) (p : Bool) : (⟨v.wide.bits, p⟩ : Val64).lo = ⟨v.bits, p⟩ :=
  congrArg (fun u : Val => (⟨u.bits, p⟩ : Val)) (Val.wide_lo v)

/-- PERM's two zeros, a lane beyond the width and a lane outside the split, as one case (R195). -/
theorem permValue_eq (zero : Prop) [Decidable zero] (inSplit p : Bool) (a : Val64) :
    (if zero then val64 0 p else
      ⟨(if inSplit then a else val64 0 false).bits, (if inSplit then a else val64 0 false).poison || p⟩) =
    if zero ∨ inSplit = false then ⟨0#64, p⟩ else (⟨a.bits, a.poison || p⟩ : Val64) := by
  by_cases hz : zero
  · simp only [hz, true_or, if_true, val64_bits]
  · cases inSplit
    · simp only [hz, or_true, if_true, if_false, Bool.false_eq_true, val64_bits, Bool.false_or]
    · simp only [hz, or_false, if_true, if_false, Bool.true_eq_false]

/-- The lanes that share a lane's bits, and their poison, whichever of the two a comparison names first. -/
theorem Iss.peers_comm (x : Iss) (a : Nat → Val64) (l : Nat) :
    (⟨x.lanesWhere fun j => (a l).bits == (a j).bits,
        x.lanes.any fun j => (a l).bits == (a j).bits && (a j).poison⟩ : Val64) =
      ⟨x.lanesWhere fun j => (a j).bits == (a l).bits,
        x.lanes.any fun j => (a j).bits == (a l).bits && (a j).poison⟩ := by
  simp only [BEq.comm (a := (a l).bits)]

theorem Issues.matchPeers {g : Gen} {s : State} {x : Iss} (h : Issues (.matchl g) s x) (hu : subU g = false) :
    exec (.matchl g) s = .next (x.gives64 g.d fun l =>
      let same (j : Nat) : Bool := (x.aW g (subW g) l).bits == (x.aW g (subW g) j).bits
      ⟨x.lanesWhere same, x.lanes.any fun j => same j && (x.aW g (subW g) j).poison⟩) :=
  h.alu (wide := true) rfl (by rw [hu]; rfl)

theorem Issues.matchUniform {g : Gen} {s : State} {x : Iss} (h : Issues (.matchl g) s x) (hu : subU g = true)
    (hp : x.lanesWhere (fun l => (x.aW g (subW g) l).poison) = 0#64) :
    exec (.matchl g) s = .next (x.givesPred g.d fun _ =>
      x.lanes.all fun l => (x.aW g (subW g) x.first).bits == (x.aW g (subW g) l).bits) :=
  h.setLanes rfl (by rw [hu]; rfl) hp

/-- Settles O9: each is a value or a predicate bit per active lane; only match.uniform can be stopped, by poison (R198). -/
theorem crossLaneResults : Obligations.CrossLaneResults := by
  unfold Obligations.CrossLaneResults
  refine fun g s x => ⟨fun h => ?perm, ⟨fun h => ?ballot, fun h => ?vote⟩,
    fun h => ⟨fun hu => ?peers, fun hu => ?uniform⟩⟩
  case perm =>
    rw [h.alu rfl rfl]
    dsimp only
    simp only [permValue_eq]
    cases subW g
    · simp only [Iss.aW_false, apply_ite Val64.lo, Val.lo_wide_bits, Val.wide_poison, Bool.false_eq_true, if_false]
      rfl
    · simp only [Iss.aW_true, if_true]
  case ballot =>
    cases hW : subW g
    · exact h.alu (wide := true) rfl (by rw [hW]; rfl)
    · rw [h.alu (wide := false) rfl (by rw [hW]; rfl)]
      simp only [val64_lo]
      rfl
  case vote => exact h.setLanes rfl rfl x.lanesWhere_false
  case peers =>
    rw [h.matchPeers hu]
    simp only [x.peers_comm (x.aW g (subW g))]
    rfl
  case uniform =>
    refine ⟨fun hbad => ?_, h.setLanes_poison rfl (by rw [hu]; rfl)⟩
    rw [h.matchUniform hu hbad]
    simp only [BEq.comm (a := (x.aW g (subW g) x.first).bits)]
    rfl

end Sys2Proof.Machine
end

section
/-! SUPPORT. Which failure of the lanes an instruction raises (R97), and the failure of a lane of an LDA or STA (R205). -/

namespace Sys2Proof.Machine

theorem mem_lanesOf {m : Lanes} {l : Nat} : l ∈ lanesOf m ↔ hasLane m l = true := by
  rw [lanesOf, List.mem_filter, List.mem_range, and_iff_right_iff_imp]
  exact BitVec.lt_of_getLsbD

/-- No lane fails: the instruction raises nothing. -/
theorem Iss.fails_none {x : Iss} {f : Nat → Option LaneFail} (h : ∀ l ∈ x.lanes, f l = none) : x.fails f = none := by
  have hall : x.lanes.filterMap (fun l => (f l).map (l, ·)) = [] :=
    List.filterMap_eq_nil_iff.2 fun l hl => by rw [h l hl]; rfl
  rw [Iss.fails, hall]
  rfl

/-- Lane l is the lowest that fails, with e: its cause is raised, in every lane that has it. -/
theorem Iss.fails_of_lowest {x : Iss} {f : Nat → Option LaneFail} {l : Nat} {e : LaneFail}
    (hl : x.lanes.find? (fun i => (f i).isSome) = some l) (he : f l = some e) :
    x.fails f = some ⟨e.cause, x.lanesWhere fun i => (f i).any (·.cause == e.cause), e.faddr, e.einfo⟩ := by
  have hhead : (x.lanes.filterMap fun i => (f i).map (i, ·)).head? = some (l, e) := by
    obtain ⟨-, before, after, hsplit, hbefore⟩ := List.find?_eq_some_iff_append.1 hl
    have hnone : before.filterMap (fun i => (f i).map (i, ·)) = [] :=
      List.filterMap_eq_nil_iff.2 fun i hi => by simpa using hbefore i hi
    rw [hsplit, List.filterMap_append, hnone, List.nil_append, List.filterMap_cons_some (by rw [he]; rfl), List.head?_cons]
  rw [Iss.fails, hhead]

/-- The index a lane of an LDA or STA names lies beyond its array (R205). -/
def Iss.arrBeyond (x : Iss) (g : Gen) (l : Nat) : Bool :=
  decide (x.w.decl.lanearray < (x.arrIndex g l).1 + if subW g then 2 else 1)

/-- The lane's index lies within its array and is poisoned (R205). -/
def Iss.arrDirty (x : Iss) (g : Gen) (l : Nat) : Bool := !x.arrBeyond g l && (x.arrIndex g l).2

theorem Iss.arrFail_eq (x : Iss) (g : Gen) (l : Nat) :
    x.arrFail g l = if x.arrBeyond g l then some ⟨.operand, 0, some 0x10⟩
      else if (x.arrIndex g l).2 then some ⟨.poison, 0, none⟩ else none := by
  have hwords : (x.arrWords g l).any (x.w.decl.lanearray ≤ ·) = x.arrBeyond g l := by
    rw [arrWords, arrBeyond, subW, Bool.eq_iff_iff]
    cases g.sub.getLsbD 0
    · simp [natsFrom]
    · simp [natsFrom, List.range_succ]
      omega
  rw [arrFail, hwords]

theorem Iss.arrFail_isSome (x : Iss) (g : Gen) (l : Nat) : (x.arrFail g l).isSome = (x.arrBeyond g l || x.arrDirty g l) := by
  rw [x.arrFail_eq, arrDirty]
  cases x.arrBeyond g l <;> cases (x.arrIndex g l).2 <;> rfl

theorem Iss.arrFail_any_operand (x : Iss) (g : Gen) (l : Nat) :
    (x.arrFail g l).any (·.cause == .operand) = x.arrBeyond g l := by
  rw [x.arrFail_eq]
  cases x.arrBeyond g l <;> cases (x.arrIndex g l).2 <;> rfl

theorem Iss.arrFail_any_poison (x : Iss) (g : Gen) (l : Nat) :
    (x.arrFail g l).any (·.cause == .poison) = x.arrDirty g l := by
  rw [x.arrFail_eq, arrDirty]
  cases x.arrBeyond g l <;> cases (x.arrIndex g l).2 <;> rfl

theorem Iss.arrFail_none (x : Iss) {g : Gen}
    (h : ∀ l ∈ x.lanes,
      (x.arrIndex g l).2 = false ∧ (x.arrIndex g l).1 + (if subW g then 2 else 1) ≤ x.w.decl.lanearray) :
    x.fails (x.arrFail g) = none := by
  refine Iss.fails_none fun l hl => ?_
  obtain ⟨hclean, hwithin⟩ := h l hl
  have hb : x.arrBeyond g l = false := decide_eq_false (not_lt.2 hwithin)
  rw [x.arrFail_eq, hb, hclean]
  rfl

/-- The index of a lane that fails decides: OPERAND where it lies beyond the array, POISON within it (R97, R205). -/
theorem Iss.failWith_arrFail (x : Iss) {g : Gen} {l : Nat}
    (hl : x.lanes.find? (fun l => x.arrBeyond g l || x.arrDirty g l) = some l) :
    ∃ f, x.fails (x.arrFail g) = some f ∧
      x.failWith x.s f = if x.arrBeyond g l then .trap x.s ⟨.operand, x.lanesWhere (x.arrBeyond g), 0#64, some 0x10⟩
        else .due x.s ⟨.poison, x.lanesWhere (x.arrDirty g), 0#64, none⟩ := by
  have hlow : x.lanes.find? (fun l => (x.arrFail g l).isSome) = some l := by simpa only [arrFail_isSome] using hl
  cases hb : x.arrBeyond g l
  · have hd : (x.arrIndex g l).2 = true := by simpa [hb, arrDirty] using List.find?_some hl
    have he : x.arrFail g l = some ⟨.poison, 0, none⟩ := by rw [x.arrFail_eq, hb, hd]; rfl
    exact ⟨_, Iss.fails_of_lowest hlow he, by simp only [arrFail_any_poison]; rfl⟩
  · have he : x.arrFail g l = some ⟨.operand, 0, some 0x10⟩ := by rw [x.arrFail_eq, hb]; rfl
    exact ⟨_, Iss.fails_of_lowest hlow he, by simp only [arrFail_any_operand]; rfl⟩

end Sys2Proof.Machine
end

section
/-! SUPPORT. Writes of lane arrays: what they leave as it was, and what a word reads after them (R148, R205). -/

namespace Sys2Proof.Machine

theorem getD_updAt {α : Type} (i j : Nat) (f : α → α) (l : List α) (d : α) (h : j < l.length) :
    (updAt i f l).getD j d = if j = i then f (l.getD j d) else l.getD j d := by
  induction l generalizing i j with
  | nil => simp at h
  | cons a l ih =>
    cases i with
    | zero => cases j <;> simp [updAt]
    | succ i => cases j with
      | zero => simp [updAt]
      | succ j => simpa [updAt] using ih i j (by simpa using h)

/-- v is w but for its lane arrays and what keeps their words: undo registers and checkpoints. -/
structure Wave.SameButArrays (w v : Wave) : Prop where
  width : v.width = w.width
  windows : v.windows = w.windows
  splits : v.splits = w.splits
  sregs : v.sregs = w.sregs
  preds : v.preds = w.preds
  modes : v.modes = w.modes

theorem Wave.SameButArrays.trans {u v w : Wave} (huv : u.SameButArrays v) (hvw : v.SameButArrays w) : u.SameButArrays w :=
  ⟨hvw.width.trans huv.width, hvw.windows.trans huv.windows, hvw.splits.trans huv.splits, hvw.sregs.trans huv.sregs,
    hvw.preds.trans huv.preds, hvw.modes.trans huv.modes⟩

/-- A write of a lane's word sets the array, and a checkpoint at most besides. -/
theorem Wave.setArr_eq (w : Wave) (reg word lane : Nat) (v : Val) : ∃ ck, w.setArr reg word lane v = { w with
    ckpts := ck
    lanearr := insertKey word (updAt lane (fun _ => v) ((List.range w.width).map (w.arr word))) w.lanearr } := by
  unfold Wave.setArr
  dsimp only
  split
  · exact ⟨_, rfl⟩
  · split <;> exact ⟨_, rfl⟩

theorem Wave.setArr_same (w : Wave) (reg word lane : Nat) (v : Val) : w.SameButArrays (w.setArr reg word lane v) := by
  obtain ⟨ck, hck⟩ := w.setArr_eq reg word lane v
  rw [hck]
  exact ⟨rfl, rfl, rfl, rfl, rfl, rfl⟩

@[simp] theorem Wave.setArr_width (w : Wave) (reg word lane : Nat) (v : Val) : (w.setArr reg word lane v).width = w.width :=
  (w.setArr_same reg word lane v).width

theorem Wave.arr_setArr (w : Wave) (reg word lane : Nat) (v : Val) {j l : Nat} (hl : l < w.width) :
    (w.setArr reg word lane v).arr j l = if l = lane ∧ j = word then v else w.arr j l := by
  obtain ⟨ck, hck⟩ := w.setArr_eq reg word lane v
  rw [hck, Wave.arr, lookupKey_insertKey]
  by_cases hj : j = word
  · subst hj
    rw [if_pos rfl]
    dsimp only
    rw [getD_updAt _ _ _ _ _ (by simpa using hl)]
    simp [hl]
  · simp [hj, Wave.arr]

/-- The wave an STA writes its words in: with its undo register, where it takes one (R148). -/
def Iss.staWave (x : Iss) : Wave :=
  if x.wantsUndo then
    { x.w with
      regs := x.w.regs ++ [⟨x.w.nextReg, List.replicate x.width .zero, 0, none, false, true, false⟩]
      nextReg := x.w.nextReg + 1 }
  else x.w

theorem Iss.staWave_same (x : Iss) : x.w.SameButArrays x.staWave := by
  unfold staWave
  split <;> exact ⟨rfl, rfl, rfl, rfl, rfl, rfl⟩

theorem Iss.arr_staWave (x : Iss) (word l : Nat) : x.staWave.arr word l = x.w.arr word l := by
  unfold staWave
  split <;> rfl

/-- What STA does in one lane: each word its lane names takes its own register of C. -/
def Iss.staLane (x : Iss) (g : Gen) (reg : Nat) (w : Wave) (i : Nat) : Wave :=
  (x.arrWords g i).zipIdx.foldl (fun w (j, k) => w.setArr reg j i (x.src g.c k g.pc i)) w

/-- A word of lane l's array after its STA, where it was `old` before. -/
def Iss.staWord (x : Iss) (g : Gen) (l word : Nat) (old : Val) : Val :=
  if word = (x.arrIndex g l).1 then x.src g.c 0 g.pc l
  else if subW g = true ∧ word = (x.arrIndex g l).1 + 1 then x.src g.c 1 g.pc l
  else old

/-- The writes of a lane's STA, one by one. -/
theorem Iss.staLane_eq (x : Iss) (g : Gen) (reg : Nat) (w : Wave) (i : Nat) :
    x.staLane g reg w i =
      let low := w.setArr reg (x.arrIndex g i).1 i (x.src g.c 0 g.pc i)
      if subW g then low.setArr reg ((x.arrIndex g i).1 + 1) i (x.src g.c 1 g.pc i) else low := by
  rw [staLane, arrWords, subW]
  cases g.sub.getLsbD 0 <;> rfl

theorem Iss.staLane_same (x : Iss) (g : Gen) (reg : Nat) (w : Wave) (i : Nat) : w.SameButArrays (x.staLane g reg w i) := by
  rw [x.staLane_eq]
  cases subW g
  · exact w.setArr_same ..
  · exact (w.setArr_same ..).trans (Wave.setArr_same ..)

theorem Iss.arr_staLane (x : Iss) (g : Gen) (reg : Nat) (w : Wave) (i : Nat) {word l : Nat} (hl : l < w.width) :
    (x.staLane g reg w i).arr word l = if l = i then x.staWord g l word (w.arr word l) else w.arr word l := by
  rw [x.staLane_eq]
  by_cases hi : l = i
  · subst hi
    cases hW : subW g
    · simp [Wave.arr_setArr, hl, staWord, hW]
    · by_cases hlow : word = (x.arrIndex g l).1 <;> simp [Wave.arr_setArr, hl, staWord, hW, hlow]
  · cases subW g <;> simp [Wave.arr_setArr, hl, hi]

theorem Iss.staWord_twice (x : Iss) (g : Gen) (l word : Nat) (old : Val) :
    x.staWord g l word (x.staWord g l word old) = x.staWord g l word old := by
  unfold staWord
  split_ifs <;> rfl

theorem Iss.staLanes_same (x : Iss) (g : Gen) (reg : Nat) (w : Wave) (ls : List Nat) :
    w.SameButArrays (ls.foldl (x.staLane g reg) w) := by
  induction ls generalizing w with
  | nil => exact ⟨rfl, rfl, rfl, rfl, rfl, rfl⟩
  | cons i ls ih => exact (x.staLane_same g reg w i).trans (ih (x.staLane g reg w i))

/-- Each lane of the list has its words written, and no lane another's. -/
theorem Iss.arr_staLanes (x : Iss) (g : Gen) (reg : Nat) (w : Wave) (ls : List Nat) {word l : Nat} (hl : l < w.width) :
    (ls.foldl (x.staLane g reg) w).arr word l = if l ∈ ls then x.staWord g l word (w.arr word l) else w.arr word l := by
  induction ls generalizing w with
  | nil => simp
  | cons i ls ih =>
    rw [List.foldl_cons, ih _ ((x.staLane_same g reg w i).width ▸ hl), x.arr_staLane g reg w i hl]
    by_cases hi : l = i
    · simp [hi, staWord_twice]
    · simp [hi]

end Sys2Proof.Machine
end

section
/-! CLAIM. LDA and STA (R205, R206). -/

namespace Sys2Proof.Machine

theorem Issues.lda {g : Gen} {s : State} {x : Iss} (h : Issues (.lda g) s x) (hf : x.fails (x.arrFail g) = none) :
    exec (.lda g) s = .next (if subW g
      then x.leaves (x.put (x.put x.w g.d 0 x.act fun l => x.w.arr (x.arrIndex g l).1 l) g.d 1 x.act fun l =>
        x.w.arr ((x.arrIndex g l).1 + 1) l)
      else x.gives32 g.d fun l => x.w.arr (x.arrIndex g l).1 l) := by
  rw [show exec (.lda g) s = execLda g s from rfl, execLda, h.meaning]
  simp only [hf, Iss.finish_done]
  cases subW g <;> rfl

theorem Issues.sta {g : Gen} {s : State} {x : Iss} (h : Issues (.sta g) s x) (hf : x.fails (x.arrFail g) = none) :
    exec (.sta g) s = .next (x.leaves (x.lanes.foldl (x.staLane g x.w.nextReg) x.staWave)) := by
  rw [show exec (.sta g) s = execSta g s from rfl, execSta, h.meaning]
  simp only [hf]
  rfl

/-- A failing lane stops either of the two before it reads or writes anything. -/
theorem Issues.arrStops {i : Instr} {g : Gen} {s : State} {x : Iss} (h : Issues i s x) (hi : i = .lda g ∨ i = .sta g) {f : Fail}
    (hf : x.fails (x.arrFail g) = some f) : exec i s = .next (x.finish (x.failWith x.s f)) := by
  rcases hi with rfl | rfl
  · rw [show exec (.lda g) s = execLda g s from rfl, execLda, h.meaning]
    simp only [hf]
  · rw [show exec (.sta g) s = execSta g s from rfl, execSta, h.meaning]
    simp only [hf]

/-- Settles O14: the lowest failing lane stops the instruction, else each lane's words are its own. -/
theorem laneArrayResults : Obligations.LaneArrayResults := by
  unfold Obligations.LaneArrayResults
  refine fun g s x => ⟨fun h hin => ?lda, fun h hin _ => ?sta, ?stops⟩
  case lda => exact h.lda (x.arrFail_none hin)
  case sta =>
    obtain ⟨-, hwindows, hsplits, hsregs, hpreds, hmodes⟩ :=
      x.staWave_same.trans (x.staLanes_same g x.w.nextReg x.staWave x.lanes)
    refine ⟨_, h.sta (x.arrFail_none hin), hwindows, hsplits, hsregs, hpreds, hmodes, fun l word hl => ?_⟩
    rw [x.arr_staLanes g _ _ _ (x.staWave_same.width ▸ hl), x.arr_staWave, Iss.lanes]
    simp only [mem_lanesOf]
    by_cases hact : hasLane x.act l = true
    · simp only [hact, true_and, if_true]; rfl
    · simp only [hact, false_and, if_false, Bool.false_eq_true]
  case stops =>
    intro i hi h beyond within l hl
    obtain ⟨f, hf, hres⟩ := x.failWith_arrFail hl
    rw [h.arrStops hi hf, hres, h.s_eq]
    rfl

end Sys2Proof.Machine
end

section
/-! SUPPORT. The fields of an instruction's words (R28, R30, R36 to R44): each field code and its reader are inverse, and a
word is the one its fields make just where each slice of it is its field. -/

namespace Sys2Proof

/-! Field codes. -/

@[simp] theorem Pat.ofCode_code (p : Pat) : Pat.ofCode p.code = .ok p := by cases p <;> rfl
@[simp] theorem Rnd.ofCode_code (r : Rnd) : Rnd.ofCode r.code = r := by cases r <;> rfl
@[simp] theorem Size.ofCode_code (z : Size) : Size.ofCode z.code = .ok z := by cases z <;> rfl
@[simp] theorem Scope.ofCode_code (c : Scope) : Scope.ofCode c.code = .ok c := by cases c <;> rfl
@[simp] theorem Order.ofCode_code (o : Order) : Order.ofCode o.code = o := by cases o <;> rfl
@[simp] theorem Cache.ofCode_code (c : Cache) : Cache.ofCode c.code = c := by cases c <;> rfl

@[simp] theorem Rnd.code_ofCode (c : BitVec 2) : (Rnd.ofCode c).code = c := by revert c; decide
@[simp] theorem Order.code_ofCode (c : BitVec 2) : (Order.ofCode c).code = c := by revert c; decide
@[simp] theorem Cache.code_ofCode (c : BitVec 2) : (Cache.ofCode c).code = c := by revert c; decide

theorem Pat.code_of_ofCode (p : Pat) : ∀ c : BitVec 3, Pat.ofCode c = .ok p → p.code = c := by cases p <;> decide
theorem Size.code_of_ofCode (z : Size) : ∀ c : BitVec 3, Size.ofCode c = .ok z → z.code = c := by cases z <;> decide
theorem Scope.code_of_ofCode (x : Scope) : ∀ c : BitVec 3, Scope.ofCode c = .ok x → x.code = c := by cases x <;> decide

theorem Len.code_injective {l m : Len} (h : l.code = m.code) : l = m := by cases l <;> cases m <;> first | rfl | cases h

@[simp] theorem lenOf_code (w : Word) : (lenOf w).code = w.extractLsb' 0 2 := by
  unfold lenOf
  generalize w.extractLsb' 0 2 = c
  revert c; decide

theorem lenOf_eq_iff {w : Word} {l : Len} : lenOf w = l ↔ w.extractLsb' 0 2 = l.code := by
  rw [← lenOf_code]
  exact ⟨congrArg Len.code, Len.code_injective⟩

/-! Slices of words. -/

/-- A slice is two fields just where each part of it is its field. -/
theorem slice_eq_append_iff {k n m s : Nat} {w : BitVec k} {x : BitVec n} {y : BitVec m} :
    w.extractLsb' s (n + m) = x ++ y ↔ w.extractLsb' (s + m) n = x ∧ w.extractLsb' s m = y := by
  rw [← BitVec.extractLsb'_append_extractLsb'_eq_extractLsb' rfl]
  constructor
  · intro h
    have hx := congrArg (BitVec.extractLsb' m n) h
    have hy := congrArg (BitVec.extractLsb' 0 m) h
    rw [BitVec.extractLsb'_append_eq_left, BitVec.extractLsb'_append_eq_left] at hx
    rw [BitVec.extractLsb'_append_eq_right, BitVec.extractLsb'_append_eq_right] at hy
    exact ⟨hx, hy⟩
  · rintro ⟨rfl, rfl⟩; rfl

theorem eq_cast_append_iff {k n m : Nat} (h : n + m = k) {w : BitVec k} {x : BitVec n} {y : BitVec m} :
    w = (x ++ y).cast h ↔ w.extractLsb' m n = x ∧ w.extractLsb' 0 m = y := by
  subst h
  simpa using slice_eq_append_iff (s := 0) (w := w) (x := x) (y := y)

/-- A bit as a field of one bit. -/
theorem slice_eq_ofBool_iff {k s : Nat} {w : BitVec k} {b : Bool} : w.extractLsb' s 1 = BitVec.ofBool b ↔ w.getLsbD s = b := by
  rw [BitVec.getLsbD_eq_extractLsb']
  generalize w.extractLsb' s 1 = v
  revert v b; decide

@[simp] theorem Guard.code_ofCode (c : BitVec 4) : (Guard.ofCode c).code = c := by revert c; decide

@[simp] theorem Guard.ofCode_code (g : Guard) : Guard.ofCode g.code = g := by
  obtain ⟨n, p⟩ := g
  revert n p; decide

theorem Gen.word1_eq_iff {g : Gen} {w : Word} : w = g.word1 ↔
    w.extractLsb' 26 6 = g.pb.k ∧ w.extractLsb' 23 3 = g.pb.pat.code ∧ w.extractLsb' 21 2 = g.rnd.code ∧
    w.extractLsb' 16 5 = g.sub ∧ w.extractLsb' 12 4 = g.look ∧ w.getLsbD 11 = g.lc ∧
    w.extractLsb' 4 7 = g.c ∧ w.extractLsb' 0 4 = g.grd.code := by
  simp only [Gen.word1, eq_cast_append_iff, slice_eq_append_iff, slice_eq_ofBool_iff, and_assoc, -Nat.reduceAdd]

theorem Mem.word1_eq_iff {m : Mem} {w : Word} : w = m.word1 ↔
    w.extractLsb' 31 1 = 0#1 ∧ w.extractLsb' 26 5 = m.sub ∧ w.extractLsb' 24 2 = m.cache.code ∧
    w.extractLsb' 22 2 = m.order.code ∧ w.extractLsb' 19 3 = m.scope.code ∧ w.extractLsb' 16 3 = m.size.code ∧
    w.extractLsb' 12 4 = m.look ∧ w.getLsbD 11 = m.lc ∧ w.extractLsb' 4 7 = m.c ∧ w.extractLsb' 0 4 = m.grd.code := by
  simp only [Mem.word1, eq_cast_append_iff, slice_eq_append_iff, slice_eq_ofBool_iff, and_assoc, -Nat.reduceAdd]

theorem Mat.word1_eq_iff {x : Mat} {w : Word} : w = x.word1 ↔
    w.extractLsb' 22 10 = 0#10 ∧ w.getLsbD 21 = x.lc ∧ w.extractLsb' 16 5 = x.sub ∧ w.extractLsb' 12 4 = x.look ∧
    w.getLsbD 11 = x.keep ∧ w.extractLsb' 4 7 = x.c ∧ w.extractLsb' 0 4 = x.grd.code := by
  simp only [Mat.word1, eq_cast_append_iff, slice_eq_append_iff, slice_eq_ofBool_iff, and_assoc, -Nat.reduceAdd]

theorem eq_permWord_iff {pa pc : Permute} {w : Word} : w = permWord pa pc ↔
    w.extractLsb' 18 14 = 0#14 ∧ w.extractLsb' 12 6 = pc.k ∧ w.extractLsb' 9 3 = pc.pat.code ∧ w.extractLsb' 3 6 = pa.k ∧
    w.extractLsb' 0 3 = pa.pat.code := by
  simp only [permWord, eq_cast_append_iff, slice_eq_append_iff, and_assoc, -Nat.reduceAdd]

theorem eq_word0_iff {lb la : Bool} {b a d : Fld} {op : BitVec 7} {len : Len} {w : Word} :
    w = word0 lb la b a d op len ↔ w.getLsbD 31 = lb ∧ w.getLsbD 30 = la ∧ w.extractLsb' 23 7 = b ∧ w.extractLsb' 16 7 = a ∧
      w.extractLsb' 9 7 = d ∧ opOf w = op ∧ lenOf w = len := by
  simp only [lenOf_eq_iff]
  simp only [word0, opOf, eq_cast_append_iff, slice_eq_append_iff, slice_eq_ofBool_iff, and_assoc, -Nat.reduceAdd]

@[simp] theorem opOf_word0 (lb la : Bool) (b a d : Fld) (op : BitVec 7) (len : Len) :
    opOf (word0 lb la b a d op len) = op := by
  obtain ⟨-, -, -, -, -, hop, -⟩ := eq_word0_iff.1 (rfl : word0 lb la b a d op len = _)
  exact hop

@[simp] theorem lenOf_word0 (lb la : Bool) (b a d : Fld) (op : BitVec 7) (len : Len) :
    lenOf (word0 lb la b a d op len) = len := by
  obtain ⟨-, -, -, -, -, -, hlen⟩ := eq_word0_iff.1 (rfl : word0 lb la b a d op len = _)
  exact hlen

/-- Word 0 of BRA and CALL (R35). -/
theorem eq_branchWord0_iff {o : BitVec 23} {op : BitVec 7} {len : Len} {w : Word} :
    w = (o ++ op ++ len.code).cast (by decide) ↔ w.extractLsb' 9 23 = o ∧ opOf w = op ∧ lenOf w = len := by
  simp only [lenOf_eq_iff]
  simp only [opOf, eq_cast_append_iff, slice_eq_append_iff, and_assoc, -Nat.reduceAdd]

/-! The records of the words. -/

/-- The permutes of word 2, which only the extended-permute form has (R44). -/
def permsOf (w0 w2 : Word) : Except Illegal (Permute × Permute) :=
  match lenOf w0 with
  | .perm => do
    let pa ← Pat.ofCode (w2.extractLsb' 0 3)
    let pc ← Pat.ofCode (w2.extractLsb' 9 3)
    if w2.extractLsb' 18 14 = 0#14 then pure (⟨pa, w2.extractLsb' 3 6⟩, ⟨pc, w2.extractLsb' 12 6⟩) else .error .reservedBit
  | _ => pure (Permute.id, Permute.id)

theorem except_bind_eq_ok {ε α β : Type} {x : Except ε α} {f : α → Except ε β} {b : β} :
    (x >>= f) = .ok b ↔ ∃ a, x = .ok a ∧ f a = .ok b := by
  cases x
  · exact ⟨(nomatch ·), fun ⟨_, h, _⟩ => nomatch h⟩
  · exact ⟨fun h => ⟨_, rfl, h⟩, fun ⟨_, h, h'⟩ => by cases h; exact h'⟩

theorem Pat.ofCode_eq_ok {c : BitVec 3} {p : Pat} : Pat.ofCode c = .ok p ↔ c = p.code :=
  ⟨fun h => (Pat.code_of_ofCode p c h).symm, fun h => h ▸ p.ofCode_code⟩

theorem permsOf_eq_ok_iff {w0 w2 : Word} {pa pc : Permute} : permsOf w0 w2 = .ok (pa, pc) ↔
    if lenOf w0 = .perm then w2 = permWord pa pc else pa = Permute.id ∧ pc = Permute.id := by
  unfold permsOf
  split
  · rename_i h
    rw [if_pos h, eq_permWord_iff]
    simp only [except_bind_eq_ok, Pat.ofCode_eq_ok]
    constructor
    · rintro ⟨_, ha, _, hc, h⟩
      split at h
      · rename_i h0
        cases h; exact ⟨h0, rfl, hc, rfl, ha⟩
      · cases h
    · rintro ⟨h0, hk, hc, hk', ha⟩
      exact ⟨_, ha, _, hc, by rw [if_pos h0, hk, hk']; rfl⟩
  · rename_i h
    rw [if_neg h]
    constructor
    · intro h; cases h; exact ⟨rfl, rfl⟩
    · rintro ⟨rfl, rfl⟩; rfl

theorem genOf_eq_ok_iff {w0 w1 w2 : Word} {g : Gen} : genOf w0 w1 w2 = .ok g ↔
    w0 = word0 g.lb g.la g.b g.a g.d (opOf w0) g.len ∧ w1 = g.word1 ∧ g.lit = (if g.len = .lit then w2 else 0#32) ∧
    (if g.len = .perm then w2 = permWord g.pa g.pc else g.pa = Permute.id ∧ g.pc = Permute.id) := by
  rw [eq_word0_iff, Gen.word1_eq_iff]
  have unfolded : genOf w0 w1 w2 = (do
      let pb ← Pat.ofCode (w1.extractLsb' 23 3)
      let perms ← permsOf w0 w2
      pure {
        len := lenOf w0, lb := w0.getLsbD 31, la := w0.getLsbD 30, b := w0.extractLsb' 23 7, a := w0.extractLsb' 16 7,
        d := w0.extractLsb' 9 7, pb := ⟨pb, w1.extractLsb' 26 6⟩, rnd := Rnd.ofCode (w1.extractLsb' 21 2),
        sub := w1.extractLsb' 16 5, look := w1.extractLsb' 12 4, lc := w1.getLsbD 11, c := w1.extractLsb' 4 7,
        grd := Guard.ofCode (w1.extractLsb' 0 4), lit := if lenOf w0 = .lit then w2 else 0#32, pa := perms.1, pc := perms.2 }) := by
    unfold genOf permsOf
    cases lenOf w0 with
    | perm =>
      simp only [bind_assoc]
      exact bind_congr fun pb => bind_congr fun pa => bind_congr fun pc => by split <;> rfl
    | _ => rfl
  rw [unfolded]
  simp only [except_bind_eq_ok, Pat.ofCode_eq_ok]
  constructor
  · rintro ⟨pb, hpb, ⟨pa, pc⟩, hperms, h⟩
    cases h
    exact ⟨⟨rfl, rfl, rfl, rfl, rfl, trivial, rfl⟩, ⟨rfl, hpb, by simp, rfl, rfl, rfl, rfl, by simp⟩, rfl,
      permsOf_eq_ok_iff.1 hperms⟩
  · obtain ⟨len, lb, la, b, a, d, ⟨pat, k⟩, rnd, sub, look, lc, c, grd, lit, pa, pc⟩ := g
    dsimp only
    rintro ⟨⟨rfl, rfl, rfl, rfl, rfl, -, rfl⟩, ⟨rfl, hpat, hrnd, rfl, rfl, rfl, rfl, hgrd⟩, hlit, hperm⟩
    refine ⟨_, hpat, (pa, pc), permsOf_eq_ok_iff.2 hperm, ?_⟩
    rw [hlit, hrnd, hgrd, Rnd.ofCode_code, Guard.ofCode_code]
    rfl

theorem Size.ofCode_eq_ok {c : BitVec 3} {z : Size} : Size.ofCode c = .ok z ↔ c = z.code :=
  ⟨fun h => (Size.code_of_ofCode z c h).symm, fun h => h ▸ z.ofCode_code⟩
theorem Scope.ofCode_eq_ok {c : BitVec 3} {x : Scope} : Scope.ofCode c = .ok x ↔ c = x.code :=
  ⟨fun h => (Scope.code_of_ofCode x c h).symm, fun h => h ▸ x.ofCode_code⟩

theorem memOf_eq_ok_iff {w0 w1 w2 : Word} {m : Mem} : memOf w0 w1 w2 = .ok m ↔
    w0 = word0 m.lb m.la m.b m.a m.d (opOf w0) m.len ∧ w1 = m.word1 ∧ m.off = (if m.len = .lit then w2 else 0#32) := by
  rw [eq_word0_iff, Mem.word1_eq_iff]
  have reserved : w1.extractLsb' 31 1 = 0#1 ↔ w1.getLsbD 31 = false := slice_eq_ofBool_iff (b := false)
  simp only [memOf, except_bind_eq_ok, Size.ofCode_eq_ok, Scope.ofCode_eq_ok, reserved]
  constructor
  · rintro ⟨z, hz, x, hx, h⟩
    split at h
    · cases h
    · rename_i hres
      cases h
      exact ⟨⟨rfl, rfl, rfl, rfl, rfl, trivial, rfl⟩, ⟨by simpa using hres, rfl, by simp, by simp, hx, hz, rfl, rfl, rfl, by simp⟩, rfl⟩
  · obtain ⟨len, lb, la, b, a, d, sub, cache, order, scope, size, look, lc, c, grd, off⟩ := m
    dsimp only
    rintro ⟨⟨rfl, rfl, rfl, rfl, rfl, -, rfl⟩, ⟨hres, rfl, hcache, horder, hscope, hsize, rfl, rfl, rfl, hgrd⟩, hoff⟩
    refine ⟨_, hsize, _, hscope, ?_⟩
    rw [hoff, hres, hcache, horder, hgrd, Cache.ofCode_code, Order.ofCode_code, Guard.ofCode_code]
    rfl

theorem matOf_eq_ok_iff {w0 w1 : Word} {x : Mat} : matOf w0 w1 = .ok x ↔
    w0 = word0 x.lb x.la x.b x.a x.d (opOf w0) x.len ∧ w1 = x.word1 := by
  rw [eq_word0_iff, Mat.word1_eq_iff]
  unfold matOf
  constructor
  · intro h
    split at h
    · rename_i hres
      cases h
      exact ⟨⟨rfl, rfl, rfl, rfl, rfl, rfl, rfl⟩, hres, rfl, rfl, rfl, rfl, rfl, by simp⟩
    · cases h
  · obtain ⟨len, lb, la, b, a, d, lc, sub, look, keep, c, grd⟩ := x
    dsimp only
    rintro ⟨⟨rfl, rfl, rfl, rfl, rfl, -, rfl⟩, hres, rfl, rfl, rfl, rfl, rfl, hgrd⟩
    rw [if_pos hres, hgrd, Guard.ofCode_code]

theorem braOf_eq_ok_iff {w0 w1 w2 : Word} {b : Bra} : braOf w0 w1 w2 = .ok b ↔
    lenOf w0 = b.len ∧ w1 = b.grd.code.zeroExtend 32 ∧
      (if b.len = .lit then w0.extractLsb' 9 23 = 0#23 ∧ b.off = w2 else b.off = (w0.extractLsb' 9 23).signExtend 32) := by
  have guard : w1 = b.grd.code.zeroExtend 32 ↔ w1.extractLsb' 4 28 = 0#28 ∧ w1.extractLsb' 0 4 = b.grd.code := by
    rw [show b.grd.code.zeroExtend 32 = (0#28 ++ b.grd.code).cast (by decide) by
      generalize b.grd.code = c; revert c; decide]
    exact eq_cast_append_iff _
  rw [guard]
  unfold braOf
  constructor
  · intro h
    split at h
    · cases h
    · rename_i hres
      split at h
      · rename_i hlen
        split at h
        · rename_i hoff
          cases h
          exact ⟨hlen, ⟨not_not.1 hres, by simp⟩, hoff, rfl⟩
        · cases h
      · rename_i hlen
        cases h
        rw [if_neg hlen]
        exact ⟨rfl, ⟨not_not.1 hres, by simp⟩, rfl⟩
  · obtain ⟨len, off, grd⟩ := b
    dsimp only
    rintro ⟨rfl, ⟨hres, hgrd⟩, h⟩
    rw [if_neg (not_not.2 hres), hgrd, Guard.ofCode_code]
    split
    · rename_i hlen
      rw [if_pos hlen] at h
      rw [if_pos h.1, h.2, hlen]
    · rename_i hlen
      rw [if_neg hlen] at h
      rw [h]

end Sys2Proof
end

section
/-! SUPPORT. What the checks of an encoding say of its fields, the encoding that three words hold, and the words an encoding has
(R28, R34, R46, R47). -/

namespace Sys2Proof

/-- The layout of an encoding's constructor (R47). -/
def Enc.layout : Enc → Layout
  | .gen _ _ => .general
  | .mem _ _ => .memory
  | .mat _ _ => .matrix
  | .bra _ _ => .branch
  | .reserved _ => .reserved

theorem firstFailing_eq_none {l : List (Bool × Illegal)} (h : firstFailing l = none) : ∀ p ∈ l, p.1 = true := by
  induction l with
  | nil => exact fun _ h => nomatch h
  | cons p l ih =>
    obtain ⟨ok, r⟩ := p
    cases ok with
    | false => cases h
    | true => exact List.forall_mem_cons.2 ⟨rfl, ih h⟩

/-- What the checks of the general layout say of its operands and of the words it is encoded in. -/
theorem Gen.check_eq_none {op : BitVec 7} {g : Gen} (h : g.check op = none) : ∃ s, genShape op g.sub = some s ∧
    s.d.fits g.d = true ∧ s.a.fits g.a = true ∧ (g.len ≠ .lit → s.b.fits g.b = true) ∧ s.c.fits g.c = true ∧
    (g.len = .w32 → g.word1 = 0#32) ∧ (g.len ≠ .lit → g.lit = 0#32) ∧
    (g.len ≠ .perm → g.pa = Permute.id ∧ g.pc = Permute.id) := by
  unfold Gen.check at h
  split at h
  · cases h
  · rename_i s hs
    have all := firstFailing_eq_none h
    simp only [List.forall_mem_cons, Bool.or_eq_true, Bool.and_eq_true, beq_iff_eq, bne_iff_ne, Bool.not_eq_true', ne_eq] at all
    obtain ⟨-, -, short, lit, perm, -, -, -, d, a, b, c, -⟩ := all
    refine ⟨s, hs, d, a, b.resolve_left, c, fun hl => ?_, lit.resolve_left, perm.resolve_left⟩
    obtain ⟨⟨⟨⟨⟨⟨hsub, hpb⟩, hrnd⟩, hlook⟩, hlc⟩, hc⟩, hgrd⟩ := short.resolve_left (not_not.2 hl)
    rw [Gen.word1, hsub, hpb, hrnd, hlook, hlc, hc, hgrd]
    decide

theorem Mem.check_eq_none {op : BitVec 7} {m : Mem} (h : m.check op = none) : ∃ s, memShape op m.sub m.size = .ok s ∧
    s.d.fits m.d = true ∧ s.a.fits m.a = true ∧ s.b.fits m.b = true ∧ s.c.fits m.c = true ∧
    (m.len = .w32 → m.word1 = impliedWord1 .memory) ∧ (m.len ≠ .lit → m.off = 0#32) := by
  unfold Mem.check at h
  split at h
  · cases h
  · rename_i s hs
    have all := firstFailing_eq_none h
    simp only [List.forall_mem_cons, Bool.or_eq_true, Bool.and_eq_true, beq_iff_eq, bne_iff_ne, Bool.not_eq_true', ne_eq] at all
    obtain ⟨-, -, short, off, -, -, -, -, d, a, b, c, -⟩ := all
    refine ⟨s, hs, d, a, b, c, fun hl => ?_, off.resolve_left⟩
    obtain ⟨⟨⟨⟨⟨⟨⟨⟨hsub, hcache⟩, horder⟩, hscope⟩, hsize⟩, hlook⟩, hlc⟩, hc⟩, hgrd⟩ := short.resolve_left (not_not.2 hl)
    rw [Mem.word1, hsub, hcache, horder, hscope, hsize, hlook, hlc, hc, hgrd]
    decide

theorem memShape_lens {op : BitVec 7} {sub : BitVec 5} {z : Size} {s : MemShape} (h : memShape op sub z = .ok s) :
    s.lens.contains .perm = false := by
  have need {ok₁ ok₂ : Bool} {t : MemShape} (ht : t.lens.contains .perm = false)
      (h : (if !ok₁ then .error .sub else if !ok₂ then .error .size else .ok t : Except Illegal MemShape) = .ok s) :
      s.lens.contains .perm = false := by
    repeat' split at h
    all_goals first | cases h; exact ht | cases h
  unfold memShape at h
  split at h
  case h_11 | h_12 => exact need (by split <;> rfl) h
  case h_24 =>
    dsimp only at h
    split at h
    case h_6 => cases h
    all_goals exact need rfl h
  case h_25 => cases h
  all_goals exact need rfl h

/-- The memory layout has no extended-permute form. -/
theorem Mem.len_ne_perm {op : BitVec 7} {m : Mem} (h : m.check op = none) : m.len ≠ .perm := by
  intro hl
  unfold Mem.check at h
  split at h
  · cases h
  · rename_i s hs
    have hlens := firstFailing_eq_none h (s.lens.contains m.len, .length) (by simp)
    rw [hl] at hlens
    cases (memShape_lens hs).symm.trans hlens

theorem Mat.check_eq_none {x : Mat} (h : x.check = none) : Kind.acc.fits x.d = true ∧ Kind.tile.fits x.b = true ∧
    Kind.rowA.fits x.a = true ∧ (16 ≤ x.sub.toNat → Kind.srcValue.fits x.c = true) ∧
    (x.len = .w32 ∨ x.len = .w64) ∧ (x.len = .w32 → x.word1 = 0#32) := by
  have all := firstFailing_eq_none h
  simp only [List.forall_mem_cons, Bool.or_eq_true, Bool.and_eq_true, beq_iff_eq, bne_iff_ne, Bool.not_eq_true', ne_eq] at all
  obtain ⟨-, -, len, short, d, b, a, c, -⟩ := all
  refine ⟨d, b, a, fun hs => by simpa [hs] using c, len, fun hl => ?_⟩
  obtain ⟨⟨⟨⟨⟨hsub, hlook⟩, hkeep⟩, hlc⟩, hc⟩, hgrd⟩ := short.resolve_left (not_not.2 hl)
  rw [Mat.word1, hsub, hlook, hkeep, hlc, hc, hgrd]
  decide

theorem Bra.check_eq_none {b : Bra} (h : b.check = none) : b.len ≠ .perm ∧ (b.len = .w32 → b.grd.code.zeroExtend 32 = 0#32) ∧
    (b.len ≠ .lit → (b.off.truncate 23).signExtend 32 = b.off) := by
  have all := firstFailing_eq_none h
  simp only [List.forall_mem_cons, Bool.or_eq_true, beq_iff_eq, bne_iff_ne, ne_eq] at all
  obtain ⟨-, perm, short, off, -⟩ := all
  exact ⟨perm, fun hl => by rw [short.resolve_left (not_not.2 hl)]; decide, off.resolve_left⟩

theorem except_map_eq_ok {ε α β : Type} {x : Except ε α} {f : α → β} {b : β} :
    x.map f = .ok b ↔ ∃ a, x = .ok a ∧ f a = b := by
  cases x
  · exact ⟨(nomatch ·), fun ⟨_, h, _⟩ => nomatch h⟩
  · exact ⟨fun h => ⟨_, rfl, Except.ok.inj h⟩, fun ⟨_, h, h'⟩ => by cases h; exact congrArg Except.ok h'⟩

/-- Word 1 as the decoder reads it: the implied one in the 32-bit form (R34). -/
def readWord1 (w0 w1 : Word) : Word := if lenOf w0 = .w32 then impliedWord1 (layoutOf (opOf w0)) else w1

/-- The words are the record of the encoding, in its own layout. -/
def Enc.IsReadFrom (w0 w1 w2 : Word) : Enc → Prop
  | .gen _ g => genOf w0 (readWord1 w0 w1) w2 = .ok g
  | .mem _ m => memOf w0 (readWord1 w0 w1) w2 = .ok m
  | .mat _ x => matOf w0 (readWord1 w0 w1) = .ok x
  | .bra _ b => braOf w0 (readWord1 w0 w1) w2 = .ok b
  | .reserved w => w = w0

theorem encOf_eq_ok_iff {w0 w1 w2 : Word} {e : Enc} : encOf w0 w1 w2 = .ok e ↔
    Machine.encOp e = opOf w0 ∧ layoutOf (opOf w0) = e.layout ∧ e.IsReadFrom w0 w1 w2 := by
  have unfolded : encOf w0 w1 w2 = match layoutOf (opOf w0) with
      | .reserved => .ok (.reserved w0)
      | .branch => (braOf w0 (readWord1 w0 w1) w2).map (.bra (opOf w0))
      | .matrix => (matOf w0 (readWord1 w0 w1)).map (.mat (opOf w0))
      | .memory => (memOf w0 (readWord1 w0 w1) w2).map (.mem (opOf w0))
      | .general => (genOf w0 (readWord1 w0 w1) w2).map (.gen (opOf w0)) := rfl
  rw [unfolded]
  constructor
  · cases layoutOf (opOf w0) <;> intro h
    case reserved => cases h; exact ⟨rfl, rfl, rfl⟩
    all_goals
      obtain ⟨_, hof, rfl⟩ := except_map_eq_ok.1 h
      exact ⟨rfl, rfl, hof⟩
  · rintro ⟨hop, hlay, h⟩
    rw [hlay, ← hop]
    cases e with
    | reserved w => exact congrArg (fun w => Except.ok (Enc.reserved w)) h.symm
    | _ => exact except_map_eq_ok.2 ⟨_, h, rfl⟩

/-- A well-formed encoding of a layout's own opcode is what its words, with anything after them, are read as. -/
theorem encOf_words {e : Enc} (hlay : layoutOf (Machine.encOp e) = e.layout) (hc : e.check = none) :
    encOf (e.words.getD 0 0#32) (e.words.getD 1 0#32) (e.words.getD 2 0#32) = .ok e := by
  rw [encOf_eq_ok_iff]
  cases e with
  | gen op g =>
    obtain ⟨s, -, -, -, -, -, short, lit, perm⟩ := Gen.check_eq_none hc
    cases hl : g.len <;>
      simp_all [Enc.words, Enc.IsReadFrom, readWord1, Enc.layout, Machine.encOp, genOf_eq_ok_iff, impliedWord1]
  | mem op m =>
    obtain ⟨s, -, -, -, -, -, short, off⟩ := Mem.check_eq_none hc
    cases hl : m.len <;>
      simp_all [Enc.words, Enc.IsReadFrom, readWord1, Enc.layout, Machine.encOp, memOf_eq_ok_iff, impliedWord1]
  | mat op m =>
    obtain ⟨-, -, -, -, len, short⟩ := Mat.check_eq_none hc
    cases hl : m.len <;>
      simp_all [Enc.words, Enc.IsReadFrom, readWord1, Enc.layout, Machine.encOp, matOf_eq_ok_iff, impliedWord1]
  | bra op b =>
    obtain ⟨perm, short, off⟩ := Bra.check_eq_none hc
    have fields (o : BitVec 23) := (eq_branchWord0_iff (o := o) (op := op) (len := b.len)).1 rfl
    cases hl : b.len <;>
      simp_all [Enc.words, Enc.IsReadFrom, readWord1, Enc.layout, Machine.encOp, braOf_eq_ok_iff, impliedWord1]
  | reserved w => exact ⟨rfl, hlay, rfl⟩

theorem op_of_toNat {op : BitVec 7} {k : Nat} (h : op.toNat = k) : op = BitVec.ofNat 7 k := by subst h; simp

theorem sysInstr_enc {g : Gen} {i : Instr} (h : sysInstr g = some i) : i.enc = some (.gen 0x0F#7 g) := by
  unfold sysInstr at h
  split at h
  case h_16 => cases h
  all_goals cases h; rfl

theorem genInstr_enc {op : BitVec 7} {g : Gen} {i : Instr} (h : genInstr op g = some i) :
    i.enc = some (.gen op g) ∧ layoutOf op = .general := by
  unfold genInstr at h
  split at h
  all_goals rename_i hk
  case h_8 | h_72 =>
    cases op_of_toNat hk
    repeat' split at h
    all_goals cases h; exact ⟨rfl, rfl⟩
  case h_14 =>
    cases op_of_toNat hk
    exact ⟨sysInstr_enc h, rfl⟩
  case h_75 =>
    cases op_of_toNat hk
    split at h
    case h_5 => cases h
    all_goals cases h; exact ⟨rfl, rfl⟩
  case h_80 => cases h
  all_goals cases op_of_toNat hk; cases h; exact ⟨rfl, rfl⟩

theorem memInstr_enc {op : BitVec 7} {m : Mem} {i : Instr} (h : memInstr op m = some i) :
    i.enc = some (.mem op m) ∧ layoutOf op = .memory := by
  unfold memInstr at h
  split at h
  all_goals rename_i hk
  case h_20 | h_23 =>
    cases op_of_toNat hk
    split at h
    all_goals cases h; exact ⟨rfl, rfl⟩
  case h_24 =>
    cases op_of_toNat hk
    split at h
    case h_6 => cases h
    all_goals cases h; exact ⟨rfl, rfl⟩
  case h_25 => cases h
  all_goals cases op_of_toNat hk; cases h; exact ⟨rfl, rfl⟩

theorem matInstr_enc {op : BitVec 7} {x : Mat} {i : Instr} (h : (Enc.mat op x).instr = some i) :
    i.enc = some (.mat op x) ∧ layoutOf op = .matrix := by
  change (if op = 0x62#7 then some (.mma x) else if op = 0x63#7 then some (.mmas x) else none) = some i at h
  split at h
  case isTrue hop => subst hop; cases h; exact ⟨rfl, rfl⟩
  case isFalse =>
    split at h
    case isTrue hop => subst hop; cases h; exact ⟨rfl, rfl⟩
    case isFalse => cases h

theorem braInstr_enc {op : BitVec 7} {b : Bra} {i : Instr} (h : (Enc.bra op b).instr = some i) :
    i.enc = some (.bra op b) ∧ layoutOf op = .branch := by
  change (if op = 0x01#7 then some (.bra b) else if op = 0x03#7 then some (.call b) else none) = some i at h
  split at h
  case isTrue hop => subst hop; cases h; exact ⟨rfl, rfl⟩
  case isFalse =>
    split at h
    case isTrue hop => subst hop; cases h; exact ⟨rfl, rfl⟩
    case isFalse => cases h

/-- An encoding that passes its checks is that of the instruction it is, and its opcode has its layout (R46, R47). -/
theorem Enc.instr_enc {e : Enc} {i : Instr} (hc : e.check = none) (h : e.instr = some i) :
    i.enc = some e ∧ layoutOf (Machine.encOp e) = e.layout := by
  cases e with
  | gen op g => exact genInstr_enc h
  | mem op m => exact memInstr_enc h
  | mat op x => exact matInstr_enc h
  | bra op b => exact braInstr_enc h
  | reserved w =>
    have hop : reservedOp (opOf w) = true := by
      by_contra hop
      simp [Enc.check, hop] at hc
    cases h
    exact ⟨rfl, by simp [layoutOf, Machine.encOp, hop, Enc.layout]⟩

theorem Enc.layout_ne_reserved {e : Enc} {i : Instr} (h : e.instr = some i) (hres : ∀ w, i ≠ .reservedOpcode w) :
    e.layout ≠ .reserved := by
  cases e with
  | reserved w => cases h; exact absurd rfl (hres w)
  | _ => exact fun hlay => nomatch hlay

theorem Instr.wf_iff {i : Instr} {e : Enc} (he : i.enc = some e) : i.wf = true ↔ e.check = none ∧ e.instr = some i := by
  simp [Instr.wf, he]

theorem Enc.decode_eq_ok_iff {e : Enc} {i : Instr} : e.decode = .ok i ↔ e.check = none ∧ e.instr = some i := by
  unfold Enc.decode
  cases e.check <;> cases e.instr <;> simp

theorem decodeWords_eq_ok_iff {w0 w1 w2 : Word} {i : Instr} :
    decodeWords w0 w1 w2 = .ok i ↔ ∃ e, encOf w0 w1 w2 = .ok e ∧ e.check = none ∧ e.instr = some i := by
  unfold decodeWords
  cases encOf w0 w1 w2 <;> simp [Enc.decode_eq_ok_iff]

/-! Bytes. -/

theorem Len.words_eq_one {l : Len} : l.words = 1 ↔ l = .w32 := by cases l <;> simp [Len.words]
theorem Len.words_eq_two {l : Len} : l.words = 2 ↔ l = .w64 := by cases l <;> simp [Len.words]
theorem Len.words_eq_three {l : Len} : l.words = 3 ↔ l = .lit ∨ l = .perm := by cases l <;> simp [Len.words]
theorem Len.words_le (l : Len) : l.words ≤ 3 := by cases l <;> simp [Len.words]

@[simp] theorem bytesOfWords_nil : bytesOfWords [] = [] := rfl

@[simp] theorem takeWord_bytesOfWords (w : Word) (ws : List Word) (rest : List Byte) :
    takeWord (bytesOfWords (w :: ws) ++ rest) = some (w, bytesOfWords ws ++ rest) := by
  have join : wordOfBytes (w.extractLsb' 0 8) (w.extractLsb' 8 8) (w.extractLsb' 16 8) (w.extractLsb' 24 8) = w := by
    simp (disch := rfl) only [wordOfBytes, BitVec.extractLsb'_append_extractLsb'_eq_extractLsb', -Nat.reduceAdd]
    exact BitVec.extractLsb'_eq_self
  simp only [bytesOfWords, List.cons_append, takeWord, join]

/-- The words an instruction has, with anything after them, are decoded as what they hold. -/
theorem decodeBytes_words {ws : List Word} (h : ws.length = (lenOf (ws.getD 0 0#32)).words) (rest : List Byte) :
    decodeBytes (bytesOfWords ws ++ rest) =
      (decodeWords (ws.getD 0 0#32) (ws.getD 1 0#32) (ws.getD 2 0#32)).map (·, rest) := by
  match ws with
  | [] => cases h
  | [w0] =>
    have hl : lenOf w0 = .w32 := Len.words_eq_one.1 h.symm
    simp [decodeBytes, hl]
  | [w0, w1] =>
    have hl : lenOf w0 = .w64 := Len.words_eq_two.1 h.symm
    simp [decodeBytes, hl]
  | [w0, w1, w2] =>
    have hl : lenOf w0 = .lit ∨ lenOf w0 = .perm := Len.words_eq_three.1 h.symm
    rcases hl with hl | hl <;> simp [decodeBytes, hl]
  | w0 :: _ :: _ :: _ :: ws =>
    have := (lenOf w0).words_le
    simp only [List.length_cons, List.getD_cons_zero] at h
    omega

/-- An encoding that passes its checks has the words its LEN says (R28). -/
theorem Enc.words_length {e : Enc} (hlay : e.layout ≠ .reserved) (hc : e.check = none) :
    e.words.length = (lenOf (e.words.getD 0 0#32)).words := by
  cases e with
  | gen op g => cases hl : g.len <;> simp [Enc.words, hl, Len.words]
  | mem op m => cases hl : m.len <;> simp [Enc.words, hl, Len.words]
  | mat op x =>
    obtain ⟨-, -, -, -, hl | hl, -⟩ := Mat.check_eq_none hc <;> simp [Enc.words, hl, Len.words]
  | bra op b =>
    have fields (o : BitVec 23) := (eq_branchWord0_iff (o := o) (op := op) (len := b.len)).1 rfl
    cases hl : b.len <;> simp_all [Enc.words, Len.words]
  | reserved w => exact absurd rfl hlay

/-- The words an encoding was read from are those it has (R28). -/
theorem Enc.words_of_encOf {w0 w1 w2 : Word} {e : Enc} (h : encOf w0 w1 w2 = .ok e) (hc : e.check = none)
    (hlay : e.layout ≠ .reserved) : e.words = [w0, w1, w2].take (lenOf w0).words := by
  obtain ⟨hop, -, hof⟩ := encOf_eq_ok_iff.1 h
  cases e with
  | gen op g =>
    have hop : op = opOf w0 := hop
    obtain ⟨h0, h1, hlit, hperm⟩ := genOf_eq_ok_iff.1 hof
    rw [← hop] at h0
    clear hop
    subst h0
    cases hl : g.len <;> simp_all [Enc.words, readWord1, Len.words]
  | mem op m =>
    have hop : op = opOf w0 := hop
    obtain ⟨h0, h1, hoff⟩ := memOf_eq_ok_iff.1 hof
    rw [← hop] at h0
    clear hop
    subst h0
    have hperm := Mem.len_ne_perm hc
    cases hl : m.len <;> simp_all [Enc.words, readWord1, Len.words]
  | mat op x =>
    have hop : op = opOf w0 := hop
    obtain ⟨h0, h1⟩ := matOf_eq_ok_iff.1 hof
    rw [← hop] at h0
    clear hop
    subst h0
    obtain ⟨-, -, -, -, hl | hl, -⟩ := Mat.check_eq_none hc <;> simp_all [Enc.words, readWord1, Len.words]
  | bra op b =>
    obtain ⟨hl, h1, hoff⟩ := braOf_eq_ok_iff.1 hof
    have hperm := (Bra.check_eq_none hc).1
    have whole (o : BitVec 23) (ho : w0.extractLsb' 9 23 = o) : (o ++ op ++ b.len.code).cast (by decide) = w0 :=
      (eq_branchWord0_iff.2 ⟨ho, hop.symm, hl⟩).symm
    have trunc (o : BitVec 23) : (o.signExtend 32).truncate 23 = o := by
      ext i hi
      simp [show i < 32 by omega, BitVec.getElem_signExtend, hi]
    cases hb : b.len <;> simp_all [Enc.words, readWord1, Len.words]
  | reserved w => exact absurd rfl hlay

theorem Kind.fits_dest {k : Kind} {f : Fld} (h : k.fits f = true) :
    (k ∈ [Kind.dst, .dstPair, .dstPairV] → f.toNat < 112 ∨ 120 ≤ f.toNat) ∧
      (k = .dstPred → 1 ≤ f.toNat ∧ f.toNat < 8) := by
  refine ⟨fun hk => ?_, ?_⟩
  · simp only [List.mem_cons, List.not_mem_nil, or_false] at hk
    rcases hk with rfl | rfl | rfl <;> simp [Kind.fits] at h <;> omega
  · rintro rfl
    simpa [Kind.fits] using h

/-- Every register field an encoding uses fits its kind. -/
theorem Enc.fits_uses {e : Enc} (hc : e.check = none) : ∀ u ∈ Machine.encUses e, u.kind.fits u.fld = true := by
  cases e with
  | gen op g =>
    obtain ⟨s, hs, d, a, b, c, -⟩ := Gen.check_eq_none hc
    by_cases hl : g.len = .lit
    · simp [Machine.encUses, hs, Machine.useOf, hl, d, a, c]
    · simp [Machine.encUses, hs, Machine.useOf, hl, d, a, b hl, c]
  | mem op m =>
    obtain ⟨s, hs, d, a, b, c, -⟩ := Mem.check_eq_none hc
    simp [Machine.encUses, hs, Machine.useOf, d, a, b, c]
  | mat op x =>
    obtain ⟨d, b, a, c, -⟩ := Mat.check_eq_none hc
    by_cases hs : 16 ≤ x.sub.toNat
    · simp [Machine.encUses, Machine.useOf, hs, d, a, b, c hs]
    · simp [Machine.encUses, Machine.useOf, hs, d, a, b]
  | bra op b => exact fun _ h => nomatch h
  | reserved w => exact fun _ h => nomatch h

end Sys2Proof
end

section
/-! CLAIM. Decoding and encoding are inverse (R28 to R47, R50). -/

namespace Sys2Proof

/-- Settles O55: word by word the decoder's reading is inverse to the encoder's writing, and an instruction's checks are
those of its encoding. -/
theorem decodeOfEncode : Obligations.DecodeOfEncode := by
  unfold Obligations.DecodeOfEncode
  intro i hwf
  refine ⟨fun rest henc hres => ?words, ?reserved⟩
  case words =>
    obtain ⟨e, he⟩ := Option.ne_none_iff_exists'.1 henc
    obtain ⟨hc, hi⟩ := (Instr.wf_iff he).1 hwf
    have hread := encOf_words (Enc.instr_enc hc hi).2 hc
    have hwords : encode i = e.words := by simp [encode, he]
    have hlen := e.words_length (Enc.layout_ne_reserved hi hres) hc
    rw [hwords, decodeBytes_words hlen, decodeWords_eq_ok_iff.2 ⟨e, hread, hc, hi⟩]
    rfl
  case reserved =>
    rintro w w1 w2 rfl
    obtain ⟨hc, hi⟩ := (Instr.wf_iff rfl).1 hwf
    exact decodeWords_eq_ok_iff.2 ⟨.reserved w, encOf_eq_ok_iff.2 ⟨rfl, (Enc.instr_enc hc hi).2, rfl⟩, hc, hi⟩

/-- Settles O56: the encoding that was read is the instruction's own, its words are those read, and its checks bound every
register field. -/
theorem encodeOfDecode : Obligations.EncodeOfDecode := by
  unfold Obligations.EncodeOfDecode
  intro w0 w1 w2 i h
  obtain ⟨e, hread, hc, hi⟩ := decodeWords_eq_ok_iff.1 h
  have he := (Enc.instr_enc hc hi).1
  refine ⟨(Instr.wf_iff he).2 ⟨hc, hi⟩, fun hres => ?words, fun e' he' u hu => ?destinations⟩
  case words =>
    rw [show encode i = e.words by simp [encode, he]]
    exact Enc.words_of_encOf hread hc (Enc.layout_ne_reserved hi hres)
  case destinations =>
    cases he.symm.trans he'
    exact Kind.fits_dest (Enc.fits_uses hc u hu)

end Sys2Proof
end


section
/-! SUPPORT. What the decoder answers over bytes is an instruction with words. -/

namespace Sys2Proof

theorem decodeWords_enc {w0 w1 w2 : Word} {i : Instr} (h : decodeWords w0 w1 w2 = .ok i) : ∃ e, i.enc = some e := by
  obtain ⟨e, -, hc, hi⟩ := decodeWords_eq_ok_iff.1 h
  exact ⟨e, (Enc.instr_enc hc hi).1⟩

theorem decodeBytes_enc {bs rest : List Byte} {i : Instr} (h : decodeBytes bs = .ok (i, rest)) : ∃ e, i.enc = some e := by
  have words {w0 w1 w2 : Word} {r : List Byte} (h : (decodeWords w0 w1 w2).map (·, r) = .ok (i, rest)) :
      ∃ e, i.enc = some e := by
    obtain ⟨j, hj, hi⟩ := except_map_eq_ok.1 h
    cases hi
    exact decodeWords_enc hj
  unfold decodeBytes at h
  repeat' split at h
  all_goals first | exact words h | cases h

end Sys2Proof
end

section
/-! SUPPORT. What every instruction's meaning answers when the machine issues it, and every event's: a next state. -/

namespace Sys2Proof.Machine

theorem issueWait_next {i : Instr} {s : State} {x : Iss} (h : s.issuing i = some x) (body : Iss → Res) :
    issueWait i body s = .next (x.finish (x.run body)).poll := by
  unfold issueWait
  rw [issueWave_next h]

/-- An event answers a next state, whatever it finds. -/
theorem exec_event {i : Instr} (h : i.enc = none) (s : State) : ∃ t, exec i s = .next t := by
  cases i <;> simp only [Instr.enc, reduceCtorEq] at h <;> exact ⟨_, rfl⟩

theorem State.enc_of_issuing {i : Instr} {s : State} {x : Iss} (h : s.issuing i = some x) : i.enc ≠ none := by
  rw [State.issuing_enc h]
  exact Option.some_ne_none _

/-- The meaning of an instruction that is issued: its checks, a body, its end, and, where it may wait, what waits is evaluated
at once. -/
theorem exec_issuing {i : Instr} {s : State} {x : Iss} (hres : ∀ w, i ≠ .reservedOpcode w) (h : s.issuing i = some x) :
    ∃ body, exec i s = .next (x.finish (x.run body)) ∨ exec i s = .next (x.finish (x.run body)).poll := by
  have henc := State.enc_of_issuing h
  cases i
  case fence | cwait | bsync | barExpect | barWait | cpeek | cpeekOut | qwait | exit | waitc | sysTlbinv | sysTlbsync | sysEvict |
      sysQctl | sysGkill | sysGrelaunch | sysBiasset => exact ⟨_, .inr (issueWait_next h _)⟩
  case reservedOpcode w => exact absurd rfl (hres w)
  all_goals simp only [Instr.enc, ne_eq, reduceCtorEq, not_true_eq_false, not_false_eq_true] at henc
  all_goals exact ⟨_, .inl (issueWave_next h _)⟩

theorem exec_reservedOpcode {w : Word} {s : State} {x : Iss} (h : s.issuing (.reservedOpcode w) = some x) :
    exec (.reservedOpcode w) s = .next (x.finish (x.raise ⟨.illegal, x.sp.mask, 0, none⟩)) := by
  change execReservedOpcode w s = _
  unfold execReservedOpcode
  rw [h]

end Sys2Proof.Machine
end

section
/-! CLAIM. The checks at issue and their order (R51, R107, R130). -/

namespace Sys2Proof.Machine

/-- Settles O57: every meaning runs the same checks before its body, and what `Iss.run` answers decides the end. -/
theorem checksInOrder : Obligations.ChecksInOrder := by
  unfold Obligations.ChecksInOrder
  refine ⟨fun i s x _ hres h => ?checks, fun w s x h => ?reserved⟩
  case checks =>
    obtain ⟨body, hexec⟩ := exec_issuing hres h
    have answered {r : Res} (hrun : x.run body = r) : exec i s = .next (x.finish r) ∨ exec i s = .next (x.finish r).poll :=
      hrun ▸ hexec
    have raised (f : Fail) : x.raise f = .trap s f := by rw [Iss.raise, State.issuing_s h]
    have noSys (hsys : ¬(encOp x.enc = 0x0F#7 ∧ x.w.inSolo = false)) : (encOp x.enc == 0x0F#7 && !x.w.inSolo) = false := by
      simpa using hsys
    refine ⟨fun hp => ?illegal, fun hp hsys => ?privilege, fun hp hsys ho => ?operand, fun hp hsys ho hb => ?stall,
      fun hp hsys ho hb hact hregion huiret => ?advance⟩
    case illegal => exact answered (by rw [Iss.run, hp, ← raised]; rfl)
    case privilege => exact answered (by rw [Iss.run, hp, hsys.1, hsys.2, ← raised]; rfl)
    case operand => exact answered (by rw [Iss.run, hp, noSys hsys, ho, ← raised]; rfl)
    case stall => exact answered (r := .stall s) (by rw [Iss.run, hp, noSys hsys, ho, hb, State.issuing_s h]; rfl)
    case advance =>
      have hguard : x.ignoresGuard = false := by simp [Iss.ignoresGuard, hregion, huiret]
      exact answered (r := .ok s) (by rw [Iss.run, hp, noSys hsys, ho, hb, hact, hguard, State.issuing_s h]; rfl)
  case reserved =>
    rw [exec_reservedOpcode h, Iss.raise, State.issuing_s h]
    rfl

end Sys2Proof.Machine
end

section
/-! SUPPORT. The parts of a translation (R356 to R362), named, and the translation put together from them. -/

namespace Sys2Proof.Machine

/-- The dirty flag of a leaf is set where it stands and in the TLBs that hold it (R359). -/
def State.setDirty (s : State) (core : Option Nat) (e : TlbEntry) : State :=
  let fix (l : List TlbEntry) := l.map (fun x => if x == e then { e with leaf := e.leaf ||| 0x100#64 } else x)
  let s := ((s.meetErrors ⟨.dev, e.leafAt⟩ 8).orLeaf e.leafAt 8).modHomes fun h => { h with dieTlb := h.dieTlb.map fix }
  match core with
  | some c => s.modCore c fun k => { k with tlb := fix k.tlb }
  | none => s

/-- The place a leaf gives an address. -/
def TlbEntry.place (e : TlbEntry) (leaf va : Nat) : Loc :=
  ⟨if bitAt leaf 5 then .host else .dev, bitsOf leaf 51 12 * 4096 + (va - e.va)⟩

/-- What an entry that covers the address answers: its permissions first, then the dirty flag of a write. -/
def State.useEntry (s : State) (core : Option Nat) (va : Nat) (n : Need) (e : TlbEntry) : Trans :=
  match leafCheck e.leaf.toNat n with
  | some f => .fault f s
  | none =>
    if n.wr && !bitAt e.leaf.toNat 8 then
      match s.homeNeeds ⟨.dev, e.leafAt⟩ 8 none true with
      | some s => .stall s
      | none => .ok (e.place (e.leaf ||| 0x100#64).toNat va) (s.setDirty core e)
    else .ok (e.place e.leaf.toNat va) s

/-- An entry comes into a core's TLB. -/
def State.fillTlb (s : State) (core : Option Nat) (e : TlbEntry) : State :=
  match core with
  | some c => (tlbInsert s 256 (s.core c).tlb e).2.modCore c fun k => { k with tlb := (tlbInsert s 256 (s.core c).tlb e).1 }
  | none => s

/-- The memory errors a walk meets. -/
def State.meetWalk (s : State) (ctx va : Nat) : State :=
  if s.dev.hbmErrors.isEmpty then s
  else (walkReads s va (s.ctx ctx).ptroot 5).foldl (fun s a => s.meetErrors ⟨.dev, a⟩ 8) s

/-- The entry a leaf gives a TLB, with the accessed flag set. -/
def tlbEntryOf (ctx va at_ e lv : Nat) : TlbEntry :=
  ⟨ctx, va / pageSize lv * pageSize lv, pageSize lv, BitVec.ofNat 64 (e ||| 0x80), at_⟩

/-- The state in which a walk that found a leaf has set the accessed flag and filled the TLBs. -/
def State.fillLeaf (s : State) (core : Option Nat) (die ctx va at_ e lv : Nat) : State :=
  let s := s.meetWalk ctx va
  let s := if bitAt e 7 then s else s.orLeaf at_ 7
  let (l, s) := tlbInsert s 262144 (s.homes.dieTlb.getD die []) (tlbEntryOf ctx va at_ e lv)
  (s.modHomes fun h => { h with dieTlb := updAt die (fun _ => l) h.dieTlb }).fillTlb core (tlbEntryOf ctx va at_ e lv)

/-- What a walk answers where no TLB holds the address. -/
def State.walked (s : State) (core : Option Nat) (die ctx va : Nat) (n : Need) : Trans :=
  match walkFrom s va (s.ctx ctx).ptroot 5 with
  | .drain a => .stall ((s.homeNeeds ⟨.dev, a⟩ 8 none true).getD s)
  | .absent lv => .fault ⟨if n.ex then .fetchPage else .dataPage, lv, false, false⟩ (s.meetWalk ctx va)
  | .malformed lv => .fault ⟨.protection, lv, true, false⟩ (s.meetWalk ctx va)
  | .leaf at_ e lv => (s.fillLeaf core die ctx va at_ e lv).useEntry core va n (tlbEntryOf ctx va at_ e lv)

/-- The entry the core's own TLB holds. -/
def State.ownEntry (s : State) (core : Option Nat) (ctx va : Nat) : Option TlbEntry :=
  match core with
  | some c => tlbLookup (s.core c).tlb ctx va
  | none => none

theorem State.translate_eq (s : State) (core : Option Nat) (die ctx va : Nat) (n : Need) :
    s.translate core die ctx va n = match s.ownEntry core ctx va with
      | some e => s.useEntry core va n e
      | none => match tlbLookup (s.homes.dieTlb.getD die []) ctx va with
        | some e => (s.fillTlb core e).useEntry core va n e
        | none => s.walked core die ctx va n := by
  have use (s : State) (e : TlbEntry) : (match leafCheck e.leaf.toNat n with
      | some f => Trans.fault f s
      | none =>
        let dirty := n.wr && !bitAt e.leaf.toNat 8
        match (if dirty then s.homeNeeds ⟨.dev, e.leafAt⟩ 8 none true else none) with
        | some s => .stall s
        | none =>
        let (s, e) := if dirty then
            let e' := { e with leaf := e.leaf ||| 0x100#64 }
            let s := (s.meetErrors ⟨.dev, e.leafAt⟩ 8).orLeaf e.leafAt 8
            let fix (l : List TlbEntry) := l.map (fun x => if x == e then e' else x)
            let s := s.modHomes fun h => { h with dieTlb := h.dieTlb.map fix }
            (match core with
              | some c => s.modCore c fun k => { k with tlb := fix k.tlb }
              | none => s, e')
          else (s, e)
        let frame := bitsOf e.leaf.toNat 51 12 * 4096
        .ok ⟨if bitAt e.leaf.toNat 5 then .host else .dev, frame + (va - e.va)⟩ s) = s.useEntry core va n e := by
    unfold State.useEntry
    cases leafCheck e.leaf.toNat n with
    | some f => rfl
    | none => cases n.wr && !bitAt e.leaf.toNat 8 <;> rfl
  have walk : (let met (s : State) : State :=
        if s.dev.hbmErrors.isEmpty then s
        else (walkReads s va (s.ctx ctx).ptroot 5).foldl (fun s a => s.meetErrors ⟨.dev, a⟩ 8) s
      match walkFrom s va (s.ctx ctx).ptroot 5 with
      | .drain a => .stall ((s.homeNeeds ⟨.dev, a⟩ 8 none true).getD s)
      | .absent lv => .fault ⟨if n.ex then .fetchPage else .dataPage, lv, false, false⟩ (met s)
      | .malformed lv => .fault ⟨.protection, lv, true, false⟩ (met s)
      | .leaf at_ e lv => (s.fillLeaf core die ctx va at_ e lv).useEntry core va n (tlbEntryOf ctx va at_ e lv)) =
      s.walked core die ctx va n := rfl
  simp only [← walk, ← use]
  unfold State.translate
  cases core <;> rfl

end Sys2Proof.Machine
end

section
/-! SUPPORT. What a fetch leaves as it was: it asks homes, fills TLBs and sets a leaf's flags, and changes no wave (R51, R358). -/

namespace Sys2Proof.Machine

namespace State

theorem foldl_waves {β : Type} (f : State → β → State) (h : ∀ s x, (f s x).waves = s.waves) (l : List β) (s : State) :
    (l.foldl f s).waves = s.waves := foldl_keeps (·.waves) f h l s

@[simp] theorem rebuildDir_waves (s : State) (k : Nat) : (s.rebuildDir k).waves = s.waves := by
  unfold rebuildDir
  split
  · rfl
  · simp only [modHomes_waves]
    refine (foldl_waves _ ?_ _ _).trans (foldl_waves _ ?_ _ _) <;> exact fun _ _ => rfl

@[simp] theorem rebuildRecord_waves (s : State) (k : Nat) : (s.rebuildRecord k).waves = s.waves := by
  unfold rebuildRecord
  dsimp only
  refine (foldl_waves _ ?_ _ _).trans ?_
  · exact fun _ _ => rfl
  · rfl

@[simp] theorem requestDrain_waves (s : State) (l : Loc) (e : Option Nat) : (s.requestDrain l e).waves = s.waves := by
  unfold requestDrain
  simp only
  split
  · exact rebuildRecord_waves _ _
  · exact foldl_waves _ (fun _ _ => by split <;> simp) _ _

theorem homeNeeds_waves {s t : State} {l : Loc} {n : Nat} {e : Option Nat} {r : Bool} (h : s.homeNeeds l n e r = some t) :
    t.waves = s.waves := by
  unfold homeNeeds at h
  dsimp only at h
  split at h
  · cases h
  · cases h
    rw [foldl_waves _ fun _ _ => requestDrain_waves _ _ _, foldl_waves _ fun _ _ => recallHalf_waves _ _,
      foldl_waves _ fun _ _ => rebuildRecord_waves _ _, foldl_waves _ fun _ _ => rebuildDir_waves _ _]

@[simp] theorem tlbInsert_waves (s : State) (cap : Nat) (l : List TlbEntry) (e : TlbEntry) :
    (tlbInsert s cap l e).2.waves = s.waves := by
  unfold tlbInsert
  split <;> rfl

@[simp] theorem fillTlb_waves (s : State) (core : Option Nat) (e : TlbEntry) : (s.fillTlb core e).waves = s.waves := by
  cases core with
  | none => rfl
  | some c => exact tlbInsert_waves ..

@[simp] theorem setDirty_waves (s : State) (core : Option Nat) (e : TlbEntry) : (s.setDirty core e).waves = s.waves := by
  cases core <;> exact meetErrors_waves ..

@[simp] theorem meetWalk_waves (s : State) (ctx va : Nat) : (s.meetWalk ctx va).waves = s.waves := by
  unfold meetWalk
  split
  · rfl
  · exact foldl_waves _ (fun _ _ => meetErrors_waves _ _ _) _ _

@[simp] theorem fillLeaf_waves (s : State) (core : Option Nat) (die ctx va at_ e lv : Nat) :
    (s.fillLeaf core die ctx va at_ e lv).waves = s.waves := by
  unfold fillLeaf
  split <;> simp [orLeaf]

end State

/-- The state a translation leaves. -/
def Trans.state : Trans → State
  | .ok _ s | .fault _ s | .stall s => s

theorem State.useEntry_waves (s : State) (core : Option Nat) (va : Nat) (n : Need) (e : TlbEntry) :
    (s.useEntry core va n e).state.waves = s.waves := by
  unfold State.useEntry
  split
  · rfl
  · split
    · split
      · exact State.homeNeeds_waves ‹_›
      · exact s.setDirty_waves core e
    · rfl

theorem State.translate_waves (s : State) (core : Option Nat) (die ctx va : Nat) (n : Need) :
    (s.translate core die ctx va n).state.waves = s.waves := by
  rw [State.translate_eq]
  split
  · exact State.useEntry_waves ..
  · split
    · exact (State.useEntry_waves ..).trans (s.fillTlb_waves core _)
    · unfold State.walked
      split
      · cases h : s.homeNeeds _ 8 none true with
        | none => rfl
        | some t => exact State.homeNeeds_waves h
      · exact s.meetWalk_waves ctx va
      · exact s.meetWalk_waves ctx va
      · exact (State.useEntry_waves ..).trans (State.fillLeaf_waves ..)

/-- The state a fetch leaves. -/
def Fetched.state : Fetched → State
  | .words _ s | .fail _ s | .stall s => s

theorem State.fetchWord_waves (s : State) (w : Wave) (sp : Split) (va : Nat) : (s.fetchWord w sp va).state.waves = s.waves := by
  unfold State.fetchWord
  split
  · rfl
  split
  · rfl
  split
  · rfl
  split
  · rfl
  split
  · rfl
  · rename_i c va _
    have htr := s.translate_waves (some w.core) (State.dieOf w.core) c va Need.exec
    split
    · rename_i t h; rw [h] at htr; exact htr
    · rename_i f t h; rw [h] at htr; exact htr
    · rename_i l t h
      rw [h] at htr
      split
      · rename_i u hu; exact (State.homeNeeds_waves hu).trans htr
      · exact (State.meetErrors_waves ..).trans htr

theorem State.fetchMore_waves (w : Wave) (sp : Split) (n : Nat) : ∀ (s : State) (va : Nat) (got : List Byte),
    (s.fetchMore w sp va got n).state.waves = s.waves := by
  induction n with
  | zero => intro s va got; rfl
  | succ n ih =>
    intro s va got
    have hword := s.fetchWord_waves w sp va
    unfold State.fetchMore
    cases hf : s.fetchWord w sp va with
    | words bs t => rw [hf] at hword; exact (ih t (va + 4) (got ++ bs)).trans hword
    | fail f t => rw [hf] at hword; exact hword
    | stall t => rw [hf] at hword; exact hword

theorem State.fetch_waves (s : State) (w : Wave) (sp : Split) : (s.fetch w sp).state.waves = s.waves := by
  have hword := s.fetchWord_waves w sp sp.pc.toNat
  unfold State.fetch
  cases hf : s.fetchWord w sp sp.pc.toNat with
  | words bs t => rw [hf] at hword; exact (State.fetchMore_waves w sp _ t _ bs).trans hword
  | fail f t => rw [hf] at hword; exact hword
  | stall t => rw [hf] at hword; exact hword

end Sys2Proof.Machine
end

section
/-! CLAIM. Every step goes on (R28, R50). -/

namespace Sys2Proof.Machine

theorem State.issuing_of_cur {s : State} {c : Cur} {w : Wave} {sp : Split} {i : Instr} {e : Enc} (hc : s.cur = some c)
    (hw : s.wave? c.wave = some w) (hsp : w.split? c.slot = some sp) (he : i.enc = some e) : ∃ x, s.issuing i = some x := by
  unfold State.issuing
  rw [hc]
  dsimp only
  rw [hw, he]
  dsimp only
  rw [hsp]
  exact ⟨_, rfl⟩

/-- The instruction a split offers to run is one that the machine issues in the state that offers it. -/
theorem State.issuing_of_offer {s t : State} {id slot : Nat} {i : Instr} (h : s.offer id slot = .run i t) :
    ∃ x, t.issuing i = some x := by
  unfold State.offer at h
  split at h
  · cases h
  · rename_i w hw
    split at h
    · cases h
    · rename_i sp hsp
      split at h
      · cases h
      · dsimp only at h
        have hwaves := s.fetch_waves w sp
        split at h
        · cases h
        · cases h
        · rename_i bs u hf
          rw [hf] at hwaves
          split at h
          · cases h
          · rename_i j rest hj
            cases h
            obtain ⟨e, he⟩ := decodeBytes_enc hj
            have hw' : u.wave? id = some w := by
              rw [State.wave?, show u.waves = s.waves from hwaves]; exact hw
            exact State.issuing_of_cur (c := ⟨id, slot, sp.pc, bs.length⟩) rfl hw' hsp he

theorem exec_goes_on {i : Instr} {s : State} {x : Iss} (h : s.issuing i = some x) : ∃ t, exec i s = .next t := by
  by_cases hres : ∃ w, i = .reservedOpcode w
  · obtain ⟨w, rfl⟩ := hres
    exact ⟨_, exec_reservedOpcode h⟩
  · obtain ⟨body, hexec | hexec⟩ := exec_issuing (fun w hw => hres ⟨w, hw⟩) h
    · exact ⟨_, hexec⟩
    · exact ⟨_, hexec⟩

theorem tryIssue_goes_on (l : List (Nat × Nat)) : ∀ s, ∃ t, tryIssue l s = .next t := by
  induction l with
  | nil => exact fun s => ⟨s, rfl⟩
  | cons p l ih =>
    intro s
    unfold tryIssue
    split
    · exact ih _
    · exact ⟨_, rfl⟩
    · rename_i i t hoffer
      obtain ⟨x, hx⟩ := State.issuing_of_offer hoffer
      obtain ⟨u, hu⟩ := exec_goes_on hx
      rw [hu]
      dsimp only
      split
      · exact ih _
      · exact ⟨_, rfl⟩

theorem perform_goes_on (m : Move) (s : State) : ∃ t, perform m s = .next t := by
  cases m with
  | tick => exact ⟨_, rfl⟩
  | issue q =>
    change ∃ t, issueMove q s = .next t
    unfold issueMove
    split
    · split
      · exact tryIssue_goes_on _ _
      · exact ⟨_, rfl⟩
    · exact ⟨_, rfl⟩
  | ev e =>
    by_cases he : e.enc = none
    · simpa [perform, he] using exec_event he s
    · exact ⟨s, by simp [perform, Option.isNone_iff_eq_none, he]⟩

/-- Settles O60: an event answers a next state whatever it finds, and an instruction is run only where the machine issues it. -/
theorem everyStepGoesOn : Obligations.EveryStepGoesOn := by
  unfold Obligations.EveryStepGoesOn State.steps
  intro s
  unfold step
  split <;> exact perform_goes_on _ _

end Sys2Proof.Machine
end


section
/-! SUPPORT. The sources of a floating-point instruction, and what one that sets flags leaves (R70, R71, R164). -/

namespace Sys2Proof.Machine

section
variable (x : Iss) (g : Gen) (l : Nat)

theorem Iss.aW_fa : (x.aW g (subW g) l).bits.toNat = x.fa g l := by
  unfold Iss.fa; cases subW g <;> simp [Val.wide_toNat]
theorem Iss.bW_fb : (x.bW g (subW g) .float l).bits.toNat = x.fb g l := by
  unfold Iss.fb; cases subW g <;> simp [Val.wide_toNat]
theorem Iss.cW_fc : (x.cW g (subW g) l).bits.toNat = x.fc g l := by
  unfold Iss.fc; cases subW g <;> simp [Val.wide_toNat]
theorem Iss.aW_pa : (x.aW g (subW g) l).poison = x.pa g l := by unfold Iss.pa; cases subW g <;> rfl
theorem Iss.bW_pb : (x.bW g (subW g) .float l).poison = x.pb g l := by unfold Iss.pb; cases subW g <;> rfl
theorem Iss.cW_pc : (x.cW g (subW g) l).poison = x.pc' g l := by unfold Iss.pc'; cases subW g <;> rfl

end

theorem fval_eq (r : FRes) (p : Bool) : fval r p = valueOf r p := rfl

theorem aW_eq (x : Iss) (g : Gen) (wide : Bool) (l : Nat) : x.aW g wide l = if wide then x.a64 g l else (x.a32 g l).wide := by
  cases wide <;> rfl
theorem bW_eq (x : Iss) (g : Gen) (wide : Bool) (e : Ext) (l : Nat) :
    x.bW g wide e l = if wide then x.b64 g e l else (x.b32 g l).wide := by
  cases wide <;> rfl

/-- An instruction whose body writes one value per active lane with its flags. -/
theorem floats_of_body {i : Instr} {wide : Bool} {d : Fld} {f : Iss → Nat → Val64 × Flags} {body : Iss → Res}
    (hexec : ∀ s, exec i s = issueWave i body s) (hbody : ∀ x, body x = x.float d wide (f x)) : Floats i wide d f := by
  intro s x h
  exact h.arith (hexec s) (f := fun l => (f x l).2) (by rw [hbody]; rfl)

end Sys2Proof.Machine
end

section
/-! CLAIM. Floating-point arithmetic (R184, R185, R187). -/

namespace Sys2Proof.Machine

theorem floats_float1 {i : Instr} {g : Gen} (op : Fmt → Ctl → Nat → FRes)
    (hexec : ∀ s, exec i s = issueWave i (float1 g op) s) :
    Floats i (subW g) g.d fun x l => valueOf (op (fmtF g) (x.ctl g l) (x.fa g l)) (x.pa g l) :=
  floats_of_body hexec fun x => by simp only [float1, Iss.aW_fa, Iss.aW_pa, fval_eq]

theorem floats_float2 {i : Instr} {g : Gen} (op : Fmt → Ctl → Nat → Nat → FRes)
    (hexec : ∀ s, exec i s = issueWave i (float2 g op) s) :
    Floats i (subW g) g.d fun x l => valueOf (op (fmtF g) (x.ctl g l) (x.fa g l) (x.fb g l)) (x.pa g l || x.pb g l) :=
  floats_of_body hexec fun x => by simp only [float2, Iss.aW_fa, Iss.aW_pa, Iss.bW_fb, Iss.bW_pb, fval_eq]

/-- Settles O5: each writes one value with its flags per active lane, at the width F selects. -/
theorem floatArithmeticResults : Obligations.FloatArithmeticResults := by
  unfold Obligations.FloatArithmeticResults
  refine fun g => ⟨?fadd, ?fsub, ?fmul, ?ffma, ?fmin, ?fmax, ?frnd, ?fscl⟩
  case fadd => exact floats_float2 fAdd fun _ => rfl
  case fsub => exact floats_float2 fSub fun _ => rfl
  case fmul => exact floats_float2 fMul fun _ => rfl
  case ffma =>
    refine floats_of_body (fun _ => rfl) fun x => ?_
    simp only [Iss.aW_fa, Iss.aW_pa, Iss.bW_fb, Iss.bW_pb, Iss.cW_fc, Iss.cW_pc, fval_eq]
  case fmin => exact floats_float2 (fun f c a b => fMinMax f c.fin false a b) fun _ => rfl
  case fmax => exact floats_float2 (fun f c a b => fMinMax f c.fin true a b) fun _ => rfl
  case frnd => exact floats_float1 fRnd fun _ => rfl
  case fscl =>
    refine floats_of_body (fun _ => rfl) fun x => ?_
    simp only [Iss.aW_fa, Iss.aW_pa, signedOf_toNat, fval_eq]

end Sys2Proof.Machine
end

section
/-! CLAIM. Conversions, packed halves, dot products, FSET and FCLASS (R178 to R180, R186, R188, R190, R191). -/

namespace Sys2Proof.Machine

/-- Settles O7: all but FSET and FCLASS write one value with its flags per active lane; FSET's poisoned lanes and trapping lanes
are two sets of lanes, whose lowest lanes decide. -/
theorem conversionAndTestResults : Obligations.ConversionAndTestResults := by
  unfold Obligations.ConversionAndTestResults
  refine ⟨fun g => ⟨?cvt, ?pack, ?unpk, ?pkadd, ?pkmul, ?pkfma, ?fdot⟩, fun g s x => ⟨fun h => ?fset, fun h => ?fclass⟩⟩
  case cvt => exact floats_of_body (fun _ => rfl) fun x => by simp only [aW_eq, fval_eq]
  case pack => exact floats_of_body (fun _ => rfl) fun x => rfl
  case unpk => exact floats_of_body (fun _ => rfl) fun x => rfl
  case pkadd => exact floats_of_body (fun _ => rfl) fun x => rfl
  case pkmul => exact floats_of_body (fun _ => rfl) fun x => rfl
  case pkfma => exact floats_of_body (fun _ => rfl) fun x => rfl
  case fdot => exact floats_of_body (fun _ => rfl) fun x => rfl
  case fset =>
    intro wide a b r pz bad
    have hexec : exec (.fset g) s = .next (x.finish (
        if pz != 0#64 && (bad == 0#64 || lowest pz ≤ lowest bad) then x.poison pz 0
        else if bad != 0#64 then x.raise ⟨.arith, bad, 0, none⟩
        else x.done (x.setModes (x.putPred x.w g.d x.act (x.lanesWhere fun l => (r l).1)) fun l => (r l).2))) := by
      rw [show exec (.fset g) s = execFset g s from rfl, execFset, h.meaning]
      simp only [aW_eq, bW_eq]
      rfl
    rw [hexec]
    refine ⟨fun hpz hbad => ?_, fun hpz hbad => ?_, fun hbad hpz => ?_⟩
    · rw [if_neg (by simp [hpz]), if_neg (by simp [hbad]), Iss.finish_done]
    · rw [if_pos (by simpa [hpz] using hbad), Iss.poison, Iss.report, h.s_eq]
    · have first : ¬((pz != 0#64 && (bad == 0#64 || decide (lowest pz ≤ lowest bad))) = true) := by
        rcases hpz with hpz | hpz
        · simp [hpz]
        · simp [hbad, hpz]
      rw [if_neg first, if_pos (by simpa using hbad), Iss.raise, h.s_eq]
  case fclass =>
    rw [h.alu (wide := false) rfl rfl]
    have source (l : Nat) : natOf (widthOf (subW g)) (x.aW g (subW g) l) = x.fa g l := by
      unfold Iss.fa; cases subW g <;> simp [natOf_wide, natOf_64]
    simp only [Bool.false_eq_true, if_false, val64_lo, Iss.aW_pa, source]

end Sys2Proof.Machine
end

section
/-! CLAIM. The quadrant's unit: SFU and FDIV (R150, R168, R170). -/

namespace Sys2Proof.Machine

/-- What puts an instruction into the unit: it waits while the unit is taken; a trapping lane leaves it without results. -/
theorem Issues.toUnit {i : Instr} {s : State} {x : Iss} (h : Issues i s x) {d : Fld} {wide : Bool} {clocks : Nat}
    {f : Nat → Val64 × Flags} {body : Iss → Res} (hexec : exec i s = issueWave i body s)
    (hbody : body x = Machine.toUnit x d wide clocks f) :
    (s.clk < (s.quad x.w.quadNo).unitUntil → exec i s = .next s) ∧
    ((s.quad x.w.quadNo).unitUntil ≤ s.clk →
      let bad := x.lanesWhere fun l => (f l).2 &&& trapEnables (x.modeOf l) != 0#5
      let wo := x.w.addDests x (x.opOf .value) d (if wide then 2 else 1)
      let o : Op := { wo.2 with
        result := if bad = 0#64 then x.lanes.map fun l => (l, (f l).1) else []
        flags := (lanesOf (if bad = 0#64 then x.act else bad)).map fun l => (l, (f l).2)
        olds := wo.2.dests.filterMap fun t => match t with
          | .reg name p => some (p, x.w.phys? x.sp.win name)
          | _ => none }
      exec i s = .next (x.complete
        ((s.putWave { wo.1 with ops := wo.1.ops ++ [o] }).modQuad x.w.quadNo fun q =>
          { q with unit := q.unit ++ [(x.w.id, x.uid)], unitUntil := s.clk + clocks }) true)) := by
  have hclk : x.clk = s.clk := by rw [Iss.clk, h.s_eq]
  refine ⟨fun htaken => ?_, fun hfree => ?_⟩
  · rw [hexec, h.meaning, hbody, Machine.toUnit, hclk, h.s_eq, if_pos htaken]
    rfl
  · dsimp only
    rw [hexec, h.meaning, hbody, Machine.toUnit, hclk, h.s_eq, if_neg (by omega), Iss.arithLanes]
    by_cases hbad : (x.lanesWhere fun l => (f l).2 &&& trapEnables (x.modeOf l) != 0#5) = 0#64
    · simp only [hbad, bne_self_eq_false, if_true, Bool.false_eq_true, if_false]
      rfl
    · simp only [bne_iff_ne, ne_eq, hbad, not_false_eq_true, if_true, if_false]
      rfl

theorem State.pick_clk {α : Type} (s : State) (l : List α) : (s.pick l).2.clk = s.clk := by
  unfold State.pick
  split <;> rfl

/-- Settles O8: both start by the same rule, and the unit's completion delivers what was put into it. -/
theorem unitInstructionResults : Obligations.UnitInstructionResults := by
  unfold Obligations.UnitInstructionResults
  refine ⟨fun g s x => ⟨fun h => ?fdiv, fun h => ?sfu⟩, fun q id uid s s' w o hpick hw ho => ?complete⟩
  case fdiv =>
    refine h.toUnit rfl ?_
    simp only [Iss.aW_fa, Iss.aW_pa, Iss.bW_fb, Iss.bW_pb, fval_eq]
  case sfu => exact h.toUnit rfl rfl
  case complete =>
    intro free
    have hop : (free.wave? id).bind (·.op? uid) = some o := by
      rw [show free.wave? id = s'.wave? id from rfl, hw]; exact ho
    have hclk : free.clk = s.clk := by
      rw [show free.clk = s'.clk from rfl, ← State.pick_clk s (s.quad q).unit, hpick]
    have found : exec (.sfuComplete q) s = .next (if o.result.isEmpty then
        (free.reportOp id o ⟨.arith, laneSet (o.flags.map (·.1)), 0, none⟩).modWave id fun w =>
          o.olds.foldl (fun w e => w.takeBack e.1 e.2 free.clk) (w.finishOp uid free.clk)
      else free.modWave id fun w =>
        (o.flags.foldl (fun w r => w.addFlags o.no r.1 r.2) (o.result.foldl (fun w r => w.deliver64 o r.1 r.2) w)).finishOp
          uid free.clk) := by
      rw [show exec (.sfuComplete q) s = execSfuComplete q s from rfl, execSfuComplete, hpick]
      dsimp only
      rw [hop]
    rw [found, hclk]
    refine ⟨fun hres => ?_, fun hres => ?_⟩
    · rw [if_neg (by simpa using hres)]
      rfl
    · rw [if_pos (by simpa using hres)]

end Sys2Proof.Machine
end


section
/-! SUPPORT. Rounding a value that a format holds (R60, R65 to R67): nothing is lost. -/

namespace Sys2Proof.Machine

theorem expOf_one {m : Nat} (hm : m ≠ 0) (e : Int) : expOf m 1 e = Nat.log2 m + e := by
  have hlog : 2 ^ Nat.log2 m ≤ m := Nat.log2_self_le hm
  have hscale : scaleQ m 1 (-(Nat.log2 m : Int)) = (m, 2 ^ Nat.log2 m) := by
    unfold scaleQ
    split
    · rename_i h
      have h0 : Nat.log2 m = 0 := by omega
      simp [h0]
    · simp
  have hone : Nat.log2 1 = 0 := rfl
  simp only [expOf, hone, Nat.cast_zero, sub_zero, hscale, if_neg (Nat.not_lt.2 hlog)]

/-- A mantissa below 2^(fbits + 1) at an exponent up to the largest finite one's exceeds it only at that exponent. -/
theorem Fmt.exceeds_eq_false {f : Fmt} {m : Nat} {q : Int} (hm : m < 2 ^ (f.fbits + 1)) (hq : q ≤ f.maxFinite.2)
    (htop : q = f.maxFinite.2 → m ≤ f.maxFinite.1) : f.exceeds m q = false := by
  have hdouble : 2 ^ (f.fbits + 1) ≤ 2 * f.maxFinite.1 + 1 := by cases f <;> decide
  have unfolded : f.exceeds m q = if 0 ≤ q - f.maxFinite.2 then decide (m * 2 ^ (q - f.maxFinite.2).toNat > f.maxFinite.1)
      else decide (m > f.maxFinite.1 * 2 ^ (-(q - f.maxFinite.2)).toNat) := rfl
  rw [unfolded]
  split
  · rename_i h
    have hqe : q = f.maxFinite.2 := by omega
    simpa [hqe] using htop hqe
  · rename_i h
    obtain ⟨k, hk⟩ : ∃ k, (-(q - f.maxFinite.2)).toNat = k + 1 := ⟨(-(q - f.maxFinite.2)).toNat - 1, by omega⟩
    have hpow : 1 ≤ 2 ^ k := Nat.one_le_two_pow
    have hscaled : f.maxFinite.1 * 2 ≤ f.maxFinite.1 * 2 ^ (k + 1) := Nat.mul_le_mul_left _ (by rw [pow_succ]; omega)
    rw [hk]
    simp only [gt_iff_lt, decide_eq_false_iff_not, not_lt]
    omega

theorem scaleQ_one_nat (m : Nat) {e : Int} {k : Nat} (he : e = k) : scaleQ m 1 e = (m * 2 ^ k, 1) := by
  subst he
  simp [scaleQ]

theorem roundInt_one (dir : Dir) (neg : Bool) (n : Nat) : roundInt dir neg n 1 = (n, true) := by
  simp [roundInt, Nat.mod_one]

/-- A mantissa with its leading bit in place, at an exponent of the format, is packed as it is. -/
theorem Fmt.round_normal {f : Fmt} {m : Nat} {e : Int} (dir : Dir) (neg : Bool) (hlo : 2 ^ f.fbits ≤ m)
    (hhi : m < 2 ^ (f.fbits + 1)) (hmin : f.emin - f.fbits ≤ e) (hmax : f.exceeds m e = false) :
    f.round dir false neg m 1 e = (f.pack neg m e, 0#5) := by
  have h0 : m ≠ 0 := by have := Nat.one_le_two_pow (n := f.fbits); omega
  have hlog : Nat.log2 m = f.fbits := (Nat.log2_eq_iff h0).2 ⟨hlo, hhi⟩
  have hex : expOf m 1 e = f.fbits + e := by rw [expOf_one h0, hlog]
  have hq : (f.fbits : Int) + e - f.fbits = e := by omega
  unfold Fmt.round
  simp only [hex, hq, scaleQ_one_nat m (k := 0) (by simp : e - e = ((0 : Nat) : Int)), pow_zero, mul_one, roundInt_one, hmax,
    Bool.false_eq_true, if_false, if_neg (Nat.ne_of_lt hhi), if_true]
  rw [if_neg (by omega)]

/-- A smaller mantissa, at the subnormal exponent, is packed as it is. -/
theorem Fmt.round_subnormal {f : Fmt} {m : Nat} (dir : Dir) (neg : Bool) (h0 : m ≠ 0) (hhi : m < 2 ^ f.fbits) :
    f.round dir false neg m 1 (f.emin - f.fbits) = (f.pack neg m (f.emin - f.fbits), 0#5) := by
  have hlog : Nat.log2 m < f.fbits := (Nat.log2_lt h0).2 hhi
  obtain ⟨k, hk⟩ : ∃ k, f.fbits = Nat.log2 m + k + 1 := ⟨f.fbits - Nat.log2 m - 1, by omega⟩
  have hex := expOf_one h0 (f.emin - f.fbits)
  have hself := Nat.lt_log2_self (n := m)
  have hscaled : m * 2 ^ (k + 1) < 2 ^ (f.fbits + 1) := by
    calc m * 2 ^ (k + 1) < 2 ^ (Nat.log2 m + 1) * 2 ^ (k + 1) := Nat.mul_lt_mul_of_pos_right hself (by positivity)
      _ = 2 ^ (f.fbits + 1) := by rw [← pow_add, hk]; congr 1; omega
  have hmin : f.emin - f.fbits ≤ f.maxFinite.2 := by cases f <;> decide
  have hmax : f.exceeds (m * 2 ^ (k + 1)) (Nat.log2 m + (f.emin - f.fbits) - f.fbits) = false :=
    Fmt.exceeds_eq_false hscaled (by omega) (by omega)
  unfold Fmt.round
  simp only [hex, scaleQ_one_nat m (k := k + 1)
    (by omega : f.emin - f.fbits - ((Nat.log2 m : Int) + (f.emin - f.fbits) - f.fbits) = ((k + 1 : Nat) : Int)), roundInt_one,
    hmax, Bool.false_eq_true, if_false, if_neg (Nat.ne_of_lt hscaled)]
  rw [if_pos (by omega), scaleQ_one_nat m (k := 0) (by simp)]
  simp [roundInt_one]

/-- The fields of a bit pattern of a format's width. -/
theorem Fmt.bits_eq_fields (f : Fmt) {bits : Nat} (h : bits < 2 ^ f.width) :
    bits = f.zero (bits.testBit (f.width - 1)) + (bits / 2 ^ f.fbits % 2 ^ f.ebits) * 2 ^ f.fbits + bits % 2 ^ f.fbits := by
  have hbit : f.zero (bits.testBit (f.width - 1)) = bits / 2 ^ f.fbits / 2 ^ f.ebits * 2 ^ f.ebits * 2 ^ f.fbits := by
    have hw : f.width - 1 = f.fbits + f.ebits := by unfold Fmt.width; omega
    have hlt : bits / 2 ^ (f.fbits + f.ebits) < 2 := by
      rw [Nat.div_lt_iff_lt_mul (by positivity)]
      calc bits < 2 ^ f.width := h
        _ = 2 * 2 ^ (f.fbits + f.ebits) := by rw [← pow_succ', Fmt.width]; congr 1; omega
    rw [Fmt.zero, Nat.testBit_eq_decide_div_mod_eq, hw, Nat.div_div_eq_div_mul, ← pow_add, mul_assoc, ← pow_add,
      Nat.add_comm f.ebits, Nat.mod_eq_of_lt hlt]
    generalize bits / 2 ^ (f.fbits + f.ebits) = q at hlt ⊢
    interval_cases q <;> simp
  rw [hbit, ← Nat.add_mul, Nat.div_add_mod', Nat.div_add_mod']

theorem Fmt.round_decode {f : Fmt} {bits m : Nat} {neg : Bool} {e : Int} (dir : Dir) (hbits : bits < 2 ^ f.width)
    (hdec : f.decode bits = .fin neg m e) (h0 : m ≠ 0) : f.round dir false neg m 1 e = (bits, 0#5) := by
  have hfields := f.bits_eq_fields hbits
  have hfr : bits % 2 ^ f.fbits < 2 ^ f.fbits := Nat.mod_lt _ (by positivity)
  have hE : bits / 2 ^ f.fbits % 2 ^ f.ebits < 2 ^ f.ebits := Nat.mod_lt _ (by positivity)
  unfold Fmt.decode at hdec
  rw [Nat.mod_eq_of_lt hbits] at hdec
  dsimp only at hdec
  generalize bits / 2 ^ f.fbits % 2 ^ f.ebits = E at *
  generalize bits % 2 ^ f.fbits = fr at *
  split at hdec
  · cases hdec
  · rename_i hnan
    split at hdec
    · split at hdec <;> cases hdec
    · rename_i hinf
      split at hdec
      · rename_i hsub
        cases hdec
        rw [Fmt.round_subnormal dir _ h0 hfr, Fmt.pack, if_pos hfr]
        simp [hsub] at hfields
        rw [← hfields]
      · rename_i hnorm
        cases hdec
        have hpow : 2 ^ (f.fbits + 1) = 2 ^ f.fbits + 2 ^ f.fbits := by ring
        have hle : ((E : Int) - f.bias - f.fbits ≤ f.maxFinite.2) ∧
            ((E : Int) - f.bias - f.fbits = f.maxFinite.2 → 2 ^ f.fbits + fr ≤ f.maxFinite.1) := by
          cases f <;> simp [Fmt.hasInf, Fmt.ebits, Fmt.fbits, Fmt.bias, Fmt.maxFinite] at hnan hinf hE hfr ⊢ <;> omega
        rw [Fmt.round_normal dir _ (by omega) (by omega) (by unfold Fmt.emin; omega)
          (Fmt.exceeds_eq_false (by omega) hle.1 hle.2), Fmt.pack, if_neg (by omega)]
        rw [show ((E : Int) - f.bias - f.fbits + f.bias + f.fbits).toNat = E by omega, Nat.add_sub_cancel_left, ← Nat.add_assoc,
          ← hfields]

end Sys2Proof.Machine
end

section
/-! CLAIM. Special operands of the floating-point operations (R184), and representable values (R65, R67). -/

namespace Sys2Proof.Machine

/-- The factors 0 and ∞ of a product (R184). -/
def Num.zeroTimesInf : Num → Num → Bool
  | .fin _ n _, .inf _ => n == 0
  | .inf _, .fin _ n _ => n == 0
  | _, _ => false

theorem Num.isNan_iff {a : Num} : a.isNan = true ↔ ∃ nv, a = .nan nv := by cases a <;> simp [Num.isNan]

@[simp] theorem Num.isNan_neg (a : Num) : a.neg.isNan = a.isNan := by cases a <;> rfl
@[simp] theorem Num.raisesNV_neg (a : Num) : a.neg.raisesNV = a.raisesNV := by cases a <;> rfl

theorem Num.isNan_mul (a b : Num) : (a.mul b).isNan = (a.isNan || b.isNan || a.zeroTimesInf b) := by
  cases a <;> cases b <;> simp only [Num.mul] <;> (try split) <;> simp_all [Num.isNan, Num.zeroTimesInf]

theorem Num.raisesNV_mul (a b : Num) : (a.mul b).raisesNV = (a.raisesNV || b.raisesNV || a.zeroTimesInf b) := by
  cases a <;> cases b <;> simp only [Num.mul] <;> (try split) <;> simp_all [Num.raisesNV, Num.zeroTimesInf]

theorem Num.eq_nan_raisesNV {a : Num} (h : a.isNan = true) : a = .nan a.raisesNV := by cases a <;> first | rfl | cases h

/-- A NaN among two terms: the sum is one, and no two infinities oppose each other. -/
theorem exactSum_of_nan {a b : Num} (h : (a.isNan || b.isNan) = true) :
    exactSum [a, b] = .nan (a.raisesNV || b.raisesNV) := by
  have hopposed : (([a, b].any (Num.isInf true)) && [a, b].any (Num.isInf false)) = false := by
    cases a <;> cases b <;> simp_all [Num.isNan, Num.isInf]
  have hnan : [a, b].any Num.isNan = true := by simpa using h
  have hnv : [a, b].any Num.raisesNV = (a.raisesNV || b.raisesNV) := by simp
  simp only [exactSum, hopposed, hnan, hnv, Bool.or_false, if_true]

theorem Fmt.source_zero {f : Fmt} (fin sgn : Bool) : f.hasInf = true → f.source fin (f.zero sgn) = .fin sgn 0 (f.emin - f.fbits) := by
  cases f <;> cases fin <;> cases sgn <;> decide

theorem Fmt.source_infinity {f : Fmt} (fin sgn : Bool) : f.hasInf = true → f.source fin (f.infinity sgn) = .inf sgn := by
  cases f <;> cases fin <;> cases sgn <;> decide

section
variable (f : Fmt) (c : Ctl) (a b x : Nat)

theorem fAdd_nan (h : ((f.source c.fin a).isNan || (f.source c.fin b).isNan) = true) :
    fAdd f c a b = (f.nan, nvIf ((f.source c.fin a).raisesNV || (f.source c.fin b).raisesNV)) := by
  rw [fAdd, exactSum_of_nan h, Fmt.roundSum]

theorem fSub_nan (h : ((f.source c.fin a).isNan || (f.source c.fin b).isNan) = true) :
    fSub f c a b = (f.nan, nvIf ((f.source c.fin a).raisesNV || (f.source c.fin b).raisesNV)) := by
  rw [fSub, exactSum_of_nan (by rwa [Num.isNan_neg]), Num.raisesNV_neg, Fmt.roundSum]

theorem fMul_nan (h : ((f.source c.fin a).isNan || (f.source c.fin b).isNan) = true) :
    fMul f c a b = (f.nan, nvIf ((f.source c.fin a).raisesNV || (f.source c.fin b).raisesNV)) := by
  unfold fMul
  have hz : (f.source c.fin a).zeroTimesInf (f.source c.fin b) = false := by
    revert h
    cases f.source c.fin a <;> cases f.source c.fin b <;> simp [Num.isNan, Num.zeroTimesInf]
  rw [Num.eq_nan_raisesNV (a := (f.source c.fin a).mul _) (by simp [Num.isNan_mul, h]), Num.raisesNV_mul, hz, Bool.or_false,
    Fmt.roundNum]

theorem fDiv_nan (h : ((f.source c.fin a).isNan || (f.source c.fin b).isNan) = true) :
    fDiv f c a b = (f.nan, nvIf ((f.source c.fin a).raisesNV || (f.source c.fin b).raisesNV)) := by
  unfold fDiv
  revert h
  cases f.source c.fin a <;> cases f.source c.fin b <;> simp [Num.isNan, Num.raisesNV]

/-- A NaN among FFMA's sources, or factors 0 and ∞. -/
theorem fFma_nan (h : ((f.source c.fin a).isNan || (f.source c.fin b).isNan ||
      (f.source c.fin a).zeroTimesInf (f.source c.fin b) || (f.source c.fin x).isNan) = true) :
    fFma f c a b x = (f.nan, nvIf ((f.source c.fin a).raisesNV || (f.source c.fin b).raisesNV ||
      (f.source c.fin x).raisesNV || (f.source c.fin a).zeroTimesInf (f.source c.fin b))) := by
  rw [fFma, exactSum_of_nan (by rwa [Num.isNan_mul]), Num.raisesNV_mul, Fmt.roundSum]
  congr 2
  cases (f.source c.fin a).raisesNV <;> cases (f.source c.fin b).raisesNV <;> simp [Bool.or_comm]

end

/-- Settles O6: a NaN, opposed infinities, or factors 0 and ∞ decide a sum or a product before any rounding, and a value that a
format holds keeps its bits under one. -/
theorem floatSpecialOperands : Obligations.FloatSpecialOperands := by
  unfold Obligations.FloatSpecialOperands
  refine ⟨fun f c hinf a b x neg sgn m e k => ?special, fun f dir bits neg m e hbits hdec h0 => Fmt.round_decode dir hbits hdec h0⟩
  have zero (s : Bool) := Fmt.source_zero (f := f) c.fin s hinf
  have infinity (s : Bool) := Fmt.source_infinity (f := f) c.fin s hinf
  intro nan signals zeroByInf
  have hzero : zeroByInf = (f.source c.fin a).zeroTimesInf (f.source c.fin b) := by
    dsimp only [zeroByInf]
    cases f.source c.fin a <;> cases f.source c.fin b <;> rfl
  have hnan {v : Nat} (h : nan v) : (f.source c.fin v).isNan = true := Num.isNan_iff.2 h
  refine ⟨fun h => ?_, fun h => ?_, fun h => ?_, ?_, ?_, infinity sgn, zero sgn, ?_, ?_, ?_, ?_, ?_, ?_, ?_, ?_, fun ha hm => ?_⟩
  · have two : ((f.source c.fin a).isNan || (f.source c.fin b).isNan) = true := by
      rcases h with h | h <;> simp [hnan h]
    exact ⟨fAdd_nan f c a b two, fSub_nan f c a b two, fMul_nan f c a b two, fDiv_nan f c a b two⟩
  · rw [hzero]
    exact fFma_nan f c a b x (by rcases h with h | h | h <;> simp [hnan h])
  · obtain ⟨nv, h⟩ := h
    simp [fScl, signals, h, Fmt.roundNum, Num.raisesNV]
  · simp [fScl, zero]
  · simp [fScl, infinity, Fmt.roundNum, hinf]
  · cases neg <;> simp [fAdd, infinity, exactSum, Num.isInf, Num.isNan, Num.raisesNV, Fmt.roundSum, nvIf]
  · cases neg <;> simp [fSub, infinity, Num.neg, exactSum, Num.isInf, Num.isNan, Num.raisesNV, Fmt.roundSum, nvIf]
  · simp [fMul, zero, infinity, Num.mul, Fmt.roundNum, nvIf]
  · simp [fMul, zero, infinity, Num.mul, Fmt.roundNum, nvIf]
  · rw [fFma_nan f c _ _ x (by simp [zero, infinity, Num.zeroTimesInf])]
    simp [zero, infinity, Num.zeroTimesInf, nvIf]
  · rw [fFma_nan f c _ _ x (by simp [zero, infinity, Num.zeroTimesInf])]
    simp [zero, infinity, Num.zeroTimesInf, nvIf]
  · simp [fDiv, zero]
  · simp [fDiv, infinity]
  · simp [fDiv, ha, zero, hm]

end Sys2Proof.Machine
end


section
/-! CLAIM. SCANL and REDL by the tree of their operator (R77, R199 to R201). -/

namespace Sys2Proof.Machine

/-- Settles O10: both write one value of the tree with its flags per active lane; a lane that receives no tree lane takes ε. -/
theorem scanAndReduceResults : Obligations.ScanAndReduceResults := by
  unfold Obligations.ScanAndReduceResults
  intro g sub wide y at_ tainted flags
  refine ⟨?scanl, ?redl⟩
  case redl => exact floats_of_body (fun _ => rfl) fun x => rfl
  case scanl =>
    cases hsub : g.sub.getLsbD 4
    · exact floats_of_body (fun _ => rfl) fun x => by simp only [scanBody, hsub]; rfl
    · refine floats_of_body (fun _ => rfl) fun x => ?_
      simp only [scanBody, hsub, if_true, Bool.true_eq_false, if_false]
      congr 1
      funext l
      cases l <;> rfl

end Sys2Proof.Machine
end

section
/-! CLAIM. RDLANE, WRLANE, COMPRESS and EXPAND (R183, R204). -/

namespace Sys2Proof.Machine

theorem laneSet_singleton (k : Nat) : laneSet [k] = 1#64 <<< k := by simp [laneSet]

/-- What a move of lanes to lanes writes, at the width W selects. -/
theorem Issues.moveLanes {i : Instr} {g : Gen} {s : State} {x : Iss} (h : Issues i s x) {src dst : Iss → List Nat}
    (hexec : exec i s = issueWave i (fun x => moveLanes g x (src x) (dst x)) s) :
    let pairs := (dst x).zip (src x)
    let dest := laneSet (pairs.map (·.1))
    exec i s = .next (x.leaves (
      if subW g then x.putPair x.w g.d dest fun l => (lookupKey l pairs).elim ⟨0#64, false⟩ (x.a64 g)
      else x.put x.w g.d 0 dest fun l => (lookupKey l pairs).elim ⟨0#32, false⟩ (x.a32 g))) := by
  intro pairs dest
  rw [hexec, h.meaning, Machine.moveLanes, Iss.finish_done]
  cases subW g <;> simp only [Iss.putW, Bool.false_eq_true, if_false, if_true] <;> congr 3 <;> funext l
  case false =>
    cases lookupKey l pairs with
    | none => rfl
    | some j => exact Val.wide_lo _
  case true => cases lookupKey l pairs <;> rfl

/-- Settles O13: RDLANE writes one value in every active lane; the others write the lanes they name, each from its source. -/
theorem laneMoveResults : Obligations.LaneMoveResults := by
  unfold Obligations.LaneMoveResults
  refine ⟨fun g s x => ⟨fun h => ?rdlane, fun h => ?wrlane⟩, fun g s x => ⟨fun h => ?compress, fun h => ?expand⟩⟩
  case rdlane =>
    rw [h.alu rfl rfl]
    cases subW g
    · simp only [Iss.aW_false, apply_ite Val64.lo, Val.wide_lo, Bool.false_eq_true, if_false]; rfl
    · rfl
  case wrlane =>
    rw [show exec (.wrlane g) s = execWrlane g s from rfl, execWrlane, h.meaning, Iss.finish_done]
    cases subW g
    · simp only [Iss.putW, laneSet_singleton, Iss.aW_false, Val.lo_wide_bits, Val.wide_poison, Bool.false_eq_true, if_false]
    · simp only [Iss.putW, laneSet_singleton, Iss.aW_true, if_true]
  case compress =>
    exact h.moveLanes (src := fun x => x.lanes.filter (x.predBit g.b)) (dst := fun x => x.lanes) rfl
  case expand =>
    exact h.moveLanes (src := fun x => x.lanes) (dst := fun x => x.lanes.filter (x.predBit g.b)) rfl

end Sys2Proof.Machine
end

section
/-! CLAIM. Words written out from the spec's encodings. -/

namespace Sys2Proof.Machine

/-- Settles O54: the decoder evaluated on each word sequence. -/
theorem wordsDecodeAsTheSpecSays : Obligations.WordsDecodeAsTheSpecSays := by
  unfold Obligations.WordsDecodeAsTheSpecSays
  exact ⟨rfl, rfl, rfl, rfl, rfl, rfl, rfl, rfl, rfl, rfl, rfl, rfl, rfl⟩

end Sys2Proof.Machine
end


section
/-! CLAIM. The integer scan tree gives each lane the fold up to it (R77, R199). -/

namespace Sys2Proof.Machine

/-- The codes of the operators of SCANL and REDL that work on integers (R199). -/
def ScanInteger (sub : Nat) : Prop := sub ∈ [0, 2, 3, 5, 6, 8, 9, 10]

/-- An operator of R199 with ε, which gives the other operand unchanged (R77). -/
def scanJoin (sub : Nat) (k : Ctl) : Option Nat → Option Nat → Option Nat
  | some p, some q => some (scanOp sub k p q).1
  | some p, none => some p
  | none, q => q

@[simp] theorem scanJoin_none_left (sub : Nat) (k : Ctl) (a : Option Nat) : scanJoin sub k none a = a := rfl
@[simp] theorem scanJoin_none_right (sub : Nat) (k : Ctl) (a : Option Nat) : scanJoin sub k a none = a := by cases a <;> rfl

/-- The larger of two by a key, the left one where they are level, in either order of combining three. -/
theorem leftmostMax_assoc (key : Nat → Int) (x y z : Nat) :
    let m (x y : Nat) := if key x < key y then y else x
    m (m x y) z = m x (m y z) := by
  dsimp only
  split_ifs <;> omega

theorem scanOp_assoc {sub : Nat} (h : ScanInteger sub) (k : Ctl) (x y z : Nat) :
    (scanOp sub k (scanOp sub k x y).1 z).1 = (scanOp sub k x (scanOp sub k y z).1).1 := by
  simp only [ScanInteger, List.mem_cons, List.not_mem_nil, or_false] at h
  rcases h with rfl | rfl | rfl | rfl | rfl | rfl | rfl | rfl
  case _ => simp only [scanOp]; omega
  case _ => exact leftmostMax_assoc (signedOf 32) x y z
  case _ => exact Nat.max_assoc x y z
  case _ =>
    have := leftmostMax_assoc (fun x => - signedOf 32 x) x y z
    simpa only [scanOp, neg_lt_neg_iff] using this
  case _ => exact Nat.min_assoc x y z
  case _ => exact Nat.and_assoc x y z
  case _ => exact Nat.or_assoc x y z
  case _ => exact Nat.xor_assoc x y z

theorem scanJoin_assoc {sub : Nat} (h : ScanInteger sub) (k : Ctl) (a b c : Option Nat) :
    scanJoin sub k (scanJoin sub k a b) c = scanJoin sub k a (scanJoin sub k b c) := by
  cases a <;> cases b <;> cases c <;> simp [scanJoin, scanOp_assoc h]

/-- No mode word touches an integer operator. -/
theorem scanOp_ctl {sub : Nat} (h : ScanInteger sub) (c k : Ctl) (x y : Nat) : scanOp sub c x y = scanOp sub k x y := by
  simp only [ScanInteger, List.mem_cons, List.not_mem_nil, or_false] at h
  rcases h with rfl | rfl | rfl | rfl | rfl | rfl | rfl | rfl <;> rfl

theorem treeCombine_value {sub : Nat} (h : ScanInteger sub) (c k : Ctl) (x y : TreeLane) :
    (treeCombine sub c x y).1 = scanJoin sub k x.1 y.1 := by
  obtain ⟨_ | a, fx⟩ := x <;> obtain ⟨_ | b, fy⟩ := y <;> simp [treeCombine, scanJoin, scanOp_ctl h c k]

/-- The fold over a list that is cut in two is the operator's value of the two folds. -/
theorem foldl_scanJoin_append {sub : Nat} (h : ScanInteger sub) (k : Ctl) (l r : List (Option Nat)) :
    (l ++ r).foldl (scanJoin sub k) none =
      scanJoin sub k (l.foldl (scanJoin sub k) none) (r.foldl (scanJoin sub k) none) := by
  have : Std.Associative (scanJoin sub k) := ⟨scanJoin_assoc h k⟩
  rw [List.foldl_append, ← List.foldl_assoc (op := scanJoin sub k), scanJoin_none_right]

/-- What lane i holds once each lane has gathered the d lanes that end with it. -/
def gathered (sub : Nat) (k : Ctl) (vals : List (Option Nat)) (d i : Nat) : Option Nat :=
  ((vals.take (i + 1)).drop (i + 1 - d)).foldl (scanJoin sub k) none

theorem gathered_one (sub : Nat) (k : Ctl) {vals : List (Option Nat)} {i : Nat} (hi : i < vals.length) :
    gathered sub k vals 1 i = vals[i] := by
  rw [gathered, List.take_succ_eq_append_getElem hi, Nat.add_sub_cancel, List.drop_left' (by simp [hi.le])]
  rfl

theorem gathered_all (sub : Nat) (k : Ctl) (vals : List (Option Nat)) {d i : Nat} (h : i < d) :
    gathered sub k vals d i = (vals.take (i + 1)).foldl (scanJoin sub k) none := by
  simp [gathered, show i + 1 - d = 0 by omega]

theorem drop_take_split {α : Type} (l : List α) {a b c : Nat} (hab : a ≤ b) (hbc : b ≤ c) :
    (l.take c).drop a = (l.take b).drop a ++ (l.take c).drop b := by
  conv_lhs => rw [← List.take_append_drop b (l.take c), List.take_take, Nat.min_eq_left hbc]
  rcases Nat.le_total b l.length with h | h
  · rw [List.drop_append_of_le_length (by simp [h, hab])]
  · rw [List.drop_of_length_le (l := l.take c) (by simp; omega), List.append_nil, List.append_nil]

/-- One level doubles what a lane has gathered. -/
theorem gathered_double {sub : Nat} (h : ScanInteger sub) (k : Ctl) (vals : List (Option Nat)) {d i : Nat} (hd : d ≤ i) :
    gathered sub k vals (2 * d) i = scanJoin sub k (gathered sub k vals d (i - d)) (gathered sub k vals d i) := by
  rw [gathered, drop_take_split vals (b := i - d + 1) (by omega) (by omega), foldl_scanJoin_append h, gathered, gathered]
  congr 3 <;> omega

/-- Every lane of a level of the tree has gathered the d lanes that end with it. -/
def Gathers (sub : Nat) (k : Ctl) (vals : List (Option Nat)) (d : Nat) (l : List TreeLane) : Prop :=
  l.length = vals.length ∧ ∀ i < vals.length, (l.getD i (none, 0#5)).1 = gathered sub k vals d i

theorem gathers_start (sub : Nat) (k : Ctl) (vals : List (Option Nat)) :
    Gathers sub k vals 1 (vals.map fun v => (v, 0#5)) :=
  ⟨by simp, fun i hi => by simp [gathered_one, hi]⟩

theorem Gathers.level {sub : Nat} (h : ScanInteger sub) {k : Ctl} {vals : List (Option Nat)} {d : Nat} {l : List TreeLane}
    (hl : Gathers sub k vals d l) (ctl : Nat → Ctl) : Gathers sub k vals (2 * d) (treeLevel sub d ctl l) := by
  obtain ⟨hlen, hval⟩ := hl
  refine ⟨by simp [treeLevel, hlen], fun i hi => ?_⟩
  have here : (treeLevel sub d ctl l).getD i (none, 0#5) =
      if d ≤ i then treeCombine sub (ctl i) (l.getD (i - d) (none, 0#5)) (l.getD i (none, 0#5)) else l.getD i (none, 0#5) := by
    simp [treeLevel, hlen, hi]
  rw [here]
  split
  · next hd => rw [treeCombine_value h _ k, hval (i - d) (by omega), hval i hi, gathered_double h k vals hd]
  · next hd => rw [hval i hi, gathered_all _ _ _ (by omega), gathered_all _ _ _ (by omega)]

/-- After the tree's levels every lane has gathered as many lanes as the wave has. -/
theorem tree_gathers {sub : Nat} (h : ScanInteger sub) (k : Ctl) (vals : List (Option Nat)) (c : Nat → Ctl) {w : Nat}
    (hw : w ∈ [16, 32, 64]) : Gathers sub k vals w (tree sub w c (vals.map fun v => (v, 0#5))) := by
  have four := (((gathers_start sub k vals).level h c).level h c |>.level h c).level h c
  simp only [List.mem_cons, List.not_mem_nil, or_false] at hw
  rcases hw with rfl | rfl | rfl
  · exact four
  · exact four.level h c
  · exact (four.level h c).level h c

/-- Settles O11: level by level each lane gathers twice as many lanes, and the operators are associative. -/
theorem integerScanIsThePrefixFold : Obligations.IntegerScanIsThePrefixFold := by
  unfold Obligations.IntegerScanIsThePrefixFold
  intro sub c k vals w j hsub hw hlen hj _
  obtain ⟨-, hval⟩ := tree_gathers hsub k vals c hw
  rw [hval j (by omega), gathered_all _ _ _ hj]
  rfl

end Sys2Proof.Machine
end


section
/-! SUPPORT. An instruction's outcome by what its body answers. -/

namespace Sys2Proof.Machine

/-- An instruction that issues answers the end of what its body gives. -/
theorem Issues.outcome {i : Instr} {s : State} {x : Iss} (h : Issues i s x) {body : Iss → Res}
    (hexec : exec i s = issueWave i body s) {r : Res} (hbody : body x = r) : exec i s = .next (x.finish r) := by
  rw [hexec, h.meaning, hbody]

/-- The same for an instruction that may wait. -/
theorem Issues.outcomeWait {i : Instr} {s : State} {x : Iss} (h : Issues i s x) {body : Iss → Res}
    (hexec : exec i s = issueWait i body s) {r : Res} (hbody : body x = r) : exec i s = .next (x.finish r).poll := by
  rw [hexec, h.meaningWait, hbody]

/-- A body that raises a trap delivered at issue. -/
theorem Issues.raises {i : Instr} {s : State} {x : Iss} (h : Issues i s x) {body : Iss → Res}
    (hexec : exec i s = issueWave i body s) {f : Fail} (hbody : body x = x.raise f) :
    exec i s = .next (x.finish (.trap s f)) :=
  h.outcome hexec (by rw [hbody, Iss.raise, h.s_eq])

end Sys2Proof.Machine
end

section
/-! CLAIM. Branches, calls, returns, ENTER, NOP, REGION and EXIT (R134, R137, R143, R154 to R159, R413, R428). -/

namespace Sys2Proof.Machine

/-! Where a split goes (R134). -/

/-- The control transfer, in state s, of an instruction whose wave becomes w. -/
def Iss.went (x : Iss) (s : State) (w : Wave) (ts : List (DWord × Lanes × Nat)) : State :=
  x.complete (s.putWave (w.divide x.sp (ts ++ [(x.pc + BitVec.ofNat 64 x.len, x.sp.mask &&& ~~~x.act, x.sp.win)]) s.clk)) false

theorem Iss.finish_goTo (x : Iss) (w : Wave) (ts : List (DWord × Lanes × Nat)) : x.finish (x.goTo w ts) = x.went x.s w ts := rfl

/-! Indirect targets (R155). -/

/-- A lane's target lies beyond 2^57. -/
def Iss.targetFar (x : Iss) (g : Gen) (l : Nat) : Bool := decide (2 ^ 57 ≤ (x.a64 g l).bits.toNat)

/-- A lane's target lies below 2^57 and is misaligned. -/
def Iss.targetOdd (x : Iss) (g : Gen) (l : Nat) : Bool := !x.targetFar g l && (x.a64 g l).bits.toNat % 4 != 0

theorem Iss.targetFail_eq (x : Iss) (g : Gen) (l : Nat) :
    x.targetFail g l = if x.targetFar g l then some ⟨.address, (x.a64 g l).bits, none⟩
      else if x.targetOdd g l then some ⟨.align, (x.a64 g l).bits, none⟩ else none := by
  have hfar : ((x.a64 g l).bits.toNat / 2 ^ 57 ≠ 0) ↔ x.targetFar g l = true := by
    rw [targetFar, decide_eq_true_eq, Ne, Nat.div_eq_zero_iff_lt (by norm_num), not_lt]
  rw [targetFail]
  simp only [hfar]
  by_cases h : x.targetFar g l = true
  · simp [h]
  · simp [h, targetOdd]

theorem Iss.targetFail_isSome (x : Iss) (g : Gen) (l : Nat) :
    (x.targetFail g l).isSome = (x.targetFar g l || x.targetOdd g l) := by
  rw [x.targetFail_eq]
  cases x.targetFar g l <;> cases x.targetOdd g l <;> rfl

theorem Iss.targetFail_any_address (x : Iss) (g : Gen) (l : Nat) :
    (x.targetFail g l).any (·.cause == .address) = x.targetFar g l := by
  rw [x.targetFail_eq]
  cases x.targetFar g l <;> cases x.targetOdd g l <;> rfl

theorem Iss.targetFail_any_align (x : Iss) (g : Gen) (l : Nat) :
    (x.targetFail g l).any (·.cause == .align) = x.targetOdd g l := by
  have hodd : x.targetFar g l = true → x.targetOdd g l = false := fun h => by rw [targetOdd, h]; rfl
  rw [x.targetFail_eq]
  cases hf : x.targetFar g l
  · cases x.targetOdd g l <;> rfl
  · rw [hodd hf]; rfl

/-- The lowest lane whose target fails decides which of the two causes is raised (R97, R155). -/
theorem Iss.fails_targetFail (x : Iss) {g : Gen} {l : Nat}
    (hl : x.lanes.find? (fun l => x.targetFar g l || x.targetOdd g l) = some l) :
    x.fails (x.targetFail g) = some (if x.targetFar g l
      then ⟨.address, x.lanesWhere (x.targetFar g), (x.a64 g l).bits, none⟩
      else ⟨.align, x.lanesWhere (x.targetOdd g), (x.a64 g l).bits, none⟩) := by
  simp only [← x.targetFail_isSome] at hl
  have hsome := List.find?_some hl
  rw [x.targetFail_isSome] at hsome
  have he := x.targetFail_eq g l
  cases hf : x.targetFar g l
  · rw [hf, Bool.false_or] at hsome
    rw [hf, hsome] at he
    simp [Iss.fails_of_lowest hl he, x.targetFail_any_align]
  · rw [hf] at he
    simp [Iss.fails_of_lowest hl he, x.targetFail_any_address]

theorem Iss.targets_poisoned {x : Iss} {g : Gen} (h : x.lanesWhere (fun l => (x.a64 g l).poison) ≠ 0#64) :
    x.targets g = .error ⟨.poison, x.lanesWhere fun l => (x.a64 g l).poison, 0, none⟩ := by
  rw [targets, if_pos (by simpa using h)]

theorem Iss.targets_clean {x : Iss} {g : Gen} (h : x.lanesWhere (fun l => (x.a64 g l).poison) = 0#64) :
    x.targets g = (match x.fails (x.targetFail g) with
      | some f => .error f
      | none => .ok ((x.lanes.foldl (fun l i => insertNat (x.a64 g i).bits.toNat l) []).map fun t =>
          (BitVec.ofNat 64 t, x.lanesWhere fun i => (x.a64 g i).bits.toNat == t))) := by
  rw [targets]
  exact if_neg (by simpa using h)

/-! Calls (R143, R155). -/

/-- The windows that a call pushes, one for each target, and the targets with them. -/
theorem foldl_pushWindow (caller : Nat) (ret : DWord) (ts : List (DWord × Lanes)) (w : Wave) (done : List (DWord × Lanes × Nat)) :
    ts.foldl (fun (r : Wave × List (DWord × Lanes × Nat)) t =>
        let (id, w) := r.1.pushWindow .call caller ret 16 none
        (w, r.2 ++ [(t.1, t.2, id)])) (w, done) =
      ({ w with
          windows := w.windows ++ (List.range ts.length).map fun k =>
            { id := w.nextWin + k, kind := .call, size := 16, caller, retPc := ret, map := [], entered := false,
              spilled := false, saved := none }
          nextWin := w.nextWin + ts.length },
        done ++ ts.zipIdx.map fun (t, k) => (t.1, t.2, w.nextWin + k)) := by
  induction ts generalizing w done with
  | nil => simp
  | cons t ts ih =>
    rw [List.foldl_cons, ih]
    simp [Wave.pushWindow, List.range_succ_eq_map, List.zipIdx_succ, Function.comp_def, Nat.add_assoc, Nat.add_comm 1]

theorem Iss.goTo_called (x : Iss) (ts : List (DWord × Lanes)) (h : x.w.windows.length + ts.length ≤ 64) :
    x.finish (x.callTo ts) = x.went x.s
      { x.w with
        windows := x.w.windows ++ (List.range ts.length).map fun k =>
          { id := x.w.nextWin + k, kind := .call, size := 16, caller := x.sp.win, retPc := x.nextPc, map := [],
            entered := false, spilled := false, saved := none }
        nextWin := x.w.nextWin + ts.length }
      (ts.zipIdx.map fun (t, k) => (t.1, t.2, x.w.nextWin + k)) := by
  rw [callTo, if_neg (by omega), foldl_pushWindow, finish_goTo, List.nil_append]

/-- A call answers WINDOW where the wave would have more than 64 windows, else it goes to its targets. -/
theorem Issues.called {i : Instr} {s : State} {x : Iss} (h : Issues i s x) {body : Iss → Res}
    (hexec : exec i s = issueWave i body s) {ts : List (DWord × Lanes)} (hbody : body x = x.callTo ts) :
    exec i s = if 64 < x.w.windows.length + ts.length then .next (x.finish (.trap s ⟨.window, x.act, 0, none⟩))
      else .next (x.went s
        { x.w with
          windows := x.w.windows ++ (List.range ts.length).map fun k =>
            { id := x.w.nextWin + k, kind := .call, size := 16, caller := x.sp.win, retPc := x.nextPc, map := [],
              entered := false, spilled := false, saved := none }
          nextWin := x.w.nextWin + ts.length }
        (ts.zipIdx.map fun (t, k) => (t.1, t.2, x.w.nextWin + k))) := by
  split
  · next hmany => exact h.raises hexec (by rw [hbody, Iss.callTo, if_pos hmany])
  · next hfit => rw [h.outcome hexec hbody, x.goTo_called ts (by omega), h.s_eq]

/-- Settles O15: each body answers a control transfer, a trap, or its wave changed, by the cases of its definition. -/
theorem controlFlowResults : Obligations.ControlFlowResults := by
  unfold Obligations.ControlFlowResults
  refine ⟨fun s x => ?branches, fun s x => ?calls, fun g s x v hv => ?windows, fun g s x => ?others⟩
  case branches =>
    refine ⟨fun g h => ?bra, fun g h => ⟨fun hbad => ?poisoned, fun hbad l hl => ?failing, fun hbad hnone => ?targets⟩⟩
    case bra => rw [h.outcome rfl rfl, Iss.finish_goTo, h.s_eq]; rfl
    case poisoned => exact h.raises rfl (by rw [Iss.targets_poisoned hbad])
    case failing =>
      rw [h.raises (f := if x.targetFar g l
          then ⟨.address, x.lanesWhere (x.targetFar g), (x.a64 g l).bits, none⟩
          else ⟨.align, x.lanesWhere (x.targetOdd g), (x.a64 g l).bits, none⟩) rfl
        (by rw [Iss.targets_clean hbad, x.fails_targetFail hl])]
      simp only [BitVec.ofNat_toNat, BitVec.setWidth_eq]
      rfl
    case targets =>
      have hfails : x.fails (x.targetFail g) = none := Iss.fails_none fun l hl => by
        rw [← Option.not_isSome_iff_eq_none, x.targetFail_isSome]
        exact List.find?_eq_none.1 hnone l hl
      rw [h.outcome (r := x.goTo x.w (((x.lanes.foldl (fun l i => insertNat (x.a64 g i).bits.toNat l) []).map fun t =>
          (BitVec.ofNat 64 t, x.lanesWhere fun i => (x.a64 g i).bits.toNat == t)).map fun t => (t.1, t.2, x.sp.win))) rfl
        (by rw [Iss.targets_clean hbad, hfails]), Iss.finish_goTo, h.s_eq, List.map_map]
      rfl
  case calls =>
    refine ⟨fun g h => ?call, fun g h ts hts => ?callx, fun g h f hf => ?fails⟩
    case call => exact h.called rfl rfl
    case callx => exact h.called rfl (by rw [hts])
    case fails => exact h.raises rfl (by rw [hf])
  case windows =>
    refine ⟨fun h => ⟨fun hcall hthere => ?ret, fun hcall hspilled => ?stalls, fun hkind => ?noCaller⟩,
      fun h => ⟨fun hkind hfresh => ?enter, fun hbad => ?entered⟩⟩
    case ret =>
      rw [h.outcome (r := x.goTo x.w [(v.retPc, x.act, v.caller)]) rfl (by rw [hv]; simp [hcall, hthere]),
        Iss.finish_goTo, h.s_eq]
      rfl
    case stalls => rw [h.outcome (r := .stall x.s) rfl (by rw [hv]; simp [hcall, hspilled]), Iss.finish_stall, h.s_eq]
    case noCaller =>
      refine h.raises rfl ?_
      rw [hv]
      cases hk : v.kind <;> simp_all
    case enter =>
      rw [← Iss.finish_done]
      exact h.outcome rfl (by rw [hv]; exact if_neg (by simp [hkind, hfresh]))
    case entered => exact h.raises rfl (by rw [hv]; exact if_pos (by simpa using hbad))
  case others =>
    refine ⟨fun h => ?nop, fun h => ?region, fun h => ⟨fun hhandler => ?trapped, fun hplain => ?exit⟩⟩
    case nop => rw [h.outcome rfl rfl, Iss.finish_ok, h.s_eq]
    case region => rw [h.outcome rfl rfl, Iss.finish_ok, h.s_eq]
    case trapped => rw [h.outcomeWait rfl (if_pos hhandler), Iss.raise, h.s_eq]
    case exit =>
      rw [h.outcomeWait rfl (if_neg (by simp [hplain])), Iss.finish_jump, h.s_eq]
      simp only [beq_iff_eq]
      rfl

end Sys2Proof.Machine
end

section
/-! CLAIM. The mode word, YIELD, TRAP, BRK, WAITC and reserved opcodes (R50, R149, R160 to R163, R428). -/

namespace Sys2Proof.Machine

/-- The mode word of a lane, m before, that f gives from it, A and B (R149, R160). -/
def Iss.newMode (x : Iss) (g : Gen) (f : Word → Word → Word → Word) (m : Word) (l : Nat) : Word :=
  if hasLane x.act l then (f m (x.a32 g l).bits (x.b32 g l).bits &&& 0x7FEF#32) ||| (m &&& 0xFFFF8010#32) else m

/-- What a MODE instruction leaves: poison raises, else each active lane's writable bits are replaced. -/
theorem Issues.modes {i : Instr} {s : State} {x : Iss} (h : Issues i s x) {g : Gen} {usesA : Bool}
    {f : Word → Word → Word → Word} (hexec : exec i s = issueWave i (modeBody g usesA f) s) {bad : Lanes}
    (hbad : (x.lanesWhere fun l => usesA && (x.a32 g l).poison || (x.b32 g l).poison) = bad) :
    exec i s = if bad = 0#64
      then .next (x.leaves { x.w with modes := x.w.modes.zipIdx.map fun e => x.newMode g f e.1 e.2 })
      else .next (x.finish (.trap s ⟨.poison, bad, 0, none⟩)) := by
  subst hbad
  split
  · next hclean => rw [hexec, h.meaning, modeBody, if_neg (by simpa using hclean)]; rfl
  · next hdirty => exact h.raises hexec (if_pos (by simpa using hdirty))

/-- Settles O16: the MODE instructions change lanes' words or raise POISON; the others answer one result each. -/
theorem modeTrapAndWaitResults : Obligations.ModeTrapAndWaitResults := by
  unfold Obligations.ModeTrapAndWaitResults
  refine ⟨fun g s x => ⟨fun h => h.modes rfl rfl, fun h => h.modes rfl rfl, fun h => h.modes rfl rfl, fun h => ?moderd,
    fun h => ?yield⟩, fun g s x => ⟨fun h => h.raises rfl rfl, fun h => h.raises rfl rfl,
    fun h => ⟨fun hp => ?poisoned, fun hp => ?waits⟩, fun w h => ?reserved⟩⟩
  case moderd => exact h.outcome rfl rfl
  case yield =>
    rw [h.outcome rfl rfl, Iss.finish_done, Iss.clk, h.s_eq]
  case poisoned => rw [h.outcomeWait rfl (if_pos hp), Iss.raise, h.s_eq]
  case waits => rw [h.outcomeWait rfl (if_neg (by simp [hp])), h.s_eq]; rfl
  case reserved =>
    rw [show exec (.reservedOpcode w) s = execReservedOpcode w s from rfl, execReservedOpcode, h]
    simp only [Iss.raise, State.issuing_s h]

end Sys2Proof.Machine
end


section
/-! CLAIM. What reset leaves, power and the resets (R26, R442). -/

namespace Sys2Proof.Machine

theorem powerCycle_booting (s : State) (hon : s.dev.on = true) (hst : s.dev.st ≠ .booting) {v : DWord} (hv : v = 1#64) :
    s.resetWrite v = s.powerCycle := if_pos (by simp [hon, hst, hv])

/-- Settles O52: what `State.powered` writes out, field by field, and that every reset goes to it. -/
theorem resetIsBootingAndEmpty : Obligations.ResetIsBootingAndEmpty := by
  unfold Obligations.ResetIsBootingAndEmpty
  refine ⟨?state, rfl, fun s => ⟨fun hoff => ?up, fun hon => ?alreadyUp, ?removed, fun i hi => ⟨fun hon => ?reset, fun hoff => ?dead⟩,
    fun v => ⟨fun hon hst hv => ?written, fun hv => ?ignored⟩, rfl, rfl, rfl, rfl, rfl, rfl⟩⟩
  case state =>
    refine ⟨rfl, rfl, rfl, rfl, rfl, rfl, rfl, rfl, rfl, rfl, rfl, rfl,
      List.length_replicate, ?ctxs, List.length_replicate, ?cores, List.length_replicate, ?quads, rfl, rfl, rfl, rfl⟩
    case ctxs => intro c hc; obtain rfl := List.eq_of_mem_replicate hc; exact ⟨rfl, rfl, rfl⟩
    case cores => intro c hc; obtain rfl := List.eq_of_mem_replicate hc; exact ⟨rfl, rfl, rfl⟩
    case quads => intro q hq; obtain rfl := List.eq_of_mem_replicate hq; exact ⟨rfl, rfl⟩
  case up => exact congrArg Host.Outcome.next (if_neg (by simp [hoff]))
  case alreadyUp => exact congrArg Host.Outcome.next (if_pos hon)
  case removed => exact ⟨_, rfl, rfl, rfl, rfl, rfl, rfl, rfl⟩
  case reset =>
    simp only [List.mem_cons, List.not_mem_nil, or_false] at hi
    rcases hi with rfl | rfl <;> exact congrArg Host.Outcome.next (if_pos hon)
  case dead =>
    simp only [List.mem_cons, List.not_mem_nil, or_false] at hi
    rcases hi with rfl | rfl <;> exact congrArg Host.Outcome.next (if_neg (by simp [hoff]))
  case written => exact congrArg Host.Outcome.next (powerCycle_booting s hon hst hv)
  case ignored => exact congrArg Host.Outcome.next (if_neg (by simp [hv]))

end Sys2Proof.Machine
end

section
/-! CLAIM. The control space, quotes, the power cap and the bridge fence (R371, R446 to R448). -/

namespace Sys2Proof.Machine

/-! Numbers as bytes. -/

@[simp] theorem length_leBytes (n v : Nat) : (leBytes n v).length = n := by
  induction n generalizing v with
  | zero => rfl
  | succ n ih => rw [leBytes, List.length_cons, ih]

theorem leNat_leBytes (n v : Nat) : leNat (leBytes n v) = v % 256 ^ n := by
  induction n generalizing v with
  | zero => simp [leBytes, leNat, Nat.mod_one]
  | succ n ih =>
    rw [leBytes, leNat, ih, BitVec.toNat_ofNat, pow_succ' 256, show 2 ^ 8 = 256 from rfl, Nat.mod_mul]

theorem toNat_extractLsb'_eq_bitsOf (v : DWord) (hi lo : Nat) :
    (v.extractLsb' lo (hi - lo + 1)).toNat = bitsOf v.toNat hi lo := by
  rw [BitVec.extractLsb'_toNat, Nat.shiftRight_eq_div_pow, bitsOf]

/-! The control space's write, register by register (R447). -/

theorem State.controlWrite_dead {s : State} {off : Nat} (v : DWord) (hoff : off ≠ 0x08)
    (h : s.dev.on = false ∨ s.dev.st ≠ .ready) : s.controlWrite off v = s := by
  have : (!s.dev.on || s.dev.st != .ready) = true := by rcases h with h | h <;> simp [h]
  simp [controlWrite, hoff, this]

section
variable {s : State} (hon : s.dev.on = true) (hst : s.dev.st = .ready) (v : DWord)
include hon hst

theorem State.controlWrite_command : s.controlWrite 0x18 v =
    s.hostCommand (v.toNat % 256) (bitsOf v.toNat 13 8) (if v.toNat % 256 = 5 then bitsOf v.toNat 27 16 else 0)
      (if v.toNat % 256 = 5 then bitsOf v.toNat 49 28 else 0) := by
  simp [controlWrite, hon, hst]

theorem State.controlWrite_queue : s.controlWrite 0x20 v = s.hostQueue (bitsOf v.toNat 13 8) (v.toNat % 256) := by
  simp [controlWrite, hon, hst]

theorem State.controlWrite_qaddr : s.controlWrite 0x28 v = s.modDev fun d => { d with qaddr := v.toNat } := by
  simp [controlWrite, hon, hst]

theorem State.controlWrite_powercap : s.controlWrite 0x30 v = s.capWrite v := by simp [controlWrite, hon, hst]

theorem State.controlWrite_attcmd : s.controlWrite 0x420 v = s.attWrite v := by simp [controlWrite, hon, hst]

theorem State.controlWrite_nonce {k : Nat} (hk : k < 4) : s.controlWrite (0x400 + 8 * k) v = s.nonceWrite k v := by
  simp only [controlWrite, hon, hst]
  rw [if_neg (by omega), if_neg (by simp), if_neg (by omega), if_neg (by omega), if_neg (by omega), if_neg (by omega),
    if_neg (by omega), if_pos (by omega), show (0x400 + 8 * k - 0x400) / 8 = k by omega]

theorem State.controlWrite_interrupt {c vec : Nat} (hc : c < 64) (hvec : vec < 64) :
    s.controlWrite (0x10000 + 512 * c + 8 * vec) v = s.hostInterrupt c vec v .pcie true false := by
  simp only [controlWrite, hon, hst]
  rw [if_neg (by omega), if_neg (by simp), if_neg (by omega), if_neg (by omega), if_neg (by omega), if_neg (by omega),
    if_neg (by omega), if_neg (by omega), if_pos (by omega),
    show (0x10000 + 512 * c + 8 * vec - 0x10000) / 512 = c by omega,
    show (0x10000 + 512 * c + 8 * vec - 0x10000) % 512 / 8 = vec by omega]

end

/-- A write of eight bytes of a nonce that is whole, no quote being made. -/
theorem State.nonceWrite_nonce {s : State} {k : Nat} (hk : k < 4) (v : DWord) (hidle : s.dev.attcmd = false)
    (hlen : s.dev.nonce.length = 32) :
    (s.nonceWrite k v).dev.nonce = s.dev.nonce.take (8 * k) ++ leBytes 8 v.toNat ++ s.dev.nonce.drop (8 * k + 8) := by
  rw [nonceWrite, if_neg (by simp [hidle])]
  exact List.take_of_length_le (by simp; omega)

/-- Eight bytes put into a list at a place: its length, those bytes, and every other place. -/
theorem splice_spec {l b : List Byte} {p : Nat} (hb : b.length = 8) (hp : p + 8 ≤ l.length) :
    let m := l.take p ++ b ++ l.drop (p + 8)
    m.length = l.length ∧ (m.drop p).take 8 = b ∧ ∀ i, i < p ∨ p + 8 ≤ i → m[i]? = l[i]? := by
  have htake : (l.take p).length = p := by simp; omega
  refine ⟨by simp [hb]; omega, ?_, fun i hi => ?_⟩
  · rw [List.append_assoc, List.drop_left' htake, List.take_left' hb]
  · rw [List.append_assoc]
    rcases hi with hi | hi
    · rw [List.getElem?_append_left (by omega), List.getElem?_take_of_lt hi]
    · rw [List.getElem?_append_right (by omega), List.getElem?_append_right (by omega), List.getElem?_drop]
      congr 1
      omega

/-- Settles O51: each register's write is the model's function of it, and the functions' own cases. -/
theorem controlSpaceResults : Obligations.ControlSpaceResults := by
  unfold Obligations.ControlSpaceResults
  refine ⟨fun s v => ⟨fun hon hst => ⟨?attcmd, ?powercap⟩, fun hbusy => ?quote, fun w at_ hnext => ⟨fun hdue => ?due, fun hearly => ?early⟩,
    fun hon hst => ⟨fun hnone => ?fenced, fun hsome => ?waits⟩⟩, fun s v => ⟨rfl, fun off hoff h => ?dead, fun hon hst => ?live⟩⟩
  case attcmd =>
    refine congrArg Host.Outcome.next ?_
    rw [State.attWrite, hon, hst]
    by_cases hv : v = 1#64 <;> simp [hv]
  case powercap =>
    refine congrArg Host.Outcome.next ?_
    rw [State.capWrite, hon, hst]
    rfl
  case quote => exact ⟨_, _, congrArg Host.Outcome.next (if_neg (by simp [hbusy])), rfl, rfl, rfl, rfl, rfl, rfl⟩
  case due =>
    have hdue : at_ ≤ s.dev.clk := hdue
    refine congrArg Host.Outcome.next ?_
    simp [State.modDev, Device.capNow, hnext, hdue]
  case early =>
    have hearly : s.dev.clk < at_ := hearly
    refine congrArg Host.Outcome.next ?_
    simp [State.modDev, Device.capNow, hnext, hearly, hearly.not_ge]
    simp only [← hnext]
  case fenced =>
    refine congrArg Host.Outcome.next (if_neg ?_)
    simpa [hon, hst] using hnone
  case waits =>
    refine congrArg Host.Outcome.next (if_pos ?_)
    simpa [hon, hst] using hsome
  case dead => exact congrArg Host.Outcome.next (State.controlWrite_dead v hoff h)
  case live =>
    have ctx : (v.extractLsb' 8 6).toNat = bitsOf v.toNat 13 8 := toNat_extractLsb'_eq_bitsOf v 13 8
    have code : (v.extractLsb' 0 8).toNat = v.toNat % 256 := by simp
    have tag : (v.extractLsb' 16 12).toNat = bitsOf v.toNat 27 16 := toNat_extractLsb'_eq_bitsOf v 27 16
    have grid : (v.extractLsb' 28 22).toNat = bitsOf v.toNat 49 28 := toNat_extractLsb'_eq_bitsOf v 49 28
    have command {n : Nat} (h : v.toNat % 256 = n) : exec (.registerWrite 0x18 v) s = .next (s.hostCommand n
        (bitsOf v.toNat 13 8) (if n = 5 then bitsOf v.toNat 27 16 else 0) (if n = 5 then bitsOf v.toNat 49 28 else 0)) :=
      h ▸ congrArg Host.Outcome.next (State.controlWrite_command hon hst v)
    have queue {n : Nat} (h : v.toNat % 256 = n) :
        exec (.registerWrite 0x20 v) s = .next (s.hostQueue (bitsOf v.toNat 13 8) n) :=
      h ▸ congrArg Host.Outcome.next (State.controlWrite_queue hon hst v)
    simp only [ctx, code, tag, grid]
    refine ⟨command, command, command, command, command, queue, queue, queue, queue, ?qaddr, ?cap, ?att, fun k hk hatt => ?quoting,
      fun k hk hatt hlen => ?nonce, fun c vec hc hvec => ?interrupt⟩
    case qaddr => exact congrArg Host.Outcome.next (State.controlWrite_qaddr hon hst v)
    case cap => exact congrArg Host.Outcome.next (State.controlWrite_powercap hon hst v)
    case att => exact congrArg Host.Outcome.next (State.controlWrite_attcmd hon hst v)
    case quoting =>
      refine congrArg Host.Outcome.next ?_
      rw [State.controlWrite_nonce hon hst v hk, State.nonceWrite, if_pos hatt]
    case nonce =>
      obtain ⟨hlength, hnew, hkept⟩ := splice_spec (l := s.dev.nonce) (p := 8 * k) (length_leBytes 8 v.toNat) (by omega)
      refine ⟨s.nonceWrite k v, congrArg Host.Outcome.next (State.controlWrite_nonce hon hst v hk), ?_⟩
      rw [State.nonceWrite_nonce hk v hatt hlen]
      refine ⟨hlength.trans hlen, ?_, hkept⟩
      rw [hnew, leNat_leBytes]
      exact Nat.mod_eq_of_lt v.isLt
    case interrupt => exact congrArg Host.Outcome.next (State.controlWrite_interrupt hon hst v hc hvec)

end Sys2Proof.Machine
end


section
/-! CLAIM. A step performs the agenda's head; an issue runs what its bytes decode to (R51, R53, R84, R129, R130). -/

namespace Sys2Proof.Machine

/-! A clock in which nothing falls due. -/

theorem foldl_eq_self {σ α : Type} {f : σ → α → σ} {s : σ} {l : List α} (h : ∀ a ∈ l, f s a = s) : l.foldl f s = s := by
  induction l with
  | nil => rfl
  | cons a l ih => rw [List.foldl_cons, h a List.mem_cons_self, ih fun b hb => h b (List.mem_cons_of_mem a hb)]

theorem State.quad_mem {s : State} {n : Nat} (h : n < s.quads.length) : s.quad n ∈ s.quads := by
  simp [quad, h]

theorem State.core_mem {s : State} {n : Nat} (h : n < s.cores.length) : s.core n ∈ s.cores := by
  simp [core, h]

section
variable {s : State}

theorem State.dueIssues_none (h : ∀ w ∈ s.waves, ∀ p ∈ w.splits, p.raised = none) : s.dueIssues = s := by
  refine if_neg ?_
  simpa using h

theorem State.askPermits_none (h : ∀ q ∈ s.quads, q.array = []) : s.askPermits = s :=
  foldl_eq_self fun n hn => by simp [h _ (State.quad_mem (List.mem_range.1 hn))]

theorem State.dueScalars_none
    (h : ∀ w ∈ s.waves, ∀ k ∈ w.held, ∀ i v, k.effect ≠ .bscalar i v ∨ s.clk < k.clk + 128) : s.dueScalars = s := by
  refine foldl_eq_self fun w hw => ?_
  have hnone : (w.held.filter fun k => decide (k.clk + 128 ≤ s.clk) && (match k.effect with
      | .bscalar _ _ => true
      | _ => false)) = [] := by
    refine List.filter_eq_nil_iff.2 fun k hk => ?_
    cases he : k.effect
    case bscalar i v =>
      have := (h w hw k hk i v).resolve_left (not_not.2 he)
      simp [this]
    all_goals simp
  simp only [List.partition_eq_filter_filter]
  exact if_pos (List.isEmpty_iff.2 hnone)

theorem State.dueWaves_none (h : ∀ w ∈ s.waves, w.due = [] ∧ w.sinceCk < 64 ∧
    ∀ p ∈ w.splits, ∀ c, p.ready = some c → s.clk < c + 256) : s.dueWaves = s := by
  refine foldl_eq_self fun w hw => ?_
  obtain ⟨-, hck, hready⟩ := h w hw
  have hdues : s.takeDues w.id = s := by
    have hlen : (s.wave? w.id).elim 0 (·.due.length) = 0 := by
      cases hv : s.wave? w.id with
      | none => rfl
      | some v => rw [Option.elim_some, (h v (List.mem_of_find?_eq_some hv)).1]; rfl
    rw [takeDues, hlen]
    rfl
  have hsplits : w.splits.foldl (fun s p => if p.raised.isNone && p.ready.any (fun c => decide (c + 256 ≤ s.clk)) then
      s.after (execSplitRaise w.id p.slot s) else s) s = s := by
    refine foldl_eq_self fun p hp => if_neg ?_
    cases hr : p.ready with
    | none => simp
    | some c => simp [hready p hp c hr]
  simp only [hdues, hsplits]
  exact if_neg (by omega)

theorem State.readAccsts_none (h : ∀ w ∈ s.waves, ∀ o ∈ w.ops, ∀ a off len, o.kind ≠ .accst a off len) :
    s.readAccsts = s := by
  refine foldl_eq_self fun w hw => foldl_eq_self fun o ho => ?_
  cases hk : o.kind
  case accst a off len => exact absurd hk (h w hw o ho a off len)
  all_goals cases s.wave? w.id <;> rfl

theorem State.dueCores_none (h : ∀ c ∈ s.cores, (∀ f ∈ c.frames, s.clk < f.since + 65536) ∧
    (∀ e ∈ c.pending, ∀ k, e.wait = some k → s.clk < k + 4096)) : s.dueCores = s := by
  refine foldl_eq_self fun n hn => ?_
  obtain ⟨hframes, hpending⟩ := h _ (State.core_mem (List.mem_range.1 hn))
  have hold : ((s.core n).frames.filter fun f => decide (f.since + 65536 ≤ s.clk)) = [] :=
    List.filter_eq_nil_iff.2 fun f hf => by simpa using hframes f hf
  simp only [hold, List.foldl_nil]
  refine if_neg ?_
  cases hp : (s.core n).pending with
  | nil => simp
  | cons e rest =>
    cases hw : e.wait with
    | none => simp [hw]
    | some k => simp [hw, hpending e (hp ▸ List.mem_cons_self) k hw]

theorem State.dueContexts_none (h : ∀ c, (s.ctx c).st ≠ .ready) : s.dueContexts = s :=
  foldl_eq_self fun c _ => by simp [h c]

theorem State.dueGrants_none (die fuel : Nat) (h : ∀ q ∈ s.quads, q.permit = .none ∨
    (∃ c, q.permit = .requested c false ∧ s.clk < c + 64) ∧ s.grantsLimited die = false) : s.dueGrants die fuel = s := by
  cases fuel with
  | zero => rfl
  | succ fuel =>
    rw [dueGrants]
    split
    · next hlimited =>
      have hnone : ∀ q ∈ s.quads, q.permit = .none := fun q hq => (h q hq).resolve_right fun hr => by simp [hlimited] at hr
      have hquads : (s.quads.zipIdx.map fun (q, n) => match q.permit with
          | .requested c false => if n / 128 = die then { q with permit := .requested c true } else q
          | _ => q) = s.quads := by
        conv_rhs => rw [← List.zipIdx_map_fst 0 s.quads]
        refine List.map_congr_left fun ⟨q, n⟩ he => ?_
        have hq : q.permit = .none := hnone q (List.fst_mem_of_mem_zipIdx he)
        simp only [hq]
      exact congrArg (fun quads => { s with quads }) hquads
    · next hfree =>
      rw [if_neg]
      simp only [List.any_eq_true, not_exists, not_and]
      intro n _
      by_cases hn : n < s.quads.length
      · rcases h _ (State.quad_mem hn) with hp | ⟨⟨c, hp, hc⟩, -⟩
        · simp [hp]
        · simp [hp, hc]
      · simp [State.quad, hn, Quad.fresh]

theorem State.duePermits_none (h : ∀ q ∈ s.quads, q.permit = .none ∨
    (∃ c, q.permit = .requested c false ∧ s.clk < c + 64) ∧ s.grantsLimited 0 = false ∧ s.grantsLimited 1 = false) :
    s.duePermits = s := by
  have hidle : (List.range s.quads.length).foldl (fun s n => match (s.quad n).permit with
      | .held _ => s.after (execPermitIdleReturn n s)
      | _ => s) s = s := by
    refine foldl_eq_self fun n hn => ?_
    rcases h _ (State.quad_mem (List.mem_range.1 hn)) with hp | ⟨⟨c, hp, -⟩, -⟩ <;> rw [hp]
  have h0 := State.dueGrants_none (s := s) 0 9 fun q hq => (h q hq).imp_right fun ⟨hr, h0, _⟩ => ⟨hr, h0⟩
  have h1 := State.dueGrants_none (s := s) 1 9 fun q hq => (h q hq).imp_right fun ⟨hr, _, h1⟩ => ⟨hr, h1⟩
  calc s.duePermits = (s.dueGrants 0 9).dueGrants 1 9 := congrArg (fun s : State => (s.dueGrants 0 9).dueGrants 1 9) hidle
    _ = s := by rw [h0, h1]

theorem State.dueRechecks_none (hnow : s.dev.rechecks = []) (hclk : s.clk % 20000 ≠ 0) : s.dueRechecks = s := by
  have hdev : s.modDev (fun d => { d with rechecks := [] }) = s := by
    rw [modDev, ← hnow]
  unfold dueRechecks
  simp only [hdev]
  exact foldl_eq_self fun c _ => if_pos (by simp [hnow, hclk])

theorem State.takeSlots_none (h : s.link.sendWait = []) : s.takeSlots = s := by rw [takeSlots, h]; rfl
theorem State.pollStanding_none (h : s.link.standing = []) : s.pollStanding = s := by rw [pollStanding, h]; rfl
theorem State.runCommand_none (h : s.dev.cmds = []) : s.runCommand = s := by rw [runCommand, h]

end

/-! What a fetch that fails names, and what an issue does with the split offered (R51, R53). -/

theorem State.fetchWord_fail_lanes {s t : State} {w : Wave} {p : Split} {va : Nat} {f : Fail}
    (h : s.fetchWord w p va = .fail f t) : f.lanes = p.mask := by
  unfold fetchWord at h
  repeat' split at h
  all_goals first | (cases h; rfl) | cases h

theorem State.fetchMore_fail_lanes {n : Nat} {s t : State} {w : Wave} {p : Split} {va : Nat} {got : List Byte} {f : Fail}
    (h : s.fetchMore w p va got n = .fail f t) : f.lanes = p.mask := by
  induction n generalizing s va got with
  | zero => cases h
  | succ n ih =>
    rw [fetchMore] at h
    split at h
    · exact ih h
    · exact fetchWord_fail_lanes h

theorem State.fetch_fail_lanes {s t : State} {w : Wave} {p : Split} {f : Fail} (h : s.fetch w p = .fail f t) :
    f.lanes = p.mask := by
  unfold fetch at h
  split at h
  · exact fetchMore_fail_lanes h
  · exact fetchWord_fail_lanes h

/-- The trap a failing fetch or decoding takes, r with the state s it leaves (R51). -/
def State.tookTrap (s : State) (id slot : Nat) (w : Wave) (p : Split) (r : Trap) : State :=
  (s.modWave id fun w => { w with issueNo := w.issueNo + 1, lastIssue := s.clk }).takeTrap id slot
    ⟨r, p.pc, p.pc, w.issueNo + 1, s.clk⟩

section
variable {s : State} {id slot : Nat} {w : Wave} {p : Split} (hw : s.wave? id = some w) (hp : w.split? slot = some p)
  (hopen : p.open s.clk = true)
include hw hp hopen

theorem State.offer_words {bs : List Byte} {t : State} (hf : s.fetch w p = .words bs t) {i : Instr} {rest : List Byte}
    (hd : decodeBytes bs = .ok (i, rest)) : s.offer id slot = .run i { t with cur := some ⟨id, slot, p.pc, bs.length⟩ } := by
  simp only [offer, hw, hp, hopen, hf, hd]
  rfl

theorem State.offer_undecoded {bs : List Byte} {t : State} (hf : s.fetch w p = .words bs t) {r : Illegal}
    (hd : decodeBytes bs = .error r) :
    s.offer id slot = .trapped (t.draw.2.tookTrap id slot w p ⟨.illegal, .issue, p.mask, 0#64, t.draw.1⟩) := by
  simp only [offer, hw, hp, hopen, hf, hd]
  rfl

theorem State.offer_fail {f : Fail} {t : State} (hf : s.fetch w p = .fail f t) :
    s.offer id slot = .trapped ((Iss.trapOf f .issue t).2.tookTrap id slot w p (Iss.trapOf f .issue t).1) := by
  simp only [offer, hw, hp, hopen, hf]
  rfl

theorem State.offer_stall {t : State} (hf : s.fetch w p = .stall t) : s.offer id slot = .stall t := by
  simp only [offer, hw, hp, hopen, hf]
  rfl

end

section
variable {s t u : State} {id slot : Nat} {rest : List (Nat × Nat)} {i : Instr}

theorem tryIssue_stall (h : s.offer id slot = .stall t) : tryIssue ((id, slot) :: rest) s = tryIssue rest t := by
  rw [tryIssue, h]

theorem tryIssue_trapped (h : s.offer id slot = .trapped t) : tryIssue ((id, slot) :: rest) s = .next t := by
  rw [tryIssue, h]

theorem tryIssue_run_done (h : s.offer id slot = .run i t) (hexec : exec i t = .next u) (hcur : u.cur = none) :
    tryIssue ((id, slot) :: rest) s = .next u := by
  simp [tryIssue, h, hexec, hcur]

theorem tryIssue_run_stalls (h : s.offer id slot = .run i t) (hexec : exec i t = .next u) (hcur : u.cur ≠ none) :
    tryIssue ((id, slot) :: rest) s = tryIssue rest { u with cur := none } := by
  simp [tryIssue, h, hexec, Option.isSome_iff_ne_none.2 hcur]

end

/-- Settles O53: the moves of a step by the cases of `perform`, the clock function by function, and an issue by what the
fetch of the first split offered gives. -/
theorem stepRunsDecodedInstruction : Obligations.StepRunsDecodedInstruction := by
  unfold Obligations.StepRunsDecodedInstruction
  refine ⟨fun s => ⟨fun m rest h => ?head, fun h => ?free, fun e he => ?event, fun e he => ?wave, rfl, ?clock, fun q h => ?busy⟩,
    fun s q agenda hagenda hon hfree => ?issue⟩
  case head => rw [step, h]
  case free => rw [step, h]
  case event => exact if_pos (by simpa using he)
  case wave => exact if_neg (by simpa using he)
  case clock =>
    rintro t rfl hraised harray hcmds hrechecks hsend hstanding hclk hscalars hwaves hready hcores hquads
    unfold State.clock
    rw [State.dueIssues_none hraised, State.askPermits_none harray, State.dueScalars_none hscalars, State.dueWaves_none,
      State.readAccsts_none, State.dueCores_none hcores, State.dueContexts_none hready, State.duePermits_none hquads,
      State.dueRechecks_none hrechecks hclk, State.takeSlots_none hsend, State.pollStanding_none hstanding,
      State.runCommand_none hcmds]
    · exact fun w hw => (hwaves w hw).2.1
    · exact fun w hw => ⟨(hwaves w hw).1, (hwaves w hw).2.2⟩
  case busy =>
    refine if_neg ?_
    rcases h with h | h <;> simp [h]
  case issue =>
    have hstep : step s = (match State.tableRead { s with agenda } (State.quadCtxs { s with agenda } q) with
        | (true, s) => tryIssue (s.candidates q) s
        | (false, s) => .next s) := by
      rw [step, hagenda]
      exact if_pos (by rw [Bool.and_eq_true]; exact ⟨hon, decide_eq_true hfree⟩)
    refine ⟨fun t ht => by rw [hstep, ht], fun s0 id slot others w p ht hcand hw hp hopen => ?_⟩
    have htry : step s = tryIssue ((id, slot) :: others) s0 := by
      rw [hstep, ht]
      dsimp only
      rw [hcand]
    refine ⟨fun bs s1 hf => ⟨fun i rest hd => ⟨fun t hexec hcur => ?runs, fun t hexec hcur => ?stalls⟩, fun r hd => ?illegal⟩,
      fun f s1 hf => ⟨State.fetch_fail_lanes hf, fun e he => ?detail, fun he => ?drawn⟩, fun s1 hf => ?fetchStalls⟩
    case runs => rw [htry, tryIssue_run_done (State.offer_words hw hp hopen hf hd) hexec hcur]
    case stalls => rw [htry, tryIssue_run_stalls (State.offer_words hw hp hopen hf hd) hexec hcur]
    case illegal =>
      refine ⟨⟨.illegal, .issue, p.mask, 0#64, s1.draw.1⟩, rfl, rfl, rfl, ?_⟩
      rw [htry, tryIssue_trapped (State.offer_undecoded hw hp hopen hf hd)]
      rfl
    case detail =>
      rw [htry, tryIssue_trapped (State.offer_fail hw hp hopen hf), Iss.trapOf, he, State.fetch_fail_lanes hf]
      rfl
    case drawn =>
      rw [htry, tryIssue_trapped (State.offer_fail hw hp hopen hf), Iss.trapOf, he, State.fetch_fail_lanes hf]
      rfl
    case fetchStalls => rw [htry, tryIssue_stall (State.offer_stall hw hp hopen hf)]

end Sys2Proof.Machine
end


section
/-! SUPPORT. What the shared cache's evictions may change (R232, R233). -/

namespace Sys2Proof.Machine

theorem State.sharedDrop_eq (s : State) (line : Nat) :
    ∃ dev homes, s.sharedDrop line = { s with dev, homes } := by
  refine ⟨(s.sharedDrop line).dev, (s.sharedDrop line).homes, ?_⟩
  unfold sharedDrop coverErrors
  dsimp only
  split <;> rfl

theorem State.sharedEvict_eq (s : State) (among : List SharedLine) :
    ∃ free dev homes, s.sharedEvict among = { s with free, dev, homes } := by
  unfold sharedEvict
  extract_lets low
  split
  · exact ⟨_, _, _, rfl⟩
  · change ∃ free dev homes, (low[(s.choose low.length).1]?).elim (s.choose low.length).2 (fun v =>
      (s.choose low.length).2.sharedDrop v.line) = { s with free, dev, homes }
    cases h : low[(s.choose low.length).1]? with
    | none => exact ⟨_, _, _, rfl⟩
    | some v =>
      obtain ⟨dev, homes, hd⟩ := (s.choose low.length).2.sharedDrop_eq v.line
      exact ⟨_, _, _, hd⟩

/-- Only the free choices, the errors that are written over and the lines of the shared caches change. -/
theorem State.sharedShrink_eq (s : State) (slice : Nat) :
    ∃ free dev homes, s.sharedShrink slice = { s with free, dev, homes } := by
  unfold sharedShrink
  extract_lets here
  generalize List.range _ = l
  induction l generalizing s with
  | nil => exact ⟨_, _, _, rfl⟩
  | cons n l ih =>
    rw [List.foldl_cons]
    obtain ⟨free, dev, homes, h⟩ := s.sharedEvict_eq (here s)
    obtain ⟨free', dev', homes', h'⟩ := ih { s with free, dev, homes }
    exact ⟨free', dev', homes', by rw [h, h']⟩

theorem State.acquireInval_eq (s : State) (core ctx : Nat) :
    ∃ cores msgs, s.acquireInval core ctx = { s with cores, msgs } := ⟨_, _, rfl⟩

end Sys2Proof.Machine
end

section
/-! CLAIM. The waves and the block that a placement makes (R111, R112). -/

namespace Sys2Proof.Machine

/-- The wave of number k in its block that a placement makes. -/
def State.placedWave (s : State) (l : Launch) (gang member core k : Nat) : Wave :=
  Wave.start (s.sched.nextWave + k) l.ctx l.tag ((gang * l.gang + member) * l.waves + k) k s.sched.nextBlock gang l.width l.decl
    core (quadOf core k) (ageOf s.clk l.ord ((gang * l.gang + member) * l.waves + k)) s.clk
    (BitVec.ofNat 64 (l.field 0x08 8)) l.params

/-- The block that a placement makes. -/
def State.placedBlock (s : State) (l : Launch) (gang member core : Nat) : Block :=
  let index := gang * l.gang + member
  Block.start s.sched.nextBlock l.ctx l.tag index gang member core (index % l.field 0x10 4)
    (index / l.field 0x10 4 % l.field 0x14 2) (index / l.field 0x10 4 / l.field 0x14 2) l.waves (l.field 0x20 4)

/-- A placement adds its waves and its block and leaves the memories as they are. -/
theorem State.startBlock_frame (s : State) (l : Launch) (gang member core : Nat) :
    let t := s.startBlock l gang member core
    t.waves = s.waves ++ (List.range l.waves).map (s.placedWave l gang member core) ∧
      t.blocks = s.blocks ++ [s.placedBlock l gang member core] ∧ t.mem = s.mem ∧ t.host = s.host := by
  intro t
  have shrunk (u : State) : ∃ free dev homes, (if (s.placedBlock l gang member core).scratchSize = 0 then u
      else u.sharedShrink core) = { u with free, dev, homes } := by
    split
    · exact ⟨_, _, _, rfl⟩
    · exact u.sharedShrink_eq core
  have acquired (u : State) : ∃ cores msgs, (if (l.gangAt gang).relaunch = 0 then u else u.acquireInval core l.ctx) =
      { u with cores, msgs } := by
    split
    · exact ⟨_, _, rfl⟩
    · exact u.acquireInval_eq core l.ctx
  let u : State := { (s.modSched fun x => { x with nextBlock := s.sched.nextBlock + 1, nextWave := x.nextWave + l.waves }).modCore
      core fun c => { c with gated := false } with
    waves := s.waves ++ (List.range l.waves).map (s.placedWave l gang member core)
    blocks := s.blocks ++ [s.placedBlock l gang member core] }
  obtain ⟨free, dev, homes, h⟩ := shrunk u
  obtain ⟨cores, msgs, h'⟩ := acquired { u with free, dev, homes }
  have ht : t = { u with free, dev, homes, cores, msgs } :=
    (congrArg (fun u : State => if (l.gangAt gang).relaunch = 0 then u else u.acquireInval core l.ctx) h).trans h'
  rw [ht]
  exact ⟨rfl, rfl, rfl, rfl⟩

theorem Launch.params_get (l : Launch) {i : Nat} (hi : i < 16) :
    ∃ v, l.params[i]? = some v ∧ v.bits = BitVec.ofNat 32 (leNat
      ((((l.packet.drop 0x50).take (min 48 (l.field 0x25 1))) ++ List.replicate (64 - min 48 (l.field 0x25 1)) 0#8).drop (4 * i)
        |>.take 4)) ∧ v.poison = false := by
  exact ⟨Val.ofNat _ false, by simp [params, hi], rfl, rfl⟩

/-- A block scalar that nothing has written reads zero (R112, R147). -/
theorem State.blockScalar_unwritten {s : State} {w : Wave} {b : Block} {i : Nat} (hheld : w.held = [])
    (hb : s.block? w.block = some b) (hbsc : b.bsc.getD i [] = []) : s.blockScalar w i = .zero := by
  simp only [blockScalar, hheld, hb, hbsc]
  rfl

/-- Settles O47: the placement's frame, and the fields of `Wave.start` and `Block.start`. -/
theorem placedBlockStart : Obligations.PlacedBlockStart := by
  unfold Obligations.PlacedBlockStart
  intro s l gang member core t gx gy params word
  obtain ⟨hwaves, hblocks, hmem, hhost⟩ := s.startBlock_frame l gang member core
  refine ⟨⟨_, hwaves, by simp, fun k w hw => ?wave⟩, ⟨_, hblocks, ?block⟩, hmem, hhost⟩
  case wave =>
    obtain ⟨hk, rfl⟩ : k < l.waves ∧ s.placedWave l gang member core k = w := by
      rw [List.getElem?_map, Option.map_eq_some_iff] at hw
      obtain ⟨j, hj, rfl⟩ := hw
      obtain ⟨hlt, rfl⟩ := List.getElem?_eq_some_iff.1 hj
      simp at hlt ⊢
      exact hlt
    refine ⟨rfl, rfl, rfl, rfl, rfl, rfl, rfl, rfl, rfl, rfl, rfl, fun i hi => l.params_get hi, rfl, rfl, rfl, rfl, rfl, rfl, rfl,
      rfl, rfl, rfl, rfl, rfl, rfl, rfl, rfl, rfl, rfl, rfl, rfl, fun hfree i hi => ?scalars⟩
    have hblock : t.block? s.sched.nextBlock = some (s.placedBlock l gang member core) := by
      have hfresh : s.blocks.find? (·.id == s.sched.nextBlock) = none := hfree
      rw [State.block?, hblocks, List.find?_append, hfresh]
      simp [State.placedBlock, Block.start]
    exact State.blockScalar_unwritten rfl hblock (List.getD_replicate [] hi)
  case block =>
    refine ⟨rfl, rfl, rfl, rfl, rfl, rfl, rfl, rfl, rfl, fun a => ?_, rfl, rfl, rfl, rfl⟩
    rfl

end Sys2Proof.Machine
end


section
/-! SUPPORT. The memories of a state by space: reading after a write to the same and to another space. -/

namespace Sys2Proof.Machine

theorem State.block?_modBlock {f : Block → Block} (hf : ∀ b, (f b).id = b.id) (s : State) (id j : Nat) :
    (s.modBlock id f).block? j = (s.block? j).map fun b => if b.id == id then f b else b := by
  have hid : (fun b : Block => (if b.id == id then f b else b).id == j) = fun b => b.id == j := by
    funext b
    split <;> simp [hf]
  simp only [block?, modBlock, List.find?_map, Function.comp_def, hid]

theorem State.memOf_setMem_same {s : State} {sp : Space} (h : ∀ b, sp = .scratch b → (s.block? b).isSome = true) (m : Memory) :
    (s.setMem sp m).memOf sp = m := by
  cases sp with
  | dev => rfl
  | host => rfl
  | scratch b =>
    obtain ⟨k, hk⟩ := Option.isSome_iff_exists.1 (h b rfl)
    have hid : k.id = b := by simpa using List.find?_some (p := fun b' : Block => b'.id == b) hk
    rw [setMem, memOf, block?_modBlock (f := fun k => { k with scratch := m }) (fun _ => rfl), hk]
    simp [hid]

theorem State.memOf_setMem_ne (s : State) {sp tp : Space} (h : tp ≠ sp) (m : Memory) : (s.setMem sp m).memOf tp = s.memOf tp := by
  cases sp with
  | dev => cases tp with
    | dev => exact absurd rfl h
    | host | scratch => rfl
  | host => cases tp with
    | host => exact absurd rfl h
    | dev | scratch => rfl
  | scratch b => cases tp with
    | dev | host => rfl
    | scratch c =>
      have hne : c ≠ b := fun e => h (congrArg Space.scratch e)
      rw [setMem, memOf, memOf, block?_modBlock (f := fun k => { k with scratch := m }) fun _ => rfl]
      cases hc : s.block? c with
      | none => rfl
      | some k =>
        have hid : k.id = c := by simpa using List.find?_some (p := fun b' : Block => b'.id == c) hc
        simp [hid, hne]

/-! A field as bytes. -/

theorem leNat_lt (bs : List Byte) : leNat bs < 256 ^ bs.length := by
  induction bs with
  | nil => simp [leNat]
  | cons b bs ih =>
    have := b.isLt
    rw [leNat, List.length_cons, pow_succ]
    omega

theorem Memory.nat_lt (m : Memory) (a n : Nat) : m.nat a n < 256 ^ n := by
  simpa [Memory.nat] using leNat_lt ((List.range n).map fun k => m.get (a + k))

theorem Memory.nat_setNat (m : Memory) (a n v : Nat) : (m.setNat a n v).nat a n = v % 256 ^ n := by
  rw [Memory.nat, ← leNat_leBytes]
  congr 1
  refine List.ext_getElem (by simp) fun k hk _ => ?_
  have hk : k < n := by simpa using hk
  simp [Memory.setNat, Memory.get_setBytes, hk]

theorem Memory.get_setNat_outside (m : Memory) {a n c : Nat} (v : Nat) (h : c < a ∨ a + n ≤ c) :
    (m.setNat a n v).get c = m.get c := by
  rw [Memory.setNat, Memory.get_setBytes, length_leBytes, if_neg (by omega)]

theorem State.meetErrors_clean {s : State} (h : s.dev.hbmErrors = []) (l : Loc) (n : Nat) : s.meetErrors l n = s := by
  rw [meetErrors, h]
  split <;> rfl

end Sys2Proof.Machine
end

section
/-! SUPPORT. The sector poison that a store leaves (R257). -/

namespace Sys2Proof.Machine

theorem mem_insertNat {k j : Nat} {l : List Nat} : j ∈ insertNat k l ↔ j = k ∨ j ∈ l := by
  induction l with
  | nil => simp [insertNat]
  | cons i l ih =>
    rw [insertNat]
    split
    · simp
    · split
      · next hk => simp [hk]
      · rw [List.mem_cons, ih, List.mem_cons]
        tauto

theorem Memory.contains_setPoison (m : Memory) (k j : Nat) (p : Bool) :
    (m.setPoison k p).poison.contains j = if j = k then p else m.poison.contains j := by
  rw [Bool.eq_iff_iff]
  cases p <;> by_cases h : j = k <;> simp [Memory.setPoison, mem_insertNat, h]

/-- The bytes of data stored at a that lie in a sector. -/
def sectorPart (a : Nat) (bs : List PByte) (k : Nat) : List PByte := (bs.take (32 * (k + 1) - a)).drop (32 * k - a)

/-- What a store makes of a sector's poison bit. -/
def markedPoison (a : Nat) (bs : List PByte) (k : Nat) (p : Bool) : Bool :=
  anyPoison (sectorPart a bs k) || (p && (sectorPart a bs k).length != 32)

/-- The sectors of a list are marked, each once; every other keeps its bit. -/
theorem Memory.contains_foldl_mark (a : Nat) (bs : List PByte) (ks : List Nat) (hks : ks.Nodup) (m : Memory) (j : Nat) :
    (ks.foldl (fun m k =>
      let part := sectorPart a bs k
      if anyPoison part then m.setPoison k true
      else if part.length = 32 then m.setPoison k false
      else m) m).poison.contains j =
    if j ∈ ks then markedPoison a bs j (m.poison.contains j) else m.poison.contains j := by
  induction ks generalizing m with
  | nil => rfl
  | cons k ks ih =>
    obtain ⟨hk, hks⟩ := List.nodup_cons.1 hks
    rw [List.foldl_cons, ih hks]
    by_cases hj : j = k
    · subst hj
      rw [if_neg hk, if_pos List.mem_cons_self]
      dsimp only [markedPoison]
      split
      · next h => rw [Memory.contains_setPoison, if_pos rfl, h, Bool.true_or]
      · next h =>
        split
        · next h32 => rw [Memory.contains_setPoison, if_pos rfl]; simp [h, h32]
        · next h32 => simp [h, h32]
    · have hstep (p : Memory) (hp : p = m ∨ (∃ b, p = m.setPoison k b)) : p.poison.contains j = m.poison.contains j := by
        rcases hp with rfl | ⟨b, rfl⟩
        · rfl
        · rw [Memory.contains_setPoison, if_neg hj]
      rw [hstep]
      · simp [hj]
      · dsimp only
        split
        · exact .inr ⟨_, rfl⟩
        · split
          · exact .inr ⟨_, rfl⟩
          · exact .inl rfl

/-- The elements of a list whose places lie in a range, with the first place given. -/
theorem filter_zipIdx_range {α : Type} (l : List α) (n lo hi : Nat) :
    ((l.zipIdx n).filter fun e => decide (lo ≤ e.2) && decide (e.2 < hi)).map (·.1) = (l.take (hi - n)).drop (lo - n) := by
  induction l generalizing n with
  | nil => simp
  | cons x l ih =>
    rw [List.zipIdx_cons, List.filter_cons]
    by_cases hhi : n < hi
    · obtain ⟨d, rfl⟩ : ∃ d, hi = n + 1 + d := ⟨hi - n - 1, by omega⟩
      rw [show n + 1 + d - n = d + 1 by omega, List.take_succ_cons]
      by_cases hlo : lo ≤ n
      · simp [hlo, ih, show lo - n = 0 by omega, show lo - (n + 1) = 0 by omega, show n < n + 1 + d by omega]
      · obtain ⟨e, rfl⟩ : ∃ e, lo = n + 1 + e := ⟨lo - n - 1, by omega⟩
        simp [ih, show ¬ n + 1 + e ≤ n by omega, show n + 1 + e - n = e + 1 by omega]
    · simp [hhi, ih, show hi - n = 0 by omega, show hi - (n + 1) = 0 by omega]

/-- The statement's words for the data in a sector: the bytes whose address lies in it. -/
theorem sectorPart_eq (a : Nat) (bs : List PByte) (k : Nat) :
    (bs.zipIdx.filter fun b => (a + b.2) / 32 == k).map (·.1) = sectorPart a bs k := by
  have hsame : (fun b : PByte × Nat => (a + b.2) / 32 == k) =
      fun b => decide (32 * k - a ≤ b.2) && decide (b.2 < 32 * (k + 1) - a) := by
    funext b
    rw [Bool.eq_iff_iff]
    simp only [beq_iff_eq, Bool.and_eq_true, decide_eq_true_eq]
    omega
  rw [hsame, filter_zipIdx_range, sectorPart, Nat.sub_zero, Nat.sub_zero]

theorem sectorPart_outside {a k : Nat} {bs : List PByte} (h : k < a / 32 ∨ (a + bs.length - 1) / 32 < k) :
    sectorPart a bs k = [] := by
  rw [sectorPart, List.drop_eq_nil_iff, List.length_take]
  omega

/-- The poison bit of every sector after a store of some bytes. -/
theorem Memory.contains_store (m : Memory) (a : Nat) {bs : List PByte} (hbs : bs ≠ []) (j : Nat) :
    (m.store a bs).poison.contains j = markedPoison a bs j (m.poison.contains j) := by
  have hkept : (m.setBytes a (bs.map (·.byte))).poison = m.poison := by
    generalize bs.map (·.byte) = l
    induction l generalizing m a with
    | nil => rfl
    | cons b l ih => rw [Memory.setBytes, ih, Memory.set_poison]
  rw [Memory.store, if_neg (by simpa using hbs)]
  refine (Memory.contains_foldl_mark a bs _ ?nodup _ j).trans ?marked
  case nodup => exact List.nodup_range.map fun _ _ h => Nat.add_left_cancel h
  case marked =>
    rw [hkept]
    split
    · rfl
    · next hj =>
      have hout : sectorPart a bs j = [] := sectorPart_outside (by
        simp only [natsFrom, List.mem_map, List.mem_range, not_exists, not_and] at hj
        by_contra hin
        exact hj (j - a / 32) (by omega) (by omega))
      simp [markedPoison, hout, anyPoison]

end Sys2Proof.Machine
end

section
/-! CLAIM. A store changes only its bytes, an atomic only its operand (R257, R270, R271). -/

namespace Sys2Proof.Machine

theorem State.natAt_lt (s : State) (l : Loc) (n : Nat) : s.natAt l n < 256 ^ n := Memory.nat_lt _ _ _

/-- Settles O20: the memory of the space that is written, byte by byte and sector by sector; the other spaces stay. -/
theorem storesAndAtomicsChangeOnlyTheirBytes : Obligations.StoresAndAtomicsChangeOnlyTheirBytes := by
  unfold Obligations.StoresAndAtomicsChangeOnlyTheirBytes
  refine ⟨fun s l bs hbs hsp => ?store, fun s kind op variant hsp hclean hslot hsize => ?atomic⟩
  case store =>
    have hmem : (s.storeAt l bs).memOf l.sp = (s.memOf l.sp).store l.addr bs := State.memOf_setMem_same hsp _
    refine ⟨fun k b hb => ?_, fun a ha => ?_, fun sp hne => State.memOf_setMem_ne s hne _, fun sector => ?_⟩
    · obtain ⟨hk, rfl⟩ := List.getElem?_eq_some_iff.1 hb
      rw [hmem, Memory.get_store, if_pos (by omega)]
      simp [hk]
    · rw [hmem, Memory.get_store, if_neg (by omega)]
    · rw [hmem, Memory.contains_store _ _ hbs, sectorPart_eq]
      rfl
  case atomic =>
    have hpow : 256 ^ op.size = 2 ^ (8 * op.size) := Nat.pow_mul 2 8 op.size |>.symm
    have hbits : (BitVec.ofNat 64 (s.natAt op.loc op.size)).toNat = s.natAt op.loc op.size := by
      refine (BitVec.toNat_ofNat _ _).trans (Nat.mod_eq_of_lt ((s.natAt_lt op.loc op.size).trans_le ?_))
      rcases hsize with h | h <;> rw [h] <;> norm_num
    have hatom : s.applyAtomic (.atom variant) op =
        (⟨BitVec.ofNat 64 (s.natAt op.loc op.size), (s.memOf op.loc.sp).sectorPoison op.loc.addr⟩,
          s.setNatAt op.loc op.size (atomOp variant (8 * op.size) (s.natAt op.loc op.size) (pvalue op.data))) := by
      rw [State.applyAtomic, State.meetErrors_clean hclean, if_neg (by simp [hslot])]
    have hmem : (s.applyAtomic (.atom variant) op).2.memOf op.loc.sp = (s.memOf op.loc.sp).setNat op.loc.addr op.size
        (atomOp variant (8 * op.size) (s.natAt op.loc op.size) (pvalue op.data)) := by
      rw [hatom]
      exact State.memOf_setMem_same hsp _
    refine ⟨?old, ?new, fun a ha => ?kept, fun sp hne => ?spaces, rfl, ⟨?casOld, fun hne => ?casKept⟩, fun hkind => ?plain⟩
    case old => rw [hatom]; exact hbits
    case new => rw [State.natAt, hmem, Memory.nat_setNat, hpow]
    case kept => rw [hmem, Memory.get_setNat_outside _ _ ha]
    case spaces => rw [hatom]; exact State.memOf_setMem_ne s hne _
    case casOld =>
      rw [State.applyAtomic, State.meetErrors_clean hclean, if_neg (by simp [hslot])]
      split <;> exact hbits
    case casKept =>
      rw [State.applyAtomic, State.meetErrors_clean hclean, if_neg (by simp [hslot])]
      exact congrArg Prod.snd (if_neg hne)
    case plain =>
      subst hkind
      rw [State.applyAtomic, State.meetErrors_clean hclean, if_neg (by simp [hslot])]

end Sys2Proof.Machine
end


section
/-! SUPPORT. What an access must wait for at a home, and the leaf a walk finds (R241, R247, R356). -/

namespace Sys2Proof.Machine

/-- What an access must wait for at a home rests on the homes' directory, records, rebuilds and requests of the host, and on
the device's bad records. -/
theorem State.homeNeeds_isNone_congr {s t : State} (hdir : t.homes.dir = s.homes.dir) (hrec : t.homes.records = s.homes.records)
    (hreqs : t.homes.hostReqs = s.homes.hostReqs) (hreb : t.homes.rebuilds = s.homes.rebuilds) (hdev : t.dev = s.dev)
    (l : Loc) (n : Nat) (except : Option Nat) (read : Bool) :
    (t.homeNeeds l n except read).isNone = (s.homeNeeds l n except read).isNone := by
  have holds (l : Loc) : t.hostHolds l = s.hostHolds l := by simp only [hostHolds, hdir]
  have drains (l : Loc) : t.mustDrain l except = s.mustDrain l except := by simp only [mustDrain, recorded, hrec]
  simp only [homeNeeds, holds, drains, hdir, hreqs, hreb, hdev, apply_ite Option.isNone, Option.isNone_none, Option.isNone_some]

/-- The leaf a walk finds is the entry that stands at its place, which nothing waits for. -/
theorem walkFrom_leaf {s : State} {va at_ e lv fuel node : Nat} (h : walkFrom s va node fuel = .leaf at_ e lv) :
    s.homeNeeds ⟨.dev, at_⟩ 8 none true = none ∧ e = s.pnat at_ 8 := by
  induction fuel generalizing node with
  | zero => cases h
  | succ level ih =>
    rw [walkFrom] at h
    dsimp only at h
    split at h
    · cases h
    · next hneeds =>
      have found {a e' l' : Nat} (h : WalkResult.leaf a e' l' = .leaf at_ e lv) (ha : a = node + 8 * walkIndex va (level + 1))
          (he : e' = s.pnat (node + 8 * walkIndex va (level + 1)) 8) :
          s.homeNeeds ⟨.dev, at_⟩ 8 none true = none ∧ e = s.pnat at_ 8 := by
        cases h
        subst ha he
        exact ⟨by simpa using hneeds, rfl⟩
      repeat' split at h
      all_goals first | exact ih h | exact found h rfl rfl | cases h

theorem testBit_leNat (b : Byte) (bs : List Byte) (i : Nat) :
    (leNat (b :: bs)).testBit i = if i < 8 then b.getLsbD i else (leNat bs).testBit (i - 8) := by
  rw [leNat, Nat.add_comm, show 256 = 2 ^ 8 from rfl, Nat.testBit_two_pow_mul_add _ b.isLt]
  rfl

/-- A bit of a 64-bit field is a bit of one of its first two bytes. -/
theorem State.testBit_pnat (s : State) (a : Nat) {i : Nat} (hi : i < 16) :
    (s.pnat a 8).testBit i = (s.mem.get (a + i / 8)).getLsbD (i % 8) := by
  rw [pnat, Memory.nat, List.range_succ_eq_map, List.map_cons, List.range_succ_eq_map, List.map_cons, List.map_cons, testBit_leNat,
    testBit_leNat]
  by_cases h : i < 8
  · simp [h, Nat.div_eq_of_lt h, Nat.mod_eq_of_lt h]
  · rw [if_neg h, if_pos (by omega)]
    have h1 : i / 8 = 1 := by omega
    have h2 : i % 8 = i - 8 := by omega
    simp [h1, h2]

theorem State.get_orLeaf (s : State) (at_ bit a : Nat) : (s.orLeaf at_ bit).mem.get a =
    if a = at_ + bit / 8 then s.mem.get a ||| BitVec.ofNat 8 (2 ^ (bit % 8)) else s.mem.get a := by
  rw [orLeaf, Memory.get_set]
  split
  · next h => rw [h]
  · rfl

end Sys2Proof.Machine
end

section
/-! CLAIM. The class of a generic address, and the place a walk gives it (R259, R356 to R360). -/

namespace Sys2Proof.Machine

/-- A state that differs from s in device memory, in free choices and in the translations that cores and dies hold. -/
def State.Translated (s t : State) : Prop :=
  ∃ mem free cores dieTlb, t = { s with mem, free, cores, homes := { s.homes with dieTlb } }

theorem State.Translated.refl (s : State) : s.Translated s := ⟨_, _, _, _, rfl⟩

theorem State.Translated.trans {s t u : State} (h : s.Translated t) (h' : t.Translated u) : s.Translated u := by
  obtain ⟨_, _, _, _, rfl⟩ := h
  obtain ⟨_, _, _, _, rfl⟩ := h'
  exact ⟨_, _, _, _, rfl⟩

theorem State.Translated.homeNeeds {s t : State} (h : s.Translated t) (l : Loc) (n : Nat) (e : Option Nat) (r : Bool) :
    (t.homeNeeds l n e r).isNone = (s.homeNeeds l n e r).isNone := by
  obtain ⟨_, _, _, _, rfl⟩ := h
  refine State.homeNeeds_isNone_congr ?_ ?_ ?_ ?_ ?_ l n e r <;> rfl

theorem State.translated_orLeaf (s : State) (at_ bit : Nat) : s.Translated (s.orLeaf at_ bit) := ⟨_, _, _, _, rfl⟩

theorem State.tlbInsert_eq (s : State) (cap : Nat) (l : List TlbEntry) (e : TlbEntry) :
    ∃ free, (tlbInsert s cap l e).2 = { s with free } := by
  unfold tlbInsert
  split
  · exact ⟨_, rfl⟩
  · exact ⟨_, rfl⟩

theorem State.fillTlb_eq (s : State) (core : Option Nat) (e : TlbEntry) :
    ∃ free cores, s.fillTlb core e = { s with free, cores } := by
  cases core with
  | none => exact ⟨_, _, rfl⟩
  | some c =>
    obtain ⟨free, h⟩ := s.tlbInsert_eq 256 (s.core c).tlb e
    exact ⟨free, _, by rw [fillTlb, h]; rfl⟩

/-- Filling the TLBs from a leaf sets its accessed flag and leaves the rest of memory. -/
theorem State.fillLeaf_spec {s : State} (hclean : s.dev.hbmErrors = []) (core : Option Nat) (die ctx va at_ e lv : Nat) :
    let t := s.fillLeaf core die ctx va at_ e lv
    s.Translated t ∧ t.mem = if bitAt e 7 then s.mem else (s.orLeaf at_ 7).mem := by
  intro t
  let u : State := if bitAt e 7 then s else s.orLeaf at_ 7
  have hu : s.Translated u ∧ u.mem = if bitAt e 7 then s.mem else (s.orLeaf at_ 7).mem := by
    simp only [u]
    split
    · exact ⟨.refl s, rfl⟩
    · exact ⟨s.translated_orLeaf at_ 7, rfl⟩
  obtain ⟨free, hfree⟩ := u.tlbInsert_eq 262144 (u.homes.dieTlb.getD die []) (tlbEntryOf ctx va at_ e lv)
  have hmet : s.meetWalk ctx va = s := by rw [meetWalk, hclean]; rfl
  let v : State := { u with free, homes := { u.homes with
    dieTlb := updAt die (fun _ => (tlbInsert u 262144 (u.homes.dieTlb.getD die []) (tlbEntryOf ctx va at_ e lv)).1) u.homes.dieTlb } }
  have ht : t = v.fillTlb core (tlbEntryOf ctx va at_ e lv) := by
    simp only [t, fillLeaf, hmet]
    change State.fillTlb (State.modHomes (tlbInsert u 262144 (u.homes.dieTlb.getD die []) (tlbEntryOf ctx va at_ e lv)).2 _) core _ = _
    rw [hfree]
    rfl
  obtain ⟨free', cores, hfill⟩ := v.fillTlb_eq core (tlbEntryOf ctx va at_ e lv)
  rw [ht, hfill]
  exact ⟨hu.1.trans ⟨_, _, _, _, rfl⟩, hu.2⟩

theorem State.get_setAccessed (s : State) (at_ a : Nat) :
    (s.orLeaf at_ 7).mem.get a = if a = at_ then s.mem.get a ||| 0x80#8 else s.mem.get a := s.get_orLeaf at_ 7 a

theorem State.get_setDirty (s : State) (at_ a : Nat) :
    (s.orLeaf at_ 8).mem.get a = if a = at_ + 1 then s.mem.get a ||| 1#8 else s.mem.get a := s.get_orLeaf at_ 8 a

/-- After the walk the leaf's accessed flag is set, and every byte but the one it is in is as it was (R359). -/
theorem State.fillLeaf_flags {s : State} (hclean : s.dev.hbmErrors = []) (core : Option Nat) (die ctx va at_ lv : Nat) :
    let t := s.fillLeaf core die ctx va at_ (s.pnat at_ 8) lv
    (t.mem.get at_).getLsbD 7 = true ∧ ∀ a, a ≠ at_ → t.mem.get a = s.mem.get a := by
  intro t
  obtain ⟨-, hmem⟩ := s.fillLeaf_spec hclean core die ctx va at_ (s.pnat at_ 8) lv
  have h7 : bitAt (s.pnat at_ 8) 7 = (s.mem.get at_).getLsbD 7 := s.testBit_pnat at_ (by decide)
  refine ⟨?_, fun a ha => ?_⟩
  · rw [hmem]
    split
    · next h => exact h7.symm.trans h
    · rw [get_setAccessed, if_pos rfl]; simp
  · rw [hmem]
    split
    · rfl
    · rw [get_setAccessed, if_neg ha]

/-- The dirty flag is set, and every byte but the one it is in is as it was (R359). -/
theorem State.setDirty_spec {s : State} (hclean : s.dev.hbmErrors = []) (core : Option Nat) (e : TlbEntry) :
    s.Translated (s.setDirty core e) ∧ (s.setDirty core e).mem = (s.orLeaf e.leafAt 8).mem := by
  unfold setDirty
  rw [State.meetErrors_clean hclean]
  cases core with
  | none => exact ⟨⟨_, _, _, _, rfl⟩, rfl⟩
  | some c => exact ⟨⟨_, _, _, _, rfl⟩, rfl⟩

/-- The flags of a leaf, bits 7 and 8, leave its permissions' place: host bit and frame. -/
theorem place_of_flags {e f : Nat} (hf : ∀ i, i ≠ 7 → i ≠ 8 → f.testBit i = e.testBit i) :
    bitAt f 5 = bitAt e 5 ∧ bitsOf f 51 12 = bitsOf e 51 12 := by
  refine ⟨hf 5 (by decide) (by decide), Nat.eq_of_testBit_eq fun i => ?_⟩
  simp only [bitsOf, Nat.testBit_mod_two_pow, Nat.testBit_div_two_pow]
  rw [hf (i + 12) (by omega) (by omega)]

theorem testBit_two_pow_ne {i k : Nat} (h : i ≠ k) : (2 ^ k).testBit i = false := by
  rw [Nat.testBit_two_pow]; simpa using h.symm

section
variable {s : State} {w : Wave} {a : Nat}

/-- What an address of no class, or that its class refuses, gives (R259). -/
def badAddress (a e : Nat) : Named := .bad ⟨.address, BitVec.ofNat 64 a, some (BitVec.ofNat 64 e)⟩

theorem State.nameOf_reserved (hlo : 2 ^ 57 ≤ a) (hhi : a < 2 ^ 62) : s.nameOf w a = badAddress a 2 := by
  have hclass : a / 2 ^ 62 % 4 = 0 := by omega
  have hbits : bitsOf a 61 57 ≠ 0 := by rw [bitsOf]; omega
  simp only [nameOf, hclass, if_pos hbits, badAddress]

theorem State.nameOf_local (hlow : a < 2 ^ 57) (hsolo : w.st ≠ .solo) (hservice : w.service = false) :
    s.nameOf w a = .local w.ctx a := by
  have hclass : a / 2 ^ 62 % 4 = 0 := by omega
  have hbits : ¬bitsOf a 61 57 ≠ 0 := by rw [bitsOf]; omega
  have hin : w.inSolo = false := by simp [Wave.inSolo, hsolo, hservice]
  simp only [nameOf, hclass, if_neg hbits, vaContext, hin]
  rfl

theorem State.nameOf_far (hlo : 2 ^ 62 ≤ a) (hhi : a < 2 ^ 63) : s.nameOf w a =
    if s.rankOk (bitsOf a 61 45) then .placed (.far (bitsOf a 61 45) (bitsOf a 44 40) (a % 2 ^ 40)) else badAddress a 3 := by
  have hclass : a / 2 ^ 62 % 4 = 1 := by omega
  simp only [nameOf, hclass, badAddress]

theorem State.nameOf_beyondScratch (hlo : 2 ^ 63 + 2 ^ 28 ≤ a) (hhi : a < 2 ^ 63 + 2 ^ 62) : s.nameOf w a = badAddress a 2 := by
  have hclass : a / 2 ^ 62 % 4 = 2 := by omega
  have hbits : bitsOf a 61 28 ≠ 0 := by rw [bitsOf]; omega
  simp only [nameOf, hclass, if_pos hbits, badAddress]

section
variable (hlo : 2 ^ 63 ≤ a) (hhi : a < 2 ^ 63 + 2 ^ 28)
include hlo hhi

theorem State.nameOf_noMember (hg : w.decl.gang ≤ bitsOf a 27 23) : s.nameOf w a = badAddress a 4 := by
  have hclass : a / 2 ^ 62 % 4 = 2 := by omega
  have hbits : ¬bitsOf a 61 28 ≠ 0 := by rw [bitsOf]; omega
  simp only [nameOf, hclass, if_neg hbits, if_pos hg, badAddress]

theorem State.nameOf_pastScratch (hg : bitsOf a 27 23 < w.decl.gang) (hs : w.decl.scratch ≤ a % 2 ^ 23) :
    s.nameOf w a = badAddress a 5 := by
  have hclass : a / 2 ^ 62 % 4 = 2 := by omega
  have hbits : ¬bitsOf a 61 28 ≠ 0 := by rw [bitsOf]; omega
  simp only [nameOf, hclass, if_neg hbits, if_neg (not_le.2 hg), if_pos hs, badAddress]

theorem State.nameOf_scratch (hg : bitsOf a 27 23 < w.decl.gang) (hs : a % 2 ^ 23 < w.decl.scratch) {b : Block}
    (hb : s.blocks.find? (fun b => b.live && b.ctx == w.ctx && b.tag == w.tag && b.gang == w.gang &&
      b.member == bitsOf a 27 23) = some b) : s.nameOf w a = .placed (.mem ⟨.scratch b.id, a % 2 ^ 23⟩) := by
  have hclass : a / 2 ^ 62 % 4 = 2 := by omega
  have hbits : ¬bitsOf a 61 28 ≠ 0 := by rw [bitsOf]; omega
  simp only [nameOf, hclass, if_neg hbits, if_neg (not_le.2 hg), if_neg (not_le.2 hs), hb]

end

theorem State.nameOf_none (hlo : 2 ^ 63 + 2 ^ 62 ≤ a) (ha : a < 2 ^ 64) : s.nameOf w a = badAddress a 1 := by
  have hclass : a / 2 ^ 62 % 4 = 3 := by omega
  simp only [nameOf, hclass, badAddress]

end

theorem State.walked_leaf {s : State} {core : Option Nat} {die ctx va at_ e lv : Nat} {n : Need}
    (h : walkFrom s va (s.ctx ctx).ptroot 5 = .leaf at_ e lv) :
    s.walked core die ctx va n = (s.fillLeaf core die ctx va at_ e lv).useEntry core va n (tlbEntryOf ctx va at_ e lv) := by
  rw [walked, h]

/-- The place that a leaf with some of its flags set gives an address. -/
theorem tlbEntryOf_place {ctx va at_ e lv f : Nat} (hf : ∀ i, i ≠ 7 → i ≠ 8 → f.testBit i = e.testBit i) :
    (tlbEntryOf ctx va at_ e lv).place f va =
      ⟨if bitAt e 5 then .host else .dev, bitsOf e 51 12 * 4096 + va % pageSize lv⟩ := by
  obtain ⟨hhost, hframe⟩ := place_of_flags hf
  rw [TlbEntry.place, hhost, hframe, tlbEntryOf, Nat.mod_eq_sub_div_mul]

theorem toNat_tlbEntryOf_leaf (s : State) (ctx va at_ lv : Nat) :
    (tlbEntryOf ctx va at_ (s.pnat at_ 8) lv).leaf.toNat = s.pnat at_ 8 ||| 0x80 :=
  Nat.mod_eq_of_lt (Nat.or_lt_two_pow (Memory.nat_lt s.mem at_ 8) (by norm_num))

/-- Settles O21: the classes by the range of the address; the walk sets A in the leaf's first byte and a write D in its
second, after which nothing stands before the access that did not before the walk. -/
theorem addressesAndTheirTranslation : Obligations.AddressesAndTheirTranslation := by
  unfold Obligations.AddressesAndTheirTranslation
  refine ⟨fun s w a ha => ⟨State.nameOf_local, State.nameOf_reserved, State.nameOf_far, fun hlo hhi =>
      ⟨fun hfar => State.nameOf_beyondScratch hfar hhi, State.nameOf_noMember hlo, State.nameOf_pastScratch hlo,
        fun b hnear hg hs hb => State.nameOf_scratch hlo hnear hg hs hb⟩, fun hlo => State.nameOf_none hlo ha⟩,
    fun s core die c va at_ e lv need hcore hdie hclean hwalk hcheck => ?walk⟩
  case walk =>
    obtain ⟨hneeds, rfl⟩ := walkFrom_leaf hwalk
    obtain ⟨hfilled, -⟩ := s.fillLeaf_spec hclean core die c va at_ (s.pnat at_ 8) lv
    obtain ⟨hA, hkept⟩ := s.fillLeaf_flags hclean core die c va at_ lv
    have hleaf := toNat_tlbEntryOf_leaf s c va at_ lv
    have hown : s.ownEntry core c va = none := by
      cases core with
      | none => rfl
      | some k => exact hcore k rfl
    have hwalked : s.translate core die c va need = (s.fillLeaf core die c va at_ (s.pnat at_ 8) lv).useEntry core va need
        (tlbEntryOf c va at_ (s.pnat at_ 8) lv) := by
      rw [State.translate_eq, hown, hdie, ← State.walked_leaf hwalk]
    generalize hentry : tlbEntryOf c va at_ (s.pnat at_ 8) lv = entry at hleaf hwalked
    have hat : entry.leafAt = at_ := hentry ▸ rfl
    generalize s.fillLeaf core die c va at_ (s.pnat at_ 8) lv = t at hfilled hA hkept hwalked
    have hrest (u : State) (h : s.Translated u) : u.host = s.host ∧ u.blocks = s.blocks ∧ u.waves = s.waves := by
      obtain ⟨_, _, _, _, rfl⟩ := h
      exact ⟨rfl, rfl, rfl⟩
    rw [hwalked, State.useEntry, hleaf, hcheck]
    dsimp only
    split
    · next hdirty =>
      have hnone : t.homeNeeds ⟨.dev, entry.leafAt⟩ 8 none true = none := by
        rw [← Option.isNone_iff_eq_none, hfilled.homeNeeds, hat, hneeds]
        rfl
      have htclean : t.dev.hbmErrors = [] := by
        obtain ⟨_, _, _, _, rfl⟩ := hfilled
        exact hclean
      obtain ⟨hset, hmem⟩ := State.setDirty_spec htclean core entry
      rw [hat] at hmem
      rw [hnone]
      refine ⟨t.setDirty core entry, ?_, fun a h h1 => ?_, ?_, fun _ => ?_, hrest _ (hfilled.trans hset)⟩
      · rw [← hentry, tlbEntryOf_place fun i h7 h8 => ?_]
        rw [BitVec.toNat_or, hentry, hleaf, Nat.testBit_or, Nat.testBit_or, show 0x80 = 2 ^ 7 from rfl,
          testBit_two_pow_ne h7, show (0x100#64).toNat = 2 ^ 8 from rfl, testBit_two_pow_ne h8, Bool.or_false, Bool.or_false]
      · rw [hmem, State.get_setDirty, if_neg h1, hkept a h]
      · rw [hmem, State.get_setDirty, if_neg (by omega), hA]
      · rw [hmem, State.get_setDirty, if_pos rfl]; simp
    · next hclear =>
      refine ⟨t, ?_, fun a h _ => hkept a h, hA, fun hwr => ?_, hrest t hfilled⟩
      · rw [← hentry, tlbEntryOf_place fun i h7 _ => ?_]
        rw [Nat.testBit_or, show 0x80 = 2 ^ 7 from rfl, testBit_two_pow_ne h7, Bool.or_false]
      · have h8 : (s.pnat at_ 8).testBit 8 = (s.mem.get (at_ + 1)).getLsbD 0 := s.testBit_pnat at_ (by decide)
        rw [hkept _ (by omega), ← h8]
        simpa [hwr, bitAt, show Nat.testBit 0x80 8 = false from rfl] using hclear

end Sys2Proof.Machine
end


section
/-! CLAIM. A taken trap enters solo mode or holds the wave (R97, R100, R101, R103, R104, R424, R430). -/

namespace Sys2Proof.Machine

/-- The wave holds back the record of its trap, unless it is out (R424). -/
def Wave.holdRecord (w : Wave) (r : Raised) (flags : Nat) (host : Bool) (mode : Nat) : List Held :=
  if w.told.contains r.no then w.held
  else w.held ++ [⟨r.no, r.clk, 0, .record (trapRecord w r flags).pack host mode, none⟩]

/-- A wave that takes a trap with its record held back, as `State.takeTrap` writes it. -/
theorem Wave.take_holding (w : Wave) (r : Raised) (flags : Nat) (host : Bool) (mode : Nat) :
    (if w.told.contains r.no then w.take r true
      else { w.take r true with held := w.held ++ [⟨r.no, r.clk, 0, .record (trapRecord w r flags).pack host mode, none⟩] }) =
    { w.take r true with held := w.holdRecord r flags host mode } := by
  unfold holdRecord
  split <;> rfl

section
variable {s : State} {id slot : Nat} {r : Raised} {w : Wave} (hw : s.wave? id = some w)
include hw

/-- A trap in solo code or of a service wave. -/
theorem State.takeTrap_inSolo (h : w.service = true ∨ w.st = .solo) :
    s.takeTrap id slot r = (if r.trap.cause = .poison then s.count (State.dieOf w.core) 8 else s).putWave
      { w.take r true with st := .held, held := w.holdRecord r 4 false (if w.service then 0 else 1) } := by
  simp only [takeTrap, hw, if_pos h, Wave.take_holding]

variable (hservice : w.service = false) (hst : w.st ≠ .solo)
include hservice hst

/-- POISON of other code. -/
theorem State.takeTrap_poison (hc : r.trap.cause = .poison) :
    let claimed := s.claims w.ctx 4
    s.takeTrap id slot r = ((s.count (State.dieOf w.core) 8).putWave
      { w.take r true with held := w.holdRecord r 0 (claimed.2 && !claimed.1) (if claimed.1 then 2 else if claimed.2 then 0 else 1) }
      ).killGang w.ctx w.tag w.gang := by
  have hclaims : (s.count (State.dieOf w.core) 8).claims w.ctx 4 = s.claims w.ctx 4 := rfl
  simp only [takeTrap, hw, hservice, hst, hc, hclaims, Bool.false_eq_true, or_self, if_true, if_false, Wave.take_holding]

/-- A trap of other code, of a class the device does not claim. -/
theorem State.takeTrap_unclaimed (hc : r.trap.cause ≠ .poison) (hclaim : (s.claims w.ctx r.trap.cause.claimClass).1 = false) :
    let host := (s.claims w.ctx r.trap.cause.claimClass).2
    let v : Wave := { w with
      frozen := some ⟨w.splits, w.parked, w.modes, slot, 0, w.issueNo, false, w.ahead⟩
      ahead := [], sys := r.sysRegs w (lowest r.trap.lanes) 0 }
    s.takeTrap id slot r = s.putWave { v.take r true with st := .held, held := v.holdRecord r 0 host (if host then 0 else 1) } := by
  generalize hcl : s.claims w.ctx r.trap.cause.claimClass = cl at hclaim
  obtain ⟨dev, host⟩ := cl
  dsimp only at hclaim
  subst hclaim
  simp only [takeTrap, hw, hservice, hst, hc, hcl, Bool.false_eq_true, or_self, if_false]
  cases ht : w.told.contains r.no
  · simp only [Wave.holdRecord, ht, Bool.false_eq_true, if_false]
  · simp only [Wave.holdRecord, ht, if_true]
    rfl

/-- A trap of other code, of a class the device claims. -/
theorem State.takeTrap_claimed {sp : Split} (hsp : w.split? slot = some sp) (hc : r.trap.cause ≠ .poison)
    (hclaim : (s.claims w.ctx r.trap.cause.claimClass).1 = true) :
    let lane := if r.trap.lanes = allLanes w.width then lowest sp.mask else lowest r.trap.lanes
    s.takeTrap id slot r = s.putWave { w.take r false with
      st := .solo, frozen := some ⟨w.splits, w.parked, w.modes, slot, w.nextWin, w.issueNo, true, w.ahead⟩
      splits := [Split.fresh 0 (BitVec.ofNat 64 (s.dev.kbase + 64 * r.trap.cause.code)) (1#64 <<< lane) w.nextWin s.clk]
      parked := [], ahead := [], modes := w.modes.map fun _ => 0x10#32
      windows := w.windows ++ [⟨w.nextWin, .solo, 32, 0, 0#64, [], false, false, none⟩]
      nextWin := w.nextWin + 1, sys := r.sysRegs w lane 0 } := by
  generalize hcl : s.claims w.ctx r.trap.cause.claimClass = cl at hclaim
  obtain ⟨dev, host⟩ := cl
  dsimp only at hclaim
  subst hclaim
  simp only [takeTrap, hw, hservice, hst, hc, hcl, hsp, Bool.false_eq_true, or_self, if_false]
  rfl

end

/-- Settles O17: the four ways a trap is taken, by what the wave runs and what its class is claimed as. -/
theorem takenTrapEntersSoloOrHoldsTheWave : Obligations.TakenTrapEntersSoloOrHoldsTheWave := by
  unfold Obligations.TakenTrapEntersSoloOrHoldsTheWave
  refine ⟨fun s id slot r w sp hw hservice hst hc hsp hclaim => State.takeTrap_claimed hw hservice hst hsp hc hclaim,
    fun s id slot r w hw => ⟨State.takeTrap_inSolo hw, fun hservice hst hc => ?poison, fun hservice hst hc hclaim =>
      ⟨_, rfl, rfl, rfl, rfl, rfl, rfl, State.takeTrap_unclaimed hw hservice hst hc hclaim⟩⟩⟩
  case poison =>
    have hcls : r.trap.cause.claimClass = 4 := by rw [hc]; rfl
    rw [State.takeTrap_poison hw hservice hst hc, hcls, hc]
    rfl

end Sys2Proof.Machine
end


section
/-! SUPPORT. The operands of a SYS and the system registers by their numbers (R103, R107). -/

namespace Sys2Proof.Machine

/-- The operands a SYS uses are clean: it goes on with them. -/
theorem Iss.sysArgs_clean {x : Iss} {g : Gen} {useA useB : Bool} (ha : (useA && (x.a64 g x.first).poison) = false)
    (hb : (useB && (x.b32 g x.first).poison) = false) (k : DWord → Nat → Res) :
    x.sysArgs g useA useB k = k (x.a64 g x.first).bits (x.b32 g x.first).bits.toNat := by
  rw [sysArgs]
  exact if_neg (by simp [ha, hb])

/-- A poisoned operand that a SYS uses stops it (R428). -/
theorem Iss.sysArgs_poisoned {x : Iss} {g : Gen} {useA useB : Bool}
    (h : (useA && (x.a64 g x.first).poison || useB && (x.b32 g x.first).poison) = true) (k : DWord → Nat → Res) :
    x.sysArgs g useA useB k = x.raise ⟨.poison, laneSet [x.first], 0, none⟩ := by
  rw [sysArgs]
  exact if_pos h

/-- The system registers from number 16 on (R103). -/
theorem State.sysReg_of_le {s : State} {w : Wave} {n : Nat} (h : 16 ≤ n) : s.sysReg w n =
    if 0x100 ≤ n ∧ n ≤ 0x15F then some (.window (n - 0x100))
    else if 0x160 ≤ n ∧ n ≤ 0x167 then some (.pred (n - 0x160))
    else if n = 0x168 then some .mode
    else none := by
  obtain ⟨k, rfl⟩ := Nat.exists_eq_add_of_le' h
  rfl

section
variable {s : State} {w : Wave} {n : Nat}

theorem State.sysReg_window (hlo : 0x100 ≤ n) (hhi : n ≤ 0x15F) : s.sysReg w n = some (.window (n - 0x100)) := by
  rw [sysReg_of_le (by omega), if_pos ⟨hlo, hhi⟩]

theorem State.sysReg_pred (hlo : 0x160 ≤ n) (hhi : n ≤ 0x167) : s.sysReg w n = some (.pred (n - 0x160)) := by
  rw [sysReg_of_le (by omega), if_neg (by omega), if_pos ⟨hlo, hhi⟩]

theorem State.sysReg_mode (h : n = 0x168) : s.sysReg w n = some .mode := by
  rw [sysReg_of_le (by omega), if_neg (by omega), if_neg (by omega), if_pos h]

/-- The read-only registers hold a value. -/
theorem State.sysReg_value (h : n ∈ [0x001, 0x002, 0x003, 0x004, 0x005, 0x006, 0x008, 0x009, 0x00B, 0x00D, 0x00E, 0x00F]) :
    ∃ v, s.sysReg w n = some (.value v) := by
  have hall : ∀ k ∈ [0x001, 0x002, 0x003, 0x004, 0x005, 0x006, 0x008, 0x009, 0x00B, 0x00D, 0x00E, 0x00F],
      ∃ v, s.sysReg w k = some (.value v) := by
    simp only [List.forall_mem_cons, List.not_mem_nil, false_imp_iff, implies_true, and_true]
    exact ⟨⟨_, rfl⟩, ⟨_, rfl⟩, ⟨_, rfl⟩, ⟨_, rfl⟩, ⟨_, rfl⟩, ⟨_, rfl⟩, ⟨_, rfl⟩, ⟨_, rfl⟩, ⟨_, rfl⟩, ⟨_, rfl⟩, ⟨_, rfl⟩, ⟨_, rfl⟩⟩
  exact hall n h

theorem State.sysReg_none (h : 0x168 < n ∨ 0x00F < n ∧ n < 0x100) : s.sysReg w n = none := by
  rw [sysReg_of_le (by omega), if_neg (by omega), if_neg (by omega), if_neg (by omega)]

/-- A register that names a lane: of the trapped window, a predicate or the mode word. -/
theorem State.sysReg_ofLane (hlo : 0x100 ≤ n) (hhi : n ≤ 0x168) :
    ∃ r, s.sysReg w n = some r ∧ ∀ v, r ≠ .value v := by
  rcases Nat.lt_or_ge n 0x160 with h | h
  · exact ⟨_, sysReg_window hlo (by omega), fun v hv => by cases hv⟩
  · rcases Nat.lt_or_ge n 0x168 with h' | h'
    · exact ⟨_, sysReg_pred h (by omega), fun v hv => by cases hv⟩
    · exact ⟨_, sysReg_mode (by omega), fun v hv => by cases hv⟩

end

end Sys2Proof.Machine
end

section
/-! SUPPORT. sys.smovr and sys.smovw by what the register is (R103, R107). -/

namespace Sys2Proof.Machine

section smovr
variable {g : Gen} {s : State} {x : Iss} (h : Issues (.sysSmovr g) s x) (hb : (x.b32 g x.first).poison = false)
include h hb

theorem Issues.smovr_value {v : DWord} (hreg : s.sysReg x.w (x.b32 g x.first).bits.toNat = some (.value v)) :
    exec (.sysSmovr g) s = .next (x.gives64 g.d fun _ => ⟨v, false⟩) := by
  refine h.outcome (r := x.done (x.putPair x.w g.d x.act fun _ => ⟨v, false⟩)) rfl ?_
  rw [Iss.sysArgs_clean rfl (by rw [hb]; rfl), h.s_eq, hreg]

theorem Issues.smovr_none (hreg : s.sysReg x.w (x.b32 g x.first).bits.toNat = none) :
    exec (.sysSmovr g) s = .next (x.finish (.trap s ⟨.illegal, x.act, 0, some 1⟩)) := by
  refine h.raises rfl ?_
  rw [Iss.sysArgs_clean rfl (by rw [hb]; rfl), h.s_eq, hreg]
  rfl

theorem Issues.smovr_beyond {r : SysReg} (hreg : s.sysReg x.w (x.b32 g x.first).bits.toNat = some r)
    (hr : ∀ v, r ≠ .value v) (hlane : x.width ≤ x.w.sys.tlane.toNat) :
    exec (.sysSmovr g) s = .next (x.finish (.trap s ⟨.illegal, x.act, 0, some 1⟩)) := by
  refine h.raises rfl ?_
  rw [Iss.sysArgs_clean rfl (by rw [hb]; rfl), h.s_eq, hreg]
  cases r with
  | value v => exact absurd rfl (hr v)
  | window | pred | mode => exact if_pos hlane

theorem Issues.smovr_pred {p : Nat} (hreg : s.sysReg x.w (x.b32 g x.first).bits.toNat = some (.pred p))
    (hlane : x.w.sys.tlane.toNat < x.width) :
    exec (.sysSmovr g) s = .next (x.gives64 g.d fun _ => ⟨x.w.pred p, false⟩) := by
  refine h.outcome (r := x.done (x.putPair x.w g.d x.act fun _ => ⟨x.w.pred p, false⟩)) rfl ?_
  rw [Iss.sysArgs_clean rfl (by rw [hb]; rfl), h.s_eq, hreg]
  dsimp only
  rw [if_neg (not_le.2 hlane), BitVec.zeroExtend_eq_setWidth, BitVec.setWidth_eq]

theorem Issues.smovr_mode (hreg : s.sysReg x.w (x.b32 g x.first).bits.toNat = some .mode)
    (hlane : x.w.sys.tlane.toNat < x.width) :
    exec (.sysSmovr g) s =
      .next (x.gives64 g.d fun _ => ⟨(x.w.sysModes.getD x.w.sys.tlane.toNat 0#32).zeroExtend 64, false⟩) := by
  refine h.outcome (r := x.done (x.putPair x.w g.d x.act fun _ =>
    ⟨(x.w.sysModes.getD x.w.sys.tlane.toNat 0#32).zeroExtend 64, false⟩)) rfl ?_
  rw [Iss.sysArgs_clean rfl (by rw [hb]; rfl), h.s_eq, hreg]
  exact if_neg (not_le.2 hlane)

section
variable {r : Nat} (hreg : s.sysReg x.w (x.b32 g x.first).bits.toNat = some (.window r)) (hlane : x.w.sys.tlane.toNat < x.width)
include hreg hlane

theorem Issues.smovr_noWindow (hv : x.w.trappedWindow = none) :
    exec (.sysSmovr g) s = .next (x.finish (.trap s ⟨.operand, x.act, 0, none⟩)) := by
  refine h.raises rfl ?_
  rw [Iss.sysArgs_clean rfl (by rw [hb]; rfl), h.s_eq, hreg]
  dsimp only
  rw [if_neg (not_le.2 hlane), hv]

variable {v : Window} (hv : x.w.trappedWindow = some v)
include hv

theorem Issues.smovr_pastWindow (hsize : v.size ≤ r) :
    exec (.sysSmovr g) s = .next (x.finish (.trap s ⟨.operand, x.act, 0, none⟩)) := by
  refine h.raises rfl ?_
  rw [Iss.sysArgs_clean rfl (by rw [hb]; rfl), h.s_eq, hreg]
  dsimp only
  rw [if_neg (not_le.2 hlane), hv]
  exact if_pos hsize

theorem Issues.smovr_late (hsize : r < v.size)
    (hlate : (((x.w.phys? v.id r).bind x.w.reg?).any (·.writer != 0) ||
      (x.w.window? (x.w.ownerOf r 64 v.id)).any (·.spilled)) = true) :
    exec (.sysSmovr g) s = .next s := by
  rw [← Iss.finish_stall x s]
  refine h.outcome rfl ?_
  rw [Iss.sysArgs_clean rfl (by rw [hb]; rfl), h.s_eq, hreg]
  dsimp only
  rw [if_neg (not_le.2 hlane), hv]
  dsimp only
  rw [if_neg (not_le.2 hsize), if_pos hlate]

theorem Issues.smovr_window (hsize : r < v.size)
    (hlate : (((x.w.phys? v.id r).bind x.w.reg?).any (·.writer != 0) ||
      (x.w.window? (x.w.ownerOf r 64 v.id)).any (·.spilled)) = false) :
    exec (.sysSmovr g) s =
      .next (x.gives64 g.d fun _ => (x.w.laneVal (x.w.phys? v.id r) x.w.sys.tlane.toNat).wide) := by
  refine h.outcome (r := x.done (x.putPair x.w g.d x.act fun _ =>
    (x.w.laneVal (x.w.phys? v.id r) x.w.sys.tlane.toNat).wide)) rfl ?_
  rw [Iss.sysArgs_clean rfl (by rw [hb]; rfl), h.s_eq, hreg]
  dsimp only
  rw [if_neg (not_le.2 hlane), hv]
  dsimp only
  rw [if_neg (not_le.2 hsize), if_neg (by rw [hlate]; exact Bool.false_ne_true)]

end

end smovr

section smovw

/-- What sys.smovw does with the registers that a trapped wave's splits use, and with those it may not write (R103). -/
def Iss.writeReg (x : Iss) (a : DWord) : Option SysReg → Res
  | none | some (.value _) => x.illegal 1
  | some (.pred p) =>
    if x.width ≤ x.w.sys.tlane.toNat then x.illegal 1
    else if p = 0 then x.done x.w
    else x.done { x.w with preds := updAt p (fun _ => a &&& allLanes x.width) x.w.preds }
  | some .mode =>
    if x.width ≤ x.w.sys.tlane.toNat then x.illegal 1
    else
      let f (l : List Word) : List Word := updAt x.w.sys.tlane.toNat (fun m => writeMode m (a.truncate 32)) l
      x.done (if x.w.service then { x.w with modes := f x.w.modes }
        else match x.w.frozen with
          | some z => { x.w with frozen := some { z with modes := f z.modes } }
          | none => { x.w with modes := f x.w.modes })
  | some (.window r) =>
    if x.width ≤ x.w.sys.tlane.toNat then x.illegal 1
    else match x.w.trappedWindow with
      | none => x.raise ⟨.operand, x.act, 0, none⟩
      | some v =>
        if v.size ≤ r then x.raise ⟨.operand, x.act, 0, none⟩
        else
          let p := x.w.phys? v.id r
          if (p.bind x.w.reg?).any (·.writer != 0) || ((x.w.window? (x.w.ownerOf r 64 v.id)).any (·.spilled)) ||
              x.s.poolShort x.w 1 then .stall x.s
          else
            let one (i : Nat) : Option Val := if i = x.w.sys.tlane.toNat then some ⟨a.truncate 32, false⟩ else none
            x.done (x.w.writeName (Split.fresh 0 0 0 v.id 0) r x.clk p 0 one).2

/-- sys.smovw of a register but sys.epc, sys.pend, sys.seq and sys.tlane. -/
theorem Issues.smovw_eq {g : Gen} {s : State} {x : Iss} (h : Issues (.sysSmovw g) s x) (ha : (x.a64 g x.first).poison = false)
    (hb : (x.b32 g x.first).poison = false) (hn : (x.b32 g x.first).bits.toNat ∉ [0x000, 0x007, 0x00A, 0x00C]) :
    exec (.sysSmovw g) s =
      .next (x.finish (x.writeReg (x.a64 g x.first).bits (s.sysReg x.w (x.b32 g x.first).bits.toNat))) := by
  refine h.outcome rfl ?_
  rw [Iss.sysArgs_clean (by rw [ha]; rfl) (by rw [hb]; rfl), ← h.s_eq]
  split
  case h_5 =>
    rfl
  all_goals simp_all

section
variable {g : Gen} {s : State} {x : Iss} (h : Issues (.sysSmovw g) s x) (ha : (x.a64 g x.first).poison = false)
  (hb : (x.b32 g x.first).poison = false)
include h ha hb

/-- sys.smovw of sys.epc, sys.pend or sys.seq. -/
theorem Issues.smovw_plain {n : Nat} (hn : (x.b32 g x.first).bits.toNat = n) :
    (n = 0x000 → exec (.sysSmovw g) s = .next (x.leaves { x.w with sys := { x.w.sys with epc := (x.a64 g x.first).bits } })) ∧
    (n = 0x007 → exec (.sysSmovw g) s = .next (x.leaves { x.w with sys := { x.w.sys with pend := (x.a64 g x.first).bits } })) ∧
    (n = 0x00A → exec (.sysSmovw g) s = .next (x.leaves { x.w with seq := (x.a64 g x.first).bits.toNat })) := by
  refine ⟨fun he => ?_, fun he => ?_, fun he => ?_⟩ <;> subst he <;> rw [← Iss.finish_done] <;>
    refine h.outcome rfl ((Iss.sysArgs_clean (by rw [ha]; rfl) (by rw [hb]; rfl) _).trans ?_) <;> rw [hn] <;> rfl

/-- sys.smovw of sys.tlane. -/
theorem Issues.smovw_tlane (hn : (x.b32 g x.first).bits.toNat = 0x00C) (hlane : (x.a64 g x.first).bits.toNat < x.width) :
    exec (.sysSmovw g) s = .next (x.leaves { x.w with sys := { x.w.sys with tlane := (x.a64 g x.first).bits } }) := by
  rw [← Iss.finish_done]
  refine h.outcome rfl ?_
  rw [Iss.sysArgs_clean (by rw [ha]; rfl) (by rw [hb]; rfl), hn]
  exact if_neg (not_le.2 hlane)

theorem Issues.smovw_tlane_beyond (hn : (x.b32 g x.first).bits.toNat = 0x00C) (hlane : x.width ≤ (x.a64 g x.first).bits.toNat) :
    exec (.sysSmovw g) s = .next (x.finish (.trap s ⟨.illegal, x.act, 0, some 1⟩)) := by
  refine h.raises rfl ?_
  rw [Iss.sysArgs_clean (by rw [ha]; rfl) (by rw [hb]; rfl), hn]
  exact if_pos hlane

/-- A register that sys.smovw may not write. -/
theorem Issues.smovw_illegal (hn : (x.b32 g x.first).bits.toNat ∉ [0x000, 0x007, 0x00A, 0x00C])
    (hr : x.writeReg (x.a64 g x.first).bits (s.sysReg x.w (x.b32 g x.first).bits.toNat) = x.illegal 1) :
    exec (.sysSmovw g) s = .next (x.finish (.trap s ⟨.illegal, x.act, 0, some 1⟩)) := by
  rw [h.smovw_eq ha hb hn, hr, Iss.illegal, Iss.raise, h.s_eq]
  rfl

theorem Issues.smovw_beyond {r : SysReg} (hn : (x.b32 g x.first).bits.toNat ∉ [0x000, 0x007, 0x00A, 0x00C])
    (hreg : s.sysReg x.w (x.b32 g x.first).bits.toNat = some r) (hr : ∀ v, r ≠ .value v)
    (hlane : x.width ≤ x.w.sys.tlane.toNat) :
    exec (.sysSmovw g) s = .next (x.finish (.trap s ⟨.illegal, x.act, 0, some 1⟩)) := by
  refine h.smovw_illegal ha hb hn ?_
  rw [hreg]
  cases r with
  | value v => exact absurd rfl (hr v)
  | window | pred | mode => exact if_pos hlane

theorem Issues.smovw_pred {p : Nat} (hn : (x.b32 g x.first).bits.toNat ∉ [0x000, 0x007, 0x00A, 0x00C])
    (hreg : s.sysReg x.w (x.b32 g x.first).bits.toNat = some (.pred p)) (hlane : x.w.sys.tlane.toNat < x.width) :
    exec (.sysSmovw g) s = .next (x.leaves (if p = 0 then x.w
      else { x.w with preds := updAt p (fun _ => (x.a64 g x.first).bits &&& allLanes x.width) x.w.preds })) := by
  rw [h.smovw_eq ha hb hn, hreg, ← Iss.finish_done, Iss.writeReg, if_neg (not_le.2 hlane), apply_ite x.done]

theorem Issues.smovw_mode (hn : (x.b32 g x.first).bits.toNat ∉ [0x000, 0x007, 0x00A, 0x00C])
    (hreg : s.sysReg x.w (x.b32 g x.first).bits.toNat = some .mode) (hlane : x.w.sys.tlane.toNat < x.width)
    (put : List Word → List Word)
    (hput : put = fun l => updAt x.w.sys.tlane.toNat (fun m => writeMode m ((x.a64 g x.first).bits.truncate 32)) l) :
    (∀ f, x.w.service = false → x.w.frozen = some f →
      exec (.sysSmovw g) s = .next (x.leaves { x.w with frozen := some { f with modes := put f.modes } })) ∧
    (x.w.service = true ∨ x.w.frozen = none →
      exec (.sysSmovw g) s = .next (x.leaves { x.w with modes := put x.w.modes })) := by
  subst hput
  have hexec := h.smovw_eq ha hb hn
  rw [hreg, Iss.writeReg, if_neg (not_le.2 hlane), Iss.finish_done] at hexec
  refine ⟨fun f hs hf => ?_, fun hor => ?_⟩
  · rw [hexec, if_neg (by simp [hs]), hf]
  · rw [hexec]
    rcases hor with hs | hf
    · rw [if_pos hs]
    · rw [hf]
      exact congrArg (fun w => Host.Outcome.next (x.leaves w)) (ite_self _)

section
variable {r : Nat} (hn : (x.b32 g x.first).bits.toNat ∉ [0x000, 0x007, 0x00A, 0x00C])
  (hreg : s.sysReg x.w (x.b32 g x.first).bits.toNat = some (.window r)) (hlane : x.w.sys.tlane.toNat < x.width)
include hn hreg hlane

theorem Issues.smovw_noWindow (hv : x.w.trappedWindow = none) :
    exec (.sysSmovw g) s = .next (x.finish (.trap s ⟨.operand, x.act, 0, none⟩)) := by
  rw [h.smovw_eq ha hb hn, hreg, Iss.writeReg, if_neg (not_le.2 hlane), hv, Iss.raise, h.s_eq]

variable {v : Window} (hv : x.w.trappedWindow = some v)
include hv

theorem Issues.smovw_pastWindow (hsize : v.size ≤ r) :
    exec (.sysSmovw g) s = .next (x.finish (.trap s ⟨.operand, x.act, 0, none⟩)) := by
  rw [h.smovw_eq ha hb hn, hreg, Iss.writeReg, if_neg (not_le.2 hlane), hv]
  dsimp only
  rw [if_pos hsize, Iss.raise, h.s_eq]

/-- The trapped window's register, which stalls while it is still to be written or the pool is short. -/
theorem Issues.smovw_window (hsize : r < v.size) :
    exec (.sysSmovw g) s = .next (
      if (((x.w.phys? v.id r).bind x.w.reg?).any (·.writer != 0) || ((x.w.window? (x.w.ownerOf r 64 v.id)).any (·.spilled)) ||
        s.poolShort x.w 1) = true then s
      else x.leaves (x.w.writeName (Split.fresh 0 0 0 v.id 0) r x.clk (x.w.phys? v.id r) 0
        fun i => if i = x.w.sys.tlane.toNat then some ⟨(x.a64 g x.first).bits.truncate 32, false⟩ else none).2) := by
  rw [h.smovw_eq ha hb hn, hreg, Iss.writeReg, if_neg (not_le.2 hlane), hv]
  dsimp only
  rw [if_neg (not_le.2 hsize), h.s_eq, apply_ite x.finish, Iss.finish_stall, Iss.finish_done]

end

end

end smovw

end Sys2Proof.Machine
end


section
/-! SUPPORT. The return from a trap (R99, R107). -/

namespace Sys2Proof.Machine

/-- Popping windows changes the windows and the registers alone. -/
theorem Wave.popWindow_eq (w : Wave) (id clk : Nat) :
    ∃ regs, w.popWindow id clk = { w with regs, windows := w.windows.filter fun y => y.id < id } := by
  have phys (w : Wave) (p : Option Nat) : ∃ regs, w.freePhys p clk = { w with regs } := by
    unfold freePhys
    cases p with
    | none => exact ⟨_, rfl⟩
    | some k => exact ⟨_, rfl⟩
  have names (l : List (Nat × Nat)) (w : Wave) :
      ∃ regs, l.foldl (fun w p => w.freePhys (some p.2) clk) w = { w with regs } := by
    induction l generalizing w with
    | nil => exact ⟨_, rfl⟩
    | cons p l ih =>
      obtain ⟨regs, h⟩ := phys w (some p.2)
      obtain ⟨regs', h'⟩ := ih { w with regs }
      exact ⟨regs', by rw [List.foldl_cons, h, h']⟩
  have windows (l : List Window) (w : Wave) : ∃ regs, l.foldl (fun w x => w.freeWindow x clk) w = { w with regs } := by
    induction l generalizing w with
    | nil => exact ⟨_, rfl⟩
    | cons y l ih =>
      obtain ⟨regs, h⟩ := names y.map w
      obtain ⟨regs', h'⟩ := ih { w with regs }
      refine ⟨regs', ?_⟩
      rw [List.foldl_cons, freeWindow, h, h']
  obtain ⟨regs, h⟩ := windows (w.windows.filter fun x => id ≤ x.id) w
  exact ⟨regs, by simp only [popWindow, h]⟩

/-- A frozen split as it goes on (R106, R107). -/
def Frozen.resumed (f : Frozen) (epc : DWord) (clk : Nat) (sp : Split) : Split :=
  { sp.renew clk with
    pc := if sp.slot == f.slot then epc else sp.pc
    wait := if sp.slot == f.slot && !(sp.pc == epc && sp.wait.any (·.keeps)) then none else sp.wait }

/-- A wave in solo mode gets back what the trap froze, its solo windows popped. -/
theorem Wave.thaw_eq {w : Wave} {f : Frozen} (hf : w.frozen = some f) (hin : f.inSolo = true) (clk : Nat) :
    ∃ regs, w.thaw clk = { w with
      regs, windows := w.windows.filter fun y => y.id < f.win
      st := .resident, frozen := none, parked := f.parked, modes := f.modes, ahead := f.ahead
      splits := f.splits.map (f.resumed w.sys.epc clk) } := by
  obtain ⟨regs, h⟩ := w.popWindow_eq f.win clk
  refine ⟨regs, ?_⟩
  rw [thaw, hf]
  simp only [hin, if_true, h]
  rfl

/-- The trap that sys.pend stands for, as it is taken at sys.epc where no due trap is noted for it (R99). -/
def pendRaised (w : Wave) (lanes : Lanes) (clk : Nat) : Raised :=
  let cause := Cause.ofCode (w.sys.pend.toNat % 256)
  let pc : DWord := (w.sys.pend >>> 8) <<< 2
  let hit := w.pended.find? fun d => d.trap.cause == cause && d.ipc == pc
  { hit.getD ⟨⟨cause, .reported, lanes, 0, 0⟩, w.sys.epc, pc, w.issueNo, clk⟩ with epc := w.sys.epc }

theorem pendRaised_spec (w : Wave) (lanes : Lanes) (clk : Nat) :
    let cause := Cause.ofCode (w.sys.pend.toNat % 256)
    let pc : DWord := (w.sys.pend >>> 8) <<< 2
    let r := pendRaised w lanes clk
    r.trap.cause = cause ∧ r.ipc = pc ∧ r.epc = w.sys.epc ∧
      (∀ d, w.pended.find? (fun d => d.trap.cause == cause && d.ipc == pc) = some d → r = { d with epc := w.sys.epc }) ∧
      (w.pended.find? (fun d => d.trap.cause == cause && d.ipc == pc) = none → r.trap.lanes = lanes) := by
  intro cause pc r
  have hr : r = { (w.pended.find? fun d => d.trap.cause == cause && d.ipc == pc).getD
      ⟨⟨cause, .reported, lanes, 0, 0⟩, w.sys.epc, pc, w.issueNo, clk⟩ with epc := w.sys.epc } := rfl
  cases hit : w.pended.find? fun d => d.trap.cause == cause && d.ipc == pc with
  | none =>
    rw [hit] at hr
    exact ⟨by rw [hr]; rfl, by rw [hr]; rfl, by rw [hr], fun d hd => by simp at hd, fun _ => by rw [hr]; rfl⟩
  | some d =>
    rw [hit] at hr
    have hd := List.find?_some hit
    rw [Bool.and_eq_true, beq_iff_eq, beq_iff_eq] at hd
    refine ⟨by rw [hr]; exact hd.1, by rw [hr]; exact hd.2, by rw [hr], fun e he => ?_, fun hn => by simp at hn⟩
    cases he
    rw [hr]
    rfl

theorem State.returnFromTrap_resumes {s : State} {id : Nat} {w : Wave} (hw : s.wave? id = some w) (hp : w.sys.pend = 0#64) :
    s.returnFromTrap id = s.putWave { w.thaw s.clk with stopping := s.mustLeave w } := by
  rw [returnFromTrap, hw]
  exact if_pos hp

theorem State.returnFromTrap_pending {s : State} {id : Nat} {w : Wave} {f : Frozen} (hw : s.wave? id = some w)
    (hf : w.frozen = some f) (hin : f.inSolo = true) (hp : w.sys.pend ≠ 0#64) {sp : Split}
    (hsp : f.splits.find? (·.slot == f.slot) = some sp) :
    s.returnFromTrap id = (s.putWave { w.thaw s.clk with
      stopping := s.mustLeave w, pended := [], sys := { w.sys with pend := 0 } }).takeTrap id f.slot
        (pendRaised w sp.mask s.clk) := by
  obtain ⟨regs, hthaw⟩ := w.thaw_eq hf hin s.clk
  have hslot : sp.slot = f.slot := by simpa using List.find?_some hsp
  have hsplit : (f.splits.map (f.resumed w.sys.epc s.clk)).find? (·.slot == f.slot) = some (f.resumed w.sys.epc s.clk sp) := by
    rw [List.find?_map]
    exact congrArg (Option.map (f.resumed w.sys.epc s.clk)) hsp
  have hpc : (f.resumed w.sys.epc s.clk sp).pc = w.sys.epc := if_pos (by simpa using hslot)
  rw [returnFromTrap, hw]
  refine (if_neg hp).trans ?_
  simp only [hthaw, hf, Option.elim_some, Wave.split?, hsplit, hpc]
  rfl

end Sys2Proof.Machine
end

section
/-! CLAIM. sret, claimd, claimf and the system registers (R99, R102 to R105, R107). -/

namespace Sys2Proof.Machine

/-- Settles O18: sys.sret and sys.claimd hand the wave to the return from its trap, `Wave.thaw_eq` says what of it the
trap froze comes back, and `pendRaised_spec` which trap sys.pend stands for; sys.smovr and sys.smovw go by what
`State.sysReg` makes of the register's number. -/
theorem soloReturnResults : Obligations.SoloReturnResults := by
  unfold Obligations.SoloReturnResults
  refine ⟨fun g s x => ⟨fun h => ?sret, fun h ha => ?claimd, fun w f hw hservice hf hin => ?returns⟩, fun g s x =>
    ⟨fun h hb => ?smovr, fun h ha hb => ?smovw⟩, fun g s x h ha => ?claimf⟩
  case sret =>
    refine ⟨fun hs => ?_, fun hs => ?_⟩
    · rw [h.outcome rfl (if_neg (by simp [hs])), Iss.finish_jump, h.s_eq]
    · rw [h.outcome rfl (if_pos hs), Iss.finish_ok, h.s_eq]
  case claimd =>
    have hexec : exec (.sysClaimd g) s = .next (x.finish (
        if x.w.service then x.recordDone x.s (x.a64 g x.first).bits
        else if (x.a64 g x.first).bits ≠ 0#64 then x.illegal 2
        else .jump (x.s.returnFromTrap x.w.id))) :=
      h.outcome rfl (Iss.sysArgs_clean (by rw [ha]; rfl) rfl _)
    rw [hexec, h.s_eq]
    refine ⟨fun hs h0 => ?_, fun hs h0 => ?_, fun hs => ?_⟩
    · rw [if_neg (by simp [hs]), if_neg (not_not.2 h0), Iss.finish_jump]
    · rw [if_neg (by simp [hs]), if_pos h0, Iss.illegal, Iss.raise, h.s_eq]; rfl
    · rw [if_pos hs]; rfl
  case returns =>
    obtain ⟨regs, hthaw⟩ := w.thaw_eq hf hin s.clk
    refine ⟨{ w.thaw s.clk with stopping := s.mustLeave w }, by rw [hthaw], by rw [hthaw], by rw [hthaw], by rw [hthaw],
      by rw [hthaw], by rw [hthaw], by rw [hthaw], by rw [hthaw], by rw [hthaw], by rw [hthaw], by rw [hthaw],
      by rw [hthaw]; simp, fun sp hsp => ?split, State.returnFromTrap_resumes hw, fun hp sp hsp => ?pending⟩
    case split =>
      refine ⟨f.resumed w.sys.epc s.clk sp, by rw [hthaw]; exact List.mem_map_of_mem hsp, rfl, rfl, rfl, ?_⟩
      simp [Frozen.resumed]
    case pending =>
      obtain ⟨hcause, hpc, hepc, hsome, hnone⟩ := pendRaised_spec w sp.mask s.clk
      exact ⟨pendRaised w sp.mask s.clk, hcause, hpc, hepc, hsome, hnone, State.returnFromTrap_pending hw hf hin hp hsp⟩
  case smovr =>
    have value {k : Nat} {v : DWord} (hv : s.sysReg x.w k = some (.value v)) (hn : (x.b32 g x.first).bits.toNat = k) :
        exec (.sysSmovr g) s = .next (x.gives64 g.d fun _ => ⟨v, false⟩) := h.smovr_value hb (hn ▸ hv)
    refine ⟨value rfl, value rfl, value rfl, value rfl, value rfl, value rfl, value rfl, value rfl, value rfl, value rfl, value rfl,
      value rfl, value rfl, value rfl, value rfl, value rfl, fun hlo hhi hlane => ?window, fun hlo hhi hlane => ?beyond,
      fun hlo hhi hlane => h.smovr_pred hb (State.sysReg_pred hlo hhi) hlane, fun hn hlane => h.smovr_mode hb (State.sysReg_mode hn) hlane,
      fun hn => h.smovr_none hb (State.sysReg_none hn)⟩
    case window =>
      have hreg := State.sysReg_window (s := s) (w := x.w) hlo hhi
      exact ⟨h.smovr_noWindow hb hreg hlane, fun v hv => ⟨h.smovr_pastWindow hb hreg hlane hv, h.smovr_late hb hreg hlane hv,
        h.smovr_window hb hreg hlane hv⟩⟩
    case beyond =>
      obtain ⟨r, hreg, hr⟩ := State.sysReg_ofLane (s := s) (w := x.w) hlo hhi
      exact h.smovr_beyond hb hreg hr hlane
  case smovw =>
    obtain ⟨hepc, hpend, hseq⟩ := h.smovw_plain ha hb rfl
    refine ⟨hepc, hpend, hseq, h.smovw_tlane ha hb, fun hn hlane => ?zero, fun hlo hhi hlane => ?window,
      fun hlo hhi hlane => ?pred, fun hn hlane => ?mode, fun hlo hhi hlane => ?beyond, h.smovw_tlane_beyond ha hb,
      fun hn => ?unlisted, fun hn => ?readOnly⟩
    case zero =>
      exact (h.smovw_pred ha hb (by simp [hn]) (State.sysReg_pred (by omega) (by omega)) hlane).trans
        (by rw [hn]; rfl)
    case window =>
      have hreg := State.sysReg_window (s := s) (w := x.w) hlo hhi
      have hn : (x.b32 g x.first).bits.toNat ∉ [0x000, 0x007, 0x00A, 0x00C] := by simp; omega
      refine ⟨h.smovw_noWindow ha hb hn hreg hlane, fun v hv => ⟨h.smovw_pastWindow ha hb hn hreg hlane hv,
        fun hsize hlate => ?_, fun hsize hlate => ?_⟩⟩
      · rw [h.smovw_window ha hb hn hreg hlane hv hsize, if_pos hlate]
      · rw [h.smovw_window ha hb hn hreg hlane hv hsize, if_neg (by rw [hlate]; exact Bool.false_ne_true)]
    case pred =>
      rw [h.smovw_pred ha hb (by simp; omega) (State.sysReg_pred (by omega) hhi) hlane, if_neg (by omega)]
    case mode =>
      exact h.smovw_mode ha hb (by simp [hn]) (State.sysReg_mode hn) hlane _ rfl
    case beyond =>
      obtain ⟨r, hreg, hr⟩ := State.sysReg_ofLane (s := s) (w := x.w) hlo hhi
      exact h.smovw_beyond ha hb (by simp; omega) hreg hr hlane
    case unlisted =>
      exact h.smovw_illegal ha hb (by simp; omega) (by rw [State.sysReg_none hn]; rfl)
    case readOnly =>
      refine h.smovw_illegal ha hb ?_ ?_
      · simp only [List.mem_cons, List.not_mem_nil, or_false] at hn ⊢
        omega
      · obtain ⟨v, hv⟩ := State.sysReg_value (s := s) (w := x.w) hn
        rw [hv]
        rfl
  case claimf =>
    intro a
    have hexec := h.outcome (r := _) rfl (Iss.sysArgs_clean (by rw [ha]; rfl) rfl _)
    refine ⟨fun hs h0 f hf hin => ?_, fun hs h0 => ?_, fun hs hr => ?_, fun hs c hr => ?_⟩
    · rw [hexec, if_neg (by simp [hs]), if_neg (not_not.2 h0), Iss.finish_jump, h.s_eq]
      have hfrozen : ∀ clk e, (x.w.hold x.no clk 0 e).frozen = some f := fun _ _ => hf
      simp only [hfrozen, hin, if_true, Iss.clk, h.s_eq]
    · rw [hexec, if_neg (by simp [hs]), if_pos h0, Iss.illegal, Iss.raise, h.s_eq]
      rfl
    · rw [hexec, if_pos hs, h.s_eq, hr]
      rfl
    · rw [hexec, if_pos hs, h.s_eq, hr]
      rfl

end Sys2Proof.Machine
end


section
/-! CLAIM. The SYS commands that act on contexts, queues, gangs, link tables and granules, and the stops of their
operands (R107, R361, R89, R127, R314, R414, R125, R126, R369, R372, R397, R428, R431). -/

namespace Sys2Proof.Machine

/-- A body that raises a trap delivered at issue, of an instruction that may wait. -/
theorem Issues.raisesWait {i : Instr} {s : State} {x : Iss} (h : Issues i s x) {body : Iss → Res}
    (hexec : exec i s = issueWait i body s) {f : Fail} (hbody : body x = x.raise f) :
    exec i s = .next (x.finish (.trap s f)).poll :=
  h.outcomeWait hexec (by rw [hbody, Iss.raise, h.s_eq])

/-- The two together, as the statement of the stops tells them apart. -/
theorem Issues.stopsWait {i : Instr} {s : State} {x : Iss} (h : Issues i s x) {body : Iss → Res}
    (hexec : exec i s = issueWait i body s) {f : Fail} (hbody : body x = x.raise f) :
    exec i s = .next (if true then (x.finish (.trap s f)).poll else x.finish (.trap s f)) :=
  (h.raisesWait hexec hbody).trans (congrArg _ (if_pos rfl).symm)

theorem Issues.stops {i : Instr} {s : State} {x : Iss} (h : Issues i s x) {body : Iss → Res}
    (hexec : exec i s = issueWave i body s) {f : Fail} (hbody : body x = x.raise f) :
    exec i s = .next (if false then (x.finish (.trap s f)).poll else x.finish (.trap s f)) :=
  (h.raises hexec hbody).trans (congrArg _ (if_neg Bool.false_ne_true).symm)

/-- Covering latent errors leaves the device's tables where they are. -/
theorem State.coverErrors_linktab (s : State) (p : Nat → Bool) : (s.coverErrors p).dev.linktab = s.dev.linktab := by
  unfold coverErrors
  split <;> rfl

theorem State.coverErrors_free (s : State) (p : Nat → Bool) : (s.coverErrors p).free = s.free := by
  unfold coverErrors
  split <;> rfl

/-! What each operation does with clean operands. -/

/-- The context that B names. -/
theorem Iss.sysCtx_of {x : Iss} {b : Nat} (hb : b % 64 ≠ 0) (k : Nat → Res) : x.sysCtx b k = k (b % 64) := if_neg hb

/-- B names context 0. -/
theorem Iss.sysCtx_zero {x : Iss} {b : Nat} (hb : b % 64 = 0) (k : Nat → Res) : x.sysCtx b k = x.illegal 2 := if_pos hb

/-- The image that rankw and inj read: an address at a rank fails with detail 6 (R107). -/
def atRank (a : DWord) (_ : Nat) : Named → Option LaneFail
  | .placed _ => some ⟨.address, a, some 6⟩
  | _ => none

/-- The image at a place that is found, once its bytes can be read. -/
theorem Iss.sysImage_read {x : Iss} {a : DWord} {s t : State} {l : Loc} {bs : List PByte}
    (hplace : x.locate [x.first] (fun _ => ⟨a, false⟩) 32 Need.read (atRank a) = .ok s [(x.first, .mem l)])
    (hread : s.readNow x.w x.no l 32 = .ok bs t) (k : State → List Byte → Res) : x.sysImage a k = k t (bs.map (·.byte)) := by
  change (match x.locate [x.first] (fun _ => ⟨a, false⟩) 32 Need.read (atRank a) with
    | .stall s => Res.stall s
    | .fail s f => x.failWith s f
    | .ok s [(_, .mem l)] => (match s.readNow x.w x.no l 32 with
      | .stall s => Res.stall s
      | .ok bs s => k s (List.map PByte.byte bs))
    | .ok s _ => Res.ok s) = _
  rw [hplace]
  dsimp only
  rw [hread]

section queueCtl
variable {x : Iss} {op : QueueOp} {a : Nat}

theorem Iss.queueCtl_far (ha : 2 ^ 57 ≤ a) : x.queueCtl op a = x.illegal 3 :=
  if_pos (Nat.ne_of_gt (Nat.div_pos ha (Nat.two_pow_pos 57)))

variable (ha : a < 2 ^ 57)
include ha

theorem Iss.queueCtl_noContext (hva : x.s.vaContext x.w a = none) :
    x.queueCtl op a = x.raise ⟨.address, x.act, BitVec.ofNat 64 a, some 14⟩ := by
  rw [queueCtl, if_neg (not_not.2 (Nat.div_eq_of_lt ha)), hva]

/-- The context may take the command: no SUSPEND of it is in progress and no command of the host for it waits. -/
theorem Iss.queueCtl_free {c va : Nat} (hva : x.s.vaContext x.w a = some (c, va)) (hsave : (x.s.ctx c).saving ≠ some .suspend)
    (hcmds : x.s.dev.cmds.any (·.ctx == c) = false) : x.queueCtl op a =
      match x.s.queueAt c va with
      | some (eng, q) => (match x.s.queueWaits c eng q with
        | some s => .stall s
        | none => .ok (x.s.queueCommand c eng q op).2)
      | none => x.illegal 3 := by
  rw [queueCtl, if_neg (not_not.2 (Nat.div_eq_of_lt ha)), hva]
  dsimp only
  exact if_neg (by simp [hsave, hcmds])

end queueCtl

/-- What sys.qctl does by its code. -/
theorem Issues.qctl_queue {g : Gen} {s : State} {x : Iss} (h : Issues (.sysQctl g) s x) (ha : (x.a64 g x.first).poison = false)
    (hb : (x.b32 g x.first).poison = false) {op : QueueOp}
    (hop : ((x.b32 g x.first).bits.toNat % 256, op) ∈ [(0x01, QueueOp.stop), (0x02, .start), (0x03, .skip), (0x04, .retry)])
    {r : Res} (hr : x.queueCtl op (x.a64 g x.first).bits.toNat = r) : exec (.sysQctl g) s = .next (x.finish r).poll := by
  refine h.outcomeWait rfl ?_
  rw [Iss.sysArgs_clean (by rw [ha]; rfl) (by rw [hb]; rfl), ← hr]
  simp only [List.mem_cons, Prod.mk.injEq, List.not_mem_nil, or_false] at hop
  rcases hop with ⟨hn, rfl⟩ | ⟨hn, rfl⟩ | ⟨hn, rfl⟩ | ⟨hn, rfl⟩ <;> simp only [hn]

/-- The codes 1 to 4 are the queue commands. -/
theorem queueOp_of_code {n : Nat} (hlo : 1 ≤ n) (hhi : n ≤ 4) :
    ∃ op, (n, op) ∈ [(0x01, QueueOp.stop), (0x02, .start), (0x03, .skip), (0x04, .retry)] := by
  obtain rfl | rfl | rfl | rfl : n = 1 ∨ n = 2 ∨ n = 3 ∨ n = 4 := by omega
  · exact ⟨.stop, by simp⟩
  · exact ⟨.start, by simp⟩
  · exact ⟨.skip, by simp⟩
  · exact ⟨.retry, by simp⟩

/-- sys.qctl of a code that is no queue command. -/
theorem Issues.qctl_other {g : Gen} {s : State} {x : Iss} (h : Issues (.sysQctl g) s x) (ha : (x.a64 g x.first).poison = false)
    (hb : (x.b32 g x.first).poison = false) {r : Res} (hcode : (x.b32 g x.first).bits.toNat % 256 ∉ [0x01, 0x02, 0x03, 0x04])
    (hr : (if (x.b32 g x.first).bits.toNat % 256 = 0x10 then x.contextCtl (x.a64 g x.first).bits.toNat
      else if (x.b32 g x.first).bits.toNat % 256 = 0x20 then
        if 8 < (x.a64 g x.first).bits.toNat % 16 ∨ 8 < bitsOf (x.a64 g x.first).bits.toNat 11 8 then x.illegal 2
        else .ok (x.s.setPartition ((x.a64 g x.first).bits.toNat % 16) (bitsOf (x.a64 g x.first).bits.toNat 11 8))
      else x.illegal 2) = r) : exec (.sysQctl g) s = .next (x.finish r).poll := by
  refine h.outcomeWait rfl ?_
  rw [Iss.sysArgs_clean (by rw [ha]; rfl) (by rw [hb]; rfl), ← hr]
  dsimp only
  split <;> simp_all

/-- Settles O19: with clean operands each operation's body is its branch for the operands given, and a poisoned one that
it uses stops every operation alike (`Iss.sysArgs_poisoned`). -/
theorem systemCommandResults : Obligations.SystemCommandResults := by
  unfold Obligations.SystemCommandResults
  refine ⟨fun g s x => ⟨fun h ha hb => ?tlbinv, fun h => ?tlbsync⟩, fun g s x ha hb => ⟨fun h hc => ?evict,
    fun h h0 h64 => ?wake, fun h => ?qctl⟩, fun g s x ha hb => ⟨fun h l hl hlt => ?gkill, fun h l hl => ?grelaunch,
    fun h hslot s' l t bs hplace hread => ?rankw, fun h hlt hfeat s' l t bs hplace hread j hj => ?inj,
    fun h halign hlt h1 => ?biasset⟩, fun g s x => ⟨?poison, fun ha hb => ⟨fun h hc => ?noEvict, fun h hc => ?noWake,
    fun h => ⟨fun hlo hhi => ?noQueue, fun hcode hpart => ?noPartition⟩, fun h hlo hne hhi => ?noSlot, fun h hno => ?noInjector,
    fun h hno => ?noGang, fun h hno => ?noLaunch, fun h => ?noGranule⟩⟩⟩
  case tlbinv =>
    obtain rfl : x.s = s := h.s_eq
    refine ⟨fun hc hlt => ?_, fun hc => ?_, fun hc hlt => ?_⟩
    · refine h.outcomeWait (r := .ok _) rfl ?_
      rw [Iss.sysArgs_clean (by rw [ha]; rfl) (by rw [hb]; rfl), Iss.sysCtx_of hc, if_neg (not_not.2 (Nat.div_eq_of_lt hlt))]
      have hchunks : (if (x.s.choose 2).1 = 1 then (x.s.choose 2).2.dropTlb ((x.b32 g x.first).bits.toNat % 64)
          (x.a64 g x.first).bits.toNat else (x.s.choose 2).2).chunksOf ((x.b32 g x.first).bits.toNat % 64) =
          x.s.chunksOf ((x.b32 g x.first).bits.toNat % 64) := by
        split <;> rfl
      dsimp only
      rw [hchunks]
      rfl
    · exact h.raisesWait rfl ((Iss.sysArgs_clean (by rw [ha]; rfl) (by rw [hb]; rfl) _).trans (Iss.sysCtx_zero hc _))
    · refine h.raisesWait rfl ((Iss.sysArgs_clean (by rw [ha]; rfl) (by rw [hb]; rfl) _).trans ((Iss.sysCtx_of hc _).trans ?_))
      exact if_pos (Nat.ne_of_gt (Nat.div_pos hlt (Nat.two_pow_pos 57)))
  case tlbsync =>
    obtain rfl : x.s = s := h.s_eq
    exact h.outcomeWait rfl rfl
  case evict =>
    obtain rfl : x.s = s := h.s_eq
    refine ⟨fun halive hsave => ?_, fun halive => ?_⟩
    · refine h.outcomeWait rfl ?_
      rw [Iss.sysArgs_clean rfl (by rw [hb]; rfl), Iss.sysCtx_of hc, halive, hsave]
      rfl
    · rw [← Iss.finish_ok]
      refine h.outcomeWait rfl ?_
      rw [Iss.sysArgs_clean rfl (by rw [hb]; rfl), Iss.sysCtx_of hc, halive]
      rfl
  case wake =>
    obtain rfl : x.s = s := h.s_eq
    refine ⟨fun hst => ?_, fun hst page s' hpage => ?_⟩
    · rw [← Iss.finish_ok]
      refine h.outcome rfl ?_
      rw [Iss.sysArgs_clean rfl (by rw [hb]; rfl), if_neg (by omega), if_pos hst]
    · refine h.outcome (r := .ok _) rfl ?_
      rw [Iss.sysArgs_clean rfl (by rw [hb]; rfl), if_neg (by omega), if_neg (not_not.2 hst), hpage]
      exact (apply_ite Res.ok _ _ _).symm
  case qctl =>
    obtain rfl : x.s = s := h.s_eq
    refine ⟨fun op eng q c va hop hlt hva hsave hcmds hq => ⟨fun t ht => ?_, fun ht => ?_⟩, fun hcode hcmds hneeds h2 => ?_,
      fun hcode hlo hhi => ?_, fun hcode => ?_⟩
    · refine h.qctl_queue ha hb hop (r := .stall t) ?_
      rw [Iss.queueCtl_free hlt hva hsave (by rw [hcmds]; rfl), hq]
      dsimp only
      rw [ht]
    · refine h.qctl_queue ha hb hop (r := .ok _) ?_
      rw [Iss.queueCtl_free hlt hva hsave (by rw [hcmds]; rfl), hq]
      dsimp only
      rw [ht]
    · refine h.qctl_other ha hb (r := .ok _) (by simp [hcode]) ?_
      rw [if_pos hcode, Iss.contextCtl, hcmds]
      dsimp only
      rw [if_neg (by simp), hneeds]
      exact if_neg (by simp [h2])
    · refine h.qctl_other ha hb (r := .ok _) (by simp [hcode]) ?_
      rw [if_neg (by omega), if_pos hcode, if_neg (by omega)]
    · simp only [List.mem_cons, List.not_mem_nil, or_false, not_or] at hcode
      obtain ⟨h1, h2, h3, h4, h10, h20⟩ := hcode
      exact h.qctl_other ha hb (by simp [h1, h2, h3, h4]) (by rw [if_neg h10, if_neg h20]; rfl)
  case gkill =>
    obtain rfl : x.s = s := h.s_eq
    refine h.outcomeWait (r := .ok _) rfl ?_
    rw [Iss.sysArgs_clean rfl (by rw [hb]; rfl), hl]
    exact if_neg (not_le.2 hlt)
  case grelaunch =>
    obtain rfl : x.s = s := h.s_eq
    refine ⟨fun hfinal hgang => ?_, fun hno => ?_⟩
    · refine h.outcomeWait (r := .ok _) rfl ?_
      rw [Iss.sysArgs_clean rfl (by rw [hb]; rfl), hl]
      exact if_neg (by simp [hfinal, hgang])
    · refine h.raisesWait rfl ?_
      rw [Iss.sysArgs_clean rfl (by rw [hb]; rfl), hl]
      exact if_pos (by simpa using hno)
  case rankw =>
    obtain rfl : x.s = s := h.s_eq
    refine h.outcome (r := .ok _) rfl ?_
    rw [Iss.sysArgs_clean (by rw [ha]; rfl) (by rw [hb]; rfl), if_neg (by simp; omega)]
    refine (Iss.sysImage_read hplace hread _).trans ?_
    rw [State.writeSlot, State.coverErrors_linktab, State.coverErrors_free]
    rfl
  case inj =>
    obtain rfl : x.s = s := h.s_eq
    refine h.outcome (r := .ok _) rfl ?_
    rw [Iss.sysArgs_clean (by rw [ha]; rfl) (by rw [hb]; rfl), if_neg (by simp [hfeat]; omega)]
    refine (Iss.sysImage_read hplace hread _).trans ?_
    simp only [hj]
  case biasset =>
    obtain rfl : x.s = s := h.s_eq
    refine ⟨fun hr => ?_, fun hr => ?_⟩
    · refine h.outcomeWait (r := .ok _) rfl ?_
      rw [Iss.sysArgs_clean (by rw [ha]; rfl) (by rw [hb]; rfl), if_neg (by omega), if_neg (by omega), ← Prod.mk.eta
        (p := x.s.biasset _ _ _ _), hr]
    · refine h.outcomeWait rfl ?_
      rw [Iss.sysArgs_clean (by rw [ha]; rfl) (by rw [hb]; rfl), if_neg (by omega), if_neg (by omega), ← Prod.mk.eta
        (p := x.s.biasset _ _ _ _), hr]
      rfl
  case poison =>
    intro i useA useB waits hmem h hp
    simp only [List.mem_cons, Prod.mk.injEq, List.not_mem_nil, or_false] at hmem
    rcases hmem with ⟨rfl, rfl, rfl, rfl⟩ | ⟨rfl, rfl, rfl, rfl⟩ | ⟨rfl, rfl, rfl, rfl⟩ | ⟨rfl, rfl, rfl, rfl⟩ |
      ⟨rfl, rfl, rfl, rfl⟩ | ⟨rfl, rfl, rfl, rfl⟩ | ⟨rfl, rfl, rfl, rfl⟩ | ⟨rfl, rfl, rfl, rfl⟩ | ⟨rfl, rfl, rfl, rfl⟩ |
      ⟨rfl, rfl, rfl, rfl⟩ | ⟨rfl, rfl, rfl, rfl⟩ | ⟨rfl, rfl, rfl, rfl⟩ | ⟨rfl, rfl, rfl, rfl⟩
    case inr.inr.inr.inr.inr.inr.inl | inr.inr.inr.inr.inr.inr.inr.inr.inl | inr.inr.inr.inr.inr.inr.inr.inr.inr.inl | inl | inr.inl
      | inr.inr.inl | inr.inr.inr.inl => exact h.stops rfl (Iss.sysArgs_poisoned hp _)
    all_goals exact h.stopsWait rfl (Iss.sysArgs_poisoned hp _)
  case noEvict =>
    exact h.stopsWait rfl ((Iss.sysArgs_clean rfl (by rw [hb]; rfl) _).trans (Iss.sysCtx_zero hc _))
  case noWake =>
    exact h.stops rfl ((Iss.sysArgs_clean rfl (by rw [hb]; rfl) _).trans (if_pos hc))
  case noQueue =>
    obtain rfl : x.s = s := h.s_eq
    have stops {f : Fail} (hf : ∀ op, x.queueCtl op (x.a64 g x.first).bits.toNat = x.raise f) : exec (.sysQctl g) x.s =
        .next (if true then (x.finish (.trap x.s f)).poll else x.finish (.trap x.s f)) := by
      obtain ⟨op, hop⟩ := queueOp_of_code hlo hhi
      exact (h.qctl_queue ha hb hop (hf op)).trans (congrArg _ (if_pos rfl).symm)
    refine ⟨fun hfar => stops fun _ => Iss.queueCtl_far hfar, fun hlt hva => stops fun _ => Iss.queueCtl_noContext hlt hva,
      fun c va hlt hva hsave hcmds hq => stops fun op => ?_⟩
    rw [Iss.queueCtl_free hlt hva hsave hcmds, hq]
    rfl
  case noPartition =>
    obtain rfl : x.s = s := h.s_eq
    refine (h.qctl_other ha hb (r := x.illegal 2) (by simp [hcode]) ?_).trans (congrArg _ (if_pos rfl).symm)
    rw [if_neg (by omega), if_pos hcode, if_pos hpart]
  case noSlot =>
    refine h.stops rfl ((Iss.sysArgs_clean (by rw [ha]; rfl) (by rw [hb]; rfl) _).trans (if_pos ?_))
    simp; omega
  case noInjector =>
    obtain rfl : x.s = s := h.s_eq
    refine h.stops rfl ((Iss.sysArgs_clean (by rw [ha]; rfl) (by rw [hb]; rfl) _).trans (if_pos ?_))
    simpa using hno
  case noGang =>
    refine h.stopsWait rfl ((Iss.sysArgs_clean rfl (by rw [hb]; rfl) _).trans ?_)
    rcases hno with hl | ⟨l, hl, hle⟩
    · rw [hl]; rfl
    · rw [hl]
      exact if_pos hle
  case noLaunch =>
    refine h.stopsWait rfl ((Iss.sysArgs_clean rfl (by rw [hb]; rfl) _).trans ?_)
    rw [hno]; rfl
  case noGranule =>
    refine ⟨fun hno => ?_, fun halign hlt h1 => ?_⟩
    · exact h.stopsWait rfl ((Iss.sysArgs_clean (by rw [ha]; rfl) (by rw [hb]; rfl) _).trans (if_pos hno))
    · refine h.stopsWait rfl ((Iss.sysArgs_clean (by rw [ha]; rfl) (by rw [hb]; rfl) _).trans ?_)
      rw [if_neg (by omega), if_pos h1]
      rfl

end Sys2Proof.Machine
end


section
/-! SUPPORT. What meeting the errors of device memory leaves of the state, and a field the device writes (R83, R256). -/

namespace Sys2Proof.Machine

/-- `t` is `s` once errors of the device memory have been met: the listed errors, what counts and reports them, and the
poison of device memory are all that may differ. -/
def State.ErrorsMet (s t : State) : Prop :=
  ∃ hbmErrors errcnt evWait poison,
    t = { s with dev := { s.dev with hbmErrors, errcnt, evWait }, mem := { s.mem with poison } }

theorem State.ErrorsMet.refl (s : State) : s.ErrorsMet s := ⟨_, _, _, _, rfl⟩

theorem State.ErrorsMet.trans {s t u : State} (h : s.ErrorsMet t) (h' : t.ErrorsMet u) : s.ErrorsMet u := by
  obtain ⟨_, _, _, _, rfl⟩ := h
  obtain ⟨_, _, _, _, rfl⟩ := h'
  exact ⟨_, _, _, _, rfl⟩

theorem State.ErrorsMet.foldl {α : Type} {f : State → α → State} (hf : ∀ (s : State) a, s.ErrorsMet (f s a)) (l : List α) (s : State) :
    s.ErrorsMet (l.foldl f s) := by
  induction l generalizing s with
  | nil => exact .refl s
  | cons a l ih => exact (hf s a).trans (ih _)

theorem State.errorsMet_meetErrors (s : State) (l : Loc) (n : Nat) : s.ErrorsMet (s.meetErrors l n) := by
  unfold meetErrors
  split
  · exact .refl s
  · refine .foldl (fun s e => ?_) _ s
    dsimp only
    split
    · exact ⟨_, _, _, _, rfl⟩
    · exact ⟨_, _, _, _, rfl⟩

theorem State.errorsMet_coverErrors (s : State) (p : Nat → Bool) : s.ErrorsMet (s.coverErrors p) := by
  unfold coverErrors
  split
  · exact .refl s
  · exact ⟨_, _, _, _, rfl⟩

theorem State.errorsMet_mergeErrors (s : State) (l : Loc) (n : Nat) : s.ErrorsMet (s.mergeErrors l n) := by
  unfold mergeErrors
  split
  · exact .refl s
  · refine .foldl (fun s k => ?_) _ s
    split
    · exact errorsMet_coverErrors _ _
    · exact errorsMet_meetErrors _ _ _

section
variable {s t : State} (h : s.ErrorsMet t)
include h

theorem State.ErrorsMet.get (a : Nat) : t.mem.get a = s.mem.get a := by
  obtain ⟨_, _, _, _, rfl⟩ := h
  rfl

end

/-- A field the device writes in its memory. -/
theorem State.landNat_spec (s : State) (a n v : Nat) :
    ∃ t, s.ErrorsMet t ∧ s.landNat a n v = { t with mem := t.mem.setNat a n v } :=
  ⟨_, s.errorsMet_mergeErrors _ _, rfl⟩

/-- Where the host holds nothing and no write waits, a field is written at once. -/
theorem State.setPnat_lands {s : State} {a : Nat} (hdir : s.hostHolds ⟨.dev, a⟩ = false)
    (hposted : s.homes.posted.any (fun p => p.1 / 64 == a / 64) = false) (n v : Nat) : s.setPnat a n v = s.landNat a n v := by
  rw [setPnat]
  exact if_neg (by simp [hdir, hposted])

/-- Recalling a half sends at most a message. -/
theorem State.recallHalf_eq (s : State) (l : Loc) :
    ∃ msgs nextMsg, s.recallHalf l = { s with msgs, nextMsg } ∧ ∀ m ∈ s.msgs, m ∈ msgs := by
  unfold recallHalf
  dsimp only
  split
  · exact ⟨_, _, rfl, fun m hm => hm⟩
  · exact ⟨_, _, rfl, fun m hm => List.mem_append_left _ hm⟩

/-- A field the device writes: written at once, or it waits for a half the host holds. -/
theorem State.setPnat_cases (s : State) (a n v : Nat) :
    (∃ t, s.ErrorsMet t ∧ s.setPnat a n v = { t with mem := t.mem.setNat a n v }) ∨
    (∃ msgs nextMsg, s.setPnat a n v =
        { s with msgs, nextMsg, homes := { s.homes with posted := s.homes.posted ++ [(a, n, v)] } } ∧
      ∀ m ∈ s.msgs, m ∈ msgs) := by
  unfold setPnat
  split
  · obtain ⟨msgs, nextMsg, h, hmem⟩ := s.recallHalf_eq ⟨.dev, a⟩
    exact .inr ⟨msgs, nextMsg, by rw [h]; rfl, hmem⟩
  · exact .inl (s.landNat_spec a n v)

/-- Whichever: bytes outside the field stand as they did. -/
theorem State.get_setPnat_outside (s : State) {a n c : Nat} (v : Nat) (hc : c < a ∨ a + n ≤ c) :
    (s.setPnat a n v).mem.get c = s.mem.get c := by
  rcases s.setPnat_cases a n v with ⟨t, ht, h⟩ | ⟨_, _, h, _⟩
  · rw [h, Memory.get_setNat_outside _ _ hc, ht.get]
  · rw [h]

/-- What a field the device writes leaves of the device. -/
theorem State.setPnat_dev (s : State) (a n v : Nat) :
    ∃ hbmErrors errcnt evWait, (s.setPnat a n v).dev = { s.dev with hbmErrors, errcnt, evWait } := by
  rcases s.setPnat_cases a n v with ⟨t, ⟨_, _, _, _, rfl⟩, h⟩ | ⟨_, _, h, _⟩
  · exact ⟨_, _, _, by rw [h]⟩
  · exact ⟨_, _, _, by rw [h]⟩

end Sys2Proof.Machine
end

section
/-! CLAIM. The end of bring-up (R102, R443, R444). -/

namespace Sys2Proof.Machine

/-- The signature is the vendor's, and accepted. -/
theorem imageSigned_iff (flash : List Byte) : imageSigned flash = true ↔
    Config.shake256 (imageOf flash).pubKey = Config.vendorDigest ∧
      Config.falconAccepts (imageOf flash).pubKey (imageOf flash).sig (imageDigest flash) = true := by
  rw [imageSigned, Bool.and_eq_true, beq_iff_eq]

/-- The image is there, with a body that fits. -/
def Image.found (h : Image) (room : Nat) : Prop :=
  h.magic = 0x394A5653 ∧ h.bodySize ≤ 0x4000000 ∧ 0x1000 + h.bodySize ≤ room

/-- The checks of the boot controller in their order (R443). -/
theorem State.bootRefusal_cases (s : State) :
    let h := imageOf s.dev.flash
    (¬h.found s.dev.flash.length → s.bootRefusal = some 4) ∧
    (h.found s.dev.flash.length →
      (imageSigned s.dev.flash = false → s.bootRefusal = some 1) ∧
      (imageSigned s.dev.flash = true →
        (h.version < s.dev.rollback → s.bootRefusal = some 5) ∧
        (s.dev.rollback ≤ h.version →
          (Config.identityOk = false → s.bootRefusal = some 2) ∧
          (Config.identityOk = true →
            (h.inRange = false → s.bootRefusal = some 3) ∧ (h.inRange = true → s.bootRefusal = none))))) := by
  intro h
  have hnot : (h.magic ≠ 0x394A5653 ∨ 0x4000000 < h.bodySize ∨ s.dev.flash.length < 0x1000 + h.bodySize) ↔
      ¬h.found s.dev.flash.length := by
    rw [Image.found, not_and_or, not_and_or, not_le, not_le]
  refine ⟨fun hf => ?_, fun hf => ⟨fun hs => ?_, fun hs => ⟨fun hold => ?_, fun hnew => ⟨fun hid => ?_, fun hid =>
    ⟨fun hin => ?_, fun hin => ?_⟩⟩⟩⟩⟩
  · exact if_pos (hnot.2 hf)
  · exact (if_neg (mt hnot.1 (not_not.2 hf))).trans (if_pos (by rw [hs]; rfl))
  all_goals
    refine (if_neg (mt hnot.1 (not_not.2 hf))).trans ((if_neg (by rw [hs]; exact Bool.false_ne_true)).trans ?_)
  · exact if_pos hold
  all_goals refine (if_neg (not_lt.2 hnew)).trans ?_
  · exact if_pos (by rw [hid]; rfl)
  all_goals refine (if_neg (by rw [hid]; exact Bool.false_ne_true)).trans ?_
  · exact if_pos (by rw [hin]; rfl)
  · exact if_neg (by rw [hin]; exact Bool.false_ne_true)

/-- The memory an image leaves, before the state of context 0 is shown in its entry. -/
def Image.memory (h : Image) (code : List Byte) : Memory :=
  (Memory.setBytes { cells := [], poison := [], biasLo := h.biastab, biasHi := h.biastab + biasBytes, veils := [] }
    h.ctxtab (List.replicate 16384 0#8)).setBytes h.kbase code

/-- What the memory of an image reads as: the firmware, zeros in the contexts table, 0x0004 in each bias-table entry. -/
theorem Image.get_memory (h : Image) (code : List Byte) (a : Nat) : (h.memory code).get a =
    if h.kbase ≤ a ∧ a < h.kbase + code.length then code.getD (a - h.kbase) 0#8
    else if h.ctxtab ≤ a ∧ a < h.ctxtab + 16384 then 0#8
    else if h.biastab ≤ a ∧ a < h.biastab + biasBytes ∧ (a - h.biastab) % 2 = 0 then 4#8 else 0#8 := by
  rw [memory, Memory.get_setBytes, Memory.get_setBytes, List.length_replicate]
  split
  · rfl
  split
  · rw [List.getD_eq_getElem?_getD, List.getElem?_replicate]
    split <;> rfl
  · rfl

/-- The contexts table and the bias table of an image in range are apart. -/
theorem Image.tables_apart {h : Image} (hin : h.inRange = true) :
    h.ctxtab + 16384 ≤ h.biastab ∨ h.biastab + biasBytes ≤ h.ctxtab := by
  have hapart : apart h.tables = true := by
    unfold inRange at hin
    exact (Bool.and_eq_true _ _ ▸ hin).2
  simp only [tables, apart, List.all_cons, List.all_nil, Bool.and_eq_true, Bool.or_eq_true, decide_eq_true_eq] at hapart
  omega

/-- A service wave: on quadrant 3 of core 31 or 63, its one split of lane 0 at KBASE (R102). -/
theorem serviceWave_spec (id die clk kbase : Nat) :
    let w := serviceWave id die clk kbase
    (w.service, w.grid, w.core, w.quad, w.st) = (true, die, if die = 0 then 31 else 63, 3, WaveState.solo) ∧
      w.splits.map (fun p => (p.mask, p.pc)) = [(1#64, BitVec.ofNat 64 kbase)] := ⟨rfl, rfl⟩

/-- Everything that a boot leaves, but for the state that the entry of context 0 then shows. -/
def State.bootedTables (s : State) : State :=
  let h := imageOf s.dev.flash
  { s with
    mem := h.memory ((imageBody s.dev.flash).drop h.fwOff)
    dev := { s.dev with
      st := .ready, kbase := h.kbase, ctxtab := h.ctxtab, linktab := h.linktab, rctab := h.rctab, biastab := h.biastab
      netprefix := h.netprefix, porten := h.porten % 2 ^ 24, features := h.features % 2, trained := true
      version := h.version, rollback := max s.dev.rollback h.version }
    link := { s.link with
      ports := (List.range 24).map fun i => (if h.porten.testBit i then .training else .disabled, 0) }
    waves := [serviceWave s.sched.nextWave 0 s.clk h.kbase, serviceWave (s.sched.nextWave + 1) 1 s.clk h.kbase]
    sched := { s.sched with nextWave := s.sched.nextWave + 2 } }

theorem State.booted_eq (s : State) : s.booted = s.bootedTables.setCtxState 0 .resident := rfl

/-- The entry of context 0 lies at CTXTAB. -/
theorem State.booted_setPnat (s : State) : s.booted =
    (s.bootedTables.modCtx 0 fun x => { x with st := .resident }).setPnat (imageOf s.dev.flash).ctxtab 4 3 := rfl

/-- Bytes but those of the state of context 0 are the image's. -/
theorem State.get_booted (s : State) {a : Nat}
    (ha : a < (imageOf s.dev.flash).ctxtab ∨ (imageOf s.dev.flash).ctxtab + 4 ≤ a) :
    s.booted.mem.get a = ((imageOf s.dev.flash).memory ((imageBody s.dev.flash).drop (imageOf s.dev.flash).fwOff)).get a := by
  rw [booted_setPnat, get_setPnat_outside _ _ ha]
  rfl

/-- A device that boots is refused with the reason its checks give. -/
theorem State.boot_refused {s : State} (hon : s.dev.on = true) (hst : s.dev.st = .booting) {r : Nat}
    (h : s.bootRefusal = some r) :
    exec .bootTrainingComplete s = .next (s.modDev fun d => { d with st := .refused, reason := r }) := by
  change execBootTrainingComplete s = _
  rw [execBootTrainingComplete, if_neg (by simp [hon, hst]), h]

theorem State.boot_succeeds {s : State} (hon : s.dev.on = true) (hst : s.dev.st = .booting) (h : s.bootRefusal = none) :
    exec .bootTrainingComplete s = .next s.booted := by
  change execBootTrainingComplete s = _
  rw [execBootTrainingComplete, if_neg (by simp [hon, hst]), h]

/-- What a boot that succeeds leaves of the device. -/
theorem State.booted_dev (s : State) :
    let h := imageOf s.dev.flash
    s.booted.dev.st = .ready ∧ s.booted.dev.kbase = h.kbase ∧ s.booted.dev.ctxtab = h.ctxtab ∧
      s.booted.dev.version = h.version ∧ s.booted.dev.rollback = max s.dev.rollback h.version := by
  obtain ⟨_, _, _, h⟩ := (s.bootedTables.modCtx 0 fun x => { x with st := .resident }).setPnat_dev
    (imageOf s.dev.flash).ctxtab 4 3
  rw [booted_setPnat, h]
  exact ⟨rfl, rfl, rfl, rfl, rfl⟩

/-- Its two waves. -/
theorem State.booted_waves (s : State) : s.booted.waves =
    [serviceWave s.sched.nextWave 0 s.clk (imageOf s.dev.flash).kbase,
      serviceWave (s.sched.nextWave + 1) 1 s.clk (imageOf s.dev.flash).kbase] := by
  rw [booted_setPnat, setPnat_waves]
  rfl

/-- The state of context 0 stands in its entry, where nothing waits for the host. -/
theorem State.booted_state (s : State) (hdir : s.homes.dir = []) (hposted : s.homes.posted = []) :
    s.booted.mem.nat (imageOf s.dev.flash).ctxtab 4 = 3 := by
  have hheld : (s.bootedTables.modCtx 0 fun x => { x with st := .resident }).hostHolds
      ⟨.dev, (imageOf s.dev.flash).ctxtab⟩ = false := by
    change (Space.dev == Space.dev && s.homes.dir.any _) = false
    rw [hdir]
    rfl
  have hwait : (s.bootedTables.modCtx 0 fun x => { x with st := .resident }).homes.posted.any
      (fun p => p.1 / 64 == (imageOf s.dev.flash).ctxtab / 64) = false := by
    change s.homes.posted.any _ = false
    rw [hposted]
    rfl
  rw [booted_setPnat, setPnat_lands hheld hwait, landNat]
  rw [Memory.nat_setNat]
  norm_num

/-- Settles O50: `State.bootRefusal_cases` gives the checks in their order; a good boot leaves the memory
`Image.get_memory` but for the four bytes that show the state of context 0. -/
theorem bringUpResults : Obligations.BringUpResults := by
  unfold Obligations.BringUpResults
  intro s hon hst
  have hsigned := imageSigned_iff s.dev.flash
  obtain ⟨hlost, hfound⟩ := s.bootRefusal_cases
  have unsigned (hno : ¬_) : imageSigned s.dev.flash = false := Bool.eq_false_iff.2 fun h => hno (hsigned.1 h)
  refine ⟨fun hno => State.boot_refused hon hst (hlost hno),
    fun hf hno => State.boot_refused hon hst ((hfound hf).1 (unsigned hno)),
    fun hf hs hold => State.boot_refused hon hst (((hfound hf).2 (hsigned.2 hs)).1 hold),
    fun hf hs hnew hid => State.boot_refused hon hst ((((hfound hf).2 (hsigned.2 hs)).2 hnew).1 hid),
    fun hf hs hnew hid => ⟨fun hin => State.boot_refused hon hst (((((hfound hf).2 (hsigned.2 hs)).2 hnew).2 hid).1 hin),
      fun hin => ⟨s.booted, State.boot_succeeds hon hst (((((hfound hf).2 (hsigned.2 hs)).2 hnew).2 hid).2 hin), ?_⟩⟩⟩
  obtain ⟨hready, hkbase, hctxtab, hversion, hrollback⟩ := s.booted_dev
  refine ⟨hready, hkbase, hctxtab, hversion, hrollback, by rw [s.booted_waves]; rfl, ?waves, ?code, ?table,
    s.booted_state, ?bias⟩
  case waves =>
    rw [s.booted_waves]
    intro w hw
    simp only [List.mem_cons, List.not_mem_nil, or_false] at hw
    rcases hw with rfl | rfl
    · exact (serviceWave_spec ..).2
    · exact (serviceWave_spec ..).2
  case code =>
    intro k b hk ha
    refine (s.get_booted ha).trans ((Image.get_memory ..).trans ((if_pos ⟨Nat.le_add_right .., ?_⟩).trans ?_))
    · rw [List.getD_eq_getElem?_getD]
      exact (congrArg (fun j => (((imageBody s.dev.flash).drop (imageOf s.dev.flash).fwOff)[j]?).getD 0#8) (Nat.add_sub_cancel_left ..)).trans (congrArg (Option.getD · 0#8) hk)
    · exact Nat.add_lt_add_left (List.getElem?_eq_some_iff.1 hk).1 _
  case table =>
    intro k hlo hhi hout
    refine (s.get_booted (.inr (Nat.add_le_add_left hlo _))).trans ((Image.get_memory ..).trans ((if_neg ?_).trans (if_pos ?_)))
    · exact fun ⟨h, h'⟩ => hout.elim (not_lt.2 h) (not_le.2 h')
    · exact ⟨Nat.le_add_right .., Nat.add_lt_add_left hhi _⟩
  case bias =>
    intro k hk hout
    have hapart := Image.tables_apart hin
    have hbytes : biasBytes = 201326592 := rfl
    refine (s.get_booted (a := (imageOf s.dev.flash).biastab + k) (by omega)).trans
      ((Image.get_memory ..).trans ((if_neg ?_).trans ((if_neg (by omega)).trans ?_)))
    · exact fun ⟨h, h'⟩ => hout.elim (not_lt.2 h) (not_le.2 h')
    · rw [Nat.add_sub_cancel_left, hbytes]
      have hiff : ((imageOf s.dev.flash).biastab ≤ (imageOf s.dev.flash).biastab + k ∧
          (imageOf s.dev.flash).biastab + k < (imageOf s.dev.flash).biastab + 201326592 ∧ k % 2 = 0) ↔ k % 2 = 0 := by omega
      exact if_congr hiff rfl rfl

end Sys2Proof.Machine
end


section
/-! SUPPORT. Writing a name and a scalar of a wave (R138, R142, R146). -/

namespace Sys2Proof.Machine

theorem Wave.window?_modWindow (w : Wave) (o id : Nat) {f : Window → Window} (hf : ∀ x, (f x).id = x.id) :
    (w.modWindow o f).window? id = if id = o then (w.window? id).map f else w.window? id := by
  have hkeep : ((·.id == id) ∘ fun x => if x.id == o then f x else x) = fun x : Window => x.id == id := by
    funext x
    simp only [Function.comp_apply]
    split
    · rw [hf]
    · rfl
  rw [window?, modWindow, List.find?_map, hkeep, window?]
  cases hw : w.windows.find? (·.id == id) with
  | none => simp
  | some x =>
    obtain rfl : x.id = id := by simpa using List.find?_some hw
    by_cases ho : x.id = o <;> simp [ho]

/-- Which window holds a name is a matter of the windows' kinds and callers alone. -/
theorem Wave.ownerOf_congr {v w : Wave} (h : ∀ id, (v.window? id).map (fun x => (x.kind, x.caller)) =
    (w.window? id).map fun x => (x.kind, x.caller)) (name fuel win : Nat) : v.ownerOf name fuel win = w.ownerOf name fuel win := by
  induction fuel generalizing win with
  | zero => rfl
  | succ fuel ih =>
    have hwin := h win
    rw [ownerOf, ownerOf]
    cases hv : v.window? win with
    | none =>
      rw [hv] at hwin
      rw [Option.map_eq_none_iff.1 hwin.symm]
    | some x =>
      rw [hv] at hwin
      obtain ⟨y, hy, he⟩ := Option.map_eq_some_iff.1 hwin.symm
      rw [hy]
      simp only [Prod.mk.injEq] at he
      simp only [he.1, he.2, ih]

/-- The map of a window changes: names of other windows, and other names, are mapped as they were. -/
theorem Wave.ownerOf_modWindow (w : Wave) (o : Nat) {f : Window → Window}
    (hf : ∀ x, (f x).id = x.id ∧ (f x).kind = x.kind ∧ (f x).caller = x.caller) (name fuel win : Nat) :
    (w.modWindow o f).ownerOf name fuel win = w.ownerOf name fuel win := by
  refine ownerOf_congr (fun id => ?_) name fuel win
  rw [w.window?_modWindow o id fun x => (hf x).1]
  split
  · cases w.window? id with
    | none => rfl
    | some x => exact congrArg some (Prod.ext (hf x).2.1 (hf x).2.2)
  · rfl

/-- Freeing a register leaves the windows and every register's lanes. -/
theorem Wave.freePhys_eq (w : Wave) (p : Option Nat) (clk : Nat) :
    ∃ g : PhysReg → PhysReg, (∀ r, (g r).id = r.id ∧ (g r).lanes = r.lanes) ∧ w.freePhys p clk = { w with regs := w.regs.map g } := by
  cases p with
  | none => exact ⟨fun r => r, fun r => ⟨rfl, rfl⟩, by rw [List.map_id']; rfl⟩
  | some k =>
    refine ⟨fun r => if r.id == k then { r with freed := some clk, deferred := true } else r, fun r => ?_, rfl⟩
    dsimp only
    split
    · exact ⟨rfl, rfl⟩
    · exact ⟨rfl, rfl⟩

/-- A window that maps a name to a register. -/
def Window.named (name r : Nat) (x : Window) : Window := { x with map := insertKey name r x.map }

/-- A wave with other registers. -/
def Wave.withRegs (w : Wave) (regs : List PhysReg) (nextReg : Nat) : Wave := { w with regs, nextReg }

theorem Wave.ownerOf_withRegs (w : Wave) (regs : List PhysReg) (k name fuel win : Nat) :
    (w.withRegs regs k).ownerOf name fuel win = w.ownerOf name fuel win :=
  ownerOf_congr (v := w.withRegs regs k) (w := w) (fun _ => rfl) name fuel win

/-- The lanes of the register of a number in a list. -/
def lanesIn (regs : List PhysReg) (r : Nat) : Option (List Val) := (regs.find? (·.id == r)).map (·.lanes)

theorem Wave.laneVal_eq (w : Wave) (r l : Nat) : w.laneVal (some r) l = ((lanesIn w.regs r).getD []).getD l .zero := by
  rw [laneVal, lanesIn, reg?]
  cases w.regs.find? (·.id == r) with
  | none => rfl
  | some x => rfl

theorem lanesIn_map {g : PhysReg → PhysReg} (hg : ∀ r, (g r).id = r.id ∧ (g r).lanes = r.lanes) (regs : List PhysReg) (r : Nat) :
    lanesIn (regs.map g) r = lanesIn regs r := by
  have hid : ((·.id == r) ∘ g) = fun x : PhysReg => x.id == r := by
    funext x
    rw [Function.comp_apply, (hg x).1]
  have hlanes : (PhysReg.lanes ∘ g) = PhysReg.lanes := funext fun x => (hg x).2
  rw [lanesIn, List.find?_map, hid, Option.map_map, lanesIn]
  exact congrArg (Option.map · _) hlanes

theorem lanesIn_append (regs : List PhysReg) (x : PhysReg) (r : Nat) :
    lanesIn (regs ++ [x]) r = (lanesIn regs r).or (if x.id = r then some x.lanes else none) := by
  rw [lanesIn, List.find?_append, Option.map_or, List.find?_singleton, lanesIn]
  congr 1
  by_cases h : x.id = r <;> simp [h]

section writeName
variable (w : Wave) (sp : Split) (name clk : Nat) (old : Option Nat) (writer : Nat) (f : Nat → Option Val)

/-- A name that is written: a new register takes the lanes given over those of the version before, and is mapped. -/
theorem Wave.writeName_eq : ∃ regs,
    (w.writeName sp name clk old writer f).2 =
      (w.withRegs regs (w.nextReg + 1)).modWindow (w.ownerOf name 64 sp.win) (Window.named name w.nextReg) ∧
    ∀ r, lanesIn regs r = (lanesIn w.regs r).or
      (if w.nextReg = r then some ((List.range w.width).map fun i => (f i).getD (w.laneVal old i)) else none) := by
  obtain ⟨g, hg, hfree⟩ := w.freePhys_eq (w.phys? sp.win name) clk
  have hlanes : ((List.range w.width).map fun i => match f i with
      | some v => v
      | none => w.laneVal old i) = (List.range w.width).map fun i => (f i).getD (w.laneVal old i) := by
    refine List.map_congr_left fun i _ => ?_
    cases f i <;> rfl
  refine ⟨w.regs.map g ++
    [⟨w.nextReg, (List.range w.width).map fun i => (f i).getD (w.laneVal old i), writer, none, false, false, false⟩], ?_, fun r => ?_⟩
  · rw [writeName, hfree]
    dsimp only
    rw [← hlanes]
    rfl
  · rw [lanesIn_append, lanesIn_map hg]

/-- What a wave's names are mapped to once a name is written. -/
theorem Wave.phys?_writeName (win m : Nat) : (w.writeName sp name clk old writer f).2.phys? win m =
    if w.ownerOf m 64 win = w.ownerOf name 64 sp.win ∧ m = name ∧ (w.window? (w.ownerOf m 64 win)).isSome then some w.nextReg
    else w.phys? win m := by
  obtain ⟨regs, he, _⟩ := w.writeName_eq sp name clk old writer f
  have hnamed : ∀ x, (Window.named name w.nextReg x).id = x.id ∧ (Window.named name w.nextReg x).kind = x.kind ∧
      (Window.named name w.nextReg x).caller = x.caller := fun x => ⟨rfl, rfl, rfl⟩
  rw [he, phys?, ownerOf_modWindow _ _ hnamed, window?_modWindow _ _ _ fun x => (hnamed x).1, ownerOf_withRegs]
  change (match if _ then Option.map _ (w.window? _) else w.window? _ with
    | some x => lookupKey m x.map
    | none => none) = _
  rw [phys?]
  cases hw : w.window? (w.ownerOf m 64 win) with
  | none => simp
  | some x =>
    by_cases ho : w.ownerOf m 64 win = w.ownerOf name 64 sp.win
    · by_cases hm : m = name
      · subst hm
        simp [ho, Window.named, lookupKey_insertKey]
      · simp [ho, hm, Window.named, lookupKey_insertKey]
    · simp [ho]

/-- A register there was keeps its lanes. -/
theorem Wave.laneVal_writeName_old {r : Nat} (hr : r < w.nextReg) (l : Nat) :
    (w.writeName sp name clk old writer f).2.laneVal (some r) l = w.laneVal (some r) l := by
  obtain ⟨regs, he, hlanes⟩ := w.writeName_eq sp name clk old writer f
  have hregs : (w.writeName sp name clk old writer f).2.regs = regs := by rw [he]; rfl
  rw [laneVal_eq, laneVal_eq, hregs, hlanes, if_neg (by omega), Option.or_none]

/-- The new register's lanes. -/
theorem Wave.laneVal_writeName_new (hids : ∀ r ∈ w.regs, r.id < w.nextReg) {l : Nat} (hl : l < w.width) :
    (w.writeName sp name clk old writer f).2.laneVal (some w.nextReg) l = (f l).getD (w.laneVal old l) := by
  obtain ⟨regs, he, hlanes⟩ := w.writeName_eq sp name clk old writer f
  have hregs : (w.writeName sp name clk old writer f).2.regs = regs := by rw [he]; rfl
  have hnone : lanesIn w.regs w.nextReg = none := by
    rw [lanesIn, Option.map_eq_none_iff, List.find?_eq_none]
    intro r hr h
    exact absurd (hids r hr) (by simp_all)
  rw [laneVal_eq, hregs, hlanes, hnone, if_pos rfl]
  simp [List.getD_eq_getElem?_getD, hl]

end writeName

end Sys2Proof.Machine
end

section
/-! CLAIM. What a destination write and the completion of a register instruction leave alone (R10, R138, R146, R148). -/

namespace Sys2Proof.Machine

/-! The wave keeps its number through the bookkeeping of an issue. -/

theorem Wave.freeName_id (w : Wave) (win name clk : Nat) : (w.freeName win name clk).id = w.id := by
  obtain ⟨g, _, h⟩ := w.freePhys_eq (w.phys? win name) clk
  rw [freeName, h]
  rfl

theorem Wave.freeMarks_id (win clk : Nat) (l : List (Nat × Nat)) (w : Wave) : (w.freeMarks win clk l).id = w.id := by
  induction l generalizing w with
  | nil => rfl
  | cons p l ih =>
    refine (ih _).trans ?_
    dsimp only
    split
    · exact w.freeName_id ..
    · rfl

theorem Wave.freeWindow_id (w : Wave) (x : Window) (clk : Nat) : (w.freeWindow x clk).id = w.id := by
  have hfold (l : List (Nat × Nat)) (w : Wave) : (l.foldl (fun w p => w.freePhys (some p.2) clk) w).id = w.id := by
    induction l generalizing w with
    | nil => rfl
    | cons p l ih => exact ih _
  exact hfold x.map w

theorem Wave.trimWindows_id (clk fuel : Nat) (w : Wave) : (w.trimWindows clk fuel).id = w.id := by
  induction fuel generalizing w with
  | zero => rfl
  | succ fuel ih =>
    rw [trimWindows]
    split
    · rfl
    · split
      · exact (ih _).trans (w.freeWindow_id ..)
      · rfl

theorem Wave.adjustOnce_id {w v : Wave} {clk : Nat} (h : w.adjustOnce clk = some v) : v.id = w.id := by
  unfold adjustOnce at h
  split at h
  · cases h; rfl
  · split at h
    · cases h
    · split at h
      · cases h; rfl
      · split at h
        · cases h; rfl
        · cases h

theorem Wave.adjust_id (clk fuel : Nat) (w : Wave) : (w.adjust clk fuel).id = w.id := by
  induction fuel generalizing w with
  | zero => rfl
  | succ fuel ih =>
    rw [adjust]
    cases h : w.adjustOnce clk with
    | none => rfl
    | some v => exact (ih v).trans (adjustOnce_id h)

theorem Wave.settle_id (w : Wave) (clk : Nat) : (w.settle clk).id = w.id :=
  (trimWindows_id ..).trans (adjust_id ..)

/-- The wave once its instruction has completed. -/
def Iss.counted (x : Iss) (advance : Bool) (w : Wave) : Wave :=
  let w := (x.count w).freeMarks x.sp.win x.clk x.marks
  let w := if advance then w.modSplit x.sp.slot fun p => { p with pc := x.nextPc } else w
  let w := w.settle x.clk
  if endsRegion x.enc && (x.act != 0#64 || x.ignoresGuard) then w.newRegion x.clk else w

theorem Iss.counted_id (x : Iss) (advance : Bool) (w : Wave) : (x.counted advance w).id = w.id := by
  have hsettle : (Wave.settle (if advance then ((x.count w).freeMarks x.sp.win x.clk x.marks).modSplit x.sp.slot
      fun p => { p with pc := x.nextPc } else (x.count w).freeMarks x.sp.win x.clk x.marks) x.clk).id = w.id := by
    rw [Wave.settle_id]
    split
    · exact Wave.freeMarks_id ..
    · exact Wave.freeMarks_id ..
  unfold counted
  dsimp only
  split
  · exact hsettle
  · exact hsettle

/-- The state an instruction completes in. -/
theorem Iss.complete_eq (x : Iss) (s : State) (advance : Bool) : x.complete s advance =
    { ((s.modWave x.w.id (x.counted advance)).resetWait x.w.ctx).modQuad x.w.quadNo fun q => { q with
        busyUntil := x.clk + (if x.width = 64 then 2 else 1) * issueClocks x.enc } with cur := none } := rfl

/-! WAITCLK starts again (R83, R93). -/

theorem getD_updAt_ne {α : Type} {i j : Nat} (f : α → α) (l : List α) (d : α) (h : j ≠ i) : (updAt i f l).getD j d = l.getD j d := by
  induction l generalizing i j with
  | nil => cases i <;> rfl
  | cons a l ih =>
    cases i with
    | zero => cases j with
      | zero => exact absurd rfl h
      | succ j => rfl
    | succ i => cases j with
      | zero => rfl
      | succ j => exact ih (i := i) (j := j) (by omega)

@[simp] theorem Memory.setBytes_poison (bs : List Byte) (m : Memory) (a : Nat) : (m.setBytes a bs).poison = m.poison := by
  induction bs generalizing m a with
  | nil => rfl
  | cons b bs ih => exact (ih _ _).trans (m.set_poison a b)

/-- No error is listed: a write merges nothing. -/
theorem State.mergeErrors_clean {s : State} (h : s.dev.hbmErrors = []) (l : Loc) (n : Nat) : s.mergeErrors l n = s := by
  rw [mergeErrors, h]
  exact if_pos (by simp)

/-- A context as the device keeps it, with the fields of context 0 that it reads in the table (R89). -/
def readContext (m : Memory) (tab c : Nat) (x : Context) : Context :=
  if c = 0 then
    { x with ptroot := m.nat (tab + 0x10) 8, msix := m.nat (tab + 0x44) 4, evbase := m.nat (tab + 0x50) 8
             evcount := m.nat (tab + 0x58) 4 }
  else x

theorem State.ctx_eq (s : State) (c : Nat) : s.ctx c = readContext s.mem s.dev.ctxtab c (s.ctxs.getD c .free) := rfl

theorem readContext_waitclk (m : Memory) (tab c : Nat) (x : Context) (n : Nat) :
    readContext m tab c { x with waitclk := n } = { readContext m tab c x with waitclk := n } := by
  unfold readContext
  split <;> rfl

/-- The fields read lie in the first 0x60 bytes of the table. -/
theorem readContext_congr {m m' : Memory} {tab : Nat} (h : ∀ a, tab ≤ a → a < tab + 0x60 → m'.get a = m.get a) (c : Nat) (x : Context) :
    readContext m' tab c x = readContext m tab c x := by
  have field (off k : Nat) (hk : off + k ≤ 0x60) : m'.nat (tab + off) k = m.nat (tab + off) k := by
    rw [Memory.nat, Memory.nat]
    congr 1
    refine List.map_congr_left fun i hi => h _ (by omega) ?_
    have := List.mem_range.1 hi
    omega
  simp only [readContext, field 0x10 8 (by omega), field 0x44 4 (by omega), field 0x50 8 (by omega), field 0x58 4 (by omega)]

/-- A context whose clock alone changes. -/
theorem getD_updAt_waitclk (c : Nat) (n : Nat) (l : List Context) :
    ∃ k, (updAt c (fun x => { x with waitclk := n }) l).getD c .free = { l.getD c .free with waitclk := k } := by
  by_cases h : c < l.length
  · exact ⟨n, by rw [getD_updAt _ _ _ _ _ h, if_pos rfl]⟩
  · refine ⟨(l.getD c .free).waitclk, ?_⟩
    have hlen : (updAt c (fun x : Context => { x with waitclk := n }) l).length = l.length := by
      clear h
      induction l generalizing c with
      | nil => cases c <;> rfl
      | cons a l ih => cases c with
        | zero => rfl
        | succ c => exact congrArg (· + 1) (ih c)
    rw [List.getD_eq_default _ _ (by omega), List.getD_eq_default _ _ (by omega)]

section resetWait
variable (s : State) (c : Nat)

/-- WAITCLK of a context is 0 already, or it is written; the contexts differ in that clock alone. -/
theorem State.resetWait_cases :
    (s.resetWait c = s) ∨
    (∃ t ctxs, (∃ n, ctxs = updAt c (fun k => { k with waitclk := n }) s.ctxs) ∧ State.ErrorsMet { s with ctxs } t ∧
      (s.dev.hbmErrors = [] → t = { s with ctxs }) ∧
      s.resetWait c = { t with mem := t.mem.setNat (s.entryAddr c + 0x60) 8 0 }) ∨
    ((s.ctx c).waitclk ≠ 0 ∧ (s.hostHolds ⟨.dev, s.entryAddr c + 0x60⟩ = true ∨ s.homes.posted ≠ []) ∧
      ∃ msgs nextMsg ctxs, (∃ n, ctxs = updAt c (fun k => { k with waitclk := n }) s.ctxs) ∧ (∀ m ∈ s.msgs, m ∈ msgs) ∧
      s.resetWait c = { s with
        msgs, nextMsg, ctxs, homes := { s.homes with posted := s.homes.posted ++ [(s.entryAddr c + 0x60, 8, 0)] } }) := by
  by_cases h0 : (s.ctx c).waitclk = 0
  · exact .inl (if_pos h0)
  have hreset : s.resetWait c = (s.modCtx c fun k => { k with waitclk := 0 }).setPnat (s.entryAddr c + 0x60) 8 0 := if_neg h0
  rw [hreset, setPnat]
  split
  case isTrue h =>
    obtain ⟨msgs, nextMsg, he, hmem⟩ := (s.modCtx c fun k => { k with waitclk := 0 }).recallHalf_eq ⟨.dev, s.entryAddr c + 0x60⟩
    refine .inr (.inr ⟨h0, ?_, msgs, nextMsg, _, ⟨0, rfl⟩, hmem, by rw [he]; rfl⟩)
    refine (Bool.or_eq_true _ _ ▸ h).imp id fun h hnil => ?_
    rw [List.any_eq_true] at h
    obtain ⟨p, hp, _⟩ := h
    change p ∈ s.homes.posted at hp
    rw [hnil] at hp
    cases hp
  case isFalse =>
    exact .inr (.inl ⟨_, _, ⟨0, rfl⟩, State.errorsMet_mergeErrors _ _ _, fun h =>
      State.mergeErrors_clean (s := s.modCtx c fun k => { k with waitclk := 0 }) h _ _, rfl⟩)

/-- What starting WAITCLK again leaves alone. -/
theorem State.resetWait_frame : let t := s.resetWait c
    s.keepsMemory t c ∧ (∀ m ∈ s.msgs, m ∈ t.msgs) ∧ t.homes = { s.homes with posted := t.homes.posted } ∧
      ((s.ctx c).waitclk = 0 ∨ s.hostHolds ⟨.dev, s.entryAddr c + 0x60⟩ = false ∧ s.homes.posted = [] →
        t.msgs = s.msgs ∧ t.homes = s.homes) ∧
      (s.dev.hbmErrors = [] → t.dev = s.dev) ∧ t.link = s.link ∧ t.engines = s.engines ∧ t.sched = s.sched ∧ t.cores = s.cores ∧
      t.agenda = s.agenda ∧ t.free = s.free ∧ t.waves = s.waves ∧ t.quads = s.quads ∧
      (∀ k, k ≠ c → t.ctx k = s.ctx k) ∧ ∃ n, t.ctx c = { s.ctx c with waitclk := n } := by
  have same (x : Context) : x = { x with waitclk := x.waitclk } := rfl
  rcases s.resetWait_cases c with h | ⟨t, ctxs, ⟨n, rfl⟩, ht, hclean, h⟩ | ⟨h0, hwaits, msgs, nextMsg, ctxs, ⟨n, rfl⟩, hmsgs, h⟩
  · rw [h]
    exact ⟨⟨fun _ _ => rfl, fun _ => rfl, rfl, rfl⟩, fun m hm => hm, rfl, fun _ => ⟨rfl, rfl⟩, fun _ => rfl, rfl, rfl, rfl, rfl,
      rfl, rfl, rfl, rfl, fun _ _ => rfl, _, same _⟩
  · have hpoison (hnone : s.dev.hbmErrors = []) : (t.mem.setNat (s.entryAddr c + 0x60) 8 0).poison = s.mem.poison := by
      rw [Memory.setNat, Memory.setBytes_poison, hclean hnone]
    have hdev (hnone : s.dev.hbmErrors = []) : t.dev = s.dev := by rw [hclean hnone]
    have hget (a : Nat) (ha : a < s.entryAddr c + 0x60 ∨ s.entryAddr c + 0x60 + 8 ≤ a) :
        (t.mem.setNat (s.entryAddr c + 0x60) 8 0).get a = s.mem.get a := by
      rw [Memory.get_setNat_outside _ _ ha, ht.get]
    have htable : ∀ a, s.dev.ctxtab ≤ a → a < s.dev.ctxtab + 0x60 →
        (t.mem.setNat (s.entryAddr c + 0x60) 8 0).get a = s.mem.get a := fun a hlo hhi =>
      hget a (.inl (Nat.lt_of_lt_of_le hhi (Nat.add_le_add_right (Nat.le_add_right ..) _)))
    obtain ⟨k, hk⟩ := getD_updAt_waitclk c n s.ctxs
    generalize t.mem.setNat (s.entryAddr c + 0x60) 8 0 = m at h hpoison hget htable
    obtain ⟨_, _, _, _, rfl⟩ := ht
    rw [h]
    refine ⟨⟨hget, hpoison, rfl, rfl⟩,
      fun m hm => hm, rfl, fun _ => ⟨rfl, rfl⟩, hdev, rfl, rfl, rfl, rfl, rfl, rfl, rfl, rfl, fun j hj => ?_, k, ?_⟩
    · rw [State.ctx_eq, State.ctx_eq]
      exact (readContext_congr htable _ _).trans (congrArg _ (getD_updAt_ne _ _ _ hj))
    · rw [State.ctx_eq, State.ctx_eq, ← readContext_waitclk, ← hk]
      exact readContext_congr htable _ _
  · obtain ⟨k, hk⟩ := getD_updAt_waitclk c n s.ctxs
    rw [h]
    refine ⟨⟨fun _ _ => rfl, fun _ => rfl, rfl, rfl⟩, hmsgs, rfl, fun hor => ?_, fun _ => rfl, rfl, rfl, rfl, rfl, rfl, rfl, rfl,
      rfl, fun j hj => ?_, k, ?_⟩
    · rcases hor with hz | ⟨hholds, hposted⟩
      · exact absurd hz h0
      · rcases hwaits with hw | hw
        · rw [hholds] at hw
          cases hw
        · exact absurd hposted hw
    · rw [State.ctx_eq, State.ctx_eq]
      exact congrArg _ (getD_updAt_ne _ _ _ hj)
    · rw [State.ctx_eq, State.ctx_eq, ← readContext_waitclk, ← hk]

end resetWait

theorem getElem?_updAt_ne {α : Type} {i j : Nat} (f : α → α) (l : List α) (h : j ≠ i) : (updAt i f l)[j]? = l[j]? := by
  induction l generalizing i j with
  | nil => cases i <;> rfl
  | cons a l ih =>
    cases i with
    | zero => cases j with
      | zero => exact absurd rfl h
      | succ j => rfl
    | succ i => cases j with
      | zero => rfl
      | succ j => exact ih (i := i) (j := j) (by omega)

theorem getElem?_updAt_same {α : Type} {i : Nat} (f : α → α) (l : List α) (h : i < l.length) : (updAt i f l)[i]? = some (f l[i]) := by
  induction l generalizing i with
  | nil => simp at h
  | cons a l ih => cases i with
    | zero => rfl
    | succ i => exact ih (by simpa using h)

/-- A wave changed keeps its number: the others are as they were. -/
theorem find?_map_ne {f : Wave → Wave} {n id : Nat} (hne : id ≠ n) (hf : ∀ w, w.id = n → (f w).id = n) (l : List Wave) :
    (l.map fun w => if w.id == n then f w else w).find? (·.id == id) = l.find? (·.id == id) := by
  induction l with
  | nil => rfl
  | cons w l ih =>
    rw [List.map_cons, List.find?_cons, List.find?_cons, ih]
    by_cases hw : w.id = n
    · have hfalse : (n == id) = false := by simpa using Ne.symm hne
      simp [hw, hf w hw, hfalse]
    · simp [hw]

theorem State.wave?_modWave_ne (s : State) {f : Wave → Wave} {n id : Nat} (hne : id ≠ n) (hf : ∀ w, w.id = n → (f w).id = n) :
    (s.modWave n f).wave? id = s.wave? id := find?_map_ne hne hf s.waves

theorem State.wave?_putWave_ne (s : State) {v : Wave} {id : Nat} (hne : id ≠ v.id) : (s.putWave v).wave? id = s.wave? id :=
  find?_map_ne (f := fun _ => v) hne (fun _ _ => rfl) s.waves

/-! A destination write by what the destination is. -/

section put
variable (x : Iss) (w : Wave) (d : Fld) (lanes : Lanes) (v : Nat → Val)

theorem Iss.put_register (h : d.toNat < 96) : x.put w d 0 lanes v =
    (w.writeName x.sp d.toNat x.clk (x.w.source x.sp d.toNat) 0 fun i => if hasLane lanes i then some (v i) else none).2 := by
  rw [put]
  exact if_pos h

theorem Iss.put_elsewhere (h : 96 ≤ d.toNat) (hl : hasLane lanes x.first = false) : x.put w d 0 lanes v = w := by
  rw [put]
  exact (if_neg (not_lt.2 h)).trans (if_pos (by rw [hl]; rfl))

theorem Iss.put_scalar (h : 96 ≤ d.toNat) (h' : d.toNat < 112) (hl : hasLane lanes x.first = true) : x.put w d 0 lanes v =
    { w.pastScalar (d.toNat - 96) with
      sregs := updAt (d.toNat - 96) (fun _ => v x.first) w.sregs, spend := eraseKey (d.toNat - 96) w.spend } := by
  rw [put]
  exact (if_neg (not_lt.2 h)).trans ((if_neg (by rw [hl]; exact Bool.false_ne_true)).trans (if_pos h'))

theorem Iss.put_blockScalar (h : 112 ≤ d.toNat) (hl : hasLane lanes x.first = true) : x.put w d 0 lanes v =
    ({ w.pastScalar (d.toNat - 104) with spend := eraseKey (d.toNat - 104) w.spend } : Wave).hold x.no x.clk 0
      (.bscalar (d.toNat - 120) (v x.first)) := by
  rw [put]
  exact (if_neg (by omega)).trans ((if_neg (by rw [hl]; exact Bool.false_ne_true)).trans (if_neg (by omega)))

end put

/-- Settles O58: `Wave.writeName_eq` says what writing a name changes, `Iss.complete_eq` what completing an instruction does
to the state, of which `State.resetWait_frame` is all that is not the wave's own or its quadrant's. -/
theorem destinationWriteFrame : Obligations.DestinationWriteFrame := by
  unfold Obligations.DestinationWriteFrame
  refine ⟨fun x w d lanes v => ?_, fun i s x v h hid hexec => ⟨x.leaves v, hexec, ?_⟩⟩
  · rcases Nat.lt_or_ge d.toNat 96 with hd | hd
    · obtain ⟨regs, he, -⟩ := w.writeName_eq x.sp d.toNat x.clk (x.w.source x.sp d.toNat) 0 fun i =>
        if hasLane lanes i then some (v i) else none
      refine ⟨?_, ?_, ?_, ?_, ?_, ?_, ?_, ?_, fun _ hids hwin => ⟨fun l hl => ?_, fun win m hm => ?_, fun r l hr => ?_, ?_, ?_⟩,
        fun h => absurd hd (not_lt.2 h), fun h => absurd hd (by omega)⟩
      case refine_9 =>
        rw [x.put_register w d lanes v hd, Wave.phys?_writeName, if_pos ⟨rfl, rfl, hwin⟩, Wave.laneVal_writeName_new (hids := hids) (hl := hl)]
        split <;> rfl
      case refine_10 =>
        rw [x.put_register w d lanes v hd, Wave.phys?_writeName, if_neg fun ⟨ho, hn, _⟩ => hm.elim (· ho) (· hn)]
      case refine_11 =>
        rw [x.put_register w d lanes v hd, Wave.laneVal_writeName_old (hr := hr)]
      all_goals
        rw [x.put_register w d lanes v hd, he]
        rfl
    · cases hl : hasLane lanes x.first with
      | false =>
        rw [x.put_elsewhere w d lanes v hd hl]
        exact ⟨rfl, rfl, rfl, rfl, rfl, rfl, rfl, rfl, fun h => absurd hd (not_le.2 h),
          fun _ _ => ⟨rfl, rfl, rfl, fun _ => rfl, fun _ _ => rfl, fun h => absurd h Bool.false_ne_true⟩,
          fun _ => ⟨rfl, rfl, rfl, fun _ => rfl, fun h => absurd h Bool.false_ne_true⟩⟩
      | true =>
        rcases Nat.lt_or_ge d.toNat 112 with hd' | hd'
        · rw [x.put_scalar w d lanes v hd hd' hl]
          exact ⟨rfl, rfl, rfl, rfl, rfl, rfl, rfl, rfl, fun h => absurd hd (not_le.2 h),
            fun _ _ => ⟨rfl, rfl, rfl, fun h => absurd h.symm Bool.false_ne_true, fun k hk => getElem?_updAt_ne _ _ hk,
              fun _ hlen => getElem?_updAt_same _ _ hlen⟩, fun h => absurd hd' (by omega)⟩
        · rw [x.put_blockScalar w d lanes v hd' hl]
          exact ⟨rfl, rfl, rfl, rfl, rfl, rfl, rfl, rfl, fun h => absurd hd (not_le.2 h), fun _ h => absurd hd' (not_le.2 h),
            fun _ => ⟨rfl, rfl, rfl, fun h => absurd h.symm Bool.false_ne_true, fun _ => rfl⟩⟩
  · obtain rfl : x.s = s := h.s_eq
    let u := (x.s.putWave v).modWave x.w.id (x.counted true)
    have hu (id : Nat) (hne : id ≠ x.w.id) : u.wave? id = x.s.wave? id := by
      refine (State.wave?_modWave_ne _ hne fun w hw => ?_).trans (State.wave?_putWave_ne _ (by rw [hid]; exact hne))
      rw [x.counted_id, hw]
    obtain ⟨hmem, hmsgs, hhomes, hquiet, hdev, hlink, hengines, hsched, hcores, hagenda, hfree, hwaves, hquads, hctx, hown⟩ :=
      u.resetWait_frame x.w.ctx
    refine ⟨hmem, hmsgs, hhomes, hquiet, hdev, hlink, hengines, hsched, hcores, hagenda, hfree, rfl, fun id hne => ?_, hctx, hown,
      fun q hq => ?_⟩
    · refine Eq.trans ?_ (hu id hne)
      exact congrArg (List.find? (·.id == id)) hwaves
    · exact (getD_updAt_ne _ _ _ hq).trans (congrArg (·.getD q .fresh) hquads)

end Sys2Proof.Machine
end


section
/-! CLAIM. The age limit of a frame, and the gating of a core (R236, R252, R253). -/

namespace Sys2Proof.Machine

/-- A core that nothing keeps, idle for long enough. -/
theorem exec_corePowerGate_idle {s : State} {core : Nat}
    (hwaves : s.waves.any (fun w => w.core == core && ((w.onCore && w.st != .ended) || !w.held.isEmpty)) = false)
    (hpending : (s.core core).pending = []) (hidle : (s.core core).idleAt + 8192 ≤ s.clk) (hgated : (s.core core).gated = false) :
    let t := ((s.writebackWhere core (fun _ => true) (0, 0)).dropFrames core fun _ => true).noFill core fun _ => true
    let ordered := t.msgs.any fun m => match m.kind with
      | .drain c _ _ _ _ => c == core
      | _ => false
    exec (.corePowerGate core) s = .next (if t.writebackPending core (fun _ _ => true) || ordered then t
      else t.modCore core fun c => { c with gated := true }) := by
  intro t ordered
  have hgo : ¬(s.waves.any (fun w => w.core == core && ((w.onCore && w.st != .ended) || !w.held.isEmpty)) ||
      !(s.core core).pending.isEmpty || decide (s.clk < (s.core core).idleAt + 8192) || (s.core core).gated) = true := by
    rw [hwaves, hpending, hgated]
    simpa using hidle
  rw [Bool.or_comm]
  exact congrArg Host.Outcome.next (if_neg hgo)

/-- Settles O30: both are the model's arms, and gating waits for what the core still has on its way. -/
theorem frameLimitAndGating : Obligations.FrameLimitAndGating := by
  unfold Obligations.FrameLimitAndGating
  intro s core frame
  refine ⟨rfl, fun hwaves hpending hidle hgated => ⟨fun hbusy => ?_, fun hbusy => ?_⟩⟩
  · exact (exec_corePowerGate_idle hwaves hpending hidle hgated).trans
      (congrArg Host.Outcome.next (if_neg (ne_true_of_eq_false hbusy)))
  · exact (exec_corePowerGate_idle hwaves hpending hidle hgated).trans (congrArg Host.Outcome.next (if_pos hbusy))

end Sys2Proof.Machine
end


section
/-! CLAIM. Requests of the host for lines, and the copies it takes back (R246, R248, R249, R254, R367, R442). -/

namespace Sys2Proof.Machine

/-- A request of the host that names device memory, once the device is Ready. -/
def State.hostFits (s : State) (host size : Nat) : Prop :=
  s.dev.on = true ∧ s.dev.st = .ready ∧ size ≠ 0 ∧ Config.hostBase ≤ host ∧ (host - Config.hostBase) % 64 + size ≤ 64 ∧
    (host - Config.hostBase) + size ≤ 0x6000000000

section hostRequest
variable {s : State} {host size : Nat}

theorem State.hostRequest_taken (h : s.hostFits host size) (kind : Nat) (data : List Byte) (poisoned : Bool) :
    (hostLocal host).elim s (fun a => s.hostRequest kind a size data poisoned) =
      (({ s with nextMsg := s.nextMsg + 1 } : State).modHomes fun h => { h with hostReqs := h.hostReqs ++ [{
        id := s.nextMsg, kind, addr := host - Config.hostBase, data, size, poisoned, waits := 0, probed := false, held := false }] }).poll := by
  obtain ⟨hon, hst, hsize, hbase, hhalf, htop⟩ := h
  rw [hostLocal, if_pos hbase, Option.elim_some, hostRequest]
  refine if_neg ?_
  simp only [hon, hst, Bool.not_true, bne_self_eq_false, Bool.false_or, Bool.or_eq_true, decide_eq_true_eq]
  omega

theorem State.hostRequest_refused (h : ¬s.hostFits host size) (kind : Nat) (data : List Byte) (poisoned : Bool) :
    (hostLocal host).elim s (fun a => s.hostRequest kind a size data poisoned) = s := by
  by_cases hbase : Config.hostBase ≤ host
  · rw [hostLocal, if_pos hbase, Option.elim_some, hostRequest]
    refine if_pos (by_contra fun hno => h ?_)
    simp only [Bool.or_eq_true, Bool.not_eq_true', bne_iff_ne, decide_eq_true_eq, not_or, Bool.not_eq_false, not_not, not_lt] at hno
    obtain ⟨⟨⟨⟨hon, hst⟩, hsize⟩, hhalf⟩, htop⟩ := hno
    exact ⟨hon, hst, hsize, hbase, hhalf, htop⟩
  · rw [hostLocal, if_neg hbase]
    rfl

end hostRequest

/-- A half-line of host memory that the host writes: its bytes are drawn word by word. -/
def State.drawWord (line : Loc) (s : State) (k : Nat) : State :=
  s.draw.2.setNatAt (line.plus (8 * k)) 8 s.draw.1.toNat

theorem State.setNatAt_host (s : State) (a n v : Nat) : (s.setNatAt ⟨.host, a⟩ n v).host = s.host.setNat a n v := rfl

theorem State.drawWord_host (addr : Nat) (s : State) (k : Nat) :
    (State.drawWord ⟨.host, addr⟩ s k).host = s.host.setNat (addr + 8 * k) 8 s.draw.1.toNat :=
  State.setNatAt_host s.draw.2 (addr + 8 * k) 8 s.draw.1.toNat

theorem State.foldl_drawWord (addr : Nat) (l : List Nat) (s : State) (hl : ∀ k ∈ l, k < 8) :
    ∃ free host, l.foldl (State.drawWord ⟨.host, addr⟩) s = { s with free, host } ∧
      ∀ a, (a < addr ∨ addr + 64 ≤ a) → host.get a = s.host.get a := by
  induction l generalizing s with
  | nil => exact ⟨_, _, rfl, fun _ _ => rfl⟩
  | cons k l ih =>
    obtain ⟨free, host, h, hget⟩ := ih (State.drawWord ⟨.host, addr⟩ s k) fun j hj => hl j (List.mem_cons_of_mem _ hj)
    refine ⟨free, host, by rw [List.foldl_cons, h]; rfl, fun a ha => (hget a ha).trans ?_⟩
    have hk := hl k List.mem_cons_self
    rw [State.drawWord_host, Memory.get_setNat_outside _ _ (by omega)]

/-- Dropping the frames of a line in some cores, and what is on its way there. -/
theorem State.foldl_giveUp (p : Frame → Bool) (q : Loc → Bool) (l : List Nat) (s : State) :
    ∃ msgs, l.foldl (fun s c => (s.dropFrames c p).noFill c q) s =
      { s with msgs, cores := (l.foldl (fun s c => s.dropFrames c p) s).cores } := by
  have hcores (l : List Nat) (s t : State) (h : s.cores = t.cores) :
      (l.foldl (fun s c => s.dropFrames c p) s).cores = (l.foldl (fun s c => s.dropFrames c p) t).cores := by
    induction l generalizing s t with
    | nil => exact h
    | cons c l ih =>
      refine ih _ _ ?_
      exact congrArg (updAt c fun c => { c with frames := c.frames.filter fun f => !p f }) h
  induction l generalizing s with
  | nil => exact ⟨_, rfl⟩
  | cons c l ih =>
    obtain ⟨msgs, h⟩ := ih ((s.dropFrames c p).noFill c q)
    refine ⟨msgs, ?_⟩
    rw [List.foldl_cons, h, List.foldl_cons, hcores l ((s.dropFrames c p).noFill c q) (s.dropFrames c p) rfl]
    rfl

/-- A half-line of host memory that the cores and the homes give up for the host to write. -/
def State.invalidated (s : State) (addr : Nat) (named : List Nat) : State :=
  ((List.range 8).foldl (State.drawWord ⟨.host, addr⟩) (named.foldl (fun s c =>
    (s.dropFrames c fun f => f.loc == ⟨.host, addr⟩).noFill c fun l => l.frameLine == ⟨.host, addr⟩) s)).modHomes
      fun h => { h with owned := h.owned.filter (· != addr) }

theorem State.invalidated_spec (addr : Nat) (named : List Nat) (s : State) :
    let t := s.invalidated addr named
    t.mem = s.mem ∧ t.homes.owned = s.homes.owned.filter (· != addr) ∧
      t.waves = s.waves ∧ t.cores = (named.foldl (fun s c => s.dropFrames c fun f => f.loc == ⟨.host, addr⟩) s).cores ∧
      ∀ a, (a < addr ∨ addr + 64 ≤ a) → t.host.get a = s.host.get a := by
  obtain ⟨msgs, hgive⟩ := State.foldl_giveUp (fun f => f.loc == ⟨.host, addr⟩) (fun l => l.frameLine == ⟨.host, addr⟩) named s
  obtain ⟨free, host, hdraw, hget⟩ := State.foldl_drawWord addr (List.range 8) (named.foldl (fun s c =>
    (s.dropFrames c fun f => f.loc == ⟨.host, addr⟩).noFill c fun l => l.frameLine == ⟨.host, addr⟩) s)
    fun k hk => List.mem_range.1 hk
  rw [hgive] at hdraw hget
  rw [invalidated, hgive, hdraw]
  exact ⟨rfl, rfl, rfl, rfl, hget⟩

/-- Settles O32: a request that fits is queued and the homes go on; a snoop whose line is written back leaves the homes,
and the cores where it invalidates, whose bytes of host memory are then drawn. -/
theorem hostRequestResults : Obligations.HostRequestResults := by
  unfold Obligations.HostRequestResults
  intro s
  refine ⟨fun addr size cacheable => ⟨fun h => ?_, fun h => ?_⟩, fun addr data poisoned => ⟨fun h => ?_, fun h => ?_⟩,
    fun addr kind hbad hgoing => ⟨fun hsent => ?_, fun hsent => ⟨fun hkind => ?_, fun hkind => ?_⟩⟩⟩
  · exact congrArg Host.Outcome.next (State.hostRequest_taken h _ _ _)
  · exact congrArg Host.Outcome.next (State.hostRequest_refused h _ _ _)
  · exact congrArg Host.Outcome.next (State.hostRequest_taken h _ _ _)
  · exact congrArg Host.Outcome.next (State.hostRequest_refused h _ _ _)
  · refine congrArg Host.Outcome.next ((if_neg ?_).trans ((if_neg ?_).trans (if_pos hsent)))
    · exact ne_true_of_eq_false hbad
    · exact ne_true_of_eq_false hgoing
  · refine congrArg Host.Outcome.next ((if_neg ?_).trans ((if_neg ?_).trans ((if_neg ?_).trans (if_neg hkind))))
    · exact ne_true_of_eq_false hbad
    · exact ne_true_of_eq_false hgoing
    · exact ne_true_of_eq_false hsent
  · obtain ⟨hmem, howned, hwaves, hcores, hget⟩ := State.invalidated_spec (addr / 64 * 64)
      (s.probeCores (Loc.dirKey ⟨.host, addr / 64 * 64⟩)) ((s.probeCores (Loc.dirKey ⟨.host, addr / 64 * 64⟩)).foldl (fun s c =>
        s.writebackWhere c (fun f => f.loc == ⟨.host, addr / 64 * 64⟩) (0, 0)) s)
    refine ⟨_, congrArg Host.Outcome.next ((if_neg ?_).trans ((if_neg ?_).trans ((if_neg ?_).trans (if_pos hkind)))),
      howned, hmem, hwaves, hcores, hget⟩
    · exact ne_true_of_eq_false hbad
    · exact ne_true_of_eq_false hgoing
    · exact ne_true_of_eq_false hsent

end Sys2Proof.Machine
end


section
/-! CLAIM. Probes of cores, the answers they collect, and snoops of the host (R236, R246 to R248, R250, R251, R254). -/

namespace Sys2Proof.Machine

section probe
variable {s : State} {m : Msg} {core line : Nat} {half : Option Nat} {req : Nat} {owner : Option Nat}

/-- The state in which a core has answered a probe. -/
def State.probeAnswered (s : State) (id core line : Nat) (half : Option Nat) (req : Nat) (d : List (Nat × Byte)) (bad : List Nat)
    (ret : Nat) : State :=
  s.modMsg id fun _ => .probeResponse core line half req d bad ret

/-- The sectors of a frame that a probe of a half leaves valid. -/
def keptSectors : Option Nat → BitVec 4
  | none => 0#4
  | some 0 => 0xC#4
  | some _ => 0x3#4

/-- A frame of which the half is given up. -/
def Frame.givenUp (half : Option Nat) (f : Frame) : Frame :=
  { f with
    valid := f.valid &&& keptSectors half, dirty := f.dirty &&& keptSectors half, poison := f.poison &&& keptSectors half
    wr := if half == some 0 then f.wr &&& (BitVec.ofNat 128 (2 ^ 128 - 2 ^ 64))
      else if half.isSome then f.wr &&& BitVec.ofNat 128 (2 ^ 64 - 1) else 0#128 }

variable (hm : s.msg? m.id = some m) (hk : m.kind = .probe core line half req owner)
include hm hk

theorem exec_holderProbe_silent {t : State} (ht : t = s.noFill core (·.frameLine == dirLine line))
    (h : ((t.core core).gated || owner.any fun c => !(t.residentOn c core)) = true) :
    exec (.holderProbe m.id) s = .next (t.probeAnswered m.id core line half req [] [] 1) := by
  subst ht
  change execHolderProbe m.id s = _
  rw [execHolderProbe, hm]
  dsimp only
  rw [hk]
  exact congrArg Host.Outcome.next (if_pos h)

variable {t : State} (ht : t = s.noFill core (·.frameLine == dirLine line))
  (hheard : ((t.core core).gated || owner.any fun c => !(t.residentOn c core)) = false)
  (hpending : t.writebackPending core (fun l _ => l == dirLine line) = false)
include ht hheard hpending

theorem exec_holderProbe_absent (hf : t.frame? core (dirLine line) = none) :
    exec (.holderProbe m.id) s = .next (t.probeAnswered m.id core line half req [] [] 1) := by
  subst ht
  change execHolderProbe m.id s = _
  rw [execHolderProbe, hm]
  dsimp only
  rw [hk]
  refine congrArg Host.Outcome.next ((if_neg (ne_true_of_eq_false hheard)).trans
    ((if_neg (ne_true_of_eq_false hpending)).trans ?_))
  rw [hf]
  rfl

/-- A core that has the line: an older dirty frame goes first, or the half is given up. -/
theorem exec_holderProbe_held {f : Frame} (hf : t.frame? core (dirLine line) = some f) :
    exec (.holderProbe m.id) s = .next (
      if f.isDirty && ((t.core core).frames.any (fun g => g.isDirty && decide (g.epoch < f.epoch)) ||
          t.writebackPending core (fun _ e => decide (e < f.epoch))) then
        t.writebackWhere core (fun g => g.isDirty && decide (g.epoch < f.epoch)) (0, 0)
      else (t.modFrame core f.id (Frame.givenUp half)).probeAnswered m.id core line half req
        ((f.writebackBytes half).map fun b => (b.1, b.2.byte))
        ([0, 1, 2, 3].filter fun k => f.poison.getLsbD k && (f.writebackBytes half).any fun b => b.1 / 32 == k) f.ret) := by
  subst ht
  change execHolderProbe m.id s = _
  rw [execHolderProbe, hm]
  dsimp only
  rw [hk]
  refine congrArg Host.Outcome.next ((if_neg (ne_true_of_eq_false hheard)).trans
    ((if_neg (ne_true_of_eq_false hpending)).trans ?_))
  rw [hf]
  rfl

end probe

/-- A half of which the host gives up its copy is recorded so. -/
theorem State.clearHalf_dir (s : State) (line : Nat) {half : Nat} (hhalf : half < 2) {d : DirEntry}
    (hd : d ∈ (s.clearHalf line half).homes.dir) (hline : d.line = line) : d.host.getLsbD half = false := by
  obtain ⟨e, -, rfl⟩ := List.mem_map.1 hd
  by_cases h : e.line == line
  · simp [h, hhalf]
  · rw [if_neg h] at hline
    exact absurd (by simpa using hline) h

/-- Settles O31: a probe by what the core holds of the line; an answer by whether it rebuilds a directory entry. -/
theorem probeAndSnoopResults : Obligations.ProbeAndSnoopResults := by
  unfold Obligations.ProbeAndSnoopResults
  refine ⟨fun s m core line half req owner hm hk => ⟨fun hsilent => ?_, fun hheard hpending => ⟨fun hf => ?_, fun f hf =>
    ⟨fun hor => ⟨Frame.givenUp half, ?_, ?_, ?_⟩, fun hdirty holder => ?_⟩⟩⟩, fun s m hm => ⟨fun core line half req dirty bad ret hk => ?_,
    fun line half req dirty hk => ?_, fun line half => ⟨rfl, fun d hd hline => ?_⟩⟩⟩
  · exact exec_holderProbe_silent hm hk rfl hsilent
  · exact exec_holderProbe_absent hm hk rfl hheard hpending hf
  · refine (exec_holderProbe_held hm hk rfl hheard hpending hf).trans (congrArg Host.Outcome.next (if_neg fun h => ?_))
    rw [Bool.and_eq_true] at h
    rcases hor with hclean | hno
    · exact absurd h.1 (ne_true_of_eq_false hclean)
    · exact absurd h.2 (ne_true_of_eq_false hno)
  · exact rfl
  · exact rfl
  · exact (exec_holderProbe_held hm hk rfl hheard hpending hf).trans
      (congrArg Host.Outcome.next (if_pos (by rw [hdirty]; exact holder)))
  · change execProbeResponse m.id s = _
    rw [execProbeResponse, hm]
    dsimp only
    rw [hk]
    exact congrArg Host.Outcome.next (apply_ite State.poll _ _ _).symm
  · change execBackInvalidationComplete m.id dirty s = _
    rw [execBackInvalidationComplete, hm]
    dsimp only
    rw [hk]
    rfl
  · exact State.clearHalf_dir s line (Nat.mod_lt _ (by omega)) hd hline

end Sys2Proof.Machine
end


section
/-! CLAIM. Rechecks of a context's pages, and flips of a granule's bias (R310, R313, R368 to R370, R385, R450). -/

namespace Sys2Proof.Machine

/-! A parked request that is tried again (R385). -/

theorem State.retryParked_reply {s t : State} {r : RemoteReq} {a : Reply} (hfree : s.heldUp r = false)
    (hserve : s.serve r = .reply a t) (ha : a ≠ .busy) : s.retryParked r =
      (((t.modLink fun l => { l with parked := l.parked.filter (·.1 != r) }).say r.key a).hasRead (.col r.key)).takeSlots := by
  rw [retryParked]
  refine (if_neg (ne_true_of_eq_false hfree)).trans ?_
  rw [hserve]
  split
  · rename_i h
    cases h
    exact absurd rfl ha
  · rename_i h
    cases h
    rfl
  all_goals
    rename_i h
    cases h

theorem State.retryParked_stays {s : State} {r : RemoteReq} (h : s.heldUp r = true ∨ ∃ t, s.serve r = .wait t ∧ t = s) :
    s.retryParked r = s := by
  rw [retryParked]
  by_cases hheld : s.heldUp r = true
  · exact if_pos hheld
  · obtain ⟨t, hserve, rfl⟩ := h.resolve_left hheld
    refine (if_neg hheld).trans ?_
    rw [hserve]

/-! The line a flip is at (R370). -/

section flipLine
variable {s : State} {f : Flip}

theorem State.flipLine_sent (h : f.sent = true) : s.flipLine f = (if f.st == .toHost then s
    else (s.clearHalf (4096 * f.granule + 128 * f.line) 0).clearHalf (4096 * f.granule + 128 * f.line) 1).putFlip
      { f with line := f.line + 1, sent := false } := by
  rw [flipLine]
  exact if_pos h

variable (hsent : f.sent = false)
  (hbad : s.homes.dir.any (fun d => d.line == 4096 * f.granule + 128 * f.line && d.bad) = false)
include hsent hbad

theorem State.flipLine_drain (hst : f.st = .toHost) (hdrain : s.mustDrain ⟨.dev, 4096 * f.granule + 128 * f.line⟩ none = true) :
    s.flipLine f = s.requestDrain ⟨.dev, 4096 * f.granule + 128 * f.line⟩ none := by
  rw [flipLine]
  refine (if_neg (ne_true_of_eq_false hsent)).trans ((if_neg (ne_true_of_eq_false hbad)).trans ?_)
  rw [hst]
  exact (if_pos rfl).trans (if_pos hdrain)

theorem State.flipLine_probe (hst : f.st = .toHost) (hdrain : s.mustDrain ⟨.dev, 4096 * f.granule + 128 * f.line⟩ none = false)
    {o : Option Nat} {t : State} (howner : s.probeOwner (4096 * f.granule + 128 * f.line) = (o, t)) :
    s.flipLine f = ((t.probeCores (4096 * f.granule + 128 * f.line)).foldl (fun s c =>
      s.send 0 0 0 0 (.probe c (4096 * f.granule + 128 * f.line) none 0 o)) t).putFlip { f with sent := true } := by
  rw [flipLine]
  refine (if_neg (ne_true_of_eq_false hsent)).trans ((if_neg (ne_true_of_eq_false hbad)).trans ?_)
  rw [hst]
  refine (if_pos rfl).trans ((if_neg (ne_true_of_eq_false hdrain)).trans ?_)
  rw [howner]

theorem State.flipLine_recall (hst : f.st = .toDevice) (h0 : s.hostHolds ⟨.dev, 4096 * f.granule + 128 * f.line⟩ = false)
    (h1 : s.hostHolds (Loc.plus ⟨.dev, 4096 * f.granule + 128 * f.line⟩ 64) = false) :
    s.flipLine f = s.putFlip { f with sent := true } := by
  rw [flipLine]
  refine (if_neg (ne_true_of_eq_false hsent)).trans ((if_neg (ne_true_of_eq_false hbad)).trans ?_)
  refine (if_neg (by rw [hst]; decide)).trans (congrArg (fun s : State => s.putFlip { f with sent := true }) ?_)
  have hfirst : (if s.hostHolds (Loc.plus ⟨.dev, 4096 * f.granule + 128 * f.line⟩ 0) then
      s.recallHalf (Loc.plus ⟨.dev, 4096 * f.granule + 128 * f.line⟩ 0) else s) = s := if_neg (ne_true_of_eq_false h0)
  rw [List.foldl_cons, List.foldl_cons, List.foldl_nil, hfirst]
  exact if_neg (ne_true_of_eq_false h1)

end flipLine

/-- A flip that is done, or whose line is on its way, stays. -/
theorem State.flipOn_stays {s : State} {f : Flip} (hf : s.flip? f.granule = some f)
    (h : f.st = .host ∨ 32 ≤ f.line ∨ s.lineBusy (4096 * f.granule + 128 * f.line) = true) (fuel : Nat) :
    s.flipOn f.granule fuel = s := by
  cases fuel with
  | zero => rfl
  | succ fuel =>
    rw [flipOn, hf]
    refine if_pos ?_
    simp only [Bool.or_eq_true, beq_iff_eq, decide_eq_true_eq, or_assoc]
    exact h

/-- The low two bits of a granule's entry are those written. -/
theorem State.setBias_low {s : State} {g bias flip : Nat} (hbias : bias < 2) (hflip : flip < 2)
    (hheld : s.hostHolds ⟨.dev, s.dev.biastab + 2 * g⟩ = false) (hposted : s.homes.posted = []) :
    ((s.setBias g bias flip).mem.get (s.dev.biastab + 2 * g)).toNat % 4 = 2 * flip + bias := by
  rw [setBias, setPnat_lands hheld (by rw [hposted]; rfl), landNat]
  generalize s.pnat (s.dev.biastab + 2 * g) 2 = e
  generalize (s.mergeErrors ⟨.dev, s.dev.biastab + 2 * g⟩ 2).mem = m
  have hnat := m.nat_setNat (s.dev.biastab + 2 * g) 2 (e / 4 * 4 + 2 * flip + bias)
  change ((m.setNat _ _ _).get _).toNat % 4 = _
  generalize m.setNat (s.dev.biastab + 2 * g) 2 (e / 4 * 4 + 2 * flip + bias) = m' at hnat ⊢
  change (m'.get (s.dev.biastab + 2 * g + 0)).toNat + 256 * ((m'.get (s.dev.biastab + 2 * g + 1)).toNat + 256 * 0) = _ at hnat
  rw [Nat.add_zero] at hnat
  omega

/-! The end of a flip. -/

/-- A biasset that wanted the state a flip has come to completes. -/
def State.biasDone (g : Nat) (s : State) (e : Nat × Nat × Nat) : State :=
  match ((s.wave? e.1).bind (·.split? e.2.1)).bind (·.wait) with
  | some w => if w.kind = .bias g then s.leaveWait e.1 e.2.1 else s
  | none => s

/-- The state once the last line of a flip is done, before the biassets that wanted the other state begin it again. -/
def State.flipped (s : State) (g : Nat) (f : Flip) : State :=
  let host := f.st == .toHost
  let now := if host then 1 else 0
  let b := s.setBias g now 0
  (f.waves.filter (·.2.2 == now)).foldl (State.biasDone g) (if host then b.putFlip ⟨g, .host, 32, false, []⟩
    else b.modHomes fun h => { h with flips := h.flips.filter (·.granule != g) })

theorem exec_biasFlipComplete_stays {s : State} {g : Nat} (h : ∀ f, s.flip? g = some f → f.st = .host ∨ f.line < 32) :
    exec (.biasFlipComplete g) s = .next s := by
  change execBiasFlipComplete g s = _
  rw [execBiasFlipComplete]
  cases hf : s.flip? g with
  | none => rfl
  | some f => exact congrArg Host.Outcome.next (if_pos (by simpa using h f hf))

theorem exec_biasFlipComplete_done {s : State} {g : Nat} {f : Flip} (hf : s.flip? g = some f) (hline : 32 ≤ f.line)
    (hst : f.st = .toHost ∨ f.st = .toDevice) :
    let now := if f.st == .toHost then 1 else 0
    let rest := f.waves.filter (·.2.2 != now)
    exec (.biasFlipComplete g) s =
      .next (if rest.isEmpty then s.flipped g f else (s.flipped g f).startFlip g (!(f.st == .toHost)) rest).poll := by
  change execBiasFlipComplete g s = _
  rw [execBiasFlipComplete, hf]
  refine congrArg Host.Outcome.next (if_neg ?_)
  rcases hst with hst | hst <;> simp [hst, hline]

/-- Settles O33: the recheck is the model's arm, part by part; a flip by the state it is in. -/
theorem recheckAndFlipResults : Obligations.RecheckAndFlipResults := by
  unfold Obligations.RecheckAndFlipResults
  refine ⟨fun s c => ⟨rfl, fun e he => ?_, rfl, rfl, rfl, fun eng q hst => ?_, fun r hfree a t hserve ha =>
    State.retryParked_reply hfree hserve ha, fun r h => State.retryParked_stays h⟩, fun s g => ⟨exec_biasFlipComplete_stays,
    fun f hf hline hst => ⟨fun hrest => ?_, fun hrest => ?_⟩⟩, fun s f => ⟨State.flipLine_sent, fun hsent hbad =>
    ⟨State.flipLine_drain hsent hbad, fun hst hdrain o t => State.flipLine_probe hsent hbad hst hdrain,
    State.flipLine_recall hsent hbad⟩, fun fuel hf h => State.flipOn_stays hf h fuel⟩,
    fun s g bias flip _ hbias hflip hheld hposted => State.setBias_low hbias hflip hheld hposted⟩
  · obtain ⟨l, hl, hel⟩ := List.mem_flatten.1 he
    obtain ⟨l, -, rfl⟩ := List.mem_map.1 hl
    simpa using (List.mem_filter.1 hel).2
  · rw [State.recheckQueue]
    exact if_pos (by simpa using hst)
  · refine (exec_biasFlipComplete_done hf hline hst).trans (congrArg (fun s : State => Host.Outcome.next s.poll) (if_pos ?_))
    exact List.isEmpty_iff.2 hrest
  · refine (exec_biasFlipComplete_done hf hline hst).trans (congrArg (fun s : State => Host.Outcome.next s.poll) (if_neg ?_))
    exact fun h => hrest (List.isEmpty_iff.1 h)

end Sys2Proof.Machine
end


section
/-! SUPPORT. What taking a sector into the shared cache leaves of the state, and bytes written one by one (R232, R236). -/

namespace Sys2Proof.Machine

/-- `t` is `s` but for the homes, the free values drawn, and the device's errors that a write has covered. -/
def State.HomesMoved (s t : State) : Prop :=
  ∃ free dev homes, t = { s with free, dev, homes } ∧ (s.dev.hbmErrors = [] → dev = s.dev)

theorem State.HomesMoved.refl (s : State) : s.HomesMoved s := ⟨_, _, _, rfl, fun _ => rfl⟩

theorem State.HomesMoved.trans {s t u : State} (h : s.HomesMoved t) (h' : t.HomesMoved u) : s.HomesMoved u := by
  obtain ⟨_, _, _, rfl, hdev⟩ := h
  obtain ⟨_, _, _, rfl, hdev'⟩ := h'
  refine ⟨_, _, _, rfl, fun hnone => (hdev' ?_).trans (hdev hnone)⟩
  rw [hdev hnone]
  exact hnone

theorem State.homesMoved_modHomes (s : State) (f : Homes → Homes) : s.HomesMoved (s.modHomes f) := ⟨_, _, _, rfl, fun _ => rfl⟩

theorem State.homesMoved_choose (s : State) (n : Nat) : s.HomesMoved (s.choose n).2 := ⟨_, _, _, rfl, fun _ => rfl⟩

theorem State.homesMoved_coverErrors (s : State) (p : Nat → Bool) : s.HomesMoved (s.coverErrors p) := by
  unfold coverErrors
  split
  · exact .refl s
  · next h => exact ⟨_, _, _, rfl, fun hnone => absurd (by rw [hnone]; rfl) h⟩

theorem State.homesMoved_sharedDrop (s : State) (line : Nat) : s.HomesMoved (s.sharedDrop line) := by
  unfold sharedDrop
  exact (s.homesMoved_coverErrors _).trans (homesMoved_modHomes _ _)

theorem State.homesMoved_sharedEvict (s : State) (among : List SharedLine) : s.HomesMoved (s.sharedEvict among) := by
  unfold sharedEvict
  extract_lets low
  split
  · exact .refl s
  · refine (s.homesMoved_choose low.length).trans ?_
    dsimp only
    cases low[(s.choose low.length).1]? with
    | none => exact .refl _
    | some v => exact homesMoved_sharedDrop _ _

theorem State.homesMoved_sharedTake (s : State) (l : Loc) (ret : Nat) (write : Bool) : s.HomesMoved (s.sharedTake l ret write) := by
  unfold sharedTake
  dsimp only
  split
  · exact .refl s
  · split
    · exact homesMoved_modHomes _ _
    · refine .trans ?_ (homesMoved_modHomes _ _)
      split
      · exact .refl s
      · split
        · exact homesMoved_sharedEvict _ _
        · split
          · exact .refl s
          · split
            · next h => exact ⟨_, _, _, (congrArg Prod.snd h).symm, fun _ => rfl⟩
            · next h =>
              have hs := congrArg Prod.snd h
              dsimp only at hs
              rw [← hs]
              exact (s.homesMoved_choose 2).trans (homesMoved_sharedEvict _ _)

theorem State.HomesMoved.clean {s t : State} (h : s.HomesMoved t) (hnone : s.dev.hbmErrors = []) : t.dev.hbmErrors = [] := by
  obtain ⟨_, _, _, rfl, hdev⟩ := h
  rw [hdev hnone]
  exact hnone

theorem State.HomesMoved.memOf {s t : State} (h : s.HomesMoved t) (sp : Space) : t.memOf sp = s.memOf sp := by
  obtain ⟨_, _, _, rfl, _⟩ := h
  cases sp <;> rfl

/-- Sectors of a line that are written, where the device memory holds no error. -/
theorem State.homesMoved_takeSectors (sp : Space) (base ret : Nat) (size : Nat → Nat) (l : List Nat) {s : State}
    (hnone : s.dev.hbmErrors = []) : s.HomesMoved (l.foldl (fun s k => if size k = 0 then s
      else (s.mergeErrors ⟨sp, base + 32 * k⟩ (size k)).sharedTake ⟨sp, base + 32 * k⟩ ret true) s) := by
  induction l generalizing s with
  | nil => exact .refl s
  | cons k l ih =>
    have hstep : s.HomesMoved (if size k = 0 then s
        else (s.mergeErrors ⟨sp, base + 32 * k⟩ (size k)).sharedTake ⟨sp, base + 32 * k⟩ ret true) := by
      split
      · exact .refl s
      · rw [mergeErrors_clean hnone]
        exact homesMoved_sharedTake _ _ _ _
    exact hstep.trans (ih (hstep.clean hnone))

/-- Bytes written one after another at offsets from a base: an address that none of them names is as it was. -/
theorem Memory.get_foldl_set_outside {α : Type} (at_ : α → Nat) (byte : α → Byte) (l : List α) (m : Memory) {a : Nat}
    (h : ∀ b ∈ l, at_ b ≠ a) : (l.foldl (fun m b => m.set (at_ b) (byte b)) m).get a = m.get a := by
  induction l generalizing m with
  | nil => rfl
  | cons b l ih =>
    rw [List.foldl_cons, ih _ fun c hc => h c (List.mem_cons_of_mem _ hc), Memory.get_set, if_neg]
    exact fun he => h b List.mem_cons_self he.symm

/-- An address that only equal bytes are written at reads as they do. -/
theorem Memory.get_foldl_set {α : Type} (at_ : α → Nat) (byte : α → Byte) (l : List α) (m : Memory) {a : Nat} {v : Byte}
    (hsome : ∃ b ∈ l, at_ b = a) (h : ∀ c ∈ l, at_ c = a → byte c = v) :
    (l.foldl (fun m b => m.set (at_ b) (byte b)) m).get a = v := by
  induction l generalizing m with
  | nil => exact absurd hsome (by simp)
  | cons c l ih =>
    rw [List.foldl_cons]
    by_cases hmore : ∃ d ∈ l, at_ d = a
    · exact ih _ hmore fun d hd => h d (List.mem_cons_of_mem _ hd)
    · have hnone : ∀ d ∈ l, at_ d ≠ a := fun d hd he => hmore ⟨d, hd, he⟩
      obtain ⟨b, hb, hat⟩ := hsome
      obtain rfl : b = c := (List.mem_cons.1 hb).resolve_right fun hl => hnone b hl hat
      rw [get_foldl_set_outside at_ byte l _ hnone, Memory.get_set, if_pos hat.symm]
      exact h b List.mem_cons_self hat

end Sys2Proof.Machine
end

section
/-! CLAIM. Write-backs, drains and exclusive ownership (R236, R237, R241, R255, R257, R367). -/

namespace Sys2Proof.Machine

/-- The poison of a sector that a write-back carries a part of. -/
def markPart (part : List (Nat × PByte)) (whole : Bool) (sector : Nat) (m : Memory) : Memory :=
  if part.isEmpty then m
  else if part.any (·.2.poison) then m.setPoison sector true
  else if whole then m.setPoison sector false
  else m

theorem contains_markPart (part : List (Nat × PByte)) (whole : Bool) (sector j : Nat) (m : Memory) :
    (markPart part whole sector m).poison.contains j =
      if j = sector then
        if part = [] then m.poison.contains j else part.any (·.2.poison) || (!whole && m.poison.contains j)
      else m.poison.contains j := by
  unfold markPart
  by_cases hj : j = sector
  · rw [if_pos hj]
    by_cases hp : part = []
    · simp [hp]
    · rw [if_neg (by simpa using hp), if_neg hp]
      cases hany : part.any (·.2.poison) with
      | true => rw [if_pos rfl, Memory.contains_setPoison, if_pos hj, Bool.true_or]
      | false =>
        rw [if_neg Bool.false_ne_true]
        cases whole with
        | true => rw [if_pos rfl, Memory.contains_setPoison, if_pos hj]; rfl
        | false => rfl
  · have hset (p : Bool) : (m.setPoison sector p).poison.contains j = m.poison.contains j := by
      rw [Memory.contains_setPoison, if_neg hj]
    rw [if_neg hj]
    split
    · rfl
    · split
      · exact hset true
      · split
        · exact hset false
        · rfl

theorem get_markPart (part : List (Nat × PByte)) (whole : Bool) (sector a : Nat) (m : Memory) :
    (markPart part whole sector m).get a = m.get a := by
  unfold markPart
  split
  · rfl
  · split
    · exact Memory.get_setPoison ..
    · split
      · exact Memory.get_setPoison ..
      · rfl

/-- The memory of a space once a write-back has arrived. -/
def writtenBack (base : Nat) (bytes : List (Nat × PByte)) (whole : BitVec 4) (m : Memory) : Memory :=
  [0, 1, 2, 3].foldl (fun m k => markPart (bytes.filter fun b => b.1 / 32 == k) (whole.getLsbD k) (base / 32 + k) m)
    (bytes.foldl (fun m b => m.set (base + b.1) b.2.byte) m)

theorem get_writtenBack (base : Nat) (bytes : List (Nat × PByte)) (whole : BitVec 4) (m : Memory) (a : Nat) :
    (writtenBack base bytes whole m).get a = (bytes.foldl (fun m b => m.set (base + b.1) b.2.byte) m).get a := by
  simp only [writtenBack, List.foldl_cons, List.foldl_nil, get_markPart]

theorem contains_writtenBack (base : Nat) (bytes : List (Nat × PByte)) (whole : BitVec 4) (m : Memory) {k : Nat} (hk : k < 4) :
    (writtenBack base bytes whole m).poison.contains (base / 32 + k) =
      if bytes.filter (fun b => b.1 / 32 == k) = [] then m.poison.contains (base / 32 + k)
      else (bytes.filter fun b => b.1 / 32 == k).any (·.2.poison) || (!whole.getLsbD k && m.poison.contains (base / 32 + k)) := by
  have hset : (bytes.foldl (fun m b => m.set (base + b.1) b.2.byte) m).poison = m.poison := by
    induction bytes generalizing m with
    | nil => rfl
    | cons b l ih => exact (ih _).trans (m.set_poison ..)
  simp only [writtenBack, List.foldl_cons, List.foldl_nil, contains_markPart, hset, Nat.add_left_cancel_iff]
  obtain rfl | rfl | rfl | rfl : k = 0 ∨ k = 1 ∨ k = 2 ∨ k = 3 := by omega
  all_goals simp

/-- A write-back that no older one precedes. -/
theorem exec_homeWriteback {s : State} {m : Msg} {core : Nat} {loc : Loc} {bytes : List (Nat × PByte)} {whole : BitVec 4}
    {epoch u ret : Nat} (hm : s.msg? m.id = some m) (hk : m.kind = .writeback core loc bytes whole epoch u ret)
    (hfirst : s.msgs.any (fun k => match k.kind with
      | .writeback c l _ _ e _ _ => c == core && (decide (e < epoch) || (l == loc && decide (k.id < m.id)))
      | _ => false) = false) (hnone : s.dev.hbmErrors = []) :
    ∃ t, s.HomesMoved t ∧ exec (.homeWriteback m.id) s = .next (((((t.setMem loc.sp
      (writtenBack (loc.addr / 128 * 128) bytes whole (t.memOf loc.sp))).dropMsg m.id).afterWrite loc).settleOp m.wave m.uid).poll) := by
  refine ⟨_, State.homesMoved_takeSectors loc.sp (loc.addr / 128 * 128) ret
    (fun k => (bytes.filter fun b => b.1 / 32 == k).length) [0, 1, 2, 3] hnone, ?_⟩
  change execHomeWriteback m.id s = _
  rw [execHomeWriteback, hm]
  dsimp only
  rw [hk]
  exact congrArg Host.Outcome.next (if_neg (ne_true_of_eq_false hfirst))

/-- Settles O29: the bytes of a write-back are `writtenBack` of the home's memory; drains and the grant are the model's
arms by the state of the order. -/
theorem writeBackResults : Obligations.WriteBackResults := by
  unfold Obligations.WriteBackResults
  refine ⟨fun s m core loc bytes whole epoch u ret hm hk hfirst hnone hscratch => ?_, fun s m hm =>
    ⟨fun core upto all line hk => ?_, fun core upto all line hk => ⟨fun hleft => ?_, fun hleft => ?_⟩, fun line hk => ?_⟩⟩
  · obtain ⟨t, ht, hexec⟩ := exec_homeWriteback hm hk hfirst hnone
    have hmem := ht.memOf
    obtain ⟨free, dev, homes, rfl, -⟩ := ht
    have hsame := State.memOf_setMem_same (s := { s with free, dev, homes }) hscratch
      (writtenBack (loc.addr / 128 * 128) bytes whole (State.memOf { s with free, dev, homes } loc.sp))
    have hframe : ∀ (s : State) (m : Memory), (s.setMem loc.sp m).msgs = s.msgs ∧ (s.setMem loc.sp m).waves = s.waves ∧
        (s.setMem loc.sp m).cores = s.cores := by
      intro s m
      cases loc.sp <;> exact ⟨rfl, rfl, rfl⟩
    have hdrop (s : State) (sp : Space) : (s.dropMsg m.id).memOf sp = s.memOf sp := by cases sp <;> rfl
    obtain ⟨hmsgs, hwaves, hcores⟩ := hframe { s with free, dev, homes }
      (writtenBack (loc.addr / 128 * 128) bytes whole (State.memOf { s with free, dev, homes } loc.sp))
    refine ⟨_, hexec, congrArg (List.filter _) hmsgs, hwaves, hcores, fun b hb honly => ?_, fun a ha => ?_, fun k hk => ?_, fun sp hsp => ?_⟩
    · rw [hdrop, hsame, get_writtenBack]
      exact Memory.get_foldl_set (fun b : Nat × PByte => loc.addr / 128 * 128 + b.1) (fun b => b.2.byte) bytes _ ⟨b, hb, rfl⟩
        fun c hc hat => by rw [honly c hc (Nat.add_left_cancel hat)]
    · rw [hdrop, hsame, get_writtenBack, hmem]
      exact Memory.get_foldl_set_outside (fun b : Nat × PByte => loc.addr / 128 * 128 + b.1) (fun b => b.2.byte) bytes _ ha
    · rw [hdrop, hsame, contains_writtenBack _ _ _ _ hk, hmem]
    · rw [hdrop, State.memOf_setMem_ne _ hsp, hmem]
  · change execDrainOrder m.id s = _
    rw [execDrainOrder, hm]
    dsimp only
    rw [hk]
  · change execDrainAck m.id s = _
    rw [execDrainAck, hm]
    dsimp only
    rw [hk]
    exact congrArg Host.Outcome.next (if_neg (ne_true_of_eq_false hleft))
  · change execDrainAck m.id s = _
    rw [execDrainAck, hm]
    dsimp only
    rw [hk]
    exact congrArg Host.Outcome.next (if_pos hleft)
  · change execExclusiveOwnershipGrant m.id s = _
    rw [execExclusiveOwnershipGrant, hm]
    dsimp only
    rw [hk]

end Sys2Proof.Machine
end


section
/-! SUPPORT. The turn of an access at the home of its bytes, and a keyed contribution there (R239, R243, R269, R273). -/

namespace Sys2Proof.Machine

/-- Whether a home needs something first does not depend on which readers wait there. -/
theorem State.homeWaits_none {s : State} {token : Nat} {l : Loc} {n : Nat} {except : Option Nat} {read : Bool}
    (h : s.homeNeeds l n except read = none) : s.homeWaits token l n except read = none := by
  rw [← Option.isNone_iff_eq_none] at h ⊢
  refine Eq.trans ?_ h
  rw [homeWaits]
  have hawaits : ∃ waiting, s.awaits (.msg token) l n except = s.modHomes fun h => { h with waiting } := by
    unfold awaits
    dsimp only
    split
    · exact ⟨_, rfl⟩
    · exact ⟨_, rfl⟩
  obtain ⟨waiting, hawaits⟩ := hawaits
  rw [hawaits]
  cases read with
  | false => rfl
  | true => exact State.homeNeeds_isNone_congr (s := s) (t := s.modHomes fun h => { h with waiting }) rfl rfl rfl rfl rfl l n except true

/-- The state in which the core of an access at a home has given up its own copy. -/
def State.copyGivenUp (s : State) (core : Nat) (l : Loc) : State :=
  if l.sp == .dev || l.sp == .host then s.surrenderLine core l.frameLine (0, 0) else s

/-- An access whose turn it is: it goes on, and waits for nothing more. -/
theorem State.homeTurn_true {s : State} {m : Msg} {l : Loc} {n core : Nat} {release : Option (Nat × Bool)} {read : Bool}
    (hown : s.behindOwn m l n = false) (hawaited : release ≠ none → s.awaited l.line m.id = false)
    (hpending : (s.copyGivenUp core l).writebackPending core (fun k _ => k == l.frameLine) = false)
    (hneeds : (s.copyGivenUp core l).homeNeeds l n (some core) read = none)
    (hrecord : release ≠ none → l.sp = .dev → (s.copyGivenUp core l).recordFull l.line = none) :
    s.homeTurn m l n core release read = (true, (s.copyGivenUp core l).modHomes fun h =>
      { h with waiting := h.waiting.filter (·.2 != .msg m.id) }) := by
  have hfirst : ¬(s.behindOwn m l n || (release.isSome && s.awaited l.line m.id)) = true := by
    rw [hown, Bool.false_or]
    cases release with
    | none => exact Bool.false_ne_true
    | some r =>
      rw [hawaited (Option.some_ne_none r)]
      exact Bool.false_ne_true
  have hfull : (if (release.isSome && l.sp == .dev) = true then (s.copyGivenUp core l).recordFull l.line else none) = none := by
    split
    · next h =>
      rw [Bool.and_eq_true, beq_iff_eq] at h
      exact hrecord (Option.ne_none_iff_isSome.2 h.1) h.2
    · rfl
  rw [homeTurn]
  refine (if_neg hfirst).trans ((if_neg (ne_true_of_eq_false hpending)).trans ?_)
  change (match (s.copyGivenUp core l).homeWaits m.id l n (some core) read with
    | some s => (false, s)
    | none => match (if (release.isSome && l.sp == Space.dev) = true then (s.copyGivenUp core l).recordFull l.line else none) with
      | some s => (false, s)
      | none => (true, (s.copyGivenUp core l).hasRead (.msg m.id))) = _
  rw [homeWaits_none hneeds, hfull]
  rfl

/-- A read meets no send slot: its bytes are the memory's. -/
theorem State.homeRead_plain {s : State} {l : Loc} {n : Nat} (hnone : s.dev.hbmErrors = []) (hslots : s.inSlots l n = false) :
    s.homeRead l n = (s.bytesAt l n, s) := by
  have hlen : (s.bytesAt l n).length = n := by simp [bytesAt, Memory.bytes]
  have hno : (s.slots.filter fun p => overlaps p.2 512 l (s.bytesAt l n).length) = [] := by
    rw [hlen, List.filter_eq_nil_iff]
    intro p hp hover
    exact absurd hslots (ne_false_of_eq_true (List.any_eq_true.2 ⟨p, hp, hover⟩))
  have hover : s.overSlots l (s.bytesAt l n) (fun _ => ⟨0#8, false⟩) = s.bytesAt l n := by
    rw [overSlots]
    exact if_pos (by rw [hno]; rfl)
  rw [homeRead, meetErrors_clean hnone, hover]

section deliverKey
variable {s : State} (hnone : s.dev.hbmErrors = []) (v : Nat) (op : LaneOp) (count : Option (Loc × Nat))
include hnone

/-- A keyed contribution by where its key stands (R273). -/
theorem State.deliverKey_eq : s.deliverKey v op count =
    let key := pvalue (op.data.take 4)
    let d := (key + 2 ^ 32 - s.keyNext op.loc) % 2 ^ 32
    let known := s.homes.keys.any fun k => k.loc == op.loc && k.key == key
    let kept := s.modHomes fun h => { h with
      keys := h.keys ++ [⟨op.loc, op.size, v, key, BitVec.ofNat 64 (pvalue (op.data.drop 4)), count⟩] }
    if 2 ^ 31 ≤ d ∨ known = true then some ((s.dropKey op.loc).countBytes count 0)
    else if d = 0 then some (kept.applyHeldKeys op.loc 4097)
    else if d < 1024 ∧ (s.homes.keys.filter fun k => s.sliceOf k.loc == s.sliceOf op.loc).length < 4096 then some kept
    else none := by
  rw [deliverKey]
  simp only [meetErrors_clean hnone, Bool.or_eq_true, Bool.and_eq_true, decide_eq_true_eq]

end deliverKey

/-- No held contribution carries the next key. -/
theorem State.applyHeldKeys_none {s : State} {cell : Loc} (h : ∀ k ∈ s.homes.keys, k.loc = cell → k.key ≠ s.keyNext cell) (n : Nat) :
    s.applyHeldKeys cell n = s := by
  cases n with
  | zero => rfl
  | succ n =>
    have hfind : s.homes.keys.find? (fun k => k.loc == cell && k.key == s.keyNext cell) = none := by
      rw [List.find?_eq_none]
      intro k hk hboth
      rw [Bool.and_eq_true, beq_iff_eq, beq_iff_eq] at hboth
      exact h k hk hboth.1 hboth.2
    rw [applyHeldKeys, hfind]

end Sys2Proof.Machine
end

section
/-! CLAIM. Reads, writes, atomics and keyed contributions at their home (R233, R239, R243, R269 to R275, R389). -/

namespace Sys2Proof.Machine

section
variable {s : State} {m : Msg} (hm : s.msg? m.id = some m)
include hm

/-- A read that nothing of its wave or its core precedes, at a home that needs nothing. -/
theorem exec_homeRead {sec : Loc} {core : Nat} {alloc : Bool} {ret : Nat} (hk : m.kind = .read sec core alloc ret)
    (hown : ∀ w, s.wave? m.wave = some w → m.uid = 0 ∨ s.homeOpPending w m.no sec 32 = false) {t : State}
    (ht : t = if s.goesAround m then s.surrenderLine core sec.frameLine (0, 0) else s)
    (hbehind : t.behindOwn m sec 32 = false)
    (hpending : t.writebackPending core (fun k _ => k.frameLine == sec.frameLine) = false)
    (hneeds : t.homeNeeds sec 32 (some core) true = none) (hfull : alloc = true → t.dirFull sec.dirKey = none) :
    exec (.homeRead m.id) s = .next (t.performRead m sec core alloc ret) := by
  subst ht
  generalize hgone : (if s.goesAround m then s.surrenderLine core sec.frameLine (0, 0) else s) = t at *
  have hmine : (match s.wave? m.wave with
      | some w => m.uid != 0 && s.homeOpPending w m.no sec 32
      | none => false) = false := by
    cases hw : s.wave? m.wave with
    | none => rfl
    | some w =>
      rcases hown w hw with h | h
      · simp [h]
      · simp [h]
  have hroom : (if alloc = true then t.dirFull sec.dirKey else none) = none := by
    split
    · next h => exact hfull h
    · rfl
  change execHomeRead m.id s = _
  rw [execHomeRead, hm]
  dsimp only
  rw [hk]
  dsimp only
  rw [hgone]
  refine congrArg Host.Outcome.next ((if_neg ?_).trans ?_)
  · rw [hbehind, hpending, Bool.or_false, Bool.or_false]
    exact ne_true_of_eq_false hmine
  · rw [State.homeWaits_none hneeds, hroom]

/-- A write in its turn. -/
theorem exec_homeWrite {op : LaneOp} {core : Nat} {release : Option (Nat × Bool)} (hk : m.kind = .write op core release)
    {t : State} (hturn : s.homeTurn m op.loc op.data.length core release false = (true, t)) :
    exec (.homeWrite m.id) s = .next ((((((t.dropMsg m.id).homeStore op.loc op.data).sharedTake op.loc (t.retention m)
      true).recordRelease op.loc core release).afterWrite op.loc).settleOp m.wave m.uid).poll := by
  change execHomeWrite m.id s = _
  rw [execHomeWrite, hm]
  dsimp only
  rw [hk]
  dsimp only
  rw [hturn]

/-- An atomic in its turn. -/
theorem exec_homeAtomic {kind : HomeOp} {op : LaneOp} {core : Nat} {fetch : Bool} {release : Option (Nat × Bool)}
    (hk : m.kind = .atomic kind op core fetch release) (howns : s.ownsLine op.loc = true) {t : State}
    (hturn : s.homeTurn m op.loc op.size core release true = (true, t)) :
    let r := t.applyAtomic kind op
    let u := (((r.2.sharedTake op.loc (t.retention m) true).enabledAt t op.loc).recordRelease op.loc core release).afterWrite op.loc
    exec (.homeAtomic m.id) s = .next (if fetch then u.modMsg m.id fun _ => .values [(op.lane, r.1)]
      else (u.dropMsg m.id).settleOp m.wave m.uid).poll := by
  change execHomeAtomic m.id s = _
  rw [execHomeAtomic, hm]
  dsimp only
  rw [hk]
  dsimp only
  rw [howns, hturn]
  rfl

omit hm in
/-- What follows once a turn has come. -/
theorem turn_true {turn : Bool × State} {k : State → State} {t : State} (hturn : turn = (true, t)) :
    (match (generalizing := false) turn with
      | (false, s) => s
      | (true, s) => k s) = k t := by
  subst hturn
  rfl

section keyed
variable {v : Nat} {op : LaneOp} {core : Nat} (hk : m.kind = .redk v op core none)
  (hfirst : s.msgs.any (fun k => decide (k.id < m.id) && k.wave == m.wave && k.uid == m.uid) = false)
  (howns : s.ownsLine op.loc = true) {t : State} (hturn : s.homeTurn m op.loc 16 core none true = (true, t))
include hk hfirst howns hturn

/-- A keyed contribution in its turn, which is taken. -/
theorem exec_redkContribution_some {r : State}
    (hr : (t.sharedTake op.loc (t.retention m) true).deliverKey v op none = some r) :
    exec (.redkContribution m.id) s = .next (((r.dropMsg m.id).afterWrite op.loc).settleOp m.wave m.uid).poll := by
  change execRedkContribution m.id s = _
  rw [execRedkContribution, hm]
  dsimp only
  rw [hk]
  refine congrArg Host.Outcome.next ((if_neg (ne_true_of_eq_false hfirst)).trans ((if_neg (by rw [howns]; decide)).trans ?_))
  refine (turn_true hturn).trans ?_
  rw [hr]

/-- A keyed contribution in its turn, which is refused. -/
theorem exec_redkContribution_none (hr : (t.sharedTake op.loc (t.retention m) true).deliverKey v op none = none) :
    exec (.redkContribution m.id) s = .next (t.modMsg m.id fun _ => .redk v op core (some t.clk)) := by
  change execRedkContribution m.id s = _
  rw [execRedkContribution, hm]
  dsimp only
  rw [hk]
  refine congrArg Host.Outcome.next ((if_neg (ne_true_of_eq_false hfirst)).trans ((if_neg (by rw [howns]; decide)).trans ?_))
  refine (turn_true hturn).trans ?_
  rw [hr]

end keyed

end

/-- What a core's write-backs leave of the state. -/
theorem State.writebackWhere_eq (s : State) (core : Nat) (p : Frame → Bool) (uidTo : Nat × Nat) :
    ∃ cores msgs nextMsg, s.writebackWhere core p uidTo = { s with cores, msgs, nextMsg } := by
  have one (s : State) (f : Frame) (u : Nat × Nat) : ∃ cores msgs nextMsg, s.sendWriteback core f u = { s with cores, msgs, nextMsg } := by
    unfold sendWriteback
    split
    · exact ⟨_, _, _, rfl⟩
    · exact ⟨_, _, _, rfl⟩
  have all (u : Frame → Nat × Nat) (l : List Frame) (s : State) :
      ∃ cores msgs nextMsg, l.foldl (fun s f => s.sendWriteback core f (u f)) s = { s with cores, msgs, nextMsg } := by
    induction l generalizing s with
    | nil => exact ⟨_, _, _, rfl⟩
    | cons f l ih =>
      obtain ⟨_, _, _, h⟩ := one s f (u f)
      obtain ⟨_, _, _, h'⟩ := ih (s.sendWriteback core f (u f))
      rw [List.foldl_cons, h', h]
      exact ⟨_, _, _, rfl⟩
  exact all _ _ s

theorem State.copyGivenUp_clk (s : State) (core : Nat) (l : Loc) : (s.copyGivenUp core l).clk = s.clk := by
  obtain ⟨_, _, _, h⟩ := s.writebackWhere_eq core (fun f => f.loc == l.frameLine) (0, 0)
  unfold copyGivenUp
  split
  · rw [surrenderLine, h]
    rfl
  · rfl

/-- Settles O27: each access goes on as its home says once `State.homeTurn_true` gives it its turn, and a contribution by
where its key stands (`State.deliverKey_eq`). -/
theorem homeAccessResults : Obligations.HomeAccessResults := by
  unfold Obligations.HomeAccessResults
  refine ⟨fun s m hm => ⟨fun sec core alloc ret hk hown hbehind hpending hneeds hfull => ?_, ⟨fun op core release hk hclear => ?_,
    fun kind op core fetch release hk howns hclear => ?_⟩, fun l n hnone hslots => State.homeRead_plain hnone hslots⟩,
    fun s => ⟨fun m v core op hm hk hfirst hbehind howns hpending hneeds => ⟨fun r hr => ?_, fun hr => ?_⟩,
    fun v op count hnone => ⟨fun hor => ?_, fun h0 hknown => ?_, fun h0 hwin hknown => ?_, fun hwin hfar hknown => ?_⟩,
    fun cell n h => State.applyHeldKeys_none h n, fun cell n k hfind => ?_, fun l mode n hnone => ⟨rfl, ?_⟩, fun msg => rfl⟩⟩
  · exact exec_homeRead hm hk hown rfl hbehind hpending hneeds hfull
  · obtain ⟨hown, hawaited, hpending, hneeds, hrecord⟩ := hclear
    exact exec_homeWrite hm hk (State.homeTurn_true hown hawaited hpending hneeds hrecord)
  · obtain ⟨hown, hawaited, hpending, hneeds, hrecord⟩ := hclear
    exact exec_homeAtomic hm hk howns (State.homeTurn_true hown hawaited hpending hneeds hrecord)
  · have hturn : s.homeTurn m op.loc 16 core none true = (true, _) := State.homeTurn_true hbehind (fun h => absurd rfl h)
      hpending hneeds fun h => absurd rfl h
    exact exec_redkContribution_some hm hk hfirst howns hturn hr
  · have hturn : s.homeTurn m op.loc 16 core none true = (true, _) := State.homeTurn_true hbehind (fun h => absurd rfl h)
      hpending hneeds fun h => absurd rfl h
    refine (exec_redkContribution_none hm hk hfirst howns hturn hr).trans ?_
    exact congrArg (fun c => Host.Outcome.next (State.modMsg _ m.id fun _ => MsgKind.redk v op core (some c)))
      (s.copyGivenUp_clk core op.loc)
  · exact (State.deliverKey_eq hnone v op count).trans (if_pos hor)
  · refine (State.deliverKey_eq hnone v op count).trans ((if_neg ?_).trans (if_pos h0))
    exact fun hor => hor.elim (fun h => absurd h (by rw [h0]; decide)) (ne_true_of_eq_false hknown)
  · refine (State.deliverKey_eq hnone v op count).trans ((if_neg ?_).trans ((if_neg (Nat.ne_of_gt h0)).trans ?_))
    · exact fun hor => hor.elim (fun h => absurd hwin (not_lt.2 (le_trans (by decide) h))) (ne_true_of_eq_false hknown)
    · exact if_congr (and_iff_right hwin) rfl rfl
  · refine (State.deliverKey_eq hnone v op count).trans ((if_neg ?_).trans ((if_neg ?_).trans (if_neg ?_)))
    · exact fun hor => hor.elim (not_le.2 hfar) (ne_true_of_eq_false hknown)
    · exact fun h => absurd (h ▸ hwin) (by decide)
    · exact fun h => absurd h.1 (not_lt.2 hwin)
  · rw [State.applyHeldKeys, hfind]
  · rw [State.countBytes, State.meetErrors_clean hnone]

end Sys2Proof.Machine
end


section
/-! CLAIM. Memory replies and the value a load delivers (R62, R152, R236, R242, R266, R268). -/

namespace Sys2Proof.Machine

/-! The value of a load. -/

theorem pvalue_byte (b : PByte) : pvalue [b] = b.byte.toNat := by simp [pvalue, leNat]

theorem pvalue_pair (b c : PByte) : pvalue [b, c] = (c.byte ++ b.byte).toNat := by
  rw [BitVec.toNat_append]
  simp only [pvalue, leNat, List.map_cons, List.map_nil]
  have hb := b.byte.isLt
  rw [Nat.shiftLeft_eq, Nat.mul_comm c.byte.toNat, ← Nat.two_pow_add_eq_or_of_lt hb]
  omega

theorem loadReg_word {bs : List PByte} (h : bs.length = 4) (signed : Bool) :
    loadReg .b32 signed bs 0 = ⟨BitVec.ofNat 32 (pvalue bs), anyPoison bs⟩ := by
  have hbs : (bs.drop (4 * 0)).take 4 = bs := List.take_of_length_le (by simp [h])
  cases signed <;> (unfold loadReg; rw [hbs]; rfl)

theorem loadReg_byte (b : PByte) : loadReg .b8 false [b] 0 = ⟨b.byte.zeroExtend 32, b.poison⟩ := by
  change Val.mk (BitVec.ofNat 32 (pvalue [b])) (b.poison || false) = _
  rw [pvalue_byte, Bool.or_false]
  exact congrArg (Val.mk · b.poison) (BitVec.eq_of_toNat_eq (by simp))

theorem loadReg_signedByte (b : PByte) : loadReg .b8 true [b] 0 = ⟨b.byte.signExtend 32, b.poison⟩ := by
  change Val.mk (BitVec.ofNat 32 (intBits 32 (signedOf 8 (pvalue [b])))) (b.poison || false) = _
  rw [pvalue_byte, Bool.or_false, ofNat_intBits, signedOf_toNat b.byte]
  rfl

theorem loadReg_half (b c : PByte) : loadReg .b16 false [b, c] 0 = ⟨(c.byte ++ b.byte).zeroExtend 32, b.poison || c.poison⟩ := by
  change Val.mk (BitVec.ofNat 32 (pvalue [b, c])) (b.poison || (c.poison || false)) = _
  rw [pvalue_pair, Bool.or_false]
  exact congrArg (Val.mk · (b.poison || c.poison)) (BitVec.eq_of_toNat_eq (by simp))

theorem loadReg_signedHalf (b c : PByte) : loadReg .b16 true [b, c] 0 = ⟨(c.byte ++ b.byte).signExtend 32, b.poison || c.poison⟩ := by
  change Val.mk (BitVec.ofNat 32 (intBits 32 (signedOf 16 (pvalue [b, c])))) (b.poison || (c.poison || false)) = _
  rw [pvalue_pair, Bool.or_false, ofNat_intBits, signedOf_toNat (c.byte ++ b.byte)]
  rfl

/-! A reply. -/

theorem any_ne_eq_false {l : List Piece} {f : List Nat} (h : ∀ p ∈ l, p.fwd = f) :
    ¬ l.any (fun p => p.fwd != f) = true := by
  simpa using h

theorem any_ne_eq_true {l : List Piece} {f : List Nat} (h : ∃ p ∈ l, p.fwd ≠ f) :
    l.any (fun p => p.fwd != f) = true := by
  simpa using h

/-- Settles O28: each reply is the model's own arm where its guards are open; the bytes of a load are one word, half or
byte of its list. -/
theorem replyResults : Obligations.ReplyResults := by
  unfold Obligations.ReplyResults
  refine ⟨fun s m hm => ⟨?_, ?_, ?_⟩, fun bs h => ⟨loadReg_word h, loadReg_byte, loadReg_signedByte, loadReg_half,
    loadReg_signedHalf⟩⟩
  · intro sec bs alloc core o hk hmay t₀ hread t₁ t ho
    have ht : (if alloc then ((s.mayLandAt m.wave m.uid).2.dropMsg m.id).fillSector core m.ctx sec bs
      else (s.mayLandAt m.wave m.uid).2.dropMsg m.id) = t := rfl
    change (_ → execMemoryReply m.id s = _) ∧ (_ → execMemoryReply m.id s = _)
    rw [execMemoryReply, hm]
    dsimp only
    rw [hk]
    dsimp only
    rw [if_neg (by rw [hmay]; exact ne_true_of_eq_false hread), ht]
    clear_value t
    rw [ho]
    exact ⟨fun hfwd => congrArg Host.Outcome.next (if_neg (any_ne_eq_false hfwd)),
      fun hfwd => congrArg Host.Outcome.next (if_pos (any_ne_eq_true hfwd))⟩
  · intro vs o hk ho
    change execMemoryReply m.id s = _
    rw [execMemoryReply, hm]
    dsimp only
    rw [hk]
    dsimp only
    generalize hd : s.dropMsg m.id = t
    rw [show (t.wave? m.wave).bind (·.op? m.uid) = some o from hd ▸ ho]
    rfl
  · intro hk
    change execMemoryReply m.id s = _
    rw [execMemoryReply, hm]
    dsimp only
    rw [hk]

end Sys2Proof.Machine
end


section
/-! SUPPORT. What a translation for a die's own accesses leaves as it was: the waves, the blocks, the host's memory and
the links (R358, R359, R385). -/

namespace Sys2Proof.Machine

/-- The links, the waves, the host's memory and the blocks stand as they were. -/
structure State.KeepsApart (s t : State) : Prop where
  link : t.link = s.link
  waves : t.waves = s.waves
  host : t.host = s.host
  blocks : t.blocks = s.blocks

namespace State.KeepsApart

theorem refl (s : State) : s.KeepsApart s := ⟨rfl, rfl, rfl, rfl⟩

theorem trans {s t u : State} (h : s.KeepsApart t) (k : t.KeepsApart u) : s.KeepsApart u :=
  ⟨k.link.trans h.link, k.waves.trans h.waves, k.host.trans h.host, k.blocks.trans h.blocks⟩

theorem foldl {β : Type} {f : State → β → State} (h : ∀ (s : State) x, s.KeepsApart (f s x)) (l : List β) (s : State) :
    s.KeepsApart (l.foldl f s) := by
  induction l generalizing s with
  | nil => exact refl s
  | cons x l ih => exact (h s x).trans (ih _)

end State.KeepsApart

namespace State

theorem keepsApart_meetErrors (s : State) (l : Loc) (n : Nat) : s.KeepsApart (s.meetErrors l n) :=
  ⟨meetErrors_link .., meetErrors_waves .., meetErrors_host .., meetErrors_blocks ..⟩

theorem keepsApart_tlbInsert (s : State) (cap : Nat) (l : List TlbEntry) (e : TlbEntry) :
    s.KeepsApart (tlbInsert s cap l e).2 := by
  unfold tlbInsert
  split <;> exact ⟨rfl, rfl, rfl, rfl⟩

theorem keepsApart_fillTlb (s : State) (core : Option Nat) (e : TlbEntry) : s.KeepsApart (s.fillTlb core e) := by
  cases core with
  | none => exact .refl s
  | some c => exact (s.keepsApart_tlbInsert 256 (s.core c).tlb e).trans ⟨rfl, rfl, rfl, rfl⟩

theorem keepsApart_setDirty (s : State) (core : Option Nat) (e : TlbEntry) : s.KeepsApart (s.setDirty core e) := by
  cases core <;> exact (s.keepsApart_meetErrors _ 8).trans ⟨rfl, rfl, rfl, rfl⟩

theorem keepsApart_meetWalk (s : State) (ctx va : Nat) : s.KeepsApart (s.meetWalk ctx va) := by
  unfold meetWalk
  split
  · exact .refl s
  · exact .foldl (fun s _ => s.keepsApart_meetErrors _ 8) _ s

theorem keepsApart_fillLeaf (s : State) (core : Option Nat) (die ctx va at_ e lv : Nat) :
    s.KeepsApart (s.fillLeaf core die ctx va at_ e lv) := by
  have hwalk := s.keepsApart_meetWalk ctx va
  have hor (t : State) : t.KeepsApart (t.orLeaf at_ 7) := ⟨rfl, rfl, rfl, rfl⟩
  have htlb (t : State) (k : List (List TlbEntry) → List (List TlbEntry)) : t.KeepsApart (t.modHomes fun h => { h with dieTlb := k h.dieTlb }) := ⟨rfl, rfl, rfl, rfl⟩
  unfold fillLeaf
  dsimp only
  split
  · exact ((hwalk.trans (keepsApart_tlbInsert ..)).trans (htlb _ (updAt die _))).trans (keepsApart_fillTlb ..)
  · exact (((hwalk.trans (hor _)).trans (keepsApart_tlbInsert ..)).trans (htlb _ (updAt die _))).trans (keepsApart_fillTlb ..)

end State

/-- What a translation that answers has kept. -/
def Trans.KeepsApart (s : State) : Trans → Prop
  | .ok _ t | .fault _ t => s.KeepsApart t
  | .stall _ => True

theorem Trans.KeepsApart.after {s t : State} (h : s.KeepsApart t) : ∀ {r : Trans}, r.KeepsApart t → r.KeepsApart s
  | .ok _ _, k | .fault _ _, k => h.trans k
  | .stall _, _ => trivial

namespace State

theorem keepsApart_useEntry (s : State) (core : Option Nat) (va : Nat) (n : Need) (e : TlbEntry) :
    (s.useEntry core va n e).KeepsApart s := by
  unfold useEntry
  split
  · exact .refl s
  · split
    · split
      · trivial
      · exact s.keepsApart_setDirty core e
    · exact .refl s

theorem keepsApart_translate (s : State) (core : Option Nat) (die ctx va : Nat) (n : Need) :
    (s.translate core die ctx va n).KeepsApart s := by
  rw [translate_eq]
  split
  · exact s.keepsApart_useEntry core va n _
  · split
    · exact .after (s.keepsApart_fillTlb core _) (keepsApart_useEntry _ core va n _)
    · unfold walked
      split
      · trivial
      · exact s.keepsApart_meetWalk ctx va
      · exact s.keepsApart_meetWalk ctx va
      · exact .after (s.keepsApart_fillLeaf core die ctx va _ _ _) (keepsApart_useEntry _ core va n _)

end State

/-- What reaching a page's home has kept. -/
def DevAcc.KeepsApart (s : State) : DevAcc → Prop
  | .ok _ t | .fault _ t => s.KeepsApart t
  | .stall _ => True

/-- What reaching every page has kept. -/
def Reached.KeepsApart (s : State) : Reached → Prop
  | .ok _ t | .fault _ t => s.KeepsApart t
  | .stall _ => True

/-- What a check of the place of a request has kept. -/
def Target.KeepsApart (s : State) : Target → Prop
  | .ok _ _ _ t | .no (.reply _ t) | .no (.park _ _ t) => s.KeepsApart t
  | .no (.wait _) => True
  | .no (.silent _) => False

namespace State

theorem keepsApart_reach (s : State) (die ctx va n : Nat) (need : Need) : (s.reach die ctx va n need).KeepsApart s := by
  have htr := s.keepsApart_translate none die ctx va need
  unfold reach
  split
  · trivial
  · rename_i h; rw [h] at htr; exact htr
  · rename_i h
    rw [h] at htr
    split
    · trivial
    · exact htr

theorem keepsApart_reachAll (s : State) (die c va n : Nat) (need : Need) : (s.reachAll die c va n need).KeepsApart s := by
  unfold reachAll
  have step : ∀ (l : List (Nat × Nat)) (r : Reached), r.KeepsApart s → (l.foldl (fun r p =>
      match r with
      | .ok ls s => (match s.reach die c p.1 p.2 need with
        | .ok l s => .ok (ls ++ [(l, p.2)]) s
        | .fault f s => .fault f s
        | .stall s => .stall s)
      | r => r) r).KeepsApart s := by
    intro l
    induction l with
    | nil => exact fun _ h => h
    | cons p l ih =>
      intro r h
      refine ih _ ?_
      cases r with
      | fault f t => exact h
      | stall t => exact h
      | ok ls t =>
        have hr := t.keepsApart_reach die c p.1 p.2 need
        dsimp only
        split
        · rename_i e; rw [e] at hr; exact State.KeepsApart.trans h hr
        · rename_i e; rw [e] at hr; exact State.KeepsApart.trans h hr
        · trivial
  exact step _ _ (.refl s)

theorem keepsApart_target (s : State) (die src region off n perm : Nat) (need : Need) :
    (s.target die src region off n perm need).KeepsApart s := by
  unfold target
  split
  · exact .refl s
  · rename_i c va _
    split
    · exact .refl s
    · have hr := s.keepsApart_reachAll die c va n need
      split
      · trivial
      · rename_i e
        rw [e] at hr
        split <;> exact hr
      · rename_i e
        rw [e] at hr
        split
        · exact hr
        · trivial

theorem keepsApart_gate {s : State} {die : Nat} {r : RemoteReq} {x : Target} (h : s.gate die r = some x) :
    x.KeepsApart s := by
  unfold gate at h
  dsimp only at h
  split at h
  · cases h
  · cases h
  · cases h
    exact keepsApart_target ..

end State

end Sys2Proof.Machine
end

section
/-! CLAIM. Remote requests that are stale or repeated (R384, R385). -/

namespace Sys2Proof.Machine

/-- The kinds of request whose results the owner keeps (R384). -/
def keepsResult : ReqKind → Bool
  | .load | .slotRelease | .retirement => false
  | _ => true

/-- What the owner does with a request that its checks let pass. -/
def State.letPass (s : State) (die : Nat) (r : RemoteReq) : Served :=
  match (if keepsResult r.kind then s.cached r.key else none) with
  | some e =>
    if e.isDone then (if r.kind = .putfData then .silent s else .reply (.duplicate e.value e.poison) s)
    else s.performRemote die r
  | none =>
    if keepsResult r.kind && s.tableFull die (r.kind == .write || r.kind == .putfData || r.kind == .putfFlag) then .reply .busy s
    else s.performRemote die r

/-- A request of the newest incarnation known of its rank. -/
theorem State.serve_known {s : State} {r : RemoteReq} (hrank : r.target = s.ownRank) (hinc : r.tIncarn = s.incarn)
    (hnew : lookupKey r.key.rank s.link.newest = some r.key.incarn) :
    s.serve r =
      let t := s.modLink fun l => { l with newest := insertKey r.key.rank r.key.incarn l.newest }
      let die := t.inboundDie r
      match t.gate die r with
      | some (.no (.reply a u)) => .reply a u
      | some (.no (.wait u)) => .wait u
      | some (.no (.park _ _ u)) => u.letPass die r
      | some (.ok _ _ _ u) => u.letPass die r
      | _ => t.letPass die r := by
  rw [serve, if_neg (by simp [hrank, hinc]), hnew]
  simp only [Option.any_some, Nat.lt_irrefl, decide_false, Bool.false_eq_true, if_false]
  rfl

theorem State.letPass_done {s : State} {die : Nat} {r : RemoteReq} {e : CacheEntry} (hload : r.kind ≠ .load)
    (hrel : r.kind ≠ .slotRelease) (hret : r.kind ≠ .retirement) (hdata : r.kind ≠ .putfData)
    (he : s.cached r.key = some e) (hdone : e.isDone = true) :
    s.letPass die r = .reply (.duplicate e.value e.poison) s := by
  have hkept : keepsResult r.kind = true := by
    revert hload hrel hret
    cases r.kind <;> simp [keepsResult]
  rw [letPass, hkept, if_pos rfl, he]
  exact (if_pos hdone).trans (if_neg hdata)

/-- Settles O37: a stale request never comes to the checks; a repeated one finds its entry in the cache that the checks
leave as it was. -/
theorem remoteEffectsLandOnce : Obligations.RemoteEffectsLandOnce := by
  unfold Obligations.RemoteEffectsLandOnce
  intro s r
  refine ⟨fun h => ?_, ?_, ?_⟩
  · rw [State.serve]
    exact if_pos (by simpa using h)
  · intro e hrank hinc hnew he hdone hload hrel hret hdata t checked
    have hserve := State.serve_known hrank hinc hnew
    change s.serve r = match checked with
      | some (.no (.reply a u)) => .reply a u
      | some (.no (.wait u)) => .wait u
      | some (.no (.park _ _ u)) => u.letPass (t.inboundDie r) r
      | some (.ok _ _ _ u) => u.letPass (t.inboundDie r) r
      | _ => t.letPass (t.inboundDie r) r at hserve
    have hpass {u : State} (hu : t.KeepsApart u) : u.letPass (t.inboundDie r) r = .reply (.duplicate e.value e.poison) u ∧
        u.link.cache = s.link.cache ∧ u.waves = s.waves ∧ u.host = s.host ∧ u.blocks = s.blocks := by
      refine ⟨State.letPass_done hload hrel hret hdata ?_ hdone, by rw [hu.link]; rfl, hu.waves, hu.host, hu.blocks⟩
      rw [State.cached, hu.link]
      exact he
    refine ⟨fun a u hc => ?_, fun u hc => ?_, fun u hc => ?_⟩
    · rw [hserve, hc]
    · rw [hserve, hc]
    · rw [hserve]
      obtain ⟨hc, rfl⟩ | ⟨c, a, hc⟩ | ⟨c, a, ls, hc⟩ := hc
      · rw [hc]
        exact hpass (.refl t)
      · rw [hc]
        exact hpass (State.keepsApart_gate hc)
      · rw [hc]
        exact hpass (State.keepsApart_gate hc)
  · intro n hn hlt
    rw [State.serve, hn]
    exact ite_eq_left_iff.2 fun _ => if_pos (by simpa using hlt)

end Sys2Proof.Machine
end


section
/-! SUPPORT. What a write makes a home re-evaluate in memory changes no wave and no clock (R273, R344, R347). -/

namespace Sys2Proof.Machine

/-- The waves and the clock stand as they were. -/
structure State.SameWaves (s t : State) : Prop where
  waves : t.waves = s.waves
  clk : t.clk = s.clk

namespace State.SameWaves

theorem refl (s : State) : s.SameWaves s := ⟨rfl, rfl⟩

theorem trans {s t u : State} (h : s.SameWaves t) (k : t.SameWaves u) : s.SameWaves u :=
  ⟨k.waves.trans h.waves, k.clk.trans h.clk⟩

theorem foldl {β : Type} {f : State → β → State} (h : ∀ (s : State) x, s.SameWaves (f s x)) (l : List β) (s : State) :
    s.SameWaves (l.foldl f s) := by
  induction l generalizing s with
  | nil => exact refl s
  | cons x l ih => exact (h s x).trans (ih _)

end State.SameWaves

namespace State

theorem sameWaves_setNatAt (s : State) (l : Loc) (n v : Nat) : s.SameWaves (s.setNatAt l n v) := by
  obtain ⟨sp, a⟩ := l
  cases sp <;> exact ⟨rfl, rfl⟩

theorem sameWaves_meetErrors (s : State) (l : Loc) (n : Nat) : s.SameWaves (s.meetErrors l n) := by
  obtain ⟨_, _, _, _, h⟩ := s.errorsMet_meetErrors l n
  rw [h]
  exact ⟨rfl, rfl⟩

theorem sameWaves_countBytes (s : State) (c : Option (Loc × Nat)) (n : Nat) : s.SameWaves (s.countBytes c n) := by
  cases c with
  | none => exact .refl s
  | some c => exact (s.sameWaves_meetErrors c.1 8).trans (sameWaves_setNatAt _ _ _ _)

theorem sameWaves_applyHeldKeys (cell : Loc) (n : Nat) : ∀ s : State, s.SameWaves (s.applyHeldKeys cell n) := by
  induction n with
  | zero => exact fun s => .refl s
  | succ n ih =>
    intro s
    rw [applyHeldKeys]
    split
    · exact .refl s
    · rename_i k _
      have hdrop : s.SameWaves (s.modHomes fun h => { h with keys := h.keys.filter fun j => !(j.loc == cell && j.key == k.key) }) :=
        ⟨rfl, rfl⟩
      exact (((hdrop.trans (sameWaves_setNatAt _ _ _ _)).trans (sameWaves_setNatAt _ _ _ _)).trans
        (sameWaves_countBytes _ _ _)).trans (ih _)

theorem sameWaves_recheckKeys (s : State) (line : Loc) : s.SameWaves (s.recheckKeys line) := by
  unfold recheckKeys
  refine .foldl (fun s cell => ?_) _ s
  refine SameWaves.trans ?_ (sameWaves_applyHeldKeys cell 4097 _)
  exact (SameWaves.foldl (fun s k => (s.sameWaves_setNatAt _ 4 _).trans (sameWaves_countBytes _ _ 0)) _ s).trans ⟨rfl, rfl⟩

theorem sameWaves_completeCell (s : State) (cell : Loc) : s.SameWaves (s.completeCell cell) := by
  unfold completeCell
  dsimp only
  split
  · exact .refl s
  · split
    · exact SameWaves.trans (t := s.draw.2) ⟨rfl, rfl⟩ (sameWaves_setNatAt _ _ _ _)
    · exact (s.sameWaves_setNatAt _ _ _).trans (sameWaves_setNatAt _ _ _ _)

theorem sameWaves_afterWrite (s : State) (l : Loc) : s.SameWaves (s.afterWrite l) :=
  (s.sameWaves_recheckKeys l.line).trans (.foldl sameWaves_completeCell _ _)

theorem sameWaves_takeBack (s : State) (hs : List Held) : s.SameWaves (s.takeBack hs) := by
  refine .foldl (fun s h => ?_) hs s
  split
  · exact (s.sameWaves_setNatAt _ _ _).trans (sameWaves_afterWrite _ _)
  · exact .refl s

theorem sameWaves_count (s : State) (die i : Nat) : s.SameWaves (s.count die i) := ⟨rfl, rfl⟩

theorem sameWaves_discardMsgs (s : State) (w : Wave) (no : Nat) : s.SameWaves (s.discardMsgs w no) := ⟨rfl, rfl⟩

@[simp] theorem settleActive_waves (s : State) (v w : Wave) : (s.settleActive v w).waves = s.waves := by
  unfold settleActive
  dsimp only
  split <;> rfl

end State

end Sys2Proof.Machine
end

section
/-! CLAIM. Strike rollback and the release of held effects (R418 to R424). -/

namespace Sys2Proof.Machine

/-- What a restored wave has of its checkpoint. -/
structure Wave.At (w : Wave) (k : Checkpoint) : Prop where
  sregs : w.sregs = k.sregs
  preds : w.preds = k.preds
  modes : w.modes = k.modes
  live : w.live = k.live
  seq : w.seq = k.seq
  pcs : w.splits.map (·.pc) = k.splits.map (·.pc)
  masks : w.splits.map (·.mask) = k.splits.map (·.mask)
  st : w.st = if k.solo then .solo else .resident

/-- A property of a wave that each step of a fold keeps. -/
theorem Wave.foldl_keeps {β : Type} {P : Wave → Prop} {f : Wave → β → Wave} (h : ∀ w x, P w → P (f w x)) (l : List β) {w : Wave}
    (hw : P w) : P (l.foldl f w) := by
  induction l generalizing w with
  | nil => exact hw
  | cons x l ih => exact ih (h w x hw)

theorem Wave.undoFrom_held (w : Wave) (k : Checkpoint) : (w.undoFrom k).held = w.held ∧ (w.undoFrom k).id = w.id := by
  unfold Wave.undoFrom
  refine Wave.foldl_keeps (P := fun v => v.held = w.held ∧ v.id = w.id) (fun v c hv => ?_) _ ⟨rfl, rfl⟩
  refine Wave.foldl_keeps (P := fun v => v.held = w.held ∧ v.id = w.id) (fun v u h => ?_) _
    (Wave.foldl_keeps (P := fun v => v.held = w.held ∧ v.id = w.id) (fun v u h => ?_) _ hv)
  · exact h
  · exact h

theorem Wave.preImage_at {w : Wave} {k : Checkpoint} (h : w.At k) (a row : Nat) : (w.preImage a row).At k := by
  unfold Wave.preImage
  split
  · split
    · exact h
    · exact ⟨h.sregs, h.preds, h.modes, h.live, h.seq, h.pcs, h.masks, h.st⟩
  · exact h

theorem Wave.preImage_held (w : Wave) (a row : Nat) : (w.preImage a row).held = w.held ∧ (w.preImage a row).id = w.id := by
  unfold Wave.preImage
  split
  · split <;> exact ⟨rfl, rfl⟩
  · exact ⟨rfl, rfl⟩

theorem Wave.redoFrom_at {w : Wave} {k : Checkpoint} (c : Checkpoint) (h : w.At k) : (w.redoFrom c).At k := by
  refine Wave.foldl_keeps (P := (Wave.At · k)) (fun w x h => ?_) _ ⟨h.sregs, h.preds, h.modes, h.live, h.seq, h.pcs, h.masks, h.st⟩
  have hp := Wave.preImage_at h x.acc x.row
  exact ⟨hp.sregs, hp.preds, hp.modes, hp.live, hp.seq, hp.pcs, hp.masks, hp.st⟩

theorem Wave.redoFrom_held (w : Wave) (c : Checkpoint) : (w.redoFrom c).held = w.held ∧ (w.redoFrom c).id = w.id := by
  refine Wave.foldl_keeps (P := fun v => v.held = w.held ∧ v.id = w.id) (fun v x h => ?_) _ ⟨rfl, rfl⟩
  have hp := v.preImage_held x.acc x.row
  exact ⟨hp.1.trans h.1, hp.2.trans h.2⟩

theorem Wave.restore_at (w : Wave) (k : Checkpoint) (clk : Nat) : (w.restore k clk).At k := by
  refine Wave.redoFrom_at k ⟨rfl, rfl, rfl, rfl, rfl, ?_, ?_, rfl⟩ <;> exact List.map_map

theorem Wave.restore_held (w : Wave) (k : Checkpoint) (clk : Nat) :
    (w.restore k clk).held = w.held ∧ (w.restore k clk).id = w.id := by
  have hu := w.undoFrom_held k
  exact ⟨(Wave.redoFrom_held _ k).1.trans hu.1, (Wave.redoFrom_held _ k).2.trans hu.2⟩

theorem State.wave?_putWave_same {s : State} {v w : Wave} (h : s.wave? v.id = some w) : (s.putWave v).wave? v.id = some v := by
  have hput : ∀ l : List Wave, l.find? (·.id == v.id) = some w →
      (l.map fun x => if x.id == v.id then v else x).find? (·.id == v.id) = some v := by
    intro l
    induction l with
    | nil => exact fun h => nomatch h
    | cons x l ih =>
      intro h
      rw [List.map_cons]
      by_cases hx : (x.id == v.id) = true
      · rw [if_pos hx, List.find?_cons_of_pos (by simp)]
      · rw [if_neg hx, List.find?_cons_of_neg (by simpa using hx)]
        exact ih ((List.find?_cons_of_neg (p := fun x : Wave => x.id == v.id) hx).symm.trans h)
  exact hput s.waves h

/-- The wave a rollback makes of what it has discarded and restored. -/
def Wave.rolledBack (w : Wave) (k : Checkpoint) (clk : Nat) (stopping : Bool) : Wave :=
  let v := w.dueAgain ((w.discardAfter k.no clk).restore k clk) k
  { v with stopping := stopping, onCore := true }

theorem Wave.rolledBack_at (w : Wave) (k : Checkpoint) (clk : Nat) (stopping : Bool) : (w.rolledBack k clk stopping).At k := by
  have h := (w.discardAfter k.no clk).restore_at k clk
  exact ⟨h.sregs, h.preds, h.modes, h.live, h.seq, h.pcs, h.masks, h.st⟩

theorem Wave.rolledBack_id (w : Wave) (k : Checkpoint) (clk : Nat) (stopping : Bool) : (w.rolledBack k clk stopping).id = w.id :=
  ((w.discardAfter k.no clk).restore_held k clk).2

theorem Wave.mem_rolledBack_held {w : Wave} {k : Checkpoint} {clk : Nat} {stopping : Bool} {h : Held}
    (hh : h ∈ (w.rolledBack k clk stopping).held) : h ∈ w.held ∧ (h.no ≤ k.no ∨ h.clk + 128 ≤ clk) := by
  have hrest : h ∈ ((w.discardAfter k.no clk).restore k clk).held := (List.mem_filter.1 hh).1
  rw [((w.discardAfter k.no clk).restore_held k clk).1] at hrest
  obtain ⟨hmem, hkeep⟩ := List.mem_filter.1 hrest
  simp only [Bool.or_eq_true, Bool.and_eq_true, decide_eq_true_eq] at hkeep
  exact ⟨hmem, hkeep.imp_right (·.1)⟩

/-- The waves and the clock of the state into which a rollback puts the wave are those of before it. -/
theorem State.rollback_eq {s : State} {w : Wave} {k : Checkpoint} (hw : s.wave? w.id = some w) (hk : w.target s.clk = some k) :
    ∃ t, s.SameWaves t ∧ s.rollback w.id =
      (t.putWave (w.rolledBack k s.clk (w.stopping || t.mustLeave w))).settleActive w
        (w.rolledBack k s.clk (w.stopping || t.mustLeave w)) := by
  obtain ⟨t, ht⟩ : ∃ t, t = ((s.count (State.dieOf w.core) 1).takeBack
    (w.held.filter fun h => decide (k.no < h.no ∧ s.clk < h.clk + 128))).discardMsgs w k.no := ⟨_, rfl⟩
  have hs : s.SameWaves t := ht ▸ ((s.sameWaves_count _ 1).trans (State.sameWaves_takeBack _ _)).trans
    (State.sameWaves_discardMsgs _ w k.no)
  have hroll : s.rollback w.id = (t.putWave (w.rolledBack k t.clk (w.stopping || t.mustLeave w))).settleActive w
      (w.rolledBack k t.clk (w.stopping || t.mustLeave w)) := by
    rw [State.rollback, hw]
    dsimp only
    rw [hk, ht]
    rfl
  exact ⟨t, hs, hs.clk ▸ hroll⟩

theorem State.rollback_at {s : State} {w : Wave} {k : Checkpoint} (hw : s.wave? w.id = some w) (hk : w.target s.clk = some k) :
    ∃ v, (s.rollback w.id).wave? w.id = some v ∧ v.At k ∧ ∀ h ∈ v.held, h ∈ w.held ∧ (h.no ≤ k.no ∨ h.clk + 128 ≤ s.clk) := by
  obtain ⟨t, hs, hroll⟩ := State.rollback_eq hw hk
  generalize (w.stopping || t.mustLeave w) = stopping at hroll
  refine ⟨w.rolledBack k s.clk stopping, ?_, w.rolledBack_at .., fun h => Wave.mem_rolledBack_held⟩
  have ht : t.wave? (w.rolledBack k s.clk stopping).id = some w := by
    rw [w.rolledBack_id, State.wave?, hs.waves]
    exact hw
  have hput := State.wave?_putWave_same ht
  rw [w.rolledBack_id, State.wave?] at hput
  rw [hroll, State.wave?, State.settleActive_waves]
  exact hput

/-- The end of a hold whose time has come. -/
theorem State.holdEnd_eq {s : State} {w : Wave} {h : Held} {rest : List Held} (hw : s.wave? w.id = some w)
    (hheld : w.held = h :: rest) (hclk : h.clk + 128 ≤ s.clk) (hread : w.unread h.uid = false) :
    exec (.outboundHoldEnd w.id) s = .next (match s.releaseEffect w h with
      | .wait s => s
      | .gone s =>
        let u := s.modWave w.id fun w => { w with held := w.held.drop 1 }
        ((if w.onCore && w.st != .ended then u else u.leaveCores w.ctx).settleOp w.id h.uid).poll) := by
  change execOutboundHoldEnd w.id s = _
  rw [execOutboundHoldEnd, hw]
  dsimp only
  rw [hheld]
  exact congrArg Host.Outcome.next (if_neg (by simp [hread]; omega))

/-- Settles O46: the wave that a rollback puts back is the checkpoint's but for its held effects; the end of a hold is what
the release of the effect comes to. -/
theorem strikeAndHoldResults : Obligations.StrikeAndHoldResults := by
  unfold Obligations.StrikeAndHoldResults
  refine ⟨fun s quad => ⟨fun h => ?_, fun hq hon => ?_, fun w k hw hk => ?_, fun w => ?_⟩, fun s w h rest hw hheld => ⟨fun hwait => ?_,
    fun hclk hread => ⟨fun t ht => ?_, fun t ht => ⟨fun hon => ?_, fun hoff => ?_⟩⟩⟩⟩
  · change execStrikeReport quad s = _
    exact congrArg Host.Outcome.next (if_pos (by simpa using h))
  · change execStrikeReport quad s = _
    exact congrArg Host.Outcome.next (if_neg (by simp [hon]; omega))
  · obtain ⟨v, hv, hat, hheld⟩ := State.rollback_at hw hk
    exact ⟨v, hv, hat.sregs, hat.preds, hat.modes, hat.live, hat.seq, hat.pcs, hat.st, hat.masks, hheld⟩
  · unfold Wave.target
    cases (w.ckpts.filter fun k => decide (k.clk + 128 ≤ s.clk)).getLast? <;> rfl
  · change execOutboundHoldEnd w.id s = _
    rw [execOutboundHoldEnd, hw]
    dsimp only
    rw [hheld]
    exact congrArg Host.Outcome.next (if_pos (by simpa using hwait))
  · rw [State.holdEnd_eq hw hheld hclk hread, ht]
  · rw [State.holdEnd_eq hw hheld hclk hread, ht]
    exact congrArg (fun u : State => Host.Outcome.next (u.settleOp w.id h.uid).poll) (if_pos (by simpa using hon))
  · rw [State.holdEnd_eq hw hheld hclk hread, ht]
    exact congrArg (fun u : State => Host.Outcome.next (u.settleOp w.id h.uid).poll) (if_neg (by simpa using hoff))

end Sys2Proof.Machine
end


section
/-! CLAIM. Raised splits, checkpoints, register returns and spilling (R131, R140, R141, R144, R145, R161). -/

namespace Sys2Proof.Machine

/-- Where one wave alone has an id, changing it is putting the changed one in its place. -/
theorem State.modWave_eq_putWave {s : State} {w : Wave} (huniq : ∀ v ∈ s.waves, v.id = w.id → v = w) {f : Wave → Wave}
    (hid : (f w).id = w.id) : s.modWave w.id f = s.putWave (f w) := by
  refine congrArg (fun l => { s with waves := l }) (List.map_congr_left fun v hv => ?_)
  rw [hid]
  by_cases h : v.id = w.id
  · rw [if_pos (beq_iff_eq.2 h), if_pos (beq_iff_eq.2 h), huniq v hv h]
  · rw [if_neg (by simpa using h), if_neg (by simpa using h)]

theorem Wave.split?_modSplit {w : Wave} {p : Split} (hp : w.split? p.slot = some p) {f : Split → Split}
    (hf : ∀ q, (f q).slot = q.slot) : (w.modSplit p.slot f).split? p.slot = some (f p) := by
  have hfind : ((fun q : Split => q.slot == p.slot) ∘ fun q => if q.slot == p.slot then f q else q) = fun q => q.slot == p.slot := by
    funext q
    simp only [Function.comp_apply]
    split
    · rw [hf]
    · rfl
  change (w.splits.map _).find? _ = _
  rw [List.find?_map, hfind, show w.splits.find? (·.slot == p.slot) = some p from hp]
  simp

/-- One step of a fold that keeps whatever is more than what it has. -/
def keepMore {α : Type} (r : α → α → Prop) [DecidableRel r] : Option α → α → Option α
  | none, u => some u
  | some v, u => if r u v then some u else some v

theorem keepMore_before {α : Type} {r : α → α → Prop} [DecidableRel r] {w : α} (l : List α) : ∀ b : Option α,
    (∀ u ∈ l, r w u) → (∀ v, b = some v → r w v) → ∀ v, l.foldl (keepMore r) b = some v → r w v := by
  induction l with
  | nil => exact fun b _ hb => hb
  | cons x l ih =>
    intro b hl hb
    refine ih _ (fun u hu => hl u (List.mem_cons_of_mem x hu)) fun v hv => ?_
    cases b with
    | none => exact Option.some.inj hv ▸ hl x List.mem_cons_self
    | some y =>
      rw [keepMore] at hv
      split at hv
      · exact Option.some.inj hv ▸ hl x List.mem_cons_self
      · exact Option.some.inj hv ▸ hb y rfl

theorem keepMore_after {α : Type} {r : α → α → Prop} [DecidableRel r] {w : α} (l : List α) (hl : ∀ u ∈ l, ¬ r u w) :
    l.foldl (keepMore r) (some w) = some w := by
  induction l with
  | nil => rfl
  | cons x l ih =>
    rw [List.foldl_cons, keepMore, if_neg (hl x List.mem_cons_self)]
    exact ih fun u hu => hl u (List.mem_cons_of_mem x hu)

/-- What such a fold comes to: the one that is more than all before it, and than which none after it is more. -/
theorem foldl_most {α : Type} {r : α → α → Prop} [DecidableRel r] {w : α} {before after : List α} (hb : ∀ u ∈ before, r w u)
    (ha : ∀ u ∈ after, ¬ r u w) : (before ++ w :: after).foldl (keepMore r) none = some w := by
  have hat := keepMore_before before none hb fun v hv => nomatch hv
  rw [List.foldl_append, List.foldl_cons]
  generalize before.foldl (keepMore r) none = b at hat ⊢
  cases b with
  | none => exact keepMore_after after ha
  | some v =>
    rw [keepMore, if_pos (hat v rfl)]
    exact keepMore_after after ha

/-- A register that may return is free, cool and named by nothing. -/
theorem Wave.mayReturn_iff (w : Wave) (r : PhysReg) (clk : Nat) (h : w.mayReturn r clk = true) :
    (∃ c, r.freed = some c ∧ c + 128 ≤ clk) ∧ r.writer = 0 ∧ (∀ v ∈ w.windows, ∀ p ∈ v.map, p.2 ≠ r.id) ∧
      ∀ c ∈ w.ckpts, c.names r.id = false := by
  unfold Wave.mayReturn at h
  simp only [Bool.and_eq_true, Bool.not_eq_true', beq_iff_eq, List.any_eq_false, Bool.or_eq_true, not_or, Bool.not_eq_true] at h
  obtain ⟨⟨⟨⟨⟨⟨hcool, -⟩, hwriter⟩, hmaps⟩, -⟩, -⟩, hckpts⟩ := h
  refine ⟨?_, hwriter, fun v hv p hp => hmaps v hv p hp, fun c hc => (hckpts c hc).1⟩
  cases hf : r.freed with
  | none => rw [hf] at hcool; cases hcool
  | some c => rw [hf] at hcool; exact ⟨c, rfl, of_decide_eq_true hcool⟩

theorem Wave.dropCheckpoint_ckpts (w : Wave) (k : Checkpoint) (clk : Nat) :
    (w.dropCheckpoint k clk).ckpts = (w.ckpts.filter (·.id != k.id)).map fun c =>
      if ((w.ckpts.filter (·.id < k.id)).getLast?).any (·.id == c.id) then Wave.mergeUndo c k else c := by
  unfold Wave.dropCheckpoint
  dsimp only
  cases (w.ckpts.filter (·.id < k.id)).getLast? with
  | none => simp
  | some b =>
    refine List.map_congr_left fun c _ => ?_
    rw [Option.any_some, beq_eq_beq.2 ⟨Eq.symm, Eq.symm⟩]

/-- Freeing some of the registers leaves every lane's value. -/
theorem map_lanes_freed (l : List PhysReg) (p : PhysReg → Bool) (c : Option Nat) :
    (l.map fun r => if p r then { r with freed := c, deferred := true } else r).map (·.lanes) = l.map (·.lanes) := by
  rw [List.map_map]
  refine List.map_congr_left fun r _ => ?_
  rw [Function.comp_apply]
  split <;> rfl

theorem Wave.dropCheckpoint_lanes (w : Wave) (k : Checkpoint) (clk : Nat) :
    (w.dropCheckpoint k clk).regs.map (·.lanes) = w.regs.map (·.lanes) :=
  map_lanes_freed w.regs _ (some clk)

/-- The registers a wave has beyond its floor. -/
def Wave.borrowed (w : Wave) : Nat := w.heldRegs - w.decl.regfloor

/-- Every wave on a quadrant stands still for want of registers. -/
theorem stuck_iff {ws : List Wave} {s : State} : (!ws.isEmpty && ws.all fun w =>
      w.splits.any (s.allocStalled w) && !(w.splits.any (s.splitReady w))) = true ↔
    ws ≠ [] ∧ ∀ u ∈ ws, u.splits.any (s.allocStalled u) = true ∧ u.splits.any (s.splitReady u) = false := by
  simp only [Bool.and_eq_true, Bool.not_eq_true', List.isEmpty_eq_false_iff, List.all_eq_true]

/-- Settles O44: each piece of housekeeping is its arm with the guards open; the spill engine's wave is the one its fold
keeps. -/
theorem waveHousekeepingResults : Obligations.WaveHousekeepingResults := by
  unfold Obligations.WaveHousekeepingResults
  refine ⟨fun s w hw huniq => ⟨fun p c hp => ⟨fun hready hraised hclk => ?_, fun hyield hclk => ?_⟩, fun hck hon hst => ?_,
    fun k hk hentry hnewer => ?_, fun phys => ?_, fun r hr => w.mayReturn_iff r s.clk hr⟩, fun s => ⟨fun quad => ?_, fun w v hw hv => ?_⟩⟩
  · refine ⟨_, congrArg Host.Outcome.next (State.modWave_eq_putWave huniq rfl), ?_, rfl, rfl⟩
    rw [Wave.split?_modSplit hp (fun q => by
      split
      · split <;> rfl
      · rfl), hready, hraised]
    exact congrArg some (if_pos hclk)
  · refine ⟨_, congrArg Host.Outcome.next (State.modWave_eq_putWave huniq rfl), ?_, rfl, rfl⟩
    rw [Wave.split?_modSplit hp (fun q => by
      split
      · split <;> rfl
      · rfl), hyield]
    exact congrArg some (if_pos hclk)
  · have hdue : (decide (64 ≤ w.sinceCk) && w.onCore && (w.st == .resident || w.st == .solo)) = true := by simpa [hck, hon] using hst
    refine ⟨w.checkpoint s.clk false, congrArg Host.Outcome.next ?_, rfl, _, rfl, rfl, rfl, rfl, rfl, rfl, rfl, rfl, rfl, rfl, rfl⟩
    have hmod := State.modWave_eq_putWave huniq (f := fun w =>
      if 64 ≤ w.sinceCk && w.onCore && (w.st == .resident || w.st == .solo) then w.checkpoint s.clk false else w)
      (by rw [if_pos hdue]; rfl)
    rwa [if_pos hdue] at hmod
  · intro before
    have hretains : w.retains k s.clk = false := by simpa [Wave.retains, hentry] using hnewer
    refine ⟨w.dropCheckpoint k s.clk, congrArg Host.Outcome.next ?_, w.dropCheckpoint_ckpts k s.clk, rfl, rfl,
      w.dropCheckpoint_lanes k s.clk⟩
    have hmod := State.modWave_eq_putWave huniq (f := fun w => match w.ckpts.find? (·.id == k.id) with
      | some k => if w.retains k s.clk then w else w.dropCheckpoint k s.clk
      | none => w) (by rw [hk]; dsimp only; rw [hretains]; rfl)
    rw [hk] at hmod
    dsimp only at hmod
    rw [hretains] at hmod
    exact hmod
  · exact congrArg Host.Outcome.next (State.modWave_eq_putWave huniq rfl)
  · intro ws stuck can owed more
    have hborrow : (fun (b : Option Wave) w => match b with
        | none => some w
        | some v => if v.borrowed < w.borrowed ∨ (v.borrowed = w.borrowed ∧ w.age < v.age) then some w else b) =
        keepMore fun w v : Wave => v.borrowed < w.borrowed ∨ (v.borrowed = w.borrowed ∧ w.age < v.age) := by
      funext b w
      cases b <;> rfl
    have hyoung : (fun (b : Option Wave) w => match b with
        | none => some w
        | some v => if v.age < w.age then some w else b) = keepMore fun w v : Wave => v.age < w.age := by
      funext b w
      cases b <;> rfl
    have hstuck : ∀ {t : State}, stuck → (match can.foldl (keepMore fun w v : Wave => v.borrowed < w.borrowed ∨
          (v.borrowed = w.borrowed ∧ w.age < v.age)) none with
      | some w =>
        (match w.spillWindow with
          | none => s
          | some v => (s.writeSave w.ctx).putWave { w.modWindow v.id (fun v => { v with spilled := true }) with
              regs := w.regs.map fun r => if (w.spillable v).contains r.id then { r with spilled := true } else r })
      | none => match (ws.filter Wave.evictable).foldl (keepMore fun w v : Wave => v.age < w.age) none with
        | some w => s.putWave { w with stopping := true, reserve := true }
        | none => s) = t → exec (.spill quad) s = .next t := by
      intro t hs ht
      refine congrArg Host.Outcome.next ((if_neg (by rw [stuck_iff.2 hs]; decide)).trans ?_)
      rw [← hborrow, ← hyoung] at ht
      exact ht
    refine ⟨fun h => ?_, fun w v before after hs hcan hb ha hwin => ?_, fun w before after hs hcan hev hb ha => ?_,
      fun hs hcan hev => ?_⟩
    · exact congrArg Host.Outcome.next (if_pos (by rw [Bool.not_eq_true']; exact eq_false_of_ne_true fun h' => h (stuck_iff.1 h')))
    · refine hstuck hs ?_
      rw [hcan, foldl_most (fun u hu => (hb u hu).imp_right fun h => ⟨h.1.symm, h.2⟩)
        fun u hu h => ha u hu (h.imp_right fun h => ⟨h.1.symm, h.2⟩)]
      dsimp only
      rw [hwin]
    · refine hstuck hs ?_
      rw [hcan, hev, List.foldl_nil]
      dsimp only
      rw [foldl_most (r := fun w v : Wave => v.age < w.age) hb fun u hu => Nat.not_lt.2 (ha u hu)]
    · refine hstuck hs ?_
      rw [hcan, hev]
      rfl
  · intro rs back u
    refine ⟨fun hsp hpool => ?_, fun h => ?_⟩
    · change execSpillRefill w.id v.id s = _
      rw [execSpillRefill, hw]
      dsimp only
      rw [hv]
      exact congrArg Host.Outcome.next (if_neg (by rw [hsp]; exact ne_true_of_eq_false hpool))
    · change execSpillRefill w.id v.id s = _
      rw [execSpillRefill, hw]
      dsimp only
      rw [hv]
      exact congrArg Host.Outcome.next (if_pos (Bool.or_eq_true_iff.2 (h.imp_left (by simp [·]))))

end Sys2Proof.Machine
end


section
/-! CLAIM. Traps due, saving, restoring and the end of a wave (R95 to R99, R102, R123, R137, R423, R451). -/

namespace Sys2Proof.Machine

/-! A trap that falls due. -/

/-- A due trap, by what its wave is. -/
theorem State.takeDue_eq {s : State} {w : Wave} {r : Raised} {st : WaveState} (hw : s.wave? w.id = some w)
    (hr : (sortBy (·.no) w.due).find? w.dueNow = some r) : w.st = st →
    s.takeDue w.id =
      let left : Wave := { w with due := w.due.erase r }
      let pend : Wave := { left with
        pended := left.pended ++ [r], sys := { left.sys with pend := BitVec.ofNat 64 (pendWord r) } }
      let take : State := match w.trapSplit r.trap.lanes with
        | some p => (s.putWave left).takeTrap w.id p.slot { r with epc := p.pc }
        | none => s
      match st with
      | .exited =>
        let s := if r.trap.cause = .poison then s.count (State.dieOf w.core) 8 else s
        let left := left.take r true
        let s := s.putWave (if w.told.contains r.no then left else { left with
          held := left.held ++ [⟨r.no, r.clk, 0, .record (trapRecord w r 18).pack false 3, none⟩] })
        if r.trap.cause = .poison then s.killGang w.ctx w.tag w.gang else s
      | .resident => take
      | .solo => if w.service || !w.dueOld r then take else s.putWave pend
      | .held => s.putWave pend
      | _ => s := by
  rintro rfl
  rw [takeDue, hw]
  dsimp only
  rw [hr] <;> rfl

/-- The waves are those of before a decision has read the contexts table. -/
theorem State.tableRead_waves (s : State) (cs : List Nat) (h : (s.tableRead cs).1 = true) :
    (s.tableRead cs).2.waves = s.waves := by
  unfold State.tableRead at h ⊢
  dsimp only at h ⊢
  split at h
  · cases h
  · exact State.foldl_waves _ (fun _ _ => State.meetErrors_waves _ _ _) _ _

/-! A wave that leaves, and one that comes back. -/

/-- The registers, the scalars, the predicates and the mode words hold what they did. -/
structure Wave.SameRegs (v w : Wave) : Prop where
  lanes : v.regs.map (·.lanes) = w.regs.map (·.lanes)
  sregs : v.sregs = w.sregs
  preds : v.preds = w.preds
  modes : v.modes = w.modes

theorem Wave.SameRegs.trans {u v w : Wave} (h : u.SameRegs v) (k : v.SameRegs w) : u.SameRegs w :=
  ⟨h.lanes.trans k.lanes, h.sregs.trans k.sregs, h.preds.trans k.preds, h.modes.trans k.modes⟩

theorem Wave.SameRegs.foldl {β : Type} {f : Wave → β → Wave} (h : ∀ w x, (f w x).SameRegs w) (l : List β) (w : Wave) :
    (l.foldl f w).SameRegs w := by
  induction l generalizing w with
  | nil => exact ⟨rfl, rfl, rfl, rfl⟩
  | cons x l ih => exact (ih _).trans (h w x)

/-- A change of registers that touches no lane. -/
theorem map_lanes_eq {l : List PhysReg} {f : PhysReg → PhysReg} (hf : ∀ r, (f r).lanes = r.lanes) :
    (l.map f).map (·.lanes) = l.map (·.lanes) := by
  rw [List.map_map]
  exact List.map_congr_left fun r _ => hf r

theorem Wave.sameRegs_dropCheckpoint (w : Wave) (k : Checkpoint) (clk : Nat) : (w.dropCheckpoint k clk).SameRegs w :=
  ⟨w.dropCheckpoint_lanes k clk, rfl, rfl, rfl⟩

theorem Wave.sameRegs_finishOp (w : Wave) (uid clk : Nat) : (w.finishOp uid clk).SameRegs w :=
  ⟨map_lanes_eq fun r => by split <;> rfl, rfl, rfl, rfl⟩

theorem Wave.sameRegs_leaveWaits (w : Wave) (clk : Nat) : (w.leaveWaits clk).SameRegs w :=
  (Wave.SameRegs.foldl (fun w u => w.sameRegs_finishOp u clk) _ _).trans ⟨rfl, rfl, rfl, rfl⟩

theorem Wave.sameRegs_impliedEntry (w : Wave) (clk : Nat) : (w.impliedEntry clk).SameRegs w :=
  ⟨map_lanes_eq fun r => by split <;> rfl, rfl, rfl, rfl⟩

theorem Wave.sameRegs_leaveJournal (w : Wave) (clk : Nat) : (w.leaveJournal clk).SameRegs w := by
  unfold Wave.leaveJournal
  split
  · exact ⟨rfl, rfl, rfl, rfl⟩
  · exact (Wave.SameRegs.foldl (fun w k => w.sameRegs_dropCheckpoint k clk) _ _).trans (w.sameRegs_impliedEntry clk)

theorem Wave.sameRegs_checkpoint (w : Wave) (clk : Nat) (entry : Bool) : (w.checkpoint clk entry).SameRegs w := ⟨rfl, rfl, rfl, rfl⟩

/-- A wave put on a quadrant again, before it takes its checkpoint. -/
def Wave.replaced (w : Wave) (core clk : Nat) : Wave :=
  { w with
    st := if w.st == .held then .held else .resident, onCore := true, core, quad := quadOf core w.wid, stopping := false
    regs := w.regs.map fun r => { r with spilled := w.windows.any fun v => v.spilled && v.map.any (·.2 == r.id) }
    splits := w.splits.map (·.renew clk) }

theorem Wave.restored_eq (w : Wave) (core clk : Nat) : w.restored core clk =
    if ((w.leaveWaits clk).replaced core clk).st == .held then (w.leaveWaits clk).replaced core clk
    else ((w.leaveWaits clk).replaced core clk).checkpoint clk false := rfl

/-- A wave that comes back is on the core, with its registers as they were. -/
theorem Wave.restored_spec (w : Wave) (core clk : Nat) :
    (w.restored core clk).onCore = true ∧ (w.restored core clk).core = core ∧ (w.restored core clk).SameRegs w := by
  have hback : Wave.SameRegs ((w.leaveWaits clk).replaced core clk) (w.leaveWaits clk) := ⟨map_lanes_eq fun _ => rfl, rfl, rfl, rfl⟩
  have hsame := hback.trans (w.sameRegs_leaveWaits clk)
  rw [Wave.restored_eq]
  split
  · exact ⟨rfl, rfl, hsame⟩
  · exact ⟨rfl, rfl, (Wave.sameRegs_checkpoint _ clk false).trans hsame⟩

/-- Leaving the quadrant changes no register's lanes, spilled or not. -/
theorem Wave.sameRegs_left (w : Wave) (st : WaveState) (keep : Bool) :
    Wave.SameRegs { w with
      st := st, onCore := keep, stopping := false, reserve := false, yielded := false
      regs := if keep then w.regs.map (fun r => { r with spilled := true }) else w.regs } w := by
  cases keep with
  | false => exact ⟨rfl, rfl, rfl, rfl⟩
  | true => exact ⟨map_lanes_eq (f := fun r => { r with spilled := true }) fun _ => rfl, rfl, rfl, rfl⟩

/-- Settles O45: each arm with its guards open. -/
theorem waveLifeResults : Obligations.WaveLifeResults := by
  unfold Obligations.WaveLifeResults
  refine ⟨fun s w hw => ⟨fun hnone => ?_, fun r hr => ?_, fun die hfind => ⟨fun a c rest hq hev => ?_, fun h => ?_⟩⟩,
    fun s w hw => ⟨fun hready => ?_, fun hready => ?_, fun core t ht => ?_, fun core s' hs' hcore haway hplace hhome hfits => ?_,
      fun hover => ?_, fun hover => ?_⟩⟩
  · change Host.Outcome.next (s.takeDue w.id) = _
    rw [State.takeDue, hw]
    dsimp only
    rw [hnone]
  · intro left word pend taken old taken'
    change (∀ p, _ → _ → Host.Outcome.next (s.takeDue w.id) = _) ∧ (∀ p, _ → _ → _ → Host.Outcome.next (s.takeDue w.id) = _) ∧
      (_ → _ → _ → Host.Outcome.next (s.takeDue w.id) = _) ∧ (_ → Host.Outcome.next (s.takeDue w.id) = _) ∧
      (_ → (_ → Host.Outcome.next (s.takeDue w.id) = _) ∧ (_ → Host.Outcome.next (s.takeDue w.id) = _))
    refine ⟨fun p hst hp => ?_, fun p hst hold hp => ?_, fun hst hserv hold => ?_, fun hst => ?_, fun hst => ⟨fun hc => ?_, fun hc => ?_⟩⟩
    · rw [State.takeDue_eq hw hr hst]
      dsimp only
      rw [hp]
    · rw [State.takeDue_eq hw hr hst]
      dsimp only
      rw [hp]
      exact congrArg Host.Outcome.next (if_pos (by rw [Bool.or_eq_true, Bool.not_eq_true']; exact hold))
    · rw [State.takeDue_eq hw hr hst]
      exact congrArg Host.Outcome.next (if_neg (by rw [hserv, show w.dueOld r = true from hold]; decide))
    · rw [State.takeDue_eq hw hr hst]
      rfl
    · rw [State.takeDue_eq hw hr hst]
      dsimp only
      rw [if_neg hc, if_neg hc]
      cases htold : w.told.contains r.no <;> rfl
    · rw [State.takeDue_eq hw hr hst]
      dsimp only
      rw [if_pos hc, if_pos hc]
      cases htold : w.told.contains r.no <;> rfl
  · change execServiceEventDispatch die s = _
    rw [execServiceEventDispatch, hfind, hq]
    exact congrArg Host.Outcome.next (if_neg (by simp [hev]))
  · change execServiceEventDispatch die s = _
    rw [execServiceEventDispatch, hfind]
    obtain hq | hev := h
    · rw [hq]
      rfl
    · cases s.dev.eventQ.getD die [] with
      | nil => rfl
      | cons e rest => exact congrArg Host.Outcome.next (if_pos hev)
  · change execWaveSaveComplete w.id s = _
    rw [execWaveSaveComplete, hw]
    exact congrArg Host.Outcome.next (if_pos (by simp [hready]))
  · intro t out u keep left v z z'
    have hsame : v.SameRegs w := (Wave.sameRegs_left left _ keep).trans (w.sameRegs_leaveJournal u.clk)
    refine ⟨fun hout => ?_, fun hout => ?_, hsame.lanes, hsame.sregs, hsame.preds, hsame.modes⟩
    · change execWaveSaveComplete w.id s = _
      rw [execWaveSaveComplete, hw]
      exact congrArg Host.Outcome.next ((if_neg (by simp [hready])).trans (if_pos hout))
    · change execWaveSaveComplete w.id s = _
      rw [execWaveSaveComplete, hw]
      exact congrArg Host.Outcome.next ((if_neg (by simp [hready])).trans (if_neg (ne_true_of_eq_false hout)))
  · change Host.Outcome.next (s.deciding _) = _
    rw [State.deciding, ht]
  · intro above later t u
    obtain ⟨hon, hat, hsame⟩ := w.restored_spec core t.clk
    have hw' : s'.wave? w.id = some w := by
      have hread : s'.waves = s.waves := by
        have h := s.tableRead_waves (List.range 64)
        rw [hs'] at h
        exact h rfl
      rw [State.wave?, hread]
      exact hw
    have hexec : exec (.restoreWave w.id core (quadOf core w.wid)) s = .next (if above || (!(s'.urgent w) && later) then s'
        else ((u.modCore core fun c => { c with gated := false }).contextPlaced w.ctx (State.dieOf core)).poll) := by
      change Host.Outcome.next (s.deciding _) = _
      rw [State.deciding, hs']
      dsimp only
      rw [hw']
      dsimp only
      rw [if_neg (by simp [haway, hplace, hhome]; omega), if_pos hfits]
    refine ⟨fun h => ?_, fun habove h => ?_, hon, hat, hsame.sregs, hsame.preds, hsame.lanes⟩
    · rw [hexec, if_pos]
      obtain h | ⟨hl, hu⟩ := h
      · rw [h]; rfl
      · rw [hl, hu]; cases above <;> rfl
    · rw [hexec, if_neg]
      obtain hl | hu := h
      · rw [habove, hl]; cases s'.urgent w <;> decide
      · rw [habove, hu]; exact Bool.false_ne_true
  · change execWaveEnd w.id s = _
    rw [execWaveEnd, hw]
    exact congrArg Host.Outcome.next (if_pos (by simp [hover]))
  · refine ⟨fun hst => ?_, fun hst => ?_⟩
    · intro v t z
      change execWaveEnd w.id s = _
      rw [execWaveEnd, hw]
      dsimp only
      rw [if_neg (by simp [hover]), hst]
    · intro named
      have hend : exec (.waveEnd w.id) s = .next (if named then s else { s with waves := s.waves.filter (·.id != w.id) }) := by
        change execWaveEnd w.id s = _
        rw [execWaveEnd, hw]
        dsimp only
        rw [if_neg (by simp [hover]), hst]
      exact ⟨fun h => by rw [hend, h]; rfl, fun h => by rw [hend, h]; rfl⟩

end Sys2Proof.Machine
end


section
/-! CLAIM. Distribution, placement, stealing, slices, the budget and examinations (R91 to R93, R95, R116, R122, R124). -/

namespace Sys2Proof.Machine

/-- A place is changed alike by two functions that agree there. -/
theorem updAt_congr {α : Type} {i : Nat} {f g : α → α} (l : List α) (d : α) (h : f (l.getD i d) = g (l.getD i d)) :
    updAt i f l = updAt i g l := by
  induction l generalizing i with
  | nil => cases i <;> rfl
  | cons x l ih =>
    cases i with
    | zero => exact congrArg (· :: l) h
    | succ i => exact congrArg (x :: ·) (ih h)

theorem State.modCore_congr {s : State} {core : Nat} {f g : Core → Core} (h : f (s.core core) = g (s.core core)) :
    s.modCore core f = s.modCore core g :=
  congrArg (fun l => { s with cores := l }) (updAt_congr s.cores .fresh h)

theorem State.dieOf_eq {core : Nat} (h : core < 64) : State.dieOf core = core / 32 := by
  unfold State.dieOf
  split <;> omega

/-- The cores a launch may use stand in ascending order. -/
theorem State.eligibleCores_sorted (s : State) (die : Nat) (comm : Bool) : (s.eligibleCores die comm).Pairwise (· < ·) := by
  unfold State.eligibleCores natsFrom
  exact ((List.pairwise_lt_range).map _ fun _ _ h => by omega).filter _

/-- The lowest core whose load no other undercuts is the one a fold in ascending order keeps. -/
theorem foldl_least {load : Nat → Nat} {k : Nat} {l : List Nat} (hsorted : l.Pairwise (· < ·)) (hk : k ∈ l)
    (hleast : ∀ j ∈ l, load k ≤ load j ∧ (j < k → load k < load j)) :
    l.foldl (fun (b : Option Nat) k => match b with
      | none => some k
      | some j => if load k < load j then some k else some j) none = some k := by
  obtain ⟨before, after, rfl⟩ := List.append_of_mem hk
  have hfold : (fun (b : Option Nat) k => match b with
      | none => some k
      | some j => if load k < load j then some k else some j) = keepMore fun i j => load i < load j := by
    funext b j
    cases b <;> rfl
  rw [hfold]
  refine foldl_most (fun j hj => ?_) fun j hj => ?_
  · exact (hleast j (List.mem_append_left _ hj)).2 ((List.pairwise_append.1 hsorted).2.2 j hj k List.mem_cons_self)
  · exact Nat.not_lt.2 (hleast j (List.mem_append_right _ (List.mem_cons_of_mem k hj))).1

/-- Settles O48. -/
theorem schedulingResults : Obligations.SchedulingResults := by
  have hgoes : ∀ {s t : State} {c : Nat}, c ≠ 0 → (s.ctx c).saving = none → t.ctx c = s.ctx c →
      ((s.ctx c).st = .resident ∨ (s.ctx c).st = .partialSt) →
      (s.ctx c).placedAt + 2000 * (if (s.ctx c).slice = 0 then 2000 else (s.ctx c).slice) ≤ t.clk →
      ¬ (decide (c = 0) || !((t.ctx c).st == .resident || (t.ctx c).st == .partialSt) || (t.ctx c).saving.isSome ||
        decide (t.clk < (t.ctx c).placedAt + 2000 * (if (t.ctx c).slice = 0 then 2000 else (t.ctx c).slice))) = true := by
    intro s t c hc hsaving hctx hst hlate
    rw [hctx, decide_eq_false hc, decide_eq_false (Nat.not_lt.2 hlate), hsaving]
    simpa [or_iff_not_imp_left] using hst
  unfold Obligations.SchedulingResults
  refine ⟨fun s die c tag g l hdie hother => ⟨fun k hnext hl => ?_, fun hnext => ?_⟩, fun s core hcore => ⟨fun t ht => ?_,
    fun h t ht hh => ⟨fun hnow => ?_, fun hnow hplace hfits htakes => ?_⟩, fun e l run => ?_, fun e rest t hpend hwait hlate => ?_⟩,
    fun s c hc hsaving => ⟨fun t ht hctx hst hlate => ⟨fun hwant => ?_, fun hwant => ?_⟩, fun t ht => ?_, fun hruns hover => ?_,
      fun w hw hctx hserv hst hon => ⟨fun hcomm => ?_, fun hcomm => ?_, ?_⟩⟩,
    fun s c q hq hvalid => ?_⟩
  · intro load hk hleast
    change execDistributorTakeGang die s = _
    rw [execDistributorTakeGang, if_neg (by simpa [Nat.not_le.2 hdie] using hother), hnext]
    dsimp only
    rw [hl]
    dsimp only
    have hfold := foldl_least (s.eligibleCores_sorted die l.comm) hk hleast
    split
    · rename_i h
      cases hfold.symm.trans h
    · rename_i h
      obtain rfl := Option.some.inj (hfold.symm.trans h)
      rfl
  · change execDistributorTakeGang die s = _
    rw [execDistributorTakeGang, if_neg (by simpa [Nat.not_le.2 hdie] using hother), hnext]
  · change Host.Outcome.next (s.deciding _) = _
    rw [State.deciding, ht]
  · change Host.Outcome.next (s.deciding _) = _
    rw [State.deciding, ht]
    dsimp only
    rw [State.dieOf_eq hcore, hh]
    exact congrArg Host.Outcome.next (if_pos hnow)
  · change Host.Outcome.next (s.deciding _) = _
    rw [State.deciding, ht]
    dsimp only
    rw [State.dieOf_eq hcore, hh]
    exact congrArg Host.Outcome.next ((if_neg (ne_true_of_eq_false hnow)).trans (if_pos (by simpa [hplace, hfits] using htakes)))
  · intro below above victim hnone hsteal hlast hl hrun hruns
    change execSteal core s = _
    have hfrom : (s.core (if (s.core (core / 32 * 32 + (core + 1) % 32)).pending.length ≤
        (s.core (core / 32 * 32 + (core + 31) % 32)).pending.length then core / 32 * 32 + (core + 31) % 32
      else core / 32 * 32 + (core + 1) % 32)).pending.getLast? = some e := hlast
    have hfree : ¬ (decide (64 ≤ core) || !(s.core core).pending.isEmpty ||
        (s.core core).lastSteal.any (fun t => decide (s.clk < t + 64))) = true := by
      cases hlt : (s.core core).lastSteal with
      | none => simp [hnone, hcore]
      | some t => simpa [hnone, hcore] using hsteal t hlt
    rw [execSteal]
    refine congrArg Host.Outcome.next ((if_neg hfree).trans ?_)
    rw [hfrom]
    dsimp only
    rw [hl]
    dsimp only
    rw [hrun]
    exact if_neg (by simpa using hruns)
  · refine congrArg Host.Outcome.next (State.modCore_congr ?_)
    refine congrArg (fun l => { s.core core with pending := l }) ?_
    rw [hpend]
    exact congrArg (· :: rest) (if_pos (by simp [hwait, hlate]))
  · change Host.Outcome.next (s.deciding _) = _
    rw [State.deciding, ht]
    exact congrArg Host.Outcome.next ((if_neg (hgoes hc hsaving hctx hst hlate)).trans (if_pos hwant))
  · change Host.Outcome.next (s.deciding _) = _
    rw [State.deciding, ht]
    exact congrArg Host.Outcome.next ((if_neg (hgoes hc hsaving hctx hst hlate)).trans (if_neg (ne_true_of_eq_false hwant)))
  · change Host.Outcome.next (s.deciding _) = _
    rw [State.deciding, ht]
  · change execWaitBudgetExceeded c s = _
    rw [execWaitBudgetExceeded]
    exact congrArg Host.Outcome.next (if_neg (by simpa [hc, hsaving, hruns] using hover))
  · exact ⟨_, List.mem_map.2 ⟨w, hw, rfl⟩, by simp [hctx, hserv, hst, hon, hcomm]⟩
  · exact List.mem_map.2 ⟨w, hw, by simp [hctx, hserv, hcomm]⟩
  · exact ⟨_, List.mem_map.2 ⟨w, hw, rfl⟩, by simp [hctx, hserv, hst, hon]⟩
  · intro n turn hturn
    change execLaunchExamine c q s = _
    rw [execLaunchExamine]
    refine congrArg Host.Outcome.next (if_neg ?_)
    have hahead : ∀ k < n, turn k < turn q → ((s.ctx c).lqs.getD k .fresh).st = .running →
        ((s.ctx c).lqs.getD k .fresh).entry.isNone = false := by
      intro k hk hlt hrun
      obtain h | h := hturn k hk hlt
      · exact absurd hrun h
      · simpa using h
    simp only [Bool.or_eq_true, not_or, Bool.not_eq_true, decide_eq_false_iff_not, hvalid, Bool.not_true]
    refine ⟨⟨Nat.not_le.2 hq, List.any_eq_false.2 fun k hk => ?_⟩, trivial⟩
    simp only [Bool.and_eq_true, decide_eq_true_eq, beq_iff_eq, not_and]
    intro hlt
    exact ne_true_of_eq_false (hahead k (List.mem_range.1 hk) hlt.1 hlt.2)

end Sys2Proof.Machine
end


section
/-! CLAIM. Context and queue commands of the host (R83 to R90, R101, R106, R313, R314, R447). -/

namespace Sys2Proof.Machine

/-! A command that finds nothing in its way. -/

theorem State.ctx_saving (s : State) (c : Nat) : (s.ctx c).saving = (s.ctxs.getD c .free).saving := by
  unfold State.ctx
  dsimp only
  split <;> rfl

theorem State.saving_setEntry (s : State) (c off n v k : Nat) : ((s.setEntry c off n v).ctx k).saving = (s.ctx k).saving := by
  rw [State.ctx_saving, State.ctx_saving, State.setEntry_ctxs]

/-- A place beyond the list is not changed. -/
theorem updAt_outside {α : Type} {i : Nat} (f : α → α) (l : List α) (h : l.length ≤ i) : updAt i f l = l := by
  induction l generalizing i with
  | nil => cases i <;> rfl
  | cons x l ih =>
    cases i with
    | zero => exact absurd h (Nat.not_succ_le_zero _)
    | succ i => exact congrArg (x :: ·) (ih (Nat.le_of_succ_le_succ h))

theorem State.saving_setCtxState (s : State) (c : Nat) (st : CtxState) (h : (s.ctx c).saving = none) :
    ((s.setCtxState c st).ctx c).saving = none := by
  rw [State.ctx_saving] at h
  rw [State.ctx_saving, State.setCtxState, State.setEntry_ctxs]
  change ((updAt c (fun x => { x with st := st }) s.ctxs).getD c .free).saving = none
  by_cases hc : c < s.ctxs.length
  · rw [getD_updAt _ _ _ _ _ hc, if_pos rfl]
    exact h
  · rw [updAt_outside _ _ (Nat.le_of_not_lt hc)]
    exact h

/-- A host command, at a Ready device where no other is in progress or waits and that needs nothing first. -/
theorem State.hostCommand_performed {s : State} {code c : Nat} (tag grid : Nat) (hc : c < 64) (hon : s.dev.on = true)
    (hst : s.dev.st = .ready) (hbusy : s.commandBusy = false) (hneeds : s.commandNeeds code c = none) :
    s.hostCommand code c tag grid = s.performCommand code c tag grid := by
  rw [hostCommand, if_neg (by simp [hon, hst, hc]), if_neg (ne_true_of_eq_false hbusy), hneeds]

theorem State.hostCommand_waits {s : State} {code c : Nat} (tag grid : Nat) (hc : c < 64) (hon : s.dev.on = true)
    (hst : s.dev.st = .ready) (hbusy : s.commandBusy = true) :
    s.hostCommand code c tag grid = s.pushCommand ⟨false, code, c, tag, grid, 0⟩ := by
  rw [hostCommand, if_neg (by simp [hon, hst, hc]), if_pos hbusy]

theorem State.hostQueue_performed {s : State} {code c : Nat} (hc : c < 64) (hon : s.dev.on = true)
    (hst : s.dev.st = .ready) (hbusy : s.commandBusy = false) (hneeds : s.hostQueueNeeds c s.dev.qaddr = none) :
    s.hostQueue c code = s.performQueue c s.dev.qaddr (QueueOp.ofCode code) := by
  rw [hostQueue, if_neg (by simp [hon, hst, hc]), if_neg (ne_true_of_eq_false hbusy), hneeds]

theorem State.hostQueue_needs {s t : State} {code c : Nat} (hc : c < 64) (hon : s.dev.on = true)
    (hst : s.dev.st = .ready) (hbusy : s.commandBusy = false) (hneeds : s.hostQueueNeeds c s.dev.qaddr = some t) :
    s.hostQueue c code = t.pushCommand ⟨true, code, c, 0, 0, s.dev.qaddr⟩ := by
  rw [hostQueue, if_neg (by simp [hon, hst, hc]), if_neg (ne_true_of_eq_false hbusy), hneeds]

theorem State.hostQueue_waits {s : State} {code c : Nat} (hc : c < 64) (hon : s.dev.on = true)
    (hst : s.dev.st = .ready) (hbusy : s.commandBusy = true) :
    s.hostQueue c code = s.pushCommand ⟨true, code, c, 0, 0, s.dev.qaddr⟩ := by
  rw [hostQueue, if_neg (by simp [hon, hst, hc]), if_pos hbusy]

/-- A command that is no SUSPEND is performed as it stands. -/
theorem State.performCommand_of_ne {s : State} {code c : Nat} (tag grid : Nat) (hcode : code ≠ 2) :
    s.performCommand code c tag grid = (s.contextCommand code c tag grid).poll := by
  unfold performCommand
  dsimp only
  rw [if_neg (by simp [hcode])]

/-- A SUSPEND that ends at once. -/
theorem State.performCommand_suspend {s t : State} {c : Nat} (hc : 0 < c) (ht : s.suspendCtx c = t) (hsaving : (t.ctx c).saving ≠ some .suspend) :
    s.performCommand 2 c 0 0 = t.poll := by
  have hctx : s.contextCommand 2 c 0 0 = t := by
    rw [contextCommand, if_neg (by decide), if_neg (Nat.ne_of_gt hc)]
    exact ht
  unfold performCommand
  rw [hctx]
  exact congrArg State.poll (if_neg (by simpa using hsaving))

/-- A SUSPEND whose waves are not saved yet. -/
theorem State.performCommand_suspending {s t : State} {c : Nat} (hc : 0 < c) (ht : s.suspendCtx c = t) (hsaving : (t.ctx c).saving = some .suspend) :
    s.performCommand 2 c 0 0 = (t.modDev fun d => { d with cmdOn := some c }).poll := by
  have hctx : s.contextCommand 2 c 0 0 = t := by
    rw [contextCommand, if_neg (by decide), if_neg (Nat.ne_of_gt hc)]
    exact ht
  unfold performCommand
  rw [hctx]
  exact congrArg State.poll (if_pos (by simpa using hsaving))

/-- A code of a context command, with a context that is not context 0. -/
theorem State.contextCommand_eq {s : State} {c : Nat} (tag grid : Nat) (hc : 0 < c) :
    s.contextCommand 1 c tag grid = s.createCtx c ∧ s.contextCommand 3 c tag grid = s.resumeCtx c ∧
      s.contextCommand 4 c tag grid = s.destroyCtx c ∧ s.contextCommand 5 c tag grid = s.wresumeWave c tag grid := by
  have h0 : ¬ c = 0 := by omega
  exact ⟨(if_neg (by decide)).trans (if_neg h0), (if_neg (by decide)).trans (if_neg h0), (if_neg (by decide)).trans (if_neg h0),
    (if_neg (by decide)).trans (if_neg h0)⟩

section

variable {s : State} {c : Nat} (h0 : 0 < c) (hc : c < 64) (hon : s.dev.on = true) (hst : s.dev.st = .ready)
  (hbusy : s.commandBusy = false) (hsaving : (s.ctx c).saving = none)
include h0 hc hon hst hbusy hsaving

theorem State.exec_create (hhome : s.homeNeeds ⟨.dev, s.entryAddr c⟩ 256 none true = none) :
    exec (.create c) s = .next (s.createCtx c).poll := by
  have hneeds : s.commandNeeds 1 c = none := by
    rw [commandNeeds, hsaving, if_neg (by decide), if_pos (by decide), hhome]
  change Host.Outcome.next (s.hostCommand 1 c 0 0) = _
  rw [hostCommand_performed 0 0 hc hon hst hbusy hneeds, performCommand_of_ne 0 0 (by decide), (contextCommand_eq 0 0 h0).1]

theorem State.exec_resume (hhome : s.homeNeeds ⟨.dev, s.entryAddr c⟩ 256 none true = none) :
    exec (.resume c) s = .next (s.resumeCtx c).poll := by
  have hneeds : s.commandNeeds 3 c = none := by
    rw [commandNeeds, hsaving, if_neg (by decide), if_pos (by decide), hhome]
  change Host.Outcome.next (s.hostCommand 3 c 0 0) = _
  rw [hostCommand_performed 0 0 hc hon hst hbusy hneeds, performCommand_of_ne 0 0 (by decide), (contextCommand_eq 0 0 h0).2.1]

theorem State.exec_destroy : exec (.destroy c) s = .next (s.destroyCtx c).poll := by
  have hneeds : s.commandNeeds 4 c = none := by rw [commandNeeds, hsaving]; rfl
  change Host.Outcome.next (s.hostCommand 4 c 0 0) = _
  rw [hostCommand_performed 0 0 hc hon hst hbusy hneeds, performCommand_of_ne 0 0 (by decide), (contextCommand_eq 0 0 h0).2.2.1]

theorem State.exec_wresume (tag grid : Nat) : exec (.wresume c tag grid) s = .next (s.wresumeWave c tag grid).poll := by
  have hneeds : s.commandNeeds 5 c = none := by rw [commandNeeds, hsaving]; rfl
  change Host.Outcome.next (s.hostCommand 5 c tag grid) = _
  rw [hostCommand_performed tag grid hc hon hst hbusy hneeds, performCommand_of_ne tag grid (by decide),
    (contextCommand_eq tag grid h0).2.2.2]

theorem State.exec_suspend {t : State} (ht : s.suspendCtx c = t) (hdone : (t.ctx c).saving ≠ some .suspend) :
    exec (.suspend c) s = .next t.poll := by
  have hneeds : s.commandNeeds 2 c = none := by rw [commandNeeds, hsaving]; rfl
  change Host.Outcome.next (s.hostCommand 2 c 0 0) = _
  rw [hostCommand_performed 0 0 hc hon hst hbusy hneeds, performCommand_suspend h0 ht hdone]

theorem State.exec_suspending {t : State} (ht : s.suspendCtx c = t) (hdone : (t.ctx c).saving = some .suspend) :
    exec (.suspend c) s = .next (t.modDev fun d => { d with cmdOn := some c }).poll := by
  have hneeds : s.commandNeeds 2 c = none := by rw [commandNeeds, hsaving]; rfl
  change Host.Outcome.next (s.hostCommand 2 c 0 0) = _
  rw [hostCommand_performed 0 0 hc hon hst hbusy hneeds, performCommand_suspending h0 ht hdone]

end

/-! What each command does, by the state of its context. -/

theorem State.createCtx_eq (s : State) (c : Nat) : s.createCtx c =
    if (s.ctx c).st ≠ .free then s.setEntry c 0x5C 4 1
    else if !s.entryFit c then s.setEntry c 0x5C 4 2
    else ((((((((s.dropTlb c 0).modCtx c fun _ => .free).setCtxState c .created).setEntry c 0x60 8 0).setEntry c 0x68 8
      0)).latchEntry c).setEntry c 0x5C 4 0) := rfl

/-- RESUME comes to CMDSTAT 1 where the context is in none of the three states. -/
theorem State.resumeCtx_bad {s : State} {c : Nat} (h : (s.ctx c).st ∉ [CtxState.suspended, .stalled, .faulted]) :
    s.resumeCtx c = s.setEntry c 0x5C 4 1 := by
  rw [resumeCtx]
  exact if_pos (by simpa [and_assoc] using h)

theorem State.resumeCtx_eq {s : State} {c : Nat} (h : (s.ctx c).st ∈ [CtxState.suspended, .stalled, .faulted]) : s.resumeCtx c =
    if !s.entryFit c then s.setEntry c 0x5C 4 2
    else if (s.ctx c).st = .stalled then
      ((((s.modCtx c fun x => { x with waitclk := 0 }).setEntry c 0x60 8 0).setCtxState c .ready).latchEntry c).setEntry c 0x5C 4 0
    else ((s.setCtxState c (if s.hasWork c then .ready else .created)).latchEntry c).setEntry c 0x5C 4 0 := by
  rw [resumeCtx]
  refine if_neg ?_
  simpa [or_iff_not_imp_left] using h

theorem State.suspendCtx_bad {s : State} {c : Nat} (h : (s.ctx c).st ∉ [CtxState.created, .stalled, .ready, .resident, .partialSt]) :
    s.suspendCtx c = s.setEntry c 0x5C 4 1 := by
  unfold suspendCtx
  split <;> simp_all [cmdStatus]

theorem State.destroyCtx_bad {s : State} {c : Nat} (h : (s.ctx c).st ∈ [CtxState.free, .draining, .destroyed]) :
    s.destroyCtx c = s.setEntry c 0x5C 4 1 := by
  unfold destroyCtx
  split <;> simp_all [cmdStatus]

theorem State.wresumeWave_bad {s : State} {c : Nat} (tag grid : Nat)
    (h : (s.ctx c).st ∉ [CtxState.ready, .resident, .partialSt, .suspended, .stalled, .faulted]) :
    s.wresumeWave c tag grid = s.setEntry c 0x5C 4 1 := by
  unfold wresumeWave
  split <;> simp_all [cmdStatus]

theorem State.wresumeWave_eq {s : State} {c : Nat} (tag grid : Nat)
    (h : (s.ctx c).st ∈ [CtxState.ready, .resident, .partialSt, .suspended, .stalled, .faulted]) :
    s.wresumeWave c tag grid =
      match s.waves.find? fun w => w.ctx == c && w.tag == tag && w.grid == grid && w.st == .held && !w.service with
      | some w => (s.releaseHold w).setEntry c 0x5C 4 0
      | none => s.setEntry c 0x5C 4 1 := by
  unfold wresumeWave
  split
  case h_7 => simp_all
  all_goals rfl

/-- A queue operation of the host, performed at once. -/
theorem State.exec_queue {s : State} {c : Nat} (hc : c < 64) (hon : s.dev.on = true) (hst : s.dev.st = .ready)
    (hbusy : s.commandBusy = false) (hneeds : s.hostQueueNeeds c s.dev.qaddr = none) {i : Instr} {op : QueueOp}
    (hmem : (i, op) ∈ [(Instr.stop c, QueueOp.stop), (.start c, .start), (.skip c, .skip), (.retry c, .retry)]) :
    exec i s = .next (s.performQueue c s.dev.qaddr (some op)) := by
  have hqueue (code : Nat) := State.hostQueue_performed (code := code) hc hon hst hbusy hneeds
  simp only [List.mem_cons, List.not_mem_nil, or_false, Prod.mk.injEq] at hmem
  obtain ⟨rfl, rfl⟩ | ⟨rfl, rfl⟩ | ⟨rfl, rfl⟩ | ⟨rfl, rfl⟩ := hmem
  · exact congrArg Host.Outcome.next (hqueue 1)
  · exact congrArg Host.Outcome.next (hqueue 2)
  · exact congrArg Host.Outcome.next (hqueue 3)
  · exact congrArg Host.Outcome.next (hqueue 4)

/-- What a queue operation of the host answers, by the state of its queue. -/
theorem State.queueCommand_result (s : State) (c : Nat) (eng : Bool) (q : Nat) :
    let x := s.queue c eng q
    (x.st = .stopped → (s.queueCommand c eng q .stop).1 = 1) ∧ (x.st ≠ .stopped → (s.queueCommand c eng q .stop).1 = 0) ∧
    ((s.queueCommand c eng q .start).1 = if x.st = .stopped ∧ (s.ctx c).st.alive = true then 0 else 1) ∧
    (x.st ≠ .faulted → (s.queueCommand c eng q .skip).1 = 1 ∧ (s.queueCommand c eng q .retry).1 = 1) ∧
    (x.st = .faulted → (s.queueCommand c eng q .retry).1 = 0) ∧
    (∀ t, x.st = .faulted → s.readHeader c eng q = .no t → (s.queueCommand c eng q .skip).1 = 1) ∧
    (∀ tail head t, x.st = .faulted → s.readHeader c eng q = .ok tail head t → (s.queueCommand c eng q .skip).1 = 0) := by
  intro x
  have hx : (s.queue c eng q).st = x.st := rfl
  unfold State.queueCommand
  dsimp only
  rw [hx]
  refine ⟨fun h => ?_, fun h => ?_, ?_, fun h => ⟨?_, ?_⟩, fun h => ?_, fun t h ht => ?_, fun tail head t h ht => ?_⟩
  · rw [h]
  · cases hst : x.st with
    | stopped => exact absurd hst h
    | _ => rfl
  · cases hst : x.st with
    | stopped => cases halive : (s.ctx c).st.alive <;> simp
    | _ => rfl
  · cases hst : x.st with
    | faulted => exact absurd hst h
    | _ => rfl
  · cases hst : x.st with
    | faulted => exact absurd hst h
    | _ => rfl
  · rw [h]
  · rw [h]
    dsimp only
    rw [ht]
  · rw [h]
    dsimp only
    rw [ht]

/-- Settles O49: a command at a Ready device comes to what it does by the state of its context, or waits its turn. -/
theorem contextCommandResults : Obligations.ContextCommandResults := by
  unfold Obligations.ContextCommandResults
  refine ⟨fun s c h0 hc hon hst hbusy hsaving => ?_, fun s c hc hon hst => ⟨fun hbusy => ?_, fun hcmd => ?_, fun k rest hk hcmd hctx =>
    ⟨fun hq hneeds => ?_, fun hq hneeds => ?_⟩, fun hbusy hneeds tag grid => ?_⟩, fun s c hc hon hst hbusy => ⟨fun t hneeds => ?_,
      fun hsaving => ?_, fun i op hneeds hmem => ⟨fun hfree => ?_, fun h0 hfree hat => ?_, fun eng q r t h0 hfree hat hr => ?_⟩,
      fun eng q => s.queueCommand_result c eng q⟩⟩
  · intro st answers
    refine ⟨fun hhome => ?_, fun h => ?_, fun h => ?_, fun h => ?_, fun h => ?_, fun h => ?_, fun tag grid h => ⟨fun w hw => ?_, fun hnone => ?_⟩,
      fun tag grid h => ?_⟩
    · have hcreate := State.exec_create h0 hc hon hst hbusy hsaving hhome
      have hresume := State.exec_resume h0 hc hon hst hbusy hsaving hhome
      rw [State.createCtx_eq] at hcreate
      refine ⟨fun h => ?_, fun h hfit => ?_, fun h hfit => ?_, fun h => ?_, fun h hfit => ?_, fun next hfit h hnext => ?_, fun h hfit => ?_⟩
      · rwa [if_pos h] at hcreate
      · rwa [if_neg (not_not_intro h), if_pos (by simp [hfit])] at hcreate
      · rwa [if_neg (not_not_intro h), if_neg (by simp [hfit])] at hcreate
      · rwa [State.resumeCtx_bad h] at hresume
      · rwa [State.resumeCtx_eq h, if_pos (by simp [hfit])] at hresume
      · have hin : (s.ctx c).st ∈ [CtxState.suspended, .stalled, .faulted] := by obtain h | h := h <;> rw [show (s.ctx c).st = _ from h] <;> decide
        have hstalled : (s.ctx c).st ≠ .stalled := by obtain h | h := h <;> rw [show (s.ctx c).st = _ from h] <;> decide
        rwa [State.resumeCtx_eq hin, if_neg (by simp [hfit]), if_neg hstalled, ← hnext] at hresume
      · have hin : (s.ctx c).st ∈ [CtxState.suspended, .stalled, .faulted] := by rw [show (s.ctx c).st = _ from h]; decide
        rwa [State.resumeCtx_eq hin, if_neg (by simp [hfit]), if_pos h] at hresume
    · exact State.exec_suspend h0 hc hon hst hbusy hsaving (State.suspendCtx_bad h) (by
        rw [State.saving_setEntry, hsaving]; decide)
    · have heq : s.suspendCtx c = (s.setCtxState c .suspended).setEntry c 0x5C 4 0 := by
        unfold State.suspendCtx
        obtain h | h := h <;> (rw [show (s.ctx c).st = _ from h]; rfl)
      exact State.exec_suspend h0 hc hon hst hbusy hsaving heq (by
        rw [State.saving_setEntry, State.saving_setCtxState s c _ hsaving]; decide)
    · have heq : s.suspendCtx c = (s.startSaving c .suspend).finishSaving c := by
        unfold State.suspendCtx
        simp only [List.mem_cons, List.not_mem_nil, or_false] at h
        obtain h | h | h := h <;> (rw [show (s.ctx c).st = _ from h])
      intro t
      exact ⟨State.exec_suspending h0 hc hon hst hbusy hsaving heq, State.exec_suspend h0 hc hon hst hbusy hsaving heq⟩
    · have hdestroy := State.exec_destroy h0 hc hon hst hbusy hsaving
      rwa [State.destroyCtx_bad h] at hdestroy
    · exact State.exec_destroy h0 hc hon hst hbusy hsaving
    · have hresume := State.exec_wresume h0 hc hon hst hbusy hsaving tag grid
      rw [State.wresumeWave_eq tag grid h] at hresume
      rwa [hw] at hresume
    · have hresume := State.exec_wresume h0 hc hon hst hbusy hsaving tag grid
      have hfind : s.waves.find? (fun w => w.ctx == c && w.tag == tag && w.grid == grid && w.st == .held && !w.service) = none := by
        refine List.find?_eq_none.2 fun w hw hall => ?_
        simp only [Bool.and_eq_true, beq_iff_eq, Bool.not_eq_true'] at hall
        obtain ⟨⟨⟨⟨h1, h2⟩, h3⟩, h4⟩, h5⟩ := hall
        exact hnone w hw h1 h2 h3 h5 h4
      rw [State.wresumeWave_eq tag grid h] at hresume
      rwa [hfind] at hresume
    · have hresume := State.exec_wresume h0 hc hon hst hbusy hsaving tag grid
      rwa [State.wresumeWave_bad tag grid h] at hresume
  · intro waits
    have hcmd (code tag grid : Nat) := State.hostCommand_waits (code := code) tag grid hc hon hst hbusy
    have hqueue (code : Nat) := State.hostQueue_waits (code := code) hc hon hst hbusy
    exact ⟨congrArg Host.Outcome.next (hcmd 1 0 0), congrArg Host.Outcome.next (hcmd 2 0 0), congrArg Host.Outcome.next (hcmd 3 0 0),
      congrArg Host.Outcome.next (hcmd 4 0 0), fun tag grid => congrArg Host.Outcome.next (hcmd 5 tag grid),
      congrArg Host.Outcome.next (hqueue 1), congrArg Host.Outcome.next (hqueue 2), congrArg Host.Outcome.next (hqueue 3),
      congrArg Host.Outcome.next (hqueue 4)⟩
  · rw [State.runCommand]
    split
    · rfl
    · exact if_pos (Option.isSome_iff_ne_none.2 hcmd)
  · rw [State.runCommand, hk]
    dsimp only
    rw [if_neg (by simp [hcmd]), if_pos hq, hneeds]
  · rw [State.runCommand, hk]
    dsimp only
    rw [if_neg (by simp [hcmd]), if_neg (by simp [hq]), hneeds]
  · exact congrArg Host.Outcome.next (State.hostCommand_performed tag grid hc hon hst hbusy hneeds)
  · have hqueue (code : Nat) := State.hostQueue_needs (code := code) hc hon hst hbusy hneeds
    exact ⟨congrArg Host.Outcome.next (hqueue 1), congrArg Host.Outcome.next (hqueue 2), congrArg Host.Outcome.next (hqueue 3),
      congrArg Host.Outcome.next (hqueue 4)⟩
  · rw [State.hostQueueNeeds, if_pos hsaving]
    rfl
  · rw [State.exec_queue hc hon hst hbusy hneeds hmem]
    exact congrArg Host.Outcome.next (if_pos (by simpa using hfree))
  · rw [State.exec_queue hc hon hst hbusy hneeds hmem]
    refine congrArg Host.Outcome.next ((if_neg (by simp [h0, hfree])).trans ?_)
    rw [hat]
  · rw [State.exec_queue hc hon hst hbusy hneeds hmem]
    refine congrArg Host.Outcome.next ((if_neg (by simp [h0, hfree])).trans ?_)
    rw [hat]
    dsimp only
    rw [hr]

end Sys2Proof.Machine
end


section
/-! CLAIM. Carry chains: CPOST, CPEEK and their homes (R350 to R354). -/

namespace Sys2Proof.Machine

/-- An instruction that waits in one case and goes on in the other. -/
theorem Issues.waitOrGo {i : Instr} {s : State} {x : Iss} (h : Issues i s x) {body : Iss → Res}
    (hexec : exec i s = issueWait i body s) {p : Prop} [Decidable p] {t : State} {wait : Wait}
    (hbody : body x = if p then .wait t wait else .ok t) :
    (p → exec i s = .next (x.finish (.wait t wait)).poll) ∧ (¬ p → exec i s = .next (x.complete t true).poll) :=
  ⟨fun hp => h.outcomeWait hexec (hbody.trans (if_pos hp)), fun hp => by
    rw [h.outcomeWait hexec (hbody.trans (if_neg hp)), Iss.finish_ok]⟩

/-- What CPEEK comes to, once its cell is found. -/
theorem cpeekBody_eq {x : Iss} {m : Mem} {s' : State} {k : Nat} {l : Loc} (hcell : x.cellAt m 64 .read (x.carryNamed m) = .ok s' [(k, .mem l)])
    (out : Bool) : cpeekBody m out x =
      let c := x.carryAt s' m l
      let n := m.size.bytes
      let p : Piece := { lane := x.first, loc := l, size := n, row := 0, fwd := [], done := false }
      let wo := x.w.addDests x { x.opOf (.cpeek out c.ctx c.va) with acq := m.acq, pieces := [p] } m.d m.size.regs
      let t := (s'.putWave { wo.1 with ops := wo.1.ops ++ [wo.2] }).surrenderLine x.w.core l.frameLine (0, 0)
      if wo.2.left = 0 then .wait t
        { kind := .carry out n, loc := l, va := (x.addr m x.first).bits.toNat, acq := none, lanes := x.act, op := 0x76,
          sub := if out then 1 else 0, len := x.len, uid := x.uid, marks := [] }
      else .ok t := by
  rw [cpeekBody, hcell]
  dsimp only
  generalize x.w.addDests x _ m.d m.size.regs = wo
  rfl

/-- Settles O40: the cell's next state is told by the state and the OP it is read with. -/
theorem carryResults : Obligations.CarryResults := by
  unfold Obligations.CarryResults
  refine ⟨fun s s' x m k l => ⟨fun h hcell => ?_, ?_⟩, fun s => ⟨fun m hm => ⟨fun c opc total serial t hk hown hturn => ?_,
    fun src dst v p n hk => ?_⟩, fun c wave uid opc total serial v poison => ?_, fun c wave uid by_ => ?_⟩⟩
  · intro d
    have hbody (r : Res) (hr : (if anyPoison d then x.cellPoison s' m else if !x.w.streamLeft then x.exhausted s'
        else .ok (s'.putWave (x.holdCell { x.w with ops := x.w.ops ++ [x.opOf .store], seq := x.w.seq + 1 }
          (.post (x.carryAt s' m l) (m.sub.toNat % 16) (BitVec.ofNat 64 (pvalue d)) (x.w.serial x.w.seq) (x.relOf m))))) = r) :
        exec (.cpost m) s = .next (x.finish r) :=
      h.outcome rfl (by rw [hcell]; exact hr)
    refine ⟨fun hd => hbody _ (if_pos hd), fun hd hseq => ?_⟩
    exact hbody _ ((if_neg (ne_true_of_eq_false hd)).trans (if_neg (by simpa [Wave.streamLeft] using hseq)))
  · intro peek
    have hpeek (i : Instr) (out : Bool) (hexec : exec i s = issueWait i (cpeekBody m out) s) : peek i out := by
      intro h hcell
      exact h.waitOrGo hexec (cpeekBody_eq hcell out)
    exact ⟨hpeek _ _ rfl, hpeek _ _ rfl⟩
  · change execCarryPost m.id s = _
    rw [execCarryPost, hm]
    dsimp only
    rw [hk]
    dsimp only
    rw [if_neg (by simp [hown]), hturn]
  · intro there
    have hgo : exec (.carryForward m.id) s = .next (s.forwardArrives m) := by
      change execCarryForward m.id s = _
      rw [execCarryForward, hm]
      rfl
    rw [hgo]
    refine ⟨fun l t ht hown hneeds => ?_, fun f t ht hf => ?_, fun f t ht hf => ?_⟩ <;>
      (rw [State.forwardArrives, hk]; dsimp only; rw [show s.translate none (s.sliceOf src.loc / 32) src.ctx dst .both = _ from ht]; dsimp only)
    · rw [if_neg (by simp [hown]), hneeds]
    · rw [if_pos hf]
      rfl
    · rw [if_neg hf]
  · intro t kept st worse bad n count post arrive
    have hpost : post = if bad || (st ≠ 4 && t.carryOp c ≠ opc) then (if st = 3 then t else kept).carryPoisoned c (some (wave, uid))
        else match t.carryState c with
          | 0 => ((kept.setNatAt (c.loc.plus 24) (n opc) (total.toNat % 2 ^ (8 * n opc))).setNatAt c.loc 1 2)
          | 1 => (kept.setNatAt (c.loc.plus 24) (n opc) (total.toNat % 2 ^ (8 * n opc))).carryFold c wave uid
          | 4 => if t.carryOp c = opc then count else t
          | _ => count := rfl
    have harrive : arrive = if bad || (st ≠ 4 && poison) then t.carryPoisoned c none
        else match t.carryState c with
          | 0 => (t.setNatAt (c.loc.plus 16) (n (t.carryOp c)) (v.toNat % 2 ^ (8 * n (t.carryOp c)))).setNatAt c.loc 1 1
          | 2 => (t.setNatAt (c.loc.plus 16) (n (t.carryOp c)) (v.toNat % 2 ^ (8 * n (t.carryOp c)))).carryFold c 0 0
          | 4 => if poison then t else count
          | _ => count := rfl
    clear_value post arrive
    have hst {k : Nat} (h : st = k) : t.carryState c = k := h
    refine ⟨fun h => ?_, fun hbad hop => ?_, fun h => ?_, fun hbad hp => ?_⟩
    · rw [hpost, if_pos (by simpa using h)]
    · rw [hpost, if_neg (by rw [hbad]; simpa [or_iff_not_imp_left] using hop)]
      refine ⟨fun h => ?_, fun h => ?_, fun h => ?_, fun h => ?_⟩
      · rw [hst h]; rfl
      · rw [hst h]; rfl
      · obtain h | h := h <;> (rw [hst h]; rfl)
      · rw [hst h]; rfl
    · rw [harrive, if_pos (by simpa using h)]
    · rw [harrive, if_neg (by rw [hbad]; simpa [or_iff_not_imp_left] using hp)]
      refine ⟨fun h => ?_, fun h => ?_, fun h => ?_, fun h => ?_⟩
      · rw [hst h]; rfl
      · rw [hst h]; rfl
      · obtain h | h := h <;> (rw [hst h]; rfl)
      · rw [hst h]; rfl
  · intro op n v t
    refine ⟨rfl, fun h => ?_, fun h => ?_, fun h4 h3 => ?_⟩ <;> unfold State.carryPoisoned
    · rw [h]; rfl
    · rw [h]; rfl
    · split
      · exact absurd ‹_› h4
      · exact absurd ‹_› h3
      · rfl

end Sys2Proof.Machine
end


section
/-! CLAIM. Block barriers and barrier cells (R342 to R349). -/

namespace Sys2Proof.Machine

/-! A field of a space after a write of another. -/

/-- A field reads the same where the bytes it covers do. -/
theorem Memory.nat_congr {m m' : Memory} {a n : Nat} (h : ∀ k < n, m'.get (a + k) = m.get (a + k)) : m'.nat a n = m.nat a n := by
  rw [Memory.nat, Memory.nat]
  exact congrArg leNat (List.map_congr_left fun k hk => h k (List.mem_range.1 hk))

theorem Memory.nat_setNat_outside (m : Memory) {a n c k : Nat} (v : Nat) (h : c + k ≤ a ∨ a + n ≤ c) :
    (m.setNat a n v).nat c k = m.nat c k :=
  Memory.nat_congr fun i hi => Memory.get_setNat_outside m v (by omega)

section

variable {s : State} {l : Loc} (hl : ∀ b, l.sp = .scratch b → (s.block? b).isSome = true)
include hl

theorem State.memOf_setNatAt (n v : Nat) : (s.setNatAt l n v).memOf l.sp = (s.memOf l.sp).setNat l.addr n v :=
  State.memOf_setMem_same hl _

theorem State.block?_setNatAt (n v : Nat) : ∀ b, l.sp = .scratch b → ((s.setNatAt l n v).block? b).isSome = true := by
  intro b hb
  obtain ⟨sp, a⟩ := l
  subst hb
  have hk := hl b rfl
  rw [State.setNatAt, State.setMem, State.block?_modBlock 
    (f := fun k => { k with scratch := (s.memOf (.scratch b)).setNat a n v }) fun _ => rfl]
  simpa using hk

end

/-! The completion of a cell. -/

/-- The phases that are due: PHASE and ARRIVED are written. -/
theorem State.completeCell_due {s : State} {cell : Loc} (hpend : s.natAt (cell.plus 12) 4 = 0) (hexp : 0 < s.natAt (cell.plus 4) 4)
    (hdue : s.natAt (cell.plus 4) 4 ≤ s.natAt (cell.plus 8) 4) :
    s.completeCell cell = (s.setNatAt cell 4 ((s.natAt cell 4 + s.natAt (cell.plus 8) 4 / s.natAt (cell.plus 4) 4) % 2 ^ 32)).setNatAt
      (cell.plus 8) 4 (s.natAt (cell.plus 8) 4 % s.natAt (cell.plus 4) 4) := by
  unfold State.completeCell
  dsimp only
  rw [if_neg (by omega), if_neg (by omega)]

theorem State.memOf_completeCell_due {s : State} {cell : Loc} (hl : ∀ b, cell.sp = .scratch b → (s.block? b).isSome = true)
    (hpend : s.natAt (cell.plus 12) 4 = 0) (hexp : 0 < s.natAt (cell.plus 4) 4)
    (hdue : s.natAt (cell.plus 4) 4 ≤ s.natAt (cell.plus 8) 4) :
    (s.completeCell cell).memOf cell.sp = ((s.memOf cell.sp).setNat cell.addr 4
      ((s.natAt cell 4 + s.natAt (cell.plus 8) 4 / s.natAt (cell.plus 4) 4) % 2 ^ 32)).setNat (cell.addr + 8) 4
        (s.natAt (cell.plus 8) 4 % s.natAt (cell.plus 4) 4) := by
  rw [State.completeCell_due hpend hexp hdue]
  have h := State.memOf_setNatAt (l := cell.plus 8) (State.block?_setNatAt hl 4
    ((s.natAt cell 4 + s.natAt (cell.plus 8) 4 / s.natAt (cell.plus 4) 4) % 2 ^ 32)) 4
      (s.natAt (cell.plus 8) 4 % s.natAt (cell.plus 4) 4)
  rw [show (cell.plus 8).sp = cell.sp from rfl, State.memOf_setNatAt hl] at h
  exact h

theorem ofNat_bit (b : Bool) : Val.ofNat (if b then 1 else 0) false = ⟨if b then 1 else 0, false⟩ := by
  cases b <;> rfl

/-- What a request writes in its cell (R346). -/
def State.barrierWrite (u : State) (l : Loc) (r : BarReq) : State :=
  match r with
  | .init n => ((u.setNatAt (l.plus 4) 4 (max 1 n)).setNatAt (l.plus 8) 4 0).setNatAt (l.plus 12) 4 0
  | .arrive => u.setNatAt (l.plus 8) 4 ((u.natAt (l.plus 8) 4 + 1) % 2 ^ 32)
  | .expect n => u.setNatAt (l.plus 12) 4 ((u.natAt (l.plus 12) 4 + n) % 2 ^ 32)

/-- What becomes of a request that its home has performed: an arrive that is still waited for gives the phase it found. -/
def State.barrierAnswer (v : State) (m : Msg) (r : BarReq) (op : Option Op) (phase : Nat) : State :=
  match r, op with
  | .arrive, some o => (v.modMsg m.id fun _ => .values ((lanesOf o.lanes).map fun i => (i, ⟨BitVec.ofNat 64 phase, false⟩))).poll
  | _, _ => ((v.dropMsg m.id).settleOp m.wave m.uid).poll

theorem State.barrierAnswer_done {v : State} {m : Msg} {r : BarReq} {op : Option Op} {phase : Nat} (h : r ≠ .arrive ∨ op = none) :
    v.barrierAnswer m r op phase = ((v.dropMsg m.id).settleOp m.wave m.uid).poll := by
  unfold State.barrierAnswer
  split
  · obtain h | h := h
    · exact absurd rfl h
    · cases h
  · rfl

/-- Settles O39: each BAR comes to what its body is once the cell is found; the phases that are due are written field by
field. -/
theorem barrierResults : Obligations.BarrierResults := by
  unfold Obligations.BarrierResults
  refine ⟨fun s x => ⟨fun g b h hb => ?_, fun m s' k l => ?_⟩, fun s => ⟨fun m r l core release t0 hm hk hfirst hown hturn => ?_,
    fun cell hl => ?_⟩⟩
  · intro waits mine
    obtain rfl : x.s = s := h.s_eq
    have hbody : ∀ r, (if x.w.bphase < b.phase then
          if b.lastArrive + 2 ≤ x.s.clk + 1 then .ok (x.s.putWave { x.w with bphase := x.w.bphase + 1 })
          else .wait (x.s.putWave x.w) (x.waitOf (.bsync x.w.bphase) ⟨.dev, 0⟩ 0 (some .block) 0x7D 0)
        else .wait (x.s.putWave (if mine || b.arrived.contains x.w.wid then x.w else x.w.hold x.no x.clk 0 .bsync))
          (x.waitOf (.bsync b.phase) ⟨.dev, 0⟩ 0 (some .block) 0x7D 0)) = r →
        exec (.bsync g) x.s = .next (x.finish r).poll :=
      fun r hr => h.outcomeWait rfl (by rw [hb]; exact hr)
    refine ⟨fun hph => ?_, fun hph hlate => ?_, fun hph hearly => ?_⟩
    · refine (hbody _ (if_neg (by omega))).trans ?_
      have hsame : (if mine || b.arrived.contains x.w.wid then x.w else x.w.hold x.no x.clk 0 .bsync) =
          if mine ∨ x.w.wid ∈ b.arrived then x.w else x.w.hold x.no x.clk 0 .bsync := if_congr (by simp) rfl rfl
      rw [hsame]
      rfl
    · refine (hbody _ ((if_pos hph).trans (if_pos hlate))).trans ?_
      rw [Iss.finish_ok]
      rfl
    · exact hbody _ ((if_pos hph).trans (if_neg (by omega)))
  · intro c a mark poison
    refine ⟨fun h hcell => ⟨fun hc => ?_, fun hc => ?_⟩, fun h hcell => ?_, fun h hcell => ⟨fun hc => ?_, fun t hc hneeds => ?_, fun hc hneeds => ?_⟩,
      fun h hcell => ⟨fun hc => ?_, fun hc => ?_⟩, fun h hcell => ⟨fun hc => ?_, fun t hc hneeds => ?_, fun hc hneeds => ?_⟩⟩
    · exact h.outcome rfl (by rw [hcell]; exact if_pos hc)
    · refine (h.outcome (r := .ok _) rfl (by rw [hcell]; exact if_neg (ne_true_of_eq_false hc))).trans ?_
      rw [Iss.finish_ok]
      rfl
    · intro wo
      refine (h.outcome (r := .ok (s'.putWave (x.holdCell { wo.1 with ops := wo.1.ops ++ [wo.2] } (.bar .arrive l (x.relOf m))))) rfl
        (by rw [hcell]; rfl)).trans ?_
      rw [Iss.finish_ok]
    · exact h.outcomeWait rfl (by rw [hcell]; exact if_pos hc)
    · exact h.outcomeWait (r := .stall t) rfl (by rw [hcell]; refine (if_neg (ne_true_of_eq_false hc)).trans ?_; rw [hneeds])
    · intro r n
      have hbody : ∀ res, (if anyPoison r.1 then x.cellPoison r.2 m
            else if 2 ^ 32 ≤ n then .trap r.2 ⟨.countOverflow, laneSet [x.first], (x.addr m x.first).bits, some 1⟩
            else .ok ((((r.2.meetCell l).setNatAt (l.plus 12) 4 n).afterWrite l).modWave x.w.id fun w =>
              w.hold x.no x.clk 0 (.expected l c.bits.toNat))) = res →
          exec (.barExpect m) s = .next (x.finish res).poll :=
        fun res hres => h.outcomeWait rfl (by
          rw [hcell]
          refine (if_neg (ne_true_of_eq_false hc)).trans ?_
          rw [hneeds]
          exact hres)
      refine ⟨fun hp => hbody _ (if_pos hp), fun hp hn => ?_, fun hp hn => hbody _ ((if_neg (ne_true_of_eq_false hp)).trans (if_pos hn))⟩
      rw [hbody _ ((if_neg (ne_true_of_eq_false hp)).trans (if_neg (by omega))), Iss.finish_ok]
    · exact h.outcomeWait rfl (by rw [hcell]; exact if_pos hc)
    · exact h.outcomeWait rfl (by rw [hcell]; exact if_neg (ne_true_of_eq_false hc))
    · exact h.outcome rfl (by rw [hcell]; exact if_pos hc)
    · exact h.outcome (r := .stall t) rfl (by rw [hcell]; refine (if_neg (ne_true_of_eq_false hc)).trans ?_; rw [hneeds])
    · intro r u done t
      have hbody : ∀ res, (if anyPoison r.1 then x.cellPoison r.2 m
            else .ok (if done then t.acquire x.w m.acq else t)) = res → exec (.barTest m) s = .next (x.finish res) :=
        fun res hres => h.outcome rfl (by
          rw [hcell]
          refine (if_neg (ne_true_of_eq_false hc)).trans ?_
          rw [hneeds, ← hres]
          dsimp only
          rw [ofNat_bit]
          rfl)
      refine ⟨fun hp => hbody _ (if_pos hp), fun hp => ?_⟩
      rw [hbody _ (if_neg (ne_true_of_eq_false hp)), Iss.finish_ok]
  · intro t op
    have hexec : ∀ res, (if anyPoison (t0.homeRead l 32).1 then
          (match op with
            | some o => (((t.dropMsg m.id).reportOp m.wave o ⟨.poison, laneSet [lowest o.lanes],
                BitVec.ofNat 64 ((o.pieces.head?).elim 0 (·.row)), none⟩).modWave m.wave fun w =>
                  w.finishOp m.uid (t.dropMsg m.id).clk).poll
            | none => t.dropMsg m.id)
        else ((((t.meetCell l).barrierWrite l r).recordRelease l core release).afterWrite l).barrierAnswer m r op
          ((t.meetCell l).natAt l 4)) = res →
        exec (.barrierCellRequest m.id) s = .next res := by
      intro res hres
      change execBarrierCellRequest m.id s = _
      rw [execBarrierCellRequest, hm]
      dsimp only
      rw [hk]
      dsimp only
      refine congrArg Host.Outcome.next ((if_neg (ne_true_of_eq_false hfirst)).trans ((if_neg (by simp [hown])).trans ?_))
      rw [hturn]
      exact hres
    refine ⟨fun o hp ho => hexec _ ((if_pos hp).trans (by rw [ho])), fun hp => ?_⟩
    intro u v v'
    have hv : v = u.barrierWrite l r := by
      cases r <;> rfl
    have hanswer := hexec _ (if_neg (ne_true_of_eq_false hp))
    refine ⟨fun o hr ho => ?_, fun h => ?_⟩
    · rw [hanswer, ho]
      subst hr
      rfl
    · rw [hanswer, State.barrierAnswer_done h]
      change _ = Host.Outcome.next ((((v.recordRelease l core release).afterWrite l).dropMsg m.id).settleOp m.wave m.uid).poll
      rw [hv]
  · intro phase expected arrived t
    refine ⟨fun h => if_pos h, fun hpend hexp hdue => ?_, fun n hn => ?_, fun n hn => ?_⟩
    · have hmem := State.memOf_completeCell_due hl hpend hexp hdue
      have hread (l : Loc) (n : Nat) (h : l.sp = cell.sp) : t.natAt l n = (t.memOf cell.sp).nat l.addr n := by rw [State.natAt, h]
      change t.memOf cell.sp = _ at hmem
      have hlt := s.natAt_lt (cell.plus 8) 4
      refine ⟨?_, ?_, ?_, ?_, fun b hb => ?_⟩
      · rw [hread cell 4 rfl, hmem, Memory.nat_setNat_outside _ _ (by omega), Memory.nat_setNat]
        exact Nat.mod_mod _ _
      · rw [hread (cell.plus 8) 4 rfl, hmem, show (cell.plus 8).addr = cell.addr + 8 from rfl, Memory.nat_setNat]
        exact Nat.mod_eq_of_lt (Nat.lt_of_le_of_lt (Nat.mod_le _ _) hlt)
      · rw [hread (cell.plus 4) 4 rfl, hmem, show (cell.plus 4).addr = cell.addr + 4 from rfl, Memory.nat_setNat_outside _ _ (by omega),
          Memory.nat_setNat_outside _ _ (by omega)]
        rfl
      · rw [hread (cell.plus 12) 4 rfl, hmem, show (cell.plus 12).addr = cell.addr + 12 from rfl, Memory.nat_setNat_outside _ _ (by omega),
          Memory.nat_setNat_outside _ _ (by omega)]
        exact hpend
      · rw [hmem, Memory.get_setNat_outside _ _ (by omega), Memory.get_setNat_outside _ _ (by omega)]
    · exact if_neg (by omega)
    · exact if_pos hn

end Sys2Proof.Machine
end


section
/-! CLAIM. Groups at issue and at their home (R330 to R338). -/

namespace Sys2Proof.Machine

theorem some_contains {l : List (Option Nat)} {v : Nat} : l.contains (some v) = true ↔ some v ∈ l := List.contains_iff_mem

/-- Every slot is taken where none is empty. -/
theorem all_isSome {l : List (Option Nat)} : l.all (·.isSome) = true ↔ none ∉ l := by
  rw [List.all_eq_true]
  refine ⟨fun h hn => Bool.false_ne_true (h none hn), fun h x hx => ?_⟩
  cases x with
  | none => exact absurd hx h
  | some v => rfl

/-- An instruction whose body goes on with a state. -/
theorem Issues.goesOn {i : Instr} {s t : State} {x : Iss} (h : Issues i s x) {body : Iss → Res}
    (hexec : exec i s = issueWave i body s) (hbody : body x = .ok t) : exec i s = .next (x.complete t true) := by
  rw [h.outcome hexec hbody, Iss.finish_ok]

/-- The value a lane contributed, or the operator's neutral one. -/
theorem gredValue (vals : List (Option DWord)) (e : DWord) (i : Nat) :
    (vals.getD i none).getD e = match vals[i]? with
      | some (some v) => v
      | _ => e := by
  rw [List.getD_eq_getElem?_getD]
  match vals[i]? with
  | none => rfl
  | some none => rfl
  | some (some v) => rfl

/-- What a request that no earlier one of its wave precedes comes to. -/
theorem execGroupRequest_first {s u : State} {m : Msg} {r : GroupReq} {loc : Loc} {core : Nat} {release : Option Nat}
    {h : GroupHold} {w : Wave} (hm : s.msg? m.id = some m)
    (hh : s.pollGroups.group? loc = some h) (hw : s.pollGroups.wave? m.wave = some w)
    (hfirst : s.pollGroups.msgs.any (fun k => decide (k.id < m.id) && k.wave == m.wave && (match k.kind with
      | .groupReq _ l _ _ _ => l == loc
      | _ => false)) = false) :
    (match s.pollGroups.areaNeeds h (some core) with
      | some s => s
      | none => match r with
        | .gred sub vals =>
          (match s.pollGroups.homeTurn m loc 128 core (release.map (·, true)) true with
            | (false, s) => s
            | (true, s) => match s.groupContribute h w m.uid sub vals with
              | some s => ((s.dropMsg m.id).recordRelease loc core (release.map (·, true))).poll
              | none => s.modMsg m.id fun _ => .groupReq r loc core release (some s.clk))
        | _ => ((s.pollGroups.dropMsg m.id).groupMember h w r).poll) = u →
    m.kind = .groupReq r loc core release none → exec (.groupRequest m.id) s = .next u := by
  intro hu hk
  change execGroupRequest m.id s = _
  rw [execGroupRequest, hm]
  dsimp only
  rw [hk]
  dsimp only
  rw [hh, hw]
  dsimp only
  exact congrArg Host.Outcome.next ((if_neg fun h => Bool.false_ne_true (hfirst.symm.trans h)).trans hu)

/-- A result that its lines are ready for is delivered to the lanes of its operation. -/
theorem execGredResult_delivers {s : State} {m : Msg} {loc : Loc} {vals : List (Option DWord)} {p : Lanes} {sub : Nat}
    {w : Wave} {o : Op} (hm : s.msg? m.id = some m) (hk : m.kind = .groupResult loc vals p sub)
    (hw : s.wave? m.wave = some w) (hneeds : s.homeNeeds loc 128 (some w.core) true = none) (ho : w.op? m.uid = some o) :
    let t := (s.dropMsg m.id).acquireInval w.core w.ctx
    let v (i : Nat) : Val64 := ⟨match vals[i]? with
      | some (some v) => v
      | _ => BitVec.ofNat 64 (scanEps sub), hasLane p i⟩
    exec (.gredResult m.id) s = .next (t.modWave w.id fun w =>
      ((lanesOf o.lanes).foldl (fun w i => (w.deliver o 0 i (v i).lo).deliver o 1 i (v i).hi) w).finishOp m.uid
        t.clk).poll := by
  intro t v
  change execGredResult m.id s = _
  rw [execGredResult, hm]
  dsimp only
  rw [hk, hw]
  dsimp only
  rw [hneeds]
  dsimp only
  rw [ho]
  dsimp only
  simp only [gredValue, Wave.deliver64]
  rfl

/-- A group no round of which is open performs a join or leave at once. -/
theorem groupMember_of_closed {s : State} {h : GroupHold} {w : Wave} {r : GroupReq} (hst : s.groupState h ≠ 2) :
    s.groupMember h w r = match r with
      | .join => s.groupJoin h w
      | .leave => s.groupLeave h w
      | .gred _ _ => s := by
  exact if_neg hst

/-- Settles O41: the cases of the group instructions' checks, and of a request and a result at their ends. -/
theorem groupResults : Obligations.GroupResults := by
  unfold Obligations.GroupResults
  refine ⟨fun s => ⟨fun g x t h va => ?issue, ?request, fun msg => rfl, fun m loc vals p sub w o hm hk hw hneeds => ?_⟩, fun s h w r => ?member⟩
  case issue =>
    intro a trap held
    change (∀ r, x.areaAt (x.a64 g x.first) = .fail r → _) ∧ (_ → x.areaAt (x.a64 g x.first) = .ok t h va → _) ∧
      (_ → x.areaAt (x.a64 g x.first) = .ok t h va → _) ∧ (_ → x.areaAt (x.a64 g x.first) = .ok t h va → _)
    refine ⟨fun r hr => ⟨fun hi => hi.outcome rfl (by dsimp only; rw [hr]), fun hi => hi.outcome rfl (by dsimp only; rw [hr]),
      fun hi => hi.outcome rfl (by dsimp only; rw [hr])⟩,
      fun hi ha => ⟨fun hin => ?_, fun hin hfull => ?_, fun u hin hfree hready => ?_, fun hin hfree hready => ?_⟩,
      fun hi ha => ⟨fun hin => ?_, fun u hin hready => ?_, fun hin hready => ?_⟩, fun hi ha => ⟨fun hin => ?_, fun hin => ?_⟩⟩
    · exact hi.outcome rfl (by dsimp only; rw [ha]; exact if_pos (some_contains.2 hin))
    · exact hi.outcome rfl (by
        dsimp only
        rw [ha]
        exact (if_neg (mt some_contains.1 hin)).trans (if_pos (all_isSome.2 hfull)))
    · exact hi.outcome rfl (by
        dsimp only
        rw [ha]
        refine (if_neg (mt some_contains.1 hin)).trans ((if_neg (mt all_isSome.1 (not_not_intro hfree))).trans ?_)
        rw [hready])
    · intro st other full
      have hbody : ∀ res, (if st = 3 || (st != 0 && !(t.groupOwned h x.w)) then x.groupTrap t a.bits 4
          else if 4096 ≤ t.areaNat h 4 4 + t.joinsReserved h.loc then x.groupTrap t a.bits 5
          else .ok (t.putWave (x.holdGroup x.w .join h va))) = res → exec (.gjoin g) s = .next (x.finish res) :=
        fun res hres => hi.outcome rfl (by
          dsimp only
          rw [ha]
          refine (if_neg (mt some_contains.1 hin)).trans ((if_neg (mt all_isSome.1 (not_not_intro hfree))).trans ?_)
          rw [hready]
          exact hres)
      have hother : (decide (st = 3) || (st != 0 && !(t.groupOwned h x.w))) = true ↔ other := by simp [other]
      refine ⟨fun h => hbody _ (if_pos (hother.2 h)), fun h hf => hbody _ ((if_neg (mt hother.1 h)).trans (if_pos hf)), fun h hf => ?_⟩
      rw [hbody _ ((if_neg (mt hother.1 h)).trans (if_neg hf)), Iss.finish_ok]
      rfl
    · exact hi.outcome rfl (by dsimp only; rw [ha]; exact if_pos (by simpa using hin))
    · exact hi.outcome rfl (by
        dsimp only
        rw [ha]
        refine (if_neg (by simpa using hin)).trans ?_
        rw [hready])
    · intro owes
      have hbody : ∀ res, (if t.groupState h = 2 && (t.memberIndex h x.w).isSome && !(h.folded.any (·.1 == x.w.id) ||
            h.contrib.any (·.1 == x.w.id) || t.gredUnderway x.w h.loc) then x.groupTrap t a.bits 3
          else .ok (t.putWave (x.holdGroup x.w .leave h va))) = res → exec (.gleave g) s = .next (x.finish res) :=
        fun res hres => hi.outcome rfl (by
          dsimp only
          rw [ha]
          refine (if_neg (by simpa using hin)).trans ?_
          rw [hready]
          exact hres)
      have howes : (decide (t.groupState h = 2) && (t.memberIndex h x.w).isSome && !(h.folded.any (·.1 == x.w.id) ||
            h.contrib.any (·.1 == x.w.id) || t.gredUnderway x.w h.loc)) = true ↔ owes := by
        simp only [Bool.and_eq_true, decide_eq_true_eq, Bool.not_eq_true', Bool.or_eq_false_iff, and_assoc, owes]
      refine ⟨fun h => hbody _ (if_pos (howes.2 h)), fun h => ?_⟩
      rw [hbody _ (if_neg (mt howes.1 h)), Iss.finish_ok]
      rfl
    · exact hi.outcome rfl (by dsimp only; rw [ha]; exact if_pos (by simpa using hin))
    · intro sub b bad
      have hbody : ∀ res, (if bad != 0#64 then .due t ⟨.poison, bad, a.bits, none⟩
          else
            let vals := (List.range x.width).map fun i => if hasLane x.act i then some (b i).bits else none
            let mark : Piece := { lane := x.first, loc := h.loc, size := 0, row := 0, fwd := [], done := false }
            let o : Op := { x.opOf .value with pieces := [mark] }
            let (w, o) := x.w.addDests x o g.d (if sub = 11 then 2 else 1)
            .ok (t.putWave (x.holdGroup { w with ops := w.ops ++ [o] } (.gred sub vals) h va))) = res →
          exec (.gred g) s = .next (x.finish res) :=
        fun res hres => hi.outcome rfl (by
          dsimp only
          rw [ha]
          refine (if_neg (by simpa using hin)).trans ?_
          exact hres)
      refine ⟨fun hb => hbody _ (if_pos (by simpa using hb)), fun hb => ?_⟩
      intro vals mark wo
      rw [hbody _ (if_neg (by simpa using hb)), Iss.finish_ok]
      rfl
  case request =>
    intro m r loc core release h w t hm hk hh hw hfirst
    have hexec := fun u hu => execGroupRequest_first (u := u) hm hh hw hfirst hu hk
    refine ⟨fun u hu => hexec _ (by rw [hu]), fun sub vals u ok hn hr hturn => ?_, fun hn hr => hexec _ ?_⟩
    · subst hr
      refine ⟨fun hok => hexec _ ?_, fun z hok hz => hexec _ ?_, fun hok hz => hexec _ ?_⟩ <;> subst hok <;> rw [hn] <;>
        dsimp only <;> rw [hturn]
      · dsimp only
        rw [hz]
      · dsimp only
        rw [hz]
    · rw [hn]
      obtain rfl | rfl := hr <;> rfl
  · intro t ho v
    exact execGredResult_delivers hm hk hw hneeds ho
  case member =>
    refine ⟨fun hst => if_pos hst, fun hst hw hs => ?_, fun hst hw => ?_, fun hst hi => ?_, fun i hst hi => ?_⟩
    · rw [groupMember_of_closed hst]
      change State.groupJoin s h w = _
      rw [State.groupJoin, if_neg hs]
      exact if_neg (by simpa using hw)
    · rw [groupMember_of_closed (by omega)]
      change State.groupJoin s h w = _
      rw [State.groupJoin, if_pos hst]
      exact if_neg (by simpa using hw)
    · rw [groupMember_of_closed hst]
      change State.groupLeave s h w = _
      rw [State.groupLeave, hi]
    · rw [groupMember_of_closed hst]
      change State.groupLeave s h w = _
      rw [State.groupLeave, hi]
      simp only [List.isEmpty_iff, beq_iff_eq]

end Sys2Proof.Machine
end


section
/-! CLAIM. User interrupts: UINT, UICTL and the sends that arrive (R401 to R410, R414, R415). -/

namespace Sys2Proof.Machine

/-- A UINT of which no lane fails holds back a send for each lane. -/
theorem Issues.uint_holds {g : Gen} {s : State} {x : Iss} (h : Issues (.uint g) s x) :
    let t (l : Nat) : Nat := (x.b32 g l).bits.toNat
    let far (l : Nat) : Bool := (t l).testBit 29
    let ctx (l : Nat) : Nat := if bitsOf (t l) 11 6 = 0 then x.w.ctx else bitsOf (t l) 11 6
    let bad (l : Nat) : Option LaneFail := if (x.a64 g l).poison then some ⟨.poison, 0, none⟩
      else if far l && !(s.rankOk (bitsOf (t l) 28 12)) then some ⟨.address, 0, some 3⟩ else none
    let one (w : Wave) (l : Nat) : Wave := w.hold x.no x.clk 0 (if far l then
      let rank := bitsOf (t l) 28 12
      .interruptTo { x.request s .interrupt l rank 0 0 8 0 .release (if s.rankKind rank = 1 then .pod else .job)
        (leBytes 8 (x.a64 g l).bits.toNat) with tctx := ctx l, vec := t l % 64 } x.pc
      else .interrupt (ctx l) (t l % 64) (x.a64 g l).bits l x.pc)
    (∀ f, x.fails bad = some f → exec (.uint g) s = .next (x.finish (x.failWith s f))) ∧
    (x.fails bad = none → (x.lanes.any far = true → x.w.seq < 2 ^ 24) →
      exec (.uint g) s = .next (x.complete (s.putWave (x.takeSeq (x.lanes.foldl one x.w) (x.lanes.any far))) true)) := by
  intro t far ctx bad one
  obtain rfl := h.s_eq
  have hone : ∀ w l, (if far l then
      w.hold x.no x.clk 0 (.interruptTo { x.request x.s .interrupt l (bitsOf (t l) 28 12) 0 0 8 0 .release
        (if x.s.rankKind (bitsOf (t l) 28 12) = 1 then .pod else .job) (leBytes 8 (x.a64 g l).bits.toNat) with
          tctx := ctx l, vec := t l % 64 } x.pc)
      else w.hold x.no x.clk 0 (.interrupt (ctx l) (t l % 64) (x.a64 g l).bits l x.pc)) = one w l := fun w l => by
    cases hf : far l <;> simp only [one, hf, if_true, Bool.false_eq_true, if_false]
  refine ⟨fun f hf => h.outcome rfl ?_, fun hf hseq => ?_⟩
  · change (match x.fails bad with
      | some f => x.failWith x.s f
      | none => _) = _
    rw [hf]
  · have hfold : x.lanes.foldl (fun w l => if far l then
        w.hold x.no x.clk 0 (.interruptTo { x.request x.s .interrupt l (bitsOf (t l) 28 12) 0 0 8 0 .release
          (if x.s.rankKind (bitsOf (t l) 28 12) = 1 then .pod else .job) (leBytes 8 (x.a64 g l).bits.toNat) with
            tctx := ctx l, vec := t l % 64 } x.pc)
        else w.hold x.no x.clk 0 (.interrupt (ctx l) (t l % 64) (x.a64 g l).bits l x.pc)) x.w = x.lanes.foldl one x.w := by
      simp only [hone]
    refine h.goesOn rfl ?_
    change (match x.fails bad with
      | some f => x.failWith x.s f
      | none => _) = _
    rw [hf, ← hfold]
    exact if_neg (by simpa [Wave.streamLeft] using hseq)

/-- A UICTL whose record is reached runs its own part on it. -/
theorem Iss.vectorRecord_ok {x : Iss} {g : Gen} {s' : State} {l : Loc} (k : State → Loc → Res)
    (h : x.s.laneAt x.w x.w.ctx ((x.s.ctx x.w.ctx).uipage + 16 * ((x.b32 g x.first).bits.toNat % 64))
      ((x.s.ctx x.w.ctx).uipage + 16 * ((x.b32 g x.first).bits.toNat % 64)) .both = .ok l s') :
    x.vectorRecord g k = k s' l := by
  rw [Iss.vectorRecord, h]

/-- A send to a context whose page is reached. -/
theorem State.sendVector_ok {s t0 : State} {ctx vec : Nat} {payload : DWord} {who : Sender} {page : Loc} (hc : ctx < 64)
    (ha : (s.ctx ctx).st.alive = true) (hp : s.reachPage ctx = .ok page t0) :
    let t := t0.meetErrors page 0x1800
    let l := page.plus (16 * vec)
    let v := t.vectorAt l
    s.sendVector ctx vec payload who = if !(t.senderAllowed page vec who) then .refused 7 t
      else if !v.enabled then .done t
      else
        let u := ((t.modCtx ctx fun c => { c with sendNo := (c.sendNo + 1) % 2 ^ 32 }).setNatAt l 2
          (min (v.count + 1) 0xFFFF)).setNatAt (l.plus 8) 8 payload.toNat
        .done ((if v.count = 0 then (u.setNatAt (l.plus 4) 4 (t.ctx ctx).sendNo).wakeCheck ctx vec l else u).afterWrite l) := by
  intro t l v
  rw [State.sendVector, if_neg (by simp [ha, hc]), hp]

/-- Settles O42. -/
theorem interruptResults : Obligations.InterruptResults := by
  unfold Obligations.InterruptResults
  refine ⟨fun g s x => ⟨fun h => ?uint, fun s' l => ?uictl⟩, fun s ctx vec payload who => ⟨fun hdead => ?dead, fun hc ha => ?alive⟩⟩
  case uint =>
    intro t far ctx
    refine ⟨h.uint_holds.1, fun hgood hseq => h.uint_holds.2 (Iss.fails_none fun l hl => ?_) hseq⟩
    obtain ⟨hp, hr⟩ := hgood l hl
    refine (if_neg (by rw [hp]; exact Bool.false_ne_true)).trans (if_neg ?_)
    intro hbad
    obtain ⟨hf, hn⟩ := Bool.and_eq_true_iff.1 hbad
    rw [hr hf] at hn
    exact Bool.false_ne_true hn
  case uictl =>
    intro b va held
    refine ⟨fun hl => ⟨fun h => ?_, fun h => ?_, fun h => ?_⟩, fun hl h => ?_⟩ <;> obtain rfl := h.s_eq
    · exact h.goesOn rfl (Iss.vectorRecord_ok _ hl)
    · exact h.goesOn rfl (Iss.vectorRecord_ok _ hl)
    · exact h.goesOn rfl (Iss.vectorRecord_ok _ hl)
    · intro t hop hst hwb hneeds r v p w
      refine h.goesOn rfl ((Iss.vectorRecord_ok _ hl).trans ?_)
      refine (if_neg (by rw [hop, hst, hwb]; decide)).trans ?_
      rw [hneeds] <;> rfl
  case dead =>
    refine if_pos ?_
    obtain hc | ha := hdead
    · simp [hc]
    · simp [ha]
  case alive =>
    refine ⟨fun t ht => ?_, fun f t ht => ?_, fun page t0 ht => ?_⟩
    · rw [State.sendVector, if_neg (by simp [ha, hc]), ht]
    · rw [State.sendVector, if_neg (by simp [ha, hc]), ht]
    · intro t l v
      have hsend := State.sendVector_ok (vec := vec) (payload := payload) (who := who) hc ha ht
      refine ⟨fun hno => hsend.trans (if_pos (by rw [hno]; rfl)), fun hok hen => ?_, fun hok hen => ?_⟩ <;>
        have hgo := hsend.trans (if_neg (by rw [hok]; exact Bool.false_ne_true))
      · exact hgo.trans (if_pos (by rw [hen]; rfl))
      · have hset := hgo.trans (if_neg (by rw [hen]; exact Bool.false_ne_true))
        intro u
        exact ⟨fun hcount => hset.trans (congrArg (fun z : State => Sent.done (z.afterWrite l)) (if_neg hcount)),
          fun hcount => hset.trans (congrArg (fun z : State => Sent.done (z.afterWrite l)) (if_pos hcount))⟩

end Sys2Proof.Machine
end


section
/-! CLAIM. Delivery of user interrupts and the return from one (R305, R404, R407, R409, R411 to R413, R415). -/

namespace Sys2Proof.Machine

/-- An earlier send of the same source is on its way. -/
def State.sendAhead (s : State) (id wave : Nat) : Bool :=
  s.msgs.any fun k => decide (k.id < id) && k.wave == wave && (match k.kind with
    | .interrupt _ _ _ _ _ _ => true
    | _ => false)

/-- A send at its page: behind an earlier one of its source it stays, otherwise it comes to what sending it does. -/
theorem State.interruptArrives_send {s : State} {m : Msg} {c v src lane : Nat} {payload ipc : DWord}
    (hk : m.kind = .interrupt c v payload src lane ipc) : s.interruptArrives m =
      if s.sendAhead m.id m.wave then s
      else match s.sendVector c v payload (if src < 64 then .wave src else .host) with
        | .done s => s.dropMsg m.id
        | .wait s => s
        | .absent s => s.parkNotice m.id c (s.ctx c).uipage
        | .refused e s => if src < 64 then (s.dropMsg m.id).sendRefused m.wave lane m.no ipc e
          else (s.dropMsg m.id).event c 0 ⟨0x13, 5, 2, 0xFFFFFFFF, 0, 0, 0⟩ := by
  rw [State.interruptArrives, hk]
  have hsame : (fun k : Msg => decide (k.id < m.id) && k.wave == m.wave && (match k.kind, MsgKind.interrupt c v payload src lane ipc with
      | .interrupt _ _ _ _ _ _, .interrupt _ _ _ _ _ _ => true
      | .uictl _ l, .uictl _ l' => l == l'
      | _, _ => false)) = fun k => decide (k.id < m.id) && k.wave == m.wave && (match k.kind with
        | .interrupt _ _ _ _ _ _ => true
        | _ => false) := by
    funext k
    cases k.kind <;> rfl
  exact if_congr (Iff.of_eq (congrArg (fun f => s.msgs.any f = true) hsame)) rfl rfl

/-- An earlier UICTL on the same record is on its way. -/
def State.uictlAhead (s : State) (id wave : Nat) (l : Loc) : Bool :=
  s.msgs.any fun k => decide (k.id < id) && k.wave == wave && (match k.kind with
    | .uictl _ k => k == l
    | _ => false)

/-- What a UICTL of kind op does to the record at l when its turn has come. -/
def State.uictlDone (t : State) (m : Msg) (op : Nat) (l : Loc) : State :=
  let u := (t.homeRead l 16).2
  let p := anyPoison (t.homeRead l 16).1
  let v := u.vectorAt l
  let vec := l.addr % 1024 / 16
  match op with
  | 0 => ((u.setNatAt (l.plus 2) 1 (v.ctl ||| 2)).afterWrite l).dropMsg m.id
  | 1 =>
    let s := u.setNatAt (l.plus 2) 1 (v.ctl &&& 0xFD)
    let s := if v.masked then s.wakeCheck m.ctx vec l else s
    (s.afterWrite l).dropMsg m.id
  | _ =>
    let s := ((u.setNatAt l 2 0).afterWrite l).dropMsg m.id
    let s := s.modCtx m.ctx fun c => { c with active := if c.active = some vec then none else c.active }
    let s := match s.wave? m.wave with
      | some w => s.acquireInval w.core w.ctx
      | none => s
    match (s.wave? m.wave).bind (·.op? m.uid) with
    | none => s
    | some o => s.modWave m.wave fun w =>
      ((lanesOf o.lanes).foldl (fun w i => (w.deliver64 o i ⟨BitVec.ofNat 64 v.payload, p⟩).deliver o 2 i
        (.ofNat (v.count + 65536 * (v.ctl % 8)) p)) w).finishOp m.uid s.clk

/-- An acknowledged record is delivered to the lanes of its operation. -/
theorem State.uictlDone_ack {t : State} {m : Msg} {l : Loc} {w : Wave} {o : Op} :
    let u := (t.homeRead l 16).2
    let p := anyPoison (t.homeRead l 16).1
    let v := u.vectorAt l
    let z := (((u.setNatAt l 2 0).afterWrite l).dropMsg m.id).modCtx m.ctx fun c =>
      { c with active := if c.active = some (l.addr % 1024 / 16) then none else c.active }
    z.wave? m.wave = some w → ((z.acquireInval w.core w.ctx).wave? m.wave).bind (·.op? m.uid) = some o →
    t.uictlDone m 2 l = (z.acquireInval w.core w.ctx).modWave m.wave fun w =>
      ((lanesOf o.lanes).foldl (fun w i => (w.deliver64 o i ⟨BitVec.ofNat 64 v.payload, p⟩).deliver o 2 i
        ⟨BitVec.ofNat 32 (v.count + 65536 * (v.ctl % 8)), p⟩) w).finishOp m.uid (z.acquireInval w.core w.ctx).clk := by
  intro u p v z hw hop
  unfold State.uictlDone
  dsimp only
  rw [hw]
  dsimp only
  rw [hop] <;> rfl

/-- A UICTL whose turn at its record has come. -/
theorem State.interruptArrives_uictl {s t : State} {m : Msg} {op : Nat} {l : Loc} (hk : m.kind = .uictl op l)
    (hfirst : s.uictlAhead m.id m.wave l = false)
    (hturn : s.homeTurn m l 16 ((s.wave? m.wave).elim 0 (·.core)) none true = (true, t)) :
    s.interruptArrives m = t.uictlDone m op l := by
  rw [State.interruptArrives, hk]
  have hsame : (fun k : Msg => decide (k.id < m.id) && k.wave == m.wave && (match k.kind, MsgKind.uictl op l with
      | .interrupt _ _ _ _ _ _, .interrupt _ _ _ _ _ _ => true
      | .uictl _ l, .uictl _ l' => l == l'
      | _, _ => false)) = fun k => decide (k.id < m.id) && k.wave == m.wave && (match k.kind with
        | .uictl _ k => k == l
        | _ => false) := by
    funext k
    cases k.kind <;> rfl
  have hfirst' : s.msgs.any (fun k => decide (k.id < m.id) && k.wave == m.wave && (match k.kind with
      | .uictl _ k => k == l
      | _ => false)) = false := hfirst
  rw [← hsame] at hfirst'
  refine (if_neg fun h => Bool.false_ne_true (hfirst'.symm.trans h)).trans ?_
  dsimp only
  rw [hturn] <;> rfl

theorem execInterruptSend_eq {s : State} {m : Msg} (hm : s.msg? m.id = some m) :
    exec (.interruptSend m.id) s = .next (s.interruptArrives m).poll := by
  change execInterruptSend m.id s = _
  rw [execInterruptSend, hm]

/-- The handler wave as a diversion leaves it. -/
def State.diverted (s : State) (w : Wave) (vec : Nat) (entry : DWord) : Wave :=
  let w := (w.leaveWaits s.clk).newRegion s.clk
  let saved : Saved := ⟨w.splits, w.parked, w.sregs, w.preds, w.modes, vec, w.ahead⟩
  let r := w.pushWindow .handler 0 0#64 32 (some saved)
  let sp := Split.fresh 0 entry r.2.live r.1 s.clk
  let v := (r.2.writeName sp 0 s.clk none 0 fun _ => some (.ofNat vec false)).2
  { v with
    splits := [sp], parked := [], ahead := [], preds := v.preds.map fun _ => 0#64, modes := v.modes.map fun _ => modeReset }

theorem State.divert_eq (s : State) (w : Wave) (vec : Nat) (entry : DWord) : s.divert w vec entry =
    ((s.putWave (s.diverted w vec entry)).acquireInval (s.diverted w vec entry).core (s.diverted w vec entry).ctx).modCtx
      (s.diverted w vec entry).ctx fun c =>
        { c with active := some vec, wakeNoticed := c.wakeNoticed.filter (· != vec) } := rfl

/-- What a wave that leaves its waits keeps. -/
theorem Wave.leaveWaits_keeps (w : Wave) (clk : Nat) : (w.leaveWaits clk).id = w.id ∧ (w.leaveWaits clk).live = w.live ∧
    (w.leaveWaits clk).sregs = w.sregs ∧ (w.leaveWaits clk).nextWin = w.nextWin ∧ (w.leaveWaits clk).windows = w.windows :=
  Wave.foldl_keeps (P := fun v => v.id = w.id ∧ v.live = w.live ∧ v.sregs = w.sregs ∧ v.nextWin = w.nextWin ∧ v.windows = w.windows)
    (f := fun w u => w.finishOp u clk) (fun _ _ h => h) _ ⟨rfl, rfl, rfl, rfl, rfl⟩

/-- What a wave keeps that writes a name. -/
theorem Wave.writeName_keeps (w : Wave) (sp : Split) (name clk : Nat) (old : Option Nat) (writer : Nat) (f : Nat → Option Val) :
    (w.writeName sp name clk old writer f).2.id = w.id ∧ (w.writeName sp name clk old writer f).2.live = w.live ∧
      (w.writeName sp name clk old writer f).2.sregs = w.sregs ∧
      (w.writeName sp name clk old writer f).2.windows.map (·.id) = w.windows.map (·.id) := by
  obtain ⟨regs, h, -⟩ := w.writeName_eq sp name clk old writer f
  rw [h]
  refine ⟨rfl, rfl, rfl, ?_⟩
  refine List.map_map.trans (List.map_congr_left fun x _ => ?_)
  dsimp only [Function.comp_apply]
  split <;> rfl

theorem State.diverted_id (s : State) (w : Wave) (vec : Nat) (entry : DWord) : (s.diverted w vec entry).id = w.id :=
  (Wave.writeName_keeps _ _ 0 s.clk none 0 fun _ => some (.ofNat vec false)).1.trans (w.leaveWaits_keeps s.clk).1

theorem State.diverted_keeps (s : State) (w : Wave) (vec : Nat) (entry : DWord) :
    let z := s.diverted w vec entry
    z.splits = [Split.fresh 0 entry w.live w.nextWin s.clk] ∧ z.parked = [] ∧ (∀ p ∈ z.preds, p = 0#64) ∧
      (∀ m ∈ z.modes, m = 0x10#32) ∧ z.live = w.live ∧ z.sregs = w.sregs ∧
      z.windows.map (·.id) = w.windows.map (·.id) ++ [w.nextWin] := by
  obtain ⟨-, hlive, hsregs, hwin, hwindows⟩ := w.leaveWaits_keeps s.clk
  have hkeep := fun v sp => Wave.writeName_keeps v sp 0 s.clk none 0 fun _ => some (.ofNat vec false)
  refine ⟨?_, rfl, fun p hp => ?_, fun m hm => ?_, (hkeep _ _).2.1.trans hlive, (hkeep _ _).2.2.1.trans hsregs,
    (hkeep _ _).2.2.2.trans ?_⟩
  · exact congrArg₂ (fun live win => [Split.fresh 0 entry live win s.clk]) hlive hwin
  · obtain ⟨-, -, rfl⟩ := List.mem_map.1 hp
    rfl
  · obtain ⟨-, -, rfl⟩ := List.mem_map.1 hm
    rfl
  · rw [← hwindows, ← hwin]
    exact List.map_append

theorem State.wave?_divert {s : State} {w w' : Wave} {vec : Nat} {entry : DWord} (h : s.wave? w.id = some w') :
    (s.divert w vec entry).wave? w.id = some (s.diverted w vec entry) := by
  rw [State.divert_eq]
  have hid := s.diverted_id w vec entry
  rw [← hid] at h ⊢
  exact State.wave?_putWave_same h

/-- Settles O43. -/
theorem interruptDeliveryResults : Obligations.InterruptDeliveryResults := by
  unfold Obligations.InterruptDeliveryResults
  refine ⟨fun s => ?sends, fun s => ⟨fun c => ?none, ?divert, ?uiret⟩⟩
  case sends =>
    intro earlier arrived
    refine ⟨fun m c v payload src lane ipc hm hk => ⟨fun h => ?_, fun h => ?_⟩, ?uictl, ?host⟩
    · rw [execInterruptSend_eq hm, State.interruptArrives_send hk]
      exact congrArg (fun z : State => Host.Outcome.next z.poll) (if_pos h)
    · rw [execInterruptSend_eq hm, State.interruptArrives_send hk]
      exact congrArg (fun z : State => Host.Outcome.next z.poll)
        ((if_neg fun k => Bool.false_ne_true (h.symm.trans k)).trans rfl)
    case uictl =>
      intro m op l t hm hk hfirst hturn u p v vec
      rw [execInterruptSend_eq hm, State.interruptArrives_uictl hk hfirst hturn]
      refine ⟨fun ho => ?_, fun ho => ?_, fun w o ho => ?_⟩ <;> subst ho
      · rfl
      · rfl
      · intro z hw hop
        exact congrArg (fun z : State => Host.Outcome.next z.poll) (State.uictlDone_ack hw hop)
    case host =>
      intro c v payload via whole poisoned die reaches queued ahead u
      have hnot : (!s.dev.on || s.dev.st != .ready || decide (64 ≤ c) || decide (64 ≤ v) || decide (c = 0)) = true ↔ ¬reaches := by
        have hbound : (64 ≤ c ∨ 64 ≤ v ∨ c = 0) ↔ ¬(0 < c ∧ c < 64 ∧ v < 64) := by omega
        simp only [reaches, Bool.or_eq_true, Bool.not_eq_true', decide_eq_true_eq, bne_iff_ne, or_assoc, hbound,
          not_and_or, Bool.not_eq_true, ne_eq]
      refine ⟨fun h => congrArg Host.Outcome.next (if_pos (hnot.2 h)), fun h hp => ?_, fun h hp hw => ?_, fun h hp hw => ?_⟩
      · exact congrArg Host.Outcome.next ((if_neg (mt hnot.1 (not_not_intro h))).trans (if_pos hp))
      · exact congrArg Host.Outcome.next ((if_neg (mt hnot.1 (not_not_intro h))).trans
          ((if_neg (by rw [hp]; exact Bool.false_ne_true)).trans (if_pos (by rw [hw]; rfl))))
      · exact congrArg Host.Outcome.next ((if_neg (mt hnot.1 (not_not_intro h))).trans
          ((if_neg (by rw [hp]; exact Bool.false_ne_true)).trans (if_neg (by rw [hw]; exact Bool.false_ne_true))))
  case none =>
    refine ⟨fun h => ?_, fun w h hw => ?_⟩ <;> change execInterruptDelivery c s = _ <;> rw [execInterruptDelivery, h]
    exact congrArg Host.Outcome.next (if_pos (by obtain h | h := hw <;> simp [h]))
  case divert =>
    intro c w page t hh hd hv hp
    have hexec : ∀ z, (match t.oldestVector c page with
        | some v => t.divert w v (BitVec.ofNat 64 (t.natAt (page.plus 0xA00) 8))
        | none => t) = z → exec (.interruptDelivery c) s = .next z := by
      intro z hz
      change execInterruptDelivery c s = _
      rw [execInterruptDelivery, hh]
      dsimp only
      rw [if_neg (by simp [hd, hv]), hp]
      exact congrArg Host.Outcome.next hz
    refine ⟨fun h => hexec _ (by rw [h]), fun v h => ?_⟩
    intro entry u
    refine ⟨hexec _ (by rw [h]), fun w' hw' => ?_⟩
    exact ⟨_, State.wave?_divert hw', t.diverted_keeps w v entry⟩
  case uiret =>
    intro g x v hi hv
    obtain rfl := hi.s_eq
    refine ⟨fun hk => hi.outcome rfl ?_, fun k hk hs hm => hi.outcome rfl ?_, fun k hk hs hm => ?_⟩
    · dsimp only
      rw [hv]
      dsimp only
      split
      · exact absurd ‹_› hk
      · rfl
    · dsimp only
      rw [hv]
      dsimp only
      rw [hk, hs]
      exact if_pos (bne_iff_ne.2 hm)
    · intro w0 w t
      have hbody : ∀ res, (match t.reachPage w.ctx with
          | .ok page s => .jump (s.wakeCheck w.ctx k.vec (page.plus (16 * k.vec)))
          | _ => .jump t) = res → exec (.uiret g) x.s = .next (x.finish res) := fun res hres => hi.outcome rfl (by
        dsimp only
        rw [hv]
        dsimp only
        rw [hk, hs]
        exact (if_neg (by simpa using hm)).trans hres)
      cases hp : t.reachPage w.ctx with
      | ok page u =>
        rw [hbody (.jump (u.wakeCheck w.ctx k.vec (page.plus (16 * k.vec)))) (by rw [hp]), Iss.finish_jump]
      | stall u => rw [hbody (.jump t) (by rw [hp]), Iss.finish_jump]
      | fault f u => rw [hbody (.jump t) (by rw [hp]), Iss.finish_jump]

end Sys2Proof.Machine
end


section
/-! SUPPORT. What locating the lanes of a memory instruction finds: lane by lane, and how a check of its data changes
it (R259, R261, R262). -/

namespace Sys2Proof.Machine

/-- What the checks of one lane come to: its place, its failure, or a stall. -/
inductive LaneFound where
  | place (p : Place) (s : State)
  | fails (f : LaneFail) (s : State)
  | waits (s : State)

namespace Iss
variable (x : Iss) (addr : Nat → Val64) (align : Nat) (need : Need) (extra : Nat → Named → Option LaneFail)
  (data : Nat → Place → Bool) (later : Nat → Place → State → LaneLater)

/-- The checks of a lane that need no translation. -/
def early (s : State) (i : Nat) : Option LaneFail :=
  if (addr i).poison then some ⟨.poison, (addr i).bits, none⟩
  else match extra i (s.nameOf x.w (addr i).bits.toNat), s.nameOf x.w (addr i).bits.toNat with
    | some f, _ => some f
    | none, .bad f => some f
    | none, _ => if (addr i).bits.toNat % align ≠ 0 then some ⟨.align, (addr i).bits, none⟩ else none

/-- The last checks of a lane whose place is known. -/
def lastly (s : State) (i : Nat) (p : Place) : LaneFound :=
  if data i p then .fails ⟨.poison, (addr i).bits, none⟩ s
  else match later i p s with
    | .ok s => .place p s
    | .bad f s => .fails f s
    | .stall s => .waits s

/-- The checks of a lane, in their order. -/
def lane (s : State) (i : Nat) : LaneFound :=
  match x.early addr align extra s i, s.nameOf x.w (addr i).bits.toNat with
  | some f, _ => .fails f s
  | none, .local c va => (match s.laneAt x.w c va (addr i).bits.toNat need with
    | .stall s => .waits s
    | .bad f s => .fails f s
    | .ok l s => lastly addr data later s i (.mem l))
  | none, .placed p => lastly addr data later s i p
  | none, .bad f => .fails f s

/-- The lanes gone through so far: the places and the failures. -/
def laneStep (r : Except State (State × List (Nat × Place) × List (Nat × LaneFail))) (i : Nat) :
    Except State (State × List (Nat × Place) × List (Nat × LaneFail)) :=
  match r with
  | .error s => .error s
  | .ok (s, ps, fs) => match x.lane addr align need extra data later s i with
    | .place p s => .ok (s, ps ++ [(i, p)], fs)
    | .fails f s => .ok (s, ps, fs ++ [(i, f)])
    | .waits s => .error s

/-- What the lanes that were gone through come to. -/
def located : Except State (State × List (Nat × Place) × List (Nat × LaneFail)) → Located
  | .error s => .stall s
  | .ok (s, ps, fs) => match fs.head? with
    | none => .ok s ps
    | some (_, f) =>
      .fail s ⟨f.cause, laneSet ((fs.filter (fun e => e.2.cause == f.cause)).map (·.1)), f.faddr, f.einfo⟩

theorem locate_eq (lanes : List Nat) : x.locate lanes addr align need extra data later =
    located (lanes.foldl (x.laneStep addr align need extra data later) (.ok (x.s, [], []))) := by
  change located (lanes.foldl _ (.ok (x.s, [], []))) = _
  refine congrArg (fun f => located (lanes.foldl f (.ok (x.s, [], [])))) (funext fun r => funext fun i => ?_)
  unfold laneStep
  split
  · rfl
  · rename_i s ps fs
    unfold lane
    change (match x.early addr align extra s i, s.nameOf x.w (addr i).bits.toNat with
      | some f, _ => _
      | none, .local c va => _
      | none, .placed p => _
      | none, .bad f => _) = _
    dsimp only
    generalize x.early addr align extra s i = e
    generalize s.nameOf x.w (addr i).bits.toNat = n
    have hput : ∀ t p, (if data i p then Except.ok (t, ps, fs ++ [(i, ⟨.poison, (addr i).bits, none⟩)])
        else match later i p t with
          | .ok s => .ok (s, ps ++ [(i, p)], fs)
          | .bad f s => .ok (s, ps, fs ++ [(i, f)])
          | .stall s => .error s) = match lastly addr data later t i p with
            | .place p s => .ok (s, ps ++ [(i, p)], fs)
            | .fails f s => .ok (s, ps, fs ++ [(i, f)])
            | .waits s => .error s := by
      intro t p
      unfold lastly
      split
      · rfl
      · cases later i p t <;> rfl
    match e, n with
    | some f, _ => rfl
    | none, .placed p => exact hput s p
    | none, .bad f => rfl
    | none, .local c va =>
      dsimp only
      cases s.laneAt x.w c va (addr i).bits.toNat need with
      | stall s => rfl
      | bad f s => rfl
      | ok l t => exact hput t (.mem l)
/-- The lanes of a list find their places one after another. -/
inductive Finds : State → List Nat → State → List (Nat × Place) → Prop
  | nil (s : State) : Finds s [] s []
  | cons {s t u : State} {i : Nat} {p : Place} {is : List Nat} {ps : List (Nat × Place)}
      (hlane : x.lane addr align need extra data later s i = .place p t) (hrest : Finds t is u ps) : Finds s (i :: is) u ((i, p) :: ps)

variable {x addr align need extra data later}

/-- No lane has failed where none has at the end. -/
theorem foldl_laneStep_ok {lanes : List Nat} {r : Except State (State × List (Nat × Place) × List (Nat × LaneFail))}
    {s' : State} {ps' : List (Nat × Place)} (h : lanes.foldl (x.laneStep addr align need extra data later) r = .ok (s', ps', [])) :
    ∃ s ps, r = .ok (s, ps, []) ∧ ∃ qs, ps' = ps ++ qs ∧ Finds x addr align need extra data later s lanes s' qs := by
  induction lanes generalizing r with
  | nil => exact ⟨s', ps', h, [], (List.append_nil _).symm, .nil s'⟩
  | cons i is ih =>
    obtain ⟨t, ps, hr, qs, rfl, hfinds⟩ := ih h
    match r with
    | .error s => exact nomatch hr
    | .ok (s, ps0, fs) =>
      unfold laneStep at hr
      dsimp only at hr
      split at hr
      · next p t' hlane =>
        obtain ⟨rfl, rfl, rfl⟩ : t' = t ∧ ps0 ++ [(i, p)] = ps ∧ fs = [] := by
          obtain ⟨h₁, h₂⟩ := Prod.mk.inj (Except.ok.inj hr)
          exact ⟨h₁, Prod.mk.inj h₂⟩
        exact ⟨s, ps0, rfl, (i, p) :: qs, List.append_assoc _ _ _, .cons hlane hfinds⟩
      · obtain ⟨-, h₂⟩ := Prod.mk.inj (Except.ok.inj hr)
        exact absurd (Prod.mk.inj h₂).2 (by simp)
      · exact nomatch hr

theorem Finds.foldl {s s' : State} {lanes : List Nat} {ps : List (Nat × Place)}
    (h : Finds x addr align need extra data later s lanes s' ps) (ps0 : List (Nat × Place)) (fs : List (Nat × LaneFail)) :
    lanes.foldl (x.laneStep addr align need extra data later) (.ok (s, ps0, fs)) = .ok (s', ps0 ++ ps, fs) := by
  induction h generalizing ps0 with
  | nil s => rw [List.append_nil, List.foldl_nil]
  | cons hlane hrest ih =>
    rw [List.foldl_cons, laneStep, hlane]
    dsimp only
    rw [ih, List.append_assoc, List.singleton_append]

/-- Lanes are located where each finds its place. -/
theorem locate_ok_iff {lanes : List Nat} {s' : State} {ps : List (Nat × Place)} :
    x.locate lanes addr align need extra data later = .ok s' ps ↔ Finds x addr align need extra data later x.s lanes s' ps := by
  rw [locate_eq]
  refine ⟨fun h => ?_, fun h => by rw [h.foldl [] []]; rfl⟩
  unfold located at h
  split at h
  · exact nomatch h
  · next s qs fs hfold =>
    split at h
    · next hfs =>
      obtain ⟨rfl, rfl⟩ := Located.ok.inj h
      rw [List.head?_eq_none_iff.1 hfs] at hfold
      obtain ⟨t, ps0, hr, qs', hqs, hfinds⟩ := foldl_laneStep_ok hfold
      obtain ⟨h₁, h₂⟩ := Prod.mk.inj (Except.ok.inj hr)
      obtain rfl : [] = ps0 := (Prod.mk.inj h₂).1
      rw [hqs, List.nil_append, h₁]
      exact hfinds
    · exact nomatch h

/-- The lanes that find their places are those gone through, in their order. -/
theorem Finds.lanes {s s' : State} {lanes : List Nat} {ps : List (Nat × Place)}
    (h : Finds x addr align need extra data later s lanes s' ps) : ps.map (·.1) = lanes := by
  induction h with
  | nil => rfl
  | cons _ _ ih => rw [List.map_cons, ih]

end Iss

/-- An address of this class may be at the place. -/
def Named.mayBe : Named → Place → Prop
  | .local _ _, .mem _ => True
  | .placed q, p => q = p
  | _, _ => False

namespace Iss
variable {x : Iss} {addr : Nat → Val64} {align : Nat} {need : Need} {extra extra' : Nat → Named → Option LaneFail}
  {data data' : Nat → Place → Bool} {later later' : Nat → Place → State → LaneLater}

/-- A lane that finds its place also does so under other checks that find nothing there. -/
theorem lane_more {s t : State} {i : Nat} {p : Place} (h : x.lane addr align need extra data later s i = .place p t)
    (hextra : ∀ k : Named, k.mayBe p → extra i k = none → extra' i k = none) (hdata : data' i p = false)
    (hlater : ∀ s t, later i p s = .ok t → later' i p s = .ok t) :
    x.lane addr align need extra' data' later' s i = .place p t := by
  have hlast : ∀ s q, lastly addr data later s i q = .place p t → q = p ∧ lastly addr data' later' s i q = .place p t := by
    intro s q hq
    unfold lastly at hq
    split at hq
    · exact nomatch hq
    · split at hq
      · next u hu =>
        obtain ⟨rfl, rfl⟩ := LaneFound.place.inj hq
        refine ⟨rfl, ?_⟩
        rw [lastly, if_neg (by rw [hdata]; exact Bool.false_ne_true), hlater _ _ hu]
      · exact nomatch hq
      · exact nomatch hq
  have hearly : ∀ k, k.mayBe p → s.nameOf x.w (addr i).bits.toNat = k → x.early addr align extra s i = none →
      x.early addr align extra' s i = none := by
    intro k hk hname he
    unfold early at he ⊢
    rw [hname] at he ⊢
    by_cases hp : (addr i).poison = true
    · rw [if_pos hp] at he
      exact nomatch he
    · rw [if_neg hp] at he ⊢
      cases hx : extra i k with
      | some f => rw [hx] at he; exact nomatch he
      | none =>
        rw [hx] at he
        rw [hextra _ hk hx]
        obtain ⟨c, va⟩ | q | f := k
        · exact he
        · exact he
        · exact hk.elim
  unfold lane at h ⊢
  split at h
  · exact nomatch h
  · next c va he hname =>
    split at h
    · exact nomatch h
    · exact nomatch h
    · next l u hat =>
      obtain ⟨rfl, hl⟩ := hlast _ _ h
      rw [hearly (.local c va) trivial hname he, hname]
      dsimp only
      rw [hat]
      exact hl
  · next q he hname =>
    obtain ⟨rfl, hl⟩ := hlast _ _ h
    rw [hearly (.placed q) (show q = q from rfl) hname he, hname]
    exact hl
  · exact nomatch h

/-- Lanes that are located are located under other checks that find nothing at their places. -/
theorem locate_more {lanes : List Nat} {s' : State} {ps : List (Nat × Place)}
    (h : x.locate lanes addr align need extra data later = .ok s' ps)
    (hextra : ∀ i p, (i, p) ∈ ps → ∀ k : Named, k.mayBe p → extra i k = none → extra' i k = none)
    (hdata : ∀ i p, (i, p) ∈ ps → data' i p = false)
    (hlater : ∀ i p, (i, p) ∈ ps → ∀ s t, later i p s = .ok t → later' i p s = .ok t) :
    x.locate lanes addr align need extra' data' later' = .ok s' ps := by
  rw [locate_ok_iff] at h ⊢
  generalize x.s = s at h ⊢
  induction h with
  | nil s => exact .nil s
  | cons hlane hrest ih =>
    exact .cons (lane_more hlane (hextra _ _ List.mem_cons_self) (hdata _ _ List.mem_cons_self) (hlater _ _ List.mem_cons_self))
      (ih (fun i p hm => hextra i p (List.mem_cons_of_mem _ hm)) (fun i p hm => hdata i p (List.mem_cons_of_mem _ hm))
        (fun i p hm => hlater i p (List.mem_cons_of_mem _ hm)))

/-- Lanes whose data is clean are located as they are without a look at it. -/
theorem locate_clean {lanes : List Nat} {s' : State} {ps : List (Nat × Place)}
    (h : x.locate lanes addr align need extra = .ok s' ps) (hdata : ∀ i p, (i, p) ∈ ps → data' i p = false) :
    x.locate lanes addr align need extra data' = .ok s' ps :=
  locate_more h (fun _ _ _ _ _ h => h) hdata (fun _ _ _ _ _ h => h)

/-- A lane that finds its place fails there where its data must not be poisoned and is. -/
theorem lane_dirty {s t : State} {i : Nat} {p : Place} (h : x.lane addr align need extra (fun _ _ => false) (fun _ _ s => .ok s) s i = .place p t)
    (hdata : data' i p = true) :
    x.lane addr align need extra data' (fun _ _ s => .ok s) s i = .fails ⟨.poison, (addr i).bits, none⟩ t := by
  unfold lane at h ⊢
  split at h
  · exact nomatch h
  · next c va he hname =>
    split at h
    · exact nomatch h
    · exact nomatch h
    · next l u hat =>
      obtain ⟨rfl, rfl⟩ := LaneFound.place.inj h
      exact if_pos hdata
  · next q he hname =>
    obtain ⟨rfl, rfl⟩ := LaneFound.place.inj h
    exact if_pos hdata
  · exact nomatch h

/-- What the lanes come to where those of poisoned data fail. -/
theorem Finds.foldl_dirty {s s' : State} {lanes : List Nat} {ps : List (Nat × Place)}
    (h : Finds x addr align need extra (fun _ _ => false) (fun _ _ s => .ok s) s lanes s' ps) (ps0 : List (Nat × Place))
    (fs : List (Nat × LaneFail)) :
    lanes.foldl (x.laneStep addr align need extra data' fun _ _ s => .ok s) (.ok (s, ps0, fs)) =
      .ok (s', ps0 ++ ps.filter (fun p => !data' p.1 p.2),
        fs ++ (ps.filter fun p => data' p.1 p.2).map fun p => (p.1, ⟨.poison, (addr p.1).bits, none⟩)) := by
  induction h generalizing ps0 fs with
  | nil s => simp
  | @cons s t u i p is ps hlane hrest ih =>
    rw [List.foldl_cons, laneStep]
    cases hd : data' i p with
    | true =>
      rw [lane_dirty hlane hd]
      dsimp only
      rw [ih]
      simp [hd]
    | false =>
      rw [lane_more hlane (fun _ _ h => h) hd (fun _ _ h => h)]
      dsimp only
      rw [ih]
      simp [hd]

/-- The lowest lane whose data is poisoned decides, and every such lane raises POISON. -/
theorem locate_dirty {lanes : List Nat} {s' : State} {ps : List (Nat × Place)} {l : Nat} {p : Place}
    (h : x.locate lanes addr align need extra = .ok s' ps)
    (hbad : (ps.filter fun p => data' p.1 p.2).head? = some (l, p)) :
    x.locate lanes addr align need extra data' =
      .fail s' ⟨.poison, laneSet ((ps.filter fun p => data' p.1 p.2).map (·.1)), (addr l).bits, none⟩ := by
  rw [locate_ok_iff] at h
  rw [locate_eq, h.foldl_dirty]
  obtain ⟨rest, hrest⟩ := List.head?_eq_some_iff.1 hbad
  rw [hrest]
  dsimp only [located, List.nil_append, List.map_cons, List.head?_cons]
  have hall : ∀ qs : List (Nat × Place), (qs.map fun p => (p.1, (⟨.poison, (addr p.1).bits, none⟩ : LaneFail))).filter
      (fun e => e.2.cause == .poison) = qs.map fun p => (p.1, ⟨.poison, (addr p.1).bits, none⟩) := fun qs =>
    List.filter_eq_self.2 fun e he => by
      obtain ⟨p, -, rfl⟩ := List.mem_map.1 he
      rfl
  exact congrArg (fun ls => Located.fail s' ⟨.poison, laneSet ls, (addr l).bits, none⟩)
    ((congrArg (List.map (·.1)) (hall ((l, p) :: rest))).trans List.map_map)

/-- The places found are those of the lanes gone through. -/
theorem locate_lanes {lanes : List Nat} {s' : State} {ps : List (Nat × Place)}
    (h : x.locate lanes addr align need extra data later = .ok s' ps) : ps.map (·.1) = lanes := (locate_ok_iff.1 h).lanes

/-- Where the data alone decides, the lanes that raise POISON are those located whose data is poisoned. -/
theorem locate_dirty_lanes {lanes : List Nat} {s' : State} {ps : List (Nat × Place)} {bad : Nat → Bool} {l : Nat}
    (h : x.locate lanes addr align need extra = .ok s' ps) (hbad : (lanes.filter bad).head? = some l) :
    x.locate lanes addr align need extra (fun i _ => bad i) =
      .fail s' ⟨.poison, laneSet (lanes.filter bad), (addr l).bits, none⟩ := by
  have hfilter : (ps.filter fun p => bad p.1).map (·.1) = lanes.filter bad := by
    rw [← locate_lanes h, List.filter_map]
    rfl
  rw [← hfilter, List.head?_map] at hbad
  obtain ⟨⟨i, p⟩, hhead, rfl⟩ := Option.map_eq_some_iff.1 hbad
  rw [locate_dirty (data' := fun i _ => bad i) h hhead, hfilter]

/-- One lane of an aligned local address whose page is reached. -/
theorem locate_local {i c va : Nat} {l : Loc} {s' : State} (hp : (addr i).poison = false)
    (hname : x.s.nameOf x.w (addr i).bits.toNat = .local c va) (hextra : extra i (.local c va) = none)
    (halign : (addr i).bits.toNat % align = 0) (hat : x.s.laneAt x.w c va (addr i).bits.toNat need = .ok l s') :
    x.locate [i] addr align need extra = .ok s' [(i, .mem l)] := by
  refine locate_ok_iff.2 (.cons ?_ (.nil s'))
  have hearly : x.early addr align extra x.s i = none := by
    unfold early
    rw [hname, hextra, if_neg (by rw [hp]; exact Bool.false_ne_true)]
    exact if_neg (not_not_intro halign)
  unfold lane
  rw [hearly, hname]
  dsimp only
  rw [hat]
  rfl

end Iss

/-- A wave that needs a sequence value has one left. -/
theorem Wave.streamEnough {far : Bool} {w : Wave} (h : far = true → w.seq < 2 ^ 24) : ¬(far && !w.streamLeft) = true := by
  rw [Bool.and_eq_true, Bool.not_eq_true', Wave.streamLeft, decide_eq_false_iff_not]
  exact fun hf => hf.2 (h hf.1)

end Sys2Proof.Machine
end


section
/-! CLAIM. FENCE, CWAIT, PREF, WBACK and INVL (R277 to R280). -/

namespace Sys2Proof.Machine

namespace Iss
variable (x : Iss) (m : Mem)

/-- A counter of another rank than the device's own fails. -/
def farFails (_ : Nat) (k : Named) : Option LaneFail := match k with
  | .placed (.far r _ _) => if r = x.s.ownRank then none else some ⟨.address, (x.addr m x.first).bits, some 6⟩
  | _ => none

/-- The counter of a CWAIT. -/
def cwaitAt : Located :=
  x.locate [x.first] (x.addr m) m.size.bytes .read (x.farFails m) fun i _ => anyPoison (x.dataOf m.c m.size.bytes i)

/-- The split's wait for a counter. -/
def cwaitWait (far : Bool) (s : State) (k : WaitKind) (l : Loc) : Res :=
  let w := x.takeSeq x.w far
  .wait (s.putWave { w with took := if far then w.took ++ [(x.sp.win, x.pc)] else w.took })
    (x.waitOf k l (x.addr m x.first).bits.toNat m.acq 0x59 0)

/-- A counter whose region denies it. -/
def cwaitDenied (far : Bool) (s : State) (e : Nat) : Res :=
  let w := x.takeSeq x.w far
  .due (s.putWave { w with took := w.took.filter (· != (x.sp.win, x.pc)) })
    ⟨.remoteDenied, laneSet [x.first], (x.addr m x.first).bits, some (BitVec.ofNat 64 e)⟩

/-- What a CWAIT comes to, once its counter is located. -/
def cwaitRest (s : State) (ps : List (Nat × Place)) : Res :=
  let far := Iss.isFar ps && !(x.w.took.contains (x.sp.win, x.pc))
  let t := pvalue (x.dataOf m.c m.size.bytes x.first)
  if far && !x.w.streamLeft then x.exhausted s
  else if x.full 1 then .stall s
  else match ps.head? with
    | some (_, .mem l) => x.cwaitWait m far s (.counter m.size.bytes t) l
    | some (_, .far r g f) => (match s.regionCheck r g f m.size.bytes 0 with
      | .denied e => x.cwaitDenied m far s e
      | .ok k va => match s.translate none (s.homeDie k va) k va Need.read with
        | .ok l s => x.cwaitWait m far s (.farCounter m.size.bytes t g f) l
        | .stall s => .stall s
        | .fault e s => if e.cause = .protection then x.cwaitDenied m far s 6
          else x.cwaitWait m far (s.notice k 0x30 va 0) (.farCounter m.size.bytes t g f) ⟨.dev, 0⟩)
    | none => .ok s

variable {x m}

theorem cwaitRest_local {s : State} {l : Loc} {i : Nat} (hroom : x.full 1 = false) : x.cwaitRest m s [(i, .mem l)] =
    .wait (s.putWave x.w) (x.waitOf (.counter m.size.bytes (pvalue (x.dataOf m.c m.size.bytes x.first))) l
      (x.addr m x.first).bits.toNat m.acq 0x59 0) :=
  if_neg (by rw [hroom]; exact Bool.false_ne_true)

theorem cwaitRest_far {s : State} {i r g f : Nat} (hnew : x.w.took.contains (x.sp.win, x.pc) = false)
    (hseq : x.w.seq < 2 ^ 24) (hroom : x.full 1 = false) : x.cwaitRest m s [(i, .far r g f)] =
    match s.regionCheck r g f m.size.bytes 0 with
      | .denied e => x.cwaitDenied m true s e
      | .ok k va => match s.translate none (s.homeDie k va) k va Need.read with
        | .ok l s => x.cwaitWait m true s (.farCounter m.size.bytes (pvalue (x.dataOf m.c m.size.bytes x.first)) g f) l
        | .stall s => .stall s
        | .fault e s => if e.cause = .protection then x.cwaitDenied m true s 6
          else x.cwaitWait m true (s.notice k 0x30 va 0)
            (.farCounter m.size.bytes (pvalue (x.dataOf m.c m.size.bytes x.first)) g f) ⟨.dev, 0⟩ := by
  have hfar : (Iss.isFar [(i, Place.far r g f)] && !(x.w.took.contains (x.sp.win, x.pc))) = true := by rw [hnew]; rfl
  rw [cwaitRest, hfar]
  exact (if_neg (Wave.streamEnough fun _ => hseq)).trans (if_neg (by rw [hroom]; exact Bool.false_ne_true))

end Iss

/-- What a CWAIT comes to. -/
theorem Issues.cwait {m : Mem} {s : State} {x : Iss} (h : Issues (.cwait m) s x) {found : Located} :
    x.cwaitAt m = found → exec (.cwait m) s = .next (x.finish (match found with
      | .stall s => .stall s
      | .fail s f => x.failWith s f
      | .ok s ps => x.cwaitRest m s ps)).poll := by
  rintro rfl
  exact h.outcomeWait rfl rfl

theorem Issues.cwait_fails {m : Mem} {s u : State} {x : Iss} {f : Fail} (h : Issues (.cwait m) s x) (hf : x.cwaitAt m = .fail u f) :
    exec (.cwait m) s = .next (x.finish (x.failWith u f)).poll := by
  rw [h.cwait hf]

theorem Issues.cwait_goes {m : Mem} {s u : State} {x : Iss} {ps : List (Nat × Place)} {r : Res} (h : Issues (.cwait m) s x)
    (hf : x.cwaitAt m = .ok u ps) (hr : x.cwaitRest m u ps = r) : exec (.cwait m) s = .next (x.finish r).poll := by
  rw [h.cwait hf]
  dsimp only
  rw [hr]

/-- A counter of the wave's own memory whose page is reached. -/
theorem Issues.cwait_near {m : Mem} {s s' : State} {x : Iss} {l : Loc} {c va : Nat} (h : Issues (.cwait m) s x)
    (hp : (x.addr m x.first).poison = false) (hname : s.nameOf x.w (x.addr m x.first).bits.toNat = .local c va)
    (halign : (x.addr m x.first).bits.toNat % m.size.bytes = 0)
    (hat : s.laneAt x.w c va (x.addr m x.first).bits.toNat .read = .ok l s') :
    let t := x.dataOf m.c m.size.bytes x.first
    (anyPoison t = false → x.full 1 = false → exec (.cwait m) s = .next (x.finish (.wait (s'.putWave x.w)
      (x.waitOf (.counter m.size.bytes (pvalue t)) l (x.addr m x.first).bits.toNat m.acq 0x59 0))).poll) ∧
    (anyPoison t = true → exec (.cwait m) s = .next (x.finish (.due s'
      ⟨.poison, laneSet [x.first], (x.addr m x.first).bits, none⟩)).poll) := by
  obtain rfl := h.s_eq
  have hloc := Iss.locate_local (extra := x.farFails m) hp hname rfl halign hat
  refine ⟨fun hclean hroom => h.cwait_goes (Iss.locate_clean hloc fun i p hm => ?_) (Iss.cwaitRest_local hroom), fun hdirty => ?_⟩
  · obtain ⟨rfl, -⟩ := Prod.mk.inj (List.mem_singleton.1 hm)
    exact hclean
  · have hbad : ([(x.first, Place.mem l)].filter fun p => anyPoison (x.dataOf m.c m.size.bytes p.1)) = [(x.first, .mem l)] :=
      List.filter_eq_self.2 fun p hm => by
        rw [List.mem_singleton.1 hm]
        exact hdirty
    have hfail := Iss.locate_dirty (data' := fun i _ => anyPoison (x.dataOf m.c m.size.bytes i)) (l := x.first) (p := .mem l) hloc
      (congrArg List.head? hbad)
    have hraise := h.cwait_fails hfail
    simp only [hbad, List.map_cons, List.map_nil] at hraise
    exact hraise

/-- A counter of the device's own rank, at the wave's first issue of the CWAIT. -/
theorem Issues.cwait_far {m : Mem} {s u : State} {x : Iss} {i r g f : Nat} (h : Issues (.cwait m) s x)
    (hf : x.cwaitAt m = .ok u [(i, .far r g f)]) (hnew : x.w.took.contains (x.sp.win, x.pc) = false)
    (hseq : x.w.seq < 2 ^ 24) (hroom : x.full 1 = false) :
    (∀ c va v l, u.regionCheck r g f m.size.bytes 0 = .ok c va → u.translate none (u.homeDie c va) c va .read = .ok l v →
      exec (.cwait m) s = .next (x.finish (x.cwaitWait m true v
        (.farCounter m.size.bytes (pvalue (x.dataOf m.c m.size.bytes x.first)) g f) l)).poll) ∧
    (∀ e, u.regionCheck r g f m.size.bytes 0 = .denied e →
      exec (.cwait m) s = .next (x.finish (x.cwaitDenied m true u e)).poll) := by
  refine ⟨fun c va v l hreg htr => h.cwait_goes hf ?_, fun e hreg => h.cwait_goes hf ?_⟩
  · rw [Iss.cwaitRest_far hnew hseq hroom, hreg]
    dsimp only
    rw [htr]
  · rw [Iss.cwaitRest_far hnew hseq hroom, hreg]

/-- A lane of WBACK or INVL whose address is poisoned or of no class. -/
def Iss.wbackFails (x : Iss) (m : Mem) (i : Nat) : Option LaneFail :=
  if (x.addr m i).poison then some ⟨.poison, (x.addr m i).bits, none⟩
  else match x.s.nameOf x.w (x.addr m i).bits.toNat with
    | .bad f => some f
    | _ => none

/-- What WBACK and INVL come to where no lane fails: the frames they name go back, and INVL drops them. -/
theorem writebackBody_goes {x : Iss} {m : Mem} {drop : Bool} {ls : List Loc} {s' : State} :
    let all := m.sub.getLsbD 0
    let named (f : Frame) : Bool := f.ctx == x.w.ctx && (all || ls.contains f.loc)
    let far := !all && x.anyGlobal (x.addr m)
    let n := ((s'.core x.w.core).frames.filter fun f => f.isDirty && named f).length
    let op : Op := { x.opOf .store with cache := m.cache, reqs := n }
    let sent := (s'.putWave (x.takeSeq { x.w with ops := x.w.ops ++ [op] } far)).writebackWhere x.w.core named (x.w.id, x.uid)
    (all = true ∨ ∀ l ∈ x.lanes, (x.addr m l).poison = false ∧ ∀ f, x.s.nameOf x.w (x.addr m l).bits.toNat ≠ .bad f) →
    (if all then (some [], x.s) else x.quietLines (x.addr m) .read) = (some ls, s') → (far = true → x.w.seq < 2 ^ 24) →
    x.full n = false →
    writebackBody m drop x = .ok ((if drop then
      (sent.dropFrames x.w.core named).noFill x.w.core fun l => all || ls.contains l.frameLine else sent).settleOp x.w.id x.uid) := by
  intro all named far n op sent hgood hls hseq hroom
  have hfails : (if all then none else x.fails (x.wbackFails m)) = none := by
    split
    · rfl
    · next hall =>
      refine Iss.fails_none fun l hl => ?_
      obtain ⟨hp, hn⟩ := hgood.resolve_left hall l hl
      refine (if_neg (by rw [hp]; exact Bool.false_ne_true)).trans ?_
      split
      · next f hf => exact absurd hf (hn f)
      · rfl
  change (match (if all then none else x.fails (x.wbackFails m)) with
    | some f => _
    | none => _) = _
  rw [hfails]
  dsimp only
  rw [hls]
  dsimp only
  refine (if_neg (Wave.streamEnough hseq)).trans ((if_neg (by rw [hroom]; exact Bool.false_ne_true)).trans ?_)
  cases drop <;> rfl

/-- Settles O23: the split waits of FENCE and CWAIT, the lines of PREF, and the frames of WBACK and INVL. -/
theorem orderingAndCacheResults : Obligations.OrderingAndCacheResults := by
  unfold Obligations.OrderingAndCacheResults
  refine fun m s x => ⟨fun h => ?fence, fun h s' l c va hp hname halign hat => h.cwait_near hp hname halign hat, fun h => ?found,
    fun h ls s' hls => ?pref, ?wback⟩
  case fence =>
    obtain rfl := h.s_eq
    exact h.outcomeWait rfl rfl
  case found =>
    obtain rfl := h.s_eq
    intro n t a found waits taken
    have hfound : x.cwaitAt m = found := rfl
    exact ⟨fun u f hf => h.cwait_fails (hfound.trans hf),
      fun u l hf hroom => h.cwait_goes (hfound.trans hf) (Iss.cwaitRest_local hroom),
      fun u r g f hf hnew hseq hroom => h.cwait_far (hfound.trans hf) hnew hseq hroom⟩
  case pref =>
    obtain rfl := h.s_eq
    intro t fills
    have hbody : ∀ res, (if x.full (dedup ls).length then .ok t
        else .ok ((dedup ls).foldl (fun s line => (List.range (if line.sp == .host then 2 else 4)).foldl (fun s k =>
          s.send 0 0 0 x.w.ctx (.read (line.plus (32 * k)) x.w.core fills m.cache.ret)) s) t)) = Res.ok res →
        exec (.pref m) x.s = .next (x.complete res true) := fun res hres => h.goesOn rfl (by
      dsimp only
      rw [hls]
      exact hres)
    exact ⟨fun hroom => hbody _ (if_neg (by rw [hroom]; exact Bool.false_ne_true)), fun hfull => hbody _ (if_pos hfull)⟩
  case wback =>
    intro all hgood ls s' hls named far n hseq hroom op sent
    refine ⟨fun h => ?_, fun h => ?_⟩ <;> obtain rfl := h.s_eq
    · exact h.goesOn rfl (writebackBody_goes (drop := false) hgood hls hseq hroom)
    · exact h.goesOn rfl (writebackBody_goes (drop := true) hgood hls hseq hroom)

end Sys2Proof.Machine
end


section
/-! CLAIM. LD, ST, ATOM, RED, CAS, REDK and CSTORE at issue (R261 to R276). -/

namespace Sys2Proof.Machine

/-- An instruction that completes keeps memory, but for WAITCLK. -/
theorem Iss.complete_keepsMemory (x : Iss) (s : State) (w : Wave) : s.keepsMemory (x.complete (s.putWave w) true) x.w.ctx := by
  rw [Iss.complete_eq]
  obtain ⟨⟨hget, hpoison, hhost, hblocks⟩, -⟩ := ((s.putWave w).modWave x.w.id (x.counted true)).resetWait_frame x.w.ctx
  exact ⟨hget, hpoison, hhost, hblocks⟩

/-- An access with room for its requests and a sequence value, where it needs one. -/
theorem Iss.limited_clear {x : Iss} {s : State} {ps : List (Nat × Place)} {k : Res}
    (hseq : Iss.isFar ps = true → x.w.seq < 2 ^ 24) (hroom : x.full (x.requests ps) = false) : x.limited s ps k = k :=
  (if_neg (Wave.streamEnough hseq)).trans (if_neg (by rw [hroom]; exact Bool.false_ne_true))

/-- A pair taken apart. -/
theorem match_pair {α β γ : Type} (p : α × β) (k : α → β → γ) : (match p with | (a, b) => k a b) = k p.1 p.2 := rfl

/-- No lane's request meets a held store of the wave at its rank. -/
theorem Iss.noOverlap {x : Iss} {s : State} {ps : List (Nat × Place)} {len : Nat}
    (h : ∀ l r g f, (l, Place.far r g f) ∈ ps → ¬(s.rankKind r = 1 ∧ x.w.heldAt r g f len = true)) :
    ps.any (fun p => match p.2 with
      | .far r g f => s.rankKind r = 1 && x.w.heldAt r g f len
      | _ => false) = false := by
  refine List.any_eq_false.2 fun p hp => ?_
  match p, hp with
  | (l, .mem a), _ => exact Bool.false_ne_true
  | (l, .far r g o), hp => simpa using h l r g o hp

/-- A load with room goes into flight. -/
theorem Iss.load_ok {x : Iss} {m : Mem} {s : State} {ps : List (Nat × Place)} (hseq : Iss.isFar ps = true → x.w.seq < 2 ^ 24)
    (hroom : x.full (x.requests ps) = false)
    (hover : ∀ l r g f, (l, Place.far r g f) ∈ ps → ¬(s.rankKind r = 1 ∧ x.w.heldAt r g f m.size.bytes = true)) :
    let op : Op := { x.opOf (.load m.size (m.sub.getLsbD 0)) with
      acq := m.acq, sc := m.sc, cache := m.cache, global := Iss.isFar ps, reqs := x.requests ps }
    let wo := x.w.addDests x op m.d m.size.regs
    let pieces := ps.filterMap fun p => match p.2 with
      | .mem l => some (s.pieceOf x.w x.no p.1 l m.size.bytes 0)
      | _ => none
    let reqs := ps.filterMap fun p => match p.2 with
      | .far r g f => some (x.request s .load p.1 r g f m.size.bytes m.sub m.order m.scope [])
      | _ => none
    let w := x.takeSeq { wo.1 with ops := wo.1.ops ++ [{ wo.2 with pieces }] } (Iss.isFar ps)
    x.load m s ps = .ok (((s.putWave w).readPieces x.w x.uid x.no m.cache m.strong pieces).sendRemote x.w x.uid reqs (fun _ => [])
      none) := by
  intro op wo pieces reqs w
  unfold Iss.load
  refine (if_neg (Wave.streamEnough hseq)).trans ((if_neg (fun h => ?_)).trans ?_)
  · rw [hroom, Bool.false_or] at h
    exact Bool.false_ne_true ((Iss.noOverlap hover).symm.trans h)
  · exact match_pair wo fun w o => Res.ok
      (((s.putWave (x.takeSeq { w with ops := w.ops ++ [{ o with pieces }] } (Iss.isFar ps))).readPieces x.w x.uid x.no m.cache
        m.strong pieces).sendRemote x.w x.uid reqs (fun _ => []) none)

/-- The elements packed stand at the lanes gone through, in their order. -/
theorem Iss.pack_lanes {x : Iss} {n base : Nat} {bad : Nat → Bool} {lanes : List Nat} {m : Nat} {s s' : State}
    {ps ps' : List (Nat × Place)} (h : x.pack n base bad lanes m s ps = .all s' ps') : ps'.map (·.1) = ps.map (·.1) ++ lanes := by
  induction lanes generalizing m s ps with
  | nil =>
    obtain ⟨-, rfl⟩ := Packed.all.inj h
    exact (List.append_nil _).symm
  | cons i rest ih =>
    have hgo : ∀ {t p}, x.pack n base bad rest (m + 1) t (ps ++ [(i, p)]) = .all s' ps' → ps'.map (·.1) = ps.map (·.1) ++ i :: rest := by
      intro t p h
      rw [ih h, List.map_append, List.append_assoc]
      rfl
    unfold Iss.pack at h
    dsimp only at h
    split at h
    · exact nomatch h
    · exact hgo h
    · split at h
      · exact nomatch h
      · exact nomatch h
      · split at h
        · exact nomatch h
        · exact hgo h

namespace Iss
variable (x : Iss) (m : Mem)

/-- The check of an element's address (R276). -/
def elementFails (a : Nat) : Option LaneFail := match x.s.nameOf x.w a with
  | .bad f => some f
  | _ => if a % m.size.bytes ≠ 0 then some ⟨.align, BitVec.ofNat 64 a, none⟩ else none

/-- The last element's address. -/
def lastElement : Nat := ((x.addr m x.first).bits.toNat + (x.lanes.length - 1) * m.size.bytes) % 2 ^ 64

/-- A lane's data is poisoned. -/
def dirty (l : Nat) : Bool := anyPoison (x.dataOf m.c m.size.bytes l)

/-- The wave with the elements at their places held back. -/
def packedWave (s : State) (ps : List (Nat × Place)) : Wave :=
  let o : Op := { x.opOf .store with sc := m.sc, cache := m.cache, global := Iss.isFar ps, reqs := x.requests ps }
  let home := m.cache == .bypass || (x.relOf m).any Scope.gangUp
  x.takeSeq (x.holdOps { x.w with ops := x.w.ops ++ [o] } m (fun l => .stores l home (x.relOf m))
    (x.laneOps ps m.size.bytes (x.dataOf m.c m.size.bytes)) (x.laneReqs s .write m ps m.size.bytes (x.dataOf m.c m.size.bytes)))
    (Iss.isFar ps)

/-- The elements go to a rank. -/
def packsFar : Bool := match x.s.nameOf x.w (x.addr m x.first).bits.toNat with
  | .placed (.far _ _ _) => true
  | _ => false

/-- What a CSTORE comes to whose first and last element pass their checks. -/
def cstoreRest : Res :=
  if x.packsFar m && x.lanes.any (x.dirty m) then x.poison (x.lanesWhere (x.dirty m)) (x.addr m x.first).bits
  else match x.pack m.size.bytes (x.addr m x.first).bits.toNat (x.dirty m) x.lanes 0 x.s [] with
    | .stall s => .stall s
    | .page s ps k i f =>
      let kept := if ps.isEmpty then [] else (x.packedWave m s ps).held.filter (fun h => h.no == x.no)
      x.limited s ps <| .region s ⟨f.cause, laneSet [i], f.faddr, some (BitVec.ofNat 64 k)⟩ kept
    | .poison s ps i a =>
      x.limited s ps <| if ps.isEmpty then .due s ⟨.poison, laneSet [i], a, none⟩
        else .due (s.putWave (x.packedWave m s ps)) ⟨.poison, laneSet [i], a, none⟩
    | .all s ps =>
      let w := x.packedWave m s ps
      x.limited s ps <| .ok (s.putWave (if m.sub.getLsbD 0 then x.put w m.d 0 x.act (fun _ => .ofNat x.lanes.length false) else w))

end Iss

/-- What a CSTORE comes to. -/
theorem Issues.cstore {m : Mem} {s : State} {x : Iss} (h : Issues (.cstore m) s x) : exec (.cstore m) s = .next (x.finish (
    if (x.addr m x.first).poison then x.poison (laneSet [x.first]) (x.addr m x.first).bits
    else match x.elementFails m (x.addr m x.first).bits.toNat, x.elementFails m (x.lastElement m) with
      | some f, _ => x.failWith x.s ⟨f.cause, laneSet [x.first], f.faddr, f.einfo⟩
      | none, some f => x.failWith x.s ⟨f.cause, laneSet [x.lanes.getLastD x.first], f.faddr, f.einfo⟩
      | none, none => x.cstoreRest m)) :=
  h.outcome rfl rfl

/-- A CSTORE whose first and last element pass their checks. -/
theorem Issues.cstore_goes {m : Mem} {s : State} {x : Iss} {r : Res} (h : Issues (.cstore m) s x)
    (hp : (x.addr m x.first).poison = false) (hfirst : x.elementFails m (x.addr m x.first).bits.toNat = none)
    (hlast : x.elementFails m (x.lastElement m) = none) (hr : x.cstoreRest m = r) :
    exec (.cstore m) s = .next (x.finish r) := by
  rw [h.cstore, if_neg (by rw [hp]; exact Bool.false_ne_true), hfirst, hlast, ← hr]

/-- The elements are packed where none of those for a rank is poisoned. -/
theorem Iss.cstoreRest_packs {x : Iss} {m : Mem} (h : x.packsFar m = true → x.lanes.any (x.dirty m) = false) : x.cstoreRest m =
    match x.pack m.size.bytes (x.addr m x.first).bits.toNat (x.dirty m) x.lanes 0 x.s [] with
    | .stall s => .stall s
    | .page s ps k i f =>
      let kept := if ps.isEmpty then [] else (x.packedWave m s ps).held.filter (fun h => h.no == x.no)
      x.limited s ps <| .region s ⟨f.cause, laneSet [i], f.faddr, some (BitVec.ofNat 64 k)⟩ kept
    | .poison s ps i a =>
      x.limited s ps <| if ps.isEmpty then .due s ⟨.poison, laneSet [i], a, none⟩
        else .due (s.putWave (x.packedWave m s ps)) ⟨.poison, laneSet [i], a, none⟩
    | .all s ps =>
      let w := x.packedWave m s ps
      x.limited s ps <| .ok (s.putWave (if m.sub.getLsbD 0 then x.put w m.d 0 x.act (fun _ => .ofNat x.lanes.length false) else w)) := by
  refine if_neg fun hb => ?_
  obtain ⟨hfar, hbad⟩ := Bool.and_eq_true_iff.1 hb
  exact Bool.false_ne_true ((h hfar).symm.trans hbad)

theorem Iss.packsFar_iff {x : Iss} {m : Mem} :
    x.packsFar m = true ↔ ∃ r g f, x.s.nameOf x.w (x.addr m x.first).bits.toNat = .placed (.far r g f) := by
  unfold Iss.packsFar
  split
  · next r g f hname => exact ⟨fun _ => ⟨r, g, f, hname⟩, fun _ => rfl⟩
  · next hno =>
    refine ⟨fun h => (nomatch h), fun ⟨r, g, f, hname⟩ => (hno r g f hname).elim⟩

theorem Iss.elementFails_none {x : Iss} {m : Mem} {a : Nat} (hname : ∀ f, x.s.nameOf x.w a ≠ .bad f) (halign : a % m.size.bytes = 0) :
    x.elementFails m a = none := by
  unfold Iss.elementFails
  split
  · next f hf => exact absurd hf (hname f)
  · exact if_neg (not_not_intro halign)

/-- Settles O22: each instruction from what locating its lanes finds. -/
theorem memoryAccessIssue : Obligations.MemoryAccessIssue := by
  unfold Obligations.MemoryAccessIssue
  refine ⟨⟨fun m s t x f h hf => h.outcome rfl (by rw [hf]), fun m s s' x ps h hloc hseq hroom hover => ?_⟩,
    fun m s x h => ?st, fun m s x => ?atomics, fun m s s' x ps h => ?packed, fun m s x h => ?cstore⟩
  · exact h.goesOn rfl (by
      dsimp only
      rw [hloc]
      exact Iss.load_ok hseq hroom hover)
  case st =>
    intro n data
    refine ⟨fun t f hf => h.outcome rfl (by dsimp only; rw [hf]), fun s' ps hloc => ?_⟩
    intro bad
    refine ⟨fun hclean hseq hroom => ?_, fun l p hbad => ?_⟩
    · have hdata : ∀ i p, (i, p) ∈ ps → (p.traps && anyPoison (data i)) = false := fun i p hm =>
        Bool.not_eq_true _ ▸ List.filter_eq_nil_iff.1 hclean (i, p) hm
      exact ⟨h.goesOn rfl (by
        dsimp only
        rw [Iss.locate_clean hloc hdata]
        exact Iss.limited_clear hseq hroom), Iss.complete_keepsMemory _ _ _⟩
    · exact h.outcome rfl (by
        dsimp only
        rw [Iss.locate_dirty (data' := fun i p => p.traps && anyPoison (data i)) hloc hbad]
        rfl)
  case atomics =>
    intro n issues
    have hissues : ∀ i kind rkind align fetch (data : Iss → Nat → List PByte), exec i s = issueWave i (atomicBody m kind rkind align fetch data) s →
        issues i kind rkind align fetch (data x) := by
      intro i kind rkind align fetch data hexec h
      refine ⟨fun t f hf => h.outcome hexec (by rw [atomicBody, hf]), fun s' ps hloc => ?_⟩
      intro bad
      refine ⟨fun hclean hseq hroom => ?_, fun l hbad => ?_⟩
      · have hdata : ∀ i p, (i, p) ∈ ps → anyPoison (data x i) = false := fun i p hm =>
          Bool.not_eq_true _ ▸ List.filter_eq_nil_iff.1 hclean i (Iss.locate_lanes hloc ▸ List.mem_map_of_mem hm)
        exact ⟨h.goesOn hexec (by
          rw [atomicBody, Iss.locate_clean hloc hdata]
          refine (Iss.limited_clear hseq hroom).trans ?_
          cases fetch <;> rfl), Iss.complete_keepsMemory _ _ _⟩
      · exact h.outcome hexec (by
          rw [atomicBody, Iss.locate_dirty_lanes hloc hbad]
          rfl)
    exact ⟨hissues _ _ _ _ _ (fun x i => x.dataOf m.c m.size.bytes i) rfl, hissues _ _ _ _ _ (fun x i => x.dataOf m.c m.size.bytes i) rfl,
      hissues _ _ _ _ _ (fun x i => x.dataOf m.c (2 * m.size.bytes) i) rfl, hissues _ _ _ _ _ (fun x i =>
        let d := x.dataOf m.c 16 i
        d.take 4 ++ (if m.size.bytes = 8 then (d.drop 8).take 8 else (d.drop 4).take 4)) rfl⟩
  case packed =>
    obtain rfl := h.s_eq
    intro n base last data hp halign hlast hname hnlast hclean hpack hseq hroom op home w w'
    have hlanes := Iss.pack_lanes hpack
    rw [List.map_nil, List.nil_append] at hlanes
    refine ⟨?_, fun k l p hk => ?_, ?_⟩
    · have hrest : x.cstoreRest m = .ok (s'.putWave w') := by
        rw [Iss.cstoreRest_packs fun _ => List.any_eq_false.2 fun l hl => by rw [Iss.dirty, hclean l hl]; exact Bool.false_ne_true]
        rw [show x.pack m.size.bytes (x.addr m x.first).bits.toNat (x.dirty m) x.lanes 0 x.s [] = .all s' ps from hpack]
        exact Iss.limited_clear hseq hroom
      rw [h.cstore_goes hp (Iss.elementFails_none hname halign) (Iss.elementFails_none hnlast hlast) hrest, Iss.finish_ok]
    · rw [← hlanes, List.getElem?_map, hk]
      rfl
    · rw [← hlanes, List.length_map]
  case cstore =>
    obtain rfl := h.s_eq
    intro n base last data bad check traps far clear keep goes
    have hcheck : ∀ a, check a = x.elementFails m a := fun a => rfl
    refine ⟨fun hp => ?_, fun hp => ⟨fun f hf => ?_, fun f hf hl => ?_, fun hf hl hfar hbad => ?_⟩, fun hclear t ps hseq hroom => ?_⟩
    · rw [h.cstore, if_pos hp]
      rfl
    · rw [hcheck] at hf
      change exec (.cstore m) x.s = _
      rw [h.cstore, if_neg (by rw [hp]; exact Bool.false_ne_true), hf]
    · rw [hcheck] at hf hl
      change exec (.cstore m) x.s = _
      rw [h.cstore, if_neg (by rw [hp]; exact Bool.false_ne_true), hf, show x.elementFails m (x.lastElement m) = some f from hl]
    · exact h.cstore_goes hp hf hl (if_pos (Bool.and_eq_true_iff.2 ⟨Iss.packsFar_iff.2 hfar, hbad⟩))
    · obtain ⟨hp, hf, hl, hdata⟩ := hclear
      have hpacks := Iss.cstoreRest_packs (x := x) (m := m) fun hfar => List.any_eq_false.2 fun l hm => by
        rw [show x.dirty m l = bad l from rfl, hdata (Iss.packsFar_iff.1 hfar) l hm]
        exact Bool.false_ne_true
      refine ⟨fun k l f hgoes => ?_, fun l a hgoes => ?_⟩
      · refine h.cstore_goes hp hf hl (hpacks.trans ?_)
        rw [show x.pack m.size.bytes (x.addr m x.first).bits.toNat (x.dirty m) x.lanes 0 x.s [] = _ from hgoes]
        refine (Iss.limited_clear hseq hroom).trans ?_
        simp only [List.isEmpty_iff]
        rfl
      · refine h.cstore_goes hp hf hl (hpacks.trans ?_)
        rw [show x.pack m.size.bytes (x.addr m x.first).bits.toNat (x.dirty m) x.lanes 0 x.s [] = _ from hgoes]
        refine (Iss.limited_clear hseq hroom).trans ?_
        simp only [List.isEmpty_iff]
        split <;> rfl

end Sys2Proof.Machine
end


section
/-! CLAIM. TLD, GATHR, the rows they and ACCLD ask for, and TTAG (R207 to R209, R215, R221 to R224, R283). -/

namespace Sys2Proof.Machine

/-- A test that no active lane meets names no lane. -/
theorem Iss.lanesWhere_none {x : Iss} {p : Nat → Bool} (h : ∀ l ∈ x.lanes, p l = false) : x.lanesWhere p = 0#64 := by
  have hnil : x.lanes.filter p = [] := List.filter_eq_nil_iff.2 fun l hl => by rw [h l hl]; exact Bool.false_ne_true
  rw [Iss.lanesWhere, hnil]
  rfl

/-- The stride of a tile's rows is checked with its first row. -/
def strideFails (base : DWord) (stride len k : Nat) (p : Named) : Option LaneFail := match p with
  | .bad _ => none
  | _ => if k = 0 ∧ stride % len ≠ 0 then some ⟨.align, base, none⟩ else none

/-- Settles O24: the checks of each instruction in their order, then the rows it asks for. -/
theorem tileResults : Obligations.TileResults := by
  unfold Obligations.TileResults
  refine ⟨fun x m s w o ps len dst hseq hroom hover => ?rows, fun s x => ⟨fun m tile f s' t ps h hheld htile hf => ?tld,
    fun m tile f s' t ps h hheld htile hf => ?gathr, fun g h hheld => ?ttag⟩⟩
  case rows =>
    intro pieces rows reqs op
    unfold Iss.loadRows
    refine (if_neg (Wave.streamEnough hseq)).trans (if_neg fun h => ?_)
    rw [hroom, Bool.false_or] at h
    exact Bool.false_ne_true ((Iss.noOverlap hover).symm.trans h)
  case tld =>
    obtain rfl := h.s_eq
    intro scale hscale len n base c stride hloc w0 w hload
    have hbody : ∀ res, (if scale && !tile.scaled then x.badFormat 7
        else match x.locate (List.range n) (fun k => ⟨base.bits + BitVec.ofNat 64 (k * stride), base.poison || c.poison⟩) len .read
            (strideFails base.bits stride len) with
          | .stall s => .stall s
          | .fail s f => x.failWith s (x.ofFirst f)
          | .ok s ps => x.loadRows m s w (x.opOf (.tile m.d.toNat scale)) ps len (fun k => k * len)) = Res.ok res →
        exec (.tld m) x.s = .next (x.complete res true) := fun res hres => h.goesOn rfl (by
      dsimp only
      rw [if_neg (by rw [hheld]; exact Bool.false_ne_true), htile]
      dsimp only
      rw [hf]
      exact hres)
    refine hbody t ((if_neg fun hb => ?_).trans ?_)
    · obtain ⟨hs, hn⟩ := Bool.and_eq_true_iff.1 hb
      rw [hscale hs] at hn
      exact Bool.false_ne_true hn
    · rw [show x.locate (List.range n) _ len .read (strideFails base.bits stride len) = .ok s' ps from hloc]
      exact hload
  case gathr =>
    obtain rfl := h.s_eq
    intro count rank k hfails hbelow hloc w0 last tag w op hload
    have hbody : ∀ res, (match x.fails (gathrFail x m f (if count = 0 then none else some tile.lastK)) with
        | some e => x.failWith x.s e
        | none => if (x.lanesWhere fun i => decide (tileRows f ≤ count + rank i)) != 0#64 then
            x.raise ⟨.matrixFormat, x.lanesWhere fun i => decide (tileRows f ≤ count + rank i), 0, some 6⟩
          else match x.locate x.lanes (x.addr m) (rowBytes f) .read (fun _ _ => none) with
            | .stall s => .stall s
            | .fail s f => x.failWith s f
            | .ok s ps => x.loadRows m s w op ps (rowBytes f) (fun i => (count + rank i) * rowBytes f)) = Res.ok res →
        exec (.gathr m) x.s = .next (x.complete res true) := fun res hres => h.goesOn rfl (by
      dsimp only
      rw [if_neg (by rw [hheld]; exact Bool.false_ne_true), htile]
      dsimp only
      rw [hf]
      exact hres)
    refine hbody t ?_
    rw [hfails]
    dsimp only
    rw [Iss.lanesWhere_none fun l hl => by simpa using hbelow l hl, hloc]
    exact hload
  case ttag =>
    obtain rfl := h.s_eq
    intro f tag
    rw [h.outcome rfl (if_neg (by rw [hheld]; exact Bool.false_ne_true)), Iss.finish_done]

end Sys2Proof.Machine
end


section
/-! CLAIM. MMA, MMAS, ACCZ, ACCRD, ACCWR, ACCLD and ACCST at issue (R214, R217 to R227). -/

namespace Sys2Proof.Machine

/-- A cause that every failing lane raises alike is raised in those lanes. -/
theorem Iss.fails_alike {x : Iss} {p : Nat → Prop} [DecidablePred p] (e : LaneFail)
    (h : (x.lanesWhere fun l => decide (p l)) ≠ 0#64) :
    x.fails (fun l => if p l then some e else none) = some ⟨e.cause, x.lanesWhere fun l => decide (p l), e.faddr, e.einfo⟩ := by
  have hmem : ∃ l ∈ x.lanes, p l := by
    by_contra hno
    exact h (Iss.lanesWhere_none fun l hl => decide_eq_false fun hp => hno ⟨l, hl, hp⟩)
  have hsome : (x.lanes.find? fun l => (if p l then some e else none : Option LaneFail).isSome).isSome = true := by
    obtain ⟨l, hl, hp⟩ := hmem
    exact List.find?_isSome.2 ⟨l, hl, by rw [if_pos hp]; rfl⟩
  obtain ⟨l, hl⟩ := Option.isSome_iff_exists.1 hsome
  have hp : p l := by
    by_contra hp
    have := List.find?_some hl
    rw [if_neg hp] at this
    exact Bool.false_ne_true this
  rw [Iss.fails_of_lowest hl (if_pos hp)]
  have hsame : (fun i => (if p i then some e else none : Option LaneFail).any (·.cause == e.cause)) = fun i => decide (p i) := by
    funext i
    by_cases hi : p i <;> simp [hi]
  rw [hsame]

/-- The latch of an MMA. -/
def Iss.latchOf (x : Iss) (m : Mat) : Latch :=
  let fresh : Latch :=
    { wave := x.w.id, a := m.a.toNat, c := m.c.toNat, sub := m.sub.toNat, lanes := x.act, phys := (mmaNames m).map (x.w.source x.sp)
      vals := x.lanes.map fun i => (i, ((mmaNames m).map (x.w.source x.sp)).map (x.w.laneVal · i)) }
  match m.keep, (x.s.quad x.w.quadNo).latch with
    | true, some l => if { l with vals := [] } = { fresh with vals := [] } then l else fresh
    | _, _ => fresh

theorem Iss.latchOf_fresh {x : Iss} {m : Mat} (h : m.keep = false) : (x.latchOf m).vals = x.lanes.map fun l =>
    (l, (mmaNames m).map fun n => x.w.laneVal (x.w.source x.sp n) l) := by
  unfold Iss.latchOf
  rw [h]
  simp only [List.map_map, Function.comp_def]

/-- The entry of an MMA in the array's queue. -/
def Iss.mmaEntry (x : Iss) (m : Mat) (tile : Tile) : ArrayOp :=
  { x.arrayOp m.d.toNat with
    sub := m.sub.toNat, tile := m.b.toNat, fmt := tile.format.getD 0, gathered := tile.gathered, count := tile.count,
    vals := (x.latchOf m).vals }

/-- What an MMA comes to that nothing holds. -/
theorem mmaBody_eq {x : Iss} {m : Mat} {sparse : Bool} {tile : Tile} (htile : x.w.tiles[m.b.toNat]? = some tile)
    (hheld : x.matrixHeld (some m.b.toNat) (some m.d.toNat) = false) (hroom : x.queueFull = false) : mmaBody m sparse x =
    match mmaFail tile (x.s.accKind x.w m.d.toNat) (m.sub.toNat % 16) (m.sub.getLsbD 4) sparse with
      | some e => x.badFormat e
      | none => .ok ((x.enqueue { x.w with
          ops := x.w.ops ++ [x.opOf .matrix], tileRead := insertKey m.b.toNat x.no x.w.tileRead } (x.mmaEntry m tile)).modQuad x.w.quadNo
            fun q => { q with latch := some (x.latchOf m) }) := by
  unfold mmaBody
  dsimp only
  rw [if_neg (by rw [hheld, hroom]; decide), htile]
  rfl

/-- A tile whose MMA passes its checks has a format. -/
theorem mmaFail_none {tile : Tile} {i32 : Bool} {a : Nat} {blk sparse : Bool} (h : mmaFail tile i32 a blk sparse = none) :
    tile.format = some (tile.format.getD 0) := by
  unfold mmaFail at h
  split at h
  · exact nomatch h
  · next f hf => rw [hf]; rfl

/-- The bytes of a row of an accumulator. -/
theorem Acc.rowPart_eq (a : Acc) (i off len : Nat) : a.rowPart i off len =
    (List.range len).map fun k => ⟨a.data.get (512 * i + off + k), a.rowPoison i⟩ := by
  rw [Acc.rowPart, pbytes, Memory.bytes, List.map_map, List.map_map]
  rfl

/-- Settles O25: the queue entries, and the rows that are located. -/
theorem matrixResults : Obligations.MatrixResults := by
  unfold Obligations.MatrixResults
  refine ⟨fun s x => ?mma, fun s x => ⟨fun g => ?columns, fun m s' t ps => ?rows⟩⟩
  case mma =>
    intro mma
    have hmma : ∀ i m sparse, exec i s = issueWave i (mmaBody m sparse) s → mma i m sparse := by
      intro i m sparse hexec h tile htile hheld hroom
      obtain rfl := h.s_eq
      intro fault
      have hbody := mmaBody_eq (sparse := sparse) htile hheld hroom
      refine ⟨fun e he => ?_, fun he => ⟨_, x.latchOf m, x.mmaEntry m tile, h.goesOn hexec (hbody.trans ?_), rfl, rfl, rfl, rfl,
        rfl, rfl, rfl, mmaFail_none he, rfl, rfl, rfl, rfl, rfl, Iss.latchOf_fresh⟩⟩
      · exact h.raises hexec (hbody.trans (by rw [show mmaFail _ _ _ _ _ = some e from he]; rfl))
      · rw [show mmaFail _ _ _ _ _ = none from he]
    exact ⟨fun m => ⟨hmma _ _ _ rfl, hmma _ _ _ rfl⟩, fun g h hheld hroom => h.goesOn rfl (if_neg (by rw [hheld, hroom]; decide))⟩
  case columns =>
    intro n cols
    have hfit : (∀ l ∈ x.lanes, (x.b32 g l).bits.toNat + n ≤ 128) → accCols x g = none := fun hall =>
      Iss.fails_none fun l hl => if_neg (Nat.not_lt.2 (hall l hl))
    refine ⟨fun h hheld hroom hall => ?_, fun h hheld hroom hall => ?_, fun i acc hi h hheld hroom => ?_⟩
    · intro wo
      exact h.goesOn rfl (by
        dsimp only
        rw [if_neg (by rw [hheld, hroom]; decide), hfit hall])
    · intro vals
      exact h.goesOn rfl (by
        dsimp only
        rw [if_neg (by rw [hheld, hroom]; decide), hfit hall])
    · intro beyond hbeyond
      obtain rfl := h.s_eq
      have hfail : accCols x g = some ⟨.operand, beyond, 0, some 0x20⟩ := Iss.fails_alike ⟨.operand, 0, some 0x20⟩ hbeyond
      rcases List.mem_cons.1 hi with hi | hi
      · obtain ⟨rfl, rfl⟩ := Prod.mk.inj hi
        exact h.outcome rfl (by
          dsimp only
          rw [if_neg (by rw [hheld, hroom]; decide), hfail]
          rfl)
      · obtain ⟨rfl, rfl⟩ := Prod.mk.inj (List.mem_singleton.1 hi)
        exact h.outcome rfl (by
          dsimp only
          rw [if_neg (by rw [hheld, hroom]; decide), hfail]
          rfl)
  case rows =>
    intro len col
    refine ⟨fun h hheld hloc hload => ?_, fun f h hheld hloc => ?_, fun f h hheld => ?_, fun h hheld => ?_⟩ <;> obtain rfl := h.s_eq
    · exact h.goesOn rfl (by
        dsimp only
        rw [if_neg (by rw [hheld]; exact Bool.false_ne_true), hloc]
        exact hload)
    · exact h.outcome rfl (by
        dsimp only
        rw [if_neg (by rw [hheld]; exact Bool.false_ne_true), hloc])
    · intro late hloc
      exact h.outcome rfl (by
        dsimp only
        rw [if_neg (by rw [hheld]; exact Bool.false_ne_true), hloc])
    · intro late hloc a data hclean hseq hroom op home ops w t
      have hdata : ∀ i p, (i, p) ∈ ps → (!late && p.traps && a.rowPoison i) = false := fun i p hm => by
        cases hl : late with
        | true => rfl
        | false => exact Bool.not_eq_true _ ▸ List.filter_eq_nil_iff.1 (hclean hl) (i, p) hm
      refine ⟨h.goesOn rfl ?_, Iss.complete_keepsMemory _ _ _⟩
      dsimp only
      rw [if_neg (by rw [hheld]; exact Bool.false_ne_true), Iss.locate_clean hloc hdata]
      refine (Iss.limited_clear hseq hroom).trans ?_
      simp only [Acc.rowPart_eq]
      rfl

end Sys2Proof.Machine
end


section
/-! CLAIM. QPUSH, QWAIT, header writes and the taking of entries (R308 to R322, R327 to R329). -/

namespace Sys2Proof.Machine

/-! A walk that meets no error. -/

/-- A translation that answers has met no error where there is none. -/
def Trans.Clean : Trans → Prop
  | .ok _ t | .fault _ t => t.dev.hbmErrors = []
  | .stall _ => True

namespace State

theorem tlbInsert_dev (s : State) (cap : Nat) (l : List TlbEntry) (e : TlbEntry) : (tlbInsert s cap l e).2.dev = s.dev := by
  unfold tlbInsert
  split <;> rfl

theorem fillTlb_dev (s : State) (core : Option Nat) (e : TlbEntry) : (s.fillTlb core e).dev = s.dev := by
  cases core with
  | none => rfl
  | some c => exact s.tlbInsert_dev 256 (s.core c).tlb e

theorem setDirty_clean {s : State} (h : s.dev.hbmErrors = []) (core : Option Nat) (e : TlbEntry) :
    (s.setDirty core e).dev.hbmErrors = [] := by
  unfold setDirty
  rw [State.meetErrors_clean h]
  cases core <;> exact h

theorem meetWalk_clean {s : State} (h : s.dev.hbmErrors = []) (ctx va : Nat) : s.meetWalk ctx va = s := by
  unfold meetWalk
  rw [h]
  rfl

theorem fillLeaf_clean {s : State} (h : s.dev.hbmErrors = []) (core : Option Nat) (die ctx va at_ e lv : Nat) :
    (s.fillLeaf core die ctx va at_ e lv).dev.hbmErrors = [] := by
  unfold fillLeaf
  rw [meetWalk_clean h]
  dsimp only
  rw [fillTlb_dev]
  refine (congrArg (·.hbmErrors) (tlbInsert_dev _ _ _ _)).trans ?_
  split <;> exact h

theorem useEntry_clean {s : State} (h : s.dev.hbmErrors = []) (core : Option Nat) (va : Nat) (n : Need) (e : TlbEntry) :
    (s.useEntry core va n e).Clean := by
  unfold useEntry
  split
  · exact h
  · split
    · split
      · trivial
      · exact setDirty_clean h core e
    · exact h

theorem translate_clean {s : State} (h : s.dev.hbmErrors = []) (core : Option Nat) (die ctx va : Nat) (n : Need) :
    (s.translate core die ctx va n).Clean := by
  have hfill (e : TlbEntry) : (s.fillTlb core e).dev.hbmErrors = [] := by rw [fillTlb_dev]; exact h
  rw [translate_eq]
  split
  · exact useEntry_clean h core va n _
  · split
    · exact useEntry_clean (hfill _) core va n _
    · unfold walked
      split
      · trivial
      · rw [meetWalk_clean h]; exact h
      · rw [meetWalk_clean h]; exact h
      · exact useEntry_clean (fillLeaf_clean h core die ctx va _ _ _) core va n _

theorem reach_clean {s u : State} {die c va n : Nat} {need : Need} {l : Loc} (h : s.dev.hbmErrors = [])
    (hr : s.reach die c va n need = .ok l u) : u.dev.hbmErrors = [] := by
  have htr := translate_clean h none die c va need
  unfold reach at hr
  split at hr
  · exact nomatch hr
  · exact nomatch hr
  · rename_i e
    rw [e] at htr
    split at hr
    · exact nomatch hr
    · obtain ⟨-, rfl⟩ := DevAcc.ok.inj hr
      exact htr

end State

/-! QPUSH and QWAIT (R327 to R329). -/

namespace Iss
variable (x : Iss) (m : Mem)

/-- The checks of a QPUSH's selector (R328). -/
def pushFails (i : Nat) (n : Named) : Option LaneFail :=
  match n with
  | .bad _ => none
  | _ => if (x.reg m.c 0 i).poison then some ⟨.poison, (x.addr m i).bits, none⟩
    else x.s.selectorFail x.w.ctx (x.reg m.c 0 i).bits.toNat (x.addr m i).bits

/-- The places of a QPUSH's lanes. -/
def pushAt : Located := x.locate x.lanes (x.addr m) 128 Need.read (x.pushFails m) (later := x.imageCheck m)

/-- The image a lane pushes: a launch packet gets its PARENT. -/
def pushImage (s : State) (e : Nat × List PByte) : List PByte :=
  let at_ := selected x.w.ctx (x.reg m.c 0 e.1).bits.toNat
  if at_.2.1 ∨ e.2 = [] then e.2
  else e.2.take 0x40 ++ pbytes false (leBytes 8 (s.parentFor x.w)) ++ e.2.drop 0x48

/-- The effect of a lane's push. -/
def pushEffect (s : State) (e : Nat × List PByte) : Effect :=
  let at_ := selected x.w.ctx (x.reg m.c 0 e.1).bits.toNat
  .push at_.1 (if at_.2.1 then 1 else 0) at_.2.2.1 (x.pushImage m s e) e.1

/-- A QPUSH whose images are read goes into flight. -/
def pushed (s : State) (ps : List (Nat × Place)) (imgs : List (Nat × List PByte)) : State :=
  let op : Op := { x.opOf .value with
    global := Iss.isFar ps, reqs := x.requests ps
    pieces := imgs.map fun e => { lane := e.1, loc := ⟨.dev, 0⟩, size := 0, row := 0, fwd := [], done := false } }
  let wo := if m.sub.getLsbD 0 then x.w.addDests x op m.d 2 else (x.w, op)
  let w := imgs.foldl (fun (w : Wave) e => w.hold x.no x.clk x.uid (x.pushEffect m s e)) { wo.1 with ops := wo.1.ops ++ [wo.2] }
  let reqs := ps.filterMap fun p => match p.2 with
    | .far r g f => some (x.request s .load p.1 r g f 128 m.sub m.order m.scope [])
    | _ => none
  (s.putWave (x.takeSeq w (Iss.isFar ps))).sendRemote x.w x.uid reqs (fun _ => []) none

end Iss

/-- What the images of a QPUSH come to once they are read. -/
theorem qpush_image (x : Iss) (m : Mem) (s : State) (e : Nat × List PByte) :
    (match selected x.w.ctx (x.reg m.c 0 e.1).bits.toNat with
      | (c, eng, q, _) =>
        Effect.push c (if eng then 1 else 0) q (if eng then e.2 else if e.2.isEmpty then [] else withParent e.2 (s.parentFor x.w)) e.1) =
      x.pushEffect m s e := by
  unfold Iss.pushEffect Iss.pushImage
  obtain ⟨c, eng, q, fit⟩ := selected x.w.ctx (x.reg m.c 0 e.1).bits.toNat
  cases eng with
  | true => rfl
  | false =>
    cases h : e.2 with
    | nil => rfl
    | cons b bs => rfl

/-- A QPUSH whose lanes find their places. -/
theorem Issues.qpush {m : Mem} {s s' t : State} {x : Iss} {ps : List (Nat × Place)} {imgs : List (Nat × List PByte)}
    (h : Issues (.qpush m) s x) (hloc : x.pushAt m = .ok s' ps) (hseq : Iss.isFar ps = true → x.w.seq < 2 ^ 24)
    (hroom : x.full (x.requests ps) = false) (himg : x.images s' ps = (some imgs, t)) :
    exec (.qpush m) s = .next (x.complete (x.pushed m t ps imgs) true) := by
  refine h.goesOn rfl ?_
  change (match x.pushAt m with
    | .stall s => _
    | .fail s f => _
    | .ok s ps => _) = _
  rw [hloc]
  refine (Iss.limited_clear hseq hroom).trans ?_
  rw [himg]
  simp only [← qpush_image, Iss.pushed] <;> cases m.sub.getLsbD 0 <;> rfl

/-- A QWAIT at a header of its own rank. -/
theorem Issues.qwait {m : Mem} {s s' : State} {x : Iss} {c va : Nat} {l : Loc} (h : Issues (.qwait m) s x)
    (hp : (x.addr m x.first).poison = false) (hname : s.nameOf x.w (x.addr m x.first).bits.toNat = .local c va)
    (halign : (x.addr m x.first).bits.toNat % 128 = 0)
    (hat : s.laneAt x.w c va (x.addr m x.first).bits.toNat .read = .ok l s') {r : Res}
    (hr : (let p := Val.join (x.reg m.c 0 x.first) (x.reg m.c 1 x.first)
      if p.poison then .due s' ⟨.poison, laneSet [x.first], (x.addr m x.first).bits, none⟩
      else .wait s' (x.waitOf (.queue p.bits.toNat) l (x.addr m x.first).bits.toNat m.acq 0x71 0)) = r) :
    exec (.qwait m) s = .next (x.finish r).poll := by
  obtain rfl := h.s_eq
  refine h.outcomeWait rfl ?_
  dsimp only
  rw [Iss.locate_local hp hname rfl halign hat]
  exact hr

/-! Header writes and entries (R308 to R322). -/

/-- A header write at a queue that takes entries. -/
theorem headerWriteSeen_takes {s : State} {c q : Nat} {eng : Bool} {r : State}
    (hq : q < (if eng then (s.ctx c).eqs.length else (s.ctx c).lqs.length)) (hv : (s.queue c eng q).valid = true)
    (hst : (s.queue c eng q).st = .empty ∨ (s.queue c eng q).st = .running ∨ (s.queue c eng q).st = .waiting ∨
      (s.queue c eng q).st = .blocked)
    (hr : (match s.readHeader c eng q with
      | .no s => s
      | .ok tail head t =>
        if 2 ^ (s.queue c eng q).log2 < tail - head then (t.notice c 0x12 (t.headerVa c eng q) 0).faultQueue c eng q
        else if (s.queue c eng q).st == .empty && decide (head < tail) then t.setQState c eng q .running
        else t) = r) : exec (.headerWriteSeen c eng q) s = .next r := by
  change execHeaderWriteSeen c eng q s = _
  rw [execHeaderWriteSeen]
  dsimp only
  rw [if_neg (by rw [hv, Bool.not_true, Bool.or_false, decide_eq_true_eq]; omega)]
  obtain h | h | h | h := hst <;> rw [h] at hr ⊢ <;> exact congrArg _ hr

/-- A header write at a queue that takes none. -/
theorem headerWriteSeen_none {s : State} {c q : Nat} {eng : Bool}
    (h : ¬(q < (if eng then (s.ctx c).eqs.length else (s.ctx c).lqs.length) ∧ (s.queue c eng q).valid = true ∧
      ((s.queue c eng q).st = .empty ∨ (s.queue c eng q).st = .running ∨ (s.queue c eng q).st = .waiting ∨
        (s.queue c eng q).st = .blocked))) : exec (.headerWriteSeen c eng q) s = .next s := by
  change execHeaderWriteSeen c eng q s = _
  rw [execHeaderWriteSeen]
  dsimp only
  refine congrArg _ ?_
  by_cases hn : (decide ((if eng then (s.ctx c).eqs.length else (s.ctx c).lqs.length) ≤ q) || !(s.queue c eng q).valid) = true
  · exact if_pos hn
  · refine (if_neg hn).trans ?_
    rw [Bool.or_eq_true, decide_eq_true_eq, Bool.not_eq_true', not_or, Nat.not_le, Bool.not_eq_false] at hn
    cases hst : (s.queue c eng q).st with
    | stopped => rfl
    | faulted => rfl
    | empty => exact absurd ⟨hn.1, hn.2, .inl hst⟩ h
    | running => exact absurd ⟨hn.1, hn.2, .inr (.inl hst)⟩ h
    | waiting => exact absurd ⟨hn.1, hn.2, .inr (.inr (.inl hst))⟩ h
    | blocked => exact absurd ⟨hn.1, hn.2, .inr (.inr (.inr hst))⟩ h

/-- A queue whose entries are taken. -/
def State.takesEntries (s : State) (c q : Nat) : Prop :=
  q < (s.ctx c).eqs.length ∧ (s.queue c true q).st = .running ∧ (s.queue c true q).valid = true ∧ (s.queue c true q).stopping = false

/-- The entry in the slot at l, of address va, is read, checked and started. -/
def State.entryRead (s : State) (c q head va : Nat) (l : Loc) : State :=
  let img := (s.homeRead l 128).1.map (·.byte)
  let e : Entry := {
    seq := head, image := img, started := false, shape := [], claims := []
    prog := (List.range 256).filter (fun j => (pfield img 0x60 32).testBit j), finish := false, olds := [], resume := false, parts := [] }
  let s := (s.homeRead l 128).2.modQueue c true q fun x => { x with entry := some e }
  if entryBad img (s.ctx c).eqs.length then (s.notice c 0x11 va 0).failEntry c q e 4
  else s.startEntry c q e

/-- What taking the entry of a queue comes to. -/
def State.entryTaken (s : State) (c q : Nat) : State :=
  let x := s.queue c true q
  match x.entry with
    | some e => match s.ringReady c true q (some e.seq) with
      | .wait s | .no s => s
      | .yes s =>
      if e.resume then s.resumeEntry c q e
      else if e.finish || (e.started && e.left.isEmpty) then (if e.claims.isEmpty then s.completeEntry c q e else s)
      else if e.started then s
      else s.startEntry c q e
    | none =>
      match s.readHeader c true q with
      | .no s => s
      | .ok tail head s =>
        if tail ≤ head then s.setQState c true q .empty
        else if 2 ^ x.log2 < tail - head then
          (s.notice c 0x12 (s.headerVa c true q) 0).faultQueue c true q
        else match s.reach x.die c (x.slotVa head) 128 Need.both with
          | .stall s => s
          | .fault f s => s.queuePageFault c true q (s.headerVa c true q) f
          | .ok l s =>
            let (bs, s) := s.homeRead l 128
            let img := bs.map (·.byte)
            let bits := pfield img 0x60 32
            let e : Entry := {
              seq := head, image := img, started := false, shape := [], claims := []
              prog := (List.range 256).filter (fun j => bits.testBit j), finish := false, olds := [], resume := false, parts := [] }
            let s := s.modQueue c true q fun x => { x with entry := some e }
            if entryBad img (s.ctx c).eqs.length then
              (s.notice c 0x11 (x.slotVa head) 0).failEntry c q e 4
            else s.startEntry c q e

theorem execEntryTake_not {s : State} {c q : Nat} (h : ¬s.takesEntries c q) : exec (.entryTake c q) s = .next s := by
  change execEntryTake c q s = _
  rw [execEntryTake]
  refine congrArg _ (if_pos ?_)
  by_contra hn
  simp only [Bool.or_eq_true, decide_eq_true_eq, bne_iff_ne, Bool.not_eq_true', not_or, Nat.not_le, not_not, Bool.not_eq_false,
    Bool.not_eq_true, and_assoc] at hn
  exact h hn

theorem execEntryTake_takes {s : State} {c q : Nat} (h : s.takesEntries c q) : exec (.entryTake c q) s = .next (s.entryTaken c q) := by
  obtain ⟨hq, hst, hv, hs⟩ := h
  change execEntryTake c q s = _
  rw [execEntryTake]
  refine congrArg _ (if_neg ?_)
  simp [hst, hv, hs, hq]

/-- The STATUS and PROGRESS of an entry that is resumed. -/
theorem State.resumeEntry_ok {s u : State} {c q : Nat} {e : Entry} {l : Loc}
    (hr : s.reach (s.queue c true q).die c ((s.queue c true q).slotVa e.seq) 128 .both = .ok l u) (h : s.dev.hbmErrors = []) :
    s.resumeEntry c q e = if u.natAt (l.plus 4) 4 = 4 then u.modQueue c true q fun x => { x with entry := none }
      else
        let t := u.modEntry c q fun e => { e with
          resume := false, started := u.natAt (l.plus 4) 4 != 0
          prog := (List.range 256).filter fun j => (u.natAt (l.plus 0x60) 32).testBit j }
        if u.natAt (l.plus 4) 4 = 0 then t else t.setStatus c q e 1 := by
  rw [State.resumeEntry]
  dsimp only
  rw [hr]
  dsimp only
  rw [State.meetErrors_clean (State.reach_clean h hr)]

/-- An entry in progress. -/
def State.entryBegun (t : State) (c q : Nat) (e : Entry) (shape : List Byte) : State :=
  (t.modEntry c q fun _ => { e with started := true, shape }).setStatus c q { e with started := true, shape } 1

/-- An entry in progress completes at once where it has no chunk left. -/
def State.entryRuns (t : State) (c q : Nat) (e : Entry) (shape : List Byte) : State :=
  if Entry.left { e with started := true, shape } = [] then t.completeEntry c q { e with started := true, shape } else t

/-- An entry goes on with its record. -/
def State.entryGoes (s : State) (c q : Nat) (e : Entry) (shape : List Byte) : State :=
  let (ok, s) := if pfield e.image 0 4 % 16 = 5 then s.writeRcache c q e else (true, s)
  if !ok then s else
  let e : Entry := { e with started := true, shape }
  let s := s.modEntry c q fun _ => e
  let s := s.setStatus c q e 1
  let s := if pfield e.image 0 4 % 16 = 5 then
      let r := pfield e.image 0x20 8
      s.modQueue c true q fun x => { x with cache := if r = 0 then [] else x.cache.filter (·.1 != r) }
    else s
  if e.left.isEmpty then s.completeEntry c q e else s

theorem State.entryRuns_eq (t : State) (c q : Nat) (e : Entry) (shape : List Byte) :
    (if Entry.left { e with started := true, shape } |>.isEmpty then t.completeEntry c q { e with started := true, shape } else t) =
      t.entryRuns c q e shape := by
  unfold State.entryRuns
  simp only [List.isEmpty_iff]

/-- An entry that is no RFENCE is in progress with its record. -/
theorem State.entryGoes_of_ne {s : State} {c q : Nat} {e : Entry} {shape : List Byte} (h : pfield e.image 0 4 % 16 ≠ 5) :
    s.entryGoes c q e shape = (s.entryBegun c q e shape).entryRuns c q e shape := by
  rw [State.entryGoes, if_neg h]
  dsimp only
  rw [if_neg h]
  exact State.entryRuns_eq _ c q e shape

/-- An RFENCE drops the copies of records. -/
theorem State.entryGoes_rfence {s t : State} {c q : Nat} {e : Entry} {shape : List Byte} {ok : Bool} (h : pfield e.image 0 4 % 16 = 5)
    (hw : s.writeRcache c q e = (ok, t)) : s.entryGoes c q e shape =
      if ok then ((t.entryBegun c q e shape).modQueue c true q fun x =>
        { x with cache := if pfield e.image 0x20 8 = 0 then [] else x.cache.filter (·.1 != pfield e.image 0x20 8) }).entryRuns c q e shape
      else t := by
  rw [State.entryGoes, if_pos h, hw]
  dsimp only
  rw [if_pos h]
  cases ok with
  | false => rfl
  | true => exact State.entryRuns_eq _ c q e shape

/-- An entry of a queue without chunks of a skipped one, once its trigger and join have been looked at. -/
theorem State.startEntry_eq {s : State} {c q : Nat} {e : Entry} (hleft : ((s.entryHolds c q e).2.queue c true q).left = [])
    (hst : ((s.entryHolds c q e).2.queue c true q).st = .running) : s.startEntry c q e =
    if !(s.entryHolds c q e).1 then (s.entryHolds c q e).2.setQState c true q .waiting
    else if pfield e.image 0 4 % 16 = 2 then
      match (s.entryHolds c q e).2.takeRecord c q e with
      | .ok r s => s.entryGoes c q e r
      | .bad s => (s.notice c 0x11 ((s.queue c true q).slotVa e.seq) 0).failEntry c q e 4
      | .no s => s
    else (s.entryHolds c q e).2.entryGoes c q e [] := by
  unfold State.startEntry
  dsimp only
  rw [if_neg (by rw [hleft]; exact Bool.false_ne_true), if_neg (by rw [hst]; exact Bool.false_ne_true)]
  rfl

theorem State.startEntry_waits {s : State} {c q : Nat} {e : Entry}
    (h : ((s.entryHolds c q e).2.queue c true q).left ≠ [] ∨ ((s.entryHolds c q e).2.queue c true q).st ≠ .running) :
    s.startEntry c q e = (s.entryHolds c q e).2 := by
  unfold State.startEntry
  dsimp only
  by_cases hl : ((s.entryHolds c q e).2.queue c true q).left = []
  · rw [if_neg (by rw [hl]; exact Bool.false_ne_true)]
    exact if_pos (bne_iff_ne.2 (h.resolve_left (not_not_intro hl)))
  · exact if_pos (by simpa using hl)

/-- Settles O34: the pushes and waits at issue, then the branches of a header write, of taking an entry and of its start. -/
theorem queueResults : Obligations.QueueResults := by
  unfold Obligations.QueueResults
  refine ⟨fun m s s' x ps => ⟨fun h => ?qpush, fun t f h => ?fails, fun h c va l hp hname halign hat => ?qwait⟩, fun s c eng q => ?header,
    fun s c q => ?take, fun s c q e => ?start⟩
  case qpush =>
    obtain rfl := h.s_eq
    intro sel at_ hloc hseq hroom imgs t himg
    exact h.qpush hloc hseq hroom himg
  case fails =>
    obtain rfl := h.s_eq
    intro sel hloc
    refine h.outcome rfl ?_
    change (match x.pushAt m with
      | .stall s => _
      | .fail s f => _
      | .ok s ps => _) = _
    rw [show x.pushAt m = .fail t f from hloc]
  case qwait =>
    intro p
    exact ⟨fun hclean => h.qwait hp hname halign hat (if_neg (by rw [hclean]; exact Bool.false_ne_true)),
      fun hbad => h.qwait hp hname halign hat (if_pos hbad)⟩
  case header =>
    intro x has
    refine ⟨headerWriteSeen_none, fun ⟨hq, hv, hst⟩ t ht => headerWriteSeen_takes hq hv hst (by rw [ht]),
      fun ⟨hq, hv, hst⟩ tail head t ht => ⟨fun hfar => ?_, fun hnear he hlt => ?_, fun hnear he => ?_⟩⟩ <;>
      refine headerWriteSeen_takes hq hv hst ?_ <;> rw [ht] <;> dsimp only
    · exact if_pos hfar
    · refine (if_neg (Nat.not_lt.2 hnear)).trans (if_pos ?_)
      rw [show (s.queue c eng q).st = .empty from he]
      simpa using hlt
    · refine (if_neg (Nat.not_lt.2 hnear)).trans (if_neg ?_)
      rw [Bool.and_eq_true, beq_iff_eq, decide_eq_true_eq]
      exact fun h => he.elim (fun hne => hne h.1) fun hle => Nat.not_lt.2 hle h.2
  case take =>
    intro x takes
    refine ⟨execEntryTake_not, fun ht hx t hr => ?_, fun ht hx t tail head hr => ?_, fun ht e hx => ?_, fun e => ⟨fun u hu => ?_, fun l u hu hclean => ?_⟩⟩
    · rw [execEntryTake_takes ht, State.entryTaken, show (s.queue c true q).entry = none from hx, hr]
    · have htaken : ∀ z, (if tail ≤ head then t.setQState c true q .empty
          else if 2 ^ x.log2 < tail - head then (t.notice c 0x12 (t.headerVa c true q) 0).faultQueue c true q
          else match t.reach x.die c (x.slotVa head) 128 Need.both with
            | .stall s => s
            | .fault f s => s.queuePageFault c true q (s.headerVa c true q) f
            | .ok l s => s.entryRead c q head (x.slotVa head) l) = z → exec (.entryTake c q) s = .next z := by
        intro z hz
        rw [execEntryTake_takes ht, State.entryTaken, show (s.queue c true q).entry = none from hx, hr]
        exact congrArg _ hz
      refine ⟨fun hle => htaken _ (if_pos hle), fun hlt hfar => htaken _ ((if_neg (Nat.not_le.2 hlt)).trans (if_pos hfar)),
        fun hlt hnear => ?_⟩
      have hgo := fun z hz => htaken z ((if_neg (Nat.not_le.2 hlt)).trans ((if_neg (Nat.not_lt.2 hnear)).trans hz))
      refine ⟨fun u hu => hgo _ (by rw [hu]), fun f u hu => hgo _ (by rw [hu]), fun l u hu => ?_⟩
      intro img e v
      exact ⟨fun hbad => hgo _ (by rw [hu]; exact if_pos hbad),
        fun hgood => hgo _ (by rw [hu]; exact if_neg (by rw [hgood]; exact Bool.false_ne_true))⟩
    · have htaken : ∀ t, s.ringReady c true q (some e.seq) = .yes t → exec (.entryTake c q) s = .next
          (if e.resume then t.resumeEntry c q e
            else if e.finish || (e.started && e.left.isEmpty) then (if e.claims.isEmpty then t.completeEntry c q e else t)
            else if e.started then t
            else t.startEntry c q e) := by
        intro t hr
        rw [execEntryTake_takes ht, State.entryTaken, show (s.queue c true q).entry = some e from hx]
        dsimp only
        rw [hr]
      refine ⟨fun t hr => ?_, fun t hr => ?_⟩
      · rw [execEntryTake_takes ht, State.entryTaken, show (s.queue c true q).entry = some e from hx]
        dsimp only
        obtain hr | hr := hr <;> rw [hr]
      · intro spent
        have hspent : (e.finish || (e.started && e.left.isEmpty)) = true ↔ spent := by simp [spent]
        rw [htaken t hr]
        refine ⟨fun h => congrArg _ (if_pos h), fun h => ?_⟩
        have hno : ¬e.resume = true := by rw [h]; exact Bool.false_ne_true
        exact ⟨fun hs => congrArg _ ((if_neg hno).trans (if_pos (hspent.2 hs))),
          fun hs h1 => congrArg _ ((if_neg hno).trans ((if_neg (mt hspent.1 hs)).trans (if_pos h1))),
          fun hs h1 => congrArg _ ((if_neg hno).trans ((if_neg (mt hspent.1 hs)).trans (if_neg (by rw [h1]; exact Bool.false_ne_true))))⟩
    · rw [State.resumeEntry]
      dsimp only
      rw [hu]
    · have hres := State.resumeEntry_ok hu hclean
      exact ⟨fun h4 => hres.trans (if_pos h4), fun h0 => hres.trans ((if_neg (by rw [h0]; decide)).trans (if_pos h0)),
        fun h4 h0 => hres.trans ((if_neg h4).trans (if_neg h0))⟩
  case start =>
    intro kind r begun run
    refine ⟨State.startEntry_waits, fun hl hst hno => ?_, fun hl hst hyes => ?_⟩
    · rw [State.startEntry_eq hl hst]
      exact if_pos (by rw [hno]; rfl)
    · have hgo := (State.startEntry_eq hl hst).trans (if_neg (by rw [hyes]; exact Bool.false_ne_true))
      refine ⟨fun h2 h5 => ?_, fun h2 => ⟨fun rec t ht => ?_, fun t ht => ?_, fun t ht => ?_⟩, fun h5 => ⟨fun t ht => ?_, fun t ht => ?_⟩⟩
      · exact hgo.trans ((if_neg h2).trans (State.entryGoes_of_ne h5))
      · refine hgo.trans ((if_pos h2).trans ?_)
        rw [ht]
        exact State.entryGoes_of_ne (by omega)
      · refine hgo.trans ((if_pos h2).trans ?_)
        rw [ht]
        rfl
      · refine hgo.trans ((if_pos h2).trans ?_)
        rw [ht]
      · exact hgo.trans ((if_neg (by omega)).trans (State.entryGoes_rfence h5 ht))
      · exact hgo.trans ((if_neg (by omega)).trans (State.entryGoes_rfence h5 ht))

end Sys2Proof.Machine
end


section
/-! CLAIM. PUTF, PUTM, the release of slots and COLL at issue (R282, R339, R340, R390 to R396). -/

namespace Sys2Proof.Machine

/-- A lane whose place is found is active. -/
theorem Iss.locate_mem {x : Iss} {addr : Nat → Val64} {align : Nat} {need : Need} {extra : Nat → Named → Option LaneFail}
    {data : Nat → Place → Bool} {later : Nat → Place → State → LaneLater} {lanes : List Nat} {s' : State}
    {ps : List (Nat × Place)} {l : Nat} {p : Place} (h : x.locate lanes addr align need extra data later = .ok s' ps)
    (hm : (l, p) ∈ ps) : l ∈ lanes := Iss.locate_lanes h ▸ List.mem_map_of_mem hm

/-- An address that may be at a rank is placed there. -/
theorem Named.eq_of_mayBe_far {k : Named} {r g f : Nat} (h : k.mayBe (.far r g f)) : k = .placed (.far r g f) := by
  obtain ⟨c, va⟩ | q | e := k
  · exact h.elim
  · exact congrArg _ h
  · exact h.elim

/-- The address of a place is of some class. -/
theorem Named.not_bad_of_mayBe {k : Named} {p : Place} (h : k.mayBe p) (f : LaneFail) : k ≠ .bad f := by
  rintro rfl
  exact h.elim

/-- An address that is local, of some class, is a descriptor's. -/
theorem mailClass_none {a : DWord} {k : Named} {p : Place} (ha : a.toNat / 2 ^ 62 = 0) (h : k.mayBe p) : mailClass a k = none := by
  unfold mailClass
  rw [if_neg (not_not_intro ha)]
  split
  · next f => exact h.elim
  · rfl

namespace Iss
variable (x : Iss) (m : Mem)

/-- The flag value of a PUTF. -/
def putValue (l : Nat) : Val64 := if m.size = .b64 then x.groupPair m 6 l else (x.reg m.c 6 l).wide

/-- The checks of a PUTF's operands (R392). -/
def putfFails (i : Nat) (k : Named) : Option LaneFail :=
  let bad (e : Nat) : Option LaneFail := some ⟨.address, (x.addr m i).bits, some (BitVec.ofNat 64 e)⟩
  let fa := (x.groupPair m 4 i).bits.toNat
  if (x.groupPair m 0 i).poison || (x.reg m.c 2 i).poison || (x.groupPair m 4 i).poison || (x.putValue m i).poison then
    some ⟨.poison, (x.addr m i).bits, none⟩
  else match k with
    | .bad e => if (x.addr m i).bits.toNat / 2 ^ 62 = 1 then some e else bad 6
    | .placed (.far r _ _) =>
      if fa / 2 ^ 62 ≠ 1 then bad 6
      else if bitsOf fa 61 45 ≠ r then bad 12
      else if 65536 < (x.reg m.c 2 i).bits.toNat then bad 11
      else if fa % m.size.bytes ≠ 0 then some ⟨.align, (x.groupPair m 4 i).bits, none⟩
      else x.s.sourceFail x.w (x.groupPair m 0 i).bits.toNat (x.reg m.c 2 i).bits.toNat
    | _ => bad 6

/-- The checks of a PUTM's operands (R393, R394). -/
def putmFails (i : Nat) (k : Named) : Option LaneFail :=
  if (x.groupPair m 0 i).poison || (x.reg m.c 2 i).poison then some ⟨.poison, (x.addr m i).bits, none⟩
  else match mailClass (x.addr m i).bits k with
    | some f => some f
    | none => if (x.addr m i).bits.toNat % 64 ≠ 0 then none
      else x.s.sourceFail x.w (x.groupPair m 0 i).bits.toNat (min 4096 (x.reg m.c 2 i).bits.toNat)

variable {x m}

theorem putfFails_none {i r g o : Nat} {k : Named} (hk : k.mayBe (.far r g o))
    (hclass : (x.groupPair m 4 i).bits.toNat / 2 ^ 62 = 1) (hrank : bitsOf (x.groupPair m 4 i).bits.toNat 61 45 = r)
    (hsrc : (x.groupPair m 0 i).poison = false) (hn : (x.reg m.c 2 i).poison = false) (hf : (x.groupPair m 4 i).poison = false)
    (hv : (x.putValue m i).poison = false) (hlen : (x.reg m.c 2 i).bits.toNat ≤ 65536)
    (halign : (x.groupPair m 4 i).bits.toNat % m.size.bytes = 0)
    (hsource : x.s.sourceFail x.w (x.groupPair m 0 i).bits.toNat (x.reg m.c 2 i).bits.toNat = none) : x.putfFails m i k = none := by
  rw [Named.eq_of_mayBe_far hk]
  unfold putfFails
  dsimp only
  rw [if_neg (by rw [hsrc, hn, hf, hv]; decide), if_neg (not_not_intro hclass), if_neg (not_not_intro hrank),
    if_neg (Nat.not_lt.2 hlen), if_neg (not_not_intro halign), hsource]

theorem putmFails_none {i : Nat} {k : Named} {p : Place} (hk : k.mayBe p) (hclass : (x.addr m i).bits.toNat / 2 ^ 62 = 0)
    (hsrc : (x.groupPair m 0 i).poison = false) (hn : (x.reg m.c 2 i).poison = false)
    (hsource : x.s.sourceFail x.w (x.groupPair m 0 i).bits.toNat (min 4096 (x.reg m.c 2 i).bits.toNat) = none) :
    x.putmFails m i k = none := by
  unfold putmFails
  rw [if_neg (by rw [hsrc, hn]; decide), mailClass_none hclass hk]
  dsimp only
  rw [hsource]
  split <;> rfl

end Iss

/-- Settles O36: the operands that meet their rules pass the checks of their lanes; then the room, and the effect held. -/
theorem putAndCollResults : Obligations.PutAndCollResults := by
  unfold Obligations.PutAndCollResults
  intro m s s' t x ps ls hseq pair n flying op
  have hleft : ¬(!x.w.streamLeft) = true := by
    rw [Wave.streamLeft, decide_eq_true hseq]
    exact Bool.false_ne_true
  have hroomNot : ∀ {k}, x.full k = false → ¬x.full k = true := fun h => by rw [h]; exact Bool.false_ne_true
  refine ⟨fun h => ?putf, fun h => ?putm, fun h l d rest hlocal hloc => ?putmRel, fun f h hf => ?_, fun h => ?coll⟩
  case putf =>
    obtain rfl := h.s_eq
    intro v f size src len
    refine ⟨fun hloc hfar hgood hroom hsrc => ?_, fun f' hf' => ?_⟩
    · intro req
      have hloc' : x.locate x.lanes (x.addr m) 1 .read (x.putfFails m) (later := x.sourceCheck src len) = .ok s' ps :=
        Iss.locate_more hloc (fun i p hm k hk _ => by
          obtain ⟨r, g, o, rfl, hclass, hrank⟩ := hfar i p hm
          obtain ⟨h0, h2, h4, hv, hlen, halign, hsource⟩ := hgood i (Iss.locate_mem hloc hm)
          exact Iss.putfFails_none hk hclass hrank h0 h2 h4 hv hlen halign hsource) (fun _ _ _ => rfl) (fun _ _ _ _ _ h => h)
      refine h.goesOn rfl ?_
      change (match x.locate x.lanes (x.addr m) 1 .read (x.putfFails m) (later := x.sourceCheck src len) with
        | .stall s => _
        | .fail s f => _
        | .ok s ps => _) = _
      rw [hloc']
      refine (if_neg hleft).trans ((if_neg (hroomNot hroom)).trans ?_)
      change (match x.sources s' src len with
        | .stall s => _
        | .fail f s => _
        | .ok ls s => _) = _
      rw [hsrc]
      rfl
    · refine h.outcome rfl ?_
      change (match x.locate x.lanes (x.addr m) 1 .read (x.putfFails m) (later := x.sourceCheck src len) with
        | .stall s => _
        | .fail s f => _
        | .ok s ps => _) = _
      rw [show x.locate x.lanes (x.addr m) 1 .read (x.putfFails m) (later := x.sourceCheck src len) = .fail t f' from hf']
  case putm =>
    obtain rfl := h.s_eq
    intro src len
    refine ⟨fun hloc hgood hroom hsrc => ?_, fun f' hf' => ?_⟩
    · intro send
      have hloc' : x.locate x.lanes (x.addr m) 64 .both (x.putmFails m) (later := x.sourceCheck src len) = .ok s' ps :=
        Iss.locate_more hloc (fun i p hm k hk _ => by
          obtain ⟨hclass, h0, h2, hsource⟩ := hgood i (Iss.locate_mem hloc hm)
          exact Iss.putmFails_none hk hclass h0 h2 hsource) (fun _ _ _ => rfl) (fun _ _ _ _ _ h => h)
      refine h.goesOn rfl ?_
      change (match x.locate x.lanes (x.addr m) 64 .both (x.putmFails m) (later := x.sourceCheck src len) with
        | .stall s => _
        | .fail s f => _
        | .ok s ps => _) = _
      rw [hloc']
      refine (if_neg hleft).trans ((if_neg (hroomNot hroom)).trans ?_)
      change (match x.sources s' src len with
        | .stall s => _
        | .fail f s => _
        | .ok ls s => _) = _
      rewrite [hsrc]
      rfl
    · refine h.outcome rfl ?_
      change (match x.locate x.lanes (x.addr m) 64 .both (x.putmFails m) (later := x.sourceCheck src len) with
        | .stall s => _
        | .fail s f => _
        | .ok s ps => _) = _
      rw [show x.locate x.lanes (x.addr m) 64 .both (x.putmFails m) (later := x.sourceCheck src len) = .fail t f' from hf']
  case putmRel =>
    obtain rfl := h.s_eq
    intro k bad
    have hclass : x.locate x.lanes (x.addr m) 128 .both (fun i n => mailClass (x.addr m i).bits n) = .ok s' ((l, .mem d) :: rest) :=
      Iss.locate_more hloc (fun i p hm k hk _ => mailClass_none (hlocal i (Iss.locate_mem hloc hm)) hk) (fun _ _ _ => rfl)
        (fun _ _ _ _ _ h => h)
    refine ⟨fun hclean hroom => ?_, fun l' hbad => ?_⟩
    · refine h.goesOn rfl ?_
      dsimp only
      rw [Iss.locate_clean hclass fun i p hm => Bool.not_eq_true _ ▸ List.filter_eq_nil_iff.1 hclean i (Iss.locate_mem hloc hm)]
      exact (if_neg hleft).trans (if_neg (hroomNot hroom))
    · refine h.outcome rfl ?_
      dsimp only
      rw [Iss.locate_dirty_lanes hclass hbad]
      rfl
  · refine h.outcome rfl ?_
    dsimp only
    rw [hf]
  case coll =>
    intro base o rank g data
    refine ⟨fun f hf => ?_, fun hgood hloc hroom => ?_⟩
    · refine h.outcome rfl ?_
      dsimp only
      rw [hf]
    · intro fetch p wo w
      have hloc' : x.locate x.lanes g m.size.bytes .both (fun i _ =>
          if 2 ^ 17 ≤ (rank i).bits.toNat ∨ 2 ^ 45 ≤ (o i).toNat then some ⟨.address, o i, some 2⟩ else none)
          (fun i _ => anyPoison (data i)) = .ok s' ps :=
        Iss.locate_more hloc (fun i p hm k hk _ => by
          obtain ⟨hr, ho, -⟩ := hgood i (Iss.locate_mem hloc hm)
          exact if_neg (by omega)) (fun i p hm => (hgood i (Iss.locate_mem hloc hm)).2.2) (fun _ _ _ _ _ h => h)
      refine h.goesOn rfl ?_
      dsimp only
      rw [hloc']
      refine (if_neg hleft).trans ((if_neg (hroomNot hroom)).trans ?_)
      cases hfetch : m.sub.getLsbD 4 <;> simp only [w, wo, p, fetch, hfetch] <;> rfl

end Sys2Proof.Machine
end


section
/-! CLAIM. Engines bind, steal and complete their chunks (R84, R317, R318, R323 to R325). -/

namespace Sys2Proof.Machine

/-! Binding and stealing. -/

theorem foldl_max_bounds (l : List Nat) (b : Nat) :
    b ≤ l.foldl Nat.max b ∧ (∀ a ∈ l, a ≤ l.foldl Nat.max b) ∧ (l.foldl Nat.max b = b ∨ l.foldl Nat.max b ∈ l) := by
  induction l generalizing b with
  | nil => exact ⟨Nat.le_refl b, fun _ h => (nomatch h), .inl rfl⟩
  | cons x l ih =>
    obtain ⟨hb, hl, hin⟩ := ih (b.max x)
    rw [List.foldl_cons]
    refine ⟨(Nat.le_max_left b x).trans hb, fun a ha => ?_, ?_⟩
    · obtain rfl | ha := List.mem_cons.1 ha
      · exact (Nat.le_max_right b a).trans hb
      · exact hl a ha
    · obtain h | h := hin
      · rw [h]
        obtain hle | hle := Nat.le_total b x
        · exact .inr (List.mem_cons.2 (.inl (Nat.max_eq_right hle)))
        · exact .inl (Nat.max_eq_left hle)
      · exact .inr (List.mem_cons_of_mem _ h)

/-- The members of the greatest value are those that no other exceeds. -/
theorem filter_maxNat {α : Type} (f : α → Nat) (l : List α) :
    l.filter (fun e => f e == maxNat (l.map f)) = l.filter fun e => l.all fun g => decide (f g ≤ f e) := by
  obtain ⟨-, hle, hin⟩ := foldl_max_bounds (l.map f) 0
  change maxNat (l.map f) = 0 ∨ _ at hin
  refine List.filter_congr fun e he => ?_
  rw [Bool.eq_iff_iff, beq_iff_eq, List.all_eq_true]
  refine ⟨fun h g hg => decide_eq_true (h ▸ hle _ (List.mem_map_of_mem hg)), fun h => ?_⟩
  refine Nat.le_antisymm (hle _ (List.mem_map_of_mem he)) ?_
  obtain h0 | hmem := hin
  · rw [h0]
    exact Nat.zero_le _
  · obtain ⟨g, hg, heq⟩ := List.mem_map.1 hmem
    change f g = maxNat (l.map f) at heq
    exact heq ▸ of_decide_eq_true (h g hg)

/-- Looking at the contexts' entries moves nothing of the queues. -/
theorem State.tableRead_frame {s t : State} {cs : List Nat} (h : s.tableRead cs = (true, t)) :
    t.ctxs = s.ctxs ∧ t.engines = s.engines ∧ t.sched = s.sched := by
  unfold State.tableRead at h
  dsimp only at h
  split at h
  · exact nomatch h
  · obtain ⟨-, rfl⟩ := Prod.mk.inj h
    have hkeep := State.foldl_keeps (g := fun t : State => (t.ctxs, t.engines, t.sched))
      (f := fun s c => s.meetErrors ⟨.dev, s.entryAddr c⟩ 8) (fun s c => by
        obtain ⟨_, _, _, _, he⟩ := s.errorsMet_meetErrors ⟨.dev, s.entryAddr c⟩ 8
        rw [he]) (cs.filter fun c => (s.ctxs.getD c .free).st.alive) s
    obtain ⟨hctxs, hrest⟩ := Prod.mk.inj hkeep
    exact ⟨hctxs, Prod.mk.inj hrest⟩

/-- The entries an engine of a die may bind to or steal from. -/
def State.claimable (s : State) (die : Nat) : List (Nat × Nat × Queue × Entry) :=
  (s.performing die).filter fun e => !e.2.2.2.unclaimed.isEmpty

/-- The bind of a free engine. -/
def State.bound (s : State) (engine : Nat) : State :=
  let die := engine / 64
  let can := (s.claimable die).filter fun e => e.2.2.1.engine.isNone
  let top := can.filter fun e => can.all fun f => decide (s.prio f.1 ≤ s.prio e.1)
  let last := s.sched.lastQueue.getD die (0, 0)
  if !s.engineFree engine then s
  else match ((top.filter fun e => last.1 < e.1 || (last.1 == e.1 && decide (last.2 < e.2.1))) ++ top).head? with
    | none => s
    | some (c, q, _, e) => ((s.modQueue c true q fun x => { x with engine := some engine }).modSched fun k =>
        { k with lastQueue := updAt die (fun _ => (c, q)) k.lastQueue }).claim engine c q (e.unclaimed.headD 0)

theorem execEngineBind_read {s t : State} {engine : Nat} (h : s.tableRead (List.range 64) = (true, t)) :
    exec (.engineBind engine) s = .next (t.bound engine) := by
  change Host.Outcome.next (s.deciding _) = _
  rw [State.deciding, h]
  refine congrArg Host.Outcome.next ?_
  have hcan : (t.performing (engine / 64)).filter (fun e => e.2.2.1.engine.isNone && !e.2.2.2.unclaimed.isEmpty) =
      (t.claimable (engine / 64)).filter fun e => e.2.2.1.engine.isNone := by
    rw [State.claimable, List.filter_filter]
  unfold State.bound
  dsimp only
  rw [hcan, filter_maxNat fun e : Nat × Nat × Queue × Entry => t.prio e.1] <;> rfl

/-- Binding does not depend on what a look at the contexts' entries changes, but for their PRIO. -/
theorem State.claimable_congr {s t : State} (h : t.ctxs = s.ctxs) (die : Nat) : t.claimable die = s.claimable die := by
  unfold State.claimable State.performing
  rw [h]

theorem State.engineFree_congr {s t : State} (hc : t.ctxs = s.ctxs) (he : t.engines = s.engines) (engine : Nat) :
    t.engineFree engine = s.engineFree engine := by
  unfold State.engineFree
  rw [hc, he]

/-- The entry with more chunks nobody has claimed, the earlier one of two alike. -/
def mostUnclaimed (b : Option (Nat × Nat × Queue × Entry)) (e : Nat × Nat × Queue × Entry) : Option (Nat × Nat × Queue × Entry) :=
  match b with
  | none => some e
  | some a => if a.2.2.2.unclaimed.length < e.2.2.2.unclaimed.length then some e else b

theorem mostUnclaimed_eq : mostUnclaimed = keepMore fun e a => a.2.2.2.unclaimed.length < e.2.2.2.unclaimed.length := by
  funext b e
  cases b <;> rfl

/-- A steal, of the first entry of those with most chunks nobody has claimed. -/
theorem execEngineSteal_first {s : State} {engine c q : Nat} {y : Queue} {e : Entry} {before after : List (Nat × Nat × Queue × Entry)}
    (hfree : s.engineFree engine = true) (hno : (s.claimable (engine / 64)).filter (fun e => e.2.2.1.engine.isNone) = [])
    (hall : s.claimable (engine / 64) = before ++ (c, q, y, e) :: after)
    (hb : ∀ f ∈ before, f.2.2.2.unclaimed.length < e.unclaimed.length)
    (ha : ∀ f ∈ after, f.2.2.2.unclaimed.length ≤ e.unclaimed.length) :
    exec (.engineSteal engine) s = .next (s.claim engine c q (e.unclaimed.getLastD 0)) := by
  change Host.Outcome.next _ = _
  refine congrArg Host.Outcome.next ((if_neg fun h => ?_).trans ?_)
  · rw [hfree, Bool.not_true, Bool.false_or] at h
    obtain ⟨f, hf, hnone⟩ := List.any_eq_true.1 h
    exact List.filter_eq_nil_iff.1 hno f hf hnone
  · have hbest : (s.claimable (engine / 64)).foldl mostUnclaimed none = some (c, q, y, e) := by
      rw [mostUnclaimed_eq, hall]
      exact foldl_most hb fun f hf => Nat.not_lt.2 (ha f hf)
    change (match (s.claimable (engine / 64)).foldl mostUnclaimed none with
      | none => s
      | some (c, q, _, e) => _) = _
    rw [hbest]

theorem execEngineSteal_not {s : State} {engine : Nat} (h : s.engineFree engine = false ∨
    (s.claimable (engine / 64)).filter (fun e => e.2.2.1.engine.isNone) ≠ [] ∨ s.claimable (engine / 64) = []) :
    exec (.engineSteal engine) s = .next s := by
  change Host.Outcome.next _ = _
  refine congrArg Host.Outcome.next ?_
  by_cases hgo : (!s.engineFree engine || (s.claimable (engine / 64)).any fun e => e.2.2.1.engine.isNone) = true
  · exact if_pos hgo
  · refine (if_neg hgo).trans ?_
    rw [Bool.or_eq_true, not_or, Bool.not_eq_true', Bool.not_eq_false] at hgo
    obtain h | h | h := h
    · exact absurd (hgo.1.symm.trans h) (by decide)
    · obtain ⟨f, hf⟩ := List.exists_mem_of_ne_nil _ h
      obtain ⟨hf, hnone⟩ := List.mem_filter.1 hf
      exact absurd (List.any_eq_true.2 ⟨f, hf, hnone⟩) hgo.2
    · change (match (s.claimable (engine / 64)).foldl mostUnclaimed none with
        | none => s
        | some (c, q, _, e) => _) = _
      rw [h]
      rfl

/-! Chunks. -/

/-- Two changes of a queue are one. -/
theorem State.modQueue_modQueue (s : State) (c : Nat) (eng : Bool) (q : Nat) (f g : Queue → Queue) :
    (s.modQueue c eng q f).modQueue c eng q g = s.modQueue c eng q fun x => g (f x) := by
  have hupd : ∀ {α : Type} (i : Nat) (f g : α → α) (l : List α), updAt i g (updAt i f l) = updAt i (fun x => g (f x)) l := by
    intro α i f g l
    induction l generalizing i with
    | nil => cases i <;> rfl
    | cons x l ih => cases i with
      | zero => rfl
      | succ i => exact congrArg _ (ih i)
  unfold State.modQueue State.modCtx
  dsimp only
  rw [hupd]
  congr 1
  congr 1
  funext x
  cases eng <;> simp [hupd]

/-- Two changes of an entry are one. -/
theorem State.modEntry_modEntry (s : State) (c q : Nat) (f g : Entry → Entry) :
    (s.modEntry c q f).modEntry c q g = s.modEntry c q fun e => g (f e) := by
  unfold State.modEntry
  rw [State.modQueue_modQueue]
  simp only [Option.map_map, Function.comp_def]

/-- An engine's chunk is given up, with what it has moved kept. -/
def Entry.unclaim (engine j : Nat) (moved : List (Nat × Bool)) (e : Entry) : Entry :=
  if e.claims.any (·.2 == engine) then
    { e with claims := e.claims.filter (·.2 != engine), parts := if moved.isEmpty then e.parts else insertKey j moved e.parts }
  else e

/-- The engine works on nothing, and its chunk is given up. -/
def State.unclaim (s : State) (engine c q j : Nat) (moved : List (Nat × Bool)) : State :=
  let s : State := { s with engines := updAt engine (fun _ => .idle) s.engines }
  (s.modEntry c q (Entry.unclaim engine j moved)).modQueue c true q fun x => { x with
    left := (x.left.map (Entry.unclaim engine j moved)).filter (!·.claims.isEmpty) }

/-- A stop or a suspension that waited for the chunk goes on. -/
def State.chunkSettles (s : State) (c q : Nat) : State :=
  let x := s.queue c true q
  let s := if x.stopping && x.entry.all (·.claims.isEmpty) && x.left.isEmpty then s.stopQueue c true q else s
  let busy := s.engines.any (fun g => g.work.any (·.1 == c))
  if (s.ctx c).st == .draining && !busy then s.setCtxState c .destroyed else s

theorem State.chunkSettles_rests {s : State} {c q : Nat} (hs : (s.queue c true q).stopping = false) (hc : (s.ctx c).st ≠ .draining) :
    s.chunkSettles c q = s := by
  unfold State.chunkSettles
  dsimp only
  rw [if_neg (c := ((s.queue c true q).stopping && _ && _) = true) (by rw [hs]; exact Bool.false_ne_true)]
  exact if_neg fun h => hc (beq_iff_eq.1 (Bool.and_eq_true_iff.1 h).1)

/-- The bytes a chunk's runs are to get, read at once. -/
def State.chunkRead (s : State) (fill : Prop) [Decidable fill] (pat : Nat) (places : List (List (Loc × Nat) × List (Loc × Nat) × Nat)) :
    List (List PByte) × State :=
  places.foldl (fun (r : List (List PByte) × State) p =>
    if fill then
      (r.1 ++ [(List.range (p.1.foldl (fun n e => n + e.2) 0)).map fun k =>
        ⟨BitVec.ofNat 8 (pat / 2 ^ (8 * ((p.2.2 + k) % 8))), false⟩], r.2)
    else (r.1 ++ [(r.2.readSpread p.2.1).1], (r.2.readSpread p.2.1).2)) ([], s)

/-- A chunk of the head entry whose bytes are moved. -/
def State.chunkDone (s : State) (engine c q j : Nat) (moved : List (Nat × Bool)) (olds : List (Loc × PByte)) (x : Queue)
    (e : Entry) : State :=
  let s := ((s.unclaim engine c q j moved).modEntry c q fun e => { e with parts := eraseKey j e.parts }).modEntry c q fun e =>
    { e with prog := insertNat j e.prog, olds }
  let e' := ((s.queue c true q).entry).getD e
  let s := s.poke x.die c (x.slotVa e.seq + 0x60) 32 (e'.prog.foldl (fun n k => n + 2 ^ k) 0)
  let done := e'.left.isEmpty && e'.claims.isEmpty
  let s := if x.stopping || x.st != .running || (s.ctx c).st == .draining || e'.resume then s
    else if done then s.completeEntry c q e'
    else if x.engine == some engine then
      match e'.unclaimed with
      | k :: _ => s.claim engine c q k
      | [] => s
    else s
  s.chunkSettles c q

/-- What an engine's event comes to, once its chunk of the head entry is reached. -/
theorem execChunkComplete_reached {s t u : State} {engine c q j : Nat} {e : Entry}
    {places : List (List (Loc × Nat) × List (Loc × Nat) × Nat)} (hwork : (s.engines.getD engine .idle).work = some (c, q, j))
    (hentry : (s.queue c true q).entry = some e) (hmine : e.claims.contains (j, engine) = true)
    (hring : s.ringReady c true q (some e.seq) = .yes t)
    (hreach : t.reachRuns (engine / 64) c (pfield e.image 0 4 % 16 = 3) (e.runs j) = .ok (places, u)) :
    let x := s.queue c true q
    let fill := pfield e.image 0 4 % 16 = 3
    let pat := pfield e.image 0x10 8
    let dst := pfield e.image 0x08 8
    let moved := (s.engines.getD engine .idle).moved
    let mix := !fill && (e.runs j).any fun r => decide (r.2.1 < dst + e.span ∧ dst < r.2.1 + r.2.2)
    let read := u.chunkRead fill pat places
    let t := read.2.hasRead (.engine engine)
    exec (.chunkComplete engine) s = .next (
      if (places.zip read.1).any fun (p, bs) => anyPoison bs && p.1.any (·.1.sp == .host) then
        (((t.unclaim engine c q j moved).queueEvent c x.die .poison (x.slotVa e.seq)).failEntry c q e 5).chunkSettles c q
      else match t.moveChunk engine mix (if fill then some pat else none) e.olds places read.1 with
        | (false, olds, s) => (s.modEntry c q fun e => if e.claims.contains (j, engine) then { e with olds } else e).poll
        | (true, olds, s) => (s.chunkDone engine c q j moved olds x e).poll) := by
  intro x fill pat dst moved mix read z
  have hsel : ((s.queue c true q).entry.filter fun e => e.claims.contains (j, engine)).orElse
      (fun _ => (s.queue c true q).left.find? fun e => e.claims.contains (j, engine)) = some e := by
    rw [hentry, Option.filter_some, if_pos hmine]
    rfl
  have hhead : (s.queue c true q).entry.any (fun e => e.claims.contains (j, engine)) = true := by rw [hentry]; exact hmine
  change execChunkComplete engine s = _
  rw [execChunkComplete, hwork]
  refine congrArg Host.Outcome.next ?_
  change (match ((s.queue c true q).entry.filter fun e => e.claims.contains (j, engine)).orElse
      (fun _ => (s.queue c true q).left.find? fun e => e.claims.contains (j, engine)) with
    | none => _
    | some e => _) = _
  rw [hsel, hhead]
  change (match s.ringReady c true q (some e.seq) with
    | .wait s => s
    | .no s => _
    | .yes s => _) = _
  rw [hring]
  change (match t.reachRuns (engine / 64) c (decide (pfield e.image 0 4 % 16 = 3)) (e.runs j) with
    | .error (s, none) => _
    | .error (s, some f) => _
    | .ok (places, s) => _) = _
  rw [hreach]
  change (if (places.zip read.1).any (fun (p, bs) => anyPoison bs && p.1.any (·.1.sp == .host)) then
        (if true then ((z.unclaim engine c q j moved).queueEvent c x.die .poison (x.slotVa e.seq)).failEntry c q e 5
          else z.unclaim engine c q j moved).chunkSettles c q
      else match z.moveChunk engine mix (if fill then some pat else none) e.olds places read.1 with
        | (false, olds, s) => (s.modEntry c q fun e => if e.claims.contains (j, engine) then { e with olds } else e).poll
        | (true, olds, s) => _) = _
  refine ite_congr rfl (fun _ => congrArg (State.chunkSettles · c q) (if_pos rfl)) fun _ => ?_
  obtain ⟨done, olds, v⟩ := z.moveChunk engine mix (if fill then some pat else none) e.olds places read.1
  cases done with
  | false => rfl
  | true => exact if_neg (by decide)

/-- A chunk of the head entry of a running queue goes on to what is left of the entry. -/
theorem State.chunkDone_running {s : State} {engine c q j : Nat} {moved : List (Nat × Bool)} {olds : List (Loc × PByte)}
    {x : Queue} {e : Entry} (hstop : x.stopping = false) (hrun : x.st = .running) :
    let v := (s.unclaim engine c q j moved).modEntry c q fun e =>
      { e with parts := eraseKey j e.parts, prog := insertNat j e.prog, olds }
    let e' := ((v.queue c true q).entry).getD e
    let v := v.poke x.die c (x.slotVa e.seq + 0x60) 32 (e'.prog.foldl (fun n k => n + 2 ^ k) 0)
    (v.ctx c).st ≠ .draining → e'.resume = false →
    s.chunkDone engine c q j moved olds x e = (if e'.left.isEmpty && e'.claims.isEmpty then v.completeEntry c q e'
      else if x.engine == some engine then
        match e'.unclaimed with
        | k :: _ => v.claim engine c q k
        | [] => v
      else v).chunkSettles c q := by
  intro v e' v2 hlive hresume
  unfold State.chunkDone
  dsimp only
  rw [State.modEntry_modEntry]
  refine congrArg (State.chunkSettles · c q) (if_neg ?_)
  rw [hstop, hrun, show e'.resume = false from hresume]
  simpa using hlive

/-- A bind where PRIO cannot be read yet. -/
theorem execEngineBind_waits {s t : State} {engine : Nat} (h : s.tableRead (List.range 64) = (false, t)) :
    exec (.engineBind engine) s = .next t := by
  change Host.Outcome.next (s.deciding _) = _
  rw [State.deciding, h]

theorem State.bound_of_not_free {s : State} {engine : Nat} (h : s.engineFree engine = false) : s.bound engine = s :=
  if_pos (by rw [h]; rfl)

theorem State.bound_of_none {s : State} {engine : Nat}
    (h : (s.claimable (engine / 64)).filter (fun e => e.2.2.1.engine.isNone) = []) : s.bound engine = s := by
  unfold State.bound
  dsimp only
  rw [h]
  exact ite_self s

theorem State.bound_of_free {s : State} {engine c q : Nat} {y : Queue} {e : Entry} (h : s.engineFree engine = true) :
    let can := (s.claimable (engine / 64)).filter fun e => e.2.2.1.engine.isNone
    let top := can.filter fun e => can.all fun f => decide (s.prio f.1 ≤ s.prio e.1)
    let last := s.sched.lastQueue.getD (engine / 64) (0, 0)
    ((top.filter fun e => last.1 < e.1 || (last.1 == e.1 && decide (last.2 < e.2.1))) ++ top).head? = some (c, q, y, e) →
    s.bound engine = ((s.modQueue c true q fun x => { x with engine := some engine }).modSched fun k =>
      { k with lastQueue := updAt (engine / 64) (fun _ => (c, q)) k.lastQueue }).claim engine c q (e.unclaimed.headD 0) := by
  intro can top last hfirst
  refine (if_neg (by rw [h]; decide)).trans ?_
  change (match ((top.filter fun e => last.1 < e.1 || (last.1 == e.1 && decide (last.2 < e.2.1))) ++ top).head? with
    | none => s
    | some (c, q, _, e) => _) = _
  rw [hfirst]

/-- Settles O35: an engine's bind, its steal and its chunk each by what it does once what it reads is reached. -/
theorem engineResults : Obligations.EngineResults := by
  unfold Obligations.EngineResults
  refine ⟨?_, ?_, ?_, ?_⟩
  · intro s engine die all can
    have hframe {t : State} (h : s.tableRead (List.range 64) = (true, t)) : t.claimable die = s.claimable die ∧
        t.engineFree engine = s.engineFree engine ∧ t.sched = s.sched := by
      obtain ⟨hctxs, hengines, hsched⟩ := State.tableRead_frame h
      exact ⟨State.claimable_congr hctxs die, State.engineFree_congr hctxs hengines engine, hsched⟩
    refine ⟨fun t h => execEngineBind_waits h, fun hfree => ⟨execEngineSteal_not (.inl hfree), fun t h => ?_⟩,
      fun hfree t c q y e h => ?_, fun hfree c q y e before after hno hall hb ha => execEngineSteal_first hfree hno hall hb ha,
      fun hno t h => ?_, fun h => execEngineSteal_not (.inr h)⟩
    · rw [execEngineBind_read h, State.bound_of_not_free ((hframe h).2.1.trans hfree)]
    · intro top last hfirst
      obtain ⟨hsame, hfree', hsched⟩ := hframe h
      rw [execEngineBind_read h, State.bound_of_free (hfree'.trans hfree) (c := c) (q := q) (y := y) (e := e)]
      rw [hsched, hsame]
      exact hfirst
    · rw [execEngineBind_read h, State.bound_of_none (hno ▸ congrArg _ (hframe h).1)]
  · intro s t u engine c q j e places x fill pat dst hwork hentry hmine hring hreach mix read done moved drop unclaim hostBad r rests
    have hdrop : drop = Entry.unclaim engine j moved := by
      funext e
      unfold Entry.unclaim
      simp only [List.isEmpty_iff]
      rfl
    have hunclaim (s : State) : unclaim s = s.unclaim engine c q j moved := by
      change (let s : State := _; (s.modEntry c q drop).modQueue c true q fun x => { x with
        left := (x.left.map drop).filter (!·.claims.isEmpty) }) = _
      rw [hdrop]
      rfl
    have hrun := execChunkComplete_reached hwork hentry hmine hring hreach
    refine ⟨fun hbad => ?_, fun hgood hstop hst => ?_⟩
    · intro z hrests
      refine hrun.trans (congrArg Host.Outcome.next ((if_pos hbad).trans ?_))
      change State.chunkSettles ((State.queueEvent _ c x.die .poison (x.slotVa e.seq)).failEntry c q e 5) c q = z
      rw [show State.failEntry _ c q e 5 = z by
        change ((State.queueEvent ((State.unclaim _ engine c q j moved)) _ _ _ _).setStatus _ _ _ _).faultQueue _ _ _ = ((State.queueEvent (unclaim done) _ _ _ _).setStatus _ _ _ _).faultQueue _ _ _
        rw [hunclaim]
        rfl]
      exact State.chunkSettles_rests hrests.1 hrests.2
    · have hgo : exec (.chunkComplete engine) s = .next (match r with
          | (false, olds, s) => (s.modEntry c q fun e => if e.claims.contains (j, engine) then { e with olds } else e).poll
          | (true, olds, s) => (s.chunkDone engine c q j moved olds x e).poll) :=
        hrun.trans (congrArg Host.Outcome.next (if_neg (Bool.eq_false_iff.1 hgood)))
      rw [hgo]
      obtain ⟨all, olds, v⟩ := r
      cases all with
      | false => exact ⟨_, rfl, fun _ => rfl, (nomatch ·)⟩
      | true =>
        refine ⟨_, rfl, (nomatch ·), fun _ => ?_⟩
        intro v1 e' v2 last hlive hresume
        have hdone := State.chunkDone_running (s := v) (engine := engine) (c := c) (q := q) (j := j) (moved := moved)
          (olds := olds) (e := e) hstop hst
        rw [← hunclaim] at hdone
        have hdone := hdone hlive hresume
        refine ⟨fun hlast hrests => ?_, fun hlast hmine k rest hk hrests => ?_, fun hlast hnone hrests => ?_⟩
        · exact hdone.trans ((congrArg (State.chunkSettles · c q) (if_pos hlast)).trans
            (State.chunkSettles_rests hrests.1 hrests.2))
        · refine hdone.trans ((congrArg (State.chunkSettles · c q) ((if_neg (Bool.eq_false_iff.1 hlast)).trans
            ((if_pos (beq_iff_eq.2 hmine)).trans ?_))).trans (State.chunkSettles_rests hrests.1 hrests.2))
          change (match e'.unclaimed with
            | k :: _ => v2.claim engine c q k
            | [] => v2) = _
          rw [hk]
        · refine hdone.trans ((congrArg (State.chunkSettles · c q) ((if_neg (Bool.eq_false_iff.1 hlast)).trans
            ?_)).trans (State.chunkSettles_rests hrests.1 hrests.2))
          change (if (x.engine == some engine) = true then
            match e'.unclaimed with
            | k :: _ => v2.claim engine c q k
            | [] => v2
            else v2) = v2
          obtain hother | hk := hnone
          · exact if_neg fun h => hother (beq_iff_eq.1 h)
          · rw [hk]
            exact ite_self v2
  · intro s engine fill olds places whole hmoved
    cases hpart : s.draw.1.getLsbD 0 with
    | true => exact .inl rfl
    | false =>
      refine .inr ((if_pos ?_).trans rfl)
      rw [hmoved]
      exact congrArg (!·) hpart
  · intro s engine hwork
    change execChunkComplete engine s = _
    rw [execChunkComplete, hwork]

end Sys2Proof.Machine
end


section
/-! CLAIM. Requests, replies and notices of the link, its timeouts, ports and injectors (R380 to R398). -/

namespace Sys2Proof.Machine

/-! What crosses a port. -/

theorem State.passFlit_slots (s : State) (f : Flit) : (s.passFlit f).link.slots = s.link.slots := by
  cases f <;> rfl

theorem State.triggerFlit_slots (s : State) (lane : Nat) : (s.triggerFlit lane).link.slots = s.link.slots := by
  unfold State.triggerFlit
  split
  · rfl
  · split
    · rfl
    · dsimp only
      split
      · exact State.passFlit_slots _ _
      · rfl

theorem State.crosses_slots (s : State) (port : Nat) (sent : Bool) (kind rank : Nat) (f : Flit) :
    (s.crosses port sent kind rank f).2.link.slots = s.link.slots := by
  unfold State.crosses
  refine List.foldlRecOn (motive := fun r : Bool × State => r.2.link.slots = s.link.slots) _ _ rfl fun r hr lane _ => ?_
  split
  · exact hr
  · split
    · exact hr
    · have htrig := (State.triggerFlit_slots r.2 lane).trans hr
      dsimp only
      split
      · exact htrig
      · split
        · exact htrig
        · split <;> exact htrig

theorem State.comesIn_slots (s : State) (kind rank : Nat) : (s.comesIn kind rank).2.link.slots = s.link.slots := by
  unfold State.comesIn
  split
  · rfl
  · exact State.crosses_slots _ _ _ _ _ _

theorem State.ownRank_congr {s t : State} (h : t.link.slots = s.link.slots) : t.ownRank = s.ownRank := by
  unfold State.ownRank State.linkConfig State.linkSlot
  rw [h]

/-! The owner. -/

/-- The kind of packet that a request of another rank is. -/
def packetKind (k : ReqKind) : Nat := if k = .retirement ∨ k = .slotRelease then 3 else 0

theorem State.arrive_foreign {s : State} {r : RemoteReq} (hrank : r.key.rank ≠ s.ownRank) :
    let came := s.comesIn (packetKind r.kind) r.key.rank
    s.arrive r = if came.1 then (if r.mask = 0#64 then came.2.arriveKey r else r.collLanes.foldl State.arriveKey came.2) else came.2 := by
  intro came
  have hcame (n : Nat) (hn : n = packetKind r.kind) : (if !(s.comesIn n r.key.rank).1 then (s.comesIn n r.key.rank).2
      else if r.mask = 0#64 then (s.comesIn n r.key.rank).2.arriveKey r
      else r.collLanes.foldl State.arriveKey (s.comesIn n r.key.rank).2) =
      if came.1 then (if r.mask = 0#64 then came.2.arriveKey r else r.collLanes.foldl State.arriveKey came.2) else came.2 := by
    subst hn
    change (if !came.1 then came.2 else _) = _
    cases came.1 <;> rfl
  unfold State.arrive
  dsimp only
  rw [beq_eq_false_iff_ne.2 hrank, Bool.false_and, if_neg Bool.false_ne_true]
  exact hcame _ (by cases r.kind <;> rfl)

/-- What a request no longer waits for. -/
def State.back (s : State) (r : RemoteReq) : State := s.modLink fun l => { l with
  turned := l.turned.filter (· != r), standing := l.standing.filter (· != r) }

theorem State.arriveKey_again {s : State} {r : RemoteReq} (h : s.link.parked.any (·.1 == r) = true ∨ s.passed r = true) :
    s.arriveKey r = s := by
  refine if_pos ?_
  obtain h | h := h <;> rw [h]
  · rfl
  · exact Bool.or_true _

theorem State.arriveKey_served {s : State} {r : RemoteReq} (hrank : r.key.rank ≠ s.ownRank)
    (hparked : s.link.parked.any (·.1 == r) = false) (hpassed : s.passed r = false) (hheld : s.heldUp r = false) :
    s.arriveKey r = match s.serve r with
      | .reply .busy t => ((t.back r).turnAway r).poll
      | .reply a t => (((t.back r).say r.key a).hasRead (.col r.key)).takeSlots.poll
      | .silent t => ((t.back r).hasRead (.col r.key)).poll
      | .wait t => t.stand r
      | .park c a t => (t.back r).park r fun t => t.notice c 0x30 a 0 := by
  unfold State.arriveKey
  dsimp only
  rw [beq_eq_false_iff_ne.2 hrank, hparked, hpassed, hheld]
  rfl

theorem execRemoteRequest_ready {s : State} {r : RemoteReq} (h : s.dev.st = .ready) :
    exec (.remoteRequest r) s = .next (s.arrive r) :=
  congrArg Host.Outcome.next (if_pos h)

/-! Notices. -/

theorem execRetirementNotice_foreign {s : State} {rank incarn ctx tag lo hi : Nat} (h : rank ≠ s.ownRank ∨ incarn ≠ s.incarn) :
    let came := s.comesIn 3 rank
    exec (.retirementNotice rank incarn ctx tag lo hi) s = .next (if came.1 then (came.2.dropStream rank incarn ctx tag lo hi).say
      ⟨rank, incarn, BitVec.ofNat 64 (ctx * 2 ^ 58 + tag * 2 ^ 46 + lo * 2 ^ 24), s.ownRank⟩ (.ack [] false) else came.2) := by
  intro came
  have hmine : (rank == s.ownRank && incarn == s.incarn) = false := by
    rw [Bool.and_eq_false_iff, beq_eq_false_iff_ne, beq_eq_false_iff_ne]
    exact h
  have hslots : (came.2.dropStream rank incarn ctx tag lo hi).ownRank = s.ownRank :=
    State.ownRank_congr (State.comesIn_slots s 3 rank)
  change execRetirementNotice rank incarn ctx tag lo hi s = _
  unfold execRetirementNotice
  dsimp only
  rw [hmine]
  change Host.Outcome.next (match came with
    | (false, s) => s
    | (true, s) => (s.dropStream rank incarn ctx tag lo hi).say ⟨rank, incarn, BitVec.ofNat 64 (ctx * 2 ^ 58 + tag * 2 ^ 46 + lo * 2 ^ 24),
      (s.dropStream rank incarn ctx tag lo hi).ownRank⟩ (.ack [] false)) = _
  rw [← hslots]
  rcases came with ⟨_ | _, t⟩ <;> rfl

/-- Whether a retirement notice of the device's own streams may go out (R387). -/
def Launch.mayRetire (l : Launch) (lo hi : Nat) : Bool :=
  l.final || (List.range l.gangs.length).all fun g =>
    decide (hi < g * l.gang * l.waves) || decide (g * l.gang * l.waves + l.gang * l.waves ≤ lo) || (l.gangAt g).st == .done

theorem execRetirementNotice_own {s : State} {ctx tag lo hi : Nat} :
    exec (.retirementNotice s.ownRank s.incarn ctx tag lo hi) s = .next (match s.launch? ctx tag with
      | none => s.dropStream s.ownRank s.incarn ctx tag lo hi
      | some l => if l.mayRetire lo hi then ((List.range l.gangs.length).foldl (fun t g =>
          if lo ≤ g * l.gang * l.waves && g * l.gang * l.waves + l.gang * l.waves ≤ hi + 1 then
            t.gangAck (BitVec.ofNat 64 (ctx * 2 ^ 58 + tag * 2 ^ 46 + g * l.gang * l.waves * 2 ^ 24)) s.ownRank
          else t) (s.dropStream s.ownRank s.incarn ctx tag lo hi)).poll else s) := by
  change execRetirementNotice s.ownRank s.incarn ctx tag lo hi s = _
  unfold execRetirementNotice
  dsimp only
  rw [BEq.rfl, BEq.rfl]
  refine congrArg Host.Outcome.next ?_
  cases hl : s.launch? ctx tag with
  | none =>
    have hl' : (s.dropStream s.ownRank s.incarn ctx tag lo hi).launch? ctx tag = none := hl
    change (match (s.dropStream s.ownRank s.incarn ctx tag lo hi).launch? ctx tag with
      | none => s.dropStream s.ownRank s.incarn ctx tag lo hi
      | some l => _) = _
    rw [hl']
  | some l =>
    have hl' : (s.dropStream s.ownRank s.incarn ctx tag lo hi).launch? ctx tag = some l := hl
    change (match (l.mayRetire lo hi, s) with
      | (false, s) => s
      | (true, t) => _) = (if l.mayRetire lo hi then _ else s)
    cases l.mayRetire lo hi with
    | false => rfl
    | true =>
      change (match (s.dropStream s.ownRank s.incarn ctx tag lo hi).launch? ctx tag with
        | none => s.dropStream s.ownRank s.incarn ctx tag lo hi
        | some l => _) = _
      rw [hl']
      simp only [Bool.and_self, if_true]

theorem execRetirementAck_none {s : State} {ctx tag : Nat} (h : s.launch? ctx tag = none) :
    exec (.retirementAck ctx tag) s = .next s := by
  change execRetirementAck ctx tag s = _
  rw [execRetirementAck, h]

theorem execRetirementAck_some {s : State} {ctx tag : Nat} {l : Launch} (h : s.launch? ctx tag = some l) :
    exec (.retirementAck ctx tag) s = .next (if l.gangs.all (·.acks.isEmpty) then s else
      (((l.gangs.zipIdx.foldl (fun t g => if g.1.acks.contains t.ownRank then
        t.dropStream t.ownRank t.incarn ctx tag (g.2 * l.gang * l.waves) ((g.2 + 1) * l.gang * l.waves - 1) else t) s).modLink
          fun k => { k with out := k.out.filter fun o =>
            !(o.req.kind == .retirement && o.req.tctx == ctx && o.req.vec == tag) }).modLaunch ctx tag
              fun l => { l with gangs := l.gangs.map fun g =>
                if g.acks.isEmpty then g else { g with acks := [], retired := true } }).poll) := by
  change execRetirementAck ctx tag s = _
  rw [execRetirementAck, h]

/-- Whether a slot release can have reached the device: its own, or over a port. -/
def State.slotCarried (s : State) : Bool :=
  (s.link.out.any fun o => o.req.kind == .slotRelease && o.req.target == s.ownRank) || (List.range 24).any s.portUsable

theorem execSlotReleaseNotice_not {s : State} {desc rel : DWord}
    (h : desc.toNat / 2 ^ 62 ≠ 1 ∨ bitsOf desc.toNat 61 45 ≠ s.ownRank ∨ s.slotCarried = false) :
    exec (.slotReleaseNotice desc rel) s = .next s := by
  refine congrArg Host.Outcome.next (if_pos ?_)
  change (decide _ || decide _ || !s.slotCarried) = true
  simpa [or_assoc] using h

theorem execSlotReleaseNotice_raises {s t : State} {desc rel : DWord} {c va n : Nat} {l : Loc} {rest : List (Loc × Nat)}
    (hcarried : s.slotCarried = true) (hglobal : desc.toNat / 2 ^ 62 = 1) (hown : bitsOf desc.toNat 61 45 = s.ownRank)
    (htarget : s.target (s.regionDie (bitsOf desc.toNat 44 40) (desc.toNat % 2 ^ 40))
      (if pfield (s.linkSlot (0x10000 + bitsOf desc.toNat 44 40)) 24 4 = 0 then 0
        else pfield (s.linkSlot (0x10000 + bitsOf desc.toNat 44 40)) 20 4)
      (bitsOf desc.toNat 44 40) (desc.toNat % 2 ^ 40) 64 3 .both = .ok c va ((l, n) :: rest) t) :
    exec (.slotReleaseNotice desc rel) s = .next ((((t.meetErrors l 64).setNatAt (l.plus 24) 8
      (max ((t.meetErrors l 64).natAt (l.plus 24) 8) rel.toNat)).afterWrite l).takeSlots.poll) := by
  refine congrArg Host.Outcome.next ((if_neg ?_).trans ?_)
  · change ¬(decide _ || decide _ || !s.slotCarried) = true
    rw [hcarried, hglobal, hown]
    simp
  · change (match State.target _ _ _ _ _ _ _ _ with
      | .ok _ _ ls s => _
      | .no (.wait s) => s
      | .no _ => s) = _
    rw [htarget]
    rfl

/-- The owner's part of O38. -/
theorem ownerEvents (s : State) :
    (∀ r : RemoteReq, s.dev.st ≠ .ready → exec (.remoteRequest r) s = .next s) ∧
    (∀ r : RemoteReq, s.dev.st = .ready → r.key.rank ≠ s.ownRank →
       let came := s.comesIn (if r.kind = .retirement ∨ r.kind = .slotRelease then 3 else 0) r.key.rank
       let u := came.2
       let back (t : State) : State := t.modLink fun l => { l with
         turned := l.turned.filter (· != r), standing := l.standing.filter (· != r) }
       (came.1 = false → exec (.remoteRequest r) s = .next u) ∧
       (came.1 = true → r.mask ≠ 0#64 → exec (.remoteRequest r) s = .next (r.collLanes.foldl State.arriveKey u)) ∧
       (came.1 = true → r.mask = 0#64 → (u.link.parked.any (·.1 == r) = true ∨ u.passed r = true) →
         exec (.remoteRequest r) s = .next u) ∧
       (came.1 = true → r.mask = 0#64 → u.link.parked.any (·.1 == r) = false → u.passed r = false → u.heldUp r = false →
         (∀ a t, a ≠ .busy → u.serve r = .reply a t → exec (.remoteRequest r) s =
           .next ((((back t).say r.key a).hasRead (.col r.key)).takeSlots).poll) ∧
         (∀ t, u.serve r = .reply .busy t → exec (.remoteRequest r) s = .next ((back t).turnAway r).poll) ∧
         (∀ t, u.serve r = .silent t → exec (.remoteRequest r) s = .next ((back t).hasRead (.col r.key)).poll) ∧
         (∀ t, u.serve r = .wait t → exec (.remoteRequest r) s = .next (t.stand r)) ∧
         (∀ c a t, u.serve r = .park c a t → exec (.remoteRequest r) s =
           .next ((back t).park r fun t => t.notice c 0x30 a 0)))) := by
  refine ⟨fun r h => congrArg Host.Outcome.next (if_neg h), fun r hready hrank => ?_⟩
  intro came u back
  have harr : exec (.remoteRequest r) s = .next (if came.1 then
      (if r.mask = 0#64 then u.arriveKey r else r.collLanes.foldl State.arriveKey u) else u) :=
    (execRemoteRequest_ready hready).trans (congrArg Host.Outcome.next (State.arrive_foreign hrank))
  refine ⟨fun hno => ?_, fun hyes hmask => ?_, fun hyes hmask hagain => ?_, fun hyes hmask hparked hpassed hheld => ?_⟩
  · rw [harr, if_neg (Bool.eq_false_iff.1 hno)]
  · rw [harr, if_pos hyes, if_neg hmask]
  · rw [harr, if_pos hyes, if_pos hmask, State.arriveKey_again hagain]
  · have hu : u.ownRank = s.ownRank := State.ownRank_congr (State.comesIn_slots _ _ _)
    have hserved := State.arriveKey_served (hu ▸ hrank) hparked hpassed hheld
    rw [harr, if_pos hyes, if_pos hmask, hserved]
    refine ⟨fun a t ha h => ?_, fun t h => ?_, fun t h => ?_, fun t h => ?_, fun c a t h => ?_⟩
    · rw [h]
      cases a with
      | busy => exact absurd rfl ha
      | _ => rfl
    all_goals simp only [h] <;> rfl

/-- The Col of a requester or an owner takes notices of streams that are over (R387). -/
theorem retirementEvents (s : State) :
    (∀ rank incarn ctx tag lo hi,
       let stays (e : CacheEntry) : Bool :=
         let v := e.key.serial.toNat
         !(e.key.rank == rank && e.key.incarn == incarn && bitsOf v 63 58 == ctx && bitsOf v 57 46 == tag &&
           decide (lo ≤ bitsOf v 45 24 ∧ bitsOf v 45 24 ≤ hi))
       let gone (s : State) : State := s.modLink fun l => { l with cache := l.cache.filter stays }
       let t := gone s
       ((rank ≠ s.ownRank ∨ incarn ≠ s.incarn) →
         let came := s.comesIn 3 rank
         (came.1 = false → exec (.retirementNotice rank incarn ctx tag lo hi) s = .next came.2) ∧
         (came.1 = true → exec (.retirementNotice rank incarn ctx tag lo hi) s = .next ((gone came.2).say
           ⟨rank, incarn, BitVec.ofNat 64 (ctx * 2 ^ 58 + tag * 2 ^ 46 + lo * 2 ^ 24), s.ownRank⟩ (.ack [] false)))) ∧
       (rank = s.ownRank → incarn = s.incarn → s.launch? ctx tag = none →
         exec (.retirementNotice rank incarn ctx tag lo hi) s = .next t) ∧
       (rank = s.ownRank → incarn = s.incarn → ∀ l, s.launch? ctx tag = some l →
         let first (g : Nat) : Nat := g * l.gang * l.waves
         let may := l.final || (List.range l.gangs.length).all fun g =>
           decide (hi < first g) || decide (first g + l.gang * l.waves ≤ lo) || (l.gangAt g).st == .done
         (may = false → exec (.retirementNotice rank incarn ctx tag lo hi) s = .next s) ∧
         (may = true → exec (.retirementNotice rank incarn ctx tag lo hi) s = .next
           ((List.range l.gangs.length).foldl (fun t g =>
             if lo ≤ first g && first g + l.gang * l.waves ≤ hi + 1 then
               t.gangAck (BitVec.ofNat 64 (ctx * 2 ^ 58 + tag * 2 ^ 46 + first g * 2 ^ 24)) rank
             else t) t).poll))) ∧
    (∀ ctx tag,
       (s.launch? ctx tag = none → exec (.retirementAck ctx tag) s = .next s) ∧
       (∀ l, s.launch? ctx tag = some l → (∀ g ∈ l.gangs, g.acks = []) → exec (.retirementAck ctx tag) s = .next s) ∧
       (∀ l, s.launch? ctx tag = some l → (∃ g ∈ l.gangs, g.acks ≠ []) →
         let stays (o : Outstanding) : Bool := !(o.req.kind == .retirement && o.req.tctx == ctx && o.req.vec == tag)
         let t := l.gangs.zipIdx.foldl (fun t g => if g.1.acks.contains t.ownRank then
           t.dropStream t.ownRank t.incarn ctx tag (g.2 * l.gang * l.waves) ((g.2 + 1) * l.gang * l.waves - 1) else t) s
         exec (.retirementAck ctx tag) s = .next ((t.modLink fun k => { k with out := k.out.filter stays }).modLaunch ctx tag
           fun l => { l with gangs := l.gangs.map fun g =>
             if g.acks.isEmpty then g else { g with acks := [], retired := true } }).poll)) := by
  refine ⟨fun rank incarn ctx tag lo hi => ?_, fun ctx tag => ⟨execRetirementAck_none, fun l hl hnone => ?_, fun l hl hsome => ?_⟩⟩
  · intro stays gone t
    refine ⟨fun hother => ?_, ?_, ?_⟩
    · intro came
      have hrun := execRetirementNotice_foreign (ctx := ctx) (tag := tag) (lo := lo) (hi := hi) hother
      exact ⟨fun hno => hrun.trans (congrArg Host.Outcome.next (if_neg (Bool.eq_false_iff.1 hno))),
        fun hyes => hrun.trans (congrArg Host.Outcome.next (if_pos hyes))⟩
    · rintro rfl rfl hl
      rw [execRetirementNotice_own, hl]
      rfl
    · rintro rfl rfl l hl
      intro first may
      have hrun := execRetirementNotice_own (s := s) (ctx := ctx) (tag := tag) (lo := lo) (hi := hi)
      rw [hl] at hrun
      exact ⟨fun hno => hrun.trans (congrArg Host.Outcome.next (if_neg (Bool.eq_false_iff.1 hno))),
        fun hyes => hrun.trans (congrArg Host.Outcome.next (if_pos hyes))⟩
  · rw [execRetirementAck_some hl, if_pos (List.all_eq_true.2 fun g hg => List.isEmpty_iff.2 (hnone g hg))]
  · rw [execRetirementAck_some hl, if_neg fun hall => ?_]
    obtain ⟨g, hg, hne⟩ := hsome
    exact hne (List.isEmpty_iff.1 (List.all_eq_true.1 hall g hg))

end Sys2Proof.Machine
end


section
/-! CLAIM. Replies, timeouts, ports and injectors of the link (R380 to R398). -/

namespace Sys2Proof.Machine

theorem slotReleaseEvents (s : State) :
    let near := s.link.out.any fun o => o.req.kind == .slotRelease && o.req.target == s.ownRank
    let carried := near = true ∨ (List.range 24).any s.portUsable = true
    (∀ desc rel : DWord, (desc.toNat / 2 ^ 62 ≠ 1 ∨ bitsOf desc.toNat 61 45 ≠ s.ownRank ∨ ¬carried) →
       exec (.slotReleaseNotice desc rel) s = .next s) ∧
    (∀ (desc rel : DWord) (c va : Nat) (l : Loc) (n : Nat) (rest : List (Loc × Nat)) (t : State), carried →
       desc.toNat / 2 ^ 62 = 1 → bitsOf desc.toNat 61 45 = s.ownRank →
       let region := bitsOf desc.toNat 44 40
       let d := s.linkSlot (0x10000 + region)
       s.target (s.regionDie region (desc.toNat % 2 ^ 40)) (if pfield d 24 4 = 0 then 0 else pfield d 20 4) region
         (desc.toNat % 2 ^ 40) 64 3 .both = .ok c va ((l, n) :: rest) t →
       let t := t.meetErrors l 64
       exec (.slotReleaseNotice desc rel) s = .next ((t.setNatAt (l.plus 24) 8
         (max (t.natAt (l.plus 24) 8) rel.toNat)).afterWrite l).takeSlots.poll) := by
  intro near carried
  have hcarried : s.slotCarried = true ↔ carried := by
    rw [State.slotCarried, Bool.or_eq_true]
  refine ⟨fun desc rel h => execSlotReleaseNotice_not (h.imp_right fun h => h.imp_right fun h => ?_),
    fun desc rel c va l n rest t h => execSlotReleaseNotice_raises (hcarried.2 h)⟩
  exact Bool.eq_false_iff.2 fun hc => h (hcarried.1 hc)

/-! Replies. -/

/-- A reply of the key is a NACK, or an answer (R380). -/
def replyKind : Reply → Nat
  | .nack _ => 2
  | _ => 1

/-- What a reply does to its key (R383, R386). -/
def State.takesReply (s : State) (key : Key) (o : Outstanding) : Reply → State
  | .ack v p => (s.finalReply o v p false).poll
  | .duplicate v p => (s.finalReply o v p true).poll
  | .nack l => s.transmit key l.contains fun p => { p with sentAt := s.clk }
  | .parked => s.modLink fun l => { l with out := l.out.map fun p => if p.req.key == key then { p with parked := true } else p }
  | .busy => s.modLink fun l => { l with out := l.out.map fun p => if p.req.key == key then { p with busyAt := some s.clk } else p }
  | .stale => (s.failOut o .remoteIndeterminate key.serial).poll
  | .denied e => (s.failOut o .remoteDenied (BitVec.ofNat 64 e)).poll

theorem execRemoteReply_unknown {s : State} {key : Key} {r : Reply} (h : s.link.out.find? (·.req.key == key) = none) :
    exec (.remoteReply key r) s = .next s := by
  change Host.Outcome.next (match s.link.out.find? (·.req.key == key) with
    | none => s
    | some o => _) = _
  rw [h]

/-- A reply that is not yet, or never, one of its key. -/
theorem execRemoteReply_waits {s : State} {key : Key} {r : Reply} {o : Outstanding}
    (ho : s.link.out.find? (·.req.key == key) = some o)
    (h : (s.mayLandAt o.wave o.uid).1 = false ∨ (o.req.target ≠ s.ownRank ∧ o.ways = [])) :
    exec (.remoteReply key r) s = .next (s.mayLandAt o.wave o.uid).2 := by
  change Host.Outcome.next (match s.link.out.find? (·.req.key == key) with
    | none => s
    | some o => _) = _
  rw [ho]
  refine congrArg Host.Outcome.next (if_pos ?_)
  change (_ || _ || !(s.mayLandAt o.wave o.uid).1) = true
  obtain h | ⟨hother, hways⟩ := h
  · rw [h]
    simp
  · rw [beq_eq_false_iff_ne.2 hother, hways]
    simp

theorem execRemoteReply_foreign {s : State} {key : Key} {r : Reply} {o : Outstanding}
    (ho : s.link.out.find? (·.req.key == key) = some o) (hmay : (s.mayLandAt o.wave o.uid).1 = true)
    (hother : o.req.target ≠ s.ownRank) (hways : o.ways ≠ []) :
    let came := (s.mayLandAt o.wave o.uid).2.comesIn (replyKind r) o.req.target
    exec (.remoteReply key r) s = .next (if came.1 then came.2.takesReply key o r else came.2) := by
  intro came
  change Host.Outcome.next (match s.link.out.find? (·.req.key == key) with
    | none => s
    | some o => _) = _
  rw [ho]
  refine congrArg Host.Outcome.next ((if_neg ?_).trans ?_)
  · change ¬(_ || _ || !(s.mayLandAt o.wave o.uid).1) = true
    rw [beq_eq_false_iff_ne.2 hother, hmay]
    simpa using hways
  · have hcame (n : Nat) (hn : n = replyKind r) : (match (s.mayLandAt o.wave o.uid).2.comesIn n o.req.target with
        | (false, s) => s
        | (true, s) => s.takesReply key o r) = if came.1 then came.2.takesReply key o r else came.2 := by
      subst hn
      change (match came with
        | (false, s) => s
        | (true, s) => s.takesReply key o r) = _
      obtain ⟨may, t⟩ := came
      cases may <;> rfl
    rw [beq_eq_false_iff_ne.2 hother, if_neg Bool.false_ne_true]
    cases r <;> exact hcame _ rfl

theorem execRemoteReply_own {s : State} {key : Key} {r : Reply} {o : Outstanding} {i : Nat}
    (ho : s.link.out.find? (·.req.key == key) = some o) (hmay : (s.mayLandAt o.wave o.uid).1 = true)
    (hown : o.req.target = s.ownRank) (hfirst : s.link.replies.findIdx? (·.1 == key) = some i)
    (hsent : s.link.replies[i]? = some (key, r)) :
    exec (.remoteReply key r) s = .next (((s.mayLandAt o.wave o.uid).2.modLink fun l =>
      { l with replies := l.replies.eraseIdx i }).takesReply key o r) := by
  change Host.Outcome.next (match s.link.out.find? (·.req.key == key) with
    | none => s
    | some o => _) = _
  rw [ho]
  refine congrArg Host.Outcome.next ((if_neg ?_).trans ?_)
  · change ¬(_ && (_ != some (key, r)) || _ || !(s.mayLandAt o.wave o.uid).1) = true
    rw [hown, hfirst, Option.bind_some, hsent, hmay]
    simp
  · rw [hown, hfirst, BEq.rfl]
    cases r <;> rfl

theorem replyEvents (s : State) (key : Key) (r : Reply) (o : Outstanding) (ho : s.link.out.find? (·.req.key == key) = some o) :
    let may := (s.mayLandAt o.wave o.uid).1
    let landed := (s.mayLandAt o.wave o.uid).2
    (may = false → exec (.remoteReply key r) s = .next landed) ∧
    (o.req.target ≠ s.ownRank → o.ways = [] → exec (.remoteReply key r) s = .next landed) ∧
    (may = true → o.req.target ≠ s.ownRank → o.ways ≠ [] →
      let came := landed.comesIn (replyKind r) o.req.target
      (came.1 = false → exec (.remoteReply key r) s = .next came.2) ∧
      (came.1 = true → exec (.remoteReply key r) s = .next (came.2.takesReply key o r))) ∧
    (may = true → o.req.target = s.ownRank → ∀ i, s.link.replies.findIdx? (·.1 == key) = some i →
      s.link.replies[i]? = some (key, r) → exec (.remoteReply key r) s =
        .next ((landed.modLink fun l => { l with replies := l.replies.eraseIdx i }).takesReply key o r)) := by
  intro may landed
  refine ⟨fun h => execRemoteReply_waits ho (.inl h), fun hother hways => execRemoteReply_waits ho (.inr ⟨hother, hways⟩),
    fun hmay hother hways => ?_, fun hmay hown i => execRemoteReply_own ho hmay hown⟩
  intro came
  have hrun := execRemoteReply_foreign (r := r) ho hmay hother hways
  exact ⟨fun hno => hrun.trans (congrArg Host.Outcome.next (if_neg (Bool.eq_false_iff.1 hno))),
    fun hyes => hrun.trans (congrArg Host.Outcome.next (if_pos hyes))⟩

/-! Timeouts. -/

theorem execRetransmitTimeout_waits {s : State} {key : Key} {o : Outstanding} (ho : s.link.out.find? (·.req.key == key) = some o)
    (h : o.parked = true ∨ o.busyAt ≠ none ∨ s.clk < o.sentAt + s.rto o.tries) : exec (.retransmitTimeout key) s = .next s := by
  change execRetransmitTimeout key s = _
  rw [execRetransmitTimeout, ho]
  refine congrArg Host.Outcome.next (if_pos ?_)
  rw [Bool.or_eq_true, Bool.or_eq_true, decide_eq_true_iff, Option.isSome_iff_ne_none, or_assoc]
  exact h

theorem execRetransmitTimeout_passed {s : State} {key : Key} {o : Outstanding} (ho : s.link.out.find? (·.req.key == key) = some o)
    (hparked : o.parked = false) (hbusy : o.busyAt = none) (hclk : o.sentAt + s.rto o.tries ≤ s.clk) :
    exec (.retransmitTimeout key) s = .next (
      if o.tries < s.attempts then s.transmit key (fun _ => true) fun p => { p with tries := p.tries + 1, sentAt := s.clk }
      else if o.req.kind = .retirement then
        (((s.dropOut key).gangAck key.serial o.req.target).report 0x08 o.die o.die 0 o.req.target false).poll
      else (s.failOut o .remoteIndeterminate key.serial).poll) := by
  change execRetransmitTimeout key s = _
  rw [execRetransmitTimeout, ho]
  refine congrArg Host.Outcome.next (if_neg ?_)
  rw [hparked, hbusy, decide_eq_false (Nat.not_lt.2 hclk)]
  decide

/-! Ports and injectors. -/

theorem PortState.fits_iff (st : PortState) (lanes : Nat) : PortState.fits st lanes = true ↔
    (st = .up ∧ lanes = 4) ∨ (st = .degraded ∧ 1 ≤ lanes ∧ lanes ≤ 3) ∨ (st = .down ∧ lanes = 0) ∨ (st = .training ∧ lanes ≤ 4) := by
  cases st <;> simp [PortState.fits]

theorem execPortStateChange_not {s : State} {port lanes : Nat} {st : PortState} (h : s.link.ports[port]? = none ∨
    ¬(s.dev.st = .ready ∧ s.dev.porten.testBit port = true ∧ PortState.fits st lanes = true)) :
    exec (.portStateChange port st lanes) s = .next s := by
  change execPortStateChange port st lanes s = _
  unfold execPortStateChange
  refine congrArg Host.Outcome.next ?_
  split
  · rfl
  · next hsome =>
    refine if_pos ?_
    have h := h.resolve_left (by rw [hsome]; exact Option.some_ne_none _)
    by_contra hc
    simp only [Bool.or_eq_true, not_or, bne_iff_ne, ne_eq, not_not, Bool.not_eq_true', Bool.not_eq_false] at hc
    exact h ⟨hc.1.1, hc.1.2, hc.2⟩

theorem execPortStateChange_may {s : State} {port lanes n : Nat} {st old : PortState}
    (hold : s.link.ports[port]? = some (old, n))
    (h : s.dev.st = .ready ∧ s.dev.porten.testBit port = true ∧ PortState.fits st lanes = true) :
    let t := s.modLink fun l => { l with ports := updAt port (fun _ => (st, lanes)) l.ports }
    let leaves := s.link.out.filter fun o => o.route.pod && o.ways.any (·.2.1 == port)
    let u := if t.portUsable port then t
      else leaves.foldl (fun u o => u.transmit o.req.key (fun _ => true) fun q => { q with sentAt := u.clk }) t
    exec (.portStateChange port st lanes) s = .next
      (if lanes ≠ n ∨ (old = .down ∧ st ≠ .down) ∨ (old ≠ .down ∧ st = .down)
        then u.report 0x07 (if port < 16 then port / 8 else (port - 16) / 4) (4 * port) 0
          ((Config.portCode st).toNat + 256 * lanes) false else u) := by
  intro t leaves u
  obtain ⟨hready, hen, hfits⟩ := h
  change execPortStateChange port st lanes s = _
  unfold execPortStateChange
  rw [hold]
  refine congrArg Host.Outcome.next ((if_neg ?_).trans (if_congr ?_ rfl rfl))
  · rw [hready, hen, hfits]
    decide
  · by_cases hlanes : lanes = n <;> by_cases hold : old = PortState.down <;> by_cases hst : st = PortState.down <;>
      simp [hlanes, hold, hst]

theorem execInjectorTrigger_eq {s : State} {lane : Nat} {j : Injector} (hj : s.link.injectors[lane]? = some j) :
    (j.hit = none → exec (.injectorTrigger lane) s = .next s) ∧
    (∀ f, j.hit = some f →
      let k : Injector := { j with hit := none, late := if j.mode = 3 then j.late ++ [f] else j.late }
      let k : Injector := if j.repeats then { k with count := j.n } else { k with mode := 0, count := 0 }
      exec (.injectorTrigger lane) s =
        .next (if j.mode ≠ 3 ∧ lane < 64 then (s.setInjector lane k).passFlit f else s.setInjector lane k)) := by
  change (_ → Host.Outcome.next (s.triggerFlit lane) = _) ∧ ∀ f, _ → Host.Outcome.next (s.triggerFlit lane) = _
  unfold State.triggerFlit
  rw [hj]
  refine ⟨fun h => ?_, fun f h => ?_⟩
  · simp only [h]
  · simp only [h]
    cases j.repeats <;> rfl

theorem execInjectorDelayEnd_eq {s : State} {lane : Nat} {j : Injector} (hj : s.link.injectors[lane]? = some j) :
    (j.late = [] → exec (.injectorDelayEnd lane) s = .next s) ∧
    (∀ f rest, j.late = f :: rest →
      exec (.injectorDelayEnd lane) s = .next ((s.setInjector lane { j with late := rest }).passFlit f)) := by
  change (_ → execInjectorDelayEnd lane s = _) ∧ ∀ f rest, _ → execInjectorDelayEnd lane s = _
  rw [execInjectorDelayEnd, hj]
  exact ⟨fun h => by simp only [h], fun f rest h => by simp only [h]⟩

/-- Settles O38: the owner's, the requester's and the ports' events, each by what it does. -/
theorem linkEventResults : Obligations.LinkEventResults := by
  unfold Obligations.LinkEventResults
  refine ⟨fun s => ?_, fun s => ?_⟩
  · obtain ⟨hnot, hready⟩ := ownerEvents s
    obtain ⟨hnotice, hack⟩ := retirementEvents s
    exact ⟨hnot, hready, hnotice, hack, slotReleaseEvents s⟩
  · refine ⟨fun key r => execRemoteReply_unknown, fun key r o ho => ?_, fun key o ho => ?_, fun key => ?_,
      fun port st lanes => ?_, fun lane j hj => ?_, fun key r no way => ⟨rfl, rfl, rfl⟩⟩
    · have hreply := replyEvents s key r o ho
      cases r <;> exact hreply
    · intro rto limit
      refine ⟨fun h => execRetransmitTimeout_waits ho h, fun hparked hbusy hclk => ?_⟩
      rw [execRetransmitTimeout_passed ho hparked hbusy hclk]
      refine ⟨fun h => ?_, fun h hkind => ?_, fun h hkind => ?_⟩
      · exact congrArg Host.Outcome.next (if_pos h)
      · exact congrArg Host.Outcome.next ((if_neg (Nat.not_lt.2 h)).trans (if_neg hkind))
      · exact congrArg Host.Outcome.next ((if_neg (Nat.not_lt.2 h)).trans (if_pos hkind))
    · intro due
      exact ⟨fun h => congrArg Host.Outcome.next (if_pos h), fun h => congrArg Host.Outcome.next (if_neg (Bool.eq_false_iff.1 h))⟩
    · intro may
      have hmay : may ↔ s.dev.st = .ready ∧ s.dev.porten.testBit port = true ∧ PortState.fits st lanes = true := by
        rw [PortState.fits_iff]
      exact ⟨fun h => execPortStateChange_not (h.imp_right fun h hc => h (hmay.2 hc)),
        fun old n hold h => execPortStateChange_may hold (hmay.1 h)⟩
    · intro set
      obtain ⟨hnone, hsome⟩ := execInjectorTrigger_eq hj
      obtain ⟨hempty, hlate⟩ := execInjectorDelayEnd_eq hj
      exact ⟨hnone, hsome, hempty, hlate⟩

end Sys2Proof.Machine
end

section
/-! SUPPORT. The canonical form of the memories as an invariant: every function of the model that takes a state and
gives one back, alone or within its answer, keeps `State.Canon`. Here the predicate, what it says of each kind of answer, and the
operations that write memory; the sections after this one hold a lemma per function, in the order of the model. -/

namespace Sys2Proof.Machine

/-- Every memory of the state in its canonical form: the invariant behind `State.memoriesWf`, a fact for each
of the three fields that hold memories. -/
structure State.Canon (s : State) : Prop where
  mem : s.mem.wf = true
  host : s.host.wf = true
  blocks : ∀ b ∈ s.blocks, b.scratch.wf = true

/-- A state that differs in none of the three fields is as canonical. -/
theorem State.Canon.frame {s t : State} (h : s.Canon) (hm : t.mem = s.mem) (hh : t.host = s.host)
    (hb : t.blocks = s.blocks) : t.Canon :=
  ⟨hm ▸ h.mem, hh ▸ h.host, hb ▸ h.blocks⟩

theorem foldl_preserves {α β : Type} {P : β → Prop} {f : β → α → β} {l : List α} {b : β} (h : P b)
    (hf : ∀ b x, P b → P (f b x)) : P (l.foldl f b) := by
  induction l generalizing b with
  | nil => exact h
  | cons x l ih => exact ih (hf b x h)

theorem State.Canon.foldl {α : Type} {s : State} {f : State → α → State} {l : List α} (h : s.Canon)
    (hf : ∀ s x, s.Canon → (f s x).Canon) : (l.foldl f s).Canon :=
  foldl_preserves h hf

/-! What the functions of the model answer carries a state: as a component of a pair, inside an option, or
as an argument of a result's constructor. For each kind of answer, the predicate that the state it carries is canonical. -/

/-- Of a pair, the first component. -/
def OnFst {α β : Type} (P : α → Prop) (p : α × β) : Prop := P p.1

/-- Of a pair, the second component. -/
def OnSnd {α β : Type} (P : β → Prop) (p : α × β) : Prop := P p.2

/-- Of an option, the value where there is one. -/
def OnSome {α : Type} (P : α → Prop) : Option α → Prop
  | some a => P a
  | none => True

/-- Nothing is asked of the value. -/
def Unconstrained {α : Type} (_ : α) : Prop := True

/-- Of either outcome, its value. -/
def OnExcept {α β : Type} (P : α → Prop) (Q : β → Prop) : Except α β → Prop
  | .error a => P a
  | .ok b => Q b

def Iss.Canon (x : Iss) : Prop := x.s.Canon

def Served.Canon : Served → Prop
  | .reply _ s | .silent s | .park _ _ s | .wait s => s.Canon

def Trans.Canon : Trans → Prop
  | .ok _ s | .fault _ s | .stall s => s.Canon

def DevAcc.Canon : DevAcc → Prop
  | .ok _ s | .fault _ s | .stall s => s.Canon

def Reached.Canon : Reached → Prop
  | .ok _ s | .fault _ s | .stall s => s.Canon

def Usable.Canon : Usable → Prop
  | .yes s | .wait s | .no _ s => s.Canon

def Ready.Canon : Ready → Prop
  | .yes s | .wait s | .no s => s.Canon

def HeaderRead.Canon : HeaderRead → Prop
  | .ok _ _ s | .no s => s.Canon

def RecordRead.Canon : RecordRead → Prop
  | .ok _ s | .bad s | .no s => s.Canon

def Sent.Canon : Sent → Prop
  | .done s | .refused _ s | .absent s | .wait s => s.Canon

def LaneAt.Canon : LaneAt → Prop
  | .ok _ s | .bad _ s | .stall s => s.Canon

def LaneLater.Canon : LaneLater → Prop
  | .ok s | .bad _ s | .stall s => s.Canon

def SourceAt.Canon : SourceAt → Prop
  | .ok _ s | .bad _ s | .stall s => s.Canon

def Located.Canon : Located → Prop
  | .ok s _ | .fail s _ | .stall s => s.Canon

def Sources.Canon : Sources → Prop
  | .ok _ s | .fail _ s | .stall s => s.Canon

def Fetched.Canon : Fetched → Prop
  | .words _ s | .fail _ s | .stall s => s.Canon

def Offer.Canon : Offer → Prop
  | .run _ s | .trapped s | .stall s => s.Canon

def Release.Canon : Release → Prop
  | .gone s | .wait s => s.Canon

def Waited.Canon : Waited → Prop
  | .no s | .yes _ s | .poison s => s.Canon

def Watching.Canon : Watching → Prop
  | .at _ s | .again s | .denied _ s | .wait s => s.Canon

def ReadNow.Canon : ReadNow → Prop
  | .ok _ s | .stall s => s.Canon

def Packed.Canon : Packed → Prop
  | .all s _ | .page s _ _ _ _ | .poison s _ _ _ | .stall s => s.Canon

def Res.Canon : Res → Prop
  | .ok s | .jump s | .wait s _ | .stall s | .trap s _ | .due s _ | .region s _ _ => s.Canon

def Counter.Canon : Counter → Prop
  | .none s | .at _ _ s => s.Canon
  | .no r => r.Canon

def Target.Canon : Target → Prop
  | .ok _ _ _ s => s.Canon
  | .no r => r.Canon

def GroupAt.Canon : GroupAt → Prop
  | .ok s _ _ => s.Canon
  | .fail r => r.Canon

/-- Of a step's outcome, the next state. -/
def OutCanon : Host.Outcome State Fault Refusal → Prop
  | .next s => s.Canon
  | _ => True

/-- What holds of a call's result holds of what the result was found to be. -/
theorem Canon.of_eq {α : Type} {P : α → Prop} {a b : α} (e : a = b) (h : P a) : P b := e ▸ h

/-- The same, where the fact about the call is a goal of its own. -/
theorem Canon.use {α : Type} {P : α → Prop} {a b : α} {G : Prop} (e : a = b) (h : P a) (k : P b → G) : G := k (e ▸ h)

theorem OnSome.getD {α : Type} {P : α → Prop} {o : Option α} {d : α} (h : OnSome P o) (hd : P d) : P (o.getD d) := by
  cases o with
  | none => exact hd
  | some a => exact h

theorem OnSome.findSome? {α β : Type} {P : β → Prop} {l : List α} {f : α → Option β} (h : ∀ a, OnSome P (f a)) :
    OnSome P (l.findSome? f) := by
  induction l with
  | nil => trivial
  | cons a l ih =>
    rw [List.findSome?_cons]
    have ha := h a
    split
    · next b hb => rw [hb] at ha; exact ha
    · exact ih

theorem OnFst.intro {α β : Type} {P : α → Prop} {a : α} {b : β} (h : P a) : OnFst P (a, b) := h

theorem OnSnd.intro {α β : Type} {P : β → Prop} {a : α} {b : β} (h : P b) : OnSnd P (a, b) := h

theorem OnFst.out {α β : Type} {P : α → Prop} {p : α × β} (h : OnFst P p) : P p.1 := h

theorem OnSnd.out {α β : Type} {P : β → Prop} {p : α × β} (h : OnSnd P p) : P p.2 := h

theorem Iss.Canon.state {x : Iss} (h : x.Canon) : x.s.Canon := h

theorem OnSome.bind {α β : Type} {P : β → Prop} {o : Option α} {f : α → Option β} (h : ∀ a, OnSome P (f a)) :
    OnSome P (o.bind f) := by
  cases o with
  | none => trivial
  | some a => exact h a

theorem OnSome.map {α β : Type} {P : β → Prop} {o : Option α} {f : α → β} (h : ∀ a, P (f a)) : OnSome P
    (o.map f) := by
  cases o with
  | none => trivial
  | some a => exact h a

theorem Canon.elim {α β : Type} {P : β → Prop} {o : Option α} {d : β} {f : α → β} (hd : P d) (h : ∀ a, P (f a)) : P
    (o.elim d f) := by
  cases o with
  | none => exact hd
  | some a => exact h a

/-! The operations that write a memory or replace a block. -/

theorem State.Canon.memOf {s : State} (h : s.Canon) (sp : Space) : (s.memOf sp).wf = true := by
  cases sp with
  | dev => exact h.mem
  | host => exact h.host
  | scratch b =>
    change (match s.block? b with
      | some k => k.scratch
      | none => Memory.empty).wf = true
    split
    · next k hk => exact h.blocks k (List.mem_of_find?_eq_some hk)
    · rfl

theorem State.Canon.modBlock {s : State} {id : Nat} {f : Block → Block} (h : s.Canon)
    (hf : ∀ b : Block, b.scratch.wf = true → (f b).scratch.wf = true) :
    (s.modBlock id f).Canon := by
  refine ⟨h.mem, h.host, fun b hb => ?_⟩
  obtain ⟨k, hk, rfl⟩ := List.mem_map.1 hb
  split
  · exact hf k (h.blocks k hk)
  · exact h.blocks k hk

theorem State.Canon.mapBlocks {s t : State} {f : Block → Block} (h : s.Canon) (hm : t.mem = s.mem)
    (hh : t.host = s.host)
    (hb : t.blocks = s.blocks.map f) (hf : ∀ b : Block, b.scratch.wf = true → (f b).scratch.wf = true) : t.Canon := by
  refine ⟨hm ▸ h.mem, hh ▸ h.host, fun b hmem => ?_⟩
  rw [hb] at hmem
  obtain ⟨k, hk, rfl⟩ := List.mem_map.1 hmem
  exact hf k (h.blocks k hk)

theorem State.Canon.setMem {s : State} {sp : Space} {m : Memory} (h : s.Canon) (hm : m.wf = true) :
    (s.setMem sp m).Canon := by
  cases sp with
  | dev => exact ⟨hm, h.host, h.blocks⟩
  | host => exact ⟨h.mem, hm, h.blocks⟩
  | scratch b => exact State.Canon.modBlock h fun _ _ => hm

theorem State.Canon.storeAt {s : State} {l : Loc} {bs : List PByte} (h : s.Canon) : (s.storeAt l bs).Canon :=
  State.Canon.setMem h (Memory.wf_store (h.memOf l.sp) l.addr bs)

theorem State.Canon.setNatAt {s : State} {l : Loc} {n v : Nat} (h : s.Canon) : (s.setNatAt l n v).Canon :=
  State.Canon.setMem h (Memory.wf_setNat (h.memOf l.sp) l.addr n v)

theorem State.Canon.addBlock {s t : State} {b : Block} (h : s.Canon) (hm : t.mem = s.mem) (hh : t.host = s.host)
    (hb : t.blocks = s.blocks ++ [b]) (hw : b.scratch.wf = true) : t.Canon := by
  refine ⟨hm ▸ h.mem, hh ▸ h.host, fun k hk => ?_⟩
  rw [hb, List.mem_append, List.mem_singleton] at hk
  obtain hk | rfl := hk
  · exact h.blocks k hk
  · exact hw

theorem State.powered_canon {flash : List Byte} {rollback : Nat} : (State.powered flash rollback).Canon :=
  ⟨rfl, rfl, fun _ h => absurd h List.not_mem_nil⟩

/-! Two matches as lemmas of their own, for the arms that hand a keyed contribution on: with the match left to `split`, the
kernel would evaluate `State.deliverKey`, whose fuel is a large numeral. -/

theorem State.Canon.turn {r : Bool × State} {f g : State → State} (hr : OnSnd State.Canon r)
    (hf : ∀ u, u.Canon → (f u).Canon) (hg : ∀ u, u.Canon → (g u).Canon) :
    State.Canon (match r with
      | (false, s) => f s
      | (true, s) => g s) := by
  obtain ⟨_ | _, u⟩ := r
  · exact hf u hr
  · exact hg u hr

theorem Served.Canon.place {o : Option (Loc × Nat)} {d : Served} {g : Loc → Served} (hd : d.Canon)
    (hg : ∀ l, (g l).Canon) :
    Served.Canon (match o with
      | none => d
      | some (l, _) => g l) := by
  cases o with
  | none => exact hd
  | some p => exact hg p.1

/-! The tie to the statement. -/

theorem State.canon_iff {s : State} : s.memoriesWf = true ↔ s.Canon := by
  simp only [State.memoriesWf, Bool.and_eq_true, List.all_eq_true]
  exact ⟨fun ⟨⟨hm, hh⟩, hb⟩ => ⟨hm, hh, hb⟩, fun h => ⟨⟨h.mem, h.host⟩, h.blocks⟩⟩

end Sys2Proof.Machine
end

section
/-! SUPPORT. Canonical memories under the shared operations (Machine/Ops): translation, messages, counters, traps. -/

namespace Sys2Proof.Machine

theorem State.Canon.putWave {s : State} {w : Wave} (h : s.Canon) : (s.putWave w).Canon := by
  unfold State.putWave
  exact h.frame rfl rfl rfl

theorem State.Canon.modWave {s : State} {id : Nat} {f : Wave → Wave} (h : s.Canon) : (s.modWave id f).Canon := by
  unfold State.modWave
  exact h.frame rfl rfl rfl

theorem State.Canon.modCtx {s : State} {n : Nat} {f : Context → Context} (h : s.Canon) : (s.modCtx n f).Canon := by
  unfold State.modCtx
  exact h.frame rfl rfl rfl

theorem State.Canon.modCore {s : State} {n : Nat} {f : Core → Core} (h : s.Canon) : (s.modCore n f).Canon := by
  unfold State.modCore
  exact h.frame rfl rfl rfl

theorem State.Canon.modQuad {s : State} {n : Nat} {f : Quad → Quad} (h : s.Canon) : (s.modQuad n f).Canon := by
  unfold State.modQuad
  exact h.frame rfl rfl rfl

theorem State.Canon.modLaunch {s : State} {c t : Nat} {f : Launch → Launch} (h : s.Canon) :
    (s.modLaunch c t f).Canon := by
  unfold State.modLaunch
  exact h.frame rfl rfl rfl

theorem State.Canon.modHomes {s : State} {f : Homes → Homes} (h : s.Canon) : (s.modHomes f).Canon := by
  unfold State.modHomes
  exact h.frame rfl rfl rfl

theorem State.Canon.modLink {s : State} {f : Link → Link} (h : s.Canon) : (s.modLink f).Canon := by
  unfold State.modLink
  exact h.frame rfl rfl rfl

theorem State.Canon.modDev {s : State} {f : Device → Device} (h : s.Canon) : (s.modDev f).Canon := by
  unfold State.modDev
  exact h.frame rfl rfl rfl

theorem State.Canon.modSched {s : State} {f : Sched → Sched} (h : s.Canon) : (s.modSched f).Canon := by
  unfold State.modSched
  exact h.frame rfl rfl rfl

theorem State.Canon.draw {s : State} (h : s.Canon) : OnSnd State.Canon s.draw := by
  unfold State.draw
  exact OnSnd.intro (h.frame rfl rfl rfl)

theorem State.Canon.choose {s : State} {n : Nat} (h : s.Canon) : OnSnd State.Canon (s.choose n) := by
  unfold State.choose
  exact OnSnd.intro (h.frame rfl rfl rfl)

theorem State.Canon.chooseSome {s : State} {n : Nat} (h : s.Canon) : OnSnd State.Canon (s.chooseSome n) := by
  unfold State.chooseSome
  exact OnSnd.intro (h.frame rfl rfl rfl)

theorem State.Canon.send {s : State} {wave uid no ctx : Nat} {k : MsgKind} (h : s.Canon) :
    (s.send wave uid no ctx k).Canon := by
  unfold State.send
  exact h.frame rfl rfl rfl

theorem State.Canon.dropMsg {s : State} {id : Nat} (h : s.Canon) : (s.dropMsg id).Canon := by
  unfold State.dropMsg
  exact h.frame rfl rfl rfl

theorem State.Canon.modMsg {s : State} {id : Nat} {f : MsgKind → MsgKind} (h : s.Canon) : (s.modMsg id f).Canon := by
  unfold State.modMsg
  exact h.frame rfl rfl rfl

theorem State.Canon.count {s : State} {die i : Nat} (h : s.Canon) : (s.count die i).Canon := by
  unfold State.count
  exact h.modDev

theorem State.Canon.rebuildRecord {s : State} {line : Nat} (h : s.Canon) : (s.rebuildRecord line).Canon := by
  unfold State.rebuildRecord
  extract_lets +onlyGivenNames l s1 s2
  have hs1 : s1.Canon := h.modDev
  clear_value s1
  have hs2 : s2.Canon := hs1.modHomes
  clear_value s2
  clear_value l
  exact hs2.foldl (fun _ _ h1 => h1.send)

theorem State.Canon.requestDrain {s : State} {l : Loc} {except : Option Nat} (h : s.Canon) :
    (s.requestDrain l except).Canon := by
  unfold State.requestDrain
  extract_lets +onlyGivenNames line
  clear_value line
  split
  · exact h.rebuildRecord
  · refine State.Canon.foldl h fun s1 x h2 => ?_
    split
    extract_lets +onlyGivenNames there
    clear_value there
    split
    · exact h2
    · extract_lets +onlyGivenNames cur upto
      clear_value cur upto
      exact h2.send

theorem State.Canon.clearRecorded {s : State} {line : Loc} {core : Nat} (h : s.Canon) :
    (s.clearRecorded line core).Canon := by
  unfold State.clearRecorded
  exact h.modHomes

theorem State.Canon.setRecorded {s : State} {line : Loc} {core epoch : Nat} (h : s.Canon) :
    (s.setRecorded line core epoch).Canon := by
  unfold State.setRecorded
  exact h.modHomes

theorem State.Canon.recordFull {s : State} {line : Loc} (h : s.Canon) : OnSome State.Canon (s.recordFull line) := by
  unfold State.recordFull
  split
  · exact trivial
  · extract_lets +onlyGivenNames slice same
    clear_value slice same
    split
    · exact trivial
    · extract_lets +onlyGivenNames old
      clear_value old
      exact h.requestDrain

theorem State.Canon.modFrame {s : State} {core id : Nat} {f : Frame → Frame} (h : s.Canon) :
    (s.modFrame core id f).Canon := by
  unfold State.modFrame
  exact h.modCore

theorem State.Canon.noFill {s : State} {core : Nat} {p : Loc → Bool} (h : s.Canon) : (s.noFill core p).Canon := by
  unfold State.noFill
  exact h.frame rfl rfl rfl

theorem State.Canon.sendWriteback {s : State} {core : Nat} {f : Frame} {uidTo : Nat × Nat} (h : s.Canon) :
    (s.sendWriteback core f uidTo).Canon := by
  unfold State.sendWriteback
  split
  · exact h.noFill.send.modFrame
  · exact h

theorem State.Canon.writebackWhere {s : State} {core : Nat} {p : Frame → Bool} {uidTo : Nat × Nat} (h : s.Canon) :
    (s.writebackWhere core p uidTo).Canon := by
  unfold State.writebackWhere
  extract_lets +onlyGivenNames fs top older
  clear_value fs top older
  exact h.foldl (fun _ _ h1 => h1.sendWriteback)

theorem State.Canon.dropFrames {s : State} {core : Nat} {p : Frame → Bool} (h : s.Canon) :
    (s.dropFrames core p).Canon := by
  unfold State.dropFrames
  exact h.modCore

theorem State.Canon.acquireInval {s : State} {core ctx : Nat} (h : s.Canon) : (s.acquireInval core ctx).Canon := by
  unfold State.acquireInval
  exact h.dropFrames.noFill

theorem State.Canon.closeEpoch {s : State} {core : Nat} (h : s.Canon) : OnSnd State.Canon (s.closeEpoch core) := by
  unfold State.closeEpoch
  extract_lets +onlyGivenNames s1 e
  have hs1 : s1.Canon := h.writebackWhere
  clear_value s1
  clear_value e
  exact OnSnd.intro hs1.modCore

theorem State.Canon.flushEpoch {s : State} {core e : Nat} (h : s.Canon) : (s.flushEpoch core e).Canon := by
  unfold State.flushEpoch
  exact h.writebackWhere

theorem State.Canon.surrenderLine {s : State} {core : Nat} {line : Loc} {uidTo : Nat × Nat} (h : s.Canon) :
    (s.surrenderLine core line uidTo).Canon := by
  unfold State.surrenderLine
  exact h.writebackWhere.dropFrames.noFill

theorem State.Canon.needFrame {s : State} {core : Nat} {line : Loc} {ctx : Nat} {restrict : BitVec 2} (h : s.Canon) :
    (s.needFrame core line ctx restrict).Canon := by
  unfold State.needFrame
  split
  · exact h
  · extract_lets +onlyGivenNames cs set same s1
    have hs1 : s1.Canon := by
      unfold s1
      split
      · exact h
      · split
        rename_i e
        have h1 : State.Canon _ := Canon.of_eq (P := OnSnd State.Canon) e h.choose
        split
        · exact h1.writebackWhere.dropFrames
        · exact h1
    clear_value s1
    clear_value cs set same
    exact hs1.modCore

theorem State.Canon.rebuildDir {s : State} {key : Nat} (h : s.Canon) : (s.rebuildDir key).Canon := by
  unfold State.rebuildDir
  split
  · exact h
  · extract_lets +onlyGivenNames id hs s1 s2
    have hs1 : s1.Canon := h.foldl (fun _ _ h1 => h1.send)
    clear_value s1
    have hs2 : s2.Canon := hs1.foldl (fun _ _ h2 => h2.send)
    clear_value s2
    clear_value id hs
    exact hs2.modHomes

theorem State.Canon.probeOwner {s : State} {key : Nat} (h : s.Canon) : OnSnd State.Canon (s.probeOwner key) := by
  unfold State.probeOwner
  split
  · exact OnSnd.intro h
  · split
    · exact OnSnd.intro h
    · extract_lets +onlyGivenNames e o
      clear_value e o
      exact OnSnd.intro h.modHomes

theorem State.Canon.dirFull {s : State} {key : Nat} (h : s.Canon) : OnSome State.Canon (s.dirFull key) := by
  unfold State.dirFull
  extract_lets +onlyGivenNames going
  clear_value going
  split
  · split
    · exact h
    · split
      · exact h.rebuildDir
      · exact trivial
  · split
    · exact trivial
    · extract_lets +onlyGivenNames same
      clear_value same
      split
      · exact trivial
      · split
        · exact h
        · split
          rename_i e
          have h1 : State.Canon _ := Canon.of_eq (P := OnSnd State.Canon) e h.choose
          split
          · exact h1
          · split
            · exact h1.rebuildDir
            · split
              rename_i e1
              have h2 : State.Canon _ := Canon.of_eq (P := OnSnd State.Canon) e1 h1.probeOwner
              extract_lets +onlyGivenNames id cs hs s1 s2
              have hs1 : s1.Canon := h2.foldl (fun _ _ h3 => h3.send)
              clear_value s1
              have hs2 : s2.Canon := hs1.foldl (fun _ _ h4 => h4.send)
              clear_value s2
              clear_value id cs hs
              split <;> exact hs2.modHomes

theorem State.Canon.dirHave {s : State} {key : Nat} (h : s.Canon) : (s.dirHave key).Canon := by
  unfold State.dirHave
  split
  · exact h
  · exact h.modHomes

theorem State.Canon.dirFill {s : State} {core key : Nat} (h : s.Canon) : (s.dirFill core key).Canon := by
  unfold State.dirFill
  exact h.dirHave.modHomes

theorem State.Canon.recallHalf {s : State} {l : Loc} (h : s.Canon) : (s.recallHalf l).Canon := by
  unfold State.recallHalf
  extract_lets +onlyGivenNames line half
  clear_value line half
  split
  · exact h
  · exact h.send

theorem State.Canon.homeNeeds {s : State} {l : Loc} {n : Nat} {except : Option Nat} {read : Bool} (h : s.Canon) :
    OnSome State.Canon (s.homeNeeds l n except read) := by
  unfold State.homeNeeds
  extract_lets +onlyGivenNames first hs lines held badDir badRec drains busy
  clear_value first hs lines held badDir badRec drains busy
  split
  · exact trivial
  · extract_lets +onlyGivenNames s1 s2 s3
    have hs1 : s1.Canon := h.foldl (fun _ _ h1 => h1.rebuildDir)
    clear_value s1
    have hs2 : s2.Canon := hs1.foldl (fun _ _ h2 => h2.rebuildRecord)
    clear_value s2
    have hs3 : s3.Canon := hs2.foldl (fun _ _ h3 => h3.recallHalf)
    clear_value s3
    exact hs3.foldl (fun _ _ h4 => h4.requestDrain)

theorem State.Canon.awaits {s : State} {r : Reader} {l : Loc} {n : Nat} {except : Option Nat} (h : s.Canon) :
    (s.awaits r l n except).Canon := by
  unfold State.awaits
  extract_lets +onlyGivenNames lines new
  clear_value lines new
  split
  · exact h
  · exact h.modHomes

theorem State.Canon.hasRead {s : State} {r : Reader} (h : s.Canon) : (s.hasRead r).Canon := by
  unfold State.hasRead
  exact h.modHomes

theorem State.Canon.meetErrors {s : State} {l : Loc} {n : Nat} (h : s.Canon) : (s.meetErrors l n).Canon := by
  unfold State.meetErrors
  split
  · exact h
  · extract_lets +onlyGivenNames hit
    clear_value hit
    refine State.Canon.foldl h fun s1 x h2 => ?_
    extract_lets +onlyGivenNames s2 stack die
    have hs2 : s2.Canon := h2.modDev
    clear_value s2
    clear_value stack die
    split
    · exact hs2.count
    · extract_lets +onlyGivenNames s3
      have hs3 : s3.Canon := ⟨(Memory.wf_setPoison hs2.mem _ _), hs2.host, hs2.blocks⟩
      clear_value s3
      exact hs3.count.modDev

theorem State.Canon.coverErrors {s : State} {p : Nat → Bool} (h : s.Canon) : (s.coverErrors p).Canon := by
  unfold State.coverErrors
  split
  · exact h
  · exact h.modDev

theorem State.Canon.mergeErrors {s : State} {l : Loc} {n : Nat} (h : s.Canon) : (s.mergeErrors l n).Canon := by
  unfold State.mergeErrors
  split
  · exact h
  · extract_lets +onlyGivenNames first
    clear_value first
    refine State.Canon.foldl h fun s1 x h2 => ?_
    split
    · exact h2.coverErrors
    · exact h2.meetErrors

theorem State.Canon.landNat {s : State} {a n v : Nat} (h : s.Canon) : (s.landNat a n v).Canon := by
  unfold State.landNat
  extract_lets +onlyGivenNames s1
  have hs1 : s1.Canon := h.mergeErrors
  clear_value s1
  exact ⟨(Memory.wf_setNat hs1.mem _ _ _), hs1.host, hs1.blocks⟩

theorem State.Canon.setPnat {s : State} {a n v : Nat} (h : s.Canon) : (s.setPnat a n v).Canon := by
  unfold State.setPnat
  split
  · exact h.recallHalf.modHomes
  · exact h.landNat

theorem State.Canon.landPosted {s : State} (h : s.Canon) : s.landPosted.Canon := by
  unfold State.landPosted
  extract_lets +onlyGivenNames free now
  clear_value free now
  split
  · exact h
  · extract_lets +onlyGivenNames t
    have ht : t.Canon := h.modHomes
    clear_value t
    exact ht.foldl (fun _ _ h1 => h1.landNat)

theorem State.Canon.setEntry {s : State} {c off n v : Nat} (h : s.Canon) : (s.setEntry c off n v).Canon := by
  unfold State.setEntry
  exact h.setPnat

theorem State.Canon.resetWait {s : State} {c : Nat} (h : s.Canon) : (s.resetWait c).Canon := by
  unfold State.resetWait
  split
  · exact h
  · exact h.modCtx.setEntry

theorem State.Canon.writeSave {s : State} {c : Nat} (h : s.Canon) : (s.writeSave c).Canon := by
  unfold State.writeSave
  extract_lets +onlyGivenNames k top whole s1
  have hs1 : s1.Canon := h.coverErrors
  clear_value s1
  clear_value k top whole
  exact ⟨(Memory.wf_veil (Memory.wf_veil (Memory.wf_veil hs1.mem _ _ _) _ _ _) _ _ _), hs1.host, hs1.blocks⟩

theorem State.Canon.tableRead {s : State} {cs : List Nat} (h : s.Canon) : OnSnd State.Canon (s.tableRead cs) := by
  unfold State.tableRead
  extract_lets +onlyGivenNames cs1
  clear_value cs1
  split
  next e =>
    have h1 : State.Canon _ := Canon.of_eq (P := OnSome State.Canon) e (OnSome.findSome? (fun _ => h.homeNeeds))
    exact OnSnd.intro h1
  · exact OnSnd.intro (h.foldl (fun _ _ h2 => h2.meetErrors))

theorem State.Canon.deciding {s : State} {k : State → State} (h : s.Canon)
    (h1 : ∀ (a : State), a.Canon → (k a).Canon) : (s.deciding k).Canon := by
  unfold State.deciding
  split
  next e =>
    have h2 : State.Canon _ := Canon.of_eq (P := OnSnd State.Canon) e h.tableRead
    exact h1 _ h2
  next e1 => exact Canon.of_eq (P := OnSnd State.Canon) e1 h.tableRead

theorem State.Canon.setCtxState {s : State} {c : Nat} {st : CtxState} (h : s.Canon) : (s.setCtxState c st).Canon := by
  unfold State.setCtxState
  exact h.modCtx.setEntry

theorem State.Canon.sendMsix {s : State} {ctx : Nat} (h : s.Canon) : (s.sendMsix ctx).Canon := by
  unfold State.sendMsix
  exact h.modDev

theorem State.Canon.writeRecord {s : State} {ring : Nat} {r : EvRec} (h : s.Canon) : OnSnd State.Canon
    (s.writeRecord ring r) := by
  unfold State.writeRecord
  extract_lets +onlyGivenNames c s1 tail lost a bytes s2 s3 s4 s5
  have hs1 : s1.Canon := h.meetErrors
  clear_value s1
  have hs2 : s2.Canon := hs1.mergeErrors
  clear_value s2
  have hs3 : s3.Canon := ⟨(Memory.wf_store hs2.mem _ _), hs2.host, hs2.blocks⟩
  clear_value s3
  have hs4 : s4.Canon := hs3.modCtx
  clear_value s4
  have hs5 : s5.Canon := hs4.modDev
  clear_value s5
  clear_value c tail lost a bytes
  exact OnSnd.intro hs5.setEntry

theorem State.Canon.record {s : State} {ctx die : Nat} {r : EvRec} (h : s.Canon) : OnSnd State.Canon
    (s.record ctx die r) := by
  unfold State.record
  extract_lets +onlyGivenNames st
  clear_value st
  split
  · extract_lets +onlyGivenNames r1
    clear_value r1
    split
    · exact OnSnd.intro h.sendMsix
    · split
      rename_i e
      have h1 : State.Canon _ := Canon.of_eq (P := OnSnd State.Canon) e h.writeRecord
      exact OnSnd.intro h1.modDev.sendMsix
  · split
    · split
      rename_i e1
      have h2 : State.Canon _ := Canon.of_eq (P := OnSnd State.Canon) e1 h.writeRecord
      exact OnSnd.intro h2
    · exact h.writeRecord

theorem State.Canon.ctxFault {s : State} {ctx : Nat} (h : s.Canon) : (s.ctxFault ctx).Canon := by
  unfold State.ctxFault
  split
  · exact h
  · split
    · exact h.setCtxState
    · exact h.setCtxState
    · exact h.setCtxState
    · exact h.setCtxState
    · exact h.setCtxState
    · exact h.setCtxState
    · exact h

theorem State.Canon.eventAt {s : State} {ctx die : Nat} {r : EvRec} (h : s.Canon) : OnSnd State.Canon
    (s.eventAt ctx die r) := by
  unfold State.eventAt
  extract_lets +onlyGivenNames direct
  split
  rename_i e
  have h1 : State.Canon _ := Canon.of_eq (P := OnSnd State.Canon) e h.record
  refine OnSnd.intro ?_
  split
  · split
    · exact h1.modDev
    · exact h1.sendMsix
    · exact h1.ctxFault
  · exact h1

theorem State.Canon.evNeeds {s : State} {c : Nat} (h : s.Canon) : OnSome State.Canon (s.evNeeds c) := by
  unfold State.evNeeds
  extract_lets +onlyGivenNames ring k
  clear_value ring k
  split
  next e => exact Canon.of_eq (P := OnSome State.Canon) e h.homeNeeds
  · split
    · exact trivial
    · exact h.homeNeeds

theorem State.Canon.flushEvents {s : State} {a : Nat} (h : s.Canon) : (s.flushEvents a).Canon := by
  induction a generalizing s with
  | zero =>
    unfold State.flushEvents
    exact h
  | succ a ih =>
    unfold State.flushEvents
    split
    · exact h
    · split
      next e => exact Canon.of_eq (P := OnSome State.Canon) e h.evNeeds
      · exact ih (OnSnd.out h.modDev.eventAt)

theorem State.Canon.event {s : State} {ctx die : Nat} {r : EvRec} (h : s.Canon) : (s.event ctx die r).Canon := by
  unfold State.event
  exact h.modDev.flushEvents

theorem State.Canon.notice {s : State} {ctx reason addr detail : Nat} (h : s.Canon) :
    (s.notice ctx reason addr detail).Canon := by
  unfold State.notice
  exact h.event

theorem State.Canon.report {s : State} {source die unit addr detail : Nat} {byOwner : Bool} (h : s.Canon) :
    (s.report source die unit addr detail byOwner).Canon := by
  unfold State.report
  exact h.event

theorem State.Canon.sharedDrop {s : State} {line : Nat} (h : s.Canon) : (s.sharedDrop line).Canon := by
  unfold State.sharedDrop
  extract_lets +onlyGivenNames d
  clear_value d
  exact h.coverErrors.modHomes

theorem State.Canon.sharedEvict {s : State} {among : List SharedLine} (h : s.Canon) :
    (s.sharedEvict among).Canon := by
  unfold State.sharedEvict
  extract_lets +onlyGivenNames low
  clear_value low
  split
  · exact h
  · split
    rename_i e
    have h1 : State.Canon _ := Canon.of_eq (P := OnSnd State.Canon) e h.choose
    exact Canon.elim h1 (fun _ => h1.sharedDrop)

theorem State.Canon.sharedTake {s : State} {l : Loc} {ret : Nat} {write : Bool} (h : s.Canon) :
    (s.sharedTake l ret write).Canon := by
  unfold State.sharedTake
  split
  · exact h
  · extract_lets +onlyGivenNames line bit mark
    clear_value line bit mark
    split
    · exact h.modHomes
    · extract_lets +onlyGivenNames slice here set full s1
      have hs1 : s1.Canon := by
        unfold s1
        split
        · exact h
        · split
          · exact h.sharedEvict
          · split
            · exact h
            · split
              next e => exact Canon.of_eq (P := OnSnd State.Canon) e h.choose
              next e1 =>
                have h2 : State.Canon _ := Canon.of_eq (P := OnSnd State.Canon) e1 h.choose
                exact h2.sharedEvict
      clear_value s1
      clear_value slice here set full
      exact hs1.modHomes

theorem State.Canon.sharedShrink {s : State} {slice : Nat} (h : s.Canon) : (s.sharedShrink slice).Canon := by
  unfold State.sharedShrink
  extract_lets +onlyGivenNames here
  clear_value here
  exact h.foldl (fun _ _ h1 => h1.sharedEvict)

theorem State.Canon.tlbInsert {s : State} {cap : Nat} {l : List TlbEntry} {e : TlbEntry} (h : s.Canon) :
    OnSnd State.Canon (tlbInsert s cap l e) := by
  unfold Machine.tlbInsert
  split
  · exact OnSnd.intro h
  · split
    rename_i e1
    have h1 : State.Canon _ := Canon.of_eq (P := OnSnd State.Canon) e1 h.choose
    exact OnSnd.intro h1

theorem State.Canon.orLeaf {s : State} {at_ bit : Nat} (h : s.Canon) : (s.orLeaf at_ bit).Canon := by
  unfold State.orLeaf
  extract_lets +onlyGivenNames b
  clear_value b
  exact ⟨(Memory.wf_set h.mem _ _), h.host, h.blocks⟩

theorem State.Canon.translate {s : State} {core : Option Nat} {die ctx va : Nat} {n : Need} (h : s.Canon) :
    (s.translate core die ctx va n).Canon := by
  unfold State.translate
  extract_lets +onlyGivenNames use own
  have huse : ∀ (s : State) (e : TlbEntry), s.Canon → (use s e).Canon := by
    intro x x1 h2
    unfold use
    split
    · exact h2
    · extract_lets +onlyGivenNames dirty
      clear_value dirty
      split
      next e =>
        refine Canon.use (P := OnSome State.Canon) e ?_ fun (h3 : State.Canon _) => ?_
        · split
          · exact h2.homeNeeds
          · exact trivial
        exact h3
      · split
        rename_i e1
        refine Canon.use (P := OnFst State.Canon) e1 ?_ fun (h4 : State.Canon _) => ?_
        · split
          · extract_lets +onlyGivenNames e' s1 fix s2
            have hs1 : s1.Canon := h2.meetErrors.orLeaf
            clear_value s1
            have hs2 : s2.Canon := hs1.modHomes
            clear_value s2
            clear_value e' fix
            refine OnFst.intro ?_
            split
            · exact hs2.modCore
            · exact hs2
          · exact OnFst.intro h2
        extract_lets +onlyGivenNames frame
        clear_value frame
        exact h4
  clear_value use
  clear_value own
  split
  · exact huse _ _ h
  · extract_lets +onlyGivenNames fill
    have hfill : ∀ (s : State) (e : TlbEntry), s.Canon → (fill s e).Canon := by
      intro x2 x3 h6
      unfold fill
      split
      · split
        rename_i e2
        have h7 : State.Canon _ := Canon.of_eq (P := OnSnd State.Canon) e2 h6.tlbInsert
        exact h7.modCore
      · exact h6
    clear_value fill
    split
    · exact huse _ _ (hfill _ _ h)
    · extract_lets +onlyGivenNames met
      have hmet : ∀ (s : State), s.Canon → (met s).Canon := by
        intro x4 h9
        unfold met
        split
        · exact h9
        · exact h9.foldl (fun _ _ h10 => h10.meetErrors)
      clear_value met
      split
      · exact OnSome.getD h.homeNeeds h
      · exact hmet _ h
      · exact hmet _ h
      · extract_lets +onlyGivenNames s3 s4 sz t
        have hs3 : s3.Canon := hmet _ h
        clear_value s3
        have hs4 : s4.Canon := by
          unfold s4
          split
          · exact hs3
          · exact hs3.orLeaf
        clear_value s4
        clear_value sz t
        split
        rename_i e3
        have h11 : State.Canon _ := Canon.of_eq (P := OnSnd State.Canon) e3 hs4.tlbInsert
        extract_lets +onlyGivenNames s5
        have hs5 : s5.Canon := h11.modHomes
        clear_value s5
        exact huse _ _ (hfill _ _ hs5)

theorem State.Canon.discardMsgs {s : State} {w : Wave} {no : Nat} (h : s.Canon) : (s.discardMsgs w no).Canon := by
  unfold State.discardMsgs
  extract_lets +onlyGivenNames loads s1 s2 gone s3
  have hs1 : s1.Canon := h.frame rfl rfl rfl
  clear_value s1
  have hs2 : s2.Canon := hs1.modHomes
  clear_value s2
  have hs3 : s3.Canon := hs2.modLink
  clear_value s3
  clear_value loads gone
  exact hs3.modQuad

theorem State.Canon.leaveCores {s : State} {c : Nat} (h : s.Canon) : (s.leaveCores c).Canon := by
  unfold State.leaveCores
  refine State.Canon.foldl h fun s1 x h2 => ?_
  split
  · exact h2.writebackWhere.dropFrames
  · exact h2

theorem State.Canon.ctxPlaced {s : State} {c : Nat} (h : s.Canon) : (s.ctxPlaced c).Canon := by
  unfold State.ctxPlaced
  extract_lets +onlyGivenNames all
  clear_value all
  split
  · exact h.setCtxState
  · split
    · exact h.setCtxState
    · exact h
  · exact h

theorem State.Canon.ctxEvicted {s : State} {c : Nat} (h : s.Canon) : (s.ctxEvicted c).Canon := by
  unfold State.ctxEvicted
  split
  · exact h.setCtxState
  · exact h

theorem State.Canon.ctxOver {s : State} {c : Nat} (h : s.Canon) : (s.ctxOver c).Canon := by
  unfold State.ctxOver
  split
  · split
    · exact h.setCtxState
    · exact h
  · split
    · exact h.setCtxState
    · exact h
  · exact h

theorem State.Canon.killWave {s : State} {id : Nat} (h : s.Canon) : (s.killWave id).Canon := by
  unfold State.killWave
  split
  · exact h
  · extract_lets +onlyGivenNames s1 s2
    have hs1 : s1.Canon := h.discardMsgs.modCore
    clear_value s1
    have hs2 : s2.Canon := by
      unfold s2
      split
      · exact hs1.modCtx
      · exact hs1
    clear_value s2
    exact hs2.putWave

theorem State.Canon.modGang {s : State} {c t g : Nat} {f : Gang → Gang} (h : s.Canon) :
    (s.modGang c t g f).Canon := by
  unfold State.modGang
  exact h.modLaunch

theorem State.Canon.noticeGang {s : State} {ctx tag g : Nat} (h : s.Canon) : (s.noticeGang ctx tag g).Canon := by
  unfold State.noticeGang
  split
  · exact h
  · extract_lets +onlyGivenNames reached x
    clear_value reached x
    split
    · exact h
    · exact h.modGang

theorem State.Canon.retireLaunch {s : State} {ctx tag : Nat} (h : s.Canon) : (s.retireLaunch ctx tag).Canon := by
  unfold State.retireLaunch
  split
  · exact h
  · exact h.foldl (fun _ _ h1 => h1.noticeGang)

theorem State.Canon.gangAck {s : State} {serial : DWord} {rank : Nat} (h : s.Canon) :
    (s.gangAck serial rank).Canon := by
  unfold State.gangAck
  extract_lets +onlyGivenNames v one
  clear_value v one
  exact h.modLaunch

theorem State.Canon.settleChild {s : State} {w : Nat} (h : s.Canon) : (s.settleChild w).Canon := by
  unfold State.settleChild
  split
  split
  · exact h.modLaunch
  · exact h

theorem State.Canon.loseChildren {s : State} (h : s.Canon) : s.loseChildren.Canon := by
  unfold State.loseChildren
  refine State.Canon.foldl h fun s1 x h2 => ?_
  split
  refine State.Canon.foldl h2 fun s2 x1 h4 => ?_
  split
  extract_lets +onlyGivenNames lost
  clear_value lost
  refine State.Canon.foldl h4 fun s3 x2 h6 => ?_
  extract_lets +onlyGivenNames s4
  have hs4 : s4.Canon := h6.notice.settleChild
  clear_value s4
  exact hs4.modCtx

theorem State.Canon.killGangOnly {s : State} {ctx tag gang : Nat} {again : Bool} (h : s.Canon) :
    (s.killGangOnly ctx tag gang again).Canon := by
  unfold State.killGangOnly
  extract_lets +onlyGivenNames s1 s2 s3 s4 s5
  have hs1 : s1.Canon := h.count
  clear_value s1
  have hs2 : s2.Canon := by
    unfold s2
    refine State.Canon.foldl hs1 fun s6 x h3 => ?_
    split
    · exact h3
    · exact h3.killWave
  clear_value s2
  have hs3 : s3.Canon := by
    unfold s3
    refine State.Canon.mapBlocks hs2 rfl rfl rfl fun b hb => ?_
    split
    · exact Memory.wf_empty
    · exact hb
  clear_value s3
  have hs4 : s4.Canon := hs3.frame rfl rfl rfl
  clear_value s4
  have hs5 : s5.Canon := hs4.modSched
  clear_value s5
  exact hs5.leaveCores.modLaunch.loseChildren

theorem State.Canon.killLaunch {s : State} {ctx tag : Nat} (h : s.Canon) : (s.killLaunch ctx tag).Canon := by
  unfold State.killLaunch
  split
  · exact h
  · extract_lets +onlyGivenNames s1 s2 s3 s4
    have hs1 : s1.Canon := by
      unfold s1
      refine State.Canon.foldl h fun s5 x h3 => ?_
      split
      · exact h3.killGangOnly
      · exact h3.killGangOnly
      · exact h3.killGangOnly
      · exact h3.modGang
      · exact h3
      · exact h3
    clear_value s1
    have hs2 : s2.Canon := hs1.frame rfl rfl rfl
    clear_value s2
    have hs3 : s3.Canon := hs2.modSched
    clear_value s3
    have hs4 : s4.Canon := hs3.modLaunch
    clear_value s4
    exact hs4.retireLaunch.leaveCores.loseChildren

theorem State.Canon.killGang {s : State} {ctx tag gang : Nat} (h : s.Canon) : (s.killGang ctx tag gang).Canon := by
  unfold State.killGang
  split
  · exact h
  · extract_lets +onlyGivenNames before st
    clear_value before st
    split
    · exact h
    · extract_lets +onlyGivenNames s1
      have hs1 : s1.Canon := h.killGangOnly
      clear_value s1
      split
      · exact hs1.modLaunch
      · exact hs1.killLaunch.notice

theorem State.Canon.takeTrap {s : State} {id slot : Nat} {r : Raised} (h : s.Canon) :
    (s.takeTrap id slot r).Canon := by
  unfold State.takeTrap
  split
  · exact h
  · extract_lets +onlyGivenNames die s1 hold frozen
    have hs1 : s1.Canon := by
      unfold s1
      split
      · exact h.count
      · exact h
    clear_value s1
    clear_value die hold frozen
    split
    · exact hs1.putWave
    · split
      · split
        extract_lets +onlyGivenNames s2
        have hs2 : s2.Canon := hs1.putWave
        clear_value s2
        exact hs2.killGang
      · split
        · extract_lets +onlyGivenNames lane w
          clear_value lane w
          extract_lets +onlyGivenNames w1
          clear_value w1
          split
          extract_lets +onlyGivenNames pc
          clear_value pc
          exact hs1.putWave
        · extract_lets +onlyGivenNames w2 w3
          clear_value w2 w3
          exact hs1.putWave

theorem State.Canon.returnFromTrap {s : State} {id : Nat} (h : s.Canon) : (s.returnFromTrap id).Canon := by
  unfold State.returnFromTrap
  split
  · exact h
  · extract_lets +onlyGivenNames pend slot w
    clear_value pend slot w
    extract_lets +onlyGivenNames w1
    clear_value w1
    split
    · exact h.putWave
    · extract_lets +onlyGivenNames pc cause hit lanes r w2
      clear_value pc cause hit lanes r w2
      extract_lets +onlyGivenNames w3
      clear_value w3
      exact h.putWave.takeTrap

theorem State.Canon.cancelMatrix {s : State} {w : Wave} {no : Nat} (h : s.Canon) : (s.cancelMatrix w no).Canon := by
  unfold State.cancelMatrix
  extract_lets +onlyGivenNames gone s1
  have hs1 : s1.Canon := h.frame rfl rfl rfl
  clear_value s1
  clear_value gone
  exact hs1.modQuad

theorem State.Canon.settleActive {s : State} {before after : Wave} (h : s.Canon) :
    (s.settleActive before after).Canon := by
  unfold State.settleActive
  extract_lets +onlyGivenNames vec
  clear_value vec
  split
  · exact h
  · exact h.modCtx

theorem State.Canon.regionReplay {s : State} {id slot no : Nat} {ipc : DWord} {t : Trap} {kept : List Held}
    (h : s.Canon) : (s.regionReplay id slot no ipc t kept).Canon := by
  unfold State.regionReplay
  split
  · exact h
  · extract_lets +onlyGivenNames s1 s2 w w1
    have hs1 : s1.Canon := h.count
    clear_value s1
    have hs2 : s2.Canon := hs1.discardMsgs
    clear_value s2
    clear_value w w1
    split
    · exact hs2.putWave
    · extract_lets +onlyGivenNames entryPc slot' s3 w2 w3 s4
      have hs3 : s3.Canon := hs2.cancelMatrix
      clear_value s3
      have hs4 : s4.Canon := Canon.elim hs3 (fun _ => hs3.settleActive)
      clear_value s4
      clear_value entryPc slot' w2 w3
      exact hs4.putWave.takeTrap

end Sys2Proof.Machine
end

section
/-! SUPPORT. Canonical memories under memory errors (Machine/Errors). -/

namespace Sys2Proof.Machine

theorem State.Canon.waveError {s : State} {id : Nat} {f : Wave → Wave} (h : s.Canon) : (s.waveError id f).Canon := by
  unfold State.waveError
  split
  · exact h
  · split
    · exact h
    · extract_lets +onlyGivenNames die
      clear_value die
      exact h.modWave.count.report

theorem State.Canon.l1Error {s : State} {core frame sector : Nat} (h : s.Canon) :
    (s.l1Error core frame sector).Canon := by
  unfold State.l1Error
  split
  · exact h
  · extract_lets +onlyGivenNames bit dirty die one
    clear_value bit dirty die one
    exact h.modFrame.count.report

theorem State.Canon.sharedError {s : State} {sector : Nat} (h : s.Canon) : (s.sharedError sector).Canon := by
  unfold State.sharedError
  split
  · exact h
  · extract_lets +onlyGivenNames line bit core dirty s1
    have hs1 : s1.Canon := by
      unfold s1
      split
      · exact ⟨(Memory.wf_setPoison h.mem _ _), h.host, h.blocks⟩
      · exact h.modHomes
    clear_value s1
    clear_value line bit core dirty
    exact hs1.count.report

theorem State.Canon.errorAt {s : State} {e : ErrorSite} (h : s.Canon) : (s.errorAt e).Canon := by
  unfold State.errorAt
  extract_lets +onlyGivenNames die
  clear_value die
  split
  · exact h.modDev
  · split
    · exact h
    · split
      · exact h.count
      · exact h.modHomes
  · split
    · exact h
    · split
      · exact h.count
      · exact h.modDev
  · exact h.count
  · exact h.waveError
  · exact h.waveError
  · exact h.waveError
  · exact h.waveError
  · exact h.l1Error
  · exact h.sharedError
  · split
    · exact h
    · extract_lets +onlyGivenNames die1
      clear_value die1
      exact (h.modBlock (fun _ h1 => (Memory.wf_setPoison h1 _ _))).count.report

theorem State.Canon.errors {s : State} (h : s.Canon) : s.errors.Canon := by
  unfold State.errors
  split
  · exact h
  · split
    · exact State.Canon.errorAt (h.frame rfl rfl rfl)
    · exact h.frame rfl rfl rfl

end Sys2Proof.Machine
end

section
/-! SUPPORT. Canonical memories under what an instruction of a wave does at its end (Machine/Operands). -/

namespace Sys2Proof.Machine

theorem Iss.Canon.done {x : Iss} {w : Wave} (h : x.Canon) : (x.done w).Canon := by
  unfold Iss.done
  exact h.state.putWave

theorem Iss.Canon.raise {x : Iss} {f : Fail} (h : x.Canon) : (x.raise f).Canon := by
  unfold Iss.raise
  exact h.state

theorem Iss.Canon.report {x : Iss} {f : Fail} (h : x.Canon) : (x.report f).Canon := by
  unfold Iss.report
  exact h.state

theorem Iss.Canon.poison {x : Iss} {lanes : Lanes} {faddr : DWord} (h : x.Canon) : (x.poison lanes faddr).Canon := by
  unfold Iss.poison
  exact h.report

theorem Iss.Canon.failWith {x : Iss} {s : State} {f : Fail} (_ : x.Canon) (h1 : s.Canon) :
    (x.failWith s f).Canon := by
  unfold Iss.failWith
  split <;> exact h1

theorem Iss.Canon.run {x : Iss} {body : Iss → Res} (h : x.Canon) (h1 : ∀ (a : Iss), a.Canon → (body a).Canon) :
    (x.run body).Canon := by
  unfold Iss.run
  split
  · exact h.raise
  · split
    · exact h.raise
    · split
      · exact h.raise
      · split
        · exact h.state
        · split
          · exact h.state
          · exact h1 _ h

theorem Iss.Canon.occupy {x : Iss} {s : State} (_ : x.Canon) (h1 : s.Canon) : (x.occupy s).Canon := by
  unfold Iss.occupy
  exact h1.modQuad

theorem Iss.Canon.restartWait {x : Iss} {s : State} (_ : x.Canon) (h1 : s.Canon) : (x.restartWait s).Canon := by
  unfold Iss.restartWait
  exact h1.resetWait

theorem State.Canon.issTrapOf {f : Fail} {d : Delivery} {s : State} (h : s.Canon) : OnSnd State.Canon
    (Iss.trapOf f d s) := by
  unfold Iss.trapOf
  split
  · exact OnSnd.intro h
  · split
    rename_i e
    have h1 : State.Canon _ := Canon.of_eq (P := OnSnd State.Canon) e h.draw
    exact OnSnd.intro h1

theorem Iss.Canon.complete {x : Iss} {s : State} {advance : Bool} (h : x.Canon) (h1 : s.Canon) :
    (x.complete s advance).Canon := by
  unfold Iss.complete
  extract_lets +onlyGivenNames s1 __src
  have hs1 : s1.Canon := h1.modWave
  clear_value s1
  have h__src : __src.Canon := h.occupy (h.restartWait hs1)
  clear_value __src
  exact h__src.frame rfl rfl rfl

theorem Iss.Canon.finish {x : Iss} {a : Res} (h : x.Canon) (h1 : a.Canon) : (x.finish a).Canon := by
  unfold Iss.finish
  split
  · exact h.complete (h1 : State.Canon _)
  · exact h.complete (h1 : State.Canon _)
  · extract_lets +onlyGivenNames s __src
    have hs : s.Canon := (h1 : State.Canon _).modWave
    clear_value s
    have h__src : __src.Canon := by
      unfold __src
      refine Iss.Canon.occupy h ?_
      split
      · exact hs
      · exact h.restartWait hs
    clear_value __src
    exact h__src.frame rfl rfl rfl
  · exact h1
  · split
    rename_i e
    have h2 : State.Canon _ := Canon.of_eq (P := OnSnd State.Canon) e (h1 : State.Canon _).issTrapOf
    extract_lets +onlyGivenNames s1 __src1
    have hs1 : s1.Canon := h2.modWave
    clear_value s1
    have h__src1 : __src1.Canon := h.occupy hs1.takeTrap
    clear_value __src1
    exact h__src1.frame rfl rfl rfl
  · split
    rename_i e1
    have h3 : State.Canon _ := Canon.of_eq (P := OnSnd State.Canon) e1 (h1 : State.Canon _).issTrapOf
    extract_lets +onlyGivenNames x'
    have hx' : x'.Canon := h
    clear_value x'
    exact hx'.complete h3.modWave
  · split
    · exact h1
    · split
      rename_i e2
      have h4 : State.Canon _ := Canon.of_eq (P := OnSnd State.Canon) e2 (h1 : State.Canon _).issTrapOf
      extract_lets +onlyGivenNames s2 s3 __src2
      have hs2 : s2.Canon := h4.modWave
      clear_value s2
      have hs3 : s3.Canon := by
        unfold s3
        split
        · exact hs2.modWave.takeTrap
        · exact hs2.regionReplay
      clear_value s3
      have h__src2 : __src2.Canon := h.occupy hs3
      clear_value __src2
      exact h__src2.frame rfl rfl rfl

theorem State.Canon.leaveWaitAt {s : State} {id slot soon : Nat} (h : s.Canon) :
    (s.leaveWaitAt id slot soon).Canon := by
  unfold State.leaveWaitAt
  split
  · exact h
  · split
    · exact h
    · split
      · exact h
      · extract_lets +onlyGivenNames s1 s2
        have hs1 : s1.Canon := h.modWave
        clear_value s1
        have hs2 : s2.Canon := hs1.modWave
        clear_value s2
        exact hs2.resetWait

theorem State.Canon.leaveWait {s : State} {id slot : Nat} (h : s.Canon) : (s.leaveWait id slot).Canon := by
  unfold State.leaveWait
  exact h.leaveWaitAt

theorem State.Canon.issuing {s : State} {i : Instr} (h : s.Canon) : OnSome Iss.Canon (s.issuing i) := by
  unfold State.issuing
  split
  · exact trivial
  · split
    · split
      · exact h
      · exact trivial
    · exact trivial

theorem State.Canon.issueWave {i : Instr} {body : Iss → Res} {s : State} (h : ∀ (a : Iss), a.Canon → (body a).Canon)
    (h1 : s.Canon) : OutCanon (issueWave i body s) := by
  unfold Machine.issueWave
  split
  · exact trivial
  next e =>
    have h2 : Iss.Canon _ := Canon.of_eq (P := OnSome Iss.Canon) e h1.issuing
    exact h2.finish (h2.run (fun _ h3 => (h _ h3)))

end Sys2Proof.Machine
end

section
/-! SUPPORT. Canonical memories under the choice of a split and its fetch (Machine/Fetch). -/

namespace Sys2Proof.Machine

theorem State.Canon.fetchWord {s : State} {w : Wave} {sp : Split} {va : Nat} (h : s.Canon) :
    (s.fetchWord w sp va).Canon := by
  unfold State.fetchWord
  extract_lets +onlyGivenNames report
  clear_value report
  split
  · exact h
  · split
    · exact h
    · split
      · exact h
      · split
        · exact h
        · split
          · exact h
          · split
            next e => exact Canon.of_eq (P := Trans.Canon) e h.translate
            next e1 => exact Canon.of_eq (P := Trans.Canon) e1 h.translate
            next e2 =>
              have h3 : State.Canon _ := Canon.of_eq (P := Trans.Canon) e2 h.translate
              split
              next e3 => exact Canon.of_eq (P := OnSome State.Canon) e3 h3.homeNeeds
              · extract_lets +onlyGivenNames s1
                have hs1 : s1.Canon := h3.meetErrors
                clear_value s1
                exact hs1

theorem State.Canon.fetchMore {s : State} {w : Wave} {sp : Split} {va : Nat} {got : List Byte} {a : Nat}
    (h : s.Canon) : (s.fetchMore w sp va got a).Canon := by
  induction a generalizing s va got with
  | zero =>
    unfold State.fetchMore
    exact h
  | succ a ih =>
    unfold State.fetchMore
    split
    next e =>
      have h1 : State.Canon _ := Canon.of_eq (P := Fetched.Canon) e h.fetchWord
      exact ih h1
    · exact h.fetchWord

theorem State.Canon.fetch {s : State} {w : Wave} {sp : Split} (h : s.Canon) : (s.fetch w sp).Canon := by
  unfold State.fetch
  split
  next e =>
    have h1 : State.Canon _ := Canon.of_eq (P := Fetched.Canon) e h.fetchWord
    extract_lets +onlyGivenNames w0
    clear_value w0
    exact h1.fetchMore
  · exact h.fetchWord

theorem State.Canon.offer {s : State} {id slot : Nat} (h : s.Canon) : (s.offer id slot).Canon := by
  unfold State.offer
  split
  · exact h
  · split
    · exact h
    · split
      · exact h
      · extract_lets +onlyGivenNames trap
        have htrap : ∀ (s : State) (f : Fail), s.Canon → (trap s f).Canon := by
          intro x x1 h2
          unfold trap
          split
          rename_i e
          have h3 : State.Canon _ := Canon.of_eq (P := OnSnd State.Canon) e h2.issTrapOf
          extract_lets +onlyGivenNames s1
          have hs1 : s1.Canon := h3.modWave
          clear_value s1
          exact hs1.takeTrap
        clear_value trap
        split
        next e1 => exact Canon.of_eq (P := Fetched.Canon) e1 h.fetch
        next e2 =>
          have h5 : State.Canon _ := Canon.of_eq (P := Fetched.Canon) e2 h.fetch
          exact htrap _ _ h5
        next e3 =>
          have h6 : State.Canon _ := Canon.of_eq (P := Fetched.Canon) e3 h.fetch
          split
          · exact htrap _ _ h6
          · exact h6.frame rfl rfl rfl

theorem State.Canon.claimTick {s : State} {c : Nat} (h : s.Canon) : (s.claimTick c).Canon := by
  unfold State.claimTick
  extract_lets +onlyGivenNames k
  clear_value k
  split
  · exact h
  · split
    next e => exact Canon.of_eq (P := OnSome State.Canon) e h.homeNeeds
    · extract_lets +onlyGivenNames s1 v seen
      have hs1 : s1.Canon := h.meetErrors
      clear_value s1
      clear_value v seen
      split
      split
      · exact hs1
      · exact hs1.modCtx

end Sys2Proof.Machine
end

section
/-! SUPPORT. Canonical memories under the completion of instructions in flight (Machine/Late). -/

namespace Sys2Proof.Machine

theorem State.Canon.reportOp {s : State} {id : Nat} {o : Op} {f : Fail} (h : s.Canon) :
    (s.reportOp id o f).Canon := by
  unfold State.reportOp
  split
  rename_i e
  have h1 : State.Canon _ := Canon.of_eq (P := OnSnd State.Canon) e h.issTrapOf
  exact h1.modWave

end Sys2Proof.Machine
end

section
/-! SUPPORT. Canonical memories under what a home does (Machine/Home). -/

namespace Sys2Proof.Machine

theorem State.Canon.recordRebuilt {s : State} {line : Loc} (h : s.Canon) : (s.recordRebuilt line).Canon := by
  unfold State.recordRebuilt
  split
  · extract_lets +onlyGivenNames slice s1
    have hs1 : s1.Canon := h.modHomes
    clear_value s1
    clear_value slice
    exact hs1.count.report
  · exact h

theorem State.Canon.askLine {s : State} {l : Loc} (h : s.Canon) : (s.askLine l).Canon := by
  unfold State.askLine
  extract_lets +onlyGivenNames line
  clear_value line
  split
  · exact h
  · exact h.send

theorem State.Canon.homeRead {s : State} {l : Loc} {n : Nat} (h : s.Canon) : OnSnd State.Canon (s.homeRead l n) := by
  unfold State.homeRead
  extract_lets +onlyGivenNames s1
  have hs1 : s1.Canon := h.meetErrors
  clear_value s1
  exact OnSnd.intro hs1

theorem State.Canon.homeStore {s : State} {l : Loc} {bs : List PByte} (h : s.Canon) : (s.homeStore l bs).Canon := by
  unfold State.homeStore
  extract_lets +onlyGivenNames s1
  have hs1 : s1.Canon := h.mergeErrors
  clear_value s1
  exact hs1.storeAt

theorem State.Canon.applyAtomic {s : State} {kind : HomeOp} {op : LaneOp} (h : s.Canon) : OnSnd State.Canon
    (s.applyAtomic kind op) := by
  unfold State.applyAtomic
  extract_lets +onlyGivenNames s1 old p v
  have hs1 : s1.Canon := h.meetErrors
  clear_value s1
  clear_value old p v
  split
  · exact OnSnd.intro hs1
  · split
    · exact OnSnd.intro hs1.storeAt
    · exact OnSnd.intro hs1.setNatAt
    · split
      · exact OnSnd.intro hs1.setNatAt
      · exact OnSnd.intro hs1
    · exact OnSnd.intro hs1

theorem State.Canon.dropKey {s : State} {cell : Loc} (h : s.Canon) : (s.dropKey cell).Canon := by
  unfold State.dropKey
  exact h.setNatAt

theorem State.Canon.countBytes {s : State} {c : Option (Loc × Nat)} {n : Nat} (h : s.Canon) :
    (s.countBytes c n).Canon := by
  unfold State.countBytes
  split
  · exact h
  · extract_lets +onlyGivenNames s1
    have hs1 : s1.Canon := h.meetErrors
    clear_value s1
    exact hs1.setNatAt

theorem State.Canon.applyHeldKeys {s : State} {cell : Loc} {a : Nat} (h : s.Canon) :
    (s.applyHeldKeys cell a).Canon := by
  induction a generalizing s with
  | zero =>
    unfold State.applyHeldKeys
    exact h
  | succ a ih =>
    unfold State.applyHeldKeys
    split
    · exact h
    · extract_lets +onlyGivenNames s1 s2
      have hs1 : s1.Canon := h.modHomes
      clear_value s1
      have hs2 : s2.Canon := hs1.setNatAt
      clear_value s2
      exact ih hs2.setNatAt.countBytes

theorem State.Canon.deliverKey {s : State} {variant : Nat} {op : LaneOp} {count : Option (Loc × Nat)} (h : s.Canon) :
    OnSome State.Canon (s.deliverKey variant op count) := by
  unfold State.deliverKey
  extract_lets +onlyGivenNames s1 key val d hold
  have hs1 : s1.Canon := h.meetErrors
  split
  · exact hs1.dropKey.countBytes
  · split
    · exact hs1.modHomes.applyHeldKeys
    · split
      · exact hs1.modHomes
      · exact trivial

theorem State.Canon.recheckKeys {s : State} {line : Loc} (h : s.Canon) : (s.recheckKeys line).Canon := by
  unfold State.recheckKeys
  extract_lets +onlyGivenNames cells
  clear_value cells
  refine State.Canon.foldl h fun s1 x h2 => ?_
  extract_lets +onlyGivenNames next old s2 s3
  have hs2 : s2.Canon := h2.foldl (fun _ _ h3 => h3.dropKey.countBytes)
  clear_value s2
  have hs3 : s3.Canon := hs2.modHomes
  clear_value s3
  clear_value next old
  exact hs3.applyHeldKeys

theorem State.Canon.completeCell {s : State} {cell : Loc} (h : s.Canon) : (s.completeCell cell).Canon := by
  unfold State.completeCell
  extract_lets +onlyGivenNames phase expected arrived
  clear_value phase expected arrived
  split
  · exact h
  · split
    · split
      rename_i e
      have h1 : State.Canon _ := Canon.of_eq (P := OnSnd State.Canon) e h.draw
      exact h1.setNatAt
    · exact h.setNatAt.setNatAt

theorem State.Canon.knowCell {s : State} {cell : Loc} (h : s.Canon) : (s.knowCell cell).Canon := by
  unfold State.knowCell
  split
  · exact h
  · exact h.modHomes

theorem State.Canon.meetCell {s : State} {cell : Loc} (h : s.Canon) : (s.meetCell cell).Canon := by
  unfold State.meetCell
  split
  · exact h
  · exact h.knowCell.completeCell

theorem State.Canon.recheckCells {s : State} {line : Loc} (h : s.Canon) : (s.recheckCells line).Canon := by
  unfold State.recheckCells
  exact h.foldl (fun _ _ h1 => h1.completeCell)

theorem State.Canon.feedCell {s : State} {cell : Loc} {n : Nat} (h : s.Canon) : OnSome State.Canon
    (s.feedCell cell n) := by
  unfold State.feedCell
  extract_lets +onlyGivenNames s1 p
  have hs1 : s1.Canon := h.meetCell
  clear_value s1
  clear_value p
  split
  · exact trivial
  · exact hs1.setNatAt.completeCell

theorem State.Canon.afterWrite {s : State} {l : Loc} (h : s.Canon) : (s.afterWrite l).Canon := by
  unfold State.afterWrite
  exact h.recheckKeys.recheckCells

theorem State.Canon.afterWrites {s : State} {l : Loc} {n : Nat} (h : s.Canon) : (s.afterWrites l n).Canon := by
  unfold State.afterWrites
  extract_lets +onlyGivenNames lines
  clear_value lines
  exact h.foldl (fun _ _ h1 => h1.afterWrite)

theorem State.Canon.reach {s : State} {die ctx va n : Nat} {need : Need} (h : s.Canon) :
    (s.reach die ctx va n need).Canon := by
  unfold State.reach
  split
  next e => exact Canon.of_eq (P := Trans.Canon) e h.translate
  next e1 => exact Canon.of_eq (P := Trans.Canon) e1 h.translate
  next e2 =>
    have h3 : State.Canon _ := Canon.of_eq (P := Trans.Canon) e2 h.translate
    split
    next e3 => exact Canon.of_eq (P := OnSome State.Canon) e3 h3.homeNeeds
    · exact h3

theorem State.Canon.reachAll {s : State} {die c va n : Nat} {need : Need} (h : s.Canon) :
    (s.reachAll die c va n need).Canon := by
  unfold State.reachAll
  refine foldl_preserves (P := Reached.Canon) h fun s1 x h2 => ?_
  split
  · split
    next e => exact Canon.of_eq (P := DevAcc.Canon) e (h2 : State.Canon _).reach
    next e1 => exact Canon.of_eq (P := DevAcc.Canon) e1 (h2 : State.Canon _).reach
    next e2 => exact Canon.of_eq (P := DevAcc.Canon) e2 (h2 : State.Canon _).reach
  · exact h2

theorem State.Canon.readSpread {s : State} {ls : List (Loc × Nat)} (h : s.Canon) : OnSnd State.Canon
    (s.readSpread ls) := by
  unfold State.readSpread
  refine foldl_preserves (P := OnSnd State.Canon) (OnSnd.intro h) fun s1 x h2 => ?_
  split
  rename_i e
  have h3 : State.Canon _ := Canon.of_eq (P := OnSnd State.Canon) e (h2 : State.Canon _).homeRead
  exact OnSnd.intro h3

theorem State.Canon.writeSpread {s : State} {a : List (Loc × Nat)} {a1 : List PByte} (h : s.Canon) :
    (s.writeSpread a a1).Canon := by
  induction a generalizing s a1 with
  | nil =>
    unfold State.writeSpread
    exact h
  | cons x a ih =>
    unfold State.writeSpread
    exact ih h.homeStore.afterWrites

theorem State.Canon.bump {s : State} {l : Loc} {size v : Nat} (h : s.Canon) : (s.bump l size v).Canon := by
  unfold State.bump
  extract_lets +onlyGivenNames s1
  have hs1 : s1.Canon := h.meetErrors
  clear_value s1
  exact hs1.setNatAt.afterWrite

end Sys2Proof.Machine
end

section
/-! SUPPORT. Canonical memories under queues, launch packets and the completion of launches (Machine/Launch). -/

namespace Sys2Proof.Machine

theorem State.Canon.modQueue {s : State} {c : Nat} {eng : Bool} {q : Nat} {f : Queue → Queue} (h : s.Canon) :
    (s.modQueue c eng q f).Canon := by
  unfold State.modQueue
  exact h.modCtx

theorem State.Canon.poke {s : State} {die c va n v : Nat} (h : s.Canon) : (s.poke die c va n v).Canon := by
  unfold State.poke
  split
  next e =>
    have h1 : State.Canon _ := Canon.of_eq (P := Trans.Canon) e h.translate
    exact h1.setNatAt.afterWrite
  next e1 => exact Canon.of_eq (P := Trans.Canon) e1 h.translate
  next e2 => exact Canon.of_eq (P := Trans.Canon) e2 h.translate

theorem State.Canon.queueEvent {s : State} {c die : Nat} {cause : Cause} {addr : Nat} (h : s.Canon) :
    (s.queueEvent c die cause addr).Canon := by
  unfold State.queueEvent
  exact h.event

theorem State.Canon.halt {s : State} {c : Nat} {eng : Bool} {q addr : Nat} {f : PageFault} (h : s.Canon) :
    (s.halt c eng q addr f).Canon := by
  unfold State.halt
  extract_lets +onlyGivenNames x runs
  clear_value x runs
  split
  · split
    · exact h.queueEvent.modQueue
    · exact h
  · split
    · exact h.notice.modQueue
    · exact h

theorem State.Canon.writeHeader {s : State} {c : Nat} {eng : Bool} {q : Nat} (h : s.Canon) :
    (s.writeHeader c eng q).Canon := by
  unfold State.writeHeader
  extract_lets +onlyGivenNames x
  clear_value x
  split
  · exact h
  · split
    next e =>
      have h1 : State.Canon _ := Canon.of_eq (P := DevAcc.Canon) e h.reach
      exact (h1.foldl (fun _ _ h2 => h2.setNatAt)).modQueue.afterWrite
    next e1 => exact Canon.of_eq (P := DevAcc.Canon) e1 h.reach
    next e2 =>
      have h4 : State.Canon _ := Canon.of_eq (P := DevAcc.Canon) e2 h.reach
      exact h4.halt

theorem State.Canon.setQState {s : State} {c : Nat} {eng : Bool} {q : Nat} {st : QState} (h : s.Canon) :
    (s.setQState c eng q st).Canon := by
  unfold State.setQState
  exact h.modQueue.writeHeader

theorem State.Canon.setCmdStat {s : State} {c : Nat} {eng : Bool} {q v : Nat} (h : s.Canon) :
    (s.setCmdStat c eng q v).Canon := by
  unfold State.setCmdStat
  exact h.modQueue.writeHeader

theorem State.Canon.faultQueue {s : State} {c : Nat} {eng : Bool} {q : Nat} (h : s.Canon) :
    (s.faultQueue c eng q).Canon := by
  unfold State.faultQueue
  extract_lets +onlyGivenNames s1
  have hs1 : s1.Canon := h.modQueue
  clear_value s1
  exact hs1.setQState

theorem State.Canon.queuePageFault {s : State} {c : Nat} {eng : Bool} {q addr : Nat} {f : PageFault} (h : s.Canon) :
    (s.queuePageFault c eng q addr f).Canon := by
  unfold State.queuePageFault
  extract_lets +onlyGivenNames x s1
  have hs1 : s1.Canon := by
    unfold s1
    split
    · split
      · exact h.poke
      · exact h
    · exact h
  clear_value s1
  clear_value x
  exact hs1.halt.writeHeader

theorem State.Canon.ringReady {s : State} {c : Nat} {eng : Bool} {q : Nat} {seq : Option Nat} (h : s.Canon) :
    (s.ringReady c eng q seq).Canon := by
  unfold State.ringReady
  extract_lets +onlyGivenNames x va
  clear_value x va
  split
  next e => exact Canon.of_eq (P := DevAcc.Canon) e h.reach
  next e1 =>
    have h2 : State.Canon _ := Canon.of_eq (P := DevAcc.Canon) e1 h.reach
    exact h2.queuePageFault
  next e2 =>
    have h3 : State.Canon _ := Canon.of_eq (P := DevAcc.Canon) e2 h.reach
    split
    · exact h3
    · split
      next e3 => exact Canon.of_eq (P := DevAcc.Canon) e3 h3.reach
      next e4 =>
        have h5 : State.Canon _ := Canon.of_eq (P := DevAcc.Canon) e4 h3.reach
        exact h5.queuePageFault
      next e5 => exact Canon.of_eq (P := DevAcc.Canon) e5 h3.reach

theorem State.Canon.setStatus {s : State} {c q : Nat} {e : Entry} {v : Nat} (h : s.Canon) :
    (s.setStatus c q e v).Canon := by
  unfold State.setStatus
  exact h.poke

theorem State.Canon.entryPageFault {s : State} {c q : Nat} {e : Entry} {f : PageFault} (h : s.Canon) :
    (s.entryPageFault c q e f).Canon := by
  unfold State.entryPageFault
  extract_lets +onlyGivenNames va run
  have hrun : ∀ (v : Nat) (s : State), s.Canon → (run v s).Canon := by
    intro x x1 h2
    unfold run
    split
    · exact h2.setStatus
    · exact h2
  clear_value run
  clear_value va
  exact (hrun _ _ h).queuePageFault

theorem State.Canon.readHeader {s : State} {c : Nat} {eng : Bool} {q : Nat} (h : s.Canon) :
    (s.readHeader c eng q).Canon := by
  unfold State.readHeader
  extract_lets +onlyGivenNames va
  clear_value va
  split
  next e => exact Canon.of_eq (P := DevAcc.Canon) e h.reach
  next e1 =>
    have h2 : State.Canon _ := Canon.of_eq (P := DevAcc.Canon) e1 h.reach
    exact h2.queuePageFault
  next e2 =>
    have h3 : State.Canon _ := Canon.of_eq (P := DevAcc.Canon) e2 h.reach
    extract_lets +onlyGivenNames s1
    have hs1 : s1.Canon := h3.meetErrors
    clear_value s1
    exact hs1

theorem State.Canon.settleQueue {s : State} {c : Nat} {eng : Bool} {q : Nat} (h : s.Canon) :
    (s.settleQueue c eng q).Canon := by
  unfold State.settleQueue
  split
  next e => exact Canon.of_eq (P := HeaderRead.Canon) e h.readHeader
  next e1 =>
    have h2 : State.Canon _ := Canon.of_eq (P := HeaderRead.Canon) e1 h.readHeader
    split
    · exact h2.setQState
    · split
      · exact h2.notice.faultQueue
      · exact h2.setQState

theorem State.Canon.advanceHead {s : State} {c : Nat} {eng : Bool} {q seq : Nat} (h : s.Canon) :
    (s.advanceHead c eng q seq).Canon := by
  unfold State.advanceHead
  extract_lets +onlyGivenNames s1 s2
  have hs1 : s1.Canon := h.poke
  clear_value s1
  have hs2 : s2.Canon := hs1.modQueue
  clear_value s2
  exact hs2.settleQueue

theorem State.Canon.loadQueue {s : State} {c : Nat} {eng : Bool} {q : Nat} {create : Bool} (h : s.Canon) :
    (s.loadQueue c eng q create).Canon := by
  unfold State.loadQueue
  extract_lets +onlyGivenNames va x s1
  have hs1 : s1.Canon := h.modQueue
  clear_value s1
  clear_value va x
  split
  next e => exact Canon.of_eq (P := DevAcc.Canon) e hs1.reach
  next e1 =>
    have h2 : State.Canon _ := Canon.of_eq (P := DevAcc.Canon) e1 hs1.reach
    exact h2.queuePageFault.modQueue
  next e2 =>
    have h3 : State.Canon _ := Canon.of_eq (P := DevAcc.Canon) e2 hs1.reach
    extract_lets +onlyGivenNames s2 s3 f fit counts
    have hs2 : s2.Canon := h3.modQueue
    clear_value s2
    have hs3 : s3.Canon := hs2.meetErrors
    clear_value s3
    clear_value f fit counts
    split
    · exact hs3.notice.faultQueue
    · extract_lets +onlyGivenNames s4
      have hs4 : s4.Canon := hs3.modQueue
      clear_value s4
      split
      · exact hs4.notice.faultQueue
      · extract_lets +onlyGivenNames s5
        have hs5 : s5.Canon := hs4.modQueue
        clear_value s5
        exact hs5.settleQueue

theorem State.Canon.pollHeader {s : State} {c : Nat} {eng : Bool} {q : Nat} (h : s.Canon) :
    (s.pollHeader c eng q).Canon := by
  unfold State.pollHeader
  extract_lets +onlyGivenNames s1
  have hs1 : s1.Canon := by
    unfold s1
    split
    · split
      · exact h.loadQueue
      · exact h
    · exact h
  clear_value s1
  exact hs1.writeHeader

theorem State.Canon.settlePushed {s : State} {c q seq : Nat} (h : s.Canon) : (s.settlePushed c q seq).Canon := by
  unfold State.settlePushed
  split
  · exact h.settleChild.modQueue
  · exact h

theorem State.Canon.discardPacket {s : State} {c q : Nat} {e : Entry} {reason : Nat} (h : s.Canon) :
    (s.discardPacket c q e reason).Canon := by
  unfold State.discardPacket
  extract_lets +onlyGivenNames s1 s2
  have hs1 : s1.Canon := h.settlePushed
  clear_value s1
  have hs2 : s2.Canon := hs1.notice
  clear_value s2
  exact hs2.advanceHead

theorem State.Canon.packetNotice {s : State} {c q reason : Nat} {e : Entry} (h : s.Canon) :
    (s.packetNotice c q reason e).Canon := by
  unfold State.packetNotice
  split
  · exact h
  · exact h.notice.modQueue

theorem State.Canon.admitPacket {s : State} {c q t : Nat} {e : Entry} (h : s.Canon) :
    (s.admitPacket c q t e).Canon := by
  unfold State.admitPacket
  extract_lets +onlyGivenNames p n s1 s2 s3 s4 s5 s6
  have hs1 : s1.Canon := h.settlePushed
  clear_value s1
  have hs2 : s2.Canon := hs1.modSched
  clear_value s2
  have hs3 : s3.Canon := by
    unfold s3
    split
    · exact hs2.setCtxState
    · exact hs2
  clear_value s3
  have hs4 : s4.Canon := by
    unfold s4
    split
    · exact hs3.foldl (fun _ _ h1 => h1.acquireInval)
    · exact hs3
  clear_value s4
  have hs5 : s5.Canon := hs4.writeSave
  clear_value s5
  have hs6 : s6.Canon := hs5.modQueue
  clear_value s6
  clear_value p n
  exact hs6.advanceHead

theorem State.Canon.tryAdmit {s : State} {c q : Nat} (h : s.Canon) : (s.tryAdmit c q).Canon := by
  unfold State.tryAdmit
  split
  · exact h
  · extract_lets +onlyGivenNames p parent hold
    have hhold : ∀ (s : State), s.Canon → (hold s).Canon := by
      intro x h2
      unfold hold
      split
      · exact h2
      · exact h2.setQState
    clear_value hold
    clear_value p parent
    split
    next e => exact Canon.of_eq (P := Ready.Canon) e h.ringReady
    next e1 => exact Canon.of_eq (P := Ready.Canon) e1 h.ringReady
    next e2 =>
      have h5 : State.Canon _ := Canon.of_eq (P := Ready.Canon) e2 h.ringReady
      split
      · exact h5.advanceHead
      · split
        · exact h5.discardPacket
        · split
          · split
            · exact hhold _ h5
            · extract_lets +onlyGivenNames rest
              have hrest : ∀ (s : State), s.Canon → (rest s).Canon := by
                intro x1 h7
                unfold rest
                split
                · exact hhold _ h7
                · split
                  · exact hhold _ h7.packetNotice
                  · split
                    · exact hhold _ h7.packetNotice
                    · exact h7.admitPacket
              clear_value rest
              split
              · split
                next e3 =>
                  have h8 : State.Canon _ := Canon.of_eq (P := DevAcc.Canon) e3 h5.reach
                  exact hhold _ h8
                next e4 =>
                  have h9 : State.Canon _ := Canon.of_eq (P := DevAcc.Canon) e4 h5.reach
                  exact hhold _ h9.packetNotice
                next e5 =>
                  have h10 : State.Canon _ := Canon.of_eq (P := DevAcc.Canon) e5 h5.reach
                  extract_lets +onlyGivenNames s1
                  have hs1 : s1.Canon := h10.meetErrors
                  clear_value s1
                  split
                  · exact hhold _ hs1
                  · exact hrest _ hs1
              · exact hrest _ h5
          · split
            · exact hhold _ h5
            · extract_lets +onlyGivenNames rest1
              have hrest1 : ∀ (s : State), s.Canon → (rest1 s).Canon := by
                intro x2 h12
                unfold rest1
                split
                · exact hhold _ h12
                · split
                  · exact hhold _ h12.packetNotice
                  · split
                    · exact hhold _ h12.packetNotice
                    · exact h12.admitPacket
              clear_value rest1
              split
              · split
                next e6 =>
                  have h13 : State.Canon _ := Canon.of_eq (P := DevAcc.Canon) e6 h5.reach
                  exact hhold _ h13
                next e7 =>
                  have h14 : State.Canon _ := Canon.of_eq (P := DevAcc.Canon) e7 h5.reach
                  exact hhold _ h14.packetNotice
                next e8 =>
                  have h15 : State.Canon _ := Canon.of_eq (P := DevAcc.Canon) e8 h5.reach
                  extract_lets +onlyGivenNames s2
                  have hs2 : s2.Canon := h15.meetErrors
                  clear_value s2
                  split
                  · exact hhold _ hs2
                  · exact hrest1 _ hs2
              · exact hrest1 _ h5
          · split
            · exact hhold _ h5
            · extract_lets +onlyGivenNames rest2
              have hrest2 : ∀ (s : State), s.Canon → (rest2 s).Canon := by
                intro x3 h17
                unfold rest2
                split
                · exact hhold _ h17
                · split
                  · exact hhold _ h17.packetNotice
                  · split
                    · exact hhold _ h17.packetNotice
                    · exact h17.admitPacket
              clear_value rest2
              split
              · split
                next e9 =>
                  have h18 : State.Canon _ := Canon.of_eq (P := DevAcc.Canon) e9 h5.reach
                  exact hhold _ h18
                next e10 =>
                  have h19 : State.Canon _ := Canon.of_eq (P := DevAcc.Canon) e10 h5.reach
                  exact hhold _ h19.packetNotice
                next e11 =>
                  have h20 : State.Canon _ := Canon.of_eq (P := DevAcc.Canon) e11 h5.reach
                  extract_lets +onlyGivenNames s3
                  have hs3 : s3.Canon := h20.meetErrors
                  clear_value s3
                  split
                  · exact hhold _ hs3
                  · exact hrest2 _ hs3
              · exact hrest2 _ h5
          · split
            · exact hhold _ h5
            · extract_lets +onlyGivenNames rest3
              have hrest3 : ∀ (s : State), s.Canon → (rest3 s).Canon := by
                intro x4 h22
                unfold rest3
                split
                · exact hhold _ h22
                · split
                  · exact hhold _ h22.packetNotice
                  · split
                    · exact hhold _ h22.packetNotice
                    · exact h22.admitPacket
              clear_value rest3
              split
              · split
                next e12 =>
                  have h23 : State.Canon _ := Canon.of_eq (P := DevAcc.Canon) e12 h5.reach
                  exact hhold _ h23
                next e13 =>
                  have h24 : State.Canon _ := Canon.of_eq (P := DevAcc.Canon) e13 h5.reach
                  exact hhold _ h24.packetNotice
                next e14 =>
                  have h25 : State.Canon _ := Canon.of_eq (P := DevAcc.Canon) e14 h5.reach
                  extract_lets +onlyGivenNames s4
                  have hs4 : s4.Canon := h25.meetErrors
                  clear_value s4
                  split
                  · exact hhold _ hs4
                  · exact hrest3 _ hs4
              · exact hrest3 _ h5
          · exact hhold _ h5

theorem State.Canon.reachSlot {s : State} {die c va : Nat} (h : s.Canon) : (s.reachSlot die c va).Canon := by
  unfold State.reachSlot
  split
  next e =>
    have h1 : State.Canon _ := Canon.of_eq (P := DevAcc.Canon) e h.reach
    split
    · exact h1
    · exact h.reach
  · exact h.reach

theorem State.Canon.examine {s : State} {c q : Nat} (h : s.Canon) : (s.examine c q).Canon := by
  unfold State.examine
  extract_lets +onlyGivenNames x
  clear_value x
  split
  · exact h
  · split
    · exact h.tryAdmit
    · split
      next e => exact Canon.of_eq (P := HeaderRead.Canon) e h.readHeader
      next e1 =>
        have h2 : State.Canon _ := Canon.of_eq (P := HeaderRead.Canon) e1 h.readHeader
        split
        · split
          · exact h2
          · exact h2.setQState
        · split
          · exact h2.notice.faultQueue
          · extract_lets +onlyGivenNames va
            clear_value va
            split
            next e2 => exact Canon.of_eq (P := DevAcc.Canon) e2 h2.reachSlot
            next e3 =>
              have h4 : State.Canon _ := Canon.of_eq (P := DevAcc.Canon) e3 h2.reachSlot
              exact h4.queuePageFault
            next e4 =>
              have h5 : State.Canon _ := Canon.of_eq (P := DevAcc.Canon) e4 h2.reachSlot
              split
              rename_i e5
              have h6 : State.Canon _ := Canon.of_eq (P := OnSnd State.Canon) e5 h5.homeRead
              extract_lets +onlyGivenNames e6 s1 s2
              have hs1 : s1.Canon := h6.modQueue
              clear_value s1
              have hs2 : s2.Canon := hs1.setQState
              clear_value s2
              clear_value e6
              split
              · exact hs2.advanceHead
              · split
                · exact hs2.tryAdmit
                · exact hs2.discardPacket

theorem State.Canon.completeLaunch {s : State} {c t : Nat} (h : s.Canon) : (s.completeLaunch c t).Canon := by
  unfold State.completeLaunch
  split
  · exact h
  · split
    · exact h
    · extract_lets +onlyGivenNames s1 s2
      have hs1 : s1.Canon := h.foldl (fun _ _ h1 => h1.writebackWhere)
      clear_value s1
      have hs2 : s2.Canon := hs1.modLaunch
      clear_value s2
      split
      · exact hs2
      · extract_lets +onlyGivenNames done finish wait
        have hfinish : ∀ (s : State), s.Canon → (finish s).Canon := by
          intro x h3
          unfold finish
          extract_lets +onlyGivenNames s3
          have hs3 : s3.Canon := by
            unfold s3
            split
            · exact h3.sendMsix
            · exact h3
          clear_value s3
          exact hs3.modLaunch.retireLaunch.ctxOver
        clear_value finish
        have hwait : ∀ (s : State) (reason : Nat), s.Canon → (wait s reason).Canon := by
          intro x1 x2 h5
          unfold wait
          split
          · exact h5
          · exact h5.notice.modLaunch
        clear_value wait
        clear_value done
        split
        · exact hfinish _ hs2
        · split
          next e => exact Canon.of_eq (P := DevAcc.Canon) e hs2.reach
          next e1 =>
            have h7 : State.Canon _ := Canon.of_eq (P := DevAcc.Canon) e1 hs2.reach
            exact hwait _ _ h7
          next e2 =>
            have h8 : State.Canon _ := Canon.of_eq (P := DevAcc.Canon) e2 hs2.reach
            exact hfinish _ h8.bump

end Sys2Proof.Machine
end

section
/-! SUPPORT. Canonical memories under the home of a group area (Machine/GroupHome). -/

namespace Sys2Proof.Machine

theorem State.Canon.modGroup {s : State} {loc : Loc} {f : GroupHold → GroupHold} (h : s.Canon) :
    (s.modGroup loc f).Canon := by
  unfold State.modGroup
  exact h.modHomes

theorem State.Canon.setArea {s : State} {hh : GroupHold} {off n v : Nat} (h : s.Canon) :
    (s.setArea hh off n v).Canon := by
  unfold State.setArea
  exact h.setNatAt.afterWrite

theorem State.Canon.setMembers {s : State} {hh : GroupHold} {l : List Nat} (h : s.Canon) :
    (s.setMembers hh l).Canon := by
  unfold State.setMembers
  extract_lets +onlyGivenNames old s1
  have hs1 : s1.Canon := h.foldl (fun _ _ h1 => h1.setArea)
  clear_value s1
  clear_value old
  exact hs1.setArea

theorem State.Canon.freeGroup {s : State} {hh : GroupHold} (h : s.Canon) : (s.freeGroup hh).Canon := by
  unfold State.freeGroup
  exact (h.setMembers.foldl (fun _ _ h1 => h1.setArea)).modGroup

theorem State.Canon.groupLeave {s : State} {hh : GroupHold} {w : Wave} (h : s.Canon) : (s.groupLeave hh w).Canon := by
  unfold State.groupLeave
  split
  · exact h
  · extract_lets +onlyGivenNames l s1
    have hs1 : s1.Canon := by
      unfold s1
      split
      · exact h.modGroup
      · exact h
    clear_value s1
    clear_value l
    split
    · exact hs1.freeGroup
    · exact hs1.setMembers

theorem State.Canon.groupJoin {s : State} {hh : GroupHold} {w : Wave} (h : s.Canon) : (s.groupJoin hh w).Canon := by
  unfold State.groupJoin
  extract_lets +onlyGivenNames s1 s2
  have hs1 : s1.Canon := by
    unfold s1
    split
    · exact h.setArea.setArea
    · exact h
  clear_value s1
  have hs2 : s2.Canon := hs1.setMembers
  clear_value s2
  split
  · exact hs2.groupLeave
  · exact hs2

theorem State.Canon.groupMember {s : State} {hh : GroupHold} {w : Wave} {r : GroupReq} (h : s.Canon) :
    (s.groupMember hh w r).Canon := by
  unfold State.groupMember
  split
  · exact h.modGroup
  · split
    · exact h.groupJoin
    · exact h.groupLeave
    · exact h

theorem State.Canon.answerGroup {s : State} {hh : GroupHold} {c : Nat × Nat} {sub : Nat} {vals : List (Option DWord)}
    {poison : Lanes} (h : s.Canon) : (s.answerGroup hh c sub vals poison).Canon := by
  unfold State.answerGroup
  split
  · exact h.send
  · exact h

theorem State.Canon.brokenVals {s : State} {n : Nat} (h : s.Canon) : OnSnd State.Canon (s.brokenVals n) := by
  unfold State.brokenVals
  refine foldl_preserves (P := OnSnd State.Canon) (OnSnd.intro h) fun s1 x h2 => ?_
  split
  rename_i e
  have h3 : State.Canon _ := Canon.of_eq (P := OnSnd State.Canon) e (h2 : State.Canon _).draw
  exact OnSnd.intro h3

theorem State.Canon.endRound {s : State} {hh : GroupHold} {broken : Bool} (h : s.Canon) :
    (s.endRound hh broken).Canon := by
  unfold State.endRound
  split
  · exact h
  · extract_lets +onlyGivenNames sub hit poison late s1 s2 s3 s4 s5
    have hs1 : s1.Canon := h.foldl (fun _ _ h1 => h1.answerGroup)
    clear_value s1
    have hs2 : s2.Canon := hs1.foldl (fun _ _ h2 => h2.answerGroup)
    clear_value s2
    have hs3 : s3.Canon := hs2.setArea
    clear_value s3
    have hs4 : s4.Canon := hs3.setArea.setArea.setArea
    clear_value s4
    have hs5 : s5.Canon := hs4.modGroup
    clear_value s5
    clear_value sub hit poison late
    refine State.Canon.foldl hs5 fun s6 x h4 => ?_
    split
    · exact h4.groupMember
    · exact h4

theorem State.Canon.foldContribution {s : State} {hh : GroupHold} {c : Nat × Nat × Nat × List (Option DWord)}
    (h : s.Canon) : (s.foldContribution hh c).Canon := by
  unfold State.foldContribution
  split
  · exact h
  · extract_lets +onlyGivenNames n s1 sub same fold s2 s3
    have hs1 : s1.Canon := by
      unfold s1
      split
      · exact h.setArea
      · exact h
    clear_value s1
    have hs2 : s2.Canon := by
      unfold s2
      refine State.Canon.foldl hs1 fun s4 x h3 => ?_
      split
      extract_lets +onlyGivenNames put
      have hput : ∀ (s : State) (v : DWord), s.Canon → (put s v).Canon := by
        intro x1 x2 h5
        unfold put
        exact h5.setArea
      clear_value put
      split
      · exact hput _ _ h3
      · split
        rename_i e
        have h6 : State.Canon _ := Canon.of_eq (P := OnSnd State.Canon) e h3.draw
        exact hput _ _ h6
    clear_value s2
    have hs3 : s3.Canon := hs2.setArea
    clear_value s3
    clear_value n sub same fold
    exact hs3.modGroup

theorem State.Canon.advanceGroup {s : State} {loc : Loc} {a : Nat} (h : s.Canon) : (s.advanceGroup loc a).Canon := by
  induction a generalizing s with
  | zero =>
    unfold State.advanceGroup
    exact h
  | succ a ih =>
    unfold State.advanceGroup
    split
    · exact h
    · extract_lets +onlyGivenNames now
      clear_value now
      split
      · split
        · exact h
        · exact ih h.setArea
      · extract_lets +onlyGivenNames n
        clear_value n
        split
        · extract_lets +onlyGivenNames s1
          have hs1 : s1.Canon := h.foldContribution
          clear_value s1
          apply ih
          split
          · exact hs1.endRound
          · exact hs1
        · exact h
      · extract_lets +onlyGivenNames s2
        have hs2 : s2.Canon := by
          unfold s2
          refine State.Canon.foldl h fun s3 x1 h3 => ?_
          split
          rename_i e
          have h4 : State.Canon _ := Canon.of_eq (P := OnSnd State.Canon) e h3.brokenVals
          exact h4.answerGroup
        clear_value s2
        exact hs2.modGroup
      · exact h

theorem State.Canon.groupContribute {s : State} {hh : GroupHold} {w : Wave} {uid sub : Nat}
    {vals : List (Option DWord)} (h : s.Canon) : OnSome State.Canon (s.groupContribute hh w uid sub vals) := by
  unfold State.groupContribute
  extract_lets +onlyGivenNames st joining
  clear_value st joining
  split
  · exact h
  · extract_lets +onlyGivenNames used again now
    clear_value used again now
    split
    · exact h.modGroup.advanceGroup
    · exact trivial

theorem State.Canon.groupEnds {s : State} {hh : GroupHold} {w : Wave} (h : s.Canon) : (s.groupEnds hh w).Canon := by
  unfold State.groupEnds
  split
  · exact h
  · split
    · exact h.groupLeave
    · split
      · exact h.groupMember
      · extract_lets +onlyGivenNames s1
        have hs1 : s1.Canon := h.endRound
        clear_value s1
        split
        · exact hs1
        · exact hs1.groupLeave.advanceGroup

theorem State.Canon.areaNeeds {s : State} {hh : GroupHold} {core : Option Nat} (h : s.Canon) : OnSome State.Canon
    (s.areaNeeds hh core) := by
  unfold State.areaNeeds
  extract_lets +onlyGivenNames n
  clear_value n
  split
  next e => exact Canon.of_eq (P := OnSome State.Canon) e h.homeNeeds
  · split
    · exact trivial
    · exact h.homeNeeds

theorem State.Canon.pollGroups {s : State} (h : s.Canon) : s.pollGroups.Canon := by
  unfold State.pollGroups
  refine State.Canon.foldl h fun s1 x h2 => ?_
  split
  · extract_lets +onlyGivenNames needs
    have hneeds : OnSnd State.Canon needs := by
      unfold needs
      refine foldl_preserves (P := OnSnd State.Canon) (OnSnd.intro h2) fun s2 x1 h5 => ?_
      split
      next e =>
        have h6 : State.Canon _ := Canon.of_eq (P := OnSome State.Canon) e (h5 : State.Canon _).areaNeeds
        exact OnSnd.intro h6
      · exact h5
    clear_value needs
    split
    · exact hneeds
    · extract_lets +onlyGivenNames s3
      have hs3 : s3.Canon := by
        unfold s3
        refine State.Canon.foldl h2 fun s4 x2 h9 => ?_
        split
        · exact h9.groupEnds
        · exact h9
      clear_value s3
      exact hs3.modWave
  · exact h2

end Sys2Proof.Machine
end

section
/-! SUPPORT. Canonical memories under addresses, link tables and remote requests (Machine/Address). -/

namespace Sys2Proof.Machine

theorem State.Canon.laneAt {s : State} {w : Wave} {c va a : Nat} {need : Need} (h : s.Canon) :
    (s.laneAt w c va a need).Canon := by
  unfold State.laneAt
  split
  next e => exact Canon.of_eq (P := Trans.Canon) e h.translate
  next e1 => exact Canon.of_eq (P := Trans.Canon) e1 h.translate
  next e2 => exact Canon.of_eq (P := Trans.Canon) e2 h.translate

theorem Iss.Canon.locate {x : Iss} {lanes : List Nat} {addr : Nat → Val64} {align : Nat} {need : Need}
    {extra : Nat → Named → Option LaneFail} {data : Nat → Place → Bool} {later : Nat → Place → State → LaneLater}
    (h : x.Canon) (h1 : ∀ (a : Nat) (a_1 : Place) (a_2 : State), a_2.Canon → (later a a_1 a_2).Canon) :
    (x.locate lanes addr align need extra data later).Canon := by
  unfold Iss.locate
  extract_lets +onlyGivenNames start r
  have hstart : OnExcept State.Canon (OnFst State.Canon) start := h.state
  clear_value start
  have hr : OnExcept State.Canon (OnFst State.Canon) r := by
    unfold r
    refine foldl_preserves (P := OnExcept State.Canon (OnFst State.Canon)) hstart fun s x1 h4 => ?_
    split
    · exact h4
    · extract_lets +onlyGivenNames v a n put early
      have hput : ∀ (s : State) (p : Place), s.Canon → OnExcept State.Canon (OnFst State.Canon) (put s p) := by
        intro x2 x3 h6
        unfold put
        split
        · exact h6
        · split
          next e => exact Canon.of_eq (P := LaneLater.Canon) e (h1 _ _ _ h6)
          next e1 => exact Canon.of_eq (P := LaneLater.Canon) e1 (h1 _ _ _ h6)
          next e2 => exact Canon.of_eq (P := LaneLater.Canon) e2 (h1 _ _ _ h6)
      clear_value put
      clear_value v a n early
      split
      · exact h4
      · split
        next e3 => exact Canon.of_eq (P := LaneAt.Canon) e3 (h4 : State.Canon _).laneAt
        next e4 => exact Canon.of_eq (P := LaneAt.Canon) e4 (h4 : State.Canon _).laneAt
        next e5 =>
          have h12 : State.Canon _ := Canon.of_eq (P := LaneAt.Canon) e5 (h4 : State.Canon _).laneAt
          exact hput _ _ h12
      · exact hput _ _ (h4 : State.Canon _)
      · exact h4
  clear_value r
  split
  · exact hr
  · split <;> exact hr

theorem Iss.Canon.exhausted {x : Iss} {s : State} (_ : x.Canon) (h1 : s.Canon) : (x.exhausted s).Canon := by
  unfold Iss.exhausted
  exact h1

theorem State.Canon.choosePath {s : State} {r : Route} {target line : Nat} (h : s.Canon) : OnSnd State.Canon
    (s.choosePath r target line) := by
  unfold State.choosePath
  split
  · exact OnSnd.intro h
  · split
    · extract_lets +onlyGivenNames st k
      clear_value st k
      exact OnSnd.intro h
    · split
      rename_i e
      have h1 : State.Canon _ := Canon.of_eq (P := OnSnd State.Canon) e h.choose
      exact OnSnd.intro h1

theorem State.Canon.setInjector {s : State} {lane : Nat} {j : Injector} (h : s.Canon) :
    (s.setInjector lane j).Canon := by
  unfold State.setInjector
  exact h.modLink

theorem State.Canon.passFlit {s : State} {a : Flit} (h : s.Canon) : (s.passFlit a).Canon := by
  unfold State.passFlit
  split
  · exact h.modLink
  · exact h.modLink
  · exact h

theorem State.Canon.triggerFlit {s : State} {lane : Nat} (h : s.Canon) : (s.triggerFlit lane).Canon := by
  unfold State.triggerFlit
  split
  · exact h
  · split
    · exact h
    · extract_lets +onlyGivenNames k s1
      have hs1 : s1.Canon := h.setInjector
      clear_value s1
      clear_value k
      split
      · exact hs1.passFlit
      · exact hs1

theorem State.Canon.crosses {s : State} {port : Nat} {sent : Bool} {kind rank : Nat} {f : Flit} (h : s.Canon) :
    OnSnd State.Canon (s.crosses port sent kind rank f) := by
  unfold State.crosses
  refine foldl_preserves (P := OnSnd State.Canon) (OnSnd.intro h) fun s1 x h2 => ?_
  split
  · exact h2
  · split
    · exact h2
    · extract_lets +onlyGivenNames s2
      have hs2 : s2.Canon := (h2 : State.Canon _).triggerFlit
      clear_value s2
      split
      · exact OnSnd.intro hs2
      · split
        · exact OnSnd.intro hs2
        · split
          rename_i e
          have h3 : State.Canon _ := Canon.of_eq (P := OnSnd State.Canon) e hs2.choose
          split <;> exact OnSnd.intro h3.setInjector

theorem State.Canon.comesIn {s : State} {kind rank : Nat} (h : s.Canon) : OnSnd State.Canon
    (s.comesIn kind rank) := by
  unfold State.comesIn
  split
  · exact OnSnd.intro h
  · split
    rename_i e
    have h1 : State.Canon _ := Canon.of_eq (P := OnSnd State.Canon) e h.choose
    exact h1.crosses

theorem State.Canon.sendPackets {s : State} {o : Outstanding} {which : Nat → Bool} (h : s.Canon) : OnSnd State.Canon
    (s.sendPackets o which) := by
  unfold State.sendPackets
  split
  · exact OnSnd.intro h
  · extract_lets +onlyGivenNames kind
    clear_value kind
    refine foldl_preserves (P := OnSnd State.Canon) (OnSnd.intro h) fun s1 x h2 => ?_
    split
    next e =>
      have h3 : State.Canon _ := Canon.of_eq (P := OnSnd State.Canon) e (h2 : State.Canon _).choosePath
      exact OnSnd.intro h3
    next e1 =>
      have h4 : State.Canon _ := Canon.of_eq (P := OnSnd State.Canon) e1 (h2 : State.Canon _).choosePath
      split
      next e2 =>
        have h5 : State.Canon _ := Canon.of_eq (P := OnSnd State.Canon) e2 h4.crosses
        exact OnSnd.intro h5
      next e3 =>
        have h6 : State.Canon _ := Canon.of_eq (P := OnSnd State.Canon) e3 h4.crosses
        exact OnSnd.intro h6

theorem State.Canon.transmit {s : State} {key : Key} {which : Nat → Bool} {f : Outstanding → Outstanding}
    (h : s.Canon) : (s.transmit key which f).Canon := by
  unfold State.transmit
  split
  · exact h
  · split
    rename_i e
    have h1 : State.Canon _ := Canon.of_eq (P := OnSnd State.Canon) e h.sendPackets
    exact h1.modLink

theorem State.Canon.sendFrom {s : State} {die wave uid ctx tag : Nat} {reqs : List RemoteReq}
    {parts : RemoteReq → List RemoteReq} {cell : Option CarryAt} {desc : Option Loc} (h : s.Canon) :
    (s.sendFrom die wave uid ctx tag reqs parts cell desc).Canon := by
  unfold State.sendFrom
  extract_lets +onlyGivenNames s1
  have hs1 : s1.Canon := by
    unfold s1
    refine State.Canon.foldl h fun s2 x h3 => ?_
    extract_lets +onlyGivenNames route x1 o
    clear_value route x1 o
    split
    · exact h3.modWave.modLink
    · split
      rename_i e
      refine Canon.use (P := OnSnd State.Canon) e ?_ fun (h4 : State.Canon _) => ?_
      · split
        · exact OnSnd.intro h3
        · exact h3.sendPackets
      exact h4.modLink
  clear_value s1
  exact hs1.modLaunch

theorem State.Canon.sendRemote {s : State} {w : Wave} {uid : Nat} {reqs : List RemoteReq}
    {parts : RemoteReq → List RemoteReq} {desc : Option Loc} (h : s.Canon) :
    (s.sendRemote w uid reqs parts desc).Canon := by
  unfold State.sendRemote
  exact h.sendFrom

theorem State.Canon.keepRoutes {s : State} (h : s.Canon) : s.keepRoutes.Canon := by
  unfold State.keepRoutes
  extract_lets +onlyGivenNames rs new
  clear_value rs new
  exact h.modLink

end Sys2Proof.Machine
end

section
/-! SUPPORT. Canonical memories under the interrupt page at its home (Machine/Vector). -/

namespace Sys2Proof.Machine

theorem State.Canon.reachPage {s : State} {ctx : Nat} (h : s.Canon) : (s.reachPage ctx).Canon := by
  unfold State.reachPage
  exact h.reach

theorem State.Canon.wakeCheck {s : State} {ctx vec : Nat} {l : Loc} (h : s.Canon) :
    (s.wakeCheck ctx vec l).Canon := by
  unfold State.wakeCheck
  extract_lets +onlyGivenNames v
  clear_value v
  split
  · exact h.notice.modCtx
  · exact h

theorem State.Canon.enabledAt {s before : State} {l : Loc} (h : s.Canon) (_ : before.Canon) :
    (s.enabledAt before l).Canon := by
  unfold State.enabledAt
  extract_lets +onlyGivenNames hit
  clear_value hit
  refine State.Canon.foldl h fun s1 x h3 => ?_
  extract_lets +onlyGivenNames r
  clear_value r
  split
  · exact h3
  · exact h3.wakeCheck

theorem State.Canon.sendVector {s : State} {ctx vec : Nat} {payload : DWord} {who : Sender} (h : s.Canon) :
    (s.sendVector ctx vec payload who).Canon := by
  unfold State.sendVector
  split
  · exact h
  · split
    next e => exact Canon.of_eq (P := DevAcc.Canon) e h.reachPage
    next e1 =>
      have h2 : State.Canon _ := Canon.of_eq (P := DevAcc.Canon) e1 h.reachPage
      split <;> exact h2
    next e2 =>
      have h3 : State.Canon _ := Canon.of_eq (P := DevAcc.Canon) e2 h.reachPage
      extract_lets +onlyGivenNames s1
      have hs1 : s1.Canon := h3.meetErrors
      clear_value s1
      split
      · exact hs1
      · extract_lets +onlyGivenNames l v
        clear_value l v
        split
        · exact hs1
        · extract_lets +onlyGivenNames no s2 s3 s4
          have hs2 : s2.Canon := hs1.modCtx
          clear_value s2
          have hs3 : s3.Canon := hs2.setNatAt.setNatAt
          clear_value s3
          have hs4 : s4.Canon := by
            unfold s4
            split
            · exact hs3.setNatAt.wakeCheck
            · exact hs3
          clear_value s4
          clear_value no
          exact hs4.afterWrite

theorem State.Canon.parkNotice {s : State} {msg ctx addr : Nat} (h : s.Canon) :
    (s.parkNotice msg ctx addr).Canon := by
  unfold State.parkNotice
  split
  · exact h
  · exact h.notice.modLink

end Sys2Proof.Machine
end

section
/-! SUPPORT. Canonical memories under the host's requests at their home and bias flips (Machine/HostServe). -/

namespace Sys2Proof.Machine

theorem State.Canon.modReq {s : State} {id : Nat} {f : HostReq → HostReq} (h : s.Canon) : (s.modReq id f).Canon := by
  unfold State.modReq
  exact h.modHomes

theorem State.Canon.grantHalf {s : State} {line half : Nat} (h : s.Canon) : (s.grantHalf line half).Canon := by
  unfold State.grantHalf
  extract_lets +onlyGivenNames s1 one
  have hs1 : s1.Canon := h.dirHave.modHomes
  clear_value s1
  clear_value one
  exact hs1.frame rfl rfl rfl

theorem State.Canon.hostSend {s : State} {ctx vec : Nat} {payload : DWord} (h : s.Canon) :
    (s.hostSend ctx vec payload).Canon := by
  unfold State.hostSend
  extract_lets +onlyGivenNames queue
  have hqueue : ∀ (s : State), s.Canon → (queue s).Canon := by
    intro x h2
    unfold queue
    exact h2.send
  clear_value queue
  split
  · exact hqueue _ h
  · split
    next e => exact Canon.of_eq (P := Sent.Canon) e h.sendVector
    next e1 =>
      have h4 : State.Canon _ := Canon.of_eq (P := Sent.Canon) e1 h.sendVector
      exact h4.event
    next e2 =>
      have h5 : State.Canon _ := Canon.of_eq (P := Sent.Canon) e2 h.sendVector
      exact hqueue _ h5
    next e3 =>
      have h6 : State.Canon _ := Canon.of_eq (P := Sent.Canon) e3 h.sendVector
      extract_lets +onlyGivenNames t
      have ht : t.Canon := hqueue _ h6
      clear_value t
      exact ht.parkNotice

theorem State.Canon.slotSends {s : State} {r : HostReq} (h : s.Canon) : (s.slotSends r).Canon := by
  unfold State.slotSends
  extract_lets +onlyGivenNames n
  clear_value n
  refine State.Canon.foldl h fun s1 x h3 => ?_
  refine State.Canon.foldl h3 fun s2 x1 h5 => ?_
  extract_lets +onlyGivenNames l
  clear_value l
  split
  · exact h5
  · split
    · extract_lets +onlyGivenNames die
      clear_value die
      exact h5.report
    · split
      · exact h5.hostSend
      · exact h5

theorem State.Canon.performHost {s : State} {r : HostReq} (h : s.Canon) : (s.performHost r).Canon := by
  unfold State.performHost
  extract_lets +onlyGivenNames s1 l
  have hs1 : s1.Canon := h.modHomes
  clear_value s1
  clear_value l
  split
  · extract_lets +onlyGivenNames s2 s3
    have hs2 : s2.Canon := hs1.homeStore.slotSends
    clear_value s2
    have hs3 : s3.Canon := hs2.afterWrite
    clear_value s3
    exact hs3.modHomes
  · split
    rename_i e
    have h1 : State.Canon _ := Canon.of_eq (P := OnSnd State.Canon) e hs1.homeRead
    extract_lets +onlyGivenNames die first s4 s5
    have hs4 : s4.Canon := by
      unfold s4
      refine State.Canon.foldl h1 fun s6 x h4 => ?_
      split
      · exact h4.report
      · exact h4
    clear_value s4
    have hs5 : s5.Canon := by
      unfold s5
      split
      · exact hs4.grantHalf
      · exact hs4
    clear_value s5
    clear_value die first
    exact hs5.modHomes

theorem State.Canon.finishHost {s : State} {r : HostReq} (h : s.Canon) : (s.finishHost r).Canon := by
  unfold State.finishHost
  split
  next e =>
    refine Canon.use (P := OnSome State.Canon) e ?_ fun (h1 : State.Canon _) => ?_
    · split
      · exact h.dirFull
      · exact trivial
    exact h1
  · exact h.performHost

theorem State.Canon.serveHost {s : State} {id : Nat} (h : s.Canon) : (s.serveHost id).Canon := by
  unfold State.serveHost
  split
  · exact h
  · extract_lets +onlyGivenNames l flipping earlier bad busy
    clear_value l flipping earlier bad busy
    split
    · exact h
    · split
      · exact h.modReq
      · split
        · exact h
        · split
          · exact h.rebuildDir
          · split
            · exact h.rebuildRecord
            · split
              · exact h.awaits.requestDrain.modReq
              · split
                · exact h
                · split
                  · exact h.finishHost
                  · extract_lets +onlyGivenNames cs
                    clear_value cs
                    split
                    · exact h.finishHost
                    · split
                      rename_i e
                      have h1 : State.Canon _ := Canon.of_eq (P := OnSnd State.Canon) e h.probeOwner
                      extract_lets +onlyGivenNames s1
                      have hs1 : s1.Canon := h1.modReq
                      clear_value s1
                      exact hs1.foldl (fun _ _ h2 => h2.send)

theorem State.Canon.pollHost {s : State} (h : s.Canon) : s.pollHost.Canon := by
  unfold State.pollHost
  exact h.foldl (fun _ _ h1 => h1.serveHost)

theorem State.Canon.setBias {s : State} {g bias flip : Nat} (h : s.Canon) : (s.setBias g bias flip).Canon := by
  unfold State.setBias
  extract_lets +onlyGivenNames a
  clear_value a
  exact h.setPnat

theorem State.Canon.putFlip {s : State} {f : Flip} (h : s.Canon) : (s.putFlip f).Canon := by
  unfold State.putFlip
  exact h.modHomes

theorem State.Canon.clearHalf {s : State} {line half : Nat} (h : s.Canon) : (s.clearHalf line half).Canon := by
  unfold State.clearHalf
  extract_lets +onlyGivenNames s1
  have hs1 : s1.Canon := h.modHomes
  clear_value s1
  exact hs1.frame rfl rfl rfl

theorem State.Canon.flipLine {s : State} {f : Flip} (h : s.Canon) : (s.flipLine f).Canon := by
  unfold State.flipLine
  extract_lets +onlyGivenNames line l sent
  have hsent : ∀ (s : State), s.Canon → (sent s).Canon := by
    intro x h2
    unfold sent
    exact h2.putFlip
  clear_value sent
  clear_value line l
  split
  · refine State.Canon.putFlip ?_
    split
    · exact h
    · exact h.clearHalf.clearHalf
  · split
    · exact h.rebuildDir
    · split
      · split
        · exact h.requestDrain
        · split
          rename_i e
          have h3 : State.Canon _ := Canon.of_eq (P := OnSnd State.Canon) e h.probeOwner
          exact hsent _ (h3.foldl (fun _ _ h4 => h4.send))
      · apply hsent
        refine State.Canon.foldl h fun s1 x1 h7 => ?_
        split
        · exact h7.recallHalf
        · exact h7

theorem State.Canon.flipOn {s : State} {g a : Nat} (h : s.Canon) : (s.flipOn g a).Canon := by
  induction a generalizing s with
  | zero =>
    unfold State.flipOn
    exact h
  | succ a ih =>
    unfold State.flipOn
    split
    · exact h
    · split
      · exact h
      · exact ih h.flipLine

theorem State.Canon.startFlip {s : State} {g : Nat} {toHost : Bool} {waves : List (Nat × Nat × Nat)} (h : s.Canon) :
    (s.startFlip g toHost waves).Canon := by
  unfold State.startFlip
  exact h.setBias.putFlip.flipOn

theorem State.Canon.pollFlips {s : State} (h : s.Canon) : s.pollFlips.Canon := by
  unfold State.pollFlips
  exact h.foldl (fun _ _ h1 => h1.flipOn)

end Sys2Proof.Machine
end

section
/-! SUPPORT. Canonical memories under the home of a carry cell (Machine/CarryHome). -/

namespace Sys2Proof.Machine

theorem State.Canon.setCarryState {s : State} {c : CarryAt} {v : Nat} (h : s.Canon) :
    (s.setCarryState c v).Canon := by
  unfold State.setCarryState
  exact h.setNatAt

theorem State.Canon.carryDup {s : State} {c : CarryAt} (h : s.Canon) : (s.carryDup c).Canon := by
  unfold State.carryDup
  exact h.setNatAt

theorem State.Canon.carryFails {s : State} {c : CarryAt} {code : Nat} (h : s.Canon) :
    (s.carryFails c code).Canon := by
  unfold State.carryFails
  exact h.setCarryState.notice

theorem State.Canon.carrySerial {s : State} {c : CarryAt} (h : s.Canon) : OnSnd State.Canon (s.carrySerial c) := by
  unfold State.carrySerial
  split
  · exact OnSnd.intro h
  · exact h.draw

theorem State.Canon.carryForwardFrom {s : State} {c : CarryAt} {wave uid : Nat} {v : DWord} {poison : Bool}
    (h : s.Canon) : (s.carryForwardFrom c wave uid v poison).Canon := by
  unfold State.carryForwardFrom
  extract_lets +onlyGivenNames next
  clear_value next
  split
  rename_i e
  have h1 : State.Canon _ := Canon.of_eq (P := OnSnd State.Canon) e h.carrySerial
  split
  · exact h1
  · split
    · split
      · exact h1.carryFails
      · split
        · exact h1.carryFails
        · extract_lets +onlyGivenNames die go
          have hgo : ∀ (s : State), s.Canon → (go s).Canon := by
            intro x h3
            unfold go
            exact h3.send
          clear_value go
          clear_value die
          split
          next e1 =>
            have h4 : State.Canon _ := Canon.of_eq (P := Trans.Canon) e1 h1.translate
            exact hgo _ h4
          next e2 =>
            have h5 : State.Canon _ := Canon.of_eq (P := Trans.Canon) e2 h1.translate
            exact hgo _ h5
          next e3 =>
            have h6 : State.Canon _ := Canon.of_eq (P := Trans.Canon) e3 h1.translate
            split
            · exact h6.carryFails
            · exact hgo _ h6
    · split
      · exact h1.carryFails
      · extract_lets +onlyGivenNames rank
        clear_value rank
        split
        · exact h1.carryFails
        · extract_lets +onlyGivenNames r
          clear_value r
          exact h1.sendFrom
    · exact h1.carryFails

theorem State.Canon.carryPoisoned {s : State} {c : CarryAt} {by_ : Option (Nat × Nat)} (h : s.Canon) :
    (s.carryPoisoned c by_).Canon := by
  unfold State.carryPoisoned
  split
  · exact h
  · exact h.setCarryState
  · exact h.setCarryState.carryForwardFrom

theorem State.Canon.carryFold {s : State} {c : CarryAt} {wave uid : Nat} (h : s.Canon) :
    (s.carryFold c wave uid).Canon := by
  unfold State.carryFold
  extract_lets +onlyGivenNames sub n v s1 s2
  have hs1 : s1.Canon := h.setNatAt.setCarryState
  clear_value s1
  have hs2 : s2.Canon := hs1.setNatAt
  clear_value s2
  clear_value sub n v
  exact hs2.carryForwardFrom

theorem State.Canon.carryPosted {s : State} {c : CarryAt} {wave uid opc : Nat} {total serial : DWord} (h : s.Canon) :
    (s.carryPosted c wave uid opc total serial).Canon := by
  unfold State.carryPosted
  split
  rename_i e
  have h1 : State.Canon _ := Canon.of_eq (P := OnSnd State.Canon) e h.homeRead
  extract_lets +onlyGivenNames keep
  have hkeep : ∀ (s : State), s.Canon → (keep s).Canon := by
    intro x h3
    unfold keep
    exact h3.modHomes
  clear_value keep
  split
  · refine State.Canon.carryPoisoned ?_
    split
    · exact h1
    · exact hkeep _ h1
  · extract_lets +onlyGivenNames n
    clear_value n
    split
    · exact (hkeep _ h1).setNatAt.setCarryState
    · exact (hkeep _ h1).setNatAt.carryFold
    · split
      · exact h1.carryDup
      · exact h1
    · exact h1.carryDup

theorem State.Canon.carryArrives {s : State} {c : CarryAt} {v : DWord} {poison : Bool} (h : s.Canon) :
    (s.carryArrives c v poison).Canon := by
  unfold State.carryArrives
  split
  rename_i e
  have h1 : State.Canon _ := Canon.of_eq (P := OnSnd State.Canon) e h.homeRead
  split
  · exact h1.carryPoisoned
  · extract_lets +onlyGivenNames n take
    have htake : ∀ (s : State), s.Canon → (take s).Canon := by
      intro x h3
      unfold take
      exact h3.setNatAt
    clear_value take
    clear_value n
    split
    · exact (htake _ h1).setCarryState
    · exact (htake _ h1).carryFold
    · split
      · exact h1
      · exact h1.carryDup
    · exact h1.carryDup

end Sys2Proof.Machine
end

section
/-! SUPPORT. Canonical memories under what is evaluated again after an event (Machine/Wake). -/

namespace Sys2Proof.Machine

theorem State.Canon.acquire {s : State} {w : Wave} {scope : Option Scope} (h : s.Canon) :
    (s.acquire w scope).Canon := by
  unfold State.acquire
  split
  · exact h.acquireInval
  · exact h

theorem State.Canon.settleOp {s : State} {id uid : Nat} (h : s.Canon) : (s.settleOp id uid).Canon := by
  unfold State.settleOp
  split
  · exact h
  · split
    · exact h
    · extract_lets +onlyGivenNames x
      clear_value x
      split
      · exact h
      · extract_lets +onlyGivenNames s1 s2
        have hs1 : s1.Canon := by
          unfold s1
          split
          · exact h
          · exact h.reportOp
        clear_value s1
        have hs2 : s2.Canon := by
          unfold s2
          split
          · exact hs1.acquire
          · exact hs1
        clear_value s2
        exact hs2.modWave

theorem State.Canon.watch {s : State} {w : Wave} {no : Nat} {l : Loc} {n : Nat} {f : State → Waited} (h : s.Canon)
    (h1 : ∀ (a : State), a.Canon → (f a).Canon) : (s.watch w no l n f).Canon := by
  unfold State.watch
  split
  · exact h.askLine
  · split
    · exact h
    · extract_lets +onlyGivenNames s1
      have hs1 : s1.Canon := h.writebackWhere
      clear_value s1
      split
      · exact hs1
      · split
        next e => exact Canon.of_eq (P := OnSome State.Canon) e hs1.homeNeeds
        · split
          rename_i e1
          have h3 : State.Canon _ := Canon.of_eq (P := OnSnd State.Canon) e1 hs1.homeRead
          split
          · exact h3
          · exact h1 _ h3

theorem State.Canon.waited {s : State} {w : Wave} {t : Wait} (h : s.Canon) : (s.waited w t).Canon := by
  unfold State.waited
  split
  · split <;> exact h
  · refine State.Canon.watch h (fun a h3 => ?_)
    split <;> exact h3
  · refine State.Canon.watch h (fun a1 h6 => ?_)
    split <;> exact h6
  · refine State.Canon.watch h (fun a2 h9 => ?_)
    split <;> exact h9
  · refine State.Canon.watch h (fun a3 h12 => ?_)
    extract_lets +onlyGivenNames s1
    have hs1 : s1.Canon := h12.meetCell
    clear_value s1
    split <;> exact hs1
  · split
    · split <;> exact h
    · exact h
  · split <;> exact h
  · split <;> exact h
  · split <;> exact h
  · split <;> exact h
  · split <;> exact h
  · extract_lets +onlyGivenNames no
    clear_value no
    split <;> exact h

theorem State.Canon.fenceEnd {s : State} {w : Wave} {t : Wait} (h : s.Canon) : (s.fenceEnd w t).Canon := by
  unfold State.fenceEnd
  split
  · split
    · split
      rename_i e
      have h1 : State.Canon _ := Canon.of_eq (P := OnSnd State.Canon) e h.closeEpoch
      exact h1.modWave
    · exact h
  · exact h

theorem State.Canon.waitPlace {s : State} {w : Wave} {t : Wait} (h : s.Canon) : (s.waitPlace w t).Canon := by
  unfold State.waitPlace
  split
  · split
    · split
      next e => exact Canon.of_eq (P := LaneAt.Canon) e h.laneAt
      next e1 => exact Canon.of_eq (P := LaneAt.Canon) e1 h.laneAt
      next e2 => exact Canon.of_eq (P := LaneAt.Canon) e2 h.laneAt
    · exact h
  · split
    · split
      next e3 => exact Canon.of_eq (P := LaneAt.Canon) e3 h.laneAt
      next e4 => exact Canon.of_eq (P := LaneAt.Canon) e4 h.laneAt
      next e5 => exact Canon.of_eq (P := LaneAt.Canon) e5 h.laneAt
    · exact h
  · split
    · split
      next e6 => exact Canon.of_eq (P := LaneAt.Canon) e6 h.laneAt
      next e7 => exact Canon.of_eq (P := LaneAt.Canon) e7 h.laneAt
      next e8 => exact Canon.of_eq (P := LaneAt.Canon) e8 h.laneAt
    · exact h
  · split
    · exact h
    · split
      next e9 => exact Canon.of_eq (P := Trans.Canon) e9 h.translate
      next e10 => exact Canon.of_eq (P := Trans.Canon) e10 h.translate
      next e11 =>
        have h12 : State.Canon _ := Canon.of_eq (P := Trans.Canon) e11 h.translate
        split <;> exact h12
  · exact h

theorem State.Canon.failWait {s : State} {id slot : Nat} {t : Wait} {cause : Cause} {e : Option DWord} (h : s.Canon) :
    (s.failWait id slot t cause e).Canon := by
  unfold State.failWait
  split
  rename_i e1
  have h1 : State.Canon _ := Canon.of_eq (P := OnSnd State.Canon) e1 h.issTrapOf
  exact h1.modWave.leaveWait

theorem State.Canon.pollSplit {s : State} {id slot : Nat} (h : s.Canon) : (s.pollSplit id slot).Canon := by
  unfold State.pollSplit
  split
  · exact h
  · split
    · exact h
    · split
      · exact h
      · split
        next e => exact Canon.of_eq (P := Watching.Canon) e h.waitPlace
        next e1 =>
          have h2 : State.Canon _ := Canon.of_eq (P := Watching.Canon) e1 h.waitPlace
          exact h2.modWave
        next e2 =>
          have h3 : State.Canon _ := Canon.of_eq (P := Watching.Canon) e2 h.waitPlace
          exact h3.failWait
        next e3 =>
          have h4 : State.Canon _ := Canon.of_eq (P := Watching.Canon) e3 h.waitPlace
          extract_lets +onlyGivenNames t
          clear_value t
          split
          next e4 =>
            have h5 : State.Canon _ := Canon.of_eq (P := Waited.Canon) e4 h4.waited
            exact h5.modWave
          next e5 =>
            have h6 : State.Canon _ := Canon.of_eq (P := Waited.Canon) e5 h4.waited
            extract_lets +onlyGivenNames s1
            have hs1 : s1.Canon := h6.modWave
            clear_value s1
            exact hs1.fenceEnd.acquire.leaveWaitAt
          next e6 =>
            have h7 : State.Canon _ := Canon.of_eq (P := Waited.Canon) e6 h4.waited
            exact h7.failWait

theorem State.Canon.pollPeek {s : State} {id : Nat} {o : Op} (h : s.Canon) : (s.pollPeek id o).Canon := by
  unfold State.pollPeek
  split
  · split
    · exact h
    · extract_lets +onlyGivenNames x
      have hx : x.Canon := by
        unfold x
        split
        · exact h.laneAt
        · exact h
      clear_value x
      split
      · exact hx
      · split
        · exact hx
        · split
          rename_i e
          have h1 : State.Canon _ := Canon.of_eq (P := OnSnd State.Canon) e (hx : State.Canon _).issTrapOf
          exact h1.regionReplay
      · split
        · exact (hx : State.Canon _).askLine
        · split
          next e1 => exact Canon.of_eq (P := OnSome State.Canon) e1 (hx : State.Canon _).homeNeeds
          · extract_lets +onlyGivenNames c
            clear_value c
            split
            rename_i e2
            have h3 : State.Canon _ := Canon.of_eq (P := OnSnd State.Canon) e2 (hx : State.Canon _).homeRead
            extract_lets +onlyGivenNames s1
            have hs1 : s1.Canon := by
              unfold s1
              split
              · exact h3.carryPoisoned
              · exact h3
            clear_value s1
            split
            · exact hs1.reportOp.modWave.resetWait
            · split
              · extract_lets +onlyGivenNames v
                clear_value v
                exact hs1.modWave.acquire.resetWait
              · exact hs1
  · exact h

theorem State.Canon.entryHolds {s : State} {c q : Nat} {e : Entry} (h : s.Canon) : OnSnd State.Canon
    (s.entryHolds c q e) := by
  unfold State.entryHolds
  extract_lets +onlyGivenNames ctrl x
  clear_value ctrl x
  split
  rename_i e1
  refine Canon.use (P := OnSnd State.Canon) e1 ?_ fun (h1 : State.Canon _) => ?_
  · split
    · split
      next e2 =>
        have h2 : State.Canon _ := Canon.of_eq (P := DevAcc.Canon) e2 h.reach
        exact OnSnd.intro h2
      next e3 =>
        have h3 : State.Canon _ := Canon.of_eq (P := DevAcc.Canon) e3 h.reach
        exact OnSnd.intro h3.entryPageFault
      next e4 =>
        have h4 : State.Canon _ := Canon.of_eq (P := DevAcc.Canon) e4 h.reach
        extract_lets +onlyGivenNames s1
        have hs1 : s1.Canon := h4.meetErrors
        clear_value s1
        exact OnSnd.intro hs1
    · exact OnSnd.intro h
  split
  · exact OnSnd.intro h1
  · split
    · refine foldl_preserves (P := OnSnd State.Canon) (OnSnd.intro h1) fun s2 x1 h6 => ?_
      split
      extract_lets +onlyGivenNames v
      clear_value v
      split
      · exact OnSnd.intro (h6 : State.Canon _)
      · split
        next e5 =>
          have h7 : State.Canon _ := Canon.of_eq (P := DevAcc.Canon) e5 (h6 : State.Canon _).reach
          exact OnSnd.intro h7
        next e6 =>
          have h8 : State.Canon _ := Canon.of_eq (P := DevAcc.Canon) e6 (h6 : State.Canon _).reach
          exact OnSnd.intro h8.entryPageFault
        next e7 =>
          have h9 : State.Canon _ := Canon.of_eq (P := DevAcc.Canon) e7 (h6 : State.Canon _).reach
          extract_lets +onlyGivenNames s3
          have hs3 : s3.Canon := h9.meetErrors
          clear_value s3
          exact OnSnd.intro hs3
    · exact OnSnd.intro h1

theorem State.Canon.pollQueue {s : State} {c q : Nat} (h : s.Canon) : (s.pollQueue c q).Canon := by
  unfold State.pollQueue
  extract_lets +onlyGivenNames x
  clear_value x
  split
  · split
    rename_i e
    have h1 : State.Canon _ := Canon.of_eq (P := OnSnd State.Canon) e h.entryHolds
    split
    · exact h1.setQState
    · exact h1
  · exact h

theorem State.Canon.pollBlock {s : State} {b : Block} (h : s.Canon) : (s.pollBlock b).Canon := by
  unfold State.pollBlock
  extract_lets +onlyGivenNames ws
  clear_value ws
  split
  · extract_lets +onlyGivenNames s1
    have hs1 : s1.Canon := h.modBlock (fun _ h1 => h1)
    clear_value s1
    exact hs1.foldl (fun _ _ h2 => h2.modWave)
  · exact h

theorem State.Canon.pushFault {s : State} {c : Nat} {eng : Bool} {q : Nat} {f : PageFault} (h : s.Canon) :
    (s.pushFault c eng q f).Canon := by
  unfold State.pushFault
  exact h.queuePageFault

theorem State.Canon.pushOne {s : State} {c : Nat} {eng : Bool} {q : Nat} {p : Push} (h : s.Canon) : OnSnd State.Canon
    (s.pushOne c eng q p) := by
  unfold State.pushOne
  extract_lets +onlyGivenNames x
  clear_value x
  split
  · exact OnSnd.intro h
  · split
    next e =>
      have h1 : State.Canon _ := Canon.of_eq (P := DevAcc.Canon) e h.reach
      exact OnSnd.intro h1
    next e1 =>
      have h2 : State.Canon _ := Canon.of_eq (P := DevAcc.Canon) e1 h.reach
      exact OnSnd.intro h2.pushFault
    next e2 =>
      have h3 : State.Canon _ := Canon.of_eq (P := DevAcc.Canon) e2 h.reach
      extract_lets +onlyGivenNames s1 tail
      have hs1 : s1.Canon := h3.meetErrors
      clear_value s1
      clear_value tail
      split
      · exact OnSnd.intro hs1
      · split
        next e3 =>
          have h4 : State.Canon _ := Canon.of_eq (P := DevAcc.Canon) e3 hs1.reach
          exact OnSnd.intro h4
        next e4 =>
          have h5 : State.Canon _ := Canon.of_eq (P := DevAcc.Canon) e4 hs1.reach
          exact OnSnd.intro h5.pushFault
        next e5 =>
          have h6 : State.Canon _ := Canon.of_eq (P := DevAcc.Canon) e5 hs1.reach
          extract_lets +onlyGivenNames s2 s3 s4 s5
          have hs2 : s2.Canon := h6.homeStore.afterWrite
          clear_value s2
          have hs3 : s3.Canon := hs2.setNatAt.afterWrite
          clear_value s3
          have hs5 : s5.Canon := hs3.modQueue
          clear_value s5
          clear_value s4
          extract_lets +onlyGivenNames s6 s7
          have hs6 : s6.Canon := by
            unfold s6
            split
            · exact hs3
            · split
              exact hs5.modLaunch
          clear_value s6
          have hs7 : s7.Canon := hs6.modWave
          clear_value s7
          exact OnSnd.intro hs7.settleOp

theorem State.Canon.pushAll {s : State} {c : Nat} {eng : Bool} {q a : Nat} (h : s.Canon) :
    (s.pushAll c eng q a).Canon := by
  induction a generalizing s with
  | zero =>
    unfold State.pushAll
    exact h
  | succ a ih =>
    unfold State.pushAll
    split
    · exact h
    · split
      next e => exact Canon.of_eq (P := OnSnd State.Canon) e h.pushOne
      next e1 =>
        have h2 : State.Canon _ := Canon.of_eq (P := OnSnd State.Canon) e1 h.pushOne
        exact ih h2.modQueue

theorem State.Canon.pushCtx {s : State} {c : Nat} (h : s.Canon) : (s.pushCtx c).Canon := by
  unfold State.pushCtx
  extract_lets +onlyGivenNames go
  have hgo : ∀ (eng : Bool) (s : State) (y : Queue × Nat), s.Canon → (go eng s y).Canon := by
    intro x x1 x2 h2
    unfold go
    split
    · exact h2
    · exact h2.pushAll
  clear_value go
  exact (h.foldl (fun _ _ h3 => (hgo _ _ _ h3))).foldl (fun _ _ h4 => (hgo _ _ _ h4))

theorem State.Canon.dropTlb {s : State} {ctx va : Nat} (h : s.Canon) : (s.dropTlb ctx va).Canon := by
  unfold State.dropTlb
  extract_lets +onlyGivenNames gone out maps s1
  have hs1 : s1.Canon := h.frame rfl rfl rfl
  clear_value s1
  clear_value gone out maps
  exact hs1.modHomes

theorem State.Canon.pollInvs {s : State} {id : Nat} (h : s.Canon) : (s.pollInvs id).Canon := by
  unfold State.pollInvs
  split
  · exact h
  · refine State.Canon.foldl h fun s1 x h2 => ?_
    extract_lets +onlyGivenNames put
    have hput : ∀ (s : State) (l : List Inv), s.Canon → (put s l).Canon := by
      intro x1 x2 h4
      unfold put
      exact h4.modWave
    clear_value put
    split
    · split
      rename_i e
      have h5 : State.Canon _ := Canon.of_eq (P := OnSnd State.Canon) e h2.choose
      split
      · exact h5
      · exact hput _ _ h5.dropTlb
    · extract_lets +onlyGivenNames s2
      have hs2 : s2.Canon := h2.foldl (fun _ _ h6 => h6.writebackWhere)
      clear_value s2
      split
      · exact hs2
      · exact (hput _ _ hs2.dropTlb).modDev

theorem State.Canon.freeCheck {s : State} {c : Nat} (h : s.Canon) : (s.freeCheck c).Canon := by
  unfold State.freeCheck
  split
  · extract_lets +onlyGivenNames s1
    have hs1 : s1.Canon := h.modSched
    clear_value s1
    exact hs1.modCtx.setCtxState
  · exact h

theorem State.Canon.poll {s : State} (h : s.Canon) : s.poll.Canon := by
  unfold State.poll
  extract_lets +onlyGivenNames s1 s2 s3 s4 s5 s6 s7
  have hs1 : s1.Canon := h.flushEvents.landPosted.pollHost.pollFlips.pollGroups
  clear_value s1
  have hs2 : s2.Canon := hs1.foldl (fun _ _ h1 => h1.pollBlock)
  clear_value s2
  have hs3 : s3.Canon := by
    unfold s3
    refine State.Canon.foldl hs2 fun s8 x h4 => ?_
    split
    extract_lets +onlyGivenNames s9 s10 s11 s12
    have hs9 : s9.Canon := by
      unfold s9
      refine State.Canon.foldl h4 fun s13 x1 h7 => ?_
      split
      exact h7.pollHeader
    clear_value s9
    have hs10 : s10.Canon := by
      unfold s10
      refine State.Canon.foldl hs9 fun s14 x2 h10 => ?_
      split
      exact h10.pollHeader
    clear_value s10
    have hs11 : s11.Canon := hs10.pushCtx
    clear_value s11
    have hs12 : s12.Canon := by
      unfold s12
      refine State.Canon.foldl hs11 fun s15 x3 h13 => ?_
      split
      split
      · exact h13.pollQueue
      · exact h13
    clear_value s12
    refine State.Canon.foldl hs12 fun s16 x4 h15 => ?_
    split
    split
    · exact h15.tryAdmit
    · exact h15
  clear_value s3
  have hs4 : s4.Canon := hs3.foldl (fun _ _ h16 => h16.freeCheck)
  clear_value s4
  have hs5 : s5.Canon := by
    unfold s5
    refine State.Canon.foldl hs4 fun s17 x5 h19 => ?_
    split
    · exact h19
    · exact h19.pollInvs
  clear_value s5
  have hs6 : s6.Canon := by
    unfold s6
    refine State.Canon.foldl hs5 fun s18 x6 h22 => ?_
    split
    · exact h22.completeLaunch
    · exact h22
  clear_value s6
  have hs7 : s7.Canon := by
    unfold s7
    refine State.Canon.foldl hs6 fun s19 x7 h27 => ?_
    refine State.Canon.foldl h27 fun s20 x8 h29 => ?_
    split
    · exact h29.pollPeek
    · exact h29
  clear_value s7
  refine State.Canon.foldl hs7 fun s21 x9 h32 => ?_
  refine State.Canon.foldl h32 fun s22 x10 h34 => ?_
  split
  · exact h34.pollSplit
  · exact h34

end Sys2Proof.Machine
end

section
/-! SUPPORT. Canonical memories under memory instructions at issue (Machine/Access). -/

namespace Sys2Proof.Machine

theorem State.Canon.recordRelease {s : State} {l : Loc} {core : Nat} {release : Option (Nat × Bool)} (h : s.Canon) :
    (s.recordRelease l core release).Canon := by
  unfold State.recordRelease
  split
  · exact h.setRecorded
  · exact h

theorem State.Canon.homeWaits {s : State} {token : Nat} {l : Loc} {n : Nat} {except : Option Nat} {read : Bool}
    (h : s.Canon) : OnSome State.Canon (s.homeWaits token l n except read) := by
  unfold State.homeWaits
  extract_lets +onlyGivenNames t
  have ht : t.Canon := by
    unfold t
    split
    · exact h.awaits
    · exact h
  clear_value t
  exact ht.homeNeeds

theorem State.Canon.homeTurn {s : State} {m : Msg} {l : Loc} {n core : Nat} {release : Option (Nat × Bool)}
    {read : Bool} (h : s.Canon) : OnSnd State.Canon (s.homeTurn m l n core release read) := by
  unfold State.homeTurn
  split
  · exact OnSnd.intro h
  · extract_lets +onlyGivenNames s1
    have hs1 : s1.Canon := by
      unfold s1
      split
      · exact h.surrenderLine
      · exact h
    clear_value s1
    split
    · exact OnSnd.intro hs1
    · split
      next e =>
        have h1 : State.Canon _ := Canon.of_eq (P := OnSome State.Canon) e hs1.homeWaits
        exact OnSnd.intro h1
      · split
        next e1 =>
          refine Canon.use (P := OnSome State.Canon) e1 ?_ fun (h2 : State.Canon _) => ?_
          · split
            · exact hs1.recordFull
            · exact trivial
          exact OnSnd.intro h2
        · exact OnSnd.intro hs1.hasRead

theorem State.Canon.readPieces {s : State} {w : Wave} {uid no : Nat} {cache : Cache} {strong : Bool}
    {ps : List Piece} (h : s.Canon) : (s.readPieces w uid no cache strong ps).Canon := by
  unfold State.readPieces
  extract_lets +onlyGivenNames secs
  clear_value secs
  refine State.Canon.foldl h fun s1 x h2 => ?_
  extract_lets +onlyGivenNames own around s2 asked hit
  have hs2 : s2.Canon := by
    unfold s2
    split
    · exact h2.surrenderLine
    · exact h2
  clear_value s2
  clear_value own around asked hit
  split <;> exact hs2.send

theorem Iss.Canon.load {x : Iss} {m : Mem} {s : State} {ps : List (Nat × Place)} (h : x.Canon) (h1 : s.Canon) :
    (x.load m s ps).Canon := by
  unfold Iss.load
  extract_lets +onlyGivenNames far n overlap
  clear_value far n overlap
  split
  · exact h.exhausted h1
  · split
    · exact h1
    · extract_lets +onlyGivenNames o
      clear_value o
      extract_lets +onlyGivenNames o1
      clear_value o1
      split
      extract_lets +onlyGivenNames pieces reqs w s1
      have hs1 : s1.Canon := h1.putWave
      clear_value s1
      clear_value pieces reqs w
      exact hs1.readPieces.sendRemote

theorem State.Canon.execLd {m : Mem} {s : State} (h : s.Canon) : OutCanon (execLd m s) := by
  unfold Machine.execLd
  refine State.Canon.issueWave (fun a h3 => ?_) h
  split
  next e => exact Canon.of_eq (P := Located.Canon) e (h3.locate (fun _ _ _ h5 => h5))
  next e1 =>
    have h6 : State.Canon _ := Canon.of_eq (P := Located.Canon) e1 (h3.locate (fun _ _ _ h7 => h7))
    exact h3.failWith h6
  next e2 =>
    have h8 : State.Canon _ := Canon.of_eq (P := Located.Canon) e2 (h3.locate (fun _ _ _ h9 => h9))
    exact h3.load h8

theorem Iss.Canon.limited {x : Iss} {s : State} {ps : List (Nat × Place)} {k : Res} (h : x.Canon) (h1 : s.Canon)
    (h2 : k.Canon) : (x.limited s ps k).Canon := by
  unfold Iss.limited
  split
  · exact h.exhausted h1
  · split
    · exact h1
    · exact h2

theorem State.Canon.execSt {m : Mem} {s : State} (h : s.Canon) : OutCanon (execSt m s) := by
  unfold Machine.execSt
  refine State.Canon.issueWave (fun a h3 => ?_) h
  extract_lets +onlyGivenNames n data
  clear_value n data
  split
  next e => exact Canon.of_eq (P := Located.Canon) e (h3.locate (fun _ _ _ h5 => h5))
  next e1 =>
    have h6 : State.Canon _ := Canon.of_eq (P := Located.Canon) e1 (h3.locate (fun _ _ _ h7 => h7))
    exact h3.failWith h6
  next e2 =>
    have h8 : State.Canon _ := Canon.of_eq (P := Located.Canon) e2 (h3.locate (fun _ _ _ h9 => h9))
    refine Iss.Canon.limited h3 h8 ?_
    extract_lets +onlyGivenNames o home w
    clear_value o home w
    extract_lets +onlyGivenNames w1
    clear_value w1
    extract_lets +onlyGivenNames w2
    clear_value w2
    exact h8.putWave

theorem Iss.Canon.atomicBody {m : Mem} {kind : HomeOp} {rkind : ReqKind} {align : Nat} {fetch : Bool}
    {data : Iss → Nat → List PByte} {x : Iss} (h : x.Canon) : (atomicBody m kind rkind align fetch data x).Canon := by
  unfold Machine.atomicBody
  split
  next e => exact Canon.of_eq (P := Located.Canon) e (h.locate (fun _ _ _ h2 => h2))
  next e1 =>
    have h3 : State.Canon _ := Canon.of_eq (P := Located.Canon) e1 (h.locate (fun _ _ _ h4 => h4))
    exact h.failWith h3
  next e2 =>
    have h5 : State.Canon _ := Canon.of_eq (P := Located.Canon) e2 (h.locate (fun _ _ _ h6 => h6))
    refine Iss.Canon.limited h h5 ?_
    extract_lets +onlyGivenNames n o
    clear_value n o
    extract_lets +onlyGivenNames o1
    clear_value o1
    split
    extract_lets +onlyGivenNames w
    clear_value w
    exact h5.putWave

theorem State.Canon.execAtom {m : Mem} {s : State} (h : s.Canon) : OutCanon (execAtom m s) := by
  unfold Machine.execAtom
  exact State.Canon.issueWave (fun _ h1 => h1.atomicBody) h

theorem State.Canon.execRed {m : Mem} {s : State} (h : s.Canon) : OutCanon (execRed m s) := by
  unfold Machine.execRed
  exact State.Canon.issueWave (fun _ h1 => h1.atomicBody) h

theorem State.Canon.execCas {m : Mem} {s : State} (h : s.Canon) : OutCanon (execCas m s) := by
  unfold Machine.execCas
  exact State.Canon.issueWave (fun _ h1 => h1.atomicBody) h

theorem State.Canon.execRedk {m : Mem} {s : State} (h : s.Canon) : OutCanon (execRedk m s) := by
  unfold Machine.execRedk
  exact State.Canon.issueWave (fun _ h1 => h1.atomicBody) h

theorem State.Canon.issueWait {i : Instr} {body : Iss → Res} {s : State} (h : ∀ (a : Iss), a.Canon → (body a).Canon)
    (h1 : s.Canon) : OutCanon (issueWait i body s) := by
  unfold Machine.issueWait
  split
  next e =>
    have h2 : State.Canon _ := Canon.of_eq (P := OutCanon) e (State.Canon.issueWave (fun _ h3 => (h _ h3)) h1)
    exact h2.poll
  · exact State.Canon.issueWave (fun _ h4 => (h _ h4)) h1

theorem State.Canon.execFence {m : Mem} {s : State} (h : s.Canon) : OutCanon (execFence m s) := by
  unfold Machine.execFence
  refine State.Canon.issueWait (fun a h3 => ?_) h
  extract_lets +onlyGivenNames far s1
  have hs1 : s1.Canon := by
    unfold s1
    split
    · exact h3.state.writebackWhere
    · exact h3.state
  clear_value s1
  clear_value far
  exact hs1

theorem Iss.Canon.quietLines {x : Iss} {a : Nat → Val64} {need : Need} (h : x.Canon) : OnSnd State.Canon
    (x.quietLines a need) := by
  unfold Iss.quietLines
  refine foldl_preserves (P := OnSnd State.Canon) (OnSnd.intro h.state) fun s x1 h2 => ?_
  split
  · exact h2
  · split
    · exact h2
    · split
      · split
        next e =>
          have h3 : State.Canon _ := Canon.of_eq (P := Trans.Canon) e (h2 : State.Canon _).translate
          exact OnSnd.intro h3
        next e1 =>
          have h4 : State.Canon _ := Canon.of_eq (P := Trans.Canon) e1 (h2 : State.Canon _).translate
          exact OnSnd.intro h4
        next e2 =>
          have h5 : State.Canon _ := Canon.of_eq (P := Trans.Canon) e2 (h2 : State.Canon _).translate
          exact OnSnd.intro h5
      · exact h2

theorem State.Canon.execPref {m : Mem} {s : State} (h : s.Canon) : OutCanon (execPref m s) := by
  unfold Machine.execPref
  refine State.Canon.issueWave (fun a h3 => ?_) h
  split
  next e => exact Canon.of_eq (P := OnSnd State.Canon) e h3.quietLines
  next e1 =>
    have h5 : State.Canon _ := Canon.of_eq (P := OnSnd State.Canon) e1 h3.quietLines
    extract_lets +onlyGivenNames far s1 lines fills
    have hs1 : s1.Canon := h5.putWave
    clear_value s1
    clear_value far lines fills
    split
    · exact hs1
    · change State.Canon _
      refine State.Canon.foldl hs1 fun s2 x h8 => ?_
      extract_lets +onlyGivenNames n
      clear_value n
      refine State.Canon.foldl h8 fun s3 x1 h10 => ?_
      extract_lets +onlyGivenNames sec
      clear_value sec
      exact h10.send

theorem State.Canon.execCwait {m : Mem} {s : State} (h : s.Canon) : OutCanon (execCwait m s) := by
  unfold Machine.execCwait
  refine State.Canon.issueWait (fun a h3 => ?_) h
  extract_lets +onlyGivenNames n i extra
  clear_value n i extra
  split
  next e => exact Canon.of_eq (P := Located.Canon) e (h3.locate (fun _ _ _ h5 => h5))
  next e1 =>
    have h6 : State.Canon _ := Canon.of_eq (P := Located.Canon) e1 (h3.locate (fun _ _ _ h7 => h7))
    exact h3.failWith h6
  next e2 =>
    have h8 : State.Canon _ := Canon.of_eq (P := Located.Canon) e2 (h3.locate (fun _ _ _ h9 => h9))
    extract_lets +onlyGivenNames again far wait denied
    have hdenied : ∀ (s : State) (k : WaitKind) (l : Loc), s.Canon → (denied s k l).Canon := by
      intro x x1 x2 h11
      unfold denied
      exact h11.putWave
    clear_value denied
    clear_value again far wait
    extract_lets +onlyGivenNames denied1
    have hdenied1 : ∀ (s : State) (e : Nat), s.Canon → (denied1 s e).Canon := by
      intro x3 x4 h13
      unfold denied1
      exact h13.putWave
    clear_value denied1
    split
    · exact h3.exhausted h8
    · split
      · exact h8
      · split
        · exact hdenied _ _ _ h8
        · extract_lets +onlyGivenNames t
          clear_value t
          split
          · exact hdenied1 _ _ h8
          · split
            next e3 =>
              have h14 : State.Canon _ := Canon.of_eq (P := Trans.Canon) e3 h8.translate
              exact hdenied _ _ _ h14
            next e4 => exact Canon.of_eq (P := Trans.Canon) e4 h8.translate
            next e5 =>
              have h16 : State.Canon _ := Canon.of_eq (P := Trans.Canon) e5 h8.translate
              split
              · exact hdenied1 _ _ h16
              · exact hdenied _ _ _ h16.notice
        · exact h8

theorem Iss.Canon.writebackBody {m : Mem} {drop : Bool} {x : Iss} (h : x.Canon) : (writebackBody m drop x).Canon := by
  unfold Machine.writebackBody
  extract_lets +onlyGivenNames all fails
  clear_value all fails
  split
  · exact h.failWith h.state
  · split
    next e =>
      refine Canon.use (P := OnSnd State.Canon) e ?_ fun (h1 : State.Canon _) => ?_
      · split
        · exact OnSnd.intro h.state
        · exact h.quietLines
      exact h1
    next e1 =>
      refine Canon.use (P := OnSnd State.Canon) e1 ?_ fun (h2 : State.Canon _) => ?_
      · split
        · exact OnSnd.intro h.state
        · exact h.quietLines
      extract_lets +onlyGivenNames far want n
      clear_value far want n
      split
      · exact h.exhausted h2
      · split
        · exact h2
        · extract_lets +onlyGivenNames o s s1 s2
          have hs2 : s2.Canon := h2.putWave
          clear_value s2
          clear_value o s s1
          extract_lets +onlyGivenNames s3 s4
          have hs3 : s3.Canon := hs2.writebackWhere
          clear_value s3
          have hs4 : s4.Canon := by
            unfold s4
            split
            · exact hs3.dropFrames.noFill
            · exact hs3
          clear_value s4
          exact hs4.settleOp

theorem State.Canon.execWback {m : Mem} {s : State} (h : s.Canon) : OutCanon (execWback m s) := by
  unfold Machine.execWback
  exact State.Canon.issueWave (fun _ h1 => h1.writebackBody) h

theorem State.Canon.execInvl {m : Mem} {s : State} (h : s.Canon) : OutCanon (execInvl m s) := by
  unfold Machine.execInvl
  exact State.Canon.issueWave (fun _ h1 => h1.writebackBody) h

theorem Iss.Canon.pack {x : Iss} {n base : Nat} {bad : Nat → Bool} {lanes : List Nat} {m : Nat} {s : State}
    {ps : List (Nat × Place)} (_ : x.Canon) (h1 : s.Canon) : (x.pack n base bad lanes m s ps).Canon := by
  induction lanes generalizing m s ps with
  | nil =>
    unfold Iss.pack
    exact h1
  | cons x lanes ih =>
    unfold Iss.pack
    extract_lets +onlyGivenNames addr
    clear_value addr
    split
    · exact h1
    · exact ih h1
    · split
      next e => exact Canon.of_eq (P := LaneAt.Canon) e h1.laneAt
      next e1 => exact Canon.of_eq (P := LaneAt.Canon) e1 h1.laneAt
      next e2 =>
        have h4 : State.Canon _ := Canon.of_eq (P := LaneAt.Canon) e2 h1.laneAt
        split
        · exact h4
        · exact ih h4

theorem State.Canon.execCstore {m : Mem} {s : State} (h : s.Canon) : OutCanon (execCstore m s) := by
  unfold Machine.execCstore
  refine State.Canon.issueWave (fun a h3 => ?_) h
  extract_lets +onlyGivenNames n lanes base lastLane last data bad check
  clear_value n lanes base lastLane last data bad check
  split
  · exact h3.poison
  · split
    · exact h3.failWith h3.state
    · exact h3.failWith h3.state
    · extract_lets +onlyGivenNames far
      clear_value far
      split
      · exact h3.poison
      · extract_lets +onlyGivenNames keep
        clear_value keep
        extract_lets +onlyGivenNames keep1
        clear_value keep1
        extract_lets +onlyGivenNames keep2
        clear_value keep2
        extract_lets +onlyGivenNames keep3
        clear_value keep3
        split
        next e => exact Canon.of_eq (P := Packed.Canon) e (h3.pack h3.state)
        next e1 =>
          have h5 : State.Canon _ := Canon.of_eq (P := Packed.Canon) e1 (h3.pack h3.state)
          extract_lets +onlyGivenNames kept
          clear_value kept
          exact h3.limited h5 h5
        next e2 =>
          have h6 : State.Canon _ := Canon.of_eq (P := Packed.Canon) e2 (h3.pack h3.state)
          extract_lets +onlyGivenNames f
          clear_value f
          refine Iss.Canon.limited h3 h6 ?_
          split
          · exact h6
          · exact h6.putWave
        next e3 =>
          have h7 : State.Canon _ := Canon.of_eq (P := Packed.Canon) e3 (h3.pack h3.state)
          refine Iss.Canon.limited h3 h7 ?_
          extract_lets +onlyGivenNames w w1
          clear_value w w1
          exact h7.putWave

end Sys2Proof.Machine
end

section
/-! SUPPORT. Canonical memories under the landing of tile and accumulator rows (Machine/Array). -/

namespace Sys2Proof.Machine

theorem State.Canon.freeJournal {s : State} {quad : Nat} (h : s.Canon) : (s.freeJournal quad).Canon := by
  unfold State.freeJournal
  extract_lets +onlyGivenNames enter
  clear_value enter
  exact h.frame rfl rfl rfl

theorem State.Canon.mayLand {s : State} {w : Wave} {o : Op} (h : s.Canon) : OnSnd State.Canon (s.mayLand w o) := by
  unfold State.mayLand
  split
  · exact OnSnd.intro h
  · exact OnSnd.intro h
  · split
    · exact OnSnd.intro h
    · split
      · exact OnSnd.intro h
      · exact OnSnd.intro h.freeJournal
  · exact OnSnd.intro h

theorem State.Canon.mayLandAt {s : State} {wave uid : Nat} (h : s.Canon) : OnSnd State.Canon
    (s.mayLandAt wave uid) := by
  unfold State.mayLandAt
  split
  · exact h.mayLand
  · exact OnSnd.intro h

end Sys2Proof.Machine
end

section
/-! SUPPORT. Canonical memories under groups (Machine/Group). -/

namespace Sys2Proof.Machine

theorem Iss.Canon.areaAt {x : Iss} {a : Val64} (h : x.Canon) : (x.areaAt a).Canon := by
  unfold Iss.areaAt
  extract_lets +onlyGivenNames i va bad extra
  clear_value i va bad extra
  split
  next e => exact Canon.of_eq (P := Located.Canon) e (h.locate (fun _ _ _ h2 => h2))
  next e1 =>
    have h3 : State.Canon _ := Canon.of_eq (P := Located.Canon) e1 (h.locate (fun _ _ _ h4 => h4))
    exact h.failWith h3
  next e2 =>
    have h5 : State.Canon _ := Canon.of_eq (P := Located.Canon) e2 (h.locate (fun _ _ _ h6 => h6))
    split
    · extract_lets +onlyGivenNames split hold fin
      have hfin : ∀ (s : State) (rest : Loc), s.Canon → (fin s rest).Canon := by
        intro x1 x2 h8
        unfold fin
        split
        · exact h8.modGroup
        · exact h8.modHomes
      clear_value fin
      clear_value split hold
      split
      · exact hfin _ _ h5
      · split
        next e3 => exact Canon.of_eq (P := LaneAt.Canon) e3 h5.laneAt
        next e4 =>
          have h10 : State.Canon _ := Canon.of_eq (P := LaneAt.Canon) e4 h5.laneAt
          exact h.failWith h10
        next e5 =>
          have h11 : State.Canon _ := Canon.of_eq (P := LaneAt.Canon) e5 h5.laneAt
          exact hfin _ _ h11
    · exact h5

theorem Iss.Canon.areaReady {x : Iss} {s : State} {hh : GroupHold} (_ : x.Canon) (h1 : s.Canon) : OnSome State.Canon
    (x.areaReady s hh) := by
  unfold Iss.areaReady
  extract_lets +onlyGivenNames inside s' own
  have hs' : s'.Canon := h1.writebackWhere.dropFrames
  clear_value s'
  clear_value inside own
  split
  · exact hs'
  · exact hs'.areaNeeds

theorem Iss.Canon.groupTrap {x : Iss} {s : State} {a : DWord} {e : Nat} (_ : x.Canon) (h1 : s.Canon) :
    (x.groupTrap s a e).Canon := by
  unfold Iss.groupTrap
  exact h1

theorem State.Canon.execGjoin {g : Gen} {s : State} (h : s.Canon) : OutCanon (execGjoin g s) := by
  unfold Machine.execGjoin
  refine State.Canon.issueWave (fun a h3 => ?_) h
  extract_lets +onlyGivenNames a1
  clear_value a1
  split
  next e => exact Canon.of_eq (P := GroupAt.Canon) e h3.areaAt
  next e1 =>
    have h5 : State.Canon _ := Canon.of_eq (P := GroupAt.Canon) e1 h3.areaAt
    extract_lets +onlyGivenNames slots
    clear_value slots
    split
    · exact h3.groupTrap h5
    · split
      · exact h3.groupTrap h5
      · split
        next e2 => exact Canon.of_eq (P := OnSome State.Canon) e2 (h3.areaReady h5)
        · extract_lets +onlyGivenNames st
          clear_value st
          split
          · exact h3.groupTrap h5
          · split
            · exact h3.groupTrap h5
            · exact h5.putWave

theorem State.Canon.execGleave {g : Gen} {s : State} (h : s.Canon) : OutCanon (execGleave g s) := by
  unfold Machine.execGleave
  refine State.Canon.issueWave (fun a h3 => ?_) h
  extract_lets +onlyGivenNames a1
  clear_value a1
  split
  next e => exact Canon.of_eq (P := GroupAt.Canon) e h3.areaAt
  next e1 =>
    have h5 : State.Canon _ := Canon.of_eq (P := GroupAt.Canon) e1 h3.areaAt
    split
    · exact h3.groupTrap h5
    · split
      next e2 => exact Canon.of_eq (P := OnSome State.Canon) e2 (h3.areaReady h5)
      · extract_lets +onlyGivenNames given
        clear_value given
        split
        · exact h3.groupTrap h5
        · exact h5.putWave

theorem State.Canon.execGred {g : Gen} {s : State} (h : s.Canon) : OutCanon (execGred g s) := by
  unfold Machine.execGred
  refine State.Canon.issueWave (fun a h3 => ?_) h
  extract_lets +onlyGivenNames a1
  clear_value a1
  split
  next e => exact Canon.of_eq (P := GroupAt.Canon) e h3.areaAt
  next e1 =>
    have h5 : State.Canon _ := Canon.of_eq (P := GroupAt.Canon) e1 h3.areaAt
    split
    · exact h3.groupTrap h5
    · extract_lets +onlyGivenNames sub b bad
      clear_value sub b bad
      split
      · exact h5
      · extract_lets +onlyGivenNames vals mark o
        clear_value vals mark o
        extract_lets +onlyGivenNames o1
        clear_value o1
        split
        exact h5.putWave

theorem State.Canon.execGroupRequest {msg : Nat} {s : State} (h : s.Canon) : OutCanon (execGroupRequest msg s) := by
  unfold Machine.execGroupRequest
  change State.Canon _
  split
  · split
    · extract_lets +onlyGivenNames s1 first
      have hs1 : s1.Canon := h.pollGroups
      clear_value s1
      clear_value first
      split
      · split
        · exact hs1
        · split
          next e => exact Canon.of_eq (P := OnSome State.Canon) e hs1.areaNeeds
          · split
            · extract_lets +onlyGivenNames rel
              clear_value rel
              split
              next e1 => exact Canon.of_eq (P := OnSnd State.Canon) e1 hs1.homeTurn
              next e2 =>
                have h3 : State.Canon _ := Canon.of_eq (P := OnSnd State.Canon) e2 hs1.homeTurn
                split
                next e3 =>
                  have h4 : State.Canon _ := Canon.of_eq (P := OnSome State.Canon) e3 h3.groupContribute
                  exact h4.dropMsg.recordRelease.poll
                · exact h3.modMsg
            · exact hs1.dropMsg.groupMember.poll
      · exact hs1
    · exact h
  · exact h

theorem State.Canon.execGredResend {msg : Nat} {s : State} (h : s.Canon) : OutCanon (execGredResend msg s) := by
  unfold Machine.execGredResend
  exact h.modMsg

theorem State.Canon.execGredResult {msg : Nat} {s : State} (h : s.Canon) : OutCanon (execGredResult msg s) := by
  unfold Machine.execGredResult
  change State.Canon _
  split
  · split
    · split
      next e => exact Canon.of_eq (P := OnSome State.Canon) e h.homeNeeds
      · extract_lets +onlyGivenNames s1
        have hs1 : s1.Canon := h.dropMsg.acquireInval
        clear_value s1
        split
        · exact hs1
        · extract_lets +onlyGivenNames v
          clear_value v
          exact hs1.modWave.poll
    · exact h
  · exact h

end Sys2Proof.Machine
end

section
/-! SUPPORT. Canonical memories under barriers and carry chains (Machine/Barrier). -/

namespace Sys2Proof.Machine

theorem State.Canon.execBsync {g : Gen} {s : State} (h : s.Canon) : OutCanon (execBsync g s) := by
  unfold Machine.execBsync
  refine State.Canon.issueWait (fun a h3 => ?_) h
  split
  · exact h3.state
  · split
    · split <;> exact h3.state.putWave
    · extract_lets +onlyGivenNames arriving w
      clear_value arriving w
      exact h3.state.putWave

theorem Iss.Canon.cellAt {x : Iss} {m : Mem} {align : Nat} {need : Need} {extra : Named → Option Nat} (h : x.Canon) :
    (x.cellAt m align need extra).Canon := by
  unfold Iss.cellAt
  extract_lets +onlyGivenNames a
  clear_value a
  exact h.locate (fun _ _ _ h1 => h1)

theorem Iss.Canon.cellNeeds {x : Iss} {s : State} {l : Loc} (_ : x.Canon) (h1 : s.Canon) : OnSome State.Canon
    (x.cellNeeds s l) := by
  unfold Iss.cellNeeds
  extract_lets +onlyGivenNames s'
  have hs' : s'.Canon := h1.surrenderLine
  clear_value s'
  split
  · exact hs'
  · split
    · exact hs'.askLine
    · exact hs'.homeNeeds

theorem Iss.Canon.cellPoison {x : Iss} {s : State} {m : Mem} (_ : x.Canon) (h1 : s.Canon) :
    (x.cellPoison s m).Canon := by
  unfold Iss.cellPoison
  exact h1

theorem State.Canon.execBarInit {m : Mem} {s : State} (h : s.Canon) : OutCanon (execBarInit m s) := by
  unfold Machine.execBarInit
  refine State.Canon.issueWave (fun a h3 => ?_) h
  split
  next e =>
    have h4 : State.Canon _ := Canon.of_eq (P := Located.Canon) e h3.cellAt
    extract_lets +onlyGivenNames c
    clear_value c
    split
    · exact h3.cellPoison h4
    · extract_lets +onlyGivenNames w
      clear_value w
      extract_lets +onlyGivenNames w1
      clear_value w1
      extract_lets +onlyGivenNames w2
      clear_value w2
      exact h4.putWave
  next e1 =>
    have h5 : State.Canon _ := Canon.of_eq (P := Located.Canon) e1 h3.cellAt
    exact h3.failWith h5
  next e2 => exact Canon.of_eq (P := Located.Canon) e2 h3.cellAt
  next e3 => exact Canon.of_eq (P := Located.Canon) e3 h3.cellAt

theorem State.Canon.execBarArrive {m : Mem} {s : State} (h : s.Canon) : OutCanon (execBarArrive m s) := by
  unfold Machine.execBarArrive
  refine State.Canon.issueWave (fun a h3 => ?_) h
  split
  next e =>
    have h4 : State.Canon _ := Canon.of_eq (P := Located.Canon) e h3.cellAt
    split
    extract_lets +onlyGivenNames w
    clear_value w
    exact h4.putWave
  next e1 =>
    have h5 : State.Canon _ := Canon.of_eq (P := Located.Canon) e1 h3.cellAt
    exact h3.failWith h5
  next e2 => exact Canon.of_eq (P := Located.Canon) e2 h3.cellAt
  next e3 => exact Canon.of_eq (P := Located.Canon) e3 h3.cellAt

theorem State.Canon.execBarExpect {m : Mem} {s : State} (h : s.Canon) : OutCanon (execBarExpect m s) := by
  unfold Machine.execBarExpect
  refine State.Canon.issueWait (fun a h3 => ?_) h
  split
  next e =>
    have h4 : State.Canon _ := Canon.of_eq (P := Located.Canon) e h3.cellAt
    extract_lets +onlyGivenNames c
    clear_value c
    split
    · exact h3.cellPoison h4
    · split
      next e1 => exact Canon.of_eq (P := OnSome State.Canon) e1 (h3.cellNeeds h4)
      · split
        rename_i e2
        have h6 : State.Canon _ := Canon.of_eq (P := OnSnd State.Canon) e2 h4.homeRead
        split
        · exact h3.cellPoison h6
        · extract_lets +onlyGivenNames n
          clear_value n
          split
          · exact h6
          · extract_lets +onlyGivenNames s1
            have hs1 : s1.Canon := h6.meetCell.setNatAt.afterWrite
            clear_value s1
            exact hs1.modWave
  next e3 =>
    have h7 : State.Canon _ := Canon.of_eq (P := Located.Canon) e3 h3.cellAt
    exact h3.failWith h7
  next e4 => exact Canon.of_eq (P := Located.Canon) e4 h3.cellAt
  next e5 => exact Canon.of_eq (P := Located.Canon) e5 h3.cellAt

theorem State.Canon.execBarWait {m : Mem} {s : State} (h : s.Canon) : OutCanon (execBarWait m s) := by
  unfold Machine.execBarWait
  refine State.Canon.issueWait (fun a h3 => ?_) h
  split
  next e =>
    have h4 : State.Canon _ := Canon.of_eq (P := Located.Canon) e h3.cellAt
    extract_lets +onlyGivenNames c
    clear_value c
    split
    · exact h3.cellPoison h4
    · extract_lets +onlyGivenNames s1
      have hs1 : s1.Canon := h4.surrenderLine
      clear_value s1
      exact hs1
  next e1 =>
    have h5 : State.Canon _ := Canon.of_eq (P := Located.Canon) e1 h3.cellAt
    exact h3.failWith h5
  next e2 => exact Canon.of_eq (P := Located.Canon) e2 h3.cellAt
  next e3 => exact Canon.of_eq (P := Located.Canon) e3 h3.cellAt

theorem State.Canon.execBarTest {m : Mem} {s : State} (h : s.Canon) : OutCanon (execBarTest m s) := by
  unfold Machine.execBarTest
  refine State.Canon.issueWave (fun a h3 => ?_) h
  split
  next e =>
    have h4 : State.Canon _ := Canon.of_eq (P := Located.Canon) e h3.cellAt
    extract_lets +onlyGivenNames c
    clear_value c
    split
    · exact h3.cellPoison h4
    · split
      next e1 => exact Canon.of_eq (P := OnSome State.Canon) e1 (h3.cellNeeds h4)
      · split
        rename_i e2
        have h6 : State.Canon _ := Canon.of_eq (P := OnSnd State.Canon) e2 h4.homeRead
        split
        · exact h3.cellPoison h6
        · extract_lets +onlyGivenNames s1 hit s2
          have hs1 : s1.Canon := h6.meetCell
          clear_value s1
          have hs2 : s2.Canon := hs1.putWave
          clear_value s2
          clear_value hit
          change State.Canon _
          split
          · exact hs2.acquire
          · exact hs2
  next e3 =>
    have h7 : State.Canon _ := Canon.of_eq (P := Located.Canon) e3 h3.cellAt
    exact h3.failWith h7
  next e4 => exact Canon.of_eq (P := Located.Canon) e4 h3.cellAt
  next e5 => exact Canon.of_eq (P := Located.Canon) e5 h3.cellAt

theorem State.Canon.execBarrierCellRequest {msg : Nat} {s : State} (h : s.Canon) : OutCanon
    (execBarrierCellRequest msg s) := by
  unfold Machine.execBarrierCellRequest
  change State.Canon _
  split
  · split
    · extract_lets +onlyGivenNames first
      clear_value first
      split
      · exact h
      · split
        · exact h.askLine
        · split
          next e => exact Canon.of_eq (P := OnSnd State.Canon) e h.homeTurn
          next e1 =>
            have h2 : State.Canon _ := Canon.of_eq (P := OnSnd State.Canon) e1 h.homeTurn
            split
            rename_i e2
            have h3 : State.Canon _ := Canon.of_eq (P := OnSnd State.Canon) e2 h2.homeRead
            extract_lets +onlyGivenNames op
            clear_value op
            split
            · extract_lets +onlyGivenNames s1
              have hs1 : s1.Canon := h3.dropMsg
              clear_value s1
              split
              · exact hs1.reportOp.modWave.poll
              · exact hs1
            · extract_lets +onlyGivenNames s2 phase s3 s4
              have hs2 : s2.Canon := h3.meetCell
              clear_value s2
              have hs3 : s3.Canon := by
                unfold s3
                split
                · exact hs2.setNatAt.setNatAt.setNatAt
                · exact hs2.setNatAt
                · exact hs2.setNatAt
              clear_value s3
              have hs4 : s4.Canon := hs3.recordRelease.afterWrite
              clear_value s4
              clear_value phase
              split
              · exact hs4.modMsg.poll
              · exact hs4.dropMsg.settleOp.poll
    · exact h
  · exact h

theorem State.Canon.execCpost {m : Mem} {s : State} (h : s.Canon) : OutCanon (execCpost m s) := by
  unfold Machine.execCpost
  refine State.Canon.issueWave (fun a h3 => ?_) h
  split
  next e =>
    have h4 : State.Canon _ := Canon.of_eq (P := Located.Canon) e h3.cellAt
    extract_lets +onlyGivenNames d
    clear_value d
    split
    · exact h3.cellPoison h4
    · split
      · exact h3.exhausted h4
      · extract_lets +onlyGivenNames c w
        clear_value c w
        extract_lets +onlyGivenNames w1
        clear_value w1
        exact h4.putWave
  next e1 =>
    have h5 : State.Canon _ := Canon.of_eq (P := Located.Canon) e1 h3.cellAt
    exact h3.failWith h5
  next e2 => exact Canon.of_eq (P := Located.Canon) e2 h3.cellAt
  next e3 => exact Canon.of_eq (P := Located.Canon) e3 h3.cellAt

theorem Iss.Canon.cpeekBody {m : Mem} {out : Bool} {x : Iss} (h : x.Canon) : (cpeekBody m out x).Canon := by
  unfold Machine.cpeekBody
  split
  next e =>
    have h1 : State.Canon _ := Canon.of_eq (P := Located.Canon) e h.cellAt
    extract_lets +onlyGivenNames c n p o
    clear_value c n p o
    extract_lets +onlyGivenNames o1
    clear_value o1
    split
    extract_lets +onlyGivenNames s
    have hs : s.Canon := h1.putWave.surrenderLine
    clear_value s
    split <;> exact hs
  next e1 =>
    have h2 : State.Canon _ := Canon.of_eq (P := Located.Canon) e1 h.cellAt
    exact h.failWith h2
  next e2 => exact Canon.of_eq (P := Located.Canon) e2 h.cellAt
  next e3 => exact Canon.of_eq (P := Located.Canon) e3 h.cellAt

theorem State.Canon.execCpeek {m : Mem} {s : State} (h : s.Canon) : OutCanon (execCpeek m s) := by
  unfold Machine.execCpeek
  exact State.Canon.issueWait (fun _ h1 => h1.cpeekBody) h

theorem State.Canon.execCpeekOut {m : Mem} {s : State} (h : s.Canon) : OutCanon (execCpeekOut m s) := by
  unfold Machine.execCpeekOut
  exact State.Canon.issueWait (fun _ h1 => h1.cpeekBody) h

theorem State.Canon.execCarryPost {msg : Nat} {s : State} (h : s.Canon) : OutCanon (execCarryPost msg s) := by
  unfold Machine.execCarryPost
  change State.Canon _
  split
  · split
    · split
      · exact h.askLine
      · split
        next e => exact Canon.of_eq (P := OnSnd State.Canon) e h.homeTurn
        next e1 =>
          have h2 : State.Canon _ := Canon.of_eq (P := OnSnd State.Canon) e1 h.homeTurn
          exact h2.dropMsg.carryPosted.afterWrite.settleOp.poll
    · exact h
  · exact h

theorem State.Canon.forwardArrives {s : State} {m : Msg} (h : s.Canon) : (s.forwardArrives m).Canon := by
  unfold State.forwardArrives
  split
  · split
    next e => exact Canon.of_eq (P := Trans.Canon) e h.translate
    next e1 =>
      have h2 : State.Canon _ := Canon.of_eq (P := Trans.Canon) e1 h.translate
      split
      · exact h2.dropMsg.carryFails
      · exact h2
    next e2 =>
      have h3 : State.Canon _ := Canon.of_eq (P := Trans.Canon) e2 h.translate
      split
      · exact h3.askLine
      · split
        next e3 => exact Canon.of_eq (P := OnSome State.Canon) e3 h3.homeNeeds
        · exact h3.dropMsg.carryArrives.afterWrite.poll
  · exact h

theorem State.Canon.execCarryForward {msg : Nat} {s : State} (h : s.Canon) : OutCanon (execCarryForward msg s) := by
  unfold Machine.execCarryForward
  exact Canon.elim h (fun _ => h.forwardArrives)

end Sys2Proof.Machine
end

section
/-! SUPPORT. Canonical memories under user interrupts (Machine/Interrupt). -/

namespace Sys2Proof.Machine

theorem State.Canon.execUint {g : Gen} {s : State} (h : s.Canon) : OutCanon (execUint g s) := by
  unfold Machine.execUint
  refine State.Canon.issueWave (fun a h3 => ?_) h
  extract_lets +onlyGivenNames t p far lost
  clear_value t p far lost
  split
  · exact h3.failWith h3.state
  · extract_lets +onlyGivenNames any
    clear_value any
    split
    · exact h3.exhausted h3.state
    · extract_lets +onlyGivenNames w
      clear_value w
      exact h3.state.putWave

theorem State.Canon.sendRefused {s : State} {wave lane no : Nat} {ipc : DWord} {e : Nat} (h : s.Canon) :
    (s.sendRefused wave lane no ipc e).Canon := by
  unfold State.sendRefused
  exact h.modWave

theorem State.Canon.interruptArrives {s : State} {m : Msg} (h : s.Canon) : (s.interruptArrives m).Canon := by
  unfold State.interruptArrives
  extract_lets +onlyGivenNames behind
  clear_value behind
  split
  · exact h
  · split
    · split
      next e =>
        have h1 : State.Canon _ := Canon.of_eq (P := Sent.Canon) e h.sendVector
        exact h1.dropMsg
      next e1 => exact Canon.of_eq (P := Sent.Canon) e1 h.sendVector
      next e2 =>
        have h3 : State.Canon _ := Canon.of_eq (P := Sent.Canon) e2 h.sendVector
        exact h3.parkNotice
      next e3 =>
        have h4 : State.Canon _ := Canon.of_eq (P := Sent.Canon) e3 h.sendVector
        extract_lets +onlyGivenNames s1
        have hs1 : s1.Canon := h4.dropMsg
        clear_value s1
        split
        · exact hs1.sendRefused
        · exact hs1.event
    · split
      next e4 => exact Canon.of_eq (P := OnSnd State.Canon) e4 h.homeTurn
      next e5 =>
        have h6 : State.Canon _ := Canon.of_eq (P := OnSnd State.Canon) e5 h.homeTurn
        split
        rename_i e6
        have h7 : State.Canon _ := Canon.of_eq (P := OnSnd State.Canon) e6 h6.homeRead
        extract_lets +onlyGivenNames v vec
        clear_value v vec
        split
        · exact h7.setNatAt.afterWrite.dropMsg
        · extract_lets +onlyGivenNames s2 s3
          have hs2 : s2.Canon := h7.setNatAt
          clear_value s2
          have hs3 : s3.Canon := by
            unfold s3
            split
            · exact hs2.wakeCheck
            · exact hs2
          clear_value s3
          exact hs3.afterWrite.dropMsg
        · extract_lets +onlyGivenNames s4 s5 s6
          have hs4 : s4.Canon := h7.setNatAt.afterWrite.dropMsg
          clear_value s4
          have hs5 : s5.Canon := hs4.modCtx
          clear_value s5
          have hs6 : s6.Canon := by
            unfold s6
            split
            · exact hs5.acquireInval
            · exact hs5
          clear_value s6
          split
          · exact hs6
          · extract_lets +onlyGivenNames p
            clear_value p
            exact hs6.modWave
    · exact h

theorem State.Canon.execInterruptSend {msg : Nat} {s : State} (h : s.Canon) : OutCanon (execInterruptSend msg s) := by
  unfold Machine.execInterruptSend
  change State.Canon _
  split
  · exact h.interruptArrives.poll
  · exact h

theorem State.Canon.hostInterrupt {s : State} {ctx vec : Nat} {payload : DWord} {via : HostVia}
    {whole poisoned : Bool} (h : s.Canon) : (s.hostInterrupt ctx vec payload via whole poisoned).Canon := by
  unfold State.hostInterrupt
  extract_lets +onlyGivenNames die
  clear_value die
  split
  · exact h
  · split
    · exact h.report
    · split
      · exact h
      · exact h.hostSend

theorem State.Canon.execHostInterruptSend {ctx vec : Nat} {payload : DWord} {via : HostVia} {whole poisoned : Bool}
    {s : State} (h : s.Canon) : OutCanon (execHostInterruptSend ctx vec payload via whole poisoned s) := by
  unfold Machine.execHostInterruptSend
  exact h.hostInterrupt

theorem Iss.Canon.vectorRecord {x : Iss} {g : Gen} {k : State → Loc → Res} (h : x.Canon)
    (h1 : ∀ (a : State) (a_1 : Loc), a.Canon → (k a a_1).Canon) : (x.vectorRecord g k).Canon := by
  unfold Iss.vectorRecord
  extract_lets +onlyGivenNames va
  clear_value va
  split
  next e => exact Canon.of_eq (P := LaneAt.Canon) e h.state.laneAt
  next e1 =>
    have h3 : State.Canon _ := Canon.of_eq (P := LaneAt.Canon) e1 h.state.laneAt
    exact h.failWith h3
  next e2 =>
    have h4 : State.Canon _ := Canon.of_eq (P := LaneAt.Canon) e2 h.state.laneAt
    exact h1 _ _ h4

theorem State.Canon.execUictlMask {g : Gen} {s : State} (h : s.Canon) : OutCanon (execUictlMask g s) := by
  unfold Machine.execUictlMask
  exact State.Canon.issueWave (fun _ h1 => (h1.vectorRecord (fun _ _ h2 => h2.putWave))) h

theorem State.Canon.execUictlUnmask {g : Gen} {s : State} (h : s.Canon) : OutCanon (execUictlUnmask g s) := by
  unfold Machine.execUictlUnmask
  exact State.Canon.issueWave (fun _ h1 => (h1.vectorRecord (fun _ _ h2 => h2.putWave))) h

theorem State.Canon.execUictlAck {g : Gen} {s : State} (h : s.Canon) : OutCanon (execUictlAck g s) := by
  unfold Machine.execUictlAck
  refine State.Canon.issueWave (fun a h5 => ?_) h
  refine Iss.Canon.vectorRecord h5 (fun a1 a2 h8 => ?_)
  split
  exact h8.putWave

theorem State.Canon.execUictlQuery {g : Gen} {s : State} (h : s.Canon) : OutCanon (execUictlQuery g s) := by
  unfold Machine.execUictlQuery
  refine State.Canon.issueWave (fun a h5 => ?_) h
  refine Iss.Canon.vectorRecord h5 (fun a1 a2 h8 => ?_)
  extract_lets +onlyGivenNames s'
  have hs' : s'.Canon := h8.surrenderLine
  clear_value s'
  split
  · exact hs'
  · split
    next e => exact Canon.of_eq (P := OnSome State.Canon) e hs'.homeNeeds
    · split
      rename_i e1
      have h10 : State.Canon _ := Canon.of_eq (P := OnSnd State.Canon) e1 hs'.homeRead
      extract_lets +onlyGivenNames v p w w1
      clear_value v p w w1
      exact h10.putWave.acquireInval

theorem State.Canon.divert {s : State} {w : Wave} {vec : Nat} {entry : DWord} (h : s.Canon) :
    (s.divert w vec entry).Canon := by
  unfold State.divert
  extract_lets +onlyGivenNames w1 saved
  clear_value w1 saved
  split
  extract_lets +onlyGivenNames sp
  clear_value sp
  split
  extract_lets +onlyGivenNames w2 s1
  have hs1 : s1.Canon := h.putWave.acquireInval
  clear_value s1
  clear_value w2
  exact hs1.modCtx

theorem State.Canon.execInterruptDelivery {ctx : Nat} {s : State} (h : s.Canon) : OutCanon
    (execInterruptDelivery ctx s) := by
  unfold Machine.execInterruptDelivery
  change State.Canon _
  split
  · exact h
  · split
    · exact h
    · split
      next e =>
        have h1 : State.Canon _ := Canon.of_eq (P := DevAcc.Canon) e h.reachPage
        split
        · exact h1.divert
        · exact h1
      next e1 => exact Canon.of_eq (P := DevAcc.Canon) e1 h.reachPage
      next e2 => exact Canon.of_eq (P := DevAcc.Canon) e2 h.reachPage

theorem State.Canon.execUiret {g : Gen} {s : State} (h : s.Canon) : OutCanon (execUiret g s) := by
  unfold Machine.execUiret
  refine State.Canon.issueWave (fun a h3 => ?_) h
  extract_lets +onlyGivenNames fail
  have hfail : ∀ (e : Nat), (fail e).Canon := by
    intro x
    unfold fail
    exact h3.raise
  clear_value fail
  split
  · split
    · split
      · exact hfail _
      · extract_lets +onlyGivenNames w w1 s1
        have hs1 : s1.Canon := h3.state.putWave.modCtx
        clear_value s1
        clear_value w w1
        split
        next e =>
          have h4 : State.Canon _ := Canon.of_eq (P := DevAcc.Canon) e hs1.reachPage
          exact h4.wakeCheck
        · exact hs1
    · exact hfail _
  · exact hfail _

end Sys2Proof.Machine
end

section
/-! SUPPORT. Canonical memories under the events of lines and homes (Machine/Lines). -/

namespace Sys2Proof.Machine

theorem State.Canon.performRead {s : State} {m : Msg} {sec : Loc} {core : Nat} {alloc : Bool} {ret : Nat}
    (h : s.Canon) : (s.performRead m sec core alloc ret).Canon := by
  unfold State.performRead
  split
  rename_i e
  have h1 : State.Canon _ := Canon.of_eq (P := OnSnd State.Canon) e h.homeRead
  extract_lets +onlyGivenNames s1 fill s2 bs s3
  have hs1 : s1.Canon := h1.sharedTake
  clear_value s1
  have hs2 : s2.Canon := by
    unfold s2
    split
    · exact hs1.dirFill
    · exact hs1
  clear_value s2
  have hs3 : s3.Canon := hs2.hasRead.noFill
  clear_value s3
  clear_value fill bs
  exact hs3.modMsg

theorem State.Canon.execHomeRead {msg : Nat} {s : State} (h : s.Canon) : OutCanon (execHomeRead msg s) := by
  unfold Machine.execHomeRead
  change State.Canon _
  split
  · split
    · extract_lets +onlyGivenNames own s1
      have hs1 : s1.Canon := by
        unfold s1
        split
        · exact h.surrenderLine
        · exact h
      clear_value s1
      clear_value own
      split
      · exact hs1
      · split
        next e => exact Canon.of_eq (P := OnSome State.Canon) e hs1.homeWaits
        · split
          next e1 =>
            refine Canon.use (P := OnSome State.Canon) e1 ?_ fun (h2 : State.Canon _) => ?_
            · split
              · exact hs1.dirFull
              · exact trivial
            exact h2
          · exact hs1.performRead
    · exact h
  · exact h

theorem State.Canon.fillSector {s : State} {core ctx : Nat} {sec : Loc} {bs : List PByte} (h : s.Canon) :
    (s.fillSector core ctx sec bs).Canon := by
  unfold State.fillSector
  split
  · exact h
  · extract_lets +onlyGivenNames line s1
    have hs1 : s1.Canon := h.needFrame
    clear_value s1
    clear_value line
    exact hs1.modCore

theorem State.Canon.execMemoryReply {msg : Nat} {s : State} (h : s.Canon) : OutCanon (execMemoryReply msg s) := by
  unfold Machine.execMemoryReply
  change State.Canon _
  split
  · exact h
  · split
    · split
      rename_i e
      have h1 : State.Canon _ := Canon.of_eq (P := OnSnd State.Canon) e h.mayLandAt
      split
      · exact h1
      · extract_lets +onlyGivenNames s1 s2
        have hs1 : s1.Canon := h1.dropMsg
        clear_value s1
        have hs2 : s2.Canon := by
          unfold s2
          split
          · exact hs1.fillSector
          · exact hs1
        clear_value s2
        split
        · exact hs2
        · extract_lets +onlyGivenNames hit now
          clear_value hit now
          split
          · extract_lets +onlyGivenNames s3
            have hs3 : s3.Canon := hs2.modWave
            clear_value s3
            exact hs3.frame rfl rfl rfl
          · extract_lets +onlyGivenNames bs s4
            have hs4 : s4.Canon := hs2.modWave
            clear_value s4
            clear_value bs
            exact hs4.settleOp.poll
    · extract_lets +onlyGivenNames s5
      have hs5 : s5.Canon := h.dropMsg
      clear_value s5
      split
      · exact hs5
      · extract_lets +onlyGivenNames s6
        have hs6 : s6.Canon := hs5.modWave
        clear_value s6
        exact hs6.settleOp.poll
    · exact h.dropMsg.settleOp.poll
    · exact h

theorem State.Canon.execHomeWrite {msg : Nat} {s : State} (h : s.Canon) : OutCanon (execHomeWrite msg s) := by
  unfold Machine.execHomeWrite
  change State.Canon _
  split
  · split
    · extract_lets +onlyGivenNames n
      clear_value n
      split
      next e => exact Canon.of_eq (P := OnSnd State.Canon) e h.homeTurn
      next e1 =>
        have h2 : State.Canon _ := Canon.of_eq (P := OnSnd State.Canon) e1 h.homeTurn
        extract_lets +onlyGivenNames s1
        have hs1 : s1.Canon := h2.dropMsg.homeStore.sharedTake
        clear_value s1
        exact hs1.recordRelease.afterWrite.settleOp.poll
    · exact h
  · exact h

theorem State.Canon.execHomeAtomic {msg : Nat} {s : State} (h : s.Canon) : OutCanon (execHomeAtomic msg s) := by
  unfold Machine.execHomeAtomic
  change State.Canon _
  split
  · split
    · split
      · exact h.askLine
      · split
        next e => exact Canon.of_eq (P := OnSnd State.Canon) e h.homeTurn
        next e1 =>
          have h2 : State.Canon _ := Canon.of_eq (P := OnSnd State.Canon) e1 h.homeTurn
          split
          rename_i e2
          have h3 : State.Canon _ := Canon.of_eq (P := OnSnd State.Canon) e2 h2.applyAtomic
          extract_lets +onlyGivenNames s1 s2 s3
          have hs1 : s1.Canon := h3.sharedTake.enabledAt h2
          clear_value s1
          have hs2 : s2.Canon := hs1.recordRelease.afterWrite
          clear_value s2
          have hs3 : s3.Canon := by
            unfold s3
            split
            · exact hs2.modMsg
            · exact hs2.dropMsg.settleOp
          clear_value s3
          exact hs3.poll
    · exact h
  · exact h

theorem State.Canon.execRedkContribution {msg : Nat} {s : State} (h : s.Canon) : OutCanon
    (execRedkContribution msg s) := by
  unfold Machine.execRedkContribution
  change State.Canon _
  split
  · split
    · extract_lets +onlyGivenNames first
      clear_value first
      split
      · exact h
      · split
        · exact h.askLine
        · refine State.Canon.turn h.homeTurn (fun _ h2 => h2) fun s2 h2 => ?_
          split
          next e2 =>
            have h3 : State.Canon _ := Canon.of_eq (P := OnSome State.Canon) e2 h2.sharedTake.deliverKey
            exact h3.dropMsg.afterWrite.settleOp.poll
          · exact h2.modMsg
    · exact h
  · exact h

theorem State.Canon.execRedkResend {msg : Nat} {s : State} (h : s.Canon) : OutCanon (execRedkResend msg s) := by
  unfold Machine.execRedkResend
  exact h.modMsg

theorem State.Canon.execExclusiveOwnershipGrant {msg : Nat} {s : State} (h : s.Canon) : OutCanon
    (execExclusiveOwnershipGrant msg s) := by
  unfold Machine.execExclusiveOwnershipGrant
  change State.Canon _
  split
  · split
    · exact h.dropMsg.modHomes
    · exact h
  · exact h

theorem State.Canon.execDrainOrder {msg : Nat} {s : State} (h : s.Canon) : OutCanon (execDrainOrder msg s) := by
  unfold Machine.execDrainOrder
  change State.Canon _
  split
  · split
    · exact h.writebackWhere.modMsg
    · exact h
  · exact h

theorem State.Canon.execDrainAck {msg : Nat} {s : State} (h : s.Canon) : OutCanon (execDrainAck msg s) := by
  unfold Machine.execDrainAck
  change State.Canon _
  split
  · split
    · split
      · exact h.writebackWhere
      · extract_lets +onlyGivenNames same s1
        have hs1 : s1.Canon := h.dropMsg
        clear_value s1
        clear_value same
        refine State.Canon.poll ?_
        refine State.Canon.recordRebuilt ?_
        split
        · exact hs1.clearRecorded
        · exact hs1
    · exact h
  · exact h

theorem State.Canon.execHomeWriteback {msg : Nat} {s : State} (h : s.Canon) : OutCanon (execHomeWriteback msg s) := by
  unfold Machine.execHomeWriteback
  change State.Canon _
  split
  · split
    · extract_lets +onlyGivenNames ahead
      clear_value ahead
      split
      · exact h
      · extract_lets +onlyGivenNames base s1 mem mem1 s2
        have hs1 : s1.Canon := by
          unfold s1
          refine State.Canon.foldl h fun s3 x h3 => ?_
          extract_lets +onlyGivenNames n
          clear_value n
          split
          · exact h3
          · exact h3.mergeErrors.sharedTake
        clear_value s1
        have hmem : mem.wf = true := by
          unfold mem
          refine Memory.wf_foldl _ (fun mm x1 h4 => ?_) _ (hs1.memOf _)
          exact Memory.wf_set h4 _ _
        clear_value mem
        have hmem1 : mem1.wf = true := by
          unfold mem1
          refine Memory.wf_foldl _ (fun mm1 x2 h5 => ?_) _ hmem
          extract_lets +onlyGivenNames here
          clear_value here
          split
          · exact h5
          · split
            · exact Memory.wf_setPoison h5 _ _
            · split
              · exact Memory.wf_setPoison h5 _ _
              · exact h5
        clear_value mem1
        have hs2 : s2.Canon := (State.Canon.setMem hs1 hmem1).dropMsg
        clear_value s2
        clear_value base
        exact hs2.afterWrite.settleOp.poll
    · exact h
  · exact h

theorem State.Canon.execL1AgeLimit {core frame : Nat} {s : State} (h : s.Canon) : OutCanon
    (execL1AgeLimit core frame s) := by
  unfold Machine.execL1AgeLimit
  change State.Canon _
  extract_lets +onlyGivenNames s1
  have hs1 : s1.Canon := h.writebackWhere
  clear_value s1
  exact hs1.dropFrames

theorem State.Canon.execCorePowerGate {core : Nat} {s : State} (h : s.Canon) : OutCanon
    (execCorePowerGate core s) := by
  unfold Machine.execCorePowerGate
  change State.Canon _
  extract_lets +onlyGivenNames c busy
  clear_value c busy
  split
  · exact h
  · extract_lets +onlyGivenNames s1 ordered
    have hs1 : s1.Canon := h.writebackWhere.dropFrames.noFill
    clear_value s1
    clear_value ordered
    split
    · exact hs1
    · exact hs1.modCore

theorem State.Canon.execHolderProbe {msg : Nat} {s : State} (h : s.Canon) : OutCanon (execHolderProbe msg s) := by
  unfold Machine.execHolderProbe
  change State.Canon _
  split
  · split
    · extract_lets +onlyGivenNames answer s1
      have hanswer : ∀ (s : State) (d : List (Nat × Byte)) (p : List Nat) (ret : Nat), s.Canon →
        (answer s d p ret).Canon := by
        intro x x1 x2 x3 h2
        unfold answer
        exact h2.modMsg
      clear_value answer
      have hs1 : s1.Canon := h.noFill
      clear_value s1
      split
      · exact hanswer _ _ _ _ hs1
      · split
        · exact hs1
        · split
          · exact hanswer _ _ _ _ hs1
          · extract_lets +onlyGivenNames older
            clear_value older
            split
            · exact hs1.writebackWhere
            · extract_lets +onlyGivenNames sent keep bad s2
              have hs2 : s2.Canon := hs1.modFrame
              clear_value s2
              clear_value sent keep bad
              exact hanswer _ _ _ _ hs2
    · exact h
  · exact h

theorem State.Canon.takeDirty {s : State} {key : Nat} {d : List (Nat × Byte)} {bad : List Nat} {ret : Nat}
    (h : s.Canon) : (s.takeDirty key d bad ret).Canon := by
  unfold State.takeDirty
  extract_lets +onlyGivenNames l base s1 mem mem1 s2
  have hs1 : s1.Canon := by
    unfold s1
    refine State.Canon.foldl h fun s3 x h3 => ?_
    extract_lets +onlyGivenNames n
    clear_value n
    split
    · exact h3
    · exact h3.mergeErrors.sharedTake
  clear_value s1
  have hmem : mem.wf = true := by
    unfold mem
    refine Memory.wf_foldl _ (fun mm x1 h4 => ?_) _ (hs1.memOf _)
    exact Memory.wf_set h4 _ _
  clear_value mem
  have hmem1 : mem1.wf = true := by
    unfold mem1
    refine Memory.wf_foldl _ (fun mm1 x2 h5 => ?_) _ hmem
    extract_lets +onlyGivenNames here
    clear_value here
    split
    · exact h5
    · split
      · exact Memory.wf_setPoison h5 _ _
      · split
        · exact Memory.wf_setPoison h5 _ _
        · exact h5
  clear_value mem1
  have hs2 : s2.Canon := State.Canon.setMem hs1 hmem1
  clear_value s2
  clear_value l base
  split
  · exact hs2
  · exact hs2.afterWrite

theorem State.Canon.dirAnswered {s : State} {req : Nat} (h : s.Canon) : (s.dirAnswered req).Canon := by
  unfold State.dirAnswered
  split
  · exact h
  · extract_lets +onlyGivenNames s1
    have hs1 : s1.Canon := h.modHomes
    clear_value s1
    split
    · exact hs1.count.report
    · exact hs1

theorem State.Canon.answered {s : State} {req : Nat} (h : s.Canon) : (s.answered req).Canon := by
  unfold State.answered
  exact h.modReq.dirAnswered

theorem State.Canon.rebuildAnswer {s : State} {req line : Nat} {d : List (Nat × Byte)} {bad : List Nat} {ret : Nat}
    (h : s.Canon) : (s.rebuildAnswer req line d bad ret).Canon := by
  unfold State.rebuildAnswer
  extract_lets +onlyGivenNames s1
  clear_value s1
  extract_lets +onlyGivenNames s2
  clear_value s2
  extract_lets +onlyGivenNames s3
  have hs3 : s3.Canon := by
    unfold s3
    refine State.Canon.foldl h fun s4 x h3 => ?_
    extract_lets +onlyGivenNames here
    clear_value here
    split
    · exact h3
    · extract_lets +onlyGivenNames seen
      clear_value seen
      split
      · split
        · exact h3
        · refine State.Canon.setMem h3 ?_
          refine Memory.wf_foldl _ (fun mm x1 h4 => ?_) _ (h3.memOf _)
          exact Memory.wf_setPoison h4 _ _
      · extract_lets +onlyGivenNames s5
        have hs5 : s5.Canon := h3.takeDirty
        clear_value s5
        exact hs5.modHomes
  clear_value s3
  exact hs3.answered

theorem State.Canon.execProbeResponse {msg : Nat} {s : State} (h : s.Canon) : OutCanon (execProbeResponse msg s) := by
  unfold Machine.execProbeResponse
  change State.Canon _
  split
  · split
    · extract_lets +onlyGivenNames s1
      have hs1 : s1.Canon := h.dropMsg
      clear_value s1
      split
      · exact hs1.rebuildAnswer.poll
      · exact hs1.takeDirty.answered.poll
    · exact h
  · exact h

theorem State.Canon.execBackInvalidationComplete {msg : Nat} {dirty : Option (List Byte)} {s : State} (h : s.Canon) :
    OutCanon (execBackInvalidationComplete msg dirty s) := by
  unfold Machine.execBackInvalidationComplete
  change State.Canon _
  split
  · split
    · extract_lets +onlyGivenNames d s1 s2
      have hs1 : s1.Canon := h.dropMsg.clearHalf
      clear_value s1
      have hs2 : s2.Canon := by
        unfold s2
        split
        · exact hs1.rebuildAnswer
        · exact hs1.takeDirty.answered
      clear_value s2
      clear_value d
      exact hs2.poll
    · exact h
  · exact h

theorem State.Canon.execHostCopyReturn {line half : Nat} {s : State} (h : s.Canon) : OutCanon
    (execHostCopyReturn line half s) := by
  unfold Machine.execHostCopyReturn
  exact h.clearHalf.poll

theorem State.Canon.execHostSnoop {addr : Nat} {kind : SnoopKind} {s : State} (h : s.Canon) : OutCanon
    (execHostSnoop addr kind s) := by
  unfold Machine.execHostSnoop
  change State.Canon _
  extract_lets +onlyGivenNames line
  clear_value line
  split
  · exact h.rebuildDir
  · split
    · exact h
    · extract_lets +onlyGivenNames named s1
      have hs1 : s1.Canon := h.foldl (fun _ _ h1 => h1.writebackWhere)
      clear_value s1
      clear_value named
      split
      · exact hs1
      · split
        · extract_lets +onlyGivenNames s2 s3
          have hs2 : s2.Canon := hs1.foldl (fun _ _ h2 => h2.dropFrames.noFill)
          clear_value s2
          have hs3 : s3.Canon := by
            unfold s3
            refine State.Canon.foldl hs2 fun s4 x h5 => ?_
            split
            rename_i e
            have h6 : State.Canon _ := Canon.of_eq (P := OnSnd State.Canon) e h5.draw
            exact h6.setNatAt
          clear_value s3
          exact hs3.modHomes.poll
        · exact hs1.modHomes

end Sys2Proof.Machine
end

section
/-! SUPPORT. Canonical memories under the owner's side of the link (Machine/Owner). -/

namespace Sys2Proof.Machine

theorem State.Canon.target {s : State} {die src region off n perm : Nat} {need : Need} (h : s.Canon) :
    (s.target die src region off n perm need).Canon := by
  unfold State.target
  split
  · exact h
  · split
    · exact h
    · split
      next e => exact Canon.of_eq (P := Reached.Canon) e h.reachAll
      next e1 =>
        have h2 : State.Canon _ := Canon.of_eq (P := Reached.Canon) e1 h.reachAll
        split <;> exact h2
      next e2 =>
        have h3 : State.Canon _ := Canon.of_eq (P := Reached.Canon) e2 h.reachAll
        split
        · exact h3
        · change State.Canon _
          refine State.Canon.foldl h3 fun s1 x h6 => ?_
          split
          · exact h6
          · exact h6.askLine

theorem State.Canon.gate {s : State} {die : Nat} {r : RemoteReq} (h : s.Canon) : OnSome Target.Canon
    (s.gate die r) := by
  unfold State.gate
  extract_lets +onlyGivenNames add need
  clear_value add need
  split
  · exact trivial
  · exact trivial
  · exact h.target

theorem State.Canon.copyGone {s : State} {r : RemoteReq} {l : Loc} (h : s.Canon) : OnSnd State.Canon
    (s.copyGone r l) := by
  unfold State.copyGone
  split
  · exact OnSnd.intro h
  · extract_lets +onlyGivenNames s1
    have hs1 : s1.Canon := h.surrenderLine
    clear_value s1
    exact OnSnd.intro hs1

theorem State.Canon.counterOf {s : State} {die region : Nat} (h : s.Canon) : (s.counterOf die region).Canon := by
  unfold State.counterOf
  extract_lets +onlyGivenNames d mode off c
  clear_value d mode off c
  split
  · exact h
  · split
    · split
      · exact h
      · exact h.notice.modLink
    · split
      next e => exact Canon.of_eq (P := DevAcc.Canon) e h.reach
      next e1 =>
        have h2 : State.Canon _ := Canon.of_eq (P := DevAcc.Canon) e1 h.reach
        split <;> exact h2
      next e2 => exact Canon.of_eq (P := DevAcc.Canon) e2 h.reach

theorem State.Canon.countOp {s : State} {k : Counter} {n : Nat} (h : s.Canon) (h1 : k.Canon) :
    (s.countOp k n).Canon := by
  unfold State.countOp
  split
  · exact h.bump
  · exact h

theorem Counter.Canon.state {k : Counter} {s : State} (h : k.Canon) (h1 : s.Canon) : (k.state s).Canon := by
  unfold Counter.state
  split
  · exact h
  · exact h
  · exact h1

theorem State.Canon.putCache {s : State} {e : CacheEntry} (h : s.Canon) : (s.putCache e).Canon := by
  unfold State.putCache
  extract_lets +onlyGivenNames t
  have ht : t.Canon := h.modLink
  clear_value t
  split
  · exact ht
  · exact ⟨(Memory.wf_veil ht.mem _ _ _), ht.host, ht.blocks⟩

theorem State.Canon.answer {s : State} {r : RemoteReq} {col : Nat} {value : List Byte} {poison : Bool} (h : s.Canon) :
    (s.answer r col value poison).Canon := by
  unfold State.answer
  exact h.putCache

theorem State.Canon.setLanded {s : State} {r : RemoteReq} {l : List (Nat × List PByte)} (h : s.Canon) :
    (s.setLanded r l).Canon := by
  unfold State.setLanded
  exact h.modLink

theorem State.Canon.nextPieces {s : State} {r : RemoteReq} {n : Nat} (h : s.Canon) : OnSnd State.Canon
    (s.nextPieces r n) := by
  unfold State.nextPieces
  extract_lets +onlyGivenNames todo
  clear_value todo
  split
  · exact OnSnd.intro h
  · split
    rename_i e
    have h1 : State.Canon _ := Canon.of_eq (P := OnSnd State.Canon) e h.chooseSome
    exact OnSnd.intro h1

theorem State.Canon.readPieceByPiece {s : State} {r : RemoteReq} {ls : List (Loc × Nat)} {n unit : Nat} (h : s.Canon) :
    OnSnd State.Canon (s.readPieceByPiece r ls n unit) := by
  unfold State.readPieceByPiece
  extract_lets +onlyGivenNames count
  clear_value count
  split
  rename_i e
  have h1 : State.Canon _ := Canon.of_eq (P := OnSnd State.Canon) e h.nextPieces
  split
  rename_i e1
  refine Canon.use (P := OnSnd State.Canon) e1 ?_ fun (h2 : State.Canon _) => ?_
  · refine foldl_preserves (P := OnSnd State.Canon) (OnSnd.intro h1) fun s1 x h5 => ?_
    split
    · split
      rename_i e2
      have h6 : State.Canon _ := Canon.of_eq (P := OnSnd State.Canon) e2 (h5 : State.Canon _).homeRead
      exact OnSnd.intro h6
    · exact h5
  split <;> exact OnSnd.intro h2.setLanded

theorem State.Canon.writePieceByPiece {s : State} {r : RemoteReq} {ls : List (Loc × Nat)} {bs : List Byte}
    {unit : Nat} (h : s.Canon) : OnSnd State.Canon (s.writePieceByPiece r ls bs unit) := by
  unfold State.writePieceByPiece
  extract_lets +onlyGivenNames count
  clear_value count
  split
  rename_i e
  have h1 : State.Canon _ := Canon.of_eq (P := OnSnd State.Canon) e h.nextPieces
  extract_lets +onlyGivenNames x put s1 got again
  have hput : ∀ (s : State) (i : Nat), s.Canon → (put s i).Canon := by
    intro x1 x2 h3
    unfold put
    split
    · split
      · exact h3
      · exact State.Canon.setMem h3 (Memory.wf_set (h3.memOf _) _ _)
    · exact h3
  clear_value put
  have hs1 : s1.Canon := h1.foldl (fun _ _ h4 => (h4.foldl (fun _ _ h5 => (hput _ _ h5))))
  clear_value s1
  have hagain : ∀ (s : State) (f : State → Loc × Nat → State), s.Canon →
    (∀ (a : State) (a_1 : Loc × Nat), a.Canon → (f a a_1).Canon) → (again s f).Canon := by
    intro x3 x4 h8 h9
    unfold again
    exact h8.foldl (fun _ _ h10 => (h9 _ _ h10).afterWrites)
  clear_value again
  clear_value x got
  split
  · exact OnSnd.intro (hagain _ _ hs1 (fun _ _ h11 => h11)).setLanded
  · exact OnSnd.intro (hagain _ _ hs1 (fun _ _ h12 => h12.homeStore)).setLanded

theorem State.Canon.sealSlot {s : State} {slot : List (Loc × Nat)} {size seq n : Nat} (h : s.Canon) :
    (s.sealSlot slot size seq n).Canon := by
  unfold State.sealSlot
  extract_lets +onlyGivenNames put
  have hput : ∀ (s : State) (off k v : Nat), s.Canon → (put s off k v).Canon := by
    intro x x1 x2 x3 h2
    unfold put
    split
    · exact h2.homeStore.afterWrite
    · exact h2
  clear_value put
  exact hput _ _ _ _ (hput _ _ _ _ h)

theorem State.Canon.finishPutf {s : State} {die : Nat} {r : RemoteReq} {e : CacheEntry} {k : Counter} (h : s.Canon)
    (h1 : k.Canon) : (s.finishPutf die r e k).Canon := by
  unfold State.finishPutf
  extract_lets +onlyGivenNames add
  clear_value add
  split
  next e1 => exact Canon.of_eq (P := Target.Canon) e1 h.target
  next e2 =>
    have h3 : State.Canon _ := Canon.of_eq (P := Target.Canon) e2 h.target
    split
    · exact h3
    · extract_lets +onlyGivenNames s1 x s2 s3
      have hs1 : s1.Canon := h3.meetErrors
      clear_value s1
      have hs2 : s2.Canon := by
        unfold s2
        split
        · exact hs1.setNatAt
        · exact hs1.homeStore
      clear_value s2
      have hs3 : s3.Canon := hs2.afterWrite.countOp h1
      clear_value s3
      clear_value x
      exact hs3.putCache

theorem State.Canon.dropStream {s : State} {rank incarn ctx tag lo hi : Nat} (h : s.Canon) :
    (s.dropStream rank incarn ctx tag lo hi).Canon := by
  unfold State.dropStream
  exact h.modLink

theorem State.Canon.performRemote {s : State} {die : Nat} {r : RemoteReq} (h : s.Canon) :
    (s.performRemote die r).Canon := by
  unfold State.performRemote
  extract_lets +onlyGivenNames src counts goOn
  clear_value src counts goOn
  extract_lets +onlyGivenNames goOn1
  clear_value goOn1
  extract_lets +onlyGivenNames goOn2
  clear_value goOn2
  extract_lets +onlyGivenNames goOn3
  clear_value goOn3
  extract_lets +onlyGivenNames goOn4
  have hgoOn4 : ∀ (k : Counter) (s : State), k.Canon → s.Canon → (goOn4 k s).Canon := by
    intro x x1 h3 h4
    unfold goOn4
    split
    · split
      next e => exact Canon.of_eq (P := Target.Canon) e h4.target
      next e1 =>
        have h6 : State.Canon _ := Canon.of_eq (P := Target.Canon) e1 h4.target
        split
        next e2 => exact Canon.of_eq (P := OnSnd State.Canon) e2 h6.readPieceByPiece
        next e3 => exact Canon.of_eq (P := OnSnd State.Canon) e3 h6.readPieceByPiece
    · split
      next e4 => exact Canon.of_eq (P := Target.Canon) e4 h4.target
      next e5 =>
        have h10 : State.Canon _ := Canon.of_eq (P := Target.Canon) e5 h4.target
        split
        next e6 => exact Canon.of_eq (P := OnSnd State.Canon) e6 h10.writePieceByPiece
        next e7 =>
          have h12 : State.Canon _ := Canon.of_eq (P := OnSnd State.Canon) e7 h10.writePieceByPiece
          exact (h12.countOp h3).answer
    · split
      next e8 => exact Canon.of_eq (P := Target.Canon) e8 h4.target
      next e9 =>
        have h14 : State.Canon _ := Canon.of_eq (P := Target.Canon) e9 h4.target
        split
        · exact h14
        · split
          next e10 => exact Canon.of_eq (P := OnSnd State.Canon) e10 h14.copyGone
          next e11 =>
            have h16 : State.Canon _ := Canon.of_eq (P := OnSnd State.Canon) e11 h14.copyGone
            extract_lets +onlyGivenNames op before
            have hbefore : before.Canon := h16
            clear_value before
            clear_value op
            split
            rename_i e12
            have h17 : State.Canon _ := Canon.of_eq (P := OnSnd State.Canon) e12 h16.applyAtomic
            extract_lets +onlyGivenNames wrote
            clear_value wrote
            exact ((h17.enabledAt hbefore).afterWrite.countOp h3).answer
    · split
      next e13 => exact Canon.of_eq (P := Target.Canon) e13 h4.target
      next e14 =>
        have h19 : State.Canon _ := Canon.of_eq (P := Target.Canon) e14 h4.target
        split
        · exact h19
        · split
          next e15 => exact Canon.of_eq (P := OnSnd State.Canon) e15 h19.copyGone
          next e16 =>
            have h21 : State.Canon _ := Canon.of_eq (P := OnSnd State.Canon) e16 h19.copyGone
            extract_lets +onlyGivenNames op1 before1
            have hbefore1 : before1.Canon := h21
            clear_value before1
            clear_value op1
            split
            rename_i e17
            have h22 : State.Canon _ := Canon.of_eq (P := OnSnd State.Canon) e17 h21.applyAtomic
            extract_lets +onlyGivenNames wrote1
            clear_value wrote1
            exact ((h22.enabledAt hbefore1).afterWrite.countOp h3).answer
    · split
      next e18 => exact Canon.of_eq (P := Target.Canon) e18 h4.target
      next e19 =>
        have h24 : State.Canon _ := Canon.of_eq (P := Target.Canon) e19 h4.target
        refine Served.Canon.place h24 fun _ => ?_
        split
        · exact h24
        next e20 =>
          have h25 : State.Canon _ := Canon.of_eq (P := OnSome State.Canon) e20 h24.deliverKey
          exact h25.afterWrite.answer
    · extract_lets +onlyGivenNames e21
      clear_value e21
      split
      · split
        · split
          · exact h4.finishPutf h3
          · exact h4
        · exact h4
      · split
        next e22 => exact Canon.of_eq (P := Target.Canon) e22 h4.target
        next e23 =>
          have h27 : State.Canon _ := Canon.of_eq (P := Target.Canon) e23 h4.target
          split
          next e24 => exact Canon.of_eq (P := OnSnd State.Canon) e24 h27.writePieceByPiece
          next e25 =>
            have h29 : State.Canon _ := Canon.of_eq (P := OnSnd State.Canon) e25 h27.writePieceByPiece
            extract_lets +onlyGivenNames before2 e26 s1 missing on
            have hs1 : s1.Canon := h29.putCache
            clear_value s1
            have hon : on.Canon := by
              unfold on
              split <;> exact hs1
            clear_value on
            clear_value before2 e26 missing
            split
            · split
              · exact hs1.finishPutf h3
              · exact hon
            · exact hon
    · extract_lets +onlyGivenNames e27
      clear_value e27
      split
      · exact h4.finishPutf h3
      · extract_lets +onlyGivenNames s2
        have hs2 : s2.Canon := h4.putCache
        clear_value s2
        split <;> exact hs2
    · split
      next e28 => exact Canon.of_eq (P := Target.Canon) e28 h4.target
      next e29 =>
        have h31 : State.Canon _ := Canon.of_eq (P := Target.Canon) e29 h4.target
        split
        · exact h31
        · extract_lets +onlyGivenNames s3 mine same
          have hs3 : s3.Canon := h31.meetErrors
          clear_value s3
          clear_value mine same
          split
          · exact hs3
          · extract_lets +onlyGivenNames seq off
            clear_value seq off
            split
            · exact hs3
            · split
              next e30 => exact Canon.of_eq (P := Reached.Canon) e30 hs3.reachAll
              next e31 =>
                have h33 : State.Canon _ := Canon.of_eq (P := Reached.Canon) e31 hs3.reachAll
                split <;> exact h33
              next e32 =>
                have h34 : State.Canon _ := Canon.of_eq (P := Reached.Canon) e32 hs3.reachAll
                extract_lets +onlyGivenNames e33 s4
                have hs4 : s4.Canon := by
                  unfold s4
                  split
                  · exact h34
                  · exact h34.setNatAt.afterWrite.putCache
                clear_value s4
                clear_value e33
                split
                next e34 => exact Canon.of_eq (P := OnSnd State.Canon) e34 hs4.writePieceByPiece
                next e35 =>
                  have h36 : State.Canon _ := Canon.of_eq (P := OnSnd State.Canon) e35 hs4.writePieceByPiece
                  exact (h36.sealSlot.countOp h3).answer
    · split
      next e36 => exact Canon.of_eq (P := Target.Canon) e36 h4.target
      next e37 =>
        have h38 : State.Canon _ := Canon.of_eq (P := Target.Canon) e37 h4.target
        split
        · exact h38
        · extract_lets +onlyGivenNames v
          clear_value v
          exact h38.setNatAt.afterWrite
    · split
      next e38 => exact Canon.of_eq (P := Target.Canon) e38 h4.target
      next e39 =>
        have h40 : State.Canon _ := Canon.of_eq (P := Target.Canon) e39 h4.target
        split
        · exact h40
        · extract_lets +onlyGivenNames s5
          have hs5 : s5.Canon := h40.carryArrives
          clear_value s5
          exact hs5.afterWrite.answer
    · split
      next e40 =>
        have h41 : State.Canon _ := Canon.of_eq (P := Sent.Canon) e40 h4.sendVector
        exact h41.answer
      next e41 => exact Canon.of_eq (P := Sent.Canon) e41 h4.sendVector
      next e42 => exact Canon.of_eq (P := Sent.Canon) e42 h4.sendVector
      next e43 => exact Canon.of_eq (P := Sent.Canon) e43 h4.sendVector
    · exact h4.dropStream
  clear_value goOn4
  split
  · split
    next e44 => exact Canon.of_eq (P := Counter.Canon) e44 h.counterOf
    · exact hgoOn4 _ _ h.counterOf (h.counterOf.state h)
  · exact hgoOn4 _ _ h h

theorem State.Canon.serve {s : State} {r : RemoteReq} (h : s.Canon) : (s.serve r).Canon := by
  unfold State.serve
  extract_lets +onlyGivenNames seen
  clear_value seen
  split
  · exact h
  · split
    · exact h
    · extract_lets +onlyGivenNames newer s1 kept die go
      have hs1 : s1.Canon := h.modLink
      clear_value s1
      have hgo : ∀ (s : State), s.Canon → (go s).Canon := by
        intro x h2
        unfold go
        split
        · split
          · split <;> exact h2
          · exact h2.performRemote
        · split
          · exact h2
          · exact h2.performRemote
      clear_value go
      clear_value newer kept die
      split
      next e => exact Canon.of_eq (P := OnSome Target.Canon) e hs1.gate
      next e1 => exact Canon.of_eq (P := OnSome Target.Canon) e1 hs1.gate
      next e2 =>
        have h5 : State.Canon _ := Canon.of_eq (P := OnSome Target.Canon) e2 hs1.gate
        exact hgo _ h5
      next e3 =>
        have h6 : State.Canon _ := Canon.of_eq (P := OnSome Target.Canon) e3 hs1.gate
        exact hgo _ h6
      · exact hgo _ hs1

theorem State.Canon.takeSlots {s : State} (h : s.Canon) : s.takeSlots.Canon := by
  unfold State.takeSlots
  refine State.Canon.foldl h fun s1 x h2 => ?_
  extract_lets +onlyGivenNames d behind
  clear_value d behind
  split
  · exact h2
  · split
    · exact h2.askLine
    · split
      next e => exact Canon.of_eq (P := OnSome State.Canon) e h2.homeNeeds
      · extract_lets +onlyGivenNames s2 drop refuse slots size target rank
        have hs2 : s2.Canon := h2.meetErrors
        clear_value s2
        have hdrop : ∀ (s : State), s.Canon → (drop s).Canon := by
          intro x1 h5
          unfold drop
          exact h5.modLink
        clear_value drop
        have hrefuse : ∀ (s : State) (e : DWord), s.Canon → (refuse s e).Canon := by
          intro x2 x3 h7
          unfold refuse
          exact (hdrop _ h7).modWave.settleOp
        clear_value refuse
        clear_value slots size target rank
        split
        · exact hrefuse _ _ hs2
        · split
          · split
            rename_i e1
            have h8 : State.Canon _ := Canon.of_eq (P := OnSnd State.Canon) e1 hs2.draw
            exact hrefuse _ _ h8
          · split
            · exact hrefuse _ _ hs2
            · extract_lets +onlyGivenNames head
              clear_value head
              split
              · exact hs2
              · extract_lets +onlyGivenNames s3 r
                have hs3 : s3.Canon := hs2.setNatAt.afterWrite
                clear_value s3
                clear_value r
                split
                · extract_lets +onlyGivenNames s4
                  have hs4 : s4.Canon := (hdrop _ hs3).acquireInval.sendRemote
                  clear_value s4
                  exact hs4.modLink
                · exact hdrop _ hs3

theorem State.Canon.say {s : State} {k : Key} {a : Reply} (h : s.Canon) : (s.say k a).Canon := by
  unfold State.say
  extract_lets +onlyGivenNames put
  have hput : ∀ (s : State), s.Canon → (put s).Canon := by
    intro x h2
    unfold put
    exact h2.modLink
  clear_value put
  split
  · exact hput _ h
  · split
    · exact h
    · split
      rename_i e
      have h3 : State.Canon _ := Canon.of_eq (P := OnSnd State.Canon) e h.choose
      extract_lets +onlyGivenNames kind
      clear_value kind
      split
      next e1 =>
        have h4 : State.Canon _ := Canon.of_eq (P := OnSnd State.Canon) e1 h3.crosses
        exact hput _ h4
      next e2 => exact Canon.of_eq (P := OnSnd State.Canon) e2 h3.crosses

theorem State.Canon.turnAway {s : State} {r : RemoteReq} (h : s.Canon) : (s.turnAway r).Canon := by
  unfold State.turnAway
  exact h.modLink.say

theorem State.Canon.park {s : State} {r : RemoteReq} {why : State → State} (h : s.Canon)
    (h1 : ∀ (a : State), a.Canon → (why a).Canon) : (s.park r why).Canon := by
  unfold State.park
  extract_lets +onlyGivenNames full x
  have hx : ∀ (s : State) (d : Nat), s.Canon → (x s d).Canon := by
    intro x1 x2 h3
    unfold x
    exact (h1 _ h3).modLink.say
  clear_value x
  clear_value full
  split
  rename_i e
  have h4 : State.Canon _ := Canon.of_eq (P := OnSnd State.Canon) e h.choose
  split
  · exact hx _ _ h4
  · exact h4.turnAway

theorem State.Canon.stand {s : State} {r : RemoteReq} (h : s.Canon) : (s.stand r).Canon := by
  unfold State.stand
  split
  extract_lets +onlyGivenNames s1
  have hs1 : s1.Canon := by
    unfold s1
    split
    · refine State.Canon.foldl h fun s2 x h2 => ?_
      split
      next e =>
        have h3 : State.Canon _ := Canon.of_eq (P := Trans.Canon) e h2.translate
        exact h3.awaits
      next e1 => exact Canon.of_eq (P := Trans.Canon) e1 h2.translate
      next e2 => exact Canon.of_eq (P := Trans.Canon) e2 h2.translate
    · exact h
  clear_value s1
  split
  · exact hs1
  · exact hs1.modLink

theorem State.Canon.arriveKey {s : State} {r : RemoteReq} (h : s.Canon) : (s.arriveKey r).Canon := by
  unfold State.arriveKey
  extract_lets +onlyGivenNames own twice
  clear_value own twice
  split
  · exact h
  · split
    · split
      · exact h.park (fun _ h1 => h1)
      · split
        · exact h.turnAway
        · exact h
    · extract_lets +onlyGivenNames back
      have hback : ∀ (s : State), s.Canon → (back s).Canon := by
        intro x h3
        unfold back
        exact h3.modLink
      clear_value back
      split
      next e =>
        have h4 : State.Canon _ := Canon.of_eq (P := Served.Canon) e h.serve
        exact (hback _ h4).turnAway.poll
      next e1 =>
        have h5 : State.Canon _ := Canon.of_eq (P := Served.Canon) e1 h.serve
        exact (hback _ h5).say.hasRead.takeSlots.poll
      next e2 =>
        have h6 : State.Canon _ := Canon.of_eq (P := Served.Canon) e2 h.serve
        exact (hback _ h6).hasRead.poll
      next e3 =>
        have h7 : State.Canon _ := Canon.of_eq (P := Served.Canon) e3 h.serve
        exact h7.stand
      next e4 =>
        have h8 : State.Canon _ := Canon.of_eq (P := Served.Canon) e4 h.serve
        exact (hback _ h8).park (fun _ h9 => h9.notice)

theorem State.Canon.pollStanding {s : State} (h : s.Canon) : s.pollStanding.Canon := by
  unfold State.pollStanding
  exact h.foldl (fun _ _ h1 => h1.arriveKey)

theorem State.Canon.arrive {s : State} {r : RemoteReq} (h : s.Canon) : (s.arrive r).Canon := by
  unfold State.arrive
  extract_lets +onlyGivenNames own
  clear_value own
  split
  rename_i e
  refine Canon.use (P := OnSnd State.Canon) e ?_ fun (h1 : State.Canon _) => ?_
  · split
    · exact OnSnd.intro h
    · exact h.comesIn
  split
  · exact h1
  · split
    · exact h1.arriveKey
    · exact h1.foldl (fun _ _ h2 => h2.arriveKey)

theorem State.Canon.retryParked {s : State} {r : RemoteReq} (h : s.Canon) : (s.retryParked r).Canon := by
  unfold State.retryParked
  extract_lets +onlyGivenNames drop
  have hdrop : ∀ (s : State), s.Canon → (drop s).Canon := by
    intro x h2
    unfold drop
    exact h2.modLink
  clear_value drop
  split
  · exact h
  · split
    next e =>
      have h3 : State.Canon _ := Canon.of_eq (P := Served.Canon) e h.serve
      exact (hdrop _ h3).turnAway
    next e1 =>
      have h4 : State.Canon _ := Canon.of_eq (P := Served.Canon) e1 h.serve
      exact (hdrop _ h4).say.hasRead.takeSlots
    next e2 =>
      have h5 : State.Canon _ := Canon.of_eq (P := Served.Canon) e2 h.serve
      exact (hdrop _ h5).hasRead
    next e3 => exact Canon.of_eq (P := Served.Canon) e3 h.serve
    next e4 => exact Canon.of_eq (P := Served.Canon) e4 h.serve

end Sys2Proof.Machine
end

section
/-! SUPPORT. Canonical memories under the requester's side of the link (Machine/Link). -/

namespace Sys2Proof.Machine

theorem State.Canon.sourceAt {s : State} {w : Wave} {a n : Nat} (h : s.Canon) : (s.sourceAt w a n).Canon := by
  unfold State.sourceAt
  split
  · split
    · exact h
    · refine foldl_preserves (P := SourceAt.Canon) h fun s1 x h2 => ?_
      split
      · split
        next e => exact Canon.of_eq (P := LaneAt.Canon) e (h2 : State.Canon _).laneAt
        next e1 => exact Canon.of_eq (P := LaneAt.Canon) e1 (h2 : State.Canon _).laneAt
        next e2 => exact Canon.of_eq (P := LaneAt.Canon) e2 (h2 : State.Canon _).laneAt
      · exact h2
  · exact h
  · exact h

theorem Iss.Canon.sourceCheck {x : Iss} {src n : Nat → Nat} {i : Nat} {x1 : Place} {s : State} (_ : x.Canon)
    (h1 : s.Canon) : (x.sourceCheck src n i x1 s).Canon := by
  unfold Iss.sourceCheck
  split
  next e => exact Canon.of_eq (P := SourceAt.Canon) e h1.sourceAt
  next e1 => exact Canon.of_eq (P := SourceAt.Canon) e1 h1.sourceAt
  next e2 => exact Canon.of_eq (P := SourceAt.Canon) e2 h1.sourceAt

theorem Iss.Canon.sources {x : Iss} {s : State} {src n : Nat → Nat} (_ : x.Canon) (h1 : s.Canon) :
    (x.sources s src n).Canon := by
  unfold Iss.sources
  extract_lets +onlyGivenNames r
  have hr : OnExcept State.Canon (OnFst State.Canon) r := by
    unfold r
    refine foldl_preserves (P := OnExcept State.Canon (OnFst State.Canon)) h1 fun s1 x1 h4 => ?_
    split
    · exact h4
    · split
      next e => exact Canon.of_eq (P := SourceAt.Canon) e (h4 : State.Canon _).sourceAt
      next e1 => exact Canon.of_eq (P := SourceAt.Canon) e1 (h4 : State.Canon _).sourceAt
      next e2 => exact Canon.of_eq (P := SourceAt.Canon) e2 (h4 : State.Canon _).sourceAt
  clear_value r
  split
  · exact hr
  · split <;> exact hr

theorem State.Canon.execPutf {m : Mem} {s : State} (h : s.Canon) : OutCanon (execPutf m s) := by
  unfold Machine.execPutf
  refine State.Canon.issueWave (fun a h3 => ?_) h
  extract_lets +onlyGivenNames src n f v size extra x len
  clear_value src n f v size extra x len
  split
  next e => exact Canon.of_eq (P := Located.Canon) e (h3.locate (fun _ _ _ h5 => (h3.sourceCheck h5)))
  next e1 =>
    have h6 : State.Canon _ := Canon.of_eq (P := Located.Canon) e1 (h3.locate (fun _ _ _ h7 => (h3.sourceCheck h7)))
    exact h3.failWith h6
  next e2 =>
    have h8 : State.Canon _ := Canon.of_eq (P := Located.Canon) e2 (h3.locate (fun _ _ _ h9 => (h3.sourceCheck h9)))
    split
    · exact h3.exhausted h8
    · split
      · exact h8
      · split
        next e3 => exact Canon.of_eq (P := Sources.Canon) e3 (h3.sources h8)
        next e4 =>
          have h11 : State.Canon _ := Canon.of_eq (P := Sources.Canon) e4 (h3.sources h8)
          exact h3.failWith h11
        next e5 =>
          have h12 : State.Canon _ := Canon.of_eq (P := Sources.Canon) e5 (h3.sources h8)
          extract_lets +onlyGivenNames reqs o
          clear_value reqs o
          extract_lets +onlyGivenNames o1
          clear_value o1
          exact h12.putWave

theorem State.Canon.execPutm {m : Mem} {s : State} (h : s.Canon) : OutCanon (execPutm m s) := by
  unfold Machine.execPutm
  refine State.Canon.issueWave (fun a h3 => ?_) h
  extract_lets +onlyGivenNames src n a1 extra x len
  clear_value src n a1 extra x len
  split
  next e => exact Canon.of_eq (P := Located.Canon) e (h3.locate (fun _ _ _ h5 => (h3.sourceCheck h5)))
  next e1 =>
    have h6 : State.Canon _ := Canon.of_eq (P := Located.Canon) e1 (h3.locate (fun _ _ _ h7 => (h3.sourceCheck h7)))
    exact h3.failWith h6
  next e2 =>
    have h8 : State.Canon _ := Canon.of_eq (P := Located.Canon) e2 (h3.locate (fun _ _ _ h9 => (h3.sourceCheck h9)))
    split
    · exact h3.exhausted h8
    · split
      · exact h8
      · split
        next e3 => exact Canon.of_eq (P := Sources.Canon) e3 (h3.sources h8)
        next e4 =>
          have h11 : State.Canon _ := Canon.of_eq (P := Sources.Canon) e4 (h3.sources h8)
          exact h3.failWith h11
        next e5 =>
          have h12 : State.Canon _ := Canon.of_eq (P := Sources.Canon) e5 (h3.sources h8)
          extract_lets +onlyGivenNames sends o
          clear_value sends o
          extract_lets +onlyGivenNames o1
          clear_value o1
          exact h12.putWave

theorem State.Canon.execPutmRel {m : Mem} {s : State} (h : s.Canon) : OutCanon (execPutmRel m s) := by
  unfold Machine.execPutmRel
  refine State.Canon.issueWave (fun a h3 => ?_) h
  extract_lets +onlyGivenNames i k
  clear_value i k
  split
  next e =>
    have h4 : State.Canon _ := Canon.of_eq (P := Located.Canon) e (h3.locate (fun _ _ _ h5 => h5))
    split
    · exact h3.exhausted h4
    · split
      · exact h4
      · extract_lets +onlyGivenNames o
        clear_value o
        extract_lets +onlyGivenNames o1
        clear_value o1
        exact h4.putWave
  next e1 =>
    have h6 : State.Canon _ := Canon.of_eq (P := Located.Canon) e1 (h3.locate (fun _ _ _ h7 => h7))
    exact h3.failWith h6
  next e2 => exact Canon.of_eq (P := Located.Canon) e2 (h3.locate (fun _ _ _ h9 => h9))
  next e3 => exact Canon.of_eq (P := Located.Canon) e3 (h3.locate (fun _ _ _ h11 => h11))

theorem State.Canon.execColl {m : Mem} {s : State} (h : s.Canon) : OutCanon (execColl m s) := by
  unfold Machine.execColl
  refine State.Canon.issueWave (fun a h3 => ?_) h
  extract_lets +onlyGivenNames fetch n base o rank g extra data
  clear_value fetch n base o rank g extra data
  split
  next e => exact Canon.of_eq (P := Located.Canon) e (h3.locate (fun _ _ _ h5 => h5))
  next e1 =>
    have h6 : State.Canon _ := Canon.of_eq (P := Located.Canon) e1 (h3.locate (fun _ _ _ h7 => h7))
    exact h3.failWith h6
  next e2 =>
    have h8 : State.Canon _ := Canon.of_eq (P := Located.Canon) e2 (h3.locate (fun _ _ _ h9 => h9))
    extract_lets +onlyGivenNames packets
    clear_value packets
    split
    · exact h3.exhausted h8
    · split
      · exact h8
      · extract_lets +onlyGivenNames p
        clear_value p
        extract_lets +onlyGivenNames p1
        clear_value p1
        split
        extract_lets +onlyGivenNames w
        clear_value w
        exact h8.putWave

theorem State.Canon.nextInterrupts {s : State} (h : s.Canon) : s.nextInterrupts.Canon := by
  unfold State.nextInterrupts
  refine State.Canon.foldl h fun s1 x h2 => ?_
  split
  extract_lets +onlyGivenNames busy
  clear_value busy
  split
  · exact h2
  · extract_lets +onlyGivenNames s2 v s3
    have hs2 : s2.Canon := h2.modLink
    clear_value s2
    have hs3 : s3.Canon := hs2.sendFrom
    clear_value s3
    clear_value v
    exact hs3.modLink

theorem State.Canon.dropOut {s : State} {k : Key} (h : s.Canon) : (s.dropOut k).Canon := by
  unfold State.dropOut
  extract_lets +onlyGivenNames s1
  have hs1 : s1.Canon := h.modLink
  clear_value s1
  refine State.Canon.foldl hs1 fun s2 x h2 => ?_
  split
  · exact h2.transmit
  · exact h2

theorem State.Canon.returnSlot {s : State} {d : Loc} (h : s.Canon) : (s.returnSlot d).Canon := by
  unfold State.returnSlot
  exact h.meetErrors.setNatAt.afterWrite.takeSlots

theorem State.Canon.failOut {s : State} {o : Outstanding} {cause : Cause} {einfo : DWord} (h : s.Canon) :
    (s.failOut o cause einfo).Canon := by
  unfold State.failOut
  extract_lets +onlyGivenNames s1 faddr lane
  have hs1 : s1.Canon := h.dropOut
  clear_value s1
  clear_value faddr lane
  split
  · extract_lets +onlyGivenNames s2
    clear_value s2
    extract_lets +onlyGivenNames s3
    have hs3 : s3.Canon := by
      unfold s3
      split
      · split
        · exact hs1.carryFails
        · exact hs1.notice
      · exact hs1
    clear_value s3
    exact hs3.settleOp
  · exact hs1.modWave.nextInterrupts
  · exact hs1
  · extract_lets +onlyGivenNames s4 s5
    have hs4 : s4.Canon := by
      unfold s4
      split
      · exact hs1.returnSlot
      · exact hs1
    clear_value s4
    clear_value s5
    extract_lets +onlyGivenNames s6
    have hs6 : s6.Canon := hs4.modWave
    clear_value s6
    exact hs6.settleOp

theorem State.Canon.landValue {s : State} {o : Outstanding} {value : List Byte} {poison : Bool} (h : s.Canon) :
    (s.landValue o value poison).Canon := by
  unfold State.landValue
  extract_lets +onlyGivenNames lane
  clear_value lane
  split
  · exact h
  · split
    · extract_lets +onlyGivenNames bs
      clear_value bs
      exact h.putWave
    · exact h.putWave
    · exact h.putWave
    · exact h.putWave
    · split
      · split
        rename_i e
        have h1 : State.Canon _ := Canon.of_eq (P := OnSnd State.Canon) e h.draw
        exact h1.failOut
      · exact h.putWave
    · exact h.putWave
    · exact h.putWave
    · exact h

theorem State.Canon.finalReply {s : State} {o : Outstanding} {value : List Byte} {poison duplicate : Bool}
    (h : s.Canon) : (s.finalReply o value poison duplicate).Canon := by
  unfold State.finalReply
  extract_lets +onlyGivenNames s1 s2 s3 s4
  have hs1 : s1.Canon := h.landValue
  clear_value s1
  have hs2 : s2.Canon := by
    unfold s2
    split
    · split
      · exact hs1.returnSlot
      · exact hs1
    · exact hs1
  clear_value s2
  have hs3 : s3.Canon := hs2.dropOut.takeSlots
  clear_value s3
  have hs4 : s4.Canon := by
    unfold s4
    split
    · exact hs3.gangAck
    · exact hs3
  clear_value s4
  exact hs4.nextInterrupts.settleOp

theorem State.Canon.execRemoteReply {key : Key} {r : Reply} {s : State} (h : s.Canon) : OutCanon
    (execRemoteReply key r s) := by
  unfold Machine.execRemoteReply
  change State.Canon _
  split
  · exact h
  · extract_lets +onlyGivenNames mine first sent
    clear_value mine first sent
    split
    rename_i e
    have h1 : State.Canon _ := Canon.of_eq (P := OnSnd State.Canon) e h.mayLandAt
    split
    · exact h1
    · split
      next e1 =>
        refine Canon.use (P := OnSnd State.Canon) e1 ?_ fun (h2 : State.Canon _) => ?_
        · split
          · exact OnSnd.intro h1
          · exact h1.comesIn
        exact h2
      next e2 =>
        refine Canon.use (P := OnSnd State.Canon) e2 ?_ fun (h3 : State.Canon _) => ?_
        · split
          · exact OnSnd.intro h1
          · exact h1.comesIn
        extract_lets +onlyGivenNames s1 mark
        have hs1 : s1.Canon := by
          unfold s1
          split
          · exact h3.modLink
          · exact h3
        clear_value s1
        have hmark : ∀ (f : Outstanding → Outstanding), (mark f).Canon := by
          intro x
          unfold mark
          exact hs1.modLink
        clear_value mark
        split
        · exact hs1.finalReply.poll
        · exact hs1.finalReply.poll
        · exact hs1.transmit
        · exact hmark _
        · exact hmark _
        · exact hs1.failOut.poll
        · exact hs1.failOut.poll

theorem State.Canon.execRetransmitTimeout {key : Key} {s : State} (h : s.Canon) : OutCanon
    (execRetransmitTimeout key s) := by
  unfold Machine.execRetransmitTimeout
  change State.Canon _
  split
  · split
    · exact h
    · split
      · exact h.transmit
      · split
        · extract_lets +onlyGivenNames s1
          have hs1 : s1.Canon := h.dropOut.gangAck
          clear_value s1
          exact hs1.report.poll
        · exact h.failOut.poll
  · extract_lets +onlyGivenNames v
    clear_value v
    split
    split
    · exact h
    · split
      split
      · extract_lets +onlyGivenNames r die s2
        have hs2 : s2.Canon := h.sendFrom
        clear_value s2
        clear_value r die
        exact hs2.modLink
      · exact h

theorem State.Canon.execBusyResend {key : Key} {s : State} (h : s.Canon) : OutCanon (execBusyResend key s) := by
  unfold Machine.execBusyResend
  change State.Canon _
  split
  · exact h.transmit
  · exact h

theorem State.Canon.execRemoteRequest {req : RemoteReq} {s : State} (h : s.Canon) : OutCanon
    (execRemoteRequest req s) := by
  unfold Machine.execRemoteRequest
  change State.Canon _
  split
  · exact h.arrive
  · exact h

theorem State.Canon.execRetirementNotice {rank incarn ctx tag gridLo gridHi : Nat} {s : State} (h : s.Canon) :
    OutCanon (execRetirementNotice rank incarn ctx tag gridLo gridHi s) := by
  unfold Machine.execRetirementNotice
  change State.Canon _
  extract_lets +onlyGivenNames mine may
  clear_value mine may
  split
  next e =>
    refine Canon.use (P := OnSnd State.Canon) e ?_ fun (h1 : State.Canon _) => ?_
    · split
      · exact OnSnd.intro h
      · exact h.comesIn
    exact h1
  next e1 =>
    refine Canon.use (P := OnSnd State.Canon) e1 ?_ fun (h2 : State.Canon _) => ?_
    · split
      · exact OnSnd.intro h
      · exact h.comesIn
    extract_lets +onlyGivenNames s1 s2
    have hs1 : s1.Canon := h2.dropStream
    clear_value s1
    have hs2 : s2.Canon := by
      unfold s2
      split
      · exact hs1
      · exact hs1.say
    clear_value s2
    split
    · exact hs2
    · refine State.Canon.poll ?_
      refine State.Canon.foldl hs2 fun s3 x h6 => ?_
      extract_lets +onlyGivenNames lo
      clear_value lo
      split
      · exact h6.gangAck
      · exact h6

theorem State.Canon.execRetirementAck {ctx tag : Nat} {s : State} (h : s.Canon) : OutCanon
    (execRetirementAck ctx tag s) := by
  unfold Machine.execRetirementAck
  change State.Canon _
  split
  · exact h
  · split
    · exact h
    · extract_lets +onlyGivenNames s1 s2
      have hs1 : s1.Canon := by
        unfold s1
        refine State.Canon.foldl h fun s3 x h3 => ?_
        split
        split
        · exact h3.dropStream
        · exact h3
      clear_value s1
      have hs2 : s2.Canon := hs1.modLink
      clear_value s2
      exact hs2.modLaunch.poll

theorem State.Canon.execPortStateChange {port : Nat} {st : PortState} {lanes : Nat} {s : State} (h : s.Canon) :
    OutCanon (execPortStateChange port st lanes s) := by
  unfold Machine.execPortStateChange
  change State.Canon _
  split
  · exact h
  · split
    · exact h
    · extract_lets +onlyGivenNames die s1 left s2
      have hs1 : s1.Canon := h.modLink
      clear_value s1
      have hs2 : s2.Canon := by
        unfold s2
        split
        · exact hs1
        · exact hs1.foldl (fun _ _ h1 => h1.transmit)
      clear_value s2
      clear_value die left
      split
      · exact hs2.report
      · exact hs2

theorem State.Canon.execInjectorTrigger {lane : Nat} {s : State} (h : s.Canon) : OutCanon
    (execInjectorTrigger lane s) := by
  unfold Machine.execInjectorTrigger
  exact h.triggerFlit

theorem State.Canon.execInjectorDelayEnd {lane : Nat} {s : State} (h : s.Canon) : OutCanon
    (execInjectorDelayEnd lane s) := by
  unfold Machine.execInjectorDelayEnd
  change State.Canon _
  split
  · split
    · exact h.setInjector.passFlit
    · exact h
  · exact h

theorem State.Canon.execSlotReleaseNotice {descriptor released : DWord} {s : State} (h : s.Canon) : OutCanon
    (execSlotReleaseNotice descriptor released s) := by
  unfold Machine.execSlotReleaseNotice
  change State.Canon _
  extract_lets +onlyGivenNames a near
  clear_value a near
  split
  · exact h
  · extract_lets +onlyGivenNames d src
    clear_value d src
    split
    next e =>
      have h1 : State.Canon _ := Canon.of_eq (P := Target.Canon) e h.target
      split
      · extract_lets +onlyGivenNames s1 v
        have hs1 : s1.Canon := h1.meetErrors
        clear_value s1
        clear_value v
        exact hs1.setNatAt.afterWrite.takeSlots.poll
      · exact h1
    next e1 => exact Canon.of_eq (P := Target.Canon) e1 h.target
    next e2 =>
      have h3 : Target.Canon _ := Canon.of_eq (P := Target.Canon) e2 h.target
      exact h

end Sys2Proof.Machine
end

section
/-! SUPPORT. Canonical memories under the release of outbound effects (Machine/Hold). -/

namespace Sys2Proof.Machine

theorem State.Canon.modHeld {s : State} {id : Nat} {hh : Held} {f : Held → Held} (h : s.Canon) :
    (s.modHeld id hh f).Canon := by
  unfold State.modHeld
  exact h.modWave

theorem State.Canon.flushed {s : State} {w : Wave} {hh : Held} {scope : Option Scope} (h : s.Canon) :
    OnSnd State.Canon (s.flushed w hh scope) := by
  unfold State.flushed
  split
  · exact OnSnd.intro h
  · extract_lets +onlyGivenNames ready
    clear_value ready
    split
    · exact OnSnd.intro h
    · split
      · refine OnSnd.intro ?_
        split
        · exact h.writebackWhere
        · exact h
      · split
        rename_i e
        refine Canon.use (P := OnSnd State.Canon) e ?_ fun (h1 : State.Canon _) => ?_
        · split
          · exact OnSnd.intro h
          · exact h.closeEpoch
        extract_lets +onlyGivenNames s1 s2
        have hs1 : s1.Canon := h1.modHeld
        clear_value s1
        have hs2 : s2.Canon := hs1.flushEpoch
        clear_value s2
        exact OnSnd.intro hs2

theorem State.Canon.recording {s : State} {w : Wave} {hh : Held} {scope : Option Scope} (h : s.Canon) : OnSnd
    (OnSnd State.Canon) (s.recording w hh scope) := by
  unfold State.recording
  split
  · exact OnSnd.intro (OnSnd.intro h)
  · extract_lets +onlyGivenNames far s1 host
    have hs1 : s1.Canon := h.writebackWhere
    clear_value s1
    clear_value far host
    split
    · exact OnSnd.intro (OnSnd.intro hs1)
    · split
      rename_i e
      refine Canon.use (P := OnSnd State.Canon) e ?_ fun (h1 : State.Canon _) => ?_
      · split
        · exact OnSnd.intro hs1
        · exact hs1.closeEpoch
      exact OnSnd.intro (OnSnd.intro h1)

theorem State.Canon.storeL1 {s : State} {core ret : Nat} {op : LaneOp} (h : s.Canon) :
    (s.storeL1 core ret op).Canon := by
  unfold State.storeL1
  extract_lets +onlyGivenNames line now s1 s2 s3 one
  have hs1 : s1.Canon := by
    unfold s1
    split
    · split
      · exact h.writebackWhere
      · exact h
    · exact h
  clear_value s1
  have hs2 : s2.Canon := hs1.dirFill
  clear_value s2
  have hs3 : s3.Canon := hs2.needFrame
  clear_value s3
  clear_value line now one
  exact hs3.modCore

theorem State.Canon.sendHome {s : State} {w : Wave} {hh : Held} {ops : List LaneOp} {f : LaneOp → MsgKind}
    (h : s.Canon) : (s.sendHome w hh ops f).Canon := by
  unfold State.sendHome
  refine State.Canon.foldl h fun s1 x h2 => ?_
  extract_lets +onlyGivenNames own s2
  have hs2 : s2.Canon := by
    unfold s2
    split
    · exact h2.surrenderLine
    · exact h2
  clear_value s2
  clear_value own
  exact hs2.send

theorem State.Canon.olderOut {s : State} {core : Nat} (h : s.Canon) : OnSnd State.Canon (s.olderOut core) := by
  unfold State.olderOut
  extract_lets +onlyGivenNames e
  clear_value e
  split
  · exact OnSnd.intro h.writebackWhere
  · exact OnSnd.intro h

theorem State.Canon.l1Needs {s : State} {w : Wave} {no : Nat} {op : LaneOp} (h : s.Canon) : OnSome State.Canon
    (s.l1Needs w no op) := by
  unfold State.l1Needs
  split
  · exact h
  · split
    · exact h.recallHalf
    · exact h.dirFull

theorem State.Canon.leaveStores {s : State} {w : Wave} {hh : Held} {a : List LaneOp} (h : s.Canon) :
    (s.leaveStores w hh a).Canon := by
  unfold State.leaveStores
  split
  · exact h
  · exact h.modWave

theorem State.Canon.performStores {s : State} {w : Wave} {hh : Held} {cache : Cache} {home : Bool} {a : List LaneOp}
    (h : s.Canon) : (s.performStores w hh cache home a).Canon := by
  induction a generalizing s with
  | nil =>
    unfold State.performStores
    exact h
  | cons x a ih =>
    unfold State.performStores
    split
    · split
      next e =>
        have h1 : State.Canon _ := Canon.of_eq (P := OnSome State.Canon) e h.l1Needs
        exact h1.leaveStores
      · exact ih h.storeL1
    · split
      next e1 =>
        have h2 : State.Canon _ := Canon.of_eq (P := OnSnd State.Canon) e1 h.olderOut
        exact h2.leaveStores
      next e2 =>
        have h3 : State.Canon _ := Canon.of_eq (P := OnSnd State.Canon) e2 h.olderOut
        exact ih h3.sendHome

theorem State.Canon.releaseStores {s : State} {w : Wave} {hh : Held} {lanes : List LaneOp} {home : Bool}
    {rel : Option Scope} (h : s.Canon) : (s.releaseStores w hh lanes home rel).Canon := by
  unfold State.releaseStores
  extract_lets +onlyGivenNames ops
  clear_value ops
  split
  · exact h
  · extract_lets +onlyGivenNames recorded strong
    clear_value recorded strong
    split
    · split
      next e => exact Canon.of_eq (P := OnSnd State.Canon) e h.flushed
      next e1 =>
        have h2 : State.Canon _ := Canon.of_eq (P := OnSnd State.Canon) e1 h.flushed
        extract_lets +onlyGivenNames e2
        clear_value e2
        exact h2.sendHome
    · split
      next e3 => exact Canon.of_eq (P := OnSnd (OnSnd State.Canon)) e3 h.recording
      next e4 =>
        have h4 : State.Canon _ := Canon.of_eq (P := OnSnd (OnSnd State.Canon)) e4 h.recording
        exact h4.performStores
      next e5 =>
        have h5 : State.Canon _ := Canon.of_eq (P := OnSnd (OnSnd State.Canon)) e5 h.recording
        exact h5.sendHome

theorem State.Canon.releaseAtomics {s : State} {w : Wave} {hh : Held} {kind : HomeOp} {ops : List LaneOp}
    {fetch : Bool} {rel : Option Scope} (h : s.Canon) : (s.releaseAtomics w hh kind ops fetch rel).Canon := by
  unfold State.releaseAtomics
  extract_lets +onlyGivenNames keyed
  clear_value keyed
  split
  · exact h
  · split
    · split
      next e => exact Canon.of_eq (P := OnSnd State.Canon) e h.flushed
      next e1 =>
        have h2 : State.Canon _ := Canon.of_eq (P := OnSnd State.Canon) e1 h.flushed
        split
        next e2 => exact Canon.of_eq (P := OnSnd State.Canon) e2 h2.olderOut
        next e3 =>
          have h4 : State.Canon _ := Canon.of_eq (P := OnSnd State.Canon) e3 h2.olderOut
          extract_lets +onlyGivenNames e4
          clear_value e4
          exact h4.sendHome
    · split
      next e5 => exact Canon.of_eq (P := OnSnd (OnSnd State.Canon)) e5 h.recording
      next e6 =>
        have h6 : State.Canon _ := Canon.of_eq (P := OnSnd (OnSnd State.Canon)) e6 h.recording
        split
        next e7 =>
          refine Canon.use (P := OnSnd State.Canon) e7 ?_ fun (h7 : State.Canon _) => ?_
          · split
            · exact h6.olderOut
            · exact OnSnd.intro h6
          exact h7
        next e8 =>
          refine Canon.use (P := OnSnd State.Canon) e8 ?_ fun (h8 : State.Canon _) => ?_
          · split
            · exact h6.olderOut
            · exact OnSnd.intro h6
          exact h8.sendHome

theorem State.Canon.readSources {s : State} {w : Wave} {hh : Held} {ls : List (List (Loc × Nat))}
    {got : List (Nat × PByte)} {keep : List (Nat × PByte) → Effect} (h : s.Canon) : OnSnd State.Canon
    (s.readSources w hh ls got keep) := by
  unfold State.readSources
  extract_lets +onlyGivenNames needs
  have hneeds : OnSnd State.Canon needs := by
    unfold needs
    refine foldl_preserves (P := OnSnd State.Canon) (OnSnd.intro h) fun s1 x h3 => ?_
    split
    next e =>
      have h4 : State.Canon _ := Canon.of_eq (P := OnSome State.Canon) e (h3 : State.Canon _).homeNeeds
      exact OnSnd.intro h4
    · exact h3
  clear_value needs
  split
  · exact OnSnd.intro (hneeds : State.Canon _)
  · extract_lets +onlyGivenNames s2 x1 todo
    have hs2 : s2.Canon := hneeds
    clear_value s2
    clear_value x1 todo
    split
    rename_i e1
    refine Canon.use (P := OnSnd State.Canon) e1 ?_ fun (h5 : State.Canon _) => ?_
    · split
      · exact OnSnd.intro hs2
      · split
        rename_i e2
        have h6 : State.Canon _ := Canon.of_eq (P := OnSnd State.Canon) e2 hs2.chooseSome
        exact OnSnd.intro h6
    split
    rename_i e3
    refine Canon.use (P := OnSnd State.Canon) e3 ?_ fun (h7 : State.Canon _) => ?_
    · refine foldl_preserves (P := OnSnd State.Canon) (OnSnd.intro h5) fun s3 x2 h10 => ?_
      split
      · split
        rename_i e4
        have h11 : State.Canon _ := Canon.of_eq (P := OnSnd State.Canon) e4 (h10 : State.Canon _).homeRead
        exact OnSnd.intro h11
      · exact h10
    split
    · exact OnSnd.intro h7.modWave
    · extract_lets +onlyGivenNames cut
      clear_value cut
      exact OnSnd.intro h7

theorem State.Canon.putPoison {s : State} {w : Wave} {hh : Held} {lanes : List Nat} (h : s.Canon) :
    (s.putPoison w hh lanes).Canon := by
  unfold State.putPoison
  split
  · exact h
  · extract_lets +onlyGivenNames s1
    have hs1 : s1.Canon := h.reportOp
    clear_value s1
    exact hs1.modWave

theorem State.Canon.retireScalar {s : State} {w : Wave} {i : Nat} {v : Val} (h : s.Canon) :
    (s.retireScalar w i v).Canon := by
  unfold State.retireScalar
  extract_lets +onlyGivenNames put
  clear_value put
  exact h.modBlock (fun _ h1 => h1)

theorem State.Canon.recordNeeds {s : State} {c : Nat} (h : s.Canon) : OnSome State.Canon (s.recordNeeds c) := by
  unfold State.recordNeeds
  split
  · exact h.evNeeds
  · exact h

theorem State.Canon.releaseEffect {s : State} {w : Wave} {hh : Held} (h : s.Canon) :
    (s.releaseEffect w hh).Canon := by
  unfold State.releaseEffect
  extract_lets +onlyGivenNames after
  have hafter : ∀ (scope : Option Scope) (k : State → State), (∀ (a : State), a.Canon → (k a).Canon) →
    (after scope k).Canon := by
    intro x x1 h2
    unfold after
    split
    next e => exact Canon.of_eq (P := OnSnd State.Canon) e h.flushed
    next e1 =>
      have h4 : State.Canon _ := Canon.of_eq (P := OnSnd State.Canon) e1 h.flushed
      split
      next e2 =>
        refine Canon.use (P := OnSnd State.Canon) e2 ?_ fun (h5 : State.Canon _) => ?_
        · split
          · exact h4.olderOut
          · exact OnSnd.intro h4
        exact h5
      next e3 =>
        refine Canon.use (P := OnSnd State.Canon) e3 ?_ fun (h6 : State.Canon _) => ?_
        · split
          · exact h4.olderOut
          · exact OnSnd.intro h4
        exact h2 _ h6
  clear_value after
  split
  · exact h.releaseStores
  · exact h.releaseAtomics
  · exact hafter _ _ (fun _ h7 => h7.sendRemote)
  · apply hafter
    intro a h9
    extract_lets +onlyGivenNames parts
    clear_value parts
    exact h9.sendRemote
  · extract_lets +onlyGivenNames waits
    clear_value waits
    split
    · exact h
    · apply hafter
      intro a1 h11
      extract_lets +onlyGivenNames s1
      have hs1 : s1.Canon := h11.modQueue
      clear_value s1
      exact hs1.pushAll
  · exact hafter _ _ (fun _ h12 => h12.send)
  · exact hafter _ _ (fun _ h13 => h13.modLink.nextInterrupts)
  · exact h
  · split
    · exact h
    · exact hafter _ _ (fun _ h14 => (h14.modBlock (fun _ h15 => h15)))
  · split
    · exact hafter _ _ (fun _ h16 => h16.surrenderLine.send)
    · split
      next e4 => exact Canon.of_eq (P := OnSnd (OnSnd State.Canon)) e4 h.recording
      next e5 =>
        have h18 : State.Canon _ := Canon.of_eq (P := OnSnd (OnSnd State.Canon)) e5 h.recording
        split
        next e6 =>
          refine Canon.use (P := OnSnd State.Canon) e6 ?_ fun (h19 : State.Canon _) => ?_
          · split
            · exact h18.olderOut
            · exact OnSnd.intro h18
          exact h19
        next e7 =>
          refine Canon.use (P := OnSnd State.Canon) e7 ?_ fun (h20 : State.Canon _) => ?_
          · split
            · exact h18.olderOut
            · exact OnSnd.intro h18
          exact h20.surrenderLine.send
  · extract_lets +onlyGivenNames go
    have hgo : ∀ (s : State) (e : Option Nat), s.Canon → (go s e).Canon := by
      intro x2 x3 h22
      unfold go
      exact h22.modWave.send
    clear_value go
    split
    · split
      next e8 => exact Canon.of_eq (P := OnSnd (OnSnd State.Canon)) e8 h.recording
      next e9 =>
        have h24 : State.Canon _ := Canon.of_eq (P := OnSnd (OnSnd State.Canon)) e9 h.recording
        exact hgo _ _ h24.surrenderLine
    · exact hgo _ _ h
  · exact h.surrenderLine.send
  · exact hafter _ _ (fun _ h25 => h25.surrenderLine.send)
  · split
    next e10 => exact Canon.of_eq (P := OnSnd State.Canon) e10 h.flushed
    next e11 =>
      have h27 : State.Canon _ := Canon.of_eq (P := OnSnd State.Canon) e11 h.flushed
      split
      next e12 => exact Canon.of_eq (P := OnSnd State.Canon) e12 h27.readSources
      next e13 =>
        have h29 : State.Canon _ := Canon.of_eq (P := OnSnd State.Canon) e13 h27.readSources
        extract_lets +onlyGivenNames bad
        clear_value bad
        split
        · exact h29.putPoison
        · extract_lets +onlyGivenNames ms
          clear_value ms
          exact h29.modLink.takeSlots
  · split
    next e14 => exact Canon.of_eq (P := OnSnd State.Canon) e14 h.flushed
    next e15 =>
      have h31 : State.Canon _ := Canon.of_eq (P := OnSnd State.Canon) e15 h.flushed
      extract_lets +onlyGivenNames s2
      have hs2 : s2.Canon := h31.surrenderLine
      clear_value s2
      split
      · exact hs2
      · split
        next e16 => exact Canon.of_eq (P := OnSome State.Canon) e16 hs2.homeNeeds
        · extract_lets +onlyGivenNames s3 rel v s4 dest rank
          have hs3 : s3.Canon := hs2.meetErrors
          clear_value s3
          have hs4 : s4.Canon := hs3.setNatAt.afterWrite
          clear_value s4
          clear_value rel v dest rank
          split
          · split
            rename_i e17
            refine Canon.use (P := OnSnd State.Canon) e17 ?_ fun (h33 : State.Canon _) => ?_
            · split
              · exact hs4.draw
              · exact OnSnd.intro hs4
            exact h33.modWave
          · extract_lets +onlyGivenNames r s5
            have hs5 : s5.Canon := hs4.sendRemote
            clear_value s5
            clear_value r
            exact hs5.modLink
  · split
    next e18 => exact Canon.of_eq (P := OnSnd State.Canon) e18 h.flushed
    next e19 =>
      have h35 : State.Canon _ := Canon.of_eq (P := OnSnd State.Canon) e19 h.flushed
      split
      next e20 => exact Canon.of_eq (P := OnSnd State.Canon) e20 h35.readSources
      next e21 =>
        have h37 : State.Canon _ := Canon.of_eq (P := OnSnd State.Canon) e21 h35.readSources
        extract_lets +onlyGivenNames bad1
        clear_value bad1
        split
        · exact h37.putPoison
        · extract_lets +onlyGivenNames parts1
          clear_value parts1
          exact h37.sendRemote
  · exact h.retireScalar
  · split
    next e22 => exact Canon.of_eq (P := OnSome State.Canon) e22 h.recordNeeds
    · extract_lets +onlyGivenNames r1 die mark
      have hmark : ∀ (a : Nat) (s : State), s.Canon → (mark a s).Canon := by
        intro x4 x5 h40
        unfold mark
        exact h40.modDev
      clear_value mark
      clear_value r1 die
      split
      · split
        rename_i e23
        have h41 : State.Canon _ := Canon.of_eq (P := OnSnd State.Canon) e23 h.eventAt
        exact hmark _ _ h41
      · split
        rename_i e24
        have h42 : State.Canon _ := Canon.of_eq (P := OnSnd State.Canon) e24 h.record
        extract_lets +onlyGivenNames s6 s7 s8
        have hs6 : s6.Canon := hmark _ _ h42
        clear_value s6
        have hs7 : s7.Canon := by
          unfold s7
          split
          · exact hs6.sendMsix
          · exact hs6
        clear_value s7
        have hs8 : s8.Canon := by
          unfold s8
          split
          · exact hs7.ctxFault
          · split
            · exact hs7.modDev
            · exact hs7
        clear_value s8
        exact hs8

theorem State.Canon.execOutboundHoldEnd {wave : Nat} {s : State} (h : s.Canon) : OutCanon
    (execOutboundHoldEnd wave s) := by
  unfold Machine.execOutboundHoldEnd
  change State.Canon _
  split
  · exact h
  · split
    · exact h
    · split
      · exact h
      · split
        next e => exact Canon.of_eq (P := Release.Canon) e h.releaseEffect
        next e1 =>
          have h2 : State.Canon _ := Canon.of_eq (P := Release.Canon) e1 h.releaseEffect
          extract_lets +onlyGivenNames s1 s2
          have hs1 : s1.Canon := h2.modWave
          clear_value s1
          have hs2 : s2.Canon := by
            unfold s2
            split
            · exact hs1
            · exact hs1.leaveCores
          clear_value s2
          exact hs2.settleOp.poll

end Sys2Proof.Machine
end

section
/-! SUPPORT. Canonical memories under queues, engine entries and chunks (Machine/Queue). -/

namespace Sys2Proof.Machine

theorem State.Canon.readNow {s : State} {w : Wave} {no : Nat} {l : Loc} {n : Nat} (h : s.Canon) :
    (s.readNow w no l n).Canon := by
  unfold State.readNow
  extract_lets +onlyGivenNames first secs r
  have hr : OnSnd (OnSnd State.Canon) r := by
    unfold r
    refine foldl_preserves (P := OnSnd (OnSnd State.Canon)) (OnSnd.intro (OnSnd.intro h)) fun s1 x h3 => ?_
    split
    split
    · exact OnSnd.intro (OnSnd.intro (h3 : State.Canon _))
    · split
      · exact OnSnd.intro (OnSnd.intro (h3 : State.Canon _))
      · split
        · exact OnSnd.intro (OnSnd.intro (h3 : State.Canon _))
        · split
          · exact OnSnd.intro (OnSnd.intro (h3 : State.Canon _))
          · split
            next e =>
              have h4 : State.Canon _ := Canon.of_eq (P := OnSome State.Canon) e (h3 : State.Canon _).homeNeeds
              exact OnSnd.intro (OnSnd.intro h4)
            · split
              rename_i e1
              have h5 : State.Canon _ := Canon.of_eq (P := OnSnd State.Canon) e1 (h3 : State.Canon _).homeRead
              exact OnSnd.intro (OnSnd.intro h5)
  clear_value r
  clear_value first secs
  split
  split
  · exact hr
  · extract_lets +onlyGivenNames mine bs
    clear_value mine bs
    exact hr

theorem Iss.Canon.images {x : Iss} {s : State} {ps : List (Nat × Place)} (_ : x.Canon) (h1 : s.Canon) :
    OnSnd State.Canon (x.images s ps) := by
  unfold Iss.images
  refine foldl_preserves (P := OnSnd State.Canon) (OnSnd.intro h1) fun s1 x1 h3 => ?_
  split
  · exact h3
  · exact OnSnd.intro (h3 : State.Canon _)
  · split
    next e =>
      have h4 : State.Canon _ := Canon.of_eq (P := ReadNow.Canon) e (h3 : State.Canon _).readNow
      exact OnSnd.intro h4
    next e1 =>
      have h5 : State.Canon _ := Canon.of_eq (P := ReadNow.Canon) e1 (h3 : State.Canon _).readNow
      exact OnSnd.intro h5

theorem Iss.Canon.imageCheck {x : Iss} {m : Mem} {i : Nat} {p : Place} {s : State} (_ : x.Canon) (h1 : s.Canon) :
    (x.imageCheck m i p s).Canon := by
  unfold Iss.imageCheck
  split
  · exact h1
  · split
    next e =>
      have h2 : State.Canon _ := Canon.of_eq (P := ReadNow.Canon) e h1.readNow
      split <;> exact h2
    next e1 => exact Canon.of_eq (P := ReadNow.Canon) e1 h1.readNow

theorem State.Canon.execQpush {m : Mem} {s : State} (h : s.Canon) : OutCanon (execQpush m s) := by
  unfold Machine.execQpush
  refine State.Canon.issueWave (fun a h3 => ?_) h
  extract_lets +onlyGivenNames sel extra
  clear_value sel extra
  split
  next e => exact Canon.of_eq (P := Located.Canon) e (h3.locate (fun _ _ _ h5 => (h3.imageCheck h5)))
  next e1 =>
    have h6 : State.Canon _ := Canon.of_eq (P := Located.Canon) e1 (h3.locate (fun _ _ _ h7 => (h3.imageCheck h7)))
    exact h3.failWith h6
  next e2 =>
    have h8 : State.Canon _ := Canon.of_eq (P := Located.Canon) e2 (h3.locate (fun _ _ _ h9 => (h3.imageCheck h9)))
    refine Iss.Canon.limited h3 h8 ?_
    split
    next e3 => exact Canon.of_eq (P := OnSnd State.Canon) e3 (h3.images h8)
    next e4 =>
      have h11 : State.Canon _ := Canon.of_eq (P := OnSnd State.Canon) e4 (h3.images h8)
      extract_lets +onlyGivenNames o
      clear_value o
      extract_lets +onlyGivenNames o1
      clear_value o1
      split
      extract_lets +onlyGivenNames w reqs
      clear_value w reqs
      exact h11.putWave.sendRemote

theorem State.Canon.execQwait {m : Mem} {s : State} (h : s.Canon) : OutCanon (execQwait m s) := by
  unfold Machine.execQwait
  refine State.Canon.issueWait (fun a h3 => ?_) h
  extract_lets +onlyGivenNames i extra
  clear_value i extra
  split
  next e => exact Canon.of_eq (P := Located.Canon) e (h3.locate (fun _ _ _ h5 => h5))
  next e1 =>
    have h6 : State.Canon _ := Canon.of_eq (P := Located.Canon) e1 (h3.locate (fun _ _ _ h7 => h7))
    exact h3.failWith h6
  next e2 =>
    have h8 : State.Canon _ := Canon.of_eq (P := Located.Canon) e2 (h3.locate (fun _ _ _ h9 => h9))
    extract_lets +onlyGivenNames p
    clear_value p
    split
    · exact h8
    · split <;> exact h8

theorem State.Canon.stopQueue {s : State} {c : Nat} {eng : Bool} {q : Nat} (h : s.Canon) :
    (s.stopQueue c eng q).Canon := by
  unfold State.stopQueue
  extract_lets +onlyGivenNames s1
  have hs1 : s1.Canon := h.modQueue
  clear_value s1
  exact hs1.setQState

theorem State.Canon.queueWaits {s : State} {c : Nat} {eng : Bool} {q : Nat} (h : s.Canon) : OnSome State.Canon
    (s.queueWaits c eng q) := by
  unfold State.queueWaits
  split
  next e => exact Canon.of_eq (P := DevAcc.Canon) e h.reach
  · exact trivial

theorem State.Canon.queueCommand {s : State} {c : Nat} {eng : Bool} {q : Nat} {op : QueueOp} (h : s.Canon) :
    OnSnd State.Canon (s.queueCommand c eng q op) := by
  unfold State.queueCommand
  extract_lets +onlyGivenNames x busy result
  have hresult : OnSome State.Canon result := by
    unfold result
    split
    · exact trivial
    · change State.Canon _
      split
      · exact h.modQueue
      · exact h.stopQueue
    · split
      · exact h.loadQueue
      · exact trivial
    · split
      next e =>
        have h1 : State.Canon _ := Canon.of_eq (P := HeaderRead.Canon) e h.readHeader
        exact trivial
      next e1 =>
        have h2 : State.Canon _ := Canon.of_eq (P := HeaderRead.Canon) e1 h.readHeader
        extract_lets +onlyGivenNames s1 s2
        have hs1 : s1.Canon := by
          unfold s1
          split
          · exact h2
          · exact h2.settlePushed
        clear_value s1
        have hs2 : s2.Canon := hs1.modQueue
        clear_value s2
        exact hs2.advanceHead
    · exact h.modQueue.setQState
    · exact trivial
  clear_value result
  clear_value x busy
  split
  · exact OnSnd.intro (hresult : State.Canon _).setCmdStat
  · exact OnSnd.intro h.setCmdStat

theorem State.Canon.hostQueueNeeds {s : State} {c qaddr : Nat} (h : s.Canon) : OnSome State.Canon
    (s.hostQueueNeeds c qaddr) := by
  unfold State.hostQueueNeeds
  split
  · exact h
  · refine OnSome.bind (fun a => ?_)
    split
    exact h.queueWaits

theorem State.Canon.performQueue {s : State} {c qaddr : Nat} {op : Option QueueOp} (h : s.Canon) :
    (s.performQueue c qaddr op).Canon := by
  unfold State.performQueue
  split
  · exact h.setEntry
  · split
    · split
      rename_i e
      have h1 : State.Canon _ := Canon.of_eq (P := OnSnd State.Canon) e h.queueCommand
      exact h1.setEntry.poll
    · exact h.setEntry

theorem State.Canon.pushCommand {s : State} {k : HostCmd} (h : s.Canon) : (s.pushCommand k).Canon := by
  unfold State.pushCommand
  exact h.modDev

theorem State.Canon.hostQueue {s : State} {c code : Nat} (h : s.Canon) : (s.hostQueue c code).Canon := by
  unfold State.hostQueue
  split
  · exact h
  · split
    · exact h.pushCommand
    · split
      next e =>
        have h1 : State.Canon _ := Canon.of_eq (P := OnSome State.Canon) e h.hostQueueNeeds
        exact h1.pushCommand
      · exact h.performQueue

theorem State.Canon.execStop {ctx : Nat} {s : State} (h : s.Canon) : OutCanon (execStop ctx s) := by
  unfold Machine.execStop
  exact h.hostQueue

theorem State.Canon.execStart {ctx : Nat} {s : State} (h : s.Canon) : OutCanon (execStart ctx s) := by
  unfold Machine.execStart
  exact h.hostQueue

theorem State.Canon.execSkip {ctx : Nat} {s : State} (h : s.Canon) : OutCanon (execSkip ctx s) := by
  unfold Machine.execSkip
  exact h.hostQueue

theorem State.Canon.execRetry {ctx : Nat} {s : State} (h : s.Canon) : OutCanon (execRetry ctx s) := by
  unfold Machine.execRetry
  exact h.hostQueue

theorem State.Canon.execHeaderWriteSeen {ctx : Nat} {engine : Bool} {queue : Nat} {s : State} (h : s.Canon) :
    OutCanon (execHeaderWriteSeen ctx engine queue s) := by
  unfold Machine.execHeaderWriteSeen
  change State.Canon _
  extract_lets +onlyGivenNames x n
  clear_value x n
  split
  · exact h
  · split
    · split
      next e => exact Canon.of_eq (P := HeaderRead.Canon) e h.readHeader
      next e1 =>
        have h2 : State.Canon _ := Canon.of_eq (P := HeaderRead.Canon) e1 h.readHeader
        split
        · exact h2.notice.faultQueue
        · split
          · exact h2.setQState
          · exact h2
    · split
      next e2 => exact Canon.of_eq (P := HeaderRead.Canon) e2 h.readHeader
      next e3 =>
        have h4 : State.Canon _ := Canon.of_eq (P := HeaderRead.Canon) e3 h.readHeader
        split
        · exact h4.notice.faultQueue
        · split
          · exact h4.setQState
          · exact h4
    · split
      next e4 => exact Canon.of_eq (P := HeaderRead.Canon) e4 h.readHeader
      next e5 =>
        have h6 : State.Canon _ := Canon.of_eq (P := HeaderRead.Canon) e5 h.readHeader
        split
        · exact h6.notice.faultQueue
        · split
          · exact h6.setQState
          · exact h6
    · split
      next e6 => exact Canon.of_eq (P := HeaderRead.Canon) e6 h.readHeader
      next e7 =>
        have h8 : State.Canon _ := Canon.of_eq (P := HeaderRead.Canon) e7 h.readHeader
        split
        · exact h8.notice.faultQueue
        · split
          · exact h8.setQState
          · exact h8
    · exact h

theorem State.Canon.modEntry {s : State} {c q : Nat} {f : Entry → Entry} (h : s.Canon) :
    (s.modEntry c q f).Canon := by
  unfold State.modEntry
  exact h.modQueue

theorem State.Canon.failEntry {s : State} {c q : Nat} {e : Entry} {status : Nat} (h : s.Canon) :
    (s.failEntry c q e status).Canon := by
  unfold State.failEntry
  exact h.setStatus.faultQueue

theorem State.Canon.completeEntry {s : State} {c q : Nat} {e : Entry} (h : s.Canon) :
    (s.completeEntry c q e).Canon := by
  unfold State.completeEntry
  extract_lets +onlyGivenNames x ctrl done va late finish
  have hlate : ∀ (s : State), s.Canon → (late s).Canon := by
    intro x1 h2
    unfold late
    exact h2.modEntry
  clear_value late
  have hfinish : ∀ (s : State), s.Canon → (finish s).Canon := by
    intro x2 h4
    unfold finish
    extract_lets +onlyGivenNames s1 s2 s3
    have hs1 : s1.Canon := h4.setStatus
    clear_value s1
    have hs2 : s2.Canon := hs1.advanceHead
    clear_value s2
    have hs3 : s3.Canon := by
      unfold s3
      split
      · exact hs2.sendMsix
      · exact hs2
    clear_value s3
    exact hs3.poll
  clear_value finish
  clear_value x ctrl done va
  split
  next e1 => exact Canon.of_eq (P := Ready.Canon) e1 h.ringReady
  next e2 =>
    have h6 : State.Canon _ := Canon.of_eq (P := Ready.Canon) e2 h.ringReady
    exact hlate _ h6
  next e3 =>
    have h7 : State.Canon _ := Canon.of_eq (P := Ready.Canon) e3 h.ringReady
    split
    · exact hfinish _ h7
    · split
      next e4 => exact Canon.of_eq (P := DevAcc.Canon) e4 h7.reach
      next e5 =>
        have h9 : State.Canon _ := Canon.of_eq (P := DevAcc.Canon) e5 h7.reach
        exact (hlate _ h9).entryPageFault
      next e6 =>
        have h10 : State.Canon _ := Canon.of_eq (P := DevAcc.Canon) e6 h7.reach
        split
        · exact h10.askLine
        · split
          · extract_lets +onlyGivenNames s4
            have hs4 : s4.Canon := h10.meetErrors
            clear_value s4
            split
            next e7 =>
              have h11 : State.Canon _ := Canon.of_eq (P := OnSome State.Canon) e7 hs4.feedCell
              exact hfinish _ h11.afterWrite
            · exact (hlate _ hs4.queueEvent).failEntry
          · exact hfinish _ h10.bump

theorem State.Canon.writeRcache {s : State} {c q : Nat} {e : Entry} (h : s.Canon) : OnSnd State.Canon
    (s.writeRcache c q e) := by
  unfold State.writeRcache
  extract_lets +onlyGivenNames x
  clear_value x
  split
  next e1 =>
    have h1 : State.Canon _ := Canon.of_eq (P := DevAcc.Canon) e1 h.reach
    exact OnSnd.intro h1
  next e2 =>
    have h2 : State.Canon _ := Canon.of_eq (P := DevAcc.Canon) e2 h.reach
    exact OnSnd.intro h2.entryPageFault
  next e3 =>
    have h3 : State.Canon _ := Canon.of_eq (P := DevAcc.Canon) e3 h.reach
    extract_lets +onlyGivenNames s1
    have hs1 : s1.Canon := State.Canon.setMem h3 (Memory.wf_veil (h3.memOf _) _ _ _)
    clear_value s1
    exact OnSnd.intro (hs1.frame rfl rfl rfl)

theorem State.Canon.takeRecord {s : State} {c q : Nat} {e : Entry} (h : s.Canon) : (s.takeRecord c q e).Canon := by
  unfold State.takeRecord
  extract_lets +onlyGivenNames x x1 dst
  clear_value x x1 dst
  split
  · split <;> exact h
  · split
    next e1 => exact Canon.of_eq (P := DevAcc.Canon) e1 h.reach
    next e2 =>
      have h2 : State.Canon _ := Canon.of_eq (P := DevAcc.Canon) e2 h.reach
      exact h2.entryPageFault
    next e3 =>
      have h3 : State.Canon _ := Canon.of_eq (P := DevAcc.Canon) e3 h.reach
      split
      rename_i e4
      have h4 : State.Canon _ := Canon.of_eq (P := OnSnd State.Canon) e4 h3.homeRead
      extract_lets +onlyGivenNames r
      clear_value r
      split
      · exact h4
      · split
        next e5 => exact Canon.of_eq (P := OnSnd State.Canon) e5 h4.writeRcache
        next e6 =>
          have h6 : State.Canon _ := Canon.of_eq (P := OnSnd State.Canon) e6 h4.writeRcache
          extract_lets +onlyGivenNames keep s1
          have hs1 : s1.Canon := h6.modQueue
          clear_value s1
          clear_value keep
          split <;> exact hs1

theorem State.Canon.startEntry {s : State} {c q : Nat} {e : Entry} (h : s.Canon) : (s.startEntry c q e).Canon := by
  unfold State.startEntry
  split
  rename_i e1
  have h1 : State.Canon _ := Canon.of_eq (P := OnSnd State.Canon) e1 h.entryHolds
  split
  · exact h1
  · split
    · exact h1
    · split
      · exact h1.setQState
      · extract_lets +onlyGivenNames go
        have hgo : ∀ (s : State) (shape : List Byte), s.Canon → (go s shape).Canon := by
          intro x x1 h3
          unfold go
          split
          rename_i e2
          refine Canon.use (P := OnSnd State.Canon) e2 ?_ fun (h4 : State.Canon _) => ?_
          · split
            · exact h3.writeRcache
            · exact OnSnd.intro h3
          split
          · exact h4
          · extract_lets +onlyGivenNames e3 s1 s2 s3
            have hs1 : s1.Canon := h4.modEntry
            clear_value s1
            have hs2 : s2.Canon := hs1.setStatus
            clear_value s2
            clear_value e3 s3
            extract_lets +onlyGivenNames s4
            have hs4 : s4.Canon := by
              unfold s4
              split
              · exact hs2.modQueue
              · exact hs2
            clear_value s4
            split
            · exact hs4.completeEntry
            · exact hs4
        clear_value go
        split
        · split
          next e4 =>
            have h5 : State.Canon _ := Canon.of_eq (P := RecordRead.Canon) e4 h1.takeRecord
            exact hgo _ _ h5
          next e5 =>
            have h6 : State.Canon _ := Canon.of_eq (P := RecordRead.Canon) e5 h1.takeRecord
            exact h6.notice.failEntry
          next e6 => exact Canon.of_eq (P := RecordRead.Canon) e6 h1.takeRecord
        · exact hgo _ _ h1

theorem State.Canon.resumeEntry {s : State} {c q : Nat} {e : Entry} (h : s.Canon) : (s.resumeEntry c q e).Canon := by
  unfold State.resumeEntry
  extract_lets +onlyGivenNames x
  clear_value x
  split
  next e1 => exact Canon.of_eq (P := DevAcc.Canon) e1 h.reach
  next e2 =>
    have h2 : State.Canon _ := Canon.of_eq (P := DevAcc.Canon) e2 h.reach
    exact h2.queuePageFault
  next e3 =>
    have h3 : State.Canon _ := Canon.of_eq (P := DevAcc.Canon) e3 h.reach
    extract_lets +onlyGivenNames s1 status bits
    have hs1 : s1.Canon := h3.meetErrors
    clear_value s1
    clear_value status bits
    split
    · exact hs1.modQueue
    · extract_lets +onlyGivenNames s2
      have hs2 : s2.Canon := hs1.modEntry
      clear_value s2
      split
      · exact hs2
      · exact hs2.setStatus

theorem State.Canon.execEntryTake {ctx queue : Nat} {s : State} (h : s.Canon) : OutCanon
    (execEntryTake ctx queue s) := by
  unfold Machine.execEntryTake
  change State.Canon _
  extract_lets +onlyGivenNames x
  clear_value x
  split
  · exact h
  · split
    · split
      next e => exact Canon.of_eq (P := Ready.Canon) e h.ringReady
      next e1 => exact Canon.of_eq (P := Ready.Canon) e1 h.ringReady
      next e2 =>
        have h3 : State.Canon _ := Canon.of_eq (P := Ready.Canon) e2 h.ringReady
        split
        · exact h3.resumeEntry
        · split
          · split
            · exact h3.completeEntry
            · exact h3
          · split
            · exact h3
            · exact h3.startEntry
    · split
      next e3 => exact Canon.of_eq (P := HeaderRead.Canon) e3 h.readHeader
      next e4 =>
        have h5 : State.Canon _ := Canon.of_eq (P := HeaderRead.Canon) e4 h.readHeader
        split
        · exact h5.setQState
        · split
          · exact h5.notice.faultQueue
          · split
            next e5 => exact Canon.of_eq (P := DevAcc.Canon) e5 h5.reach
            next e6 =>
              have h7 : State.Canon _ := Canon.of_eq (P := DevAcc.Canon) e6 h5.reach
              exact h7.queuePageFault
            next e7 =>
              have h8 : State.Canon _ := Canon.of_eq (P := DevAcc.Canon) e7 h5.reach
              split
              rename_i e8
              have h9 : State.Canon _ := Canon.of_eq (P := OnSnd State.Canon) e8 h8.homeRead
              extract_lets +onlyGivenNames img bits e9 s1
              have hs1 : s1.Canon := h9.modQueue
              clear_value s1
              clear_value img bits e9
              split
              · exact hs1.notice.failEntry
              · exact hs1.startEntry

theorem State.Canon.claim {s : State} {engine c q j : Nat} (h : s.Canon) : (s.claim engine c q j).Canon := by
  unfold State.claim
  extract_lets +onlyGivenNames moved s1
  have hs1 : s1.Canon := h.modEntry
  clear_value s1
  clear_value moved
  exact hs1.frame rfl rfl rfl

theorem State.Canon.execEngineBind {engine : Nat} {s : State} (h : s.Canon) : OutCanon (execEngineBind engine s) := by
  unfold Machine.execEngineBind
  change State.Canon _
  refine State.Canon.deciding h (fun a h4 => ?_)
  extract_lets +onlyGivenNames die can top can1 last after
  clear_value die can top can1 last after
  split
  · exact h4
  · split
    · exact h4
    · extract_lets +onlyGivenNames s1 s2
      have hs1 : s1.Canon := h4.modQueue
      clear_value s1
      have hs2 : s2.Canon := hs1.modSched
      clear_value s2
      exact hs2.claim

theorem State.Canon.execEngineSteal {engine : Nat} {s : State} (h : s.Canon) : OutCanon
    (execEngineSteal engine s) := by
  unfold Machine.execEngineSteal
  change State.Canon _
  extract_lets +onlyGivenNames die all
  clear_value die all
  split
  · exact h
  · extract_lets +onlyGivenNames best
    clear_value best
    split
    · exact h
    · exact h.claim

theorem State.Canon.reachRuns {s : State} {die c : Nat} {fill : Bool} {a : List (Nat × Nat × Nat)} (h : s.Canon) :
    OnExcept (OnFst State.Canon) (OnSnd State.Canon) (s.reachRuns die c fill a) := by
  induction a generalizing s with
  | nil =>
    unfold State.reachRuns
    exact h
  | cons x a ih =>
    unfold State.reachRuns
    split
    next e => exact Canon.of_eq (P := Reached.Canon) e h.reachAll
    next e1 => exact Canon.of_eq (P := Reached.Canon) e1 h.reachAll
    next e2 =>
      have h3 : State.Canon _ := Canon.of_eq (P := Reached.Canon) e2 h.reachAll
      split
      next e3 =>
        refine Canon.use (P := Reached.Canon) e3 ?_ fun (h4 : State.Canon _) => ?_
        · split
          · exact h3
          · exact h3.reachAll
        exact h4
      next e4 =>
        refine Canon.use (P := Reached.Canon) e4 ?_ fun (h5 : State.Canon _) => ?_
        · split
          · exact h3
          · exact h3.reachAll
        exact h5
      next e5 =>
        refine Canon.use (P := Reached.Canon) e5 ?_ fun (h6 : State.Canon _) => ?_
        · split
          · exact h3
          · exact h3.reachAll
        split
        next e6 => exact Canon.of_eq (P := OnExcept (OnFst State.Canon) (OnSnd State.Canon)) e6 (ih h6)
        next e7 =>
          have h8 : State.Canon _ := Canon.of_eq (P := OnExcept (OnFst State.Canon) (OnSnd State.Canon)) e7 (ih h6)
          exact h8

theorem State.Canon.engineReads {s : State} {engine die c : Nat} {runs : List (Nat × Nat × Nat)} (h : s.Canon) :
    (s.engineReads engine die c runs).Canon := by
  unfold State.engineReads
  refine State.Canon.foldl h fun s1 x h3 => ?_
  refine State.Canon.foldl h3 fun s2 x1 h5 => ?_
  split
  next e =>
    have h6 : State.Canon _ := Canon.of_eq (P := Trans.Canon) e h5.translate
    exact h6.awaits
  next e1 => exact Canon.of_eq (P := Trans.Canon) e1 h5.translate
  next e2 => exact Canon.of_eq (P := Trans.Canon) e2 h5.translate

theorem State.Canon.moveBytes {s : State} {mix : Bool} {olds : List (Loc × PByte)} {a : List ByteMove} (h : s.Canon) :
    OnSnd (OnSnd State.Canon) (s.moveBytes mix olds a) := by
  induction a generalizing s olds with
  | nil =>
    unfold State.moveBytes
    exact OnSnd.intro (OnSnd.intro h)
  | cons x a ih =>
    unfold State.moveBytes
    extract_lets +onlyGivenNames old
    clear_value old
    split
    rename_i e
    refine Canon.use (P := OnSnd State.Canon) e ?_ fun (h1 : State.Canon _) => ?_
    · split
      · exact h.choose
      · exact OnSnd.intro h
    split
    rename_i e1
    refine Canon.use (P := OnSnd State.Canon) e1 ?_ fun (h2 : State.Canon _) => ?_
    · split
      · exact OnSnd.intro h1
      · split <;> exact OnSnd.intro h1
      · split
        rename_i e2
        have h3 : State.Canon _ := Canon.of_eq (P := OnSnd State.Canon) e2 h1.homeRead
        exact OnSnd.intro h3
    extract_lets +onlyGivenNames olds1 s1 s2 r
    have hs1 : s1.Canon := by
      unfold s1
      split
      · exact h2
      · exact State.Canon.setMem h2 (Memory.wf_set (h2.memOf _) _ _)
    clear_value s1
    have hs2 : s2.Canon := by
      unfold s2
      split
      · exact State.Canon.setMem hs1 (Memory.wf_setPoison (hs1.memOf _) _ _)
      · exact hs1
    clear_value s2
    have hr : OnSnd (OnSnd State.Canon) r := ih hs2
    clear_value r
    clear_value olds1
    exact OnSnd.intro hr

theorem State.Canon.moveChunk {s : State} {engine : Nat} {mix : Bool} {fill : Option Nat} {olds : List (Loc × PByte)}
    {places : List (List (Loc × Nat) × List (Loc × Nat) × Nat)} {whole : List (List PByte)} (h : s.Canon) : OnSnd
    (OnSnd State.Canon) (s.moveChunk engine mix fill olds places whole) := by
  unfold State.moveChunk
  extract_lets +onlyGivenNames moved
  clear_value moved
  split
  rename_i e
  have h1 : State.Canon _ := Canon.of_eq (P := OnSnd State.Canon) e h.draw
  extract_lets +onlyGivenNames part writes
  have hwrites : ∀ (s : State) (bs : List (List PByte)), s.Canon → (writes s bs).Canon := by
    intro x x1 h3
    unfold writes
    exact h3.foldl (fun _ _ h4 => h4.writeSpread)
  clear_value writes
  clear_value part
  split
  · exact OnSnd.intro (OnSnd.intro (hwrites _ _ h1))
  · extract_lets +onlyGivenNames all todo
    clear_value all todo
    split
    rename_i e1
    have h5 : State.Canon _ := Canon.of_eq (P := OnSnd State.Canon) e1 h1.chooseSome
    extract_lets +onlyGivenNames now
    clear_value now
    split
    rename_i e2
    have h6 : State.Canon _ := Canon.of_eq (P := OnSnd (OnSnd State.Canon)) e2 h5.moveBytes
    extract_lets +onlyGivenNames moved1 s1
    have hs1 : s1.Canon := h6.frame rfl rfl rfl
    clear_value s1
    clear_value moved1
    split
    · exact OnSnd.intro (OnSnd.intro (hs1.foldl (fun _ _ h7 => (h7.foldl (fun _ _ h8 => h8.afterWrites)))))
    · extract_lets +onlyGivenNames sizes r
      clear_value sizes r
      exact OnSnd.intro (OnSnd.intro (hwrites _ _ hs1))

theorem State.Canon.execChunkComplete {engine : Nat} {s : State} (h : s.Canon) : OutCanon
    (execChunkComplete engine s) := by
  unfold Machine.execChunkComplete
  change State.Canon _
  split
  · exact h
  · extract_lets +onlyGivenNames free moved drop unclaim settle x mine
    have hfree : ∀ (s : State), s.Canon → (free s).Canon := by
      intro x1 h2
      unfold free
      exact h2.frame rfl rfl rfl
    clear_value free
    have hunclaim : ∀ (s : State), s.Canon → (unclaim s).Canon := by
      intro x2 h4
      unfold unclaim
      exact h4.modEntry.modQueue
    clear_value unclaim
    have hsettle : ∀ (s : State), s.Canon → (settle s).Canon := by
      intro x3 h6
      unfold settle
      extract_lets +onlyGivenNames x4 s1 busy
      have hs1 : s1.Canon := by
        unfold s1
        split
        · exact h6.stopQueue
        · exact h6
      clear_value s1
      clear_value x4 busy
      split
      · exact hs1.setCtxState
      · exact hs1
    clear_value settle
    clear_value moved drop x mine
    split
    · exact hsettle _ (hfree _ h)
    · extract_lets +onlyGivenNames head
      clear_value head
      split
      next e =>
        refine Canon.use (P := Ready.Canon) e ?_ fun (h7 : State.Canon _) => ?_
        · split
          · exact h.ringReady
          · exact h
        exact h7
      next e1 =>
        refine Canon.use (P := Ready.Canon) e1 ?_ fun (h8 : State.Canon _) => ?_
        · split
          · exact h.ringReady
          · exact h
        exact hsettle _ (hunclaim _ (hfree _ h8))
      next e2 =>
        refine Canon.use (P := Ready.Canon) e2 ?_ fun (h9 : State.Canon _) => ?_
        · split
          · exact h.ringReady
          · exact h
        extract_lets +onlyGivenNames die fill runs
        split
        next e3 =>
          have h10 : State.Canon _ := Canon.of_eq (P := OnExcept (OnFst State.Canon) (OnSnd State.Canon)) e3
            h9.reachRuns
          split
          · exact h10
          · exact h10.engineReads
        next e4 =>
          have h11 : State.Canon _ := Canon.of_eq (P := OnExcept (OnFst State.Canon) (OnSnd State.Canon)) e4
            h9.reachRuns
          extract_lets +onlyGivenNames s2
          have hs2 : s2.Canon := hunclaim _ (hfree _ h11)
          clear_value s2
          apply hsettle
          split
          · exact hs2
          · exact hs2.entryPageFault
        next e5 =>
          have h12 : State.Canon _ := Canon.of_eq (P := OnExcept (OnFst State.Canon) (OnSnd State.Canon)) e5
            h9.reachRuns
          extract_lets +onlyGivenNames pat dst mix read s3 hostBad
          have hread : OnSnd State.Canon read := by
            unfold read
            refine foldl_preserves (P := OnSnd State.Canon) (OnSnd.intro h12) fun s4 x5 h15 => ?_
            split
            · extract_lets +onlyGivenNames n
              clear_value n
              exact OnSnd.intro (h15 : State.Canon _)
            · split
              rename_i e6
              have h16 : State.Canon _ := Canon.of_eq (P := OnSnd State.Canon) e6 (h15 : State.Canon _).readSpread
              exact OnSnd.intro h16
          clear_value read
          have hs3 : s3.Canon := (hread : State.Canon _).hasRead
          clear_value s3
          clear_value pat dst mix hostBad
          split
          · extract_lets +onlyGivenNames s5
            have hs5 : s5.Canon := hunclaim _ (hfree _ hs3)
            clear_value s5
            apply hsettle
            split
            · exact hs5.queueEvent.failEntry
            · exact hs5
          · split
            next e7 =>
              have h17 : State.Canon _ := Canon.of_eq (P := OnSnd (OnSnd State.Canon)) e7 hs3.moveChunk
              exact h17.modEntry.poll
            next e8 =>
              have h18 : State.Canon _ := Canon.of_eq (P := OnSnd (OnSnd State.Canon)) e8 hs3.moveChunk
              extract_lets +onlyGivenNames s6
              have hs6 : s6.Canon := (hunclaim _ (hfree _ h18)).modEntry
              clear_value s6
              split
              · exact (hsettle _ hs6).poll
              · extract_lets +onlyGivenNames s7 e' s8 done s9
                have hs7 : s7.Canon := hs6.modEntry
                clear_value s7
                have hs8 : s8.Canon := hs7.poke
                clear_value s8
                have hs9 : s9.Canon := by
                  unfold s9
                  split
                  · exact hs8
                  · split
                    · exact hs8.completeEntry
                    · split
                      · split
                        · exact hs8.claim
                        · exact hs8
                      · exact hs8
                clear_value s9
                clear_value e' done
                exact (hsettle _ hs9).poll

end Sys2Proof.Machine
end

section
/-! SUPPORT. Canonical memories under rechecks of pages and the steps of a flip (Machine/Page). -/

namespace Sys2Proof.Machine

theorem State.Canon.usable {s : State} {die c : Nat} {need : List (Nat × Nat × Need)} (h : s.Canon) :
    (s.usable die c need).Canon := by
  unfold State.usable
  extract_lets +onlyGivenNames parts
  clear_value parts
  refine foldl_preserves (P := Usable.Canon) h fun s1 x h2 => ?_
  split
  · split
    next e => exact Canon.of_eq (P := Trans.Canon) e (h2 : State.Canon _).translate
    next e1 => exact Canon.of_eq (P := Trans.Canon) e1 (h2 : State.Canon _).translate
    next e2 =>
      have h5 : State.Canon _ := Canon.of_eq (P := Trans.Canon) e2 (h2 : State.Canon _).translate
      split <;> exact h5
  · exact h2

theorem State.Canon.recheckQueue {s : State} {c : Nat} {eng : Bool} {q : Nat} (h : s.Canon) :
    (s.recheckQueue c eng q).Canon := by
  unfold State.recheckQueue
  extract_lets +onlyGivenNames x va slot header
  clear_value x va slot header
  split
  · exact h
  · split
    next e => exact Canon.of_eq (P := Usable.Canon) e h.usable
    next e1 =>
      have h2 : State.Canon _ := Canon.of_eq (P := Usable.Canon) e1 h.usable
      exact h2.queuePageFault
    next e2 =>
      have h3 : State.Canon _ := Canon.of_eq (P := Usable.Canon) e2 h.usable
      split
      · exact h3.loadQueue
      · split
        · split
          next e3 => exact Canon.of_eq (P := Usable.Canon) e3 h3.usable
          next e4 =>
            have h5 : State.Canon _ := Canon.of_eq (P := Usable.Canon) e4 h3.usable
            exact h5.entryPageFault
          next e5 =>
            have h6 : State.Canon _ := Canon.of_eq (P := Usable.Canon) e5 h3.usable
            extract_lets +onlyGivenNames s1
            have hs1 : s1.Canon := by
              unfold s1
              split
              · exact h6.modEntry
              · exact h6
            clear_value s1
            exact hs1.setQState
        · split
          next e6 => exact Canon.of_eq (P := HeaderRead.Canon) e6 h3.readHeader
          next e7 =>
            have h8 : State.Canon _ := Canon.of_eq (P := HeaderRead.Canon) e7 h3.readHeader
            extract_lets +onlyGivenNames ns
            clear_value ns
            split
            next e8 => exact Canon.of_eq (P := Usable.Canon) e8 h8.usable
            next e9 =>
              have h10 : State.Canon _ := Canon.of_eq (P := Usable.Canon) e9 h8.usable
              exact h10.queuePageFault
            next e10 =>
              have h11 : State.Canon _ := Canon.of_eq (P := Usable.Canon) e10 h8.usable
              exact h11.setQState

theorem State.Canon.execPageRecheck {ctx : Nat} {s : State} (h : s.Canon) : OutCanon (execPageRecheck ctx s) := by
  unfold Machine.execPageRecheck
  change State.Canon _
  extract_lets +onlyGivenNames s1 s2 s3 s4 s5 s6
  have hs1 : s1.Canon := h.modHomes
  clear_value s1
  have hs2 : s2.Canon := hs1.foldl (fun _ _ h1 => h1.recheckQueue)
  clear_value s2
  have hs3 : s3.Canon := hs2.foldl (fun _ _ h2 => h2.recheckQueue)
  clear_value s3
  have hs4 : s4.Canon := hs3.foldl (fun _ _ h3 => h3.retryParked)
  clear_value s4
  have hs5 : s5.Canon := hs4.foldl (fun _ _ h4 => h4.interruptArrives)
  clear_value s5
  have hs6 : s6.Canon := hs5.foldl (fun _ _ h5 => h5.forwardArrives)
  clear_value s6
  exact hs6.modLink.poll

theorem State.Canon.biasset {s : State} {g want wave slot : Nat} (h : s.Canon) : OnSnd State.Canon
    (s.biasset g want wave slot) := by
  unfold State.biasset
  split
  · split
    · exact OnSnd.intro h
    · exact OnSnd.intro h.startFlip
  · split
    · split
      · exact OnSnd.intro h
      · exact OnSnd.intro h.startFlip
    · exact OnSnd.intro h.putFlip

theorem State.Canon.execBiasFlipComplete {granule : Nat} {s : State} (h : s.Canon) : OutCanon
    (execBiasFlipComplete granule s) := by
  unfold Machine.execBiasFlipComplete
  change State.Canon _
  split
  · exact h
  · split
    · exact h
    · extract_lets +onlyGivenNames toHost now s1 s2 s3 rest s4
      have hs1 : s1.Canon := h.setBias
      clear_value s1
      have hs2 : s2.Canon := by
        unfold s2
        split
        · exact hs1.putFlip
        · exact hs1.modHomes
      clear_value s2
      have hs3 : s3.Canon := by
        unfold s3
        refine State.Canon.foldl hs2 fun s5 x h3 => ?_
        split
        · split
          · exact h3.leaveWait
          · exact h3
        · exact h3
      clear_value s3
      have hs4 : s4.Canon := by
        unfold s4
        split
        · exact hs3
        · exact hs3.startFlip
      clear_value s4
      clear_value toHost now rest
      exact hs4.poll

end Sys2Proof.Machine
end

section
/-! SUPPORT. Canonical memories under control instructions and the waves' own events (Machine/Control). -/

namespace Sys2Proof.Machine

theorem State.Canon.execNop {g : Gen} {s : State} (h : s.Canon) : OutCanon (execNop g s) := by
  unfold Machine.execNop
  exact State.Canon.issueWave (fun _ h1 => h1.state) h

theorem Iss.Canon.goTo {x : Iss} {w : Wave} {targets : List (DWord × Lanes × Nat)} (h : x.Canon) :
    (x.goTo w targets).Canon := by
  unfold Iss.goTo
  exact h.state.putWave

theorem Iss.Canon.callTo {x : Iss} {ts : List (DWord × Lanes)} (h : x.Canon) : (x.callTo ts).Canon := by
  unfold Iss.callTo
  split
  · exact h.raise
  · extract_lets +onlyGivenNames r
    clear_value r
    exact h.goTo

theorem State.Canon.execBra {g : Bra} {s : State} (h : s.Canon) : OutCanon (execBra g s) := by
  unfold Machine.execBra
  exact State.Canon.issueWave (fun _ h1 => h1.goTo) h

theorem State.Canon.execBrx {g : Gen} {s : State} (h : s.Canon) : OutCanon (execBrx g s) := by
  unfold Machine.execBrx
  refine State.Canon.issueWave (fun a h3 => ?_) h
  split
  · exact h3.raise
  · exact h3.goTo

theorem State.Canon.execCall {g : Bra} {s : State} (h : s.Canon) : OutCanon (execCall g s) := by
  unfold Machine.execCall
  exact State.Canon.issueWave (fun _ h1 => h1.callTo) h

theorem State.Canon.execCallx {g : Gen} {s : State} (h : s.Canon) : OutCanon (execCallx g s) := by
  unfold Machine.execCallx
  refine State.Canon.issueWave (fun a h3 => ?_) h
  split
  · exact h3.raise
  · exact h3.callTo

theorem State.Canon.execRet {g : Gen} {s : State} (h : s.Canon) : OutCanon (execRet g s) := by
  unfold Machine.execRet
  refine State.Canon.issueWave (fun a h3 => ?_) h
  split
  · exact h3.raise
  · split
    · split
      · exact h3.state
      · exact h3.goTo
    · exact h3.raise
    · exact h3.raise

theorem State.Canon.execEnter {g : Gen} {s : State} (h : s.Canon) : OutCanon (execEnter g s) := by
  unfold Machine.execEnter
  refine State.Canon.issueWave (fun a h3 => ?_) h
  split
  · exact h3.raise
  · split
    · exact h3.raise
    · exact h3.done

theorem State.Canon.execExit {g : Gen} {s : State} (h : s.Canon) : OutCanon (execExit g s) := by
  unfold Machine.execExit
  refine State.Canon.issueWait (fun a h3 => ?_) h
  split
  · exact h3.raise
  · extract_lets +onlyGivenNames w
    clear_value w
    exact h3.state.putWave

theorem State.Canon.execRegion {g : Gen} {s : State} (h : s.Canon) : OutCanon (execRegion g s) := by
  unfold Machine.execRegion
  exact State.Canon.issueWave (fun _ h1 => h1.state) h

theorem Iss.Canon.modeBody {g : Gen} {usesA : Bool} {f : Word → Word → Word → Word} {x : Iss} (h : x.Canon) :
    (modeBody g usesA f x).Canon := by
  unfold Machine.modeBody
  extract_lets +onlyGivenNames bad
  clear_value bad
  split
  · exact h.raise
  · extract_lets +onlyGivenNames one
    clear_value one
    exact h.done

theorem State.Canon.execMode {g : Gen} {s : State} (h : s.Canon) : OutCanon (execMode g s) := by
  unfold Machine.execMode
  exact State.Canon.issueWave (fun _ h1 => h1.modeBody) h

theorem State.Canon.execModeSet {g : Gen} {s : State} (h : s.Canon) : OutCanon (execModeSet g s) := by
  unfold Machine.execModeSet
  exact State.Canon.issueWave (fun _ h1 => h1.modeBody) h

theorem State.Canon.execModeClr {g : Gen} {s : State} (h : s.Canon) : OutCanon (execModeClr g s) := by
  unfold Machine.execModeClr
  exact State.Canon.issueWave (fun _ h1 => h1.modeBody) h

theorem State.Canon.execModerd {g : Gen} {s : State} (h : s.Canon) : OutCanon (execModerd g s) := by
  unfold Machine.execModerd
  exact State.Canon.issueWave (fun _ h1 => h1.done) h

theorem State.Canon.execYield {g : Gen} {s : State} (h : s.Canon) : OutCanon (execYield g s) := by
  unfold Machine.execYield
  exact State.Canon.issueWave (fun _ h1 => h1.done) h

theorem State.Canon.execTrap {g : Gen} {s : State} (h : s.Canon) : OutCanon (execTrap g s) := by
  unfold Machine.execTrap
  exact State.Canon.issueWave (fun _ h1 => h1.raise) h

theorem State.Canon.execBrk {g : Gen} {s : State} (h : s.Canon) : OutCanon (execBrk g s) := by
  unfold Machine.execBrk
  exact State.Canon.issueWave (fun _ h1 => h1.raise) h

theorem State.Canon.execWaitc {g : Gen} {s : State} (h : s.Canon) : OutCanon (execWaitc g s) := by
  unfold Machine.execWaitc
  refine State.Canon.issueWait (fun a h3 => ?_) h
  extract_lets +onlyGivenNames t
  clear_value t
  split
  · exact h3.raise
  · exact h3.state

theorem State.Canon.execReservedOpcode {w : Word} {s : State} (h : s.Canon) : OutCanon (execReservedOpcode w s) := by
  unfold Machine.execReservedOpcode
  split
  · exact trivial
  next e =>
    have h1 : Iss.Canon _ := Canon.of_eq (P := OnSome Iss.Canon) e h.issuing
    exact h1.finish h1.raise

theorem State.Canon.execSplitRaise {wave slot : Nat} {s : State} (h : s.Canon) : OutCanon
    (execSplitRaise wave slot s) := by
  unfold Machine.execSplitRaise
  exact h.modWave

theorem State.Canon.execYieldExpiry {wave slot : Nat} {s : State} (h : s.Canon) : OutCanon
    (execYieldExpiry wave slot s) := by
  unfold Machine.execYieldExpiry
  exact h.modWave

theorem State.Canon.execCheckpoint {wave : Nat} {s : State} (h : s.Canon) : OutCanon (execCheckpoint wave s) := by
  unfold Machine.execCheckpoint
  exact h.modWave

theorem State.Canon.execCheckpointDiscard {wave ck : Nat} {s : State} (h : s.Canon) : OutCanon
    (execCheckpointDiscard wave ck s) := by
  unfold Machine.execCheckpointDiscard
  exact h.modWave

theorem State.Canon.execRegisterReturn {wave phys : Nat} {s : State} (h : s.Canon) : OutCanon
    (execRegisterReturn wave phys s) := by
  unfold Machine.execRegisterReturn
  exact h.modWave

theorem State.Canon.execSpill {quad : Nat} {s : State} (h : s.Canon) : OutCanon (execSpill quad s) := by
  unfold Machine.execSpill
  change State.Canon _
  extract_lets +onlyGivenNames ws stuck
  clear_value ws stuck
  split
  · exact h
  · extract_lets +onlyGivenNames can best
    clear_value can best
    split
    · split
      · exact h
      · extract_lets +onlyGivenNames rs
        clear_value rs
        exact h.writeSave.putWave
    · extract_lets +onlyGivenNames young
      clear_value young
      split
      · exact h.putWave
      · exact h

theorem State.Canon.execSpillRefill {wave win : Nat} {s : State} (h : s.Canon) : OutCanon
    (execSpillRefill wave win s) := by
  unfold Machine.execSpillRefill
  change State.Canon _
  split
  · exact h
  · split
    · exact h
    · extract_lets +onlyGivenNames rs
      clear_value rs
      split
      · exact h
      · extract_lets +onlyGivenNames v
        clear_value v
        exact h.putWave

theorem State.Canon.takeDue {s : State} {wave : Nat} (h : s.Canon) : (s.takeDue wave).Canon := by
  unfold State.takeDue
  split
  · exact h
  · split
    · exact h
    · extract_lets +onlyGivenNames left pend take
      clear_value left pend take
      extract_lets +onlyGivenNames take1
      have htake1 : take1.Canon := by
        unfold take1
        split
        · exact h.putWave.takeTrap
        · exact h
      clear_value take1
      split
      · extract_lets +onlyGivenNames s1 left1 s2
        have hs1 : s1.Canon := by
          unfold s1
          split
          · exact h.count
          · exact h
        clear_value s1
        have hs2 : s2.Canon := hs1.putWave
        clear_value s2
        clear_value left1
        split
        · exact hs2.killGang
        · exact hs2
      · exact htake1
      · split
        · exact htake1
        · exact h.putWave
      · exact h.putWave
      · exact h

theorem State.Canon.takeDues {s : State} {wave : Nat} (h : s.Canon) : (s.takeDues wave).Canon := by
  unfold State.takeDues
  exact h.foldl (fun _ _ h1 => h1.takeDue)

theorem State.Canon.execReportedTrapDue {wave : Nat} {s : State} (h : s.Canon) : OutCanon
    (execReportedTrapDue wave s) := by
  unfold Machine.execReportedTrapDue
  exact h.takeDue

end Sys2Proof.Machine
end

section
/-! SUPPORT. Canonical memories under distribution, placement, saving and restoring (Machine/Sched). -/

namespace Sys2Proof.Machine

theorem State.Canon.stampHead {s : State} {core : Nat} (h : s.Canon) : (s.stampHead core).Canon := by
  unfold State.stampHead
  exact h.modCore

theorem State.Canon.appendEntry {s : State} {core : Nat} {e : PendEntry} (h : s.Canon) :
    (s.appendEntry core e).Canon := by
  unfold State.appendEntry
  exact h.modCore.stampHead

theorem State.Canon.execDistributorTakeGang {die : Nat} {s : State} (h : s.Canon) : OutCanon
    (execDistributorTakeGang die s) := by
  unfold Machine.execDistributorTakeGang
  change State.Canon _
  split
  · exact h
  · split
    · exact h
    · split
      · exact h
      · extract_lets +onlyGivenNames load best
        clear_value load best
        split
        · exact h
        · extract_lets +onlyGivenNames s1 s2
          have hs1 : s1.Canon := h.modSched
          clear_value s1
          have hs2 : s2.Canon := hs1.modGang
          clear_value s2
          exact hs2.appendEntry

theorem State.Canon.execGangHeadTimeout {core : Nat} {s : State} (h : s.Canon) : OutCanon
    (execGangHeadTimeout core s) := by
  unfold Machine.execGangHeadTimeout
  exact h.modCore

theorem State.Canon.stopWaves {s : State} {ids : List Nat} (h : s.Canon) : (s.stopWaves ids).Canon := by
  unfold State.stopWaves
  extract_lets +onlyGivenNames s1
  have hs1 : s1.Canon := h.foldl (fun _ _ h1 => h1.takeDues)
  clear_value s1
  exact hs1.frame rfl rfl rfl

theorem State.Canon.evictFor {s : State} {hh : Nat × PendEntry × Launch × List Nat} (h : s.Canon) :
    (s.evictFor hh).Canon := by
  unfold State.evictFor
  split
  extract_lets +onlyGivenNames per
  clear_value per
  split
  · exact h.stopWaves
  · exact h

theorem State.Canon.startBlock {s : State} {l : Launch} {gang member core : Nat} (h : s.Canon) :
    (s.startBlock l gang member core).Canon := by
  unfold State.startBlock
  extract_lets +onlyGivenNames id index gx gy b wave s1 s2 s3 s4
  have hs1 : s1.Canon := h.modSched
  clear_value s1
  have hs2 : s2.Canon := hs1.modCore
  clear_value s2
  have hs3 : s3.Canon := by
    unfold s3
    refine State.Canon.addBlock hs2 rfl rfl rfl rfl
  clear_value s3
  have hs4 : s4.Canon := by
    unfold s4
    split
    · exact hs3
    · exact hs3.sharedShrink
  clear_value s4
  clear_value id index gx gy b wave
  split
  · exact hs4
  · exact hs4.acquireInval

theorem State.Canon.contextPlaced {s : State} {c die : Nat} (h : s.Canon) : (s.contextPlaced c die).Canon := by
  unfold State.contextPlaced
  extract_lets +onlyGivenNames s1
  have hs1 : s1.Canon := by
    unfold s1
    split
    · exact h.modCtx
    · exact h
  clear_value s1
  exact hs1.modSched.ctxPlaced

theorem State.Canon.startGang {s : State} {core : Nat} {e : PendEntry} {l : Launch} {run : List Nat} (h : s.Canon) :
    (s.startGang core e l run).Canon := by
  unfold State.startGang
  extract_lets +onlyGivenNames s1 s2 s3 s4
  have hs1 : s1.Canon := by
    unfold s1
    refine State.Canon.foldl h fun s5 x h3 => ?_
    split
    exact h3.startBlock
  clear_value s1
  have hs2 : s2.Canon := hs1.modGang
  clear_value s2
  have hs3 : s3.Canon := hs2.modLaunch
  clear_value s3
  have hs4 : s4.Canon := hs3.modCore.stampHead
  clear_value s4
  exact hs4.contextPlaced

theorem State.Canon.execPlaceGang {core : Nat} {s : State} (h : s.Canon) : OutCanon (execPlaceGang core s) := by
  unfold Machine.execPlaceGang
  change State.Canon _
  refine State.Canon.deciding h (fun a h4 => ?_)
  extract_lets +onlyGivenNames die
  clear_value die
  split
  · exact h4
  · split
    · exact h4.startGang.poll
    · split
      · exact h4.evictFor
      · exact h4

theorem State.Canon.execSteal {core : Nat} {s : State} (h : s.Canon) : OutCanon (execSteal core s) := by
  unfold Machine.execSteal
  change State.Canon _
  extract_lets +onlyGivenNames base below above x
  clear_value base below above x
  split
  · exact h
  · split
    · exact h
    · split
      · exact h
      · split
        · exact h
        · split
          · exact h
          · extract_lets +onlyGivenNames s1 s2
            have hs1 : s1.Canon := h.modCore
            clear_value s1
            have hs2 : s2.Canon := hs1.modCore
            clear_value s2
            exact hs2.appendEntry

theorem State.Canon.writeSnapshot {s : State} {c : Nat} (h : s.Canon) : (s.writeSnapshot c).Canon := by
  unfold State.writeSnapshot
  extract_lets +onlyGivenNames base live recs head bytes
  clear_value base live recs head bytes
  exact ⟨(Memory.wf_store h.mem _ _), h.host, h.blocks⟩

theorem State.Canon.cmdStatus {s : State} {c v : Nat} (h : s.Canon) : (s.cmdStatus c v).Canon := by
  unfold State.cmdStatus
  exact h.setEntry

theorem State.Canon.finishSaving {s : State} {c : Nat} (h : s.Canon) : (s.finishSaving c).Canon := by
  unfold State.finishSaving
  split
  · exact h
  · extract_lets +onlyGivenNames done running
    have hdone : ∀ (s : State), s.Canon → (done s).Canon := by
      intro x h2
      unfold done
      exact h2.modCtx
    clear_value done
    clear_value running
    split
    · exact h
    · extract_lets +onlyGivenNames s1
      have hs1 : s1.Canon := hdone _ h
      clear_value s1
      split
      · exact hs1.setCtxState
      · exact hs1
    · extract_lets +onlyGivenNames s2
      have hs2 : s2.Canon := hdone _ h
      clear_value s2
      split
      · exact hs2.setCtxState
      · exact hs2
    · extract_lets +onlyGivenNames s3 s4
      have hs3 : s3.Canon := hdone _ h
      clear_value s3
      have hs4 : s4.Canon := by
        unfold s4
        split
        · exact hs3.setCtxState
        · exact hs3
      clear_value s4
      exact hs4.modDev.cmdStatus
    · extract_lets +onlyGivenNames s5 s6
      have hs5 : s5.Canon := (hdone _ h).writeSnapshot
      clear_value s5
      have hs6 : s6.Canon := hs5.event
      clear_value s6
      split
      · exact hs6.setCtxState
      · exact hs6

theorem State.Canon.startSaving {s : State} {c : Nat} {why : Saving} (h : s.Canon) : (s.startSaving c why).Canon := by
  unfold State.startSaving
  extract_lets +onlyGivenNames s1 s2 one
  have hs1 : s1.Canon := h.foldl (fun _ _ h1 => h1.takeDues)
  clear_value s1
  have hs2 : s2.Canon := hs1.modCtx
  clear_value s2
  clear_value one
  exact hs2.frame rfl rfl rfl

theorem State.Canon.coreIdle {s : State} {core : Nat} (h : s.Canon) : (s.coreIdle core).Canon := by
  unfold State.coreIdle
  split
  · exact h
  · exact h.modCore

theorem State.Canon.execWaveSaveComplete {wave : Nat} {s : State} (h : s.Canon) : OutCanon
    (execWaveSaveComplete wave s) := by
  unfold Machine.execWaveSaveComplete
  change State.Canon _
  split
  · exact h
  · split
    · exact h
    · extract_lets +onlyGivenNames s1
      have hs1 : s1.Canon := h.writebackWhere
      clear_value s1
      split
      · exact hs1
      · extract_lets +onlyGivenNames s2 keep left w s3 s4
        have hs2 : s2.Canon := hs1.modQuad
        clear_value s2
        have hs3 : s3.Canon := hs2.putWave.coreIdle.writeSave.leaveCores
        clear_value s3
        have hs4 : s4.Canon := by
          unfold s4
          split
          · exact hs3.ctxEvicted
          · exact hs3
        clear_value s4
        clear_value keep left w
        exact hs4.finishSaving.poll

theorem State.Canon.execRestoreWave {wave core quad : Nat} {s : State} (h : s.Canon) : OutCanon
    (execRestoreWave wave core quad s) := by
  unfold Machine.execRestoreWave
  change State.Canon _
  refine State.Canon.deciding h (fun a h4 => ?_)
  split
  · exact h4
  · split
    · exact h4
    · split
      · split
        · exact h4
        · extract_lets +onlyGivenNames s1 s2 s3 s4
          have hs1 : s1.Canon := by
            unfold s1
            split
            · exact h4
            · exact h4.acquireInval
          clear_value s1
          have hs2 : s2.Canon := hs1.putWave
          clear_value s2
          have hs3 : s3.Canon := hs2.modBlock (fun _ h5 => h5)
          clear_value s3
          have hs4 : s4.Canon := hs3.modCore
          clear_value s4
          exact hs4.contextPlaced.poll
      · split
        · extract_lets +onlyGivenNames ws place concerned
          clear_value ws place concerned
          split
          · exact h4.stopWaves
          · exact h4
        · exact h4

theorem State.Canon.execSliceEnd {ctx : Nat} {s : State} (h : s.Canon) : OutCanon (execSliceEnd ctx s) := by
  unfold Machine.execSliceEnd
  change State.Canon _
  refine State.Canon.deciding h (fun a h4 => ?_)
  extract_lets +onlyGivenNames x us
  clear_value x us
  split
  · exact h4
  · split
    · exact h4.startSaving.finishSaving.poll
    · exact h4.modCtx

theorem State.Canon.execWaitBudgetExceeded {ctx : Nat} {s : State} (h : s.Canon) : OutCanon
    (execWaitBudgetExceeded ctx s) := by
  unfold Machine.execWaitBudgetExceeded
  change State.Canon _
  extract_lets +onlyGivenNames x ms
  clear_value x ms
  split
  · exact h
  · exact h.startSaving.finishSaving.poll

theorem State.Canon.blockOver {s : State} {id : Nat} (h : s.Canon) : (s.blockOver id).Canon := by
  unfold State.blockOver
  split
  · exact h
  · exact h.modBlock (fun _ h1 => h1)

theorem State.Canon.gangDone {s : State} {c t g : Nat} (h : s.Canon) : (s.gangDone c t g).Canon := by
  unfold State.gangDone
  split
  · exact h
  · split
    · exact h
    · extract_lets +onlyGivenNames s1
      have hs1 : s1.Canon := by
        unfold s1
        refine State.Canon.mapBlocks h rfl rfl rfl fun b hb => ?_
        split
        · exact Memory.wf_empty
        · exact hb
      clear_value s1
      exact hs1.modGang.noticeGang.completeLaunch

theorem State.Canon.execWaveEnd {wave : Nat} {s : State} (h : s.Canon) : OutCanon (execWaveEnd wave s) := by
  unfold Machine.execWaveEnd
  change State.Canon _
  split
  · exact h
  · split
    · exact h
    · split
      · extract_lets +onlyGivenNames s1 s2
        have hs1 : s1.Canon := h.putWave
        clear_value s1
        have hs2 : s2.Canon := hs1.modQuad
        clear_value s2
        exact hs2.coreIdle.blockOver.gangDone.leaveCores.ctxOver.finishSaving.poll
      · extract_lets +onlyGivenNames named
        clear_value named
        split
        · exact h
        · exact h.frame rfl rfl rfl
      · exact h

end Sys2Proof.Machine
end

section
/-! SUPPORT. Canonical memories under context commands and the communication partition (Machine/Context). -/

namespace Sys2Proof.Machine

theorem State.Canon.latchEntry {s : State} {c : Nat} (h : s.Canon) : (s.latchEntry c).Canon := by
  unfold State.latchEntry
  extract_lets +onlyGivenNames f oldL oldE s1 s2 s3
  have hs1 : s1.Canon := h.modCtx
  clear_value s1
  have hs2 : s2.Canon := hs1.foldl (fun _ _ h1 => h1.sharedShrink)
  clear_value s2
  have hs3 : s3.Canon := hs2.foldl (fun _ _ h2 => h2.loadQueue)
  clear_value s3
  clear_value f oldL oldE
  exact hs3.foldl (fun _ _ h3 => h3.loadQueue)

theorem State.Canon.createCtx {s : State} {c : Nat} (h : s.Canon) : (s.createCtx c).Canon := by
  unfold State.createCtx
  split
  · exact h.cmdStatus
  · split
    · exact h.cmdStatus
    · extract_lets +onlyGivenNames s1 s2
      have hs1 : s1.Canon := h.dropTlb.modCtx
      clear_value s1
      have hs2 : s2.Canon := hs1.setCtxState.setEntry.setEntry
      clear_value s2
      exact hs2.latchEntry.cmdStatus

theorem State.Canon.suspendCtx {s : State} {c : Nat} (h : s.Canon) : (s.suspendCtx c).Canon := by
  unfold State.suspendCtx
  split
  · exact h.setCtxState.cmdStatus
  · exact h.setCtxState.cmdStatus
  · exact h.startSaving.finishSaving
  · exact h.startSaving.finishSaving
  · exact h.startSaving.finishSaving
  · exact h.cmdStatus

theorem State.Canon.resumeCtx {s : State} {c : Nat} (h : s.Canon) : (s.resumeCtx c).Canon := by
  unfold State.resumeCtx
  extract_lets +onlyGivenNames go st
  have hgo : ∀ (st : CtxState) (s : State), s.Canon → (go st s).Canon := by
    intro x x1 h2
    unfold go
    exact h2.setCtxState.latchEntry.cmdStatus
  clear_value go
  clear_value st
  split
  · exact h.cmdStatus
  · split
    · exact h.cmdStatus
    · split
      · exact hgo _ _ h.modCtx.setEntry
      · exact hgo _ _ h

theorem State.Canon.endPushes {s : State} {c : Nat} {eng : Bool} {q : Nat} (h : s.Canon) :
    (s.endPushes c eng q).Canon := by
  unfold State.endPushes
  extract_lets +onlyGivenNames ps s1
  have hs1 : s1.Canon := h.modQueue
  clear_value s1
  clear_value ps
  refine State.Canon.foldl hs1 fun s2 x h2 => ?_
  split
  rename_i e
  have h3 : State.Canon _ := Canon.of_eq (P := OnSnd State.Canon) e h2.draw
  extract_lets +onlyGivenNames s3
  have hs3 : s3.Canon := h3.modWave
  clear_value s3
  exact hs3.settleOp

theorem State.Canon.endQueue {s : State} {c : Nat} {eng : Bool} {q : Nat} (h : s.Canon) :
    (s.endQueue c eng q).Canon := by
  unfold State.endQueue
  extract_lets +onlyGivenNames x s1 s2
  have hs1 : s1.Canon := by
    unfold s1
    refine State.Canon.modQueue ?_
    refine State.Canon.foldl h fun s3 x1 h5 => ?_
    split
    · exact h5
    · exact h5.settleChild
  clear_value s1
  have hs2 : s2.Canon := hs1.endPushes
  clear_value s2
  clear_value x
  split
  · exact hs2.modQueue
  · exact hs2.stopQueue

theorem State.Canon.releaseKeys {s : State} {c : Nat} (h : s.Canon) : (s.releaseKeys c).Canon := by
  unfold State.releaseKeys
  extract_lets +onlyGivenNames mapped gone
  clear_value mapped gone
  exact h.modHomes

theorem State.Canon.destroyCtx {s : State} {c : Nat} (h : s.Canon) : (s.destroyCtx c).Canon := by
  unfold State.destroyCtx
  split
  · exact h.cmdStatus
  · exact h.cmdStatus
  · exact h.cmdStatus
  · extract_lets +onlyGivenNames s1 s2 s3 s4 s5 s6 s7 s8
    have hs1 : s1.Canon := h.setCtxState.modCtx
    clear_value s1
    have hs2 : s2.Canon := hs1.foldl (fun _ _ h1 => h1.killWave)
    clear_value s2
    have hs3 : s3.Canon := hs2.foldl (fun _ _ h2 => h2.killLaunch)
    clear_value s3
    have hs4 : s4.Canon := by
      unfold s4
      refine State.Canon.mapBlocks hs3 rfl rfl rfl fun b hb => ?_
      split
      · exact Memory.wf_empty
      · exact hb
    clear_value s4
    have hs5 : s5.Canon := hs4.foldl (fun _ _ h3 => h3.endQueue)
    clear_value s5
    have hs6 : s6.Canon := hs5.foldl (fun _ _ h4 => h4.endQueue)
    clear_value s6
    have hs7 : s7.Canon := hs6.dropTlb.releaseKeys
    clear_value s7
    have hs8 : s8.Canon := by
      unfold s8
      split
      · exact hs7
      · exact hs7.setCtxState
    clear_value s8
    exact hs8.cmdStatus

theorem State.Canon.releaseHold {s : State} {w : Wave} (h : s.Canon) : (s.releaseHold w).Canon := by
  unfold State.releaseHold
  extract_lets +onlyGivenNames s1
  have hs1 : s1.Canon := h.resetWait
  clear_value s1
  split
  · exact hs1.returnFromTrap
  · extract_lets +onlyGivenNames slot pend v
    clear_value slot pend v
    extract_lets +onlyGivenNames v1
    clear_value v1
    split
    · exact hs1.putWave
    · extract_lets +onlyGivenNames pc cause hit lanes r
      clear_value pc cause hit lanes r
      exact hs1.putWave

theorem State.Canon.wresumeWave {s : State} {c tag grid : Nat} (h : s.Canon) : (s.wresumeWave c tag grid).Canon := by
  unfold State.wresumeWave
  split
  · split
    · exact h.releaseHold.cmdStatus
    · exact h.cmdStatus
  · split
    · exact h.releaseHold.cmdStatus
    · exact h.cmdStatus
  · split
    · exact h.releaseHold.cmdStatus
    · exact h.cmdStatus
  · split
    · exact h.releaseHold.cmdStatus
    · exact h.cmdStatus
  · split
    · exact h.releaseHold.cmdStatus
    · exact h.cmdStatus
  · split
    · exact h.releaseHold.cmdStatus
    · exact h.cmdStatus
  · exact h.cmdStatus

theorem State.Canon.contextCommand {s : State} {code c tag grid : Nat} (h : s.Canon) :
    (s.contextCommand code c tag grid).Canon := by
  unfold State.contextCommand
  split
  · exact h.cmdStatus
  · split
    · exact h.cmdStatus
    · split
      · exact h.createCtx
      · exact h.suspendCtx
      · exact h.resumeCtx
      · exact h.destroyCtx
      · exact h.wresumeWave

theorem State.Canon.commandNeeds {s : State} {code c : Nat} (h : s.Canon) : OnSome State.Canon
    (s.commandNeeds code c) := by
  unfold State.commandNeeds
  split
  · exact h
  · split
    · exact h.homeNeeds
    · exact trivial

theorem State.Canon.performCommand {s : State} {code c tag grid : Nat} (h : s.Canon) :
    (s.performCommand code c tag grid).Canon := by
  unfold State.performCommand
  extract_lets +onlyGivenNames s1 s2
  have hs1 : s1.Canon := h.contextCommand
  clear_value s1
  have hs2 : s2.Canon := by
    unfold s2
    split
    · exact hs1.modDev
    · exact hs1
  clear_value s2
  exact hs2.poll

theorem State.Canon.hostCommand {s : State} {code c tag grid : Nat} (h : s.Canon) :
    (s.hostCommand code c tag grid).Canon := by
  unfold State.hostCommand
  split
  · exact h
  · split
    · exact h.pushCommand
    · split
      next e =>
        have h1 : State.Canon _ := Canon.of_eq (P := OnSome State.Canon) e h.commandNeeds
        exact h1.pushCommand
      · exact h.performCommand

theorem State.Canon.runCommand {s : State} (h : s.Canon) : s.runCommand.Canon := by
  unfold State.runCommand
  split
  · exact h
  · split
    · exact h
    · split
      · split
        next e => exact Canon.of_eq (P := OnSome State.Canon) e h.hostQueueNeeds
        · exact h.modDev.performQueue
      · split
        next e1 => exact Canon.of_eq (P := OnSome State.Canon) e1 h.commandNeeds
        · exact h.modDev.performCommand

theorem State.Canon.execCreate {ctx : Nat} {s : State} (h : s.Canon) : OutCanon (execCreate ctx s) := by
  unfold Machine.execCreate
  exact h.hostCommand

theorem State.Canon.execSuspend {ctx : Nat} {s : State} (h : s.Canon) : OutCanon (execSuspend ctx s) := by
  unfold Machine.execSuspend
  exact h.hostCommand

theorem State.Canon.execResume {ctx : Nat} {s : State} (h : s.Canon) : OutCanon (execResume ctx s) := by
  unfold Machine.execResume
  exact h.hostCommand

theorem State.Canon.execDestroy {ctx : Nat} {s : State} (h : s.Canon) : OutCanon (execDestroy ctx s) := by
  unfold Machine.execDestroy
  exact h.hostCommand

theorem State.Canon.execWresume {ctx tag grid : Nat} {s : State} (h : s.Canon) : OutCanon
    (execWresume ctx tag grid s) := by
  unfold Machine.execWresume
  exact h.hostCommand

theorem State.Canon.execLaunchExamine {ctx queue : Nat} {s : State} (h : s.Canon) : OutCanon
    (execLaunchExamine ctx queue s) := by
  unfold Machine.execLaunchExamine
  change State.Canon _
  extract_lets +onlyGivenNames x n turn ahead
  clear_value x n turn ahead
  split
  · exact h
  · exact h.examine.modCtx.poll

theorem State.Canon.setPartition {s : State} {n0 n1 : Nat} (h : s.Canon) : (s.setPartition n0 n1).Canon := by
  unfold State.setPartition
  extract_lets +onlyGivenNames s1 s2 back ord back1 s3 s4 s5 s6 x s7
  have hs1 : s1.Canon := h.modSched
  clear_value s1
  have hs2 : s2.Canon := hs1.frame rfl rfl rfl
  clear_value s2
  have hs3 : s3.Canon := hs2.frame rfl rfl rfl
  clear_value s3
  have hs4 : s4.Canon := hs3.foldl (fun _ _ h1 => h1.stampHead)
  clear_value s4
  have hs5 : s5.Canon := hs4.modSched
  clear_value s5
  have hs6 : s6.Canon := hs5.foldl (fun _ _ h2 => h2.modGang)
  clear_value s6
  have hs7 : s7.Canon := hs6.foldl (fun _ _ h3 => h3.notice.modLaunch)
  clear_value s7
  clear_value back ord back1 x
  exact hs7.poll

end Sys2Proof.Machine
end

section
/-! SUPPORT. Canonical memories under tiles, accumulators and the array (Machine/Tile). -/

namespace Sys2Proof.Machine

theorem State.Canon.askPermit {s : State} {quad : Nat} (h : s.Canon) : (s.askPermit quad).Canon := by
  unfold State.askPermit
  exact h.modQuad

theorem State.Canon.execPermit {g : Gen} {s : State} (h : s.Canon) : OutCanon (execPermit g s) := by
  unfold Machine.execPermit
  exact State.Canon.issueWave (fun _ h1 => h1.state.modQuad) h

theorem State.Canon.execPermitRel {g : Gen} {s : State} (h : s.Canon) : OutCanon (execPermitRel g s) := by
  unfold Machine.execPermitRel
  exact State.Canon.issueWave (fun _ h1 => h1.state.modQuad) h

theorem State.Canon.execPermitGrant {die : Nat} {s : State} (h : s.Canon) : OutCanon (execPermitGrant die s) := by
  unfold Machine.execPermitGrant
  change State.Canon _
  extract_lets +onlyGivenNames mine asked
  clear_value mine asked
  split
  · exact h
  · split
    · exact h
    · extract_lets +onlyGivenNames recent s1
      have hs1 : s1.Canon := h.modDev
      clear_value s1
      clear_value recent
      exact hs1.modQuad

theorem State.Canon.execPermitIdleReturn {quad : Nat} {s : State} (h : s.Canon) : OutCanon
    (execPermitIdleReturn quad s) := by
  unfold Machine.execPermitIdleReturn
  exact h.modQuad.askPermit

theorem Iss.Canon.enqueue {x : Iss} {w : Wave} {a : ArrayOp} (h : x.Canon) : (x.enqueue w a).Canon := by
  unfold Iss.enqueue
  exact h.state.putWave.modQuad.askPermit

theorem Iss.Canon.loadRows {x : Iss} {m : Mem} {s : State} {w : Wave} {o : Op} {ps : List (Nat × Place)} {len : Nat}
    {dst : Nat → Nat} (h : x.Canon) (h1 : s.Canon) : (x.loadRows m s w o ps len dst).Canon := by
  unfold Iss.loadRows
  extract_lets +onlyGivenNames far overlap
  clear_value far overlap
  split
  · exact h.exhausted h1
  · split
    · exact h1
    · extract_lets +onlyGivenNames pieces rows reqs o1 s1
      have hs1 : s1.Canon := h1.putWave
      clear_value s1
      clear_value pieces rows reqs o1
      exact hs1.readPieces.sendRemote

theorem Iss.Canon.badFormat {x : Iss} {e : Nat} (h : x.Canon) : (x.badFormat e).Canon := by
  unfold Iss.badFormat
  exact h.raise

theorem State.Canon.execTld {m : Mem} {s : State} (h : s.Canon) : OutCanon (execTld m s) := by
  unfold Machine.execTld
  refine State.Canon.issueWave (fun a h3 => ?_) h
  extract_lets +onlyGivenNames t scale
  clear_value t scale
  split
  · exact h3.state
  · split
    · exact h3.state
    · split
      · exact h3.badFormat
      · split
        · exact h3.badFormat
        · extract_lets +onlyGivenNames len n base c stride addr extra
          clear_value len n base c stride addr extra
          split
          next e => exact Canon.of_eq (P := Located.Canon) e (h3.locate (fun _ _ _ h5 => h5))
          next e1 =>
            have h6 : State.Canon _ := Canon.of_eq (P := Located.Canon) e1 (h3.locate (fun _ _ _ h7 => h7))
            exact h3.failWith h6
          next e2 =>
            have h8 : State.Canon _ := Canon.of_eq (P := Located.Canon) e2 (h3.locate (fun _ _ _ h9 => h9))
            extract_lets +onlyGivenNames w w1
            clear_value w w1
            exact h3.loadRows h8

theorem State.Canon.execGathr {m : Mem} {s : State} (h : s.Canon) : OutCanon (execGathr m s) := by
  unfold Machine.execGathr
  refine State.Canon.issueWave (fun a h3 => ?_) h
  extract_lets +onlyGivenNames t
  clear_value t
  split
  · exact h3.state
  · split
    · exact h3.state
    · split
      · exact h3.badFormat
      · extract_lets +onlyGivenNames count after
        clear_value count after
        split
        · exact h3.failWith h3.state
        · extract_lets +onlyGivenNames rank beyond
          clear_value rank beyond
          split
          · exact h3.raise
          · split
            next e => exact Canon.of_eq (P := Located.Canon) e (h3.locate (fun _ _ _ h5 => h5))
            next e1 =>
              have h6 : State.Canon _ := Canon.of_eq (P := Located.Canon) e1 (h3.locate (fun _ _ _ h7 => h7))
              exact h3.failWith h6
            next e2 =>
              have h8 : State.Canon _ := Canon.of_eq (P := Located.Canon) e2 (h3.locate (fun _ _ _ h9 => h9))
              extract_lets +onlyGivenNames k w w1 o
              clear_value k w w1 o
              extract_lets +onlyGivenNames o1
              clear_value o1
              exact h3.loadRows h8

theorem State.Canon.execTtag {g : Gen} {s : State} (h : s.Canon) : OutCanon (execTtag g s) := by
  unfold Machine.execTtag
  refine State.Canon.issueWave (fun a h3 => ?_) h
  extract_lets +onlyGivenNames t f
  clear_value t f
  split
  · exact h3.state
  · exact h3.done

theorem Iss.Canon.mmaBody {m : Mat} {sparse : Bool} {x : Iss} (h : x.Canon) : (mmaBody m sparse x).Canon := by
  unfold Machine.mmaBody
  extract_lets +onlyGivenNames t d
  clear_value t d
  split
  · exact h.state
  · split
    · exact h.state
    · split
      · exact h.badFormat
      · extract_lets +onlyGivenNames names phys fresh latch w a
        clear_value names phys fresh latch w a
        extract_lets +onlyGivenNames a1
        clear_value a1
        extract_lets +onlyGivenNames a2
        clear_value a2
        exact h.enqueue.modQuad

theorem State.Canon.execMma {m : Mat} {s : State} (h : s.Canon) : OutCanon (execMma m s) := by
  unfold Machine.execMma
  exact State.Canon.issueWave (fun _ h1 => h1.mmaBody) h

theorem State.Canon.execMmas {m : Mat} {s : State} (h : s.Canon) : OutCanon (execMmas m s) := by
  unfold Machine.execMmas
  exact State.Canon.issueWave (fun _ h1 => h1.mmaBody) h

theorem State.Canon.execAccz {g : Gen} {s : State} (h : s.Canon) : OutCanon (execAccz g s) := by
  unfold Machine.execAccz
  refine State.Canon.issueWave (fun a h3 => ?_) h
  extract_lets +onlyGivenNames d
  clear_value d
  split
  · exact h3.state
  · exact h3.enqueue

theorem State.Canon.execAccrd {g : Gen} {s : State} (h : s.Canon) : OutCanon (execAccrd g s) := by
  unfold Machine.execAccrd
  refine State.Canon.issueWave (fun a h3 => ?_) h
  extract_lets +onlyGivenNames a1
  clear_value a1
  split
  · exact h3.state
  · split
    · exact h3.failWith h3.state
    · extract_lets +onlyGivenNames n
      clear_value n
      split
      exact h3.enqueue

theorem State.Canon.execAccwr {g : Gen} {s : State} (h : s.Canon) : OutCanon (execAccwr g s) := by
  unfold Machine.execAccwr
  refine State.Canon.issueWave (fun a h3 => ?_) h
  extract_lets +onlyGivenNames d
  clear_value d
  split
  · exact h3.state
  · split
    · exact h3.failWith h3.state
    · extract_lets +onlyGivenNames n
      clear_value n
      exact h3.enqueue

theorem State.Canon.execAccld {m : Mem} {s : State} (h : s.Canon) : OutCanon (execAccld m s) := by
  unfold Machine.execAccld
  refine State.Canon.issueWave (fun a h3 => ?_) h
  extract_lets +onlyGivenNames d
  clear_value d
  split
  split
  · exact h3.state
  · split
    next e => exact Canon.of_eq (P := Located.Canon) e (h3.locate (fun _ _ _ h5 => h5))
    next e1 =>
      have h6 : State.Canon _ := Canon.of_eq (P := Located.Canon) e1 (h3.locate (fun _ _ _ h7 => h7))
      exact h3.failWith h6
    next e2 =>
      have h8 : State.Canon _ := Canon.of_eq (P := Located.Canon) e2 (h3.locate (fun _ _ _ h9 => h9))
      exact h3.loadRows h8

theorem State.Canon.execAccst {m : Mem} {s : State} (h : s.Canon) : OutCanon (execAccst m s) := by
  unfold Machine.execAccst
  refine State.Canon.issueWave (fun a h3 => ?_) h
  extract_lets +onlyGivenNames d
  clear_value d
  split
  extract_lets +onlyGivenNames late
  clear_value late
  split
  · exact h3.state
  · extract_lets +onlyGivenNames a1
    clear_value a1
    split
    next e => exact Canon.of_eq (P := Located.Canon) e (h3.locate (fun _ _ _ h5 => h5))
    next e1 =>
      have h6 : State.Canon _ := Canon.of_eq (P := Located.Canon) e1 (h3.locate (fun _ _ _ h7 => h7))
      exact h3.failWith h6
    next e2 =>
      have h8 : State.Canon _ := Canon.of_eq (P := Located.Canon) e2 (h3.locate (fun _ _ _ h9 => h9))
      extract_lets +onlyGivenNames data
      clear_value data
      refine Iss.Canon.limited h3 h8 ?_
      extract_lets +onlyGivenNames o home ops w
      clear_value o home ops w
      extract_lets +onlyGivenNames w1
      clear_value w1
      extract_lets +onlyGivenNames w2
      clear_value w2
      exact h8.putWave

theorem State.Canon.readAccsts {s : State} (h : s.Canon) : s.readAccsts.Canon := by
  unfold State.readAccsts
  refine State.Canon.foldl h fun s1 x h3 => ?_
  refine State.Canon.foldl h3 fun s2 x1 h5 => ?_
  split
  · split
    · exact h5
    · extract_lets +onlyGivenNames acc mine bad
      clear_value acc mine bad
      split
      · exact h5.putWave
      · extract_lets +onlyGivenNames s3
        have hs3 : s3.Canon := h5.reportOp
        clear_value s3
        exact hs3.modWave
  · exact h5

theorem State.Canon.execArrayStart {quad : Nat} {s : State} (h : s.Canon) : OutCanon (execArrayStart quad s) := by
  unfold Machine.execArrayStart
  change State.Canon _
  extract_lets +onlyGivenNames s1 q
  have hs1 : s1.Canon := h.askPermit
  clear_value s1
  clear_value q
  split
  · exact hs1
  · split
    · exact hs1
    · extract_lets +onlyGivenNames loads busy permit
      clear_value loads busy permit
      split
      · exact hs1
      · exact hs1.modQuad.askPermit

theorem State.Canon.execMmaComplete {quad : Nat} {s : State} (h : s.Canon) : OutCanon (execMmaComplete quad s) := by
  unfold Machine.execMmaComplete
  change State.Canon _
  split
  · exact h
  · split
    · exact h
    · extract_lets +onlyGivenNames due rows
      clear_value due rows
      split
      · exact h
      · split
        · exact h.freeJournal
        · extract_lets +onlyGivenNames kind w s1
          have hs1 : s1.Canon := h.putWave
          clear_value s1
          clear_value kind w
          exact hs1.modQuad.poll

end Sys2Proof.Machine
end

section
/-! SUPPORT. Canonical memories under power, bring-up and the control space (Machine/Boot). -/

namespace Sys2Proof.Machine

theorem State.Canon.powerCycle {s : State} (h : s.Canon) : s.powerCycle.Canon := by
  unfold State.powerCycle
  extract_lets +onlyGivenNames __src
  have h__src : __src.Canon := State.powered_canon
  clear_value __src
  exact ⟨h__src.mem, h.host, h__src.blocks⟩

theorem State.Canon.execPowerUp {s : State} (h : s.Canon) : OutCanon (execPowerUp s) := by
  unfold Machine.execPowerUp
  change State.Canon _
  split
  · exact h
  · exact h.powerCycle

theorem State.Canon.execPowerRemoved {s : State} (h : s.Canon) : OutCanon (execPowerRemoved s) := by
  unfold Machine.execPowerRemoved
  exact h.powerCycle.modDev

theorem State.Canon.resetWrite {s : State} {v : DWord} (h : s.Canon) : (s.resetWrite v).Canon := by
  unfold State.resetWrite
  split
  · exact h.powerCycle
  · exact h

theorem State.Canon.execReset {v : DWord} {s : State} (h : s.Canon) : OutCanon (execReset v s) := by
  unfold Machine.execReset
  exact h.resetWrite

theorem State.Canon.execHotReset {s : State} (h : s.Canon) : OutCanon (execHotReset s) := by
  unfold Machine.execHotReset
  change State.Canon _
  split
  · exact h.powerCycle
  · exact h

theorem State.Canon.execFunctionLevelReset {s : State} (h : s.Canon) : OutCanon (execFunctionLevelReset s) := by
  unfold Machine.execFunctionLevelReset
  change State.Canon _
  split
  · exact h.powerCycle
  · exact h

theorem State.Canon.booted {s : State} (h : s.Canon) : s.booted.Canon := by
  unfold State.booted
  extract_lets +onlyGivenNames h1 mem s1 s2 port s3 id s4
  have hs1 : s1.Canon := ⟨(Memory.wf_setBytes _ (Memory.wf_setBytes _ rfl _) _), h.host, h.blocks⟩
  clear_value s1
  have hs2 : s2.Canon := hs1.modDev
  clear_value s2
  have hs3 : s3.Canon := hs2.modLink
  clear_value s3
  have hs4 : s4.Canon := hs3.frame rfl rfl rfl
  clear_value s4
  clear_value h1 mem port id
  exact hs4.modSched.setCtxState

theorem State.Canon.execBootTrainingComplete {s : State} (h : s.Canon) : OutCanon (execBootTrainingComplete s) := by
  unfold Machine.execBootTrainingComplete
  change State.Canon _
  split
  · exact h
  · split
    · exact h.modDev
    · exact h.booted

theorem State.Canon.attWrite {s : State} {v : DWord} (h : s.Canon) : (s.attWrite v).Canon := by
  unfold State.attWrite
  split
  · exact h.modDev
  · exact h

theorem State.Canon.execAttcmd {v : DWord} {s : State} (h : s.Canon) : OutCanon (execAttcmd v s) := by
  unfold Machine.execAttcmd
  exact h.attWrite

theorem State.Canon.execQuoteComplete {s : State} (h : s.Canon) : OutCanon (execQuoteComplete s) := by
  unfold Machine.execQuoteComplete
  change State.Canon _
  split
  · exact h
  · exact h.modDev

theorem State.Canon.nonceWrite {s : State} {k : Nat} {v : DWord} (h : s.Canon) : (s.nonceWrite k v).Canon := by
  unfold State.nonceWrite
  split
  · exact h
  · exact h.modDev

theorem State.Canon.capWrite {s : State} {v : DWord} (h : s.Canon) : (s.capWrite v).Canon := by
  unfold State.capWrite
  split
  · exact h.modDev
  · exact h

theorem State.Canon.execPowercap {v : DWord} {s : State} (h : s.Canon) : OutCanon (execPowercap v s) := by
  unfold Machine.execPowercap
  exact h.capWrite

theorem State.Canon.execPowercapTakesEffect {s : State} (h : s.Canon) : OutCanon (execPowercapTakesEffect s) := by
  unfold Machine.execPowercapTakesEffect
  exact h.modDev

theorem State.Canon.execBridgefence {s : State} (h : s.Canon) : OutCanon (execBridgefence s) := by
  unfold Machine.execBridgefence
  change State.Canon _
  split
  · exact h
  · exact h.modDev

theorem State.Canon.controlWrite {s : State} {off : Nat} {v : DWord} (h : s.Canon) :
    (s.controlWrite off v).Canon := by
  unfold State.controlWrite
  extract_lets +onlyGivenNames n
  clear_value n
  split
  · exact h.resetWrite
  · split
    · exact h
    · split
      · exact h.hostCommand
      · split
        · exact h.hostQueue
        · split
          · exact h.modDev
          · split
            · exact h.capWrite
            · split
              · exact h.attWrite
              · split
                · exact h.nonceWrite
                · split
                  · exact h.hostInterrupt
                  · exact h

theorem State.Canon.execRegisterWrite {off : Nat} {v : DWord} {s : State} (h : s.Canon) : OutCanon
    (execRegisterWrite off v s) := by
  unfold Machine.execRegisterWrite
  exact h.controlWrite

end Sys2Proof.Machine
end

section
/-! SUPPORT. Canonical memories under integer, logic, move and predicate instructions (Machine/Alu). -/

namespace Sys2Proof.Machine

theorem Iss.Canon.alu {x : Iss} {d : Fld} {wide : Bool} {f : Nat → Val64} (h : x.Canon) : (x.alu d wide f).Canon := by
  unfold Iss.alu
  exact h.done

theorem Iss.Canon.setLanes {x : Iss} {d : Fld} {poisoned f : Nat → Bool} (h : x.Canon) :
    (x.setLanes d poisoned f).Canon := by
  unfold Iss.setLanes
  extract_lets +onlyGivenNames bad
  clear_value bad
  split
  · exact h.poison
  · exact h.done

theorem Iss.Canon.intArith {g : Gen} {sat : Bool} {op : Nat → ℤ → ℤ → ℤ} {x : Iss} (h : x.Canon) :
    (intArith g sat op x).Canon := by
  unfold Machine.intArith
  extract_lets +onlyGivenNames wide u w
  clear_value wide u w
  exact h.alu

theorem State.Canon.execIadd {g : Gen} {s : State} (h : s.Canon) : OutCanon (execIadd g s) := by
  unfold Machine.execIadd
  exact State.Canon.issueWave (fun _ h1 => h1.intArith) h

theorem State.Canon.execIsub {g : Gen} {s : State} (h : s.Canon) : OutCanon (execIsub g s) := by
  unfold Machine.execIsub
  exact State.Canon.issueWave (fun _ h1 => h1.intArith) h

theorem State.Canon.execImul {g : Gen} {s : State} (h : s.Canon) : OutCanon (execImul g s) := by
  unfold Machine.execImul
  refine State.Canon.issueWave (fun a h3 => ?_) h
  split
  · exact h3.alu
  · exact h3.intArith

theorem State.Canon.execImulh {g : Gen} {s : State} (h : s.Canon) : OutCanon (execImulh g s) := by
  unfold Machine.execImulh
  exact State.Canon.issueWave (fun _ h1 => h1.intArith) h

theorem State.Canon.execImad {g : Gen} {s : State} (h : s.Canon) : OutCanon (execImad g s) := by
  unfold Machine.execImad
  refine State.Canon.issueWave (fun a h3 => ?_) h
  extract_lets +onlyGivenNames u narrow wide w
  clear_value u narrow wide w
  exact h3.alu

theorem State.Canon.execImin {g : Gen} {s : State} (h : s.Canon) : OutCanon (execImin g s) := by
  unfold Machine.execImin
  exact State.Canon.issueWave (fun _ h1 => h1.intArith) h

theorem State.Canon.execImax {g : Gen} {s : State} (h : s.Canon) : OutCanon (execImax g s) := by
  unfold Machine.execImax
  exact State.Canon.issueWave (fun _ h1 => h1.intArith) h

theorem Iss.Canon.bitwise {g : Gen} {op : DWord → DWord → DWord} {x : Iss} (h : x.Canon) :
    (bitwise g op x).Canon := by
  unfold Machine.bitwise
  exact h.alu

theorem State.Canon.execAnd {g : Gen} {s : State} (h : s.Canon) : OutCanon (execAnd g s) := by
  unfold Machine.execAnd
  exact State.Canon.issueWave (fun _ h1 => h1.bitwise) h

theorem State.Canon.execOr {g : Gen} {s : State} (h : s.Canon) : OutCanon (execOr g s) := by
  unfold Machine.execOr
  exact State.Canon.issueWave (fun _ h1 => h1.bitwise) h

theorem State.Canon.execXor {g : Gen} {s : State} (h : s.Canon) : OutCanon (execXor g s) := by
  unfold Machine.execXor
  exact State.Canon.issueWave (fun _ h1 => h1.bitwise) h

theorem Iss.Canon.shiftBy {g : Gen} {op : Nat → Nat → Nat → Nat} {x : Iss} (h : x.Canon) :
    (shiftBy g op x).Canon := by
  unfold Machine.shiftBy
  extract_lets +onlyGivenNames w
  clear_value w
  exact h.alu

theorem State.Canon.execShl {g : Gen} {s : State} (h : s.Canon) : OutCanon (execShl g s) := by
  unfold Machine.execShl
  exact State.Canon.issueWave (fun _ h1 => h1.shiftBy) h

theorem State.Canon.execShr {g : Gen} {s : State} (h : s.Canon) : OutCanon (execShr g s) := by
  unfold Machine.execShr
  exact State.Canon.issueWave (fun _ h1 => h1.shiftBy) h

theorem State.Canon.execSar {g : Gen} {s : State} (h : s.Canon) : OutCanon (execSar g s) := by
  unfold Machine.execSar
  exact State.Canon.issueWave (fun _ h1 => h1.shiftBy) h

theorem State.Canon.execBits {g : Gen} {s : State} (h : s.Canon) : OutCanon (execBits g s) := by
  unfold Machine.execBits
  refine State.Canon.issueWave (fun a h3 => ?_) h
  extract_lets +onlyGivenNames v wide w usesB usesC dWide
  clear_value v wide w usesB usesC dWide
  exact h3.alu

theorem State.Canon.execIset {g : Gen} {s : State} (h : s.Canon) : OutCanon (execIset g s) := by
  unfold Machine.execIset
  refine State.Canon.issueWave (fun a h3 => ?_) h
  extract_lets +onlyGivenNames u wide w a1 b
  clear_value u wide w a1 b
  exact h3.setLanes

theorem State.Canon.execSel {g : Gen} {s : State} (h : s.Canon) : OutCanon (execSel g s) := by
  unfold Machine.execSel
  refine State.Canon.issueWave (fun a h3 => ?_) h
  extract_lets +onlyGivenNames c
  clear_value c
  exact h3.alu

theorem State.Canon.execMov {g : Gen} {s : State} (h : s.Canon) : OutCanon (execMov g s) := by
  unfold Machine.execMov
  refine State.Canon.issueWave (fun a h3 => ?_) h
  extract_lets +onlyGivenNames e
  clear_value e
  exact h3.alu

theorem State.Canon.execMovl {g : Gen} {s : State} (h : s.Canon) : OutCanon (execMovl g s) := by
  unfold Machine.execMovl
  exact State.Canon.issueWave (fun _ h1 => h1.alu) h

theorem State.Canon.execLea {g : Gen} {s : State} (h : s.Canon) : OutCanon (execLea g s) := by
  unfold Machine.execLea
  refine State.Canon.issueWave (fun a h3 => ?_) h
  extract_lets +onlyGivenNames sh ul
  clear_value sh ul
  exact h3.alu

theorem State.Canon.execPlog {g : Gen} {s : State} (h : s.Canon) : OutCanon (execPlog g s) := by
  unfold Machine.execPlog
  exact State.Canon.issueWave (fun _ h1 => h1.setLanes) h

theorem State.Canon.execPmov {g : Gen} {s : State} (h : s.Canon) : OutCanon (execPmov g s) := by
  unfold Machine.execPmov
  refine State.Canon.issueWave (fun a h3 => ?_) h
  split
  · exact h3.alu
  · exact h3.setLanes
  · exact h3.setLanes
  · exact h3.alu

theorem State.Canon.execRdlane {g : Gen} {s : State} (h : s.Canon) : OutCanon (execRdlane g s) := by
  unfold Machine.execRdlane
  refine State.Canon.issueWave (fun a h3 => ?_) h
  extract_lets +onlyGivenNames k v
  clear_value k v
  exact h3.alu

theorem State.Canon.execWrlane {g : Gen} {s : State} (h : s.Canon) : OutCanon (execWrlane g s) := by
  unfold Machine.execWrlane
  refine State.Canon.issueWave (fun a h3 => ?_) h
  extract_lets +onlyGivenNames k a1 v
  clear_value k a1 v
  exact h3.done

end Sys2Proof.Machine
end

section
/-! SUPPORT. Canonical memories under a strike and its rollback (Machine/Contain). -/

namespace Sys2Proof.Machine

theorem State.Canon.takeBack {s : State} {hs : List Held} (h : s.Canon) : (s.takeBack hs).Canon := by
  unfold State.takeBack
  refine State.Canon.foldl h fun s1 x h2 => ?_
  split
  · extract_lets +onlyGivenNames p
    clear_value p
    exact h2.setNatAt.afterWrite
  · exact h2

theorem State.Canon.rollback {s : State} {id : Nat} (h : s.Canon) : (s.rollback id).Canon := by
  unfold State.rollback
  split
  · exact h
  · split
    · exact h
    · extract_lets +onlyGivenNames s1 s2 s3 v v1
      have hs1 : s1.Canon := h.count
      clear_value s1
      have hs2 : s2.Canon := hs1.takeBack
      clear_value s2
      have hs3 : s3.Canon := hs2.discardMsgs
      clear_value s3
      clear_value v v1
      exact hs3.putWave.settleActive

theorem State.Canon.execStrikeReport {quad : Nat} {s : State} (h : s.Canon) : OutCanon (execStrikeReport quad s) := by
  unfold Machine.execStrikeReport
  change State.Canon _
  split
  · exact h
  · extract_lets +onlyGivenNames s1
    have hs1 : s1.Canon := h.count
    clear_value s1
    exact (hs1.foldl (fun _ _ h1 => h1.rollback)).poll

end Sys2Proof.Machine
end

section
/-! SUPPORT. Canonical memories under floating-point instructions and the special-function unit (Machine/Float). -/

namespace Sys2Proof.Machine

theorem Iss.Canon.float {x : Iss} {d : Fld} {wide : Bool} {f : Nat → Val64 × Flags} (h : x.Canon) :
    (x.float d wide f).Canon := by
  unfold Iss.float
  extract_lets +onlyGivenNames bad
  clear_value bad
  split
  · exact h.raise
  · exact h.done

theorem Iss.Canon.float1 {g : Gen} {op : Fmt → Ctl → Nat → FRes} {x : Iss} (h : x.Canon) : (float1 g op x).Canon := by
  unfold Machine.float1
  exact h.float

theorem Iss.Canon.float2 {g : Gen} {op : Fmt → Ctl → Nat → Nat → FRes} {x : Iss} (h : x.Canon) :
    (float2 g op x).Canon := by
  unfold Machine.float2
  exact h.float

theorem State.Canon.execFadd {g : Gen} {s : State} (h : s.Canon) : OutCanon (execFadd g s) := by
  unfold Machine.execFadd
  exact State.Canon.issueWave (fun _ h1 => h1.float2) h

theorem State.Canon.execFsub {g : Gen} {s : State} (h : s.Canon) : OutCanon (execFsub g s) := by
  unfold Machine.execFsub
  exact State.Canon.issueWave (fun _ h1 => h1.float2) h

theorem State.Canon.execFmul {g : Gen} {s : State} (h : s.Canon) : OutCanon (execFmul g s) := by
  unfold Machine.execFmul
  exact State.Canon.issueWave (fun _ h1 => h1.float2) h

theorem State.Canon.execFfma {g : Gen} {s : State} (h : s.Canon) : OutCanon (execFfma g s) := by
  unfold Machine.execFfma
  exact State.Canon.issueWave (fun _ h1 => h1.float) h

theorem State.Canon.execFmin {g : Gen} {s : State} (h : s.Canon) : OutCanon (execFmin g s) := by
  unfold Machine.execFmin
  exact State.Canon.issueWave (fun _ h1 => h1.float2) h

theorem State.Canon.execFmax {g : Gen} {s : State} (h : s.Canon) : OutCanon (execFmax g s) := by
  unfold Machine.execFmax
  exact State.Canon.issueWave (fun _ h1 => h1.float2) h

theorem State.Canon.execFset {g : Gen} {s : State} (h : s.Canon) : OutCanon (execFset g s) := by
  unfold Machine.execFset
  refine State.Canon.issueWave (fun a h3 => ?_) h
  extract_lets +onlyGivenNames wide f a1 b r pz bad
  clear_value wide f a1 b r pz bad
  split
  · exact h3.poison
  · split
    · exact h3.raise
    · exact h3.done

theorem State.Canon.execFrnd {g : Gen} {s : State} (h : s.Canon) : OutCanon (execFrnd g s) := by
  unfold Machine.execFrnd
  exact State.Canon.issueWave (fun _ h1 => h1.float1) h

theorem State.Canon.execFclass {g : Gen} {s : State} (h : s.Canon) : OutCanon (execFclass g s) := by
  unfold Machine.execFclass
  exact State.Canon.issueWave (fun _ h1 => h1.alu) h

theorem State.Canon.execFscl {g : Gen} {s : State} (h : s.Canon) : OutCanon (execFscl g s) := by
  unfold Machine.execFscl
  exact State.Canon.issueWave (fun _ h1 => h1.float) h

theorem State.Canon.execCvt {g : Gen} {s : State} (h : s.Canon) : OutCanon (execCvt g s) := by
  unfold Machine.execCvt
  refine State.Canon.issueWave (fun a h3 => ?_) h
  split
  exact h3.float

theorem State.Canon.execPack {g : Gen} {s : State} (h : s.Canon) : OutCanon (execPack g s) := by
  unfold Machine.execPack
  exact State.Canon.issueWave (fun _ h1 => h1.float) h

theorem State.Canon.execUnpk {g : Gen} {s : State} (h : s.Canon) : OutCanon (execUnpk g s) := by
  unfold Machine.execUnpk
  exact State.Canon.issueWave (fun _ h1 => h1.float) h

theorem Iss.Canon.packed {g : Gen} {usesC : Bool} {op : Fmt → Ctl → Nat → Nat → Nat → FRes} {x : Iss} (h : x.Canon) :
    (packed g usesC op x).Canon := by
  unfold Machine.packed
  extract_lets +onlyGivenNames f sw
  clear_value f sw
  exact h.float

theorem State.Canon.execPkadd {g : Gen} {s : State} (h : s.Canon) : OutCanon (execPkadd g s) := by
  unfold Machine.execPkadd
  exact State.Canon.issueWave (fun _ h1 => h1.packed) h

theorem State.Canon.execPkmul {g : Gen} {s : State} (h : s.Canon) : OutCanon (execPkmul g s) := by
  unfold Machine.execPkmul
  exact State.Canon.issueWave (fun _ h1 => h1.packed) h

theorem State.Canon.execPkfma {g : Gen} {s : State} (h : s.Canon) : OutCanon (execPkfma g s) := by
  unfold Machine.execPkfma
  exact State.Canon.issueWave (fun _ h1 => h1.packed) h

theorem State.Canon.execFdot {g : Gen} {s : State} (h : s.Canon) : OutCanon (execFdot g s) := by
  unfold Machine.execFdot
  exact State.Canon.issueWave (fun _ h1 => h1.float) h

theorem Iss.Canon.toUnit {x : Iss} {d : Fld} {wide : Bool} {clocks : Nat} {f : Nat → Val64 × Flags} (h : x.Canon) :
    (toUnit x d wide clocks f).Canon := by
  unfold Machine.toUnit
  split
  · exact h.state
  · extract_lets +onlyGivenNames bad o
    clear_value bad o
    split
    extract_lets +onlyGivenNames o1 s
    have hs : s.Canon := h.state.putWave
    clear_value s
    clear_value o1
    exact hs.modQuad

theorem State.Canon.execFdiv {g : Gen} {s : State} (h : s.Canon) : OutCanon (execFdiv g s) := by
  unfold Machine.execFdiv
  exact State.Canon.issueWave (fun _ h1 => h1.toUnit) h

theorem State.Canon.execSfu {g : Gen} {s : State} (h : s.Canon) : OutCanon (execSfu g s) := by
  unfold Machine.execSfu
  exact State.Canon.issueWave (fun _ h1 => h1.toUnit) h

theorem State.Canon.pick {α : Type} {s : State} {l : List α} (h : s.Canon) : OnSnd State.Canon (s.pick l) := by
  unfold State.pick
  split
  · exact OnSnd.intro h
  · exact OnSnd.intro h
  · split
    rename_i e
    have h1 : State.Canon _ := Canon.of_eq (P := OnSnd State.Canon) e h.choose
    exact OnSnd.intro h1

theorem State.Canon.execSfuComplete {quad : Nat} {s : State} (h : s.Canon) : OutCanon (execSfuComplete quad s) := by
  unfold Machine.execSfuComplete
  change State.Canon _
  split
  next e => exact Canon.of_eq (P := OnSnd State.Canon) e h.pick
  next e1 =>
    have h2 : State.Canon _ := Canon.of_eq (P := OnSnd State.Canon) e1 h.pick
    extract_lets +onlyGivenNames s1
    have hs1 : s1.Canon := h2.modQuad
    clear_value s1
    split
    · exact hs1
    · split
      · exact hs1.reportOp.modWave
      · exact hs1.modWave

end Sys2Proof.Machine
end

section
/-! SUPPORT. Canonical memories under the host's requests as the port receives them (Machine/HostPort). -/

namespace Sys2Proof.Machine

theorem State.Canon.hostRequest {s : State} {kind addr size : Nat} {data : List Byte} {poisoned : Bool} (h : s.Canon) :
    (s.hostRequest kind addr size data poisoned).Canon := by
  unfold State.hostRequest
  split
  · exact h
  · extract_lets +onlyGivenNames id s1
    have hs1 : s1.Canon := h.frame rfl rfl rfl
    clear_value s1
    clear_value id
    exact hs1.modHomes.poll

theorem State.Canon.execHostRead {addr size : Nat} {cacheable : Bool} {s : State} (h : s.Canon) : OutCanon
    (execHostRead addr size cacheable s) := by
  unfold Machine.execHostRead
  exact Canon.elim h (fun _ => h.hostRequest)

theorem State.Canon.execHostWrite {addr : Nat} {data : List Byte} {poisoned : Bool} {s : State} (h : s.Canon) :
    OutCanon (execHostWrite addr data poisoned s) := by
  unfold Machine.execHostWrite
  exact Canon.elim h (fun _ => h.hostRequest)

end Sys2Proof.Machine
end

section
/-! SUPPORT. Canonical memories under cross-lane instructions (Machine/Lanes). -/

namespace Sys2Proof.Machine

theorem State.Canon.execPerm {g : Gen} {s : State} (h : s.Canon) : OutCanon (execPerm g s) := by
  unfold Machine.execPerm
  exact State.Canon.issueWave (fun _ h1 => h1.alu) h

theorem State.Canon.execBallot {g : Gen} {s : State} (h : s.Canon) : OutCanon (execBallot g s) := by
  unfold Machine.execBallot
  refine State.Canon.issueWave (fun a h3 => ?_) h
  extract_lets +onlyGivenNames m
  clear_value m
  split <;> exact h3.alu

theorem State.Canon.execVote {g : Gen} {s : State} (h : s.Canon) : OutCanon (execVote g s) := by
  unfold Machine.execVote
  refine State.Canon.issueWave (fun a h3 => ?_) h
  extract_lets +onlyGivenNames m r
  clear_value m r
  exact h3.setLanes

theorem State.Canon.execMatchl {g : Gen} {s : State} (h : s.Canon) : OutCanon (execMatchl g s) := by
  unfold Machine.execMatchl
  refine State.Canon.issueWave (fun a h3 => ?_) h
  extract_lets +onlyGivenNames a1 same
  clear_value a1 same
  split
  · exact h3.setLanes
  · exact h3.alu

theorem Iss.Canon.scanBody {g : Gen} {pick : Nat → Option Nat} {x : Iss} (h : x.Canon) :
    (scanBody g pick x).Canon := by
  unfold Machine.scanBody
  extract_lets +onlyGivenNames sub wide a ctl start y
  clear_value sub wide a ctl start y
  exact h.float

theorem State.Canon.execScanl {g : Gen} {s : State} (h : s.Canon) : OutCanon (execScanl g s) := by
  unfold Machine.execScanl
  exact State.Canon.issueWave (fun _ h1 => h1.scanBody) h

theorem State.Canon.execRedl {g : Gen} {s : State} (h : s.Canon) : OutCanon (execRedl g s) := by
  unfold Machine.execRedl
  exact State.Canon.issueWave (fun _ h1 => h1.scanBody) h

theorem State.Canon.execTopk {g : Gen} {s : State} (h : s.Canon) : OutCanon (execTopk g s) := by
  unfold Machine.execTopk
  refine State.Canon.issueWave (fun a h3 => ?_) h
  extract_lets +onlyGivenNames least int k listAt entry fromList all signals fl bad
  clear_value least int k listAt entry fromList all signals fl bad
  split
  · exact h3.raise
  · extract_lets +onlyGivenNames into
    clear_value into
    exact h3.done

theorem Iss.Canon.moveLanes {g : Gen} {x : Iss} {src dst : List Nat} (h : x.Canon) :
    (moveLanes g x src dst).Canon := by
  unfold Machine.moveLanes
  extract_lets +onlyGivenNames pairs
  clear_value pairs
  exact h.done

theorem State.Canon.execCompress {g : Gen} {s : State} (h : s.Canon) : OutCanon (execCompress g s) := by
  unfold Machine.execCompress
  exact State.Canon.issueWave (fun _ h1 => h1.moveLanes) h

theorem State.Canon.execExpand {g : Gen} {s : State} (h : s.Canon) : OutCanon (execExpand g s) := by
  unfold Machine.execExpand
  exact State.Canon.issueWave (fun _ h1 => h1.moveLanes) h

theorem State.Canon.execLda {g : Gen} {s : State} (h : s.Canon) : OutCanon (execLda g s) := by
  unfold Machine.execLda
  refine State.Canon.issueWave (fun a h3 => ?_) h
  split
  · exact h3.failWith h3.state
  · extract_lets +onlyGivenNames word w
    clear_value word w
    exact h3.done

theorem State.Canon.execSta {g : Gen} {s : State} (h : s.Canon) : OutCanon (execSta g s) := by
  unfold Machine.execSta
  refine State.Canon.issueWave (fun a h3 => ?_) h
  split
  · exact h3.failWith h3.state
  · extract_lets +onlyGivenNames id w
    clear_value id w
    extract_lets +onlyGivenNames w1
    clear_value w1
    exact h3.done

end Sys2Proof.Machine
end

section
/-! SUPPORT. Canonical memories under SYS and the service waves' events (Machine/Sys). -/

namespace Sys2Proof.Machine

theorem Iss.Canon.illegal {x : Iss} {e : Nat} (h : x.Canon) : (x.illegal e).Canon := by
  unfold Iss.illegal
  exact h.raise

theorem Iss.Canon.sysArgs {x : Iss} {g : Gen} {useA useB : Bool} {k : DWord → Nat → Res} (h : x.Canon)
    (h1 : ∀ (a : DWord) (a_1 : Nat), (k a a_1).Canon) : (x.sysArgs g useA useB k).Canon := by
  unfold Iss.sysArgs
  extract_lets +onlyGivenNames a b
  clear_value a b
  split
  · exact h.raise
  · exact h1 _ _

theorem Iss.Canon.sysCtx {x : Iss} {b : Nat} {k : Nat → Res} (h : x.Canon) (h1 : ∀ (a : Nat), (k a).Canon) :
    (x.sysCtx b k).Canon := by
  unfold Iss.sysCtx
  split
  · exact h.illegal
  · exact h1 _

theorem State.Canon.execSysSmovr {g : Gen} {s : State} (h : s.Canon) : OutCanon (execSysSmovr g s) := by
  unfold Machine.execSysSmovr
  refine State.Canon.issueWave (fun a h3 => ?_) h
  refine Iss.Canon.sysArgs h3 (fun a1 a2 => ?_)
  extract_lets +onlyGivenNames give lane
  have hgive : ∀ (v : Val64), (give v).Canon := by
    intro x
    unfold give
    exact h3.done
  clear_value give
  clear_value lane
  split
  · exact h3.illegal
  · exact hgive _
  · split
    · exact h3.illegal
    · exact hgive _
  · split
    · exact h3.illegal
    · exact hgive _
  · split
    · exact h3.illegal
    · split
      · exact h3.raise
      · split
        · exact h3.raise
        · extract_lets +onlyGivenNames p
          clear_value p
          split
          · exact h3.state
          · exact hgive _

theorem State.Canon.execSysSmovw {g : Gen} {s : State} (h : s.Canon) : OutCanon (execSysSmovw g s) := by
  unfold Machine.execSysSmovw
  refine State.Canon.issueWave (fun a h3 => ?_) h
  refine Iss.Canon.sysArgs h3 (fun a1 a2 => ?_)
  extract_lets +onlyGivenNames w put lane
  have hput : ∀ (y : SysRegs), (put y).Canon := by
    intro x
    unfold put
    exact h3.done
  clear_value put
  clear_value w lane
  split
  · exact hput _
  · exact hput _
  · exact h3.done
  · split
    · exact h3.illegal
    · exact hput _
  · split
    · exact h3.illegal
    · exact h3.illegal
    · split
      · exact h3.illegal
      · split <;> exact h3.done
    · split
      · exact h3.illegal
      · extract_lets +onlyGivenNames f
        clear_value f
        exact h3.done
    · split
      · exact h3.illegal
      · split
        · exact h3.raise
        · split
          · exact h3.raise
          · extract_lets +onlyGivenNames p
            clear_value p
            split
            · exact h3.state
            · extract_lets +onlyGivenNames one
              clear_value one
              exact h3.done

theorem State.Canon.execSysSret {g : Gen} {s : State} (h : s.Canon) : OutCanon (execSysSret g s) := by
  unfold Machine.execSysSret
  refine State.Canon.issueWave (fun a h3 => ?_) h
  split
  · exact h3.state
  · exact h3.state.returnFromTrap

theorem Iss.Canon.recordDone {x : Iss} {s : State} {a : DWord} (_ : x.Canon) (h1 : s.Canon) :
    (x.recordDone s a).Canon := by
  unfold Iss.recordDone
  exact h1.modWave

theorem State.Canon.execSysClaimd {g : Gen} {s : State} (h : s.Canon) : OutCanon (execSysClaimd g s) := by
  unfold Machine.execSysClaimd
  refine State.Canon.issueWave (fun a h3 => ?_) h
  refine Iss.Canon.sysArgs h3 (fun a1 a2 => ?_)
  split
  · exact h3.recordDone h3.state
  · split
    · exact h3.illegal
    · exact h3.state.returnFromTrap

theorem State.Canon.execSysClaimf {g : Gen} {s : State} (h : s.Canon) : OutCanon (execSysClaimf g s) := by
  unfold Machine.execSysClaimf
  refine State.Canon.issueWave (fun a h3 => ?_) h
  refine Iss.Canon.sysArgs h3 (fun a1 a2 => ?_)
  split
  · split
    · exact h3.recordDone h3.state
    · extract_lets +onlyGivenNames f
      clear_value f
      exact h3.recordDone h3.state.setPnat.sendMsix
  · split
    · exact h3.illegal
    · extract_lets +onlyGivenNames w y cause r w1
      clear_value w y cause r w1
      exact h3.state.putWave

theorem State.Canon.execServiceEventDispatch {die : Nat} {s : State} (h : s.Canon) : OutCanon
    (execServiceEventDispatch die s) := by
  unfold Machine.execServiceEventDispatch
  change State.Canon _
  split
  · split
    · exact h
    · exact h.modWave.modDev
  · exact h

theorem State.Canon.execSysTlbinv {g : Gen} {s : State} (h : s.Canon) : OutCanon (execSysTlbinv g s) := by
  unfold Machine.execSysTlbinv
  refine State.Canon.issueWait (fun a h3 => ?_) h
  refine Iss.Canon.sysArgs h3 (fun a1 a2 => ?_)
  refine Iss.Canon.sysCtx h3 (fun a3 => ?_)
  split
  · exact h3.illegal
  · split
    rename_i e
    have h4 : State.Canon _ := Canon.of_eq (P := OnSnd State.Canon) e h3.state.choose
    extract_lets +onlyGivenNames s1
    have hs1 : s1.Canon := by
      unfold s1
      split
      · exact h4.dropTlb
      · exact h4
    clear_value s1
    exact hs1.modWave

theorem State.Canon.execSysTlbsync {g : Gen} {s : State} (h : s.Canon) : OutCanon (execSysTlbsync g s) := by
  unfold Machine.execSysTlbsync
  exact State.Canon.issueWait (fun _ h1 => h1.state) h

theorem State.Canon.execSysEvict {g : Gen} {s : State} (h : s.Canon) : OutCanon (execSysEvict g s) := by
  unfold Machine.execSysEvict
  refine State.Canon.issueWait (fun a h3 => ?_) h
  refine Iss.Canon.sysArgs h3 (fun a1 a2 => ?_)
  refine Iss.Canon.sysCtx h3 (fun a3 => ?_)
  split
  · exact h3.state
  · split
    · exact h3.state
    · extract_lets +onlyGivenNames s1
      have hs1 : s1.Canon := h3.state.startSaving.finishSaving
      clear_value s1
      exact hs1

theorem State.Canon.execSysWake {g : Gen} {s : State} (h : s.Canon) : OutCanon (execSysWake g s) := by
  unfold Machine.execSysWake
  refine State.Canon.issueWave (fun a h3 => ?_) h
  refine Iss.Canon.sysArgs h3 (fun a1 a2 => ?_)
  split
  · exact h3.illegal
  · split
    · exact h3.state
    · split
      next e => exact Canon.of_eq (P := DevAcc.Canon) e h3.state.reachPage
      next e1 => exact Canon.of_eq (P := DevAcc.Canon) e1 h3.state.reachPage
      next e2 =>
        have h6 : State.Canon _ := Canon.of_eq (P := DevAcc.Canon) e2 h3.state.reachPage
        extract_lets +onlyGivenNames s1 v
        have hs1 : s1.Canon := h6.meetErrors
        clear_value s1
        clear_value v
        split
        · exact hs1.setCtxState
        · exact hs1

theorem Iss.Canon.queueCtl {x : Iss} {op : QueueOp} {a : Nat} (h : x.Canon) : (x.queueCtl op a).Canon := by
  unfold Iss.queueCtl
  split
  · exact h.illegal
  · split
    · exact h.raise
    · split
      · exact h.state
      · split
        · split
          next e => exact Canon.of_eq (P := OnSome State.Canon) e h.state.queueWaits
          · exact OnSnd.out h.state.queueCommand
        · exact h.illegal

theorem Iss.Canon.contextCtl {x : Iss} {a : Nat} (h : x.Canon) : (x.contextCtl a).Canon := by
  unfold Iss.contextCtl
  extract_lets +onlyGivenNames code c
  clear_value code c
  split
  · exact h.state
  · split
    next e => exact Canon.of_eq (P := OnSome State.Canon) e h.state.commandNeeds
    · extract_lets +onlyGivenNames s
      have hs : s.Canon := h.state.contextCommand
      clear_value s
      split <;> exact hs

theorem State.Canon.execSysQctl {g : Gen} {s : State} (h : s.Canon) : OutCanon (execSysQctl g s) := by
  unfold Machine.execSysQctl
  refine State.Canon.issueWait (fun a h3 => ?_) h
  refine Iss.Canon.sysArgs h3 (fun a1 a2 => ?_)
  extract_lets +onlyGivenNames a3
  clear_value a3
  split
  · exact h3.queueCtl
  · exact h3.queueCtl
  · exact h3.queueCtl
  · exact h3.queueCtl
  · exact h3.contextCtl
  · split
    · exact h3.illegal
    · exact h3.state.setPartition
  · exact h3.illegal

theorem Iss.Canon.sysImage {x : Iss} {a : DWord} {k : State → List Byte → Res} (h : x.Canon)
    (h1 : ∀ (a : State) (a_1 : List Byte), a.Canon → (k a a_1).Canon) : (x.sysImage a k).Canon := by
  unfold Iss.sysImage
  extract_lets +onlyGivenNames extra
  clear_value extra
  split
  next e => exact Canon.of_eq (P := Located.Canon) e (h.locate (fun _ _ _ h3 => h3))
  next e1 =>
    have h4 : State.Canon _ := Canon.of_eq (P := Located.Canon) e1 (h.locate (fun _ _ _ h5 => h5))
    exact h.failWith h4
  next e2 =>
    have h6 : State.Canon _ := Canon.of_eq (P := Located.Canon) e2 (h.locate (fun _ _ _ h7 => h7))
    split
    next e3 => exact Canon.of_eq (P := ReadNow.Canon) e3 h6.readNow
    next e4 =>
      have h9 : State.Canon _ := Canon.of_eq (P := ReadNow.Canon) e4 h6.readNow
      exact h1 _ _ h9
  next e5 => exact Canon.of_eq (P := Located.Canon) e5 (h.locate (fun _ _ _ h11 => h11))

theorem State.Canon.writeSlot {s : State} {b : Nat} {bs : List Byte} (h : s.Canon) : (s.writeSlot b bs).Canon := by
  unfold State.writeSlot
  extract_lets +onlyGivenNames s1 s2
  have hs1 : s1.Canon := h.keepRoutes.modLink
  clear_value s1
  have hs2 : s2.Canon := hs1.coverErrors
  clear_value s2
  exact ⟨(Memory.wf_veil hs2.mem _ _ _), hs2.host, hs2.blocks⟩

theorem State.Canon.execSysRankw {g : Gen} {s : State} (h : s.Canon) : OutCanon (execSysRankw g s) := by
  unfold Machine.execSysRankw
  refine State.Canon.issueWave (fun a h3 => ?_) h
  refine Iss.Canon.sysArgs h3 (fun a1 a2 => ?_)
  split
  · exact h3.illegal
  · exact h3.sysImage (fun _ _ h4 => h4.writeSlot)

theorem State.Canon.execSysInj {g : Gen} {s : State} (h : s.Canon) : OutCanon (execSysInj g s) := by
  unfold Machine.execSysInj
  refine State.Canon.issueWave (fun a h3 => ?_) h
  refine Iss.Canon.sysArgs h3 (fun a1 a2 => ?_)
  split
  · exact h3.illegal
  · refine Iss.Canon.sysImage h3 (fun a3 a4 h6 => ?_)
    split
    · exact h6
    · exact h6.modLink

theorem State.Canon.execSysGkill {g : Gen} {s : State} (h : s.Canon) : OutCanon (execSysGkill g s) := by
  unfold Machine.execSysGkill
  refine State.Canon.issueWait (fun a h3 => ?_) h
  refine Iss.Canon.sysArgs h3 (fun a1 a2 => ?_)
  split
  · exact h3.illegal
  · split
    · exact h3.illegal
    · exact h3.state.killGang

theorem State.Canon.relaunchGang {s : State} {l : Launch} {g : Nat} (h : s.Canon) : (s.relaunchGang l g).Canon := by
  unfold State.relaunchGang
  extract_lets +onlyGivenNames core s1
  clear_value core s1
  extract_lets +onlyGivenNames s2
  have hs2 : s2.Canon := h.modCore
  clear_value s2
  extract_lets +onlyGivenNames s3
  have hs3 : s3.Canon := by
    unfold s3
    split
    · exact hs2.modGang
    · exact h.modSched.modGang
  clear_value s3
  exact hs3.modLaunch

theorem State.Canon.execSysGrelaunch {g : Gen} {s : State} (h : s.Canon) : OutCanon (execSysGrelaunch g s) := by
  unfold Machine.execSysGrelaunch
  refine State.Canon.issueWait (fun a h3 => ?_) h
  refine Iss.Canon.sysArgs h3 (fun a1 a2 => ?_)
  split
  · exact h3.illegal
  · split
    · exact h3.illegal
    · exact h3.state.count.relaunchGang

theorem State.Canon.execSysBiasset {g : Gen} {s : State} (h : s.Canon) : OutCanon (execSysBiasset g s) := by
  unfold Machine.execSysBiasset
  refine State.Canon.issueWait (fun a h3 => ?_) h
  refine Iss.Canon.sysArgs h3 (fun a1 a2 => ?_)
  split
  · exact h3.illegal
  · split
    · exact h3.illegal
    · split
      next e => exact Canon.of_eq (P := OnSnd State.Canon) e h3.state.biasset
      next e1 => exact Canon.of_eq (P := OnSnd State.Canon) e1 h3.state.biasset

end Sys2Proof.Machine
end

section
/-! SUPPORT. Canonical memories under the meaning of every instruction and event (Machine/Dispatch). -/

namespace Sys2Proof.Machine

theorem State.Canon.exec {i : Instr} {s : State} (h : s.Canon) : OutCanon (exec i s) := by
  unfold Machine.exec
  split
  · exact h.execPowerUp
  · exact h.execBootTrainingComplete
  · exact h.execReset
  · exact h.execHotReset
  · exact h.execFunctionLevelReset
  · exact h.execAttcmd
  · exact h.execQuoteComplete
  · exact h.execPowercap
  · exact h.execPowercapTakesEffect
  · exact h.execBridgefence
  · exact h.execRegisterWrite
  · exact h.execCreate
  · exact h.execSuspend
  · exact h.execResume
  · exact h.execDestroy
  · exact h.execWresume
  · exact h.execStop
  · exact h.execStart
  · exact h.execSkip
  · exact h.execRetry
  · exact h.execSysQctl
  · exact h.execHostInterruptSend
  · exact h.execSliceEnd
  · exact h.execWaitBudgetExceeded
  · exact h.execWaveSaveComplete
  · exact h.execRestoreWave
  · exact h.execReportedTrapDue
  · exact h.execServiceEventDispatch
  · exact h.execLaunchExamine
  · exact h.execDistributorTakeGang
  · exact h.execPlaceGang
  · exact h.execSteal
  · exact h.execGangHeadTimeout
  · exact h.execSplitRaise
  · exact h.execYieldExpiry
  · exact h.execCheckpoint
  · exact h.execCheckpointDiscard
  · exact h.execRegisterReturn
  · exact h.execSpill
  · exact h.execSpillRefill
  · exact h.execWaveEnd
  · exact h.execPermitGrant
  · exact h.execPermitIdleReturn
  · exact h.execArrayStart
  · exact h.execMmaComplete
  · exact h.execL1AgeLimit
  · exact h.execDrainOrder
  · exact h.execDrainAck
  · exact h.execHolderProbe
  · exact h.execProbeResponse
  · exact h.execHomeWriteback
  · exact h.execHostRead
  · exact h.execHostWrite
  · exact h.execBackInvalidationComplete
  · exact h.execHostSnoop
  · exact h.execCorePowerGate
  · exact h.execOutboundHoldEnd
  · exact h.execHomeRead
  · exact h.execHomeWrite
  · exact h.execHomeAtomic
  · exact h.execMemoryReply
  · exact h.execRedkContribution
  · exact h.execRedkResend
  · exact h.execPageRecheck
  · exact h.execHeaderWriteSeen
  · exact h.execEntryTake
  · exact h.execEngineBind
  · exact h.execEngineSteal
  · exact h.execChunkComplete
  · exact h.execGroupRequest
  · exact h.execGredResend
  · exact h.execGredResult
  · exact h.execBarrierCellRequest
  · exact h.execCarryPost
  · exact h.execCarryForward
  · exact h.execBiasFlipComplete
  · exact h.execRemoteRequest
  · exact h.execRemoteReply
  · exact h.execRetransmitTimeout
  · exact h.execBusyResend
  · exact h.execRetirementNotice
  · exact h.execRetirementAck
  · exact h.execPortStateChange
  · exact h.execInjectorTrigger
  · exact h.execInjectorDelayEnd
  · exact h.execSlotReleaseNotice
  · exact h.execInterruptSend
  · exact h.execInterruptDelivery
  · exact h.execStrikeReport
  · exact h.execNop
  · exact h.execBra
  · exact h.execBrx
  · exact h.execCall
  · exact h.execCallx
  · exact h.execRet
  · exact h.execEnter
  · exact h.execExit
  · exact h.execRegion
  · exact h.execMode
  · exact h.execModeSet
  · exact h.execModeClr
  · exact h.execModerd
  · exact h.execYield
  · exact h.execTrap
  · exact h.execBrk
  · exact h.execWaitc
  · exact h.execSysSret
  · exact h.execSysSmovr
  · exact h.execSysSmovw
  · exact h.execSysTlbinv
  · exact h.execSysTlbsync
  · exact h.execSysEvict
  · exact h.execSysRankw
  · exact h.execSysClaimd
  · exact h.execSysClaimf
  · exact h.execSysInj
  · exact h.execSysGkill
  · exact h.execSysGrelaunch
  · exact h.execSysBiasset
  · exact h.execSysWake
  · exact h.execIadd
  · exact h.execIsub
  · exact h.execImul
  · exact h.execImulh
  · exact h.execImad
  · exact h.execImin
  · exact h.execImax
  · exact h.execAnd
  · exact h.execOr
  · exact h.execXor
  · exact h.execShl
  · exact h.execShr
  · exact h.execSar
  · exact h.execBits
  · exact h.execIset
  · exact h.execSel
  · exact h.execMov
  · exact h.execMovl
  · exact h.execLea
  · exact h.execCvt
  · exact h.execPack
  · exact h.execUnpk
  · exact h.execPlog
  · exact h.execPmov
  · exact h.execRdlane
  · exact h.execWrlane
  · exact h.execFadd
  · exact h.execFsub
  · exact h.execFmul
  · exact h.execFfma
  · exact h.execFmin
  · exact h.execFmax
  · exact h.execFset
  · exact h.execFrnd
  · exact h.execFdiv
  · exact h.execSfu
  · exact h.execPkfma
  · exact h.execPkadd
  · exact h.execPkmul
  · exact h.execFdot
  · exact h.execFclass
  · exact h.execFscl
  · exact h.execPerm
  · exact h.execBallot
  · exact h.execVote
  · exact h.execMatchl
  · exact h.execScanl
  · exact h.execRedl
  · exact h.execTopk
  · exact h.execCompress
  · exact h.execExpand
  · exact h.execLda
  · exact h.execSta
  · exact h.execLd
  · exact h.execSt
  · exact h.execAtom
  · exact h.execRed
  · exact h.execCas
  · exact h.execRedk
  · exact h.execFence
  · exact h.execPref
  · exact h.execCstore
  · exact h.execCwait
  · exact h.execWback
  · exact h.execInvl
  · exact h.execTld
  · exact h.execTtag
  · exact h.execMma
  · exact h.execMmas
  · exact h.execGathr
  · exact h.execAccz
  · exact h.execAccld
  · exact h.execAccst
  · exact h.execAccrd
  · exact h.execAccwr
  · exact h.execPermit
  · exact h.execPermitRel
  · exact h.execQpush
  · exact h.execQwait
  · exact h.execPutf
  · exact h.execPutm
  · exact h.execPutmRel
  · exact h.execColl
  · exact h.execCpost
  · exact h.execCpeek
  · exact h.execCpeekOut
  · exact h.execUint
  · exact h.execUiret
  · exact h.execUictlMask
  · exact h.execUictlUnmask
  · exact h.execUictlAck
  · exact h.execUictlQuery
  · exact h.execGjoin
  · exact h.execGleave
  · exact h.execGred
  · exact h.execBsync
  · exact h.execBarInit
  · exact h.execBarArrive
  · exact h.execBarExpect
  · exact h.execBarWait
  · exact h.execBarTest
  · exact h.execPowerRemoved
  · exact h.execReservedOpcode
  · exact h.execSfuComplete
  · exact h.execHostCopyReturn
  · exact h.execExclusiveOwnershipGrant

end Sys2Proof.Machine
end

section
/-! SUPPORT. Canonical memories under the passing of a clock (Machine/Clock). -/

namespace Sys2Proof.Machine

theorem State.Canon.after {s : State} {r : Host.Outcome State Fault Refusal} (h : s.Canon) (h1 : OutCanon r) :
    (s.after r).Canon := by
  unfold State.after
  split
  · exact h1
  · exact h

theorem State.Canon.tryIssue {order : List (Nat × Nat)} {t : State} (h : t.Canon) : OutCanon (tryIssue order t) := by
  induction order generalizing t with
  | nil =>
    unfold Machine.tryIssue
    exact h
  | cons x order ih =>
    unfold Machine.tryIssue
    split
    next e =>
      have h1 : State.Canon _ := Canon.of_eq (P := Offer.Canon) e h.offer
      exact ih h1
    next e1 => exact Canon.of_eq (P := Offer.Canon) e1 h.offer
    next e2 =>
      have h3 : State.Canon _ := Canon.of_eq (P := Offer.Canon) e2 h.offer
      split
      next e3 =>
        have h4 : State.Canon _ := Canon.of_eq (P := OutCanon) e3 h3.exec
        split
        · exact ih (h4.frame rfl rfl rfl)
        · exact h4
      · exact h3.exec

theorem State.Canon.issueMove {q : Nat} {s : State} (h : s.Canon) : OutCanon (issueMove q s) := by
  unfold Machine.issueMove
  split
  · split
    next e =>
      have h1 : State.Canon _ := Canon.of_eq (P := OnSnd State.Canon) e h.tableRead
      exact h1.tryIssue
    next e1 => exact Canon.of_eq (P := OnSnd State.Canon) e1 h.tableRead
  · exact h

theorem State.Canon.tick {s : State} (h : s.Canon) : s.tick.Canon := by
  unfold State.tick
  extract_lets +onlyGivenNames s1 s' s'1
  have hs1 : s1.Canon := by
    unfold s1
    refine State.Canon.foldl h fun s2 x h3 => ?_
    extract_lets +onlyGivenNames s3
    have hs3 : s3.Canon := h3.claimTick
    clear_value s3
    split
    · extract_lets +onlyGivenNames n
      clear_value n
      exact hs3.modCtx.setEntry
    · exact hs3
  clear_value s1
  have hs'1 : s'1.Canon := hs1.frame rfl rfl rfl
  clear_value s'1
  clear_value s'
  extract_lets +onlyGivenNames s'2
  have hs'2 : s'2.Canon := hs'1.errors
  clear_value s'2
  exact hs'2.frame rfl rfl rfl

theorem State.Canon.dueWaves {s : State} (h : s.Canon) : s.dueWaves.Canon := by
  unfold State.dueWaves
  refine State.Canon.foldl h fun s1 x h2 => ?_
  extract_lets +onlyGivenNames s2 s3
  have hs2 : s2.Canon := h2.takeDues
  clear_value s2
  have hs3 : s3.Canon := by
    unfold s3
    refine State.Canon.foldl hs2 fun s4 x1 h5 => ?_
    split
    · exact h5.after h5.execSplitRaise
    · exact h5
  clear_value s3
  split
  · exact hs3.after hs3.execCheckpoint
  · exact hs3

theorem State.Canon.dueCores {s : State} (h : s.Canon) : s.dueCores.Canon := by
  unfold State.dueCores
  refine State.Canon.foldl h fun s1 x h2 => ?_
  extract_lets +onlyGivenNames c old s2
  have hs2 : s2.Canon := h2.foldl (fun _ _ h3 => (h3.after h3.execL1AgeLimit))
  clear_value s2
  clear_value c old
  split
  · exact hs2.after hs2.execGangHeadTimeout
  · exact hs2

theorem State.Canon.dueGrants {s : State} {die a : Nat} (h : s.Canon) : (s.dueGrants die a).Canon := by
  induction a generalizing s with
  | zero =>
    unfold State.dueGrants
    exact h
  | succ a ih =>
    unfold State.dueGrants
    split
    · exact h.frame rfl rfl rfl
    · split
      · exact ih (h.after h.execPermitGrant)
      · exact h

theorem State.Canon.duePermits {s : State} (h : s.Canon) : s.duePermits.Canon := by
  unfold State.duePermits
  extract_lets +onlyGivenNames s1
  have hs1 : s1.Canon := by
    unfold s1
    refine State.Canon.foldl h fun s2 x h3 => ?_
    split
    · exact h3.after h3.execPermitIdleReturn
    · exact h3
  clear_value s1
  exact hs1.dueGrants.dueGrants

theorem State.Canon.dueContexts {s : State} (h : s.Canon) : s.dueContexts.Canon := by
  unfold State.dueContexts
  refine State.Canon.foldl h fun s1 x h2 => ?_
  extract_lets +onlyGivenNames ws
  clear_value ws
  split
  · exact h2.contextPlaced
  · exact h2

theorem State.Canon.dueRechecks {s : State} (h : s.Canon) : s.dueRechecks.Canon := by
  unfold State.dueRechecks
  extract_lets +onlyGivenNames now s1
  have hs1 : s1.Canon := h.modDev
  clear_value s1
  clear_value now
  refine State.Canon.foldl hs1 fun s2 x h2 => ?_
  split
  · exact h2
  · exact h2.after h2.execPageRecheck

theorem State.Canon.dueIssues {s : State} (h : s.Canon) : s.dueIssues.Canon := by
  unfold State.dueIssues
  split
  · refine State.Canon.foldl h fun s1 x h2 => ?_
    split
    · exact h2.after h2.issueMove
    · exact h2
  · exact h

theorem State.Canon.askPermits {s : State} (h : s.Canon) : s.askPermits.Canon := by
  unfold State.askPermits
  refine State.Canon.foldl h fun s1 x h2 => ?_
  split
  · exact h2
  · exact h2.askPermit

theorem State.Canon.dueScalars {s : State} (h : s.Canon) : s.dueScalars.Canon := by
  unfold State.dueScalars
  refine State.Canon.foldl h fun s1 x h2 => ?_
  split
  split
  · exact h2
  · extract_lets +onlyGivenNames s2
    have hs2 : s2.Canon := by
      unfold s2
      refine State.Canon.putWave ?_
      refine State.Canon.foldl h2 fun s3 x1 h7 => ?_
      split
      · exact h7.retireScalar
      · exact h7
    clear_value s2
    split
    · exact hs2
    · exact hs2.leaveCores

theorem State.Canon.clock {s : State} (h : s.Canon) : s.clock.Canon := by
  unfold State.clock
  have hcores := h.dueIssues.askPermits.tick.dueScalars.dueWaves.readAccsts.dueCores
  exact hcores.dueContexts.duePermits.dueRechecks.takeSlots.pollStanding.runCommand

end Sys2Proof.Machine
end

section
/-! SUPPORT. Canonical memories under a step (Machine/Step). -/

namespace Sys2Proof.Machine

theorem State.Canon.perform {m : Move} {s : State} (h : s.Canon) : OutCanon (perform m s) := by
  unfold Machine.perform
  split
  · change State.Canon _
    split
    · exact h.clock
    · exact h
  · exact h.issueMove
  · split
    · exact h.exec
    · exact h

theorem State.Canon.step {s : State} (h : s.Canon) : OutCanon (step s) := by
  unfold Machine.step
  split <;> exact State.Canon.perform (h.frame rfl rfl rfl)

end Sys2Proof.Machine
end

section
/-! CLAIM. Every step keeps every memory in its canonical form. -/

namespace Sys2Proof.Machine

/-- Settles O59: each function that a step may call keeps the device's memory, the host's and every block's scratch
canonical (`State.Canon`), from the operations that write a memory up to `State.Canon.step`. -/
theorem stepKeepsMemoriesCanonical : Obligations.StepKeepsMemoriesCanonical := by
  unfold Obligations.StepKeepsMemoriesCanonical
  intro s t hs ht
  have hstep : OutCanon (step s) := (State.canon_iff.1 hs).step
  rw [ht] at hstep
  exact State.canon_iff.2 hstep

end Sys2Proof.Machine
end
